-- ==== Sys2Proof/Word.lean ====
section
/-! DEFINITION. The word types of the Aedweso package (R9, R11): bytes, halfwords, lanes, scalar words. -/

namespace Sys2Proof

abbrev W8 := BitVec 8
abbrev W16 := BitVec 16
abbrev W32 := BitVec 32
abbrev W64 := BitVec 64

/-- A sparse table: keys strictly rising, no entry equal to what an unlisted key reads as
(`Tab.wf` in Machine/Tab.lean states the form). -/
abbrev Tab (α : Type) := List (Nat × α)

end Sys2Proof
end

