-- ==== Sys2Proof/Syntax.lean ====
section
/-! DEFINITION. The syntax of the opcode table: the 288 opcodes of R242 (0x121 carries two rows, R326) in the
seven formats of R238, and the device events of the table, each with the data that it carries. -/

namespace Sys2Proof

/-- A 10-bit source selector (R235). `spc` is the special class. -/
inductive Src where
  | vec (n : W8)
  | sca (n : BitVec 7)
  | inl (k : W8)
  | spc (k : W8)
deriving DecidableEq, Repr, Inhabited

/-- A register operand of M and A format (R238, DATA). -/
inductive Reg where
  | vec (n : W8)
  | sca (n : BitVec 7)
deriving DecidableEq, Repr, Inhabited

/-- Element types of a vector lane (R199), in code order. -/
inductive ETy where
  | i32 | n32 | i64 | n64 | i16x2 | n16x2 | i8x4 | n8x4
  | f32 | f16x2 | bf16x2 | e4m3x4 | e5m2x4 | e2m1x8 | f16 | bf16
deriving DecidableEq, Repr, Inhabited

/-- Comparisons of S format (R238, COND), of SCMP and VCMP. -/
inductive Cond where
  | eq | ne | lt | le | gt | ge
deriving DecidableEq, Repr, Inhabited

/-- Tests of CREG in B format (R238, COND). -/
inductive BCond where
  | always | zero | nonzero | negative | notNegative | positive | notPositive
deriving DecidableEq, Repr, Inhabited

/-- Address spaces of M format (R238, SPACE). -/
inductive Space where
  | global | scratch | cluster | param
deriving DecidableEq, Repr, Inhabited

/-- Access widths (R238, R297). -/
inductive Width where
  | b8 | b16 | b32 | b64 | b128 | b256
deriving DecidableEq, Repr, Inhabited

/-- Memory orders (R101). -/
inductive Order where
  | rlx | acq | rel | ar | sc
deriving DecidableEq, Repr, Inhabited

/-- Scopes (R100). -/
inductive Scope where
  | wave | squad | core | cluster | die | pkg | sys | fabric
deriving DecidableEq, Repr, Inhabited

/-- Atomic operations (R238, AOP). -/
inductive Aop where
  | add | min | max | and | or | xor | xchg | incw | decw
deriving DecidableEq, Repr, Inhabited

/-- The fields that every slot begins with (R233), without OP (DEDUCED, unsafe, log 30). -/
structure Head where
  stall : BitVec 4
  pred : BitVec 5
  pneg : Bool
  zero : Bool
deriving DecidableEq, Repr, Inhabited

/-- A join's extension slot (R232) (DEDUCED, unsafe, log 28). -/
structure Ext where
  lit64 : W64
  ext32 : W32
deriving DecidableEq, Repr, Inhabited

/-- S format (R238). -/
structure SF where
  h : Head
  dst : BitVec 7
  a : Src
  b : Src
  imm : W32
  cond : Cond
  sub : BitVec 5
  ext : Option Ext
deriving DecidableEq, Repr, Inhabited

/-- V format (R238). `dst` is a vector register, or a mask register below 16. -/
structure VF where
  h : Head
  dst : W8
  a : Src
  b : Src
  c : Src
  modsel : BitVec 2
  mod : BitVec 12
  ty : ETy
  rnd : BitVec 3
  sat : Bool
  nega : Bool
  negb : Bool
  negc : Bool
  absa : Bool
  absb : Bool
  sub : BitVec 5
  ext : Option Ext
deriving DecidableEq, Repr, Inhabited

/-- B format (R238). -/
structure BF where
  h : Head
  creg : BitVec 7
  cond : BCond
  tslot : BitVec 3
  ldelta : BitVec 26
  rslot : BitVec 3
  rld : BitVec 13
  msrc : BitVec 4
  minv : Bool
  detach : Bool
  token : BitVec 6
  link : BitVec 7
deriving DecidableEq, Repr, Inhabited

/-- M format (R238). -/
structure MF where
  h : Head
  data : Reg
  base : BitVec 7
  index : Src
  shift : BitVec 3
  off : BitVec 24
  width : Width
  space : Space
  order : Order
  scope : Scope
  cpol : BitVec 3
  sub : BitVec 5
  ext : Option Ext
deriving DecidableEq, Repr, Inhabited

/-- A format (R238). `dst = none` is DST 0x1FF; `unsignedT` is AT. -/
structure AF where
  h : Head
  dst : Option Reg
  val : Src
  cmp : Src
  base : BitVec 7
  index : Src
  shift : BitVec 3
  off : BitVec 12
  ords : Order
  ordf : Order
  scope : Scope
  aop : Aop
  unsignedT : Bool
deriving DecidableEq, Repr, Inhabited

/-- X format (R238). -/
structure XF where
  h : Head
  d0 : BitVec 7
  d1 : BitVec 7
  d2 : BitVec 7
  d3 : BitVec 7
  d4 : BitVec 7
  d5 : BitVec 7
  imm : W32
deriving DecidableEq, Repr, Inhabited

/-- Q format (R238). -/
structure QF where
  h : Head
  dst : BitVec 7
  a : Src
  xreg : BitVec 12
  code : BitVec 16
deriving DecidableEq, Repr, Inhabited

/-- A stream of a wave of a squad: `fid` 0 is the wave, 1 to 4 its fragments (R164). -/
structure StreamId where
  sid : Nat
  widx : Nat
  fid : Nat
deriving DecidableEq, Repr, Inhabited


/-- The tag result of a sector read (R80). `unevaluable` is a tag word whose sector is uncorrectable. -/
inductive TagResult where
  | agrees | mismatch | unevaluable
deriving DecidableEq, Repr, Inhabited

/-- A sector read: the code's symbols that hold an error (R78), and the class of the path that reads (R83, R99). -/
structure SectorRead where
  symbols : Nat
  path : BitVec 4
deriving DecidableEq, Repr, Inhabited

/-- The resource whose exhaustion causes a false start (R159), or a FALSESTART decision (R373), or the
disposal of a doomed stripe (R57). -/
inductive Exhausted where
  | registers | scratchpad | time | consumption | doomed
deriving DecidableEq, Repr, Inhabited

/-- What the checks of a matrix chunk found (R370, R375). -/
structure ChunkMismatch where
  chunk : BitVec 4
  row : BitVec 7
  col : BitVec 7
  rows : W8
  cols : W8
deriving DecidableEq, Repr, Inhabited

/-- A die-link flit (R384). -/
structure Flit where
  seq : BitVec 12
  ackseq : BitVec 12
  kind : BitVec 4
  reserved : BitVec 4
  payload : List W8
  crc : W32
deriving DecidableEq, Repr, Inhabited

/-- A Byette packet (R389). The TYPE of one that an event of the table receives is the one that its row names. -/
structure Packet where
  trim : Bool
  ordered : Bool
  last : Bool
  path : BitVec 2
  cls : BitVec 3
  src : W8
  dst : W8
  flow : W8
  domain : W8
  len : BitVec 16
  psn : W32
  opid : W32
  addr : W64
  aux : W32
  trims : W8
  payload : List W8
  type : W8 := 1
  reserved : BitVec 24 := 0
  /-- Units of 64 bytes of the payload that hold poison (R322), and the port that sees the packet (R389, R396): no part of the header
  (DESIGN CHOICE, unsafe, log 12). -/
  poison : List Nat := []
  port : BitVec 4 := 0
deriving DecidableEq, Repr, Inhabited

/-- A unit of a set fetched from a survivor in stage 5 (R147): data unit `index` of member `member`, or, with
`parity`, its parity unit. `bad` are its poisoned bytes. Step, CSEQ and slots are those of the survivor's FIXED capture, which a spare takes
over. -/
structure StripeUnit where
  set : Nat
  member : Nat
  parity : Bool
  index : Nat
  bytes : List W8
  bad : List Nat
  step : W16 := 0
  cseq : Nat := 0
  slot : Nat := 0
  par : Nat := 0
deriving DecidableEq, Repr, Inhabited

/-- One constructor per row of the opcode table. The first 289 are instructions that a stream issues;
the rest are events of the device, the supervisor, the host, the links and the fabric. -/
inductive Instr where
  /-- SADD (R245). -/
  | sadd (f : SF)
  /-- SSUB (R245). -/
  | ssub (f : SF)
  /-- SMUL (R245). -/
  | smul (f : SF)
  /-- SMULH_I (R245). -/
  | smulhI (f : SF)
  /-- SMULH_N (R245). -/
  | smulhN (f : SF)
  /-- SDIV_I (R246). -/
  | sdivI (f : SF)
  /-- SDIV_N (R246). -/
  | sdivN (f : SF)
  /-- SREM_I (R246). -/
  | sremI (f : SF)
  /-- SREM_N (R246). -/
  | sremN (f : SF)
  /-- SAND (R245). -/
  | sand (f : SF)
  /-- SOR (R245). -/
  | sor (f : SF)
  /-- SXOR (R245). -/
  | sxor (f : SF)
  /-- SANDN (R245). -/
  | sandn (f : SF)
  /-- SSHL (R245). -/
  | sshl (f : SF)
  /-- SSHR (R245). -/
  | sshr (f : SF)
  /-- SSRA (R245). -/
  | ssra (f : SF)
  /-- SROT (R245). -/
  | srot (f : SF)
  /-- SMIN_I (R245). -/
  | sminI (f : SF)
  /-- SMIN_N (R245). -/
  | sminN (f : SF)
  /-- SMAX_I (R245). -/
  | smaxI (f : SF)
  /-- SMAX_N (R245). -/
  | smaxN (f : SF)
  /-- SCMP_I (R245). -/
  | scmpI (f : SF)
  /-- SCMP_N (R245). -/
  | scmpN (f : SF)
  /-- SSEL (R245). -/
  | ssel (f : SF)
  /-- SMOV (R245). -/
  | smov (f : SF)
  /-- SLI (R245). -/
  | sli (f : SF)
  /-- SCLZ (R245). -/
  | sclz (f : SF)
  /-- SPOPC (R245). -/
  | spopc (f : SF)
  /-- SBFX_I (R247). -/
  | sbfxI (f : SF)
  /-- SBFX_N (R247). -/
  | sbfxN (f : SF)
  /-- SBFI (R247). -/
  | sbfi (f : SF)
  /-- SADDR (R245). -/
  | saddr (f : SF)
  /-- SSEXT (R245). -/
  | ssext (f : SF)
  /-- SABS (R245). -/
  | sabs (f : SF)
  /-- SFADD (R249). -/
  | sfadd (f : SF)
  /-- SFMUL (R249). -/
  | sfmul (f : SF)
  /-- SFFMA (R249). -/
  | sffma (f : SF)
  /-- SFDIV (R249). -/
  | sfdiv (f : SF)
  /-- SFSQRT (R249). -/
  | sfsqrt (f : SF)
  /-- SFMIN (R249). -/
  | sfmin (f : SF)
  /-- SFMAX (R249). -/
  | sfmax (f : SF)
  /-- SFCMP (R250). -/
  | sfcmp (f : SF)
  /-- SFCVT (R251). -/
  | sfcvt (f : SF)
  /-- BRA (R253). -/
  | bra (f : BF)
  /-- BRV (R254). -/
  | brv (f : BF)
  /-- JMP (R256). -/
  | jmp (f : BF)
  /-- JMPV (R255). -/
  | jmpv (f : BF)
  /-- CALL (R256). -/
  | call (f : BF)
  /-- RET (R256). -/
  | ret (f : BF)
  /-- RJOIN (R166). -/
  | rjoin (f : BF)
  /-- DETACH (R258). -/
  | detach (f : BF)
  /-- LOOP (R257). -/
  | loop (f : BF)
  /-- EXIT (R259). -/
  | exit (f : BF)
  /-- TEND (R260). -/
  | tend (f : BF)
  /-- YIELD (R260). -/
  | yield (f : BF)
  /-- NAP (R260). -/
  | nap (f : BF)
  /-- NOP (R260). -/
  | nop (f : BF)
  /-- TRAP (R266). -/
  | trap (f : QF)
  /-- RTE (R364). -/
  | rte (f : QF)
  /-- XRD (R263). -/
  | xrd (f : QF)
  /-- XWR (R263). -/
  | xwr (f : QF)
  /-- XSET (R263). -/
  | xset (f : QF)
  /-- XCLR (R263). -/
  | xclr (f : QF)
  /-- SETFMT (R264). -/
  | setfmt (f : QF)
  /-- GETFMT (R264). -/
  | getfmt (f : QF)
  /-- TIME (R265). -/
  | time (f : QF)
  /-- WAITT (R265). -/
  | waitt (f : QF)
  /-- BKPT (R267). -/
  | bkpt (f : QF)
  /-- ERRACK (R267). -/
  | errack (f : QF)
  /-- SVC (R267). -/
  | svc (f : QF)
  /-- FENCEI (R268). -/
  | fencei (f : QF)
  /-- VADD (R272). -/
  | vadd (f : VF)
  /-- VSUB (R272). -/
  | vsub (f : VF)
  /-- VMUL (R272). -/
  | vmul (f : VF)
  /-- VMULH_I (R272). -/
  | vmulhI (f : VF)
  /-- VMULH_N (R272). -/
  | vmulhN (f : VF)
  /-- VMULW_I (R272). -/
  | vmulwI (f : VF)
  /-- VMULW_N (R272). -/
  | vmulwN (f : VF)
  /-- VMAD (R272). -/
  | vmad (f : VF)
  /-- VAND (R272). -/
  | vand (f : VF)
  /-- VOR (R272). -/
  | vor (f : VF)
  /-- VXOR (R272). -/
  | vxor (f : VF)
  /-- VANDN (R272). -/
  | vandn (f : VF)
  /-- VSHL (R272). -/
  | vshl (f : VF)
  /-- VSHLS (R272). -/
  | vshls (f : VF)
  /-- VSHR (R272). -/
  | vshr (f : VF)
  /-- VSRA (R272). -/
  | vsra (f : VF)
  /-- VROT (R272). -/
  | vrot (f : VF)
  /-- VMIN_I (R272). -/
  | vminI (f : VF)
  /-- VMIN_N (R272). -/
  | vminN (f : VF)
  /-- VMAX_I (R272). -/
  | vmaxI (f : VF)
  /-- VMAX_N (R272). -/
  | vmaxN (f : VF)
  /-- VCLAMP_I (R272). -/
  | vclampI (f : VF)
  /-- VCLAMP_N (R272). -/
  | vclampN (f : VF)
  /-- VABSD_I (R272). -/
  | vabsdI (f : VF)
  /-- VABSD_N (R272). -/
  | vabsdN (f : VF)
  /-- VAVG_I (R272). -/
  | vavgI (f : VF)
  /-- VAVG_N (R272). -/
  | vavgN (f : VF)
  /-- VADDS_I (R272). -/
  | vaddsI (f : VF)
  /-- VADDS_N (R272). -/
  | vaddsN (f : VF)
  /-- VSUBS_I (R272). -/
  | vsubsI (f : VF)
  /-- VSUBS_N (R272). -/
  | vsubsN (f : VF)
  /-- VDOT2_I (R273). -/
  | vdot2I (f : VF)
  /-- VDOT2_N (R273). -/
  | vdot2N (f : VF)
  /-- VDOT4_I (R273). -/
  | vdot4I (f : VF)
  /-- VDOT4_N (R273). -/
  | vdot4N (f : VF)
  /-- VRSHR_I (R272). -/
  | vrshrI (f : VF)
  /-- VRSHR_N (R272). -/
  | vrshrN (f : VF)
  /-- VNARROW_I (R273). -/
  | vnarrowI (f : VF)
  /-- VNARROW_N (R273). -/
  | vnarrowN (f : VF)
  /-- VWIDEN_I (R273). -/
  | vwidenI (f : VF)
  /-- VWIDEN_N (R273). -/
  | vwidenN (f : VF)
  /-- VCLZ (R272). -/
  | vclz (f : VF)
  /-- VPOPC (R272). -/
  | vpopc (f : VF)
  /-- VBFX_I (R274). -/
  | vbfxI (f : VF)
  /-- VBFX_N (R274). -/
  | vbfxN (f : VF)
  /-- VBFI (R274). -/
  | vbfi (f : VF)
  /-- VCMP_I (R275). -/
  | vcmpI (f : VF)
  /-- VCMP_N (R275). -/
  | vcmpN (f : VF)
  /-- VSEL (R275). -/
  | vsel (f : VF)
  /-- VMOV (R275). -/
  | vmov (f : VF)
  /-- VLUT (R275). -/
  | vlut (f : VF)
  /-- VFADD (R276). -/
  | vfadd (f : VF)
  /-- VFSUB (R276). -/
  | vfsub (f : VF)
  /-- VFMUL (R276). -/
  | vfmul (f : VF)
  /-- VFMA (R276). -/
  | vfma (f : VF)
  /-- VFMIN (R276). -/
  | vfmin (f : VF)
  /-- VFMIN_NUM (R276). -/
  | vfminNum (f : VF)
  /-- VFMAX (R276). -/
  | vfmax (f : VF)
  /-- VFMAX_NUM (R276). -/
  | vfmaxNum (f : VF)
  /-- VFCLAMP (R276). -/
  | vfclamp (f : VF)
  /-- VFAMAX (R276). -/
  | vfamax (f : VF)
  /-- VFSIGN (R276). -/
  | vfsign (f : VF)
  /-- VFLRP (R276). -/
  | vflrp (f : VF)
  /-- VFCMP (R277). -/
  | vfcmp (f : VF)
  /-- VFCLASS (R277). -/
  | vfclass (f : VF)
  /-- VFRCP (R278). -/
  | vfrcp (f : VF)
  /-- VFRSQ (R278). -/
  | vfrsq (f : VF)
  /-- VFSQRT (R278). -/
  | vfsqrt (f : VF)
  /-- VFDIV (R278). -/
  | vfdiv (f : VF)
  /-- VFEXP2 (R278). -/
  | vfexp2 (f : VF)
  /-- VFLOG2 (R278). -/
  | vflog2 (f : VF)
  /-- VFTANH (R278). -/
  | vftanh (f : VF)
  /-- VFERF (R278). -/
  | vferf (f : VF)
  /-- VFSIGM (R278). -/
  | vfsigm (f : VF)
  /-- VFSIN (R278). -/
  | vfsin (f : VF)
  /-- VFCOS (R278). -/
  | vfcos (f : VF)
  /-- VFRND (R276). -/
  | vfrnd (f : VF)
  /-- VFSCALE (R276). -/
  | vfscale (f : VF)
  /-- VFDOT2 (R276). -/
  | vfdot2 (f : VF)
  /-- VFCVTW (R280). -/
  | vfcvtw (f : VF)
  /-- VFCVTN (R281). -/
  | vfcvtn (f : VF)
  /-- VFCVTS (R281). -/
  | vfcvts (f : VF)
  /-- VICVT_I (R282). -/
  | vicvtI (f : VF)
  /-- VICVT_N (R282). -/
  | vicvtN (f : VF)
  /-- VFCVTI_I (R282). -/
  | vfcvtiI (f : VF)
  /-- VFCVTI_N (R282). -/
  | vfcvtiN (f : VF)
  /-- VFPACK4 (R283). -/
  | vfpack4 (f : VF)
  /-- VFUNPK4 (R283). -/
  | vfunpk4 (f : VF)
  /-- VADAM (R285). -/
  | vadam (f : VF)
  /-- MAND (R286). -/
  | mand (f : VF)
  /-- MOR (R286). -/
  | mor (f : VF)
  /-- MXOR (R286). -/
  | mxor (f : VF)
  /-- MANDN (R286). -/
  | mandn (f : VF)
  /-- MNOT (R286). -/
  | mnot (f : VF)
  /-- MMOV (R286). -/
  | mmov (f : VF)
  /-- MSHIFT (R286). -/
  | mshift (f : VF)
  /-- MPOPC (R287). -/
  | mpopc (f : VF)
  /-- MFIRST (R287). -/
  | mfirst (f : VF)
  /-- MLAST (R287). -/
  | mlast (f : VF)
  /-- MSET (R286). -/
  | mset (f : VF)
  /-- MGET (R287). -/
  | mget (f : VF)
  /-- VOTE_ANY (R288). -/
  | voteAny (f : VF)
  /-- VOTE_ALL (R288). -/
  | voteAll (f : VF)
  /-- VOTE_EQ (R288). -/
  | voteEq (f : VF)
  /-- VOTE_BALLOT (R288). -/
  | voteBallot (f : VF)
  /-- SHFL_IDX (R289). -/
  | shflIdx (f : VF)
  /-- SHFL_XOR (R289). -/
  | shflXor (f : VF)
  /-- VRED_INT (R290). -/
  | vredInt (f : VF)
  /-- VRED_FLOAT (R220). -/
  | vredFloat (f : VF)
  /-- VSCAN_INT (R291). -/
  | vscanInt (f : VF)
  /-- VSCAN_FLOAT (R221). -/
  | vscanFloat (f : VF)
  /-- VBCAST (R289). -/
  | vbcast (f : VF)
  /-- VEXT (R292). -/
  | vext (f : VF)
  /-- VINS (R292). -/
  | vins (f : VF)
  /-- VREV (R289). -/
  | vrev (f : VF)
  /-- VCOMPACT (R293). -/
  | vcompact (f : VF)
  /-- VRAGG (R294). -/
  | vragg (f : VF)
  /-- VLD_GLOBAL (R300). -/
  | vldGlobal (f : MF)
  /-- VLD_SCRATCH (R300). -/
  | vldScratch (f : MF)
  /-- VLD_CLUSTER (R300). -/
  | vldCluster (f : MF)
  /-- VST_GLOBAL (R302). -/
  | vstGlobal (f : MF)
  /-- VST_SCRATCH (R300). -/
  | vstScratch (f : MF)
  /-- VST_CLUSTER (R300). -/
  | vstCluster (f : MF)
  /-- VLDB (R300). -/
  | vldb (f : MF)
  /-- VLDX (R300). -/
  | vldx (f : MF)
  /-- VSTX (R300). -/
  | vstx (f : MF)
  /-- SLD_GLOBAL (R301). -/
  | sldGlobal (f : MF)
  /-- SLD_PARAM (R301). -/
  | sldParam (f : MF)
  /-- SST (R301). -/
  | sst (f : MF)
  /-- PREF (R303). -/
  | pref (f : MF)
  /-- CWB (R303). -/
  | cwb (f : MF)
  /-- CINV (R303). -/
  | cinv (f : MF)
  /-- ATOM_I32 (R305). -/
  | atomI32 (f : AF)
  /-- ATOM_I64 (R305). -/
  | atomI64 (f : AF)
  /-- ATOM_F32 (R305). -/
  | atomF32 (f : AF)
  /-- CAS_32 (R306). -/
  | cas32 (f : AF)
  /-- CAS_64 (R306). -/
  | cas64 (f : AF)
  /-- SATOM (R305). -/
  | satom (f : AF)
  /-- SCAS (R306). -/
  | scas (f : AF)
  /-- RED_I32 (R309). -/
  | redI32 (f : AF)
  /-- RED_I64 (R309). -/
  | redI64 (f : AF)
  /-- RED_F32 (R309). -/
  | redF32 (f : AF)
  /-- RED_BF16X2 (R309). -/
  | redBf16x2 (f : AF)
  /-- FENCE (R311). -/
  | fence (f : MF)
  /-- XFENCE (R113). -/
  | xfence (f : MF)
  /-- BAR (R312). -/
  | bar (f : MF)
  /-- BARA (R312). -/
  | bara (f : MF)
  /-- BARW (R312). -/
  | barw (f : MF)
  /-- WAITA_32 (R313). -/
  | waita32 (f : MF)
  /-- WAITA_64 (R313). -/
  | waita64 (f : MF)
  /-- WAKEA (R314). -/
  | wakea (f : MF)
  /-- PFLUSH (R315). -/
  | pflush (f : MF)
  /-- PFLUSHV (R315). -/
  | pflushv (f : MF)
  /-- PBAR (R316). -/
  | pbar (f : MF)
  /-- STEPSET (R317). -/
  | stepset (f : MF)
  /-- SNAP (R318). -/
  | snap (f : MF)
  /-- PSTAT (R319). -/
  | pstat (f : MF)
  /-- MMA_FP8 (R326). -/
  | mmaFp8 (f : XF)
  /-- MMA_BF16 (R326). -/
  | mmaBf16 (f : XF)
  /-- MMA_F16 (R326). -/
  | mmaF16 (f : XF)
  /-- MMA_INT8 (R326). -/
  | mmaInt8 (f : XF)
  /-- MMAS (R326). -/
  | mmas (f : XF)
  /-- MZERO (R330). -/
  | mzero (f : XF)
  /-- MLD (R330). -/
  | mld (f : XF)
  /-- MST (R331). -/
  | mst (f : XF)
  /-- MST_BAND (R331). -/
  | mstBand (f : XF)
  /-- MRD (R332). -/
  | mrd (f : XF)
  /-- MWR (R332). -/
  | mwr (f : XF)
  /-- MSCL (R330). -/
  | mscl (f : XF)
  /-- BATON_TAKE (R188). -/
  | batonTake (f : XF)
  /-- BATON_PASS (R188). -/
  | batonPass (f : XF)
  /-- BATON_QUERY (R324). -/
  | batonQuery (f : XF)
  /-- MWAIT (R333). -/
  | mwait (f : XF)
  /-- MACQ (R323). -/
  | macq (f : XF)
  /-- MREL (R323). -/
  | mrel (f : XF)
  /-- MSTEP (R333). -/
  | mstep (f : XF)
  /-- CPY (R336). -/
  | cpy (f : XF)
  /-- CPYF (R338). -/
  | cpyf (f : XF)
  /-- CPYM (R339). -/
  | cpym (f : XF)
  /-- CPYAT (R337). -/
  | cpyat (f : XF)
  /-- CPYZ (R340). -/
  | cpyz (f : XF)
  /-- CPYK (R341). -/
  | cpyk (f : XF)
  /-- CPYP (R342). -/
  | cpyp (f : XF)
  /-- CFILL (R342). -/
  | cfill (f : XF)
  /-- CCNL (R343). -/
  | ccnl (f : XF)
  /-- CQRY (R343). -/
  | cqry (f : XF)
  /-- GTHR_X32 (R344). -/
  | gthrX32 (f : XF)
  /-- GTHR_X64 (R344). -/
  | gthrX64 (f : XF)
  /-- SCTR (R344). -/
  | sctr (f : XF)
  /-- COLL_ALLREDUCE (R345). -/
  | collAllreduce (f : XF)
  /-- COLL_REDUCESCATTER (R345). -/
  | collReducescatter (f : XF)
  /-- COLL_ALLGATHER (R345). -/
  | collAllgather (f : XF)
  /-- COLL_BCAST (R345). -/
  | collBcast (f : XF)
  /-- COLLAT (R345). -/
  | collat (f : XF)
  /-- NVSUB (R348). -/
  | nvsub (f : XF)
  /-- NVDB (R349). -/
  | nvdb (f : XF)
  /-- NVCQ (R349). -/
  | nvcq (f : XF)
  /-- FPUT (R350). -/
  | fput (f : XF)
  /-- FPUTA (R350). -/
  | fputa (f : XF)
  /-- FGET (R350). -/
  | fget (f : XF)
  /-- FATOM_INT (R351). -/
  | fatomInt (f : XF)
  /-- FATOM_F32 (R351). -/
  | fatomF32 (f : XF)
  /-- FCAS (R351). -/
  | fcas (f : XF)
  /-- FFENCE (R352). -/
  | ffence (f : XF)
  /-- TENQ (R353). -/
  | tenq (f : XF)
  /-- TRENQ (R353). -/
  | trenq (f : XF)
  /-- TSET (R354). -/
  | tset (f : XF)
  /-- TSTAT (R354). -/
  | tstat (f : XF)
  /-- TWAIT (R354). -/
  | twait (f : XF)
  /-- TARG (R354). -/
  | targ (f : XF)
  /-- RGROW (R355). -/
  | rgrow (f : XF)
  /-- RSHRINK (R355). -/
  | rshrink (f : XF)
  /-- SPALLOC (R356). -/
  | spalloc (f : XF)
  /-- SPFREE (R356). -/
  | spfree (f : XF)
  /-- PIN (R357). -/
  | pin (f : XF)
  /-- TSPLIT (R357). -/
  | tsplit (f : XF)
  /-- GOPEN (R358). -/
  | gopen (f : XF)
  /-- GCLOSE (R358). -/
  | gclose (f : XF)
  /-- MMIO_REGISTER_WRITE (R10). -/
  | mmioRegisterWrite (pa : W64) (v : W64) (sup : Bool)
  /-- PARTITION_DESCRIPTOR_WRITE (R23). -/
  | partitionDescriptorWrite (p : BitVec 4) (off : BitVec 12) (v : W64) (sup : Bool)
  /-- KEY_LOAD (R25). -/
  | keyLoad (v : W64) (sup : Bool)
  /-- KEY_ERASE (R25). -/
  | keyErase (v : W64) (sup : Bool)
  /-- KEY_RELOAD (R25). -/
  | keyReload (v : W64) (sup : Bool)
  /-- XLRBASE_WRITE (R32). -/
  | xlrbaseWrite (die : BitVec 2) (v : W64) (sup : Bool)
  /-- XLRTAIL_WRITE (R32). -/
  | xlrtailWrite (die : BitVec 2) (v : W64) (sup : Bool)
  /-- FAULT_FIX (R35). -/
  | faultFix (v : W64) (sup : Bool)
  /-- FAULT_DENY (R35). -/
  | faultDeny (v : W64) (sup : Bool)
  /-- XLINV_PARTITION (R33). -/
  | xlinvPartition (v : W64) (sup : Bool)
  /-- XLINV_PAGE (R33). -/
  | xlinvPage (v : W64) (sup : Bool)
  /-- XLINV_PARTITION_ALL (R33). -/
  | xlinvPartitionAll (v : W64) (sup : Bool)
  /-- XLINV_KEY (R33). -/
  | xlinvKey (v : W64) (sup : Bool)
  /-- XLINV_ALL (R33). -/
  | xlinvAll (v : W64) (sup : Bool)
  /-- XLINV_DONE (R34). -/
  | xlinvDone
  /-- WALK_START (R29). -/
  | walkStart (die : BitVec 2) (part : BitVec 4) (page : BitVec 39)
  /-- WALK_COMPLETE (R29). -/
  | walkComplete (die : BitVec 2) (part : BitVec 4) (page : BitVec 39)
  /-- FAULT_RECORD_WRITE (R31). -/
  | faultRecordWrite (die : BitVec 2) (part : BitVec 4) (page : BitVec 39)
  /-- RRT_EXCHANGE (R54). -/
  | rrtExchange (core : BitVec 8) (v : W64) (sup : Bool)
  /-- RRT_EXCHANGE_MOVE (R54). -/
  | rrtExchangeMove (core : BitVec 8) (v : W64) (sup : Bool)
  /-- CORE_HALT (R54). -/
  | coreHalt (core : BitVec 8) (v : W64) (sup : Bool)
  /-- CORE_HALTED (R54). -/
  | coreHalted (core : BitVec 8)
  /-- CORE_RELEASE (R54). -/
  | coreRelease (core : BitVec 8) (v : W64) (sup : Bool)
  /-- RVT_WRITE (R49). -/
  | rvtWrite (core : BitVec 8) (idx : BitVec 11) (v : W64) (sup : Bool)
  /-- WAY_VIABILITY_WRITE (R69). -/
  | wayViabilityWrite (l2 : Bool) (unit : BitVec 8) (idx : BitVec 8) (v : W64) (sup : Bool)
  /-- OP_STEP_REQUEST (R55). -/
  | opStepRequest (v : W64) (sup : Bool)
  /-- OP_STEP_PLAN (R56). -/
  | opStepPlan
  /-- OP_STEP_ROW_MOVES (R56). -/
  | opStepRowMoves
  /-- OP_STEP_DISPOSE (R57). -/
  | opStepDispose
  /-- OP_STEP_WAYS (R56). -/
  | opStepWays
  /-- OP_STEP_RAMP (R56). -/
  | opStepRamp
  /-- OP_STEP_COMMIT (R56). -/
  | opStepCommit
  /-- OP_STEP_UP_RAISE (R59). -/
  | opStepUpRaise
  /-- OP_STEP_UP_SETTLED (R59). -/
  | opStepUpSettled
  /-- PARTITION_SWAP (R196). -/
  | partitionSwap (v : W64) (sup : Bool)
  /-- SWAP_DONE (R197). -/
  | swapDone
  /-- POST_REDERR (R367). -/
  | postRederr (v : W64) (sup : Bool)
  /-- POST_POSTED (R367). -/
  | postPosted (v : W64) (sup : Bool)
  /-- ASYNC_TRAP_ENTRY (R367). -/
  | asyncTrapEntry (who : StreamId)
  /-- FRZ_RESUME (R373). -/
  | frzResume (who : W32) (sup : Bool)
  /-- FRZ_REPLAY (R373). -/
  | frzReplay (who : W32) (sup : Bool)
  /-- FRZ_KILL (R373). -/
  | frzKill (who : W32) (sup : Bool)
  /-- FRZ_FALSESTART (R373). -/
  | frzFalsestart (who : W32) (sup : Bool)
  /-- FRZ_PARK (R373). -/
  | frzPark (who : W32) (sup : Bool)
  /-- FRZ_RELEASE (R372). -/
  | frzRelease (who : W32) (sup : Bool)
  /-- CRBASE_WRITE (R371). -/
  | crbaseWrite (die : BitVec 2) (v : W64) (sup : Bool)
  /-- CRTAIL_WRITE (R371). -/
  | crtailWrite (die : BitVec 2) (v : W64) (sup : Bool)
  /-- CONSUMPTION_RECORD_WRITE (R370). -/
  | consumptionRecordWrite (die : BitVec 2)
  /-- NVME_QUEUE_PAIR_WRITE (R383). -/
  | nvmeQueuePairWrite (qp : BitVec 10) (off : BitVec 6) (v : W64) (sup : Bool)
  /-- DOORBELL_WRIDX (R381). -/
  | doorbellWridx (part : BitVec 4) (q : BitVec 10) (v : W64)
  /-- DOORBELL_INLINE (R174). -/
  | doorbellInline (part : BitVec 4) (q : BitVec 10) (pkt : List W8)
  /-- HOST_BAR2_READ (R382). -/
  | hostBar2Read (part : BitVec 4) (off : BitVec 39) (n : Nat) (req : BitVec 16)
  /-- HOST_BAR2_WRITE (R382). -/
  | hostBar2Write (part : BitVec 4) (off : BitVec 39) (bytes : List W8) (req : BitVec 16)
  /-- CXL_SNOOP (R379). -/
  | cxlSnoop (pa : W64)
  /-- MAILBOX_GETINFO (R412). -/
  | mailboxGetinfo (fn : BitVec 5) (tag : BitVec 16) (args : List W8)
  /-- MAILBOX_ATTEST (R410). -/
  | mailboxAttest (fn : BitVec 5) (tag : BitVec 16) (args : List W8)
  /-- MAILBOX_SETOP (R412). -/
  | mailboxSetop (fn : BitVec 5) (tag : BitVec 16) (args : List W8)
  /-- MAILBOX_SETCAP (R411). -/
  | mailboxSetcap (fn : BitVec 5) (tag : BitVec 16) (args : List W8)
  /-- MAILBOX_HIST (R414). -/
  | mailboxHist (fn : BitVec 5) (tag : BitVec 16) (args : List W8)
  /-- FWSTAGE (R409). -/
  | fwstage (fn : BitVec 5) (tag : BitVec 16) (args : List W8)
  /-- FWCOMMIT (R409). -/
  | fwcommit (fn : BitVec 5) (tag : BitVec 16) (args : List W8)
  /-- PROOFLOAD (R376). -/
  | proofload (fn : BitVec 5) (tag : BitVec 16) (args : List W8)
  /-- PARTCFG (R412). -/
  | partcfg (fn : BitVec 5) (tag : BitVec 16) (args : List W8)
  /-- SVC_HOST_LOG (R413). -/
  | svcHostLog (die : BitVec 2)
  /-- SVC_MAILBOX_EVENT (R413). -/
  | svcMailboxEvent (die : BitVec 2)
  /-- SVC_REQUEST_OP (R413). -/
  | svcRequestOp (die : BitVec 2)
  /-- SVC_READ_COUNTER (R413). -/
  | svcReadCounter (die : BitVec 2)
  /-- SVC_REPLY (R267). -/
  | svcReply (die : BitVec 2)
  /-- INPUT_POWER_LOSS (R96). -/
  | inputPowerLoss
  /-- HOLDUP_RAILS_OFF (R96). -/
  | holdupRailsOff
  /-- DRAIN_RECORD_WRITE (R97). -/
  | drainRecordWrite
  /-- FULL_RESET (R408). -/
  | fullReset
  /-- BOOT_VERIFY (R409). -/
  | bootVerify
  /-- BOOT_RELEASE_CORES (R408). -/
  | bootReleaseCores (ok : Bool)
  /-- BOOT_TRAIN_LINKS (R408). -/
  | bootTrainLinks (ok : Bool)
  /-- BOOT_READ_RECORDS (R97). -/
  | bootReadRecords (confirmed : List Nat) (ok : Bool)
  /-- BOOT_TRAIN_PORTS (R408). -/
  | bootTrainPorts (ok : Bool)
  /-- BOOT_CREATE_PARTITIONS (R408). -/
  | bootCreatePartitions
  /-- MEMCTL_SECTOR_READ (R80): the read with its errors, the tag's result, and whether the block's state byte is uncorrectable. -/
  | memctlSectorRead (pa : W64) (read : SectorRead) (tag : TagResult) (stateBad : Bool)
  /-- L2_EVICTION (R66). -/
  | l2Eviction (pa : W64)
  /-- OWQ_DRAIN_ENTRY (R89). -/
  | owqDrainEntry (die : BitVec 2) (mediaError : Bool)
  /-- SCRUB_LINE (R84): the symbols of the worse sector that hold an error. -/
  | scrubLine (pa : W64) (symbols : Nat)
  /-- PBAR_COMPLETE (R93). -/
  | pbarComplete (who : StreamId)
  /-- LAP_BOUNDARY (R190). -/
  | lapBoundary
  /-- TIMED_ACTION_FIRE (R192). -/
  | timedActionFire
  /-- LAUNCH_PACKET_CONSUME (R176). -/
  | launchPacketConsume (part : BitVec 4) (q : BitVec 10)
  /-- ENQUEUE_BUFFER_DRAIN (R174). -/
  | enqueueBufferDrain
  /-- COORDINATOR_SELECT (R179). -/
  | coordinatorSelect
  /-- PLACE_INSTANCE (R182). -/
  | placeInstance (die : BitVec 2)
  /-- DISPATCH_AGE_RESERVE (R180). -/
  | dispatchAgeReserve (die : BitVec 2)
  /-- SPILL_REFILL (R181). -/
  | spillRefill (die : BitVec 2)
  /-- ALLOWANCE_EXPIRED (R159). -/
  | allowanceExpired (sid : Nat)
  /-- FALSE_START (R160). -/
  | falseStart (sid : Nat) (cause : Exhausted)
  /-- INSTANCE_END (R120). -/
  | instanceEnd (sid : Nat)
  /-- SQUAD_SAVE (R193), asked by Mladeno or not. -/
  | squadSave (sid : Nat) (asked : Bool)
  /-- SQUAD_RESTORE (R194). -/
  | squadRestore (sid : Nat) (core : BitVec 8)
  /-- STREAM_EXCHANGE (R186). -/
  | streamExchange (who : StreamId)
  /-- BATON_FORCED_PASS (R188). -/
  | batonForcedPass (core : BitVec 8)
  /-- MACRO_OP_STEP (R328). -/
  | macroOpStep (core : BitVec 8) (mismatch : Option ChunkMismatch)
  /-- CPYF_FOLLOWON_ENTER (R338). -/
  | cpyfFollowonEnter (cmd : Nat)
  /-- COPY_COMPLETE (R116). -/
  | copyComplete (cmd : Nat)
  /-- GATHER_COMPLETE (R344). -/
  | gatherComplete (cmd : Nat)
  /-- COLLECTIVE_COMPLETE (R347). -/
  | collectiveComplete (cmd : Nat)
  /-- BARRIER_WAKE (R312). -/
  | barrierWake (who : StreamId)
  /-- WAITA_RESUME (R313). -/
  | waitaResume (who : StreamId)
  /-- WAITA_POLL (R313). -/
  | waitaPoll (who : StreamId)
  /-- RED_COMBINE_FLUSH (R310). -/
  | redCombineFlush (die : BitVec 2) (pa : W64)
  /-- CONTENTION_WINDOW (R310). -/
  | contentionWindow (die : BitVec 2)
  /-- PROOF_KERNEL_DISPATCH (R183). -/
  | proofKernelDispatch (core : BitVec 8) (kernel : Nat)
  /-- PROOF_KERNEL_RESULT (R377). -/
  | proofKernelResult (core : BitVec 8) (output : List W8)
  /-- CAPTURE_WALK_START (R139). -/
  | captureWalkStart (die : BitVec 2) (set : BitVec 6)
  /-- COPY_ON_WRITE (R140). -/
  | copyOnWrite (pa : W64)
  /-- CAPTURE_DEVELOPED (R141). -/
  | captureDeveloped (set : BitVec 6)
  /-- CAPTURE_FIXED (R141). -/
  | captureFixed (set : BitVec 6)
  /-- CAPTURE_ABORT (R141). -/
  | captureAbort (set : BitVec 6) (sup : Bool)
  /-- PARITY_UNIT_SEND (R144). -/
  | parityUnitSend (set : BitVec 6) (unit : Nat)
  /-- HEARTBEAT_SEND (R145). -/
  | heartbeatSend
  /-- HEARTBEAT_MISS (R145). -/
  | heartbeatMiss (pkg : W8)
  /-- RECOVERY_DETECT (R145). -/
  | recoveryDetect (pkg : W8)
  /-- RECOVERY_FENCE (R145). -/
  | recoveryFence
  /-- RECOVERY_ABORT (R145). -/
  | recoveryAbort
  /-- RECOVERY_TREES (R146). -/
  | recoveryTrees
  /-- RECOVERY_REBUILD (R147). -/
  | recoveryRebuild (units : List StripeUnit)
  /-- RECOVERY_RESTRIPE (R147). -/
  | recoveryRestripe
  /-- RECOVERY_RESUME (R145). -/
  | recoveryResume
  /-- RECOVERY_REPORT (R145). -/
  | recoveryReport
  /-- FLIT_RECEIVE (R385). -/
  | flitReceive (m : BitVec 6) (fwd : Bool) (flit : Flit)
  /-- NAK_RECEIVE (R385). -/
  | nakReceive (m : BitVec 6) (fwd : Bool) (n : BitVec 12)
  /-- REPLAY_TIMEOUT (R385). -/
  | replayTimeout (m : BitVec 6) (fwd : Bool)
  /-- RETRAIN_END (R386). -/
  | retrainEnd (m : BitVec 6)
  /-- SWITCH_TRIM (R391). -/
  | switchTrim (port : BitVec 4) (p : Packet)
  /-- PUT_PACKET (R393). -/
  | putPacket (p : Packet)
  /-- PUTA_PACKET (R393). -/
  | putaPacket (p : Packet)
  /-- GETREQ_PACKET (R393). -/
  | getreqPacket (p : Packet)
  /-- GETRSP_PACKET (R393). -/
  | getrspPacket (p : Packet)
  /-- ATOM_PACKET (R394). -/
  | atomPacket (p : Packet)
  /-- ATOMRSP_PACKET (R394). -/
  | atomrspPacket (p : Packet)
  /-- ACK_PACKET (R393). -/
  | ackPacket (p : Packet)
  /-- COLL_PACKET (R144). -/
  | collPacket (p : Packet)
  /-- ENQ_PACKET (R174). -/
  | enqPacket (p : Packet)
  /-- REREQ_PACKET (R392). -/
  | rereqPacket (p : Packet)
  /-- HEARTBEAT_PACKET (R145). -/
  | heartbeatPacket (p : Packet)
  /-- TIMESYNC_PACKET (R397). -/
  | timesyncPacket (p : Packet)
  /-- FATAL_PACKET (R398). -/
  | fatalPacket (p : Packet)
  /-- ABORT_PACKET (R392). -/
  | abortPacket (p : Packet)
  /-- TRIMMED_HEADER_RECEIVE (R392). -/
  | trimmedHeaderReceive (p : Packet)
  /-- REREQ_SEND (R392). -/
  | rereqSend (src : W8)
  /-- FABRIC_RETX_TIMEOUT (R391). -/
  | fabricRetxTimeout (dst : W8) (domain : W8) (flow : W8) (psn : W32)
  /-- TIMESYNC_SEND (R397). -/
  | timesyncSend
  /-- TIMESYNC_LOSS (R397). -/
  | timesyncLoss
  /-- POWER_SAMPLE (R411). -/
  | powerSample (meas : BitVec 16)
  /-- TELEMETRY_WRITE (R414). -/
  | telemetryWrite
  /-- KEY_REQUEST_COMPLETE (R25). -/
  | keyRequestComplete
  /-- NAP_END (R260). -/
  | napEnd (who : StreamId)
  /-- MEMORY_RESPONSE_RETURN (R299). -/
  | memoryResponseReturn (who : StreamId)
  /-- HOST_CXL_MEM_ACCESS (R119). -/
  | hostCxlMemAccess (pa : W64) (write : Option (List W8)) (n : Nat)
  /-- MODULE_IDLE_RETRAIN (R386). -/
  | moduleIdleRetrain (m : BitVec 6) (sup : Bool)
  /-- UNCORRECTABLE_FEC_CODEWORD (R391). -/
  | uncorrectableFecCodeword (port : BitVec 4) (p : Packet)
deriving DecidableEq, Repr

end Sys2Proof
end

