-- ==== Sys2Proof/WellFormed.lean ====
section
/-! DEFINITION. What the spec says about the fields of each instruction: which it reads, which values are legal
(R232 to R238, R241 to R326), which registers it names (R239, R240), and its latency class (R239).
`Instr.shape` is the one table; `Instr.legal` reads it. -/

namespace Sys2Proof

/-! ### Element types (R199) -/

namespace ETy

/-- The TYPE code (R199). -/
def code : ETy → Nat
  | i32 => 0 | n32 => 1 | i64 => 2 | n64 => 3 | i16x2 => 4 | n16x2 => 5 | i8x4 => 6 | n8x4 => 7
  | f32 => 8 | f16x2 => 9 | bf16x2 => 10 | e4m3x4 => 11 | e5m2x4 => 12 | e2m1x8 => 13 | f16 => 14 | bf16 => 15

/-- Element width in bits. -/
def width : ETy → Nat
  | i32 | n32 | f32 => 32
  | i64 | n64 => 64
  | i16x2 | n16x2 | f16x2 | bf16x2 | f16 | bf16 => 16
  | i8x4 | n8x4 | e4m3x4 | e5m2x4 => 8
  | e2m1x8 => 4

/-- Elements per lane; 1 for a 64-bit element, which spans a pair (R200). -/
def elems : ETy → Nat
  | i32 | n32 | f32 | i64 | n64 | f16 | bf16 => 1
  | i16x2 | n16x2 | f16x2 | bf16x2 => 2
  | i8x4 | n8x4 | e4m3x4 | e5m2x4 => 4
  | e2m1x8 => 8

/-- Signed integer types. -/
def signed : ETy → Bool
  | i32 | i64 | i16x2 | i8x4 => true
  | _ => false

/-- Integer types. -/
def isInt : ETy → Bool
  | i32 | n32 | i64 | n64 | i16x2 | n16x2 | i8x4 | n8x4 => true
  | _ => false

/-- Types whose element spans a register pair (R200). -/
def wide : ETy → Bool
  | i64 | n64 => true
  | _ => false

def allInts : List ETy := [i32, n32, i64, n64, i16x2, n16x2, i8x4, n8x4]
def smallInts : List ETy := [i32, n32, i16x2, n16x2, i8x4, n8x4]
def signedInts : List ETy := [i32, i64, i16x2, i8x4]
def unsignedInts : List ETy := [n32, n64, n16x2, n8x4]
def smallSigned : List ETy := [i32, i16x2, i8x4]
def smallUnsigned : List ETy := [n32, n16x2, n8x4]
def all : List ETy :=
  [i32, n32, i64, n64, i16x2, n16x2, i8x4, n8x4, f32, f16x2, bf16x2, e4m3x4, e5m2x4, e2m1x8, f16, bf16]
/-- The type set F of R276. -/
def floats : List ETy := [f32, f16x2, bf16x2, f16, bf16]
/-- Source and destination types of the FP32 conversions (R280, R281). -/
def convs : List ETy := [f16x2, bf16x2, e4m3x4, e5m2x4, e2m1x8, f16, bf16]
/-- Types of VEXT and VINS (R292). -/
def packed : List ETy := [i16x2, n16x2, i8x4, n8x4, f16x2, bf16x2, e4m3x4, e5m2x4, e2m1x8]

end ETy

/-! ### Sources -/

/-- An RSEL value that R235 and R236 assign. -/
def Src.assigned : Src → Bool
  | .vec _ | .sca _ => true
  | .inl k => k.toNat ≤ 0x72
  | .spc k => k.toNat ≤ 5

/-- An inline float constant (R236) (DEDUCED, unsafe, log 29). -/
def Src.isFloatConst : Src → Bool
  | .inl k => decide (0x60 ≤ k.toNat) && decide (k.toNat ≤ 0x6F)
  | _ => false

/-- An inline index that reads a literal (R236) (DEDUCED, unsafe, log 34). -/
def Src.isLiteral : Src → Bool
  | .inl k => decide (0x70 ≤ k.toNat)
  | _ => false

def Src.isVec : Src → Bool
  | .vec _ => true
  | _ => false

def Src.isSca : Src → Bool
  | .sca _ => true
  | _ => false

def Src.isInl : Src → Bool
  | .inl _ => true
  | _ => false

/-- A field of zeros (R234). -/
def Src.zero : Src := .vec 0

/-- A mask operand: bits 3:0 of the field (R235). -/
def Src.isMask : Src → Bool
  | .vec n => n.toNat < 16
  | _ => false

/-- The mask register that a mask operand names. -/
def Src.mask : Src → BitVec 4
  | .vec n => n.setWidth 4
  | _ => 0

/-! ### Rules of the formats -/

/-- How an instruction reads a source of V format (R270). -/
inductive VUse where
  /-- Not read: the field is zero. -/
  | none
  /-- Read as a number: NEG and ABS allowed (R205). -/
  | num
  /-- Read as bits: NEG and ABS zero. -/
  | raw
  /-- A mask register (R235). -/
  | mask
  /-- Vector class only. -/
  | vreg
  /-- Vector class only, read as a number. -/
  | vnum
  /-- Scalar class only (R284). -/
  | sreg
  /-- Scalar or inline integer (R286, R289). -/
  | scaInl
  /-- Scalar, inline integer or special 5 (R286). -/
  | setMask
  /-- The operation 0x200 + op of R290, op below the bound. -/
  | redOp (bound : Nat)
deriving DecidableEq, Repr

/-- Destination of a V instruction. -/
inductive VDst where
  | vec | mask
deriving DecidableEq, Repr

/-- What an entry of chapter 11 says of its fields. -/
structure VRule where
  types : List ETy
  a : VUse := .num
  b : VUse := .num
  c : VUse := .none
  /-- Element types of the sources, where they differ from TYPE. -/
  ta : ETy → ETy := id
  tb : ETy → ETy := id
  tc : ETy → ETy := id
  rnd : Bool := false
  sat : Bool := false
  /-- Lane modifiers are allowed (R237, R270), and on B too. -/
  mods : Bool := true
  modB : Bool := true
  sub : ETy → BitVec 5 → Bool := fun _ s => s == 0
  /-- SUB values under which B is zero (VOTE, R288). -/
  bZero : BitVec 5 → Bool := fun _ => false
  dst : VDst := .vec
  /-- Registers of the destination, and whether they are read. -/
  regs : ETy → Nat := fun t => if t.wide then 2 else 1
  dstRead : Bool := false
  /-- What the first destination register's number is a multiple of. -/
  align : ETy → Nat := fun t => if t.wide then 2 else 1
  lat : Nat

/-- How an S source is read (R243, R248). -/
inductive SUse where
  | none | int | flt
deriving DecidableEq, Repr

/-- What an entry of chapter 10 says of its S-format fields. -/
structure SRule where
  a : BitVec 5 → SUse := fun _ => .int
  b : SUse := .int
  cond : Bool := false
  /-- The entry's own check of IMM32, where it reads IMM32 itself. -/
  imm : Option (W32 → Bool) := none
  sub : BitVec 5 → Bool := fun s => s == 0
  dstRead : Bool := false
  joined : Bool := false
  lat : Nat

/-- Which B-format fields an entry reads (R252). -/
structure BRule where
  creg : Bool := false
  cregVec : Bool := false
  cond : Bool := false
  target : Bool := false
  recon : Bool := false
  mask : Bool := false
  detach : Bool := false
  token : Bool := false
  link : Bool := false
  /-- LINK is a destination (CALL, JMP, DETACH). -/
  cregNonzero : Bool := false

/-- Which Q-format fields an entry reads (R262). -/
structure QRule where
  dst : Bool := false
  a : BitVec 16 → Bool := fun _ => false
  xreg : Bool := false
  code : BitVec 16 → Bool := fun c => c == 0

/-- The class of DATA (R296). -/
inductive DUse where
  | none | vdst | vsrc | sdst | ssrc
deriving DecidableEq, Repr

/-- How INDEX is read (R296). -/
inductive IUse where
  | none | any | scaInl | sca
deriving DecidableEq, Repr

/-- What R296 says of an M-format instruction. -/
structure MRule where
  data : DUse := .none
  idx : IUse := .none
  shift : Bool := false
  base : Bool := true
  off : BitVec 24 → Bool := fun _ => true
  widths : List Width := [.b8]
  spaces : List Space := [.global]
  orders : List Order := [.rlx]
  scope : Bool := false
  sub : Width → BitVec 5 → Bool := fun _ s => s == 0
  cpol : Bool := false
  pred : Bool := false

/-- What R304 and R309 say of an A-format instruction. -/
structure ARule where
  /-- SATOM and SCAS (R304). -/
  scalar : Bool := false
  /-- Registers per operand. -/
  regs : Nat := 1
  /-- Registers of the destination. -/
  dstRegs : Nat := 1
  cas : Bool := false
  flt : Bool := false
  aops : List Aop := [.add]
  at1 : Bool := false
  ords : List Order := [.rlx, .acq, .rel, .ar, .sc]

/-- What an entry of chapter 13 says of its X-format fields. D field k is bit k. -/
structure XRule where
  inp : W32 → BitVec 6 := fun _ => 0
  out : W32 → BitVec 6 := fun _ => 0
  imm : W32 → Bool := fun i => i == 0
  /-- IMM[7:0] names a vector register that is read, or written (R332). -/
  vin : Bool := false
  vout : Bool := false

/-- An instruction's format, opcode, rule and fields; or an event of the device. -/
inductive Shape where
  | s (op : Nat) (r : SRule) (f : SF)
  | v (op : Nat) (r : VRule) (f : VF)
  | b (op : Nat) (r : BRule) (f : BF)
  | q (op : Nat) (r : QRule) (f : QF)
  | m (op : Nat) (r : MRule) (f : MF)
  | a (op : Nat) (r : ARule) (f : AF)
  | x (op : Nat) (r : XRule) (f : XF)
  | event

/-! ### Legality of each format -/

/-- R233: a predicate that exists. -/
def Head.predOk (h : Head) : Bool := h.pred.toNat ≤ 16

/-- R233: no predication. -/
def Head.plain (h : Head) : Bool := h.pred == 0 && !h.pneg && !h.zero

/-- A V source under its use. `joined` allows the literals of R236, `t` is the element type it is read as. -/
def VUse.ok (u : VUse) (joined : Bool) (t : ETy) (x : Src) : Bool :=
  match u with
  | .none => x == Src.zero
  | .num | .raw =>
    x.assigned && (!x.isLiteral || joined) && (!x.isFloatConst || !t.isInt) &&
      (match x with
       | .vec n => !t.wide || n.toNat % 2 == 0
       | _ => true)
  | .mask => x.isMask
  | .vreg | .vnum => x.isVec
  | .sreg => x.isSca
  | .scaInl => x.isSca || (match x with
    | .inl k => decide (k.toNat < 0x60) || (joined && decide (0x70 ≤ k.toNat) && decide (k.toNat ≤ 0x72))
    | _ => false)
  | .setMask => x.isSca || (match x with
    | .inl k => decide (k.toNat < 0x60)
    | .spc k => k == 5
    | _ => false)
  | .redOp n => match x with
    | .inl k => k.toNat < n
    | _ => false

/-- NEG and ABS only where the source is read as a number (R270). -/
def VUse.signOk (u : VUse) (neg abs : Bool) : Bool := u == .num || u == .vnum || (!neg && !abs)

/-- The lane modifier field (R237) on source `x`, of segment and distance `mod`. -/
def modOk (x : Src) (allowed : Bool) (mod : BitVec 12) : Bool :=
  let cls := (mod >>> 9).toNat
  let seg := ((mod >>> 6) &&& 7).toNat
  let dist := (mod &&& 63).toNat
  allowed && x.isVec && decide (1 ≤ cls) && decide (cls ≤ 5) && decide (seg ≤ 6) &&
    (decide (cls ≤ 3) || decide (dist < 2 ^ seg))

def VF.modLegal (f : VF) (r : VRule) : Bool :=
  let reads (u : VUse) : Bool := u != .none && u != .mask
  match f.modsel.toNat with
  | 0 => f.mod == 0
  | 1 => modOk f.a (r.mods && reads r.a) f.mod
  | 2 => modOk f.b (r.mods && r.modB && reads r.b) f.mod
  | _ => modOk f.c (r.mods && reads r.c) f.mod

/-- R269, R270, R235: a V-format instruction. -/
def VF.legal (r : VRule) (f : VF) : Bool :=
  let j := f.ext.isSome
  f.h.predOk && r.types.contains f.ty &&
  (match r.dst with
   | .vec => f.dst.toNat % r.align f.ty == 0
   | .mask => decide (f.dst.toNat < 16)) &&
  r.a.ok j (r.ta f.ty) f.a && r.b.ok j (r.tb f.ty) f.b && r.c.ok j (r.tc f.ty) f.c &&
  r.a.signOk f.nega f.absa && r.b.signOk f.negb f.absb && r.c.signOk f.negc false &&
  f.modLegal r &&
  (if r.rnd then decide (f.rnd.toNat ≤ 6) else f.rnd == 0) && (!f.sat || r.sat) &&
  r.sub f.ty f.sub && (!r.bZero f.sub || f.b == Src.zero)

/-- A source of S or Q format (R243). -/
def SUse.ok (u : SUse) (lit : Bool) (x : Src) : Bool :=
  match u with
  | .none => x == Src.zero
  | u => match x with
    | .vec _ => false
    | .sca _ => true
    | .inl k => decide (k.toNat < 0x60) || (u == .flt && decide (k.toNat < 0x70)) || (lit && k == 0x70)
    | .spc k => k == 1 || k == 3 || k == 4 || k == 5

/-- R232, R243, R245 to R251 (DEDUCED, unsafe, log 25). -/
def SF.legal (r : SRule) (f : SF) : Bool :=
  f.h.plain && (r.a f.sub).ok true f.a && r.b.ok true f.b &&
  (match r.imm with
   | some ok => ok f.imm
   | none => f.imm == 0 || ((f.a == .inl 0x70 || f.b == .inl 0x70) && f.ext.isNone)) &&
  (r.cond || f.cond == .eq) && r.sub f.sub &&
  (match f.ext with
   | none => !r.joined
   | some e => e.ext32 == 0)

/-- R252 (DEDUCED, unsafe, log 26). -/
def BF.legal (r : BRule) (f : BF) : Bool :=
  f.h.plain && (r.creg || f.creg == 0) && (!r.cregNonzero || f.creg != 0) &&
  (r.cond || f.cond == .always) && (!(r.cond && f.cond == .always) || f.creg == 0) &&
  decide (f.tslot.toNat ≤ 4) && decide (f.rslot.toNat ≤ 4) &&
  (r.target || (f.tslot == 0 && f.ldelta == 0)) && (r.recon || (f.rslot == 0 && f.rld == 0)) &&
  (r.mask || (f.msrc == 0 && !f.minv)) && (r.detach || !f.detach) && (r.token || f.token == 0) &&
  (r.link || f.link == 0)

/-- The control registers of R227 and R362. -/
def xregAssigned (n : BitVec 12) : Bool :=
  [0x000, 0x001, 0x002, 0x010, 0x011, 0x012, 0x013, 0x014, 0x015, 0x016, 0x020, 0x021, 0x022, 0x030, 0x031, 0x032,
    0x033, 0x034, 0x035, 0x036, 0x037, 0x038, 0x039, 0x040, 0x041, 0x042, 0x050, 0x051, 0x052, 0x060,
    0x061].contains n.toNat

/-- R262, R263. -/
def QF.legal (r : QRule) (f : QF) : Bool :=
  f.h.plain && (r.dst || f.dst == 0) && (if r.a f.code then SUse.int.ok false f.a else f.a == Src.zero) &&
  (if r.xreg then xregAssigned f.xreg else f.xreg == 0) && r.code f.code

namespace Width

/-- Bytes of an access (R297). -/
def bytes : Width → Nat
  | b8 => 1 | b16 => 2 | b32 => 4 | b64 => 8 | b128 => 16 | b256 => 32

/-- Registers that one lane fills (R297). -/
def regs : Width → Nat
  | b8 | b16 | b32 => 1
  | b64 => 2 | b128 => 4 | b256 => 8

end Width

/-- An INDEX of M or A format; float constants and literals are no index (R236). -/
def IUse.ok (u : IUse) (x : Src) : Bool :=
  match u with
  | .none => x == Src.zero
  | .any => x.assigned && !x.isFloatConst && !x.isLiteral
  | .scaInl => x.isSca || (x.isInl && x.assigned && !x.isFloatConst && !x.isLiteral)
  | .sca => x.isSca

/-- DATA under its use, at a width (R296, R297). -/
def DUse.ok (u : DUse) (w : Width) (x : Reg) : Bool :=
  match u, x with
  | .none, .vec n => n == 0
  | .vdst, .vec n | .vsrc, .vec n => n.toNat % w.regs == 0
  | .sdst, .sca _ | .ssrc, .sca _ => true
  | _, _ => false

/-- R296 to R303, R311 to R319. -/
def MF.legal (r : MRule) (f : MF) : Bool :=
  (if r.pred then f.h.predOk else f.h.plain) &&
  r.data.ok f.width f.data && (r.base || f.base == 0) && r.idx.ok f.index && (r.shift || f.shift == 0) &&
  r.off f.off && r.widths.contains f.width && r.spaces.contains f.space && r.orders.contains f.order &&
  (r.scope || f.scope == .wave) && (if r.cpol then decide (f.cpol.toNat ≤ 3) else f.cpol == 0) &&
  r.sub f.width f.sub &&
  (match f.ext with
   | none => true
   | some e => e.ext32 == 0 && f.off == 0)

/-- VAL or CMP of an A-format instruction (R304). -/
def ARule.valOk (r : ARule) (x : Src) : Bool :=
  if r.scalar then x.isSca || (x.isInl && x.assigned && !x.isFloatConst && !x.isLiteral)
  else x.assigned && !x.isLiteral && (!x.isFloatConst || r.flt) &&
    (match x with
     | .vec n => n.toNat % r.regs == 0
     | _ => true)

/-- R304, R309. -/
def AF.legal (r : ARule) (f : AF) : Bool :=
  (if r.scalar then f.h.plain else f.h.predOk) &&
  (match f.dst with
   | none => true
   | some (.vec n) => !r.scalar && n.toNat % r.dstRegs == 0
   | some (.sca _) => r.scalar) &&
  r.valOk f.val && (if r.cas then r.valOk f.cmp else f.cmp == Src.zero) &&
  (if r.scalar then IUse.scaInl.ok f.index else IUse.any.ok f.index) &&
  r.ords.contains f.ords &&
  (if r.cas then [Order.rlx, .acq, .sc].contains f.ordf else f.ordf == .rlx) &&
  r.aops.contains f.aop && (r.at1 || !f.unsignedT)

/-- The six D fields. -/
def XF.d (f : XF) : List (BitVec 7) := [f.d0, f.d1, f.d2, f.d3, f.d4, f.d5]

/-- R321. -/
def XF.legal (r : XRule) (f : XF) : Bool :=
  let used := r.inp f.imm ||| r.out f.imm
  f.h.plain && r.imm f.imm &&
  (List.range 6).all fun k => used.getLsbD k || (f.d.getD k 0) == 0

/-! ### Latencies (R239) -/

namespace Lat
def salu : Nat := 2
def smul : Nat := 4
def sdiv : Nat := 20
def sflt : Nat := 4
def sfcmp : Nat := 5
def sfsqrt : Nat := 12
def vint : Nat := 2
def vmul : Nat := 4
def vflt : Nat := 4
def vcvt : Nat := 5
def vpack : Nat := 8
def vspecial : Nat := 12
def vdiv : Nat := 20
def vadam : Nat := 16
def mop : Nat := 2
def mcount : Nat := 3
def vmove : Nat := 6
def vred : Nat := 10
def vscan : Nat := 12
/-- A control register's value, and that of GTIME, LAPLEN and TIME (R263, R265). -/
def xreg : Nat := 4
def gtime : Nat := 12
/-- Extra cycles of a source modifier. -/
def modifier : Nat := 2
end Lat

/-! ### The entries' rules -/

/-- `sub` holds an element index below the type's element count. -/
def subElem (t : ETy) (s : BitVec 5) : Bool := s.toNat < t.elems

/-- `sub` holds SEGLOG 0 to 6 (R289). -/
def subSeg (s : BitVec 5) : Bool := s.toNat ≤ 6

/-- `sub` is a comparison code 0 to 5. -/
def subCond (s : BitVec 5) : Bool := s.toNat ≤ 5

/-- `sub` is a rounding mode (R248). -/
def subRnd (s : BitVec 5) : Bool := s.toNat ≤ 6

namespace Rule

/-! Scalar (R245 to R251). -/
def sInt2 (lat : Nat := Lat.salu) : SRule := { lat }
def sInt1 : SRule := { b := .none, lat := Lat.salu }
def sCmp : SRule := { cond := true, lat := Lat.salu }
def sSel : SRule := { cond := true, dstRead := true, lat := Lat.salu }
def sLit : SRule := { a := fun _ => .none, b := .none, joined := true, lat := Lat.salu }
/-- SBFX, SBFI: IMM32[5:0] position, IMM32[13:8] width, which is not 0 (R247) (DEDUCED, unsafe, log 27). -/
def bfImm (i : W32) : Bool :=
  i &&& 0xFFFFC0C0 == 0 && decide (1 ≤ i.toNat / 256)
def sBits (dstRead : Bool) : SRule := { b := .none, imm := some bfImm, dstRead, lat := Lat.salu }
def sAddr : SRule := { sub := fun s => s.toNat ≤ 7, lat := Lat.salu }
def sFlt2 (lat : Nat := Lat.sflt) : SRule := { a := fun _ => .flt, b := .flt, sub := subRnd, lat }
def sFma : SRule := { a := fun _ => .flt, b := .flt, sub := subRnd, dstRead := true, lat := Lat.sflt }
def sSqrt : SRule := { a := fun _ => .flt, b := .none, sub := subRnd, lat := Lat.sfsqrt }
def sMinMax : SRule := { a := fun _ => .flt, b := .flt, sub := fun s => s.toNat ≤ 1, lat := Lat.sflt }
def sFcmp : SRule := { a := fun _ => .flt, b := .flt, cond := true, lat := Lat.sfcmp }
/-- SFCVT: SUB[4:3] direction, SUB[2:0] mode (R251). -/
def sFcvt : SRule :=
  { a := fun s => if s.toNat < 16 then .flt else .int, b := .none, sub := fun s => s.toNat % 8 ≤ 6, lat := Lat.sfcmp }

/-! Vector integer (R272 to R275). -/
def v2 (types : List ETy) (sat : Bool := false) (lat : Nat := Lat.vint) : VRule := { types, sat, lat }
def v3 (types : List ETy) (sat : Bool := false) (lat : Nat := Lat.vint) : VRule := { types, c := .num, sat, lat }
def vBits2 (types : List ETy) : VRule := { types, a := .raw, b := .raw, lat := Lat.vint }
/-- Shifts and VROT: A is raw, the count is a number (R270). -/
def vShift (types : List ETy) : VRule := { types, a := .raw, lat := Lat.vint }
def vBits1 (types : List ETy) : VRule := { types, a := .raw, b := .none, lat := Lat.vint }
def vMulw (types : List ETy) : VRule := { types, regs := fun _ => 2, align := fun _ => 2, lat := Lat.vmul }
def vDot (types : List ETy) : VRule := { types, c := .num, tc := fun _ => .i32, sat := true, lat := Lat.vmul }
/-- The sources of VNARROW: 32-bit lanes, or x16x2 lanes (R273). -/
def narrowSrc : ETy → ETy
  | .i16x2 => .i32
  | .n16x2 => .n32
  | .i8x4 => .i16x2
  | .n8x4 => .n16x2
  | t => t
def vNarrow (types : List ETy) : VRule := { types, ta := narrowSrc, tb := narrowSrc, sat := true, lat := Lat.vcvt }
def pairOf32 (t : ETy) : Nat := if t == .i32 || t == .n32 then 2 else 1
def vWiden (types : List ETy) : VRule :=
  { types, b := .none, sub := subElem, regs := pairOf32, align := pairOf32, lat := Lat.vcvt }
def vBfx (types : List ETy) : VRule :=
  { types, a := .raw, b := .raw, c := .raw, tb := fun _ => .n32, tc := fun _ => .n32, lat := Lat.vint }
def vBfi : VRule := { vBfx [.i32, .n32] with dstRead := true }
def vCmp (types : List ETy) : VRule :=
  { types, sub := fun _ => subCond, dst := .mask, regs := fun _ => 1, lat := Lat.vcvt }
def vSel : VRule := { types := ETy.all, a := .raw, b := .raw, c := .mask, lat := Lat.vint }
def vMov : VRule := { types := ETy.all, a := .raw, b := .none, lat := Lat.vint }
def vLut : VRule := { types := [.n8x4, .n16x2], a := .raw, b := .vreg, modB := false, lat := Lat.vmove }

/-! Vector float (R276 to R285). -/
def vf2 : VRule := { types := ETy.floats, rnd := true, sat := true, lat := Lat.vflt }
def vf3 : VRule := { types := ETy.floats, c := .num, rnd := true, sat := true, lat := Lat.vflt }
def vfMin : VRule := { types := ETy.floats, lat := Lat.vflt }
def vfClamp : VRule := { types := ETy.floats, c := .num, lat := Lat.vflt }
def vfSign : VRule := { types := ETy.floats, a := .raw, b := .raw, lat := Lat.vflt }
def vfRnd : VRule := { types := ETy.floats, b := .none, rnd := true, sat := true, lat := Lat.vflt }
def vfScale : VRule := { types := [.f32], tb := fun _ => .i32, rnd := true, sat := true, lat := Lat.vflt }
def vfDot2 : VRule :=
  { types := [.f16x2, .bf16x2], c := .num, tc := fun _ => .f32, rnd := true, sat := true, lat := Lat.vflt }
def vfCmp : VRule :=
  { types := [.f32, .f16, .bf16], sub := fun _ s => s.toNat ≤ 7, dst := .mask, lat := Lat.vcvt }
def vfClass : VRule := { types := [.f32, .f16, .bf16], a := .raw, b := .none, lat := Lat.vcvt }
/-- Correctly rounded one-source functions (R278). -/
def vfRoot : VRule := { types := [.f32], b := .none, rnd := true, sat := true, lat := Lat.vspecial }
def vfDiv : VRule := { types := [.f32], rnd := true, sat := true, lat := Lat.vdiv }
/-- Faithful functions: RND and SAT zero (R278). -/
def vfFaithful : VRule := { types := [.f32], b := .none, lat := Lat.vspecial }
def vfCvtw : VRule := { types := ETy.convs, b := .none, sub := subElem, lat := Lat.vcvt }
def vfCvtn : VRule :=
  { types := ETy.convs, b := .none, ta := fun _ => .f32, rnd := true, sat := true, sub := subElem, dstRead := true,
    lat := Lat.vcvt }
def vfCvts : VRule := { vfCvtn with b := .num, tb := fun _ => .f32 }
def vICvt (types : List ETy) : VRule :=
  { types, b := .none, rnd := true, regs := fun _ => 1, align := fun _ => 1, lat := Lat.vcvt }
def vFCvti (types : List ETy) : VRule := { types, b := .none, ta := fun _ => .f32, rnd := true, lat := Lat.vcvt }
def vfPack4 : VRule := { types := [.e2m1x8], a := .vnum, b := .none, lat := Lat.vpack }
def vfUnpk4 : VRule := { types := [.e2m1x8], a := .vreg, b := .none, lat := Lat.vcvt }
def vAdam : VRule :=
  { types := [.f32], a := .raw, b := .sreg, rnd := true, regs := fun _ => 3, align := fun _ => 4, dstRead := true,
    modB := false, lat := Lat.vadam }

/-! Mask and cross-lane (R286 to R294). TYPE 0 is i32. -/
def m2 : VRule := { types := [.i32], a := .mask, b := .mask, mods := false, dst := .mask, lat := Lat.mop }
def m1 : VRule := { types := [.i32], a := .mask, b := .none, mods := false, dst := .mask, lat := Lat.mop }
def mShift : VRule := { types := [.i32], a := .mask, b := .scaInl, mods := false, dst := .mask, lat := Lat.mop }
def mSet : VRule := { types := [.i32], a := .setMask, b := .none, mods := false, dst := .mask, lat := Lat.mop }
def mCount : VRule := { types := [.i32], a := .mask, b := .none, mods := false, lat := Lat.mcount }
/-- VOTE: B is a mask, or zero when SUB[0] = 1 (`voteB`). A is read as bits, and a float constant is allowed. -/
def vote : VRule :=
  { types := [.i32], a := .raw, ta := fun _ => .f32, b := .mask, mods := false, sub := fun _ s => s.toNat ≤ 1,
    bZero := fun s => s.getLsbD 0, dst := .mask, lat := Lat.mop }
def seg2 (b : VUse) : VRule :=
  { types := [.i32], a := .vreg, b, mods := false, sub := fun _ => subSeg, lat := Lat.vmove }
def seg1 : VRule := { types := [.i32], a := .vreg, b := .none, mods := false, sub := fun _ => subSeg, lat := Lat.vmove }
def redInt : VRule :=
  { types := [.i32, .n32], a := .vreg, b := .redOp 6, mods := false, sub := fun _ => subSeg, lat := Lat.vred }
def redFlt : VRule :=
  { types := [.f32], a := .vreg, b := .redOp 4, mods := false, sub := fun _ => subSeg, lat := Lat.vred }
/-- VSCAN: SUB[3] is the exclusive form (R291). -/
def subScan (s : BitVec 5) : Bool := decide (s.toNat % 8 ≤ 6) && decide (s.toNat < 16)
def scanInt : VRule := { redInt with sub := fun _ => subScan, lat := Lat.vscan }
def scanFlt : VRule := { redFlt with sub := fun _ => subScan, lat := Lat.vscan }
def vext : VRule :=
  { types := ETy.packed, a := .raw, b := .none, mods := false, sub := subElem, lat := Lat.vmove }
def vins : VRule := { types := ETy.packed, a := .raw, b := .raw, mods := false, sub := subElem, lat := Lat.vmove }
def compact : VRule :=
  { types := [.i32], a := .vreg, b := .mask, mods := false, sub := fun _ => subSeg, lat := Lat.vscan }
def vragg : VRule :=
  { types := [.n32], a := .vreg, b := .raw, mods := false, sub := fun _ => subSeg, regs := fun _ => 2,
    align := fun _ => 2, lat := Lat.vscan }

/-! Control (R252). -/
def bra : BRule := { creg := true, cond := true, target := true }
def brv : BRule := { target := true, recon := true, mask := true, detach := true, token := true }
def jmp : BRule := { creg := true, link := true }
def ret : BRule := { creg := true }
def jmpv : BRule := { creg := true, cregVec := true, recon := true, detach := true, token := true }
def call : BRule := { target := true, link := true }
def loop : BRule := { creg := true, target := true, cregNonzero := true }
def rjoin : BRule := { token := true }
def detach : BRule := { link := true }
def nap : BRule := { creg := true }
def bplain : BRule := {}

/-! System (R262 to R268). -/
def trap : QRule := { a := fun _ => true, code := fun _ => true }
def qplain : QRule := {}
def xrd : QRule := { dst := true, xreg := true }
def xwr : QRule := { dst := true, xreg := true, a := fun _ => true }
/-- SETFMT's CODE (R264). -/
def setfmtCode (c : BitVec 16) : Bool :=
  c &&& 0x78FC == 0 && decide (1 ≤ (c.toNat / 256) % 8) && decide ((c.toNat / 256) % 8 ≤ 6)
def setfmt : QRule := { a := fun c => c.getLsbD 15, code := setfmtCode }
def qdst : QRule := { dst := true }
def waitt : QRule := { a := fun _ => true }
def bkpt : QRule := { code := fun _ => true }
def svc : QRule := { dst := true, a := fun _ => true, code := fun _ => true }

/-! Memory (R296). -/
def allW : List Width := [.b8, .b16, .b32, .b64, .b128, .b256]
def scaW : List Width := [.b8, .b16, .b32, .b64]
def data3 : List Space := [.global, .scratch, .cluster]
/-- Sign extension only of 8 and 16 bits in a vector register (R297). -/
def subSignV (w : Width) (s : BitVec 5) : Bool := s == 0 || (s == 1 && (w == .b8 || w == .b16))
def subSignS (w : Width) (s : BitVec 5) : Bool := s == 0 || (s == 1 && w != .b64)
def ldOrders : List Order := [.rlx, .acq, .sc]
def stOrders : List Order := [.rlx, .rel, .sc]
def vld (sp : List Space) (idx : IUse) (shift : Bool) : MRule :=
  { data := .vdst, idx, shift, widths := allW, spaces := sp, orders := ldOrders, scope := true, sub := subSignV,
    cpol := true, pred := true }
def vst (sp : List Space) (idx : IUse) (shift : Bool) : MRule :=
  { data := .vsrc, idx, shift, widths := allW, spaces := sp, orders := stOrders, scope := true, cpol := true,
    pred := true }
def sld (sp : List Space) (orders : List Order) : MRule :=
  { data := .sdst, idx := .scaInl, shift := true, widths := scaW, spaces := sp, orders, scope := true,
    sub := subSignS, cpol := true }
def sst : MRule :=
  { data := .ssrc, idx := .scaInl, shift := true, widths := scaW, spaces := data3, orders := stOrders, scope := true,
    cpol := true }
def lineOp : MRule := { idx := .any, shift := true, pred := true }
def pref : MRule := { idx := .any, shift := true, pred := true, sub := fun _ s => s.toNat ≤ 2, cpol := true }
def fence : MRule := { base := false, off := fun o => o == 0, orders := [.acq, .rel, .ar, .sc], scope := true }
/-- XFENCE's classes, 0 to 8 (R99, R114). -/
def xfence : MRule :=
  { base := false, off := fun o => decide (o.toNat % 16 ≤ 8) && decide (o.toNat / 16 ≤ 8), orders := [.ar, .sc],
    scope := true }
def bar (data : DUse) : MRule :=
  { data, widths := [.b64], spaces := [.scratch, .cluster], orders := [.rlx, .ar], scope := true }
def waita (w : Width) : MRule :=
  { data := .sdst, idx := .scaInl, widths := [w], spaces := data3, orders := [.rlx, .acq], scope := true,
    sub := fun _ => subCond }
def wakea : MRule := { widths := [.b32, .b64], spaces := data3 }
def pflush : MRule := { idx := .scaInl }
def pbar : MRule := { base := false, off := fun o => o == 0, sub := fun _ s => s.toNat ≤ 2 }
def stepset : MRule := { data := .sdst, base := false, off := fun o => o == 0 }
def snap : MRule := { data := .sdst, idx := .sca, off := fun o => o == 0 }
def pstat : MRule := { data := .sdst, base := false, off := fun o => o == 0, sub := fun _ s => s.toNat ≤ 3 }

/-! Atomics (R304, R309). -/
def intAops : List Aop := [.add, .min, .max, .and, .or, .xor, .xchg, .incw, .decw]
def redAops : List Aop := [.add, .min, .max, .and, .or, .xor]
def redOrds : List Order := [.rlx, .rel]
def atomI (regs : Nat) : ARule := { regs, dstRegs := regs, aops := intAops, at1 := true }
def atomF : ARule := { flt := true, aops := [.add, .min, .max, .xchg] }
def cas (regs : Nat) : ARule := { regs, dstRegs := regs, cas := true }
def satom : ARule := { scalar := true, aops := intAops, at1 := true }
def scas : ARule := { scalar := true, cas := true }
def redI (regs : Nat) : ARule := { regs, aops := redAops, at1 := true, ords := redOrds }
def redF : ARule := { flt := true, aops := [.add, .min, .max], ords := redOrds }
def redB : ARule := { flt := true, ords := redOrds }

/-! Engines and tasks (R321 to R358). -/
/-- IMM32 bits `hi`:0 are defined, the others zero. -/
def immUpto (n : Nat) (i : W32) : Bool := i.toNat < 2 ^ n
/-- VALUE (R322). -/
def immValue : W32 → Bool := immUpto 31
def klen (i : W32) : Nat := (i.toNat / 16) % 4096
def fmtA (i : W32) : Nat := (i.toNat / 2 ^ 18) % 4
def fmtB (i : W32) : Nat := (i.toNat / 2 ^ 20) % 4
/-- Common part of the multiply's IMM32 (R326): bit 3 and bits 31:23 zero, K a multiple of the chunk. -/
def mmaImm (chunk : Nat) (i : W32) : Bool :=
  !i.getLsbD 3 && immUpto 23 i && klen i != 0 && (klen i * 16) % chunk == 0
def mmaFp8 : XRule :=
  { inp := fun _ => 0b001111, imm := fun i => mmaImm 32 i && decide (fmtA i ≤ 1) && decide (fmtB i ≤ 1) }
def mma16 (g : Nat) : XRule := { inp := fun _ => 0b001111, imm := fun i => mmaImm 16 i && fmtA i == g && fmtB i == g }
def mmas : XRule := { inp := fun _ => 0b111111, imm := fun i => mmaImm 64 i && fmtA i == 0 && fmtB i == 0 }
def tile (inp : BitVec 6) : XRule := { inp := fun _ => inp, imm := immUpto 3 }
/-- MST and MST.band (R331). -/
def mstImm (band : Bool) (i : W32) : Bool :=
  let otype := (i.toNat / 16) % 8
  let rnd := (i.toNat / 256) % 8
  immUpto 15 i && !i.getLsbD 3 && !i.getLsbD 7 && decide (otype ≤ 5) &&
  (if otype == 5 then !band && rnd == 0 && !i.getLsbD 11 && !i.getLsbD 12 && !i.getLsbD 14
   else decide (1 ≤ rnd) && decide (rnd ≤ 5))
def mst (band : Bool) : XRule :=
  { inp := fun i => 0b000011 ||| (if i.getLsbD 12 then 0b000100 else 0) ||| (if band then 0b001000 else 0),
    imm := mstImm band }
def rowMove (reads : Bool) : XRule := { imm := immUpto 19, vin := reads, vout := !reads }
def xplain : XRule := {}
def xout0 : XRule := { out := fun _ => 0b000001 }
def maskImm : XRule := { imm := immUpto 8 }
def macq : XRule := { out := fun _ => 0b000001, imm := fun i => immUpto 9 i && i.toNat % 256 != 0 }
def mstep : XRule := { imm := immUpto 12 }
/-- Commands that carry VALUE; `inp` names the D inputs. -/
def command (inp : BitVec 6) : XRule := { inp := fun _ => inp, imm := immValue }
def xin (inp : BitVec 6) : XRule := { inp := fun _ => inp }
def cqry : XRule := { inp := fun _ => 0b000010, out := fun _ => 0b000001 }
def nvsub : XRule :=
  { inp := fun _ => 0b011111, out := fun _ => 0b100000, imm := fun i => i &&& 0xFFFFBF00 == 0 }
def nvcq : XRule := { inp := fun _ => 0b000100, out := fun _ => 0b000011, imm := immUpto 1 }
def fatomI : XRule := { inp := fun _ => 0b011111, imm := fun i => immUpto 6 i && decide (i.toNat % 16 ≤ 8) }
def fatomF : XRule := { inp := fun _ => 0b011111, imm := fun i => i == 0 || i == 1 || i == 2 || i == 6 }
def fcas : XRule := { inp := fun _ => 0b111111, imm := fun i => i == 0 || i == 32 }
def tset : XRule := { inp := fun _ => 0b000001, imm := fun i => i.toNat ≤ 2 }
def twait : XRule := { inp := fun _ => 0b000001, imm := immUpto 1 }
def tstat : XRule :=
  { inp := fun i => if i.getLsbD 0 then 0b000010 else 0, out := fun _ => 0b000001, imm := immUpto 1 }
def targ : XRule := { out := fun _ => 0b000001, imm := immUpto 13 }
def tryBit (i : W32) : Bool := i.getLsbD 8
/-- n in IMM32[5:0] from 1 to `top`, TRY in bit 8 (R355, R356). -/
def growImm (top : Nat) (i : W32) : Bool :=
  i &&& 0xFFFFFEC0 == 0 && decide (1 ≤ i.toNat % 64) && decide (i.toNat % 64 ≤ top)
def rgrow : XRule := { out := fun i => if tryBit i then 0b000001 else 0, imm := growImm 31 }
def spalloc : XRule := { out := fun _ => 0b000001, imm := growImm 32 }
def nOnly (inp : BitVec 6) : XRule := { inp := fun _ => inp, imm := immUpto 6 }

end Rule

/-! ### The table -/

/-- The opcode map (R242) with each entry's rule; MMA_BF16 and MMA_F16 share 0x121 and FMTA tells them apart
(R326). -/
def Instr.shape : Instr → Shape
  | .sadd f => .s 0x000 Rule.sInt2 f
  | .ssub f => .s 0x001 Rule.sInt2 f
  | .smul f => .s 0x002 (Rule.sInt2 Lat.smul) f
  | .smulhI f => .s 0x003 (Rule.sInt2 Lat.smul) f
  | .smulhN f => .s 0x004 (Rule.sInt2 Lat.smul) f
  | .sdivI f => .s 0x005 (Rule.sInt2 Lat.sdiv) f
  | .sdivN f => .s 0x006 (Rule.sInt2 Lat.sdiv) f
  | .sremI f => .s 0x007 (Rule.sInt2 Lat.sdiv) f
  | .sremN f => .s 0x008 (Rule.sInt2 Lat.sdiv) f
  | .sand f => .s 0x009 Rule.sInt2 f
  | .sor f => .s 0x00A Rule.sInt2 f
  | .sxor f => .s 0x00B Rule.sInt2 f
  | .sandn f => .s 0x00C Rule.sInt2 f
  | .sshl f => .s 0x00D Rule.sInt2 f
  | .sshr f => .s 0x00E Rule.sInt2 f
  | .ssra f => .s 0x00F Rule.sInt2 f
  | .srot f => .s 0x010 Rule.sInt2 f
  | .sminI f => .s 0x011 Rule.sInt2 f
  | .sminN f => .s 0x012 Rule.sInt2 f
  | .smaxI f => .s 0x013 Rule.sInt2 f
  | .smaxN f => .s 0x014 Rule.sInt2 f
  | .scmpI f => .s 0x015 Rule.sCmp f
  | .scmpN f => .s 0x016 Rule.sCmp f
  | .ssel f => .s 0x017 Rule.sSel f
  | .smov f => .s 0x018 Rule.sInt1 f
  | .sli f => .s 0x019 Rule.sLit f
  | .sclz f => .s 0x01A Rule.sInt1 f
  | .spopc f => .s 0x01B Rule.sInt1 f
  | .sbfxI f => .s 0x01C (Rule.sBits false) f
  | .sbfxN f => .s 0x01D (Rule.sBits false) f
  | .sbfi f => .s 0x01E (Rule.sBits true) f
  | .saddr f => .s 0x01F Rule.sAddr f
  | .ssext f => .s 0x020 Rule.sInt2 f
  | .sabs f => .s 0x021 Rule.sInt1 f
  | .sfadd f => .s 0x022 Rule.sFlt2 f
  | .sfmul f => .s 0x023 Rule.sFlt2 f
  | .sffma f => .s 0x024 Rule.sFma f
  | .sfdiv f => .s 0x025 (Rule.sFlt2 Lat.sdiv) f
  | .sfsqrt f => .s 0x026 Rule.sSqrt f
  | .sfmin f => .s 0x027 Rule.sMinMax f
  | .sfmax f => .s 0x028 Rule.sMinMax f
  | .sfcmp f => .s 0x029 Rule.sFcmp f
  | .sfcvt f => .s 0x02A Rule.sFcvt f
  | .bra f => .b 0x040 Rule.bra f
  | .brv f => .b 0x041 Rule.brv f
  | .jmp f => .b 0x042 Rule.jmp f
  | .jmpv f => .b 0x043 Rule.jmpv f
  | .call f => .b 0x044 Rule.call f
  | .ret f => .b 0x045 Rule.ret f
  | .rjoin f => .b 0x046 Rule.rjoin f
  | .detach f => .b 0x047 Rule.detach f
  | .loop f => .b 0x048 Rule.loop f
  | .exit f => .b 0x049 Rule.bplain f
  | .tend f => .b 0x04A Rule.bplain f
  | .yield f => .b 0x04B Rule.bplain f
  | .nap f => .b 0x04C Rule.nap f
  | .nop f => .b 0x04D Rule.bplain f
  | .trap f => .q 0x060 Rule.trap f
  | .rte f => .q 0x061 Rule.qplain f
  | .xrd f => .q 0x062 Rule.xrd f
  | .xwr f => .q 0x063 Rule.xwr f
  | .xset f => .q 0x064 Rule.xwr f
  | .xclr f => .q 0x065 Rule.xwr f
  | .setfmt f => .q 0x066 Rule.setfmt f
  | .getfmt f => .q 0x067 Rule.qdst f
  | .time f => .q 0x068 Rule.qdst f
  | .waitt f => .q 0x069 Rule.waitt f
  | .bkpt f => .q 0x06A Rule.bkpt f
  | .errack f => .q 0x06B Rule.qdst f
  | .svc f => .q 0x06C Rule.svc f
  | .fencei f => .q 0x06D Rule.qplain f
  | .vadd f => .v 0x070 (Rule.v2 ETy.allInts true) f
  | .vsub f => .v 0x071 (Rule.v2 ETy.allInts true) f
  | .vmul f => .v 0x072 (Rule.v2 ETy.smallInts true Lat.vmul) f
  | .vmulhI f => .v 0x073 (Rule.v2 ETy.smallSigned false Lat.vmul) f
  | .vmulhN f => .v 0x074 (Rule.v2 ETy.smallUnsigned false Lat.vmul) f
  | .vmulwI f => .v 0x075 (Rule.vMulw [.i32]) f
  | .vmulwN f => .v 0x076 (Rule.vMulw [.n32]) f
  | .vmad f => .v 0x077 (Rule.v3 ETy.smallInts true Lat.vmul) f
  | .vand f => .v 0x078 (Rule.vBits2 ETy.allInts) f
  | .vor f => .v 0x079 (Rule.vBits2 ETy.allInts) f
  | .vxor f => .v 0x07A (Rule.vBits2 ETy.allInts) f
  | .vandn f => .v 0x07B (Rule.vBits2 ETy.allInts) f
  | .vshl f => .v 0x07C (Rule.vShift ETy.allInts) f
  | .vshls f => .v 0x07D (Rule.vShift ETy.smallInts) f
  | .vshr f => .v 0x07E (Rule.vShift ETy.allInts) f
  | .vsra f => .v 0x07F (Rule.vShift ETy.allInts) f
  | .vrot f => .v 0x080 (Rule.vShift ETy.smallInts) f
  | .vminI f => .v 0x081 (Rule.v2 ETy.signedInts) f
  | .vminN f => .v 0x082 (Rule.v2 ETy.unsignedInts) f
  | .vmaxI f => .v 0x083 (Rule.v2 ETy.signedInts) f
  | .vmaxN f => .v 0x084 (Rule.v2 ETy.unsignedInts) f
  | .vclampI f => .v 0x085 (Rule.v3 ETy.smallSigned) f
  | .vclampN f => .v 0x086 (Rule.v3 ETy.smallUnsigned) f
  | .vabsdI f => .v 0x087 (Rule.v2 ETy.smallSigned) f
  | .vabsdN f => .v 0x088 (Rule.v2 ETy.smallUnsigned) f
  | .vavgI f => .v 0x089 (Rule.v2 ETy.smallSigned) f
  | .vavgN f => .v 0x08A (Rule.v2 ETy.smallUnsigned) f
  | .vaddsI f => .v 0x08B (Rule.v2 ETy.smallSigned) f
  | .vaddsN f => .v 0x08C (Rule.v2 ETy.smallUnsigned) f
  | .vsubsI f => .v 0x08D (Rule.v2 ETy.smallSigned) f
  | .vsubsN f => .v 0x08E (Rule.v2 ETy.smallUnsigned) f
  | .vdot2I f => .v 0x08F (Rule.vDot [.i16x2]) f
  | .vdot2N f => .v 0x090 (Rule.vDot [.n16x2]) f
  | .vdot4I f => .v 0x091 (Rule.vDot [.i8x4]) f
  | .vdot4N f => .v 0x092 (Rule.vDot [.n8x4]) f
  | .vrshrI f => .v 0x093 (Rule.vShift ETy.smallSigned) f
  | .vrshrN f => .v 0x094 (Rule.vShift ETy.smallUnsigned) f
  | .vnarrowI f => .v 0x095 (Rule.vNarrow [.i16x2, .i8x4]) f
  | .vnarrowN f => .v 0x096 (Rule.vNarrow [.n16x2, .n8x4]) f
  | .vwidenI f => .v 0x097 (Rule.vWiden [.i16x2, .i8x4, .i32]) f
  | .vwidenN f => .v 0x098 (Rule.vWiden [.n16x2, .n8x4, .n32]) f
  | .vclz f => .v 0x099 (Rule.vBits1 ETy.smallInts) f
  | .vpopc f => .v 0x09A (Rule.vBits1 ETy.smallInts) f
  | .vbfxI f => .v 0x09B (Rule.vBfx [.i32]) f
  | .vbfxN f => .v 0x09C (Rule.vBfx [.n32]) f
  | .vbfi f => .v 0x09D Rule.vBfi f
  | .vcmpI f => .v 0x09E (Rule.vCmp [.i32, .i64]) f
  | .vcmpN f => .v 0x09F (Rule.vCmp [.n32, .n64]) f
  | .vsel f => .v 0x0A0 Rule.vSel f
  | .vmov f => .v 0x0A1 Rule.vMov f
  | .vlut f => .v 0x0A2 Rule.vLut f
  | .vfadd f => .v 0x0A3 Rule.vf2 f
  | .vfsub f => .v 0x0A4 Rule.vf2 f
  | .vfmul f => .v 0x0A5 Rule.vf2 f
  | .vfma f => .v 0x0A6 Rule.vf3 f
  | .vfmin f => .v 0x0A7 Rule.vfMin f
  | .vfminNum f => .v 0x0A8 Rule.vfMin f
  | .vfmax f => .v 0x0A9 Rule.vfMin f
  | .vfmaxNum f => .v 0x0AA Rule.vfMin f
  | .vfclamp f => .v 0x0AB Rule.vfClamp f
  | .vfamax f => .v 0x0AC Rule.vfMin f
  | .vfsign f => .v 0x0AD Rule.vfSign f
  | .vflrp f => .v 0x0AE Rule.vf3 f
  | .vfcmp f => .v 0x0AF Rule.vfCmp f
  | .vfclass f => .v 0x0B0 Rule.vfClass f
  | .vfrcp f => .v 0x0B1 Rule.vfRoot f
  | .vfrsq f => .v 0x0B2 Rule.vfRoot f
  | .vfsqrt f => .v 0x0B3 Rule.vfRoot f
  | .vfdiv f => .v 0x0B4 Rule.vfDiv f
  | .vfexp2 f => .v 0x0B5 Rule.vfFaithful f
  | .vflog2 f => .v 0x0B6 Rule.vfFaithful f
  | .vftanh f => .v 0x0B7 Rule.vfFaithful f
  | .vferf f => .v 0x0B8 Rule.vfFaithful f
  | .vfsigm f => .v 0x0B9 Rule.vfFaithful f
  | .vfsin f => .v 0x0BA Rule.vfFaithful f
  | .vfcos f => .v 0x0BB Rule.vfFaithful f
  | .vfrnd f => .v 0x0BC Rule.vfRnd f
  | .vfscale f => .v 0x0BD Rule.vfScale f
  | .vfdot2 f => .v 0x0BE Rule.vfDot2 f
  | .vfcvtw f => .v 0x0BF Rule.vfCvtw f
  | .vfcvtn f => .v 0x0C0 Rule.vfCvtn f
  | .vfcvts f => .v 0x0C1 Rule.vfCvts f
  | .vicvtI f => .v 0x0C2 (Rule.vICvt [.i32, .i64]) f
  | .vicvtN f => .v 0x0C3 (Rule.vICvt [.n32, .n64]) f
  | .vfcvtiI f => .v 0x0C4 (Rule.vFCvti [.i32, .i64]) f
  | .vfcvtiN f => .v 0x0C5 (Rule.vFCvti [.n32, .n64]) f
  | .vfpack4 f => .v 0x0C6 Rule.vfPack4 f
  | .vfunpk4 f => .v 0x0C7 Rule.vfUnpk4 f
  | .vadam f => .v 0x0C8 Rule.vAdam f
  | .mand f => .v 0x0D0 Rule.m2 f
  | .mor f => .v 0x0D1 Rule.m2 f
  | .mxor f => .v 0x0D2 Rule.m2 f
  | .mandn f => .v 0x0D3 Rule.m2 f
  | .mnot f => .v 0x0D4 Rule.m1 f
  | .mmov f => .v 0x0D5 Rule.m1 f
  | .mshift f => .v 0x0D6 Rule.mShift f
  | .mpopc f => .v 0x0D7 Rule.mCount f
  | .mfirst f => .v 0x0D8 Rule.mCount f
  | .mlast f => .v 0x0D9 Rule.mCount f
  | .mset f => .v 0x0DA Rule.mSet f
  | .mget f => .v 0x0DB Rule.mCount f
  | .voteAny f => .v 0x0DC Rule.vote f
  | .voteAll f => .v 0x0DD Rule.vote f
  | .voteEq f => .v 0x0DE Rule.vote f
  | .voteBallot f => .v 0x0DF Rule.vote f
  | .shflIdx f => .v 0x0E0 (Rule.seg2 .raw) f
  | .shflXor f => .v 0x0E1 (Rule.seg2 .raw) f
  | .vredInt f => .v 0x0E2 Rule.redInt f
  | .vredFloat f => .v 0x0E3 Rule.redFlt f
  | .vscanInt f => .v 0x0E4 Rule.scanInt f
  | .vscanFloat f => .v 0x0E5 Rule.scanFlt f
  | .vbcast f => .v 0x0E6 (Rule.seg2 .scaInl) f
  | .vext f => .v 0x0E7 Rule.vext f
  | .vins f => .v 0x0E8 Rule.vins f
  | .vrev f => .v 0x0E9 Rule.seg1 f
  | .vcompact f => .v 0x0EA Rule.compact f
  | .vragg f => .v 0x0EB Rule.vragg f
  | .vldGlobal f => .m 0x0F0 (Rule.vld [.global] .any true) f
  | .vldScratch f => .m 0x0F1 (Rule.vld [.scratch] .any true) f
  | .vldCluster f => .m 0x0F2 (Rule.vld [.cluster] .any true) f
  | .vstGlobal f => .m 0x0F3 (Rule.vst [.global] .any true) f
  | .vstScratch f => .m 0x0F4 (Rule.vst [.scratch] .any true) f
  | .vstCluster f => .m 0x0F5 (Rule.vst [.cluster] .any true) f
  | .vldb f => .m 0x0F6 (Rule.vld Rule.data3 .none false) f
  | .vldx f => .m 0x0F7 (Rule.vld Rule.data3 .sca false) f
  | .vstx f => .m 0x0F8 (Rule.vst Rule.data3 .sca false) f
  | .sldGlobal f => .m 0x0F9 (Rule.sld Rule.data3 Rule.ldOrders) f
  | .sldParam f => .m 0x0FA (Rule.sld [.param] [.rlx]) f
  | .sst f => .m 0x0FB Rule.sst f
  | .pref f => .m 0x0FC Rule.pref f
  | .cwb f => .m 0x0FD Rule.lineOp f
  | .cinv f => .m 0x0FE Rule.lineOp f
  | .atomI32 f => .a 0x0FF (Rule.atomI 1) f
  | .atomI64 f => .a 0x100 (Rule.atomI 2) f
  | .atomF32 f => .a 0x101 Rule.atomF f
  | .cas32 f => .a 0x102 (Rule.cas 1) f
  | .cas64 f => .a 0x103 (Rule.cas 2) f
  | .satom f => .a 0x104 Rule.satom f
  | .scas f => .a 0x105 Rule.scas f
  | .redI32 f => .a 0x106 (Rule.redI 1) f
  | .redI64 f => .a 0x107 (Rule.redI 2) f
  | .redF32 f => .a 0x108 Rule.redF f
  | .redBf16x2 f => .a 0x109 Rule.redB f
  | .fence f => .m 0x10A Rule.fence f
  | .xfence f => .m 0x10B Rule.xfence f
  | .bar f => .m 0x10C (Rule.bar .none) f
  | .bara f => .m 0x10D (Rule.bar .sdst) f
  | .barw f => .m 0x10E (Rule.bar .ssrc) f
  | .waita32 f => .m 0x10F (Rule.waita .b32) f
  | .waita64 f => .m 0x110 (Rule.waita .b64) f
  | .wakea f => .m 0x111 Rule.wakea f
  | .pflush f => .m 0x112 Rule.pflush f
  | .pflushv f => .m 0x113 Rule.lineOp f
  | .pbar f => .m 0x114 Rule.pbar f
  | .stepset f => .m 0x115 Rule.stepset f
  | .snap f => .m 0x116 Rule.snap f
  | .pstat f => .m 0x117 Rule.pstat f
  | .mmaFp8 f => .x 0x120 Rule.mmaFp8 f
  | .mmaBf16 f => .x 0x121 (Rule.mma16 0) f
  | .mmaF16 f => .x 0x121 (Rule.mma16 1) f
  | .mmaInt8 f => .x 0x122 Rule.mmaFp8 f
  | .mmas f => .x 0x123 Rule.mmas f
  | .mzero f => .x 0x124 (Rule.tile 0) f
  | .mld f => .x 0x125 (Rule.tile 0b000011) f
  | .mst f => .x 0x126 (Rule.mst false) f
  | .mstBand f => .x 0x127 (Rule.mst true) f
  | .mrd f => .x 0x128 (Rule.rowMove false) f
  | .mwr f => .x 0x129 (Rule.rowMove true) f
  | .mscl f => .x 0x12A (Rule.tile 0b000001) f
  | .batonTake f => .x 0x12B Rule.xplain f
  | .batonPass f => .x 0x12C Rule.xplain f
  | .batonQuery f => .x 0x12D Rule.xout0 f
  | .mwait f => .x 0x12E Rule.maskImm f
  | .macq f => .x 0x12F Rule.macq f
  | .mrel f => .x 0x130 Rule.maskImm f
  | .mstep f => .x 0x131 Rule.mstep f
  | .cpy f => .x 0x140 (Rule.command 0b001111) f
  | .cpyf f => .x 0x141 (Rule.command 0b011111) f
  | .cpym f => .x 0x142 (Rule.command 0b011111) f
  | .cpyat f => .x 0x143 (Rule.command 0b011111) f
  | .cpyz f => .x 0x144 (Rule.command 0b011111) f
  | .cpyk f => .x 0x145 (Rule.command 0b001111) f
  | .cpyp f => .x 0x146 (Rule.command 0b001111) f
  | .cfill f => .x 0x147 (Rule.command 0b001111) f
  | .ccnl f => .x 0x148 (Rule.xin 0b000001) f
  | .cqry f => .x 0x149 Rule.cqry f
  | .gthrX32 f => .x 0x14A (Rule.command 0b111111) f
  | .gthrX64 f => .x 0x14B (Rule.command 0b111111) f
  | .sctr f => .x 0x14C (Rule.command 0b111111) f
  | .collAllreduce f => .x 0x14D (Rule.command 0b101111) f
  | .collReducescatter f => .x 0x14E (Rule.command 0b101111) f
  | .collAllgather f => .x 0x14F (Rule.command 0b101111) f
  | .collBcast f => .x 0x150 (Rule.command 0b101111) f
  | .collat f => .x 0x151 (Rule.command 0b111111) f
  | .nvsub f => .x 0x152 Rule.nvsub f
  | .nvdb f => .x 0x153 (Rule.xin 0b000001) f
  | .nvcq f => .x 0x154 Rule.nvcq f
  | .fput f => .x 0x155 (Rule.command 0b011111) f
  | .fputa f => .x 0x156 (Rule.command 0b111111) f
  | .fget f => .x 0x157 (Rule.command 0b011111) f
  | .fatomInt f => .x 0x158 Rule.fatomI f
  | .fatomF32 f => .x 0x159 Rule.fatomF f
  | .fcas f => .x 0x15A Rule.fcas f
  | .ffence f => .x 0x15B (Rule.xin 0b000001) f
  | .tenq f => .x 0x160 (Rule.command 0b000111) f
  | .trenq f => .x 0x161 (Rule.command 0b000111) f
  | .tset f => .x 0x162 Rule.tset f
  | .tstat f => .x 0x163 Rule.tstat f
  | .twait f => .x 0x164 Rule.twait f
  | .targ f => .x 0x165 Rule.targ f
  | .rgrow f => .x 0x166 Rule.rgrow f
  | .rshrink f => .x 0x167 (Rule.nOnly 0) f
  | .spalloc f => .x 0x168 Rule.spalloc f
  | .spfree f => .x 0x169 (Rule.nOnly 0b000001) f
  | .pin f => .x 0x16A Rule.xplain f
  | .tsplit f => .x 0x16B Rule.xout0 f
  | .gopen f => .x 0x16C (Rule.xin 0b000001) f
  | .gclose f => .x 0x16D (Rule.command 0b000001) f
  | .mmioRegisterWrite _ _ _ => .event
  | .partitionDescriptorWrite _ _ _ _ => .event
  | .keyLoad _ _ => .event
  | .keyErase _ _ => .event
  | .keyReload _ _ => .event
  | .xlrbaseWrite _ _ _ => .event
  | .xlrtailWrite _ _ _ => .event
  | .faultFix _ _ => .event
  | .faultDeny _ _ => .event
  | .xlinvPartition _ _ => .event
  | .xlinvPage _ _ => .event
  | .xlinvPartitionAll _ _ => .event
  | .xlinvKey _ _ => .event
  | .xlinvAll _ _ => .event
  | .xlinvDone => .event
  | .walkStart _ _ _ => .event
  | .walkComplete _ _ _ => .event
  | .faultRecordWrite _ _ _ => .event
  | .rrtExchange _ _ _ => .event
  | .rrtExchangeMove _ _ _ => .event
  | .coreHalt _ _ _ => .event
  | .coreHalted _ => .event
  | .coreRelease _ _ _ => .event
  | .rvtWrite _ _ _ _ => .event
  | .wayViabilityWrite _ _ _ _ _ => .event
  | .opStepRequest _ _ => .event
  | .opStepPlan => .event
  | .opStepRowMoves => .event
  | .opStepDispose => .event
  | .opStepWays => .event
  | .opStepRamp => .event
  | .opStepCommit => .event
  | .opStepUpRaise => .event
  | .opStepUpSettled => .event
  | .partitionSwap _ _ => .event
  | .swapDone => .event
  | .postRederr _ _ => .event
  | .postPosted _ _ => .event
  | .asyncTrapEntry _ => .event
  | .frzResume _ _ => .event
  | .frzReplay _ _ => .event
  | .frzKill _ _ => .event
  | .frzFalsestart _ _ => .event
  | .frzPark _ _ => .event
  | .frzRelease _ _ => .event
  | .crbaseWrite _ _ _ => .event
  | .crtailWrite _ _ _ => .event
  | .consumptionRecordWrite _ => .event
  | .nvmeQueuePairWrite _ _ _ _ => .event
  | .doorbellWridx _ _ _ => .event
  | .doorbellInline _ _ _ => .event
  | .hostBar2Read _ _ _ _ => .event
  | .hostBar2Write _ _ _ _ => .event
  | .cxlSnoop _ => .event
  | .mailboxGetinfo _ _ _ => .event
  | .mailboxAttest _ _ _ => .event
  | .mailboxSetop _ _ _ => .event
  | .mailboxSetcap _ _ _ => .event
  | .mailboxHist _ _ _ => .event
  | .fwstage _ _ _ => .event
  | .fwcommit _ _ _ => .event
  | .proofload _ _ _ => .event
  | .partcfg _ _ _ => .event
  | .svcHostLog _ => .event
  | .svcMailboxEvent _ => .event
  | .svcRequestOp _ => .event
  | .svcReadCounter _ => .event
  | .svcReply _ => .event
  | .inputPowerLoss => .event
  | .holdupRailsOff => .event
  | .drainRecordWrite => .event
  | .fullReset => .event
  | .bootVerify => .event
  | .bootReleaseCores _ => .event
  | .bootTrainLinks _ => .event
  | .bootReadRecords _ _ => .event
  | .bootTrainPorts _ => .event
  | .bootCreatePartitions => .event
  | .memctlSectorRead _ _ _ _ => .event
  | .l2Eviction _ => .event
  | .owqDrainEntry _ _ => .event
  | .scrubLine _ _ => .event
  | .pbarComplete _ => .event
  | .lapBoundary => .event
  | .timedActionFire => .event
  | .launchPacketConsume _ _ => .event
  | .enqueueBufferDrain => .event
  | .coordinatorSelect => .event
  | .placeInstance _ => .event
  | .dispatchAgeReserve _ => .event
  | .spillRefill _ => .event
  | .allowanceExpired _ => .event
  | .falseStart _ _ => .event
  | .instanceEnd _ => .event
  | .squadSave _ _ => .event
  | .squadRestore _ _ => .event
  | .streamExchange _ => .event
  | .batonForcedPass _ => .event
  | .macroOpStep _ _ => .event
  | .cpyfFollowonEnter _ => .event
  | .copyComplete _ => .event
  | .gatherComplete _ => .event
  | .collectiveComplete _ => .event
  | .barrierWake _ => .event
  | .waitaResume _ => .event
  | .waitaPoll _ => .event
  | .redCombineFlush _ _ => .event
  | .contentionWindow _ => .event
  | .proofKernelDispatch _ _ => .event
  | .proofKernelResult _ _ => .event
  | .captureWalkStart _ _ => .event
  | .copyOnWrite _ => .event
  | .captureDeveloped _ => .event
  | .captureFixed _ => .event
  | .captureAbort _ _ => .event
  | .parityUnitSend _ _ => .event
  | .heartbeatSend => .event
  | .heartbeatMiss _ => .event
  | .recoveryDetect _ => .event
  | .recoveryFence => .event
  | .recoveryAbort => .event
  | .recoveryTrees => .event
  | .recoveryRebuild _ => .event
  | .recoveryRestripe => .event
  | .recoveryResume => .event
  | .recoveryReport => .event
  | .flitReceive _ _ _ => .event
  | .nakReceive _ _ _ => .event
  | .replayTimeout _ _ => .event
  | .retrainEnd _ => .event
  | .switchTrim _ _ => .event
  | .putPacket _ => .event
  | .putaPacket _ => .event
  | .getreqPacket _ => .event
  | .getrspPacket _ => .event
  | .atomPacket _ => .event
  | .atomrspPacket _ => .event
  | .ackPacket _ => .event
  | .collPacket _ => .event
  | .enqPacket _ => .event
  | .rereqPacket _ => .event
  | .heartbeatPacket _ => .event
  | .timesyncPacket _ => .event
  | .fatalPacket _ => .event
  | .abortPacket _ => .event
  | .trimmedHeaderReceive _ => .event
  | .rereqSend _ => .event
  | .fabricRetxTimeout _ _ _ _ => .event
  | .timesyncSend => .event
  | .timesyncLoss => .event
  | .powerSample _ => .event
  | .telemetryWrite => .event
  | .keyRequestComplete => .event
  | .napEnd _ => .event
  | .memoryResponseReturn _ => .event
  | .hostCxlMemAccess _ _ _ => .event
  | .moduleIdleRetrain _ _ => .event
  | .uncorrectableFecCodeword _ _ => .event

/-- R241, check 2: every field value legal. Events carry no fields. -/
def Shape.legal : Shape → Bool
  | .s _ r f => f.legal r
  | .v _ r f => f.legal r
  | .b _ r f => f.legal r
  | .q _ r f => f.legal r
  | .m _ r f => f.legal r
  | .a _ r f => f.legal r
  | .x _ r f => f.legal r
  | .event => true

/-- Well-formedness: the legality that decoding checks (R241). -/
def Instr.legal (i : Instr) : Bool := i.shape.legal

/-- R232: formats that a JOIN bit may head. -/
def Shape.joinable : Shape → Bool
  | .s .. | .v .. | .m .. => true
  | _ => false

end Sys2Proof
end

