-- ==== Sys2Proof/Decode.lean ====
section
/-! DEFINITION. Decoding of slots (R228, R232, R238, R241, R242) and the encoder that writes the same tables.
Some definitions are marked noncomputable: `Instr` has more constructors than Lean's compiled code can tag. They
reduce in the kernel like every other definition. -/

namespace Sys2Proof

/-- Why bits are no instruction; every case raises ILLOP (R241). -/
inductive DecodeError where
  /-- The opcode is unassigned (R242). -/
  | unassignedOpcode
  /-- A reserved bit is set, or a field holds a reserved code. -/
  | reservedField
  /-- A field value is illegal for the instruction. -/
  | illegalField
  /-- A JOIN bit on a head without a joined form (R232). -/
  | illegalJoin
deriving DecidableEq, Repr

/-! ### Bit fields, least significant first -/

/-- The fields of `w` at the given widths. -/
def unpack : List Nat → Nat → List Nat
  | [], _ => []
  | n :: ns, w => w % 2 ^ n :: unpack ns (w / 2 ^ n)

/-- The word whose fields are given with their widths. -/
def pack : List (Nat × Nat) → Nat
  | [] => 0
  | (n, v) :: r => v % 2 ^ n + 2 ^ n * pack r

/-- Field widths of the formats (R233, R238), from bit 0 up. -/
def widthsS : List Nat := [9, 4, 5, 1, 1, 7, 1, 10, 10, 32, 4, 5, 7]
def widthsV : List Nat := [9, 4, 5, 1, 1, 10, 10, 10, 10, 2, 12, 6, 3, 1, 1, 1, 1, 1, 1, 5, 2]
def widthsB : List Nat := [9, 4, 5, 1, 1, 7, 4, 3, 26, 3, 13, 4, 1, 1, 6, 7, 1]
def widthsM : List Nat := [9, 4, 5, 1, 1, 9, 7, 10, 3, 24, 3, 3, 3, 3, 3, 5, 3]
def widthsA : List Nat := [9, 4, 5, 1, 1, 9, 10, 10, 7, 10, 3, 12, 3, 3, 3, 4, 2]
def widthsX : List Nat := [9, 4, 5, 1, 1, 7, 7, 7, 7, 7, 7, 32, 2]
def widthsQ : List Nat := [9, 4, 5, 1, 1, 7, 1, 10, 12, 16, 30]

/-! ### Codes of the fields -/

/-- R235. -/
def Src.ofCode (n : Nat) : Option Src :=
  match n / 256 with
  | 0 => some (.vec (BitVec.ofNat 8 n))
  | 1 => if n % 256 < 128 then some (.sca (BitVec.ofNat 7 n)) else none
  | 2 => some (.inl (BitVec.ofNat 8 n))
  | 3 => some (.spc (BitVec.ofNat 8 n))
  | _ => none

def Src.code : Src → Nat
  | .vec n => n.toNat
  | .sca n => 256 + n.toNat
  | .inl k => 512 + k.toNat
  | .spc k => 768 + k.toNat

/-- DATA of M format (R238). -/
def Reg.ofCode (n : Nat) : Option Reg :=
  if n < 256 then some (.vec (BitVec.ofNat 8 n))
  else if n < 384 then some (.sca (BitVec.ofNat 7 n)) else none

def Reg.code : Reg → Nat
  | .vec n => n.toNat
  | .sca n => 256 + n.toNat

/-- DST of A format: 0x1FF is no destination (R304). -/
def dstOfCode (n : Nat) : Option (Option Reg) :=
  if n = 0x1FF then some none else (Reg.ofCode n).map some

def dstCode : Option Reg → Nat
  | none => 0x1FF
  | some r => r.code

/-- TYPE (R199). -/
def ETy.ofCode : Nat → Option ETy
  | 0 => some .i32
  | 1 => some .n32
  | 2 => some .i64
  | 3 => some .n64
  | 4 => some .i16x2
  | 5 => some .n16x2
  | 6 => some .i8x4
  | 7 => some .n8x4
  | 8 => some .f32
  | 9 => some .f16x2
  | 10 => some .bf16x2
  | 11 => some .e4m3x4
  | 12 => some .e5m2x4
  | 13 => some .e2m1x8
  | 14 => some .f16
  | 15 => some .bf16
  | _ => none

/-- COND of S format (R238). -/
def Cond.ofCode : Nat → Option Cond
  | 0 => some .eq
  | 1 => some .ne
  | 2 => some .lt
  | 3 => some .le
  | 4 => some .gt
  | 5 => some .ge
  | _ => none

def Cond.code : Cond → Nat
  | .eq => 0
  | .ne => 1
  | .lt => 2
  | .le => 3
  | .gt => 4
  | .ge => 5

/-- COND of B format (R238). -/
def BCond.ofCode : Nat → Option BCond
  | 0 => some .always
  | 1 => some .zero
  | 2 => some .nonzero
  | 3 => some .negative
  | 4 => some .notNegative
  | 5 => some .positive
  | 6 => some .notPositive
  | _ => none

def BCond.code : BCond → Nat
  | .always => 0
  | .zero => 1
  | .nonzero => 2
  | .negative => 3
  | .notNegative => 4
  | .positive => 5
  | .notPositive => 6

/-- SPACE (R238). -/
def Space.ofCode : Nat → Option Space
  | 0 => some .global
  | 1 => some .scratch
  | 2 => some .cluster
  | 3 => some .param
  | _ => none

def Space.code : Space → Nat
  | .global => 0
  | .scratch => 1
  | .cluster => 2
  | .param => 3

/-- WIDTH (R238). -/
def Width.ofCode : Nat → Option Width
  | 0 => some .b8
  | 1 => some .b16
  | 2 => some .b32
  | 3 => some .b64
  | 4 => some .b128
  | 5 => some .b256
  | _ => none

def Width.code : Width → Nat
  | .b8 => 0
  | .b16 => 1
  | .b32 => 2
  | .b64 => 3
  | .b128 => 4
  | .b256 => 5

/-- ORDER (R101). -/
def Order.ofCode : Nat → Option Order
  | 0 => some .rlx
  | 1 => some .acq
  | 2 => some .rel
  | 3 => some .ar
  | 4 => some .sc
  | _ => none

def Order.code : Order → Nat
  | .rlx => 0
  | .acq => 1
  | .rel => 2
  | .ar => 3
  | .sc => 4

/-- SCOPE (R100). -/
def Scope.ofCode : Nat → Option Scope
  | 0 => some .wave
  | 1 => some .squad
  | 2 => some .core
  | 3 => some .cluster
  | 4 => some .die
  | 5 => some .pkg
  | 6 => some .sys
  | 7 => some .fabric
  | _ => none

def Scope.code : Scope → Nat
  | .wave => 0
  | .squad => 1
  | .core => 2
  | .cluster => 3
  | .die => 4
  | .pkg => 5
  | .sys => 6
  | .fabric => 7

/-- AOP (R238). -/
def Aop.ofCode : Nat → Option Aop
  | 0 => some .add
  | 1 => some .min
  | 2 => some .max
  | 3 => some .and
  | 4 => some .or
  | 5 => some .xor
  | 6 => some .xchg
  | 7 => some .incw
  | 8 => some .decw
  | _ => none

def Aop.code : Aop → Nat
  | .add => 0
  | .min => 1
  | .max => 2
  | .and => 3
  | .or => 4
  | .xor => 5
  | .xchg => 6
  | .incw => 7
  | .decw => 8

/-! ### Parsing and packing of the formats -/

def Head.ofFields (st pr pn z : Nat) : Head :=
  { stall := BitVec.ofNat 4 st, pred := BitVec.ofNat 5 pr, pneg := pn == 1, zero := z == 1 }

/-- A one-bit field. -/
def bit (b : Bool) : Nat := if b then 1 else 0

/-- The fields every slot begins with (R233). -/
def Head.fields (h : Head) (op : Nat) : List (Nat × Nat) :=
  [(9, op), (4, h.stall.toNat), (5, h.pred.toNat), (1, bit h.pneg), (1, bit h.zero)]

def SF.parse (w : Nat) (ext : Option Ext) : Option SF :=
  match unpack widthsS w with
  | [_, st, pr, pn, z, dst, r1, a, b, imm, cond, sub, r2] =>
    match Src.ofCode a, Src.ofCode b, Cond.ofCode cond with
    | some a, some b, some cond =>
      if r1 = 0 ∧ r2 = 0 then
        some { h := Head.ofFields st pr pn z, dst := BitVec.ofNat 7 dst, a, b, imm := BitVec.ofNat 32 imm, cond,
               sub := BitVec.ofNat 5 sub, ext }
      else none
    | _, _, _ => none
  | _ => none

def SF.pack (op : Nat) (f : SF) : Nat :=
  Sys2Proof.pack (f.h.fields op ++ [(7, f.dst.toNat), (1, 0), (10, f.a.code), (10, f.b.code), (32, f.imm.toNat),
    (4, f.cond.code), (5, f.sub.toNat), (7, 0)])

def VF.parse (w : Nat) (ext : Option Ext) : Option VF :=
  match unpack widthsV w with
  | [_, st, pr, pn, z, dst, a, b, c, ms, md, ty, rnd, sat, na, nb, nc, aa, ab, sub, r] =>
    match Src.ofCode a, Src.ofCode b, Src.ofCode c, ETy.ofCode ty with
    | some a, some b, some c, some ty =>
      if dst < 256 ∧ r = 0 then
        some { h := Head.ofFields st pr pn z, dst := BitVec.ofNat 8 dst, a, b, c, modsel := BitVec.ofNat 2 ms,
               mod := BitVec.ofNat 12 md, ty, rnd := BitVec.ofNat 3 rnd, sat := sat == 1, nega := na == 1,
               negb := nb == 1, negc := nc == 1, absa := aa == 1, absb := ab == 1, sub := BitVec.ofNat 5 sub, ext }
      else none
    | _, _, _, _ => none
  | _ => none

def VF.pack (op : Nat) (f : VF) : Nat :=
  Sys2Proof.pack (f.h.fields op ++ [(10, f.dst.toNat), (10, f.a.code), (10, f.b.code), (10, f.c.code),
    (2, f.modsel.toNat), (12, f.mod.toNat), (6, f.ty.code), (3, f.rnd.toNat), (1, bit f.sat), (1, bit f.nega),
    (1, bit f.negb), (1, bit f.negc), (1, bit f.absa), (1, bit f.absb), (5, f.sub.toNat), (2, 0)])

def BF.parse (w : Nat) : Option BF :=
  match unpack widthsB w with
  | [_, st, pr, pn, z, creg, cond, ts, ld, rs, rld, ms, mi, de, tok, link, r] =>
    match BCond.ofCode cond with
    | some cond =>
      if r = 0 then
        some { h := Head.ofFields st pr pn z, creg := BitVec.ofNat 7 creg, cond, tslot := BitVec.ofNat 3 ts,
               ldelta := BitVec.ofNat 26 ld, rslot := BitVec.ofNat 3 rs, rld := BitVec.ofNat 13 rld,
               msrc := BitVec.ofNat 4 ms, minv := mi == 1, detach := de == 1, token := BitVec.ofNat 6 tok,
               link := BitVec.ofNat 7 link }
      else none
    | none => none
  | _ => none

def BF.pack (op : Nat) (f : BF) : Nat :=
  Sys2Proof.pack (f.h.fields op ++ [(7, f.creg.toNat), (4, f.cond.code), (3, f.tslot.toNat), (26, f.ldelta.toNat),
    (3, f.rslot.toNat), (13, f.rld.toNat), (4, f.msrc.toNat), (1, bit f.minv), (1, bit f.detach), (6, f.token.toNat),
    (7, f.link.toNat), (1, 0)])

def MF.parse (w : Nat) (ext : Option Ext) : Option MF :=
  match unpack widthsM w with
  | [_, st, pr, pn, z, data, base, idx, sh, off, wd, sp, ord, sc, cp, sub, r] =>
    match Reg.ofCode data, Src.ofCode idx, Width.ofCode wd, Space.ofCode sp, Order.ofCode ord, Scope.ofCode sc with
    | some data, some index, some width, some space, some order, some scope =>
      if r = 0 then
        some { h := Head.ofFields st pr pn z, data, base := BitVec.ofNat 7 base, index, shift := BitVec.ofNat 3 sh,
               off := BitVec.ofNat 24 off, width, space, order, scope, cpol := BitVec.ofNat 3 cp,
               sub := BitVec.ofNat 5 sub, ext }
      else none
    | _, _, _, _, _, _ => none
  | _ => none

def MF.pack (op : Nat) (f : MF) : Nat :=
  Sys2Proof.pack (f.h.fields op ++ [(9, f.data.code), (7, f.base.toNat), (10, f.index.code), (3, f.shift.toNat),
    (24, f.off.toNat), (3, f.width.code), (3, f.space.code), (3, f.order.code), (3, f.scope.code), (3, f.cpol.toNat),
    (5, f.sub.toNat), (3, 0)])

def AF.parse (w : Nat) : Option AF :=
  match unpack widthsA w with
  | [_, st, pr, pn, z, dst, val, cmp, base, idx, sh, off, os, orf, sc, aop, at_] =>
    match dstOfCode dst, Src.ofCode val, Src.ofCode cmp, Src.ofCode idx with
    | some dst, some val, some cmp, some index =>
      match Order.ofCode os, Order.ofCode orf, Scope.ofCode sc, Aop.ofCode aop with
      | some ords, some ordf, some scope, some aop =>
        if at_ < 2 then
          some { h := Head.ofFields st pr pn z, dst, val, cmp, base := BitVec.ofNat 7 base, index,
                 shift := BitVec.ofNat 3 sh, off := BitVec.ofNat 12 off, ords, ordf, scope, aop,
                 unsignedT := at_ == 1 }
        else none
      | _, _, _, _ => none
    | _, _, _, _ => none
  | _ => none

def AF.pack (op : Nat) (f : AF) : Nat :=
  Sys2Proof.pack (f.h.fields op ++ [(9, dstCode f.dst), (10, f.val.code), (10, f.cmp.code), (7, f.base.toNat),
    (10, f.index.code), (3, f.shift.toNat), (12, f.off.toNat), (3, f.ords.code), (3, f.ordf.code), (3, f.scope.code),
    (4, f.aop.code), (2, bit f.unsignedT)])

def XF.parse (w : Nat) : Option XF :=
  match unpack widthsX w with
  | [_, st, pr, pn, z, d0, d1, d2, d3, d4, d5, imm, r] =>
    if r = 0 then
      some { h := Head.ofFields st pr pn z, d0 := BitVec.ofNat 7 d0, d1 := BitVec.ofNat 7 d1, d2 := BitVec.ofNat 7 d2,
             d3 := BitVec.ofNat 7 d3, d4 := BitVec.ofNat 7 d4, d5 := BitVec.ofNat 7 d5, imm := BitVec.ofNat 32 imm }
    else none
  | _ => none

def XF.pack (op : Nat) (f : XF) : Nat :=
  Sys2Proof.pack (f.h.fields op ++ [(7, f.d0.toNat), (7, f.d1.toNat), (7, f.d2.toNat), (7, f.d3.toNat),
    (7, f.d4.toNat), (7, f.d5.toNat), (32, f.imm.toNat), (2, 0)])

def QF.parse (w : Nat) : Option QF :=
  match unpack widthsQ w with
  | [_, st, pr, pn, z, dst, r1, a, xreg, code, r2] =>
    match Src.ofCode a with
    | some a =>
      if r1 = 0 ∧ r2 = 0 then
        some { h := Head.ofFields st pr pn z, dst := BitVec.ofNat 7 dst, a, xreg := BitVec.ofNat 12 xreg,
               code := BitVec.ofNat 16 code }
      else none
    | none => none
  | _ => none

def QF.pack (op : Nat) (f : QF) : Nat :=
  Sys2Proof.pack (f.h.fields op ++ [(7, f.dst.toNat), (1, 0), (10, f.a.code), (12, f.xreg.toNat), (16, f.code.toNat),
    (30, 0)])

/-! ### The opcode map (R242) -/

/-- The seven formats (R238). -/
inductive Fmt where
  | s | v | b | q | m | a | x
deriving DecidableEq, Repr

/-- The format of an assigned opcode (R242). -/
def fmtOf (op : Nat) : Option Fmt :=
  if op ≤ 0x02A then some .s
  else if 0x040 ≤ op ∧ op ≤ 0x04D then some .b
  else if 0x060 ≤ op ∧ op ≤ 0x06D then some .q
  else if 0x070 ≤ op ∧ op ≤ 0x0C8 then some .v
  else if 0x0D0 ≤ op ∧ op ≤ 0x0EB then some .v
  else if 0x0F0 ≤ op ∧ op ≤ 0x0FE then some .m
  else if 0x0FF ≤ op ∧ op ≤ 0x109 then some .a
  else if 0x10A ≤ op ∧ op ≤ 0x117 then some .m
  else if 0x120 ≤ op ∧ op ≤ 0x131 then some .x
  else if 0x140 ≤ op ∧ op ≤ 0x15B then some .x
  else if 0x160 ≤ op ∧ op ≤ 0x16D then some .x
  else none

/-- S-format opcodes. -/
def buildS (op : Nat) (f : SF) : Option Instr :=
  match op with
  | 0x000 => some (.sadd f)
  | 0x001 => some (.ssub f)
  | 0x002 => some (.smul f)
  | 0x003 => some (.smulhI f)
  | 0x004 => some (.smulhN f)
  | 0x005 => some (.sdivI f)
  | 0x006 => some (.sdivN f)
  | 0x007 => some (.sremI f)
  | 0x008 => some (.sremN f)
  | 0x009 => some (.sand f)
  | 0x00A => some (.sor f)
  | 0x00B => some (.sxor f)
  | 0x00C => some (.sandn f)
  | 0x00D => some (.sshl f)
  | 0x00E => some (.sshr f)
  | 0x00F => some (.ssra f)
  | 0x010 => some (.srot f)
  | 0x011 => some (.sminI f)
  | 0x012 => some (.sminN f)
  | 0x013 => some (.smaxI f)
  | 0x014 => some (.smaxN f)
  | 0x015 => some (.scmpI f)
  | 0x016 => some (.scmpN f)
  | 0x017 => some (.ssel f)
  | 0x018 => some (.smov f)
  | 0x019 => some (.sli f)
  | 0x01A => some (.sclz f)
  | 0x01B => some (.spopc f)
  | 0x01C => some (.sbfxI f)
  | 0x01D => some (.sbfxN f)
  | 0x01E => some (.sbfi f)
  | 0x01F => some (.saddr f)
  | 0x020 => some (.ssext f)
  | 0x021 => some (.sabs f)
  | 0x022 => some (.sfadd f)
  | 0x023 => some (.sfmul f)
  | 0x024 => some (.sffma f)
  | 0x025 => some (.sfdiv f)
  | 0x026 => some (.sfsqrt f)
  | 0x027 => some (.sfmin f)
  | 0x028 => some (.sfmax f)
  | 0x029 => some (.sfcmp f)
  | 0x02A => some (.sfcvt f)
  | _ => none

/-- V-format opcodes. -/
def buildV (op : Nat) (f : VF) : Option Instr :=
  match op with
  | 0x070 => some (.vadd f)
  | 0x071 => some (.vsub f)
  | 0x072 => some (.vmul f)
  | 0x073 => some (.vmulhI f)
  | 0x074 => some (.vmulhN f)
  | 0x075 => some (.vmulwI f)
  | 0x076 => some (.vmulwN f)
  | 0x077 => some (.vmad f)
  | 0x078 => some (.vand f)
  | 0x079 => some (.vor f)
  | 0x07A => some (.vxor f)
  | 0x07B => some (.vandn f)
  | 0x07C => some (.vshl f)
  | 0x07D => some (.vshls f)
  | 0x07E => some (.vshr f)
  | 0x07F => some (.vsra f)
  | 0x080 => some (.vrot f)
  | 0x081 => some (.vminI f)
  | 0x082 => some (.vminN f)
  | 0x083 => some (.vmaxI f)
  | 0x084 => some (.vmaxN f)
  | 0x085 => some (.vclampI f)
  | 0x086 => some (.vclampN f)
  | 0x087 => some (.vabsdI f)
  | 0x088 => some (.vabsdN f)
  | 0x089 => some (.vavgI f)
  | 0x08A => some (.vavgN f)
  | 0x08B => some (.vaddsI f)
  | 0x08C => some (.vaddsN f)
  | 0x08D => some (.vsubsI f)
  | 0x08E => some (.vsubsN f)
  | 0x08F => some (.vdot2I f)
  | 0x090 => some (.vdot2N f)
  | 0x091 => some (.vdot4I f)
  | 0x092 => some (.vdot4N f)
  | 0x093 => some (.vrshrI f)
  | 0x094 => some (.vrshrN f)
  | 0x095 => some (.vnarrowI f)
  | 0x096 => some (.vnarrowN f)
  | 0x097 => some (.vwidenI f)
  | 0x098 => some (.vwidenN f)
  | 0x099 => some (.vclz f)
  | 0x09A => some (.vpopc f)
  | 0x09B => some (.vbfxI f)
  | 0x09C => some (.vbfxN f)
  | 0x09D => some (.vbfi f)
  | 0x09E => some (.vcmpI f)
  | 0x09F => some (.vcmpN f)
  | 0x0A0 => some (.vsel f)
  | 0x0A1 => some (.vmov f)
  | 0x0A2 => some (.vlut f)
  | 0x0A3 => some (.vfadd f)
  | 0x0A4 => some (.vfsub f)
  | 0x0A5 => some (.vfmul f)
  | 0x0A6 => some (.vfma f)
  | 0x0A7 => some (.vfmin f)
  | 0x0A8 => some (.vfminNum f)
  | 0x0A9 => some (.vfmax f)
  | 0x0AA => some (.vfmaxNum f)
  | 0x0AB => some (.vfclamp f)
  | 0x0AC => some (.vfamax f)
  | 0x0AD => some (.vfsign f)
  | 0x0AE => some (.vflrp f)
  | 0x0AF => some (.vfcmp f)
  | 0x0B0 => some (.vfclass f)
  | 0x0B1 => some (.vfrcp f)
  | 0x0B2 => some (.vfrsq f)
  | 0x0B3 => some (.vfsqrt f)
  | 0x0B4 => some (.vfdiv f)
  | 0x0B5 => some (.vfexp2 f)
  | 0x0B6 => some (.vflog2 f)
  | 0x0B7 => some (.vftanh f)
  | 0x0B8 => some (.vferf f)
  | 0x0B9 => some (.vfsigm f)
  | 0x0BA => some (.vfsin f)
  | 0x0BB => some (.vfcos f)
  | 0x0BC => some (.vfrnd f)
  | 0x0BD => some (.vfscale f)
  | 0x0BE => some (.vfdot2 f)
  | 0x0BF => some (.vfcvtw f)
  | 0x0C0 => some (.vfcvtn f)
  | 0x0C1 => some (.vfcvts f)
  | 0x0C2 => some (.vicvtI f)
  | 0x0C3 => some (.vicvtN f)
  | 0x0C4 => some (.vfcvtiI f)
  | 0x0C5 => some (.vfcvtiN f)
  | 0x0C6 => some (.vfpack4 f)
  | 0x0C7 => some (.vfunpk4 f)
  | 0x0C8 => some (.vadam f)
  | 0x0D0 => some (.mand f)
  | 0x0D1 => some (.mor f)
  | 0x0D2 => some (.mxor f)
  | 0x0D3 => some (.mandn f)
  | 0x0D4 => some (.mnot f)
  | 0x0D5 => some (.mmov f)
  | 0x0D6 => some (.mshift f)
  | 0x0D7 => some (.mpopc f)
  | 0x0D8 => some (.mfirst f)
  | 0x0D9 => some (.mlast f)
  | 0x0DA => some (.mset f)
  | 0x0DB => some (.mget f)
  | 0x0DC => some (.voteAny f)
  | 0x0DD => some (.voteAll f)
  | 0x0DE => some (.voteEq f)
  | 0x0DF => some (.voteBallot f)
  | 0x0E0 => some (.shflIdx f)
  | 0x0E1 => some (.shflXor f)
  | 0x0E2 => some (.vredInt f)
  | 0x0E3 => some (.vredFloat f)
  | 0x0E4 => some (.vscanInt f)
  | 0x0E5 => some (.vscanFloat f)
  | 0x0E6 => some (.vbcast f)
  | 0x0E7 => some (.vext f)
  | 0x0E8 => some (.vins f)
  | 0x0E9 => some (.vrev f)
  | 0x0EA => some (.vcompact f)
  | 0x0EB => some (.vragg f)
  | _ => none

/-- B-format opcodes. -/
def buildB (op : Nat) (f : BF) : Option Instr :=
  match op with
  | 0x040 => some (.bra f)
  | 0x041 => some (.brv f)
  | 0x042 => some (.jmp f)
  | 0x043 => some (.jmpv f)
  | 0x044 => some (.call f)
  | 0x045 => some (.ret f)
  | 0x046 => some (.rjoin f)
  | 0x047 => some (.detach f)
  | 0x048 => some (.loop f)
  | 0x049 => some (.exit f)
  | 0x04A => some (.tend f)
  | 0x04B => some (.yield f)
  | 0x04C => some (.nap f)
  | 0x04D => some (.nop f)
  | _ => none

/-- Q-format opcodes. -/
def buildQ (op : Nat) (f : QF) : Option Instr :=
  match op with
  | 0x060 => some (.trap f)
  | 0x061 => some (.rte f)
  | 0x062 => some (.xrd f)
  | 0x063 => some (.xwr f)
  | 0x064 => some (.xset f)
  | 0x065 => some (.xclr f)
  | 0x066 => some (.setfmt f)
  | 0x067 => some (.getfmt f)
  | 0x068 => some (.time f)
  | 0x069 => some (.waitt f)
  | 0x06A => some (.bkpt f)
  | 0x06B => some (.errack f)
  | 0x06C => some (.svc f)
  | 0x06D => some (.fencei f)
  | _ => none

/-- M-format opcodes. -/
def buildM (op : Nat) (f : MF) : Option Instr :=
  match op with
  | 0x0F0 => some (.vldGlobal f)
  | 0x0F1 => some (.vldScratch f)
  | 0x0F2 => some (.vldCluster f)
  | 0x0F3 => some (.vstGlobal f)
  | 0x0F4 => some (.vstScratch f)
  | 0x0F5 => some (.vstCluster f)
  | 0x0F6 => some (.vldb f)
  | 0x0F7 => some (.vldx f)
  | 0x0F8 => some (.vstx f)
  | 0x0F9 => some (.sldGlobal f)
  | 0x0FA => some (.sldParam f)
  | 0x0FB => some (.sst f)
  | 0x0FC => some (.pref f)
  | 0x0FD => some (.cwb f)
  | 0x0FE => some (.cinv f)
  | 0x10A => some (.fence f)
  | 0x10B => some (.xfence f)
  | 0x10C => some (.bar f)
  | 0x10D => some (.bara f)
  | 0x10E => some (.barw f)
  | 0x10F => some (.waita32 f)
  | 0x110 => some (.waita64 f)
  | 0x111 => some (.wakea f)
  | 0x112 => some (.pflush f)
  | 0x113 => some (.pflushv f)
  | 0x114 => some (.pbar f)
  | 0x115 => some (.stepset f)
  | 0x116 => some (.snap f)
  | 0x117 => some (.pstat f)
  | _ => none

/-- A-format opcodes. -/
def buildA (op : Nat) (f : AF) : Option Instr :=
  match op with
  | 0x0FF => some (.atomI32 f)
  | 0x100 => some (.atomI64 f)
  | 0x101 => some (.atomF32 f)
  | 0x102 => some (.cas32 f)
  | 0x103 => some (.cas64 f)
  | 0x104 => some (.satom f)
  | 0x105 => some (.scas f)
  | 0x106 => some (.redI32 f)
  | 0x107 => some (.redI64 f)
  | 0x108 => some (.redF32 f)
  | 0x109 => some (.redBf16x2 f)
  | _ => none

/-- X-format opcodes. -/
noncomputable def buildX (op : Nat) (f : XF) : Option Instr :=
  match op with
  | 0x120 => some (.mmaFp8 f)
  | 0x121 => some (if Rule.fmtA f.imm = 0 then .mmaBf16 f else .mmaF16 f)
  | 0x122 => some (.mmaInt8 f)
  | 0x123 => some (.mmas f)
  | 0x124 => some (.mzero f)
  | 0x125 => some (.mld f)
  | 0x126 => some (.mst f)
  | 0x127 => some (.mstBand f)
  | 0x128 => some (.mrd f)
  | 0x129 => some (.mwr f)
  | 0x12A => some (.mscl f)
  | 0x12B => some (.batonTake f)
  | 0x12C => some (.batonPass f)
  | 0x12D => some (.batonQuery f)
  | 0x12E => some (.mwait f)
  | 0x12F => some (.macq f)
  | 0x130 => some (.mrel f)
  | 0x131 => some (.mstep f)
  | 0x140 => some (.cpy f)
  | 0x141 => some (.cpyf f)
  | 0x142 => some (.cpym f)
  | 0x143 => some (.cpyat f)
  | 0x144 => some (.cpyz f)
  | 0x145 => some (.cpyk f)
  | 0x146 => some (.cpyp f)
  | 0x147 => some (.cfill f)
  | 0x148 => some (.ccnl f)
  | 0x149 => some (.cqry f)
  | 0x14A => some (.gthrX32 f)
  | 0x14B => some (.gthrX64 f)
  | 0x14C => some (.sctr f)
  | 0x14D => some (.collAllreduce f)
  | 0x14E => some (.collReducescatter f)
  | 0x14F => some (.collAllgather f)
  | 0x150 => some (.collBcast f)
  | 0x151 => some (.collat f)
  | 0x152 => some (.nvsub f)
  | 0x153 => some (.nvdb f)
  | 0x154 => some (.nvcq f)
  | 0x155 => some (.fput f)
  | 0x156 => some (.fputa f)
  | 0x157 => some (.fget f)
  | 0x158 => some (.fatomInt f)
  | 0x159 => some (.fatomF32 f)
  | 0x15A => some (.fcas f)
  | 0x15B => some (.ffence f)
  | 0x160 => some (.tenq f)
  | 0x161 => some (.trenq f)
  | 0x162 => some (.tset f)
  | 0x163 => some (.tstat f)
  | 0x164 => some (.twait f)
  | 0x165 => some (.targ f)
  | 0x166 => some (.rgrow f)
  | 0x167 => some (.rshrink f)
  | 0x168 => some (.spalloc f)
  | 0x169 => some (.spfree f)
  | 0x16A => some (.pin f)
  | 0x16B => some (.tsplit f)
  | 0x16C => some (.gopen f)
  | 0x16D => some (.gclose f)
  | _ => none

/-- The instruction that a slot's bits name, before its fields are checked. -/
noncomputable def parseSlot (w : Nat) (ext : Option Ext) : Except DecodeError Instr :=
  let found (o : Option Instr) : Except DecodeError Instr :=
    match o with
    | some i => .ok i
    | none => .error .reservedField
  match fmtOf (w % 512) with
  | none => .error .unassignedOpcode
  | some .s => found ((SF.parse w ext).bind (buildS (w % 512)))
  | some .v => found ((VF.parse w ext).bind (buildV (w % 512)))
  | some .b => found ((BF.parse w).bind (buildB (w % 512)))
  | some .q => found ((QF.parse w).bind (buildQ (w % 512)))
  | some .m => found ((MF.parse w ext).bind (buildM (w % 512)))
  | some .a => found ((AF.parse w).bind (buildA (w % 512)))
  | some .x => found ((XF.parse w).bind (buildX (w % 512)))

/-- R241, check 2, for one slot. `ext` is the extension slot when the line word's JOIN bit names it (DEDUCED, safe, log 35). -/
noncomputable def decodeSlot (w : Nat) (ext : Option Ext) : Except DecodeError Instr :=
  match parseSlot w ext with
  | .error e => .error e
  | .ok i =>
    if ext.isSome && !i.shape.joinable then .error .illegalJoin
    else if i.legal then .ok i else .error .illegalField

/-- LIT64 and EXT32 of an extension slot (R232). -/
def Ext.ofNat (w : Nat) : Ext := { lit64 := BitVec.ofNat 64 w, ext32 := BitVec.ofNat 32 (w / 2 ^ 64) }

def Ext.toNat (e : Ext) : Nat := e.lit64.toNat + 2 ^ 64 * e.ext32.toNat

/-- The slot that encodes an instruction of the stream; events have no encoding. -/
def encodeSlot (i : Instr) : Option Nat :=
  match i.shape with
  | .s op _ f => some (f.pack op)
  | .v op _ f => some (f.pack op)
  | .b op _ f => some (f.pack op)
  | .q op _ f => some (f.pack op)
  | .m op _ f => some (f.pack op)
  | .a op _ f => some (f.pack op)
  | .x op _ f => some (f.pack op)
  | .event => none

/-- The extension slot of a joined instruction. -/
def Instr.ext (i : Instr) : Option Ext :=
  match i.shape with
  | .s _ _ f => f.ext
  | .v _ _ f => f.ext
  | .m _ _ f => f.ext
  | _ => none

/-- The words of an instruction: its slot, and its extension slot in bits 191:96 when it is joined. -/
def encode (i : Instr) : Option Nat :=
  (encodeSlot i).map fun w => w + 2 ^ 96 * ((i.ext.map Ext.toNat).getD 0)

/-- Decoding of the words that `encode` gives, the join known from the line word. -/
noncomputable def decodeWords (w : Nat) (joined : Bool) : Except DecodeError Instr :=
  decodeSlot (w % 2 ^ 96) (if joined then some (Ext.ofNat (w / 2 ^ 96)) else none)

/-- Whether a word of the opcode table is taken as joined: SLI has no other form (R232). -/
def tableJoined (nbits w : Nat) : Bool := decide (96 < nbits) || w % 512 == 0x019

/-- The instruction that the decoder reads from the bits `w` of an opcode-table row. -/
noncomputable def decodeTableWord (nbits w : Nat) : Option Instr :=
  match decodeWords w (tableJoined nbits w) with
  | .ok i => some i
  | .error _ => none

/-! ### Fetch lines (R228, R229) -/

/-- Little-endian value of bytes (R9). -/
def leNat : List W8 → Nat
  | [] => 0
  | b :: bs => b.toNat + 256 * leNat bs

/-- `n` little-endian bytes of a value. -/
def leBytes : Nat → Nat → List W8
  | 0, _ => []
  | n + 1, v => BitVec.ofNat 8 v :: leBytes n (v / 256)

/-- Slot i of a line (R228). -/
def lineSlot (bytes : List W8) (i : Nat) : Nat := leNat ((bytes.drop (12 * i)).take 12)

/-- The line word, bytes 60 to 63. -/
def lineWord (bytes : List W8) : Nat := leNat ((bytes.drop 60).take 4)

/-- Bit i of a natural. -/
def nbit (w i : Nat) : Bool := w / 2 ^ i % 2 == 1

def lineLand (lw i : Nat) : Bool := decide (i ≤ 4) && nbit lw i
def linePair (lw i : Nat) : Bool := decide (i ≤ 3) && nbit lw (5 + i)
def lineJoin (lw i : Nat) : Bool := decide (i ≤ 3) && nbit lw (9 + i)
/-- Slot i extends slot i - 1. -/
def lineIsExt (lw i : Nat) : Bool := decide (1 ≤ i) && lineJoin lw (i - 1)

/-- XOR of the low `n` bits of a word. -/
def parity : Nat → Nat → Bool
  | 0, _ => false
  | n + 1, w => (w % 2 == 1) != parity n (w / 2)

/-- SPAR and LPAR hold (R228). -/
def lineParityOk (bytes : List W8) : Bool :=
  let lw := lineWord bytes
  ((List.range 5).all fun i => parity 96 (lineSlot bytes i) == nbit lw (16 + i)) && parity 21 lw == nbit lw 21

/-- The ILLINE conditions of R229, by bit. -/
def lineFaults (lw : Nat) : Nat :=
  let any (p : Nat → Bool) : Bool := (List.range 5).any p
  let j := lineJoin lw
  let p := linePair lw
  bit (decide (lw / 2 ^ 22 ≠ 0) || decide (lw / 2 ^ 13 % 8 ≠ 0)) +
  2 * bit (any fun i => p i && j i) +
  4 * bit (any fun i => lineLand lw i && lineIsExt lw i) +
  8 * bit (any fun i => p i && p (i + 1)) +
  16 * bit (any fun i => j i && j (i + 1)) +
  32 * bit (any fun i => (p i || (decide (1 ≤ i) && p (i - 1))) && (j i || lineIsExt lw i))

/-- The 64 bytes of a line of five slots, with SPAR and LPAR computed (R226, R228). -/
def makeLine (slots : List Nat) (land pair join : Nat) : List W8 :=
  let s (i : Nat) : Nat := slots.getD i 0x04D
  let spar := (List.range 5).foldl (fun acc i => acc + 2 ^ i * bit (parity 96 (s i))) 0
  let lw := land + 2 ^ 5 * pair + 2 ^ 9 * join + 2 ^ 16 * spar
  (List.range 5).flatMap (fun i => leBytes 12 (s i)) ++ leBytes 4 (lw + 2 ^ 21 * bit (parity 21 lw))

end Sys2Proof
end

