-- ==== Sys2Proof/Config.lean ====
section
/-! DEFINITION. What the spec leaves open or to a standard outside it: opaque values that no proof can
see. Every one is named in the assumption log. -/

namespace Sys2Proof.Config

/-- A fresh free value: the n-th value that the spec leaves open (DESIGN CHOICE, safe, log 6). -/
opaque freeValue : Nat → W64

/-- A free bit of the n-th open choice (DESIGN CHOICE, safe, log 6). -/
opaque freeBit : Nat → Bool

/-- Which neighbour a faithful function takes (R278): the function is numbered by its opcode, the
input is its FP32 encoding; `true` takes the neighbour of larger magnitude (DESIGN CHOICE, safe, log 7). -/
opaque faithfulUp : Nat → W32 → Bool

/-- Whether a byte that a core stores in a cycle is performed with respect to the engines only later: an XFENCE makes it so (R113; DESIGN
CHOICE, safe, log 123). -/
opaque storeLags : Nat → Nat → Bool

/-- The number of bytes into which the controller compresses a 256-byte block (R75; DESIGN CHOICE, safe, log 8). -/
opaque compressedSize : List W8 → Nat

/-- The bytes that a compressed block's stored sectors hold (R75; DESIGN CHOICE, safe, log 8). -/
opaque encodeBlock : List W8 → List W8

/-- Whether the security processor unwraps a key blob for a partition and slot (R25; DESIGN CHOICE, safe, log 10). -/
opaque keyUnwraps : Nat → Nat → List W8 → Bool

/-- Whether an SLH-DSA signature by a public key is good over a digest: key, digest, signature (R409; DESIGN CHOICE, safe, log 10). -/
opaque signatureVerifies : List W8 → List W8 → List W8 → Bool

/-- The public key, the signed bytes and the signature that an image carries (R409; DESIGN CHOICE, safe, log 10). -/
opaque imageKey : List W8 → List W8
opaque imageBody : List W8 → List W8
opaque imageSignature : List W8 → List W8

/-- The security version that an image names (R409; DESIGN CHOICE, safe, log 10). -/
opaque imageVersion : List W8 → W64

/-- The SHA-256 of the signing key that the fuses hold (R409; DESIGN CHOICE, safe, log 10). -/
opaque fusedKeyHash : List W8

/-- The ROM of the security processor, which ATTEST measures (R410; DESIGN CHOICE, safe, log 10). -/
opaque romImage : List W8

/-- The ML-KEM-768 encapsulation key of a partition (R25, R410; DESIGN CHOICE, safe, log 10). -/
opaque encapsulationKey : Nat → List W8

/-- The signature of the device identity key over a report, and the certificate of that key (R410; DESIGN CHOICE, safe, log 10). -/
opaque identitySign : List W8 → List W8
opaque identityCertificate : List W8

/-- The retention rating of a die's SCM stack after a number of writes (R85; DESIGN CHOICE, safe, log 117). -/
opaque retentionRating : Nat → Nat → W64

/-- The ciphertext that the controller stores for a sector under a key slot (R77; DESIGN CHOICE, safe, log 10). -/
opaque decryptUnder : Nat → Nat → W64 → List W8 → List W8

/-- The tag word of a sector under key material: the low 32 bits of a GMAC over its ciphertext (R79; DESIGN CHOICE, safe, log 10). -/
opaque sectorTag : Nat → W64 → List W8 → W32

/-- The port by which the switch of a package sends to another on a PATH (R389, R392; DESIGN CHOICE, safe, log 118). -/
opaque route : Nat → Nat → Nat → BitVec 4

/-- Class-7 packets that may leave a port before their credit comes back (R390; DESIGN CHOICE, safe, log 118). -/
opaque portCredits : Nat → Nat

/-- A package's neighbour on the fewest-hop path to a time source (R397; DESIGN CHOICE, safe, log 119). -/
opaque upstream : Nat → Nat → W8

/-- Corrections of a stack above which Mladeno has them reported (R83; DESIGN CHOICE, safe, log 87). -/
opaque corrThreshold : Nat → Nat

/-- The SHA-256 digest that a proof kernel expects at an operating point (R376; DESIGN CHOICE, safe, log 10). -/
opaque proofDigest : Nat → Nat → List W8

/-- What a proof kernel tests: rows of a core's banks, an L1 way, an L2 way of a slice, or the core's lanes, scalar unit or
matrix engine (R376). -/
inductive ProofTarget where
  | rows (rs : List (Nat × Nat))
  | l1Way (way : Nat)
  | l2Way (slice way : Nat)
  | core
deriving DecidableEq, Repr, Inhabited

/-- The target that a proof kernel's descriptor names; the descriptor's format is not in the spec (R376; DESIGN CHOICE, safe, log 10). -/
opaque proofTarget : Nat → ProofTarget

/-- The number of the key material that a blob unwraps to for a slot (R25; DESIGN CHOICE, safe, log 10). -/
opaque keyMaterial : Nat → List W8 → Nat

end Sys2Proof.Config
end

