-- ==== Sys2Proof/Machine/Float.lean ====
section
/-! DEFINITION. Number formats and their arithmetic (R201 to R215): exact dyadic values, one rounding function, and
the faithful functions of R278. -/

namespace Sys2Proof.Machine

/-! ### Flags (R211) -/

abbrev Flags := BitVec 6
namespace Flag
def nf : Flags := 0x01
def sat : Flags := 0x02
def frx : Flags := 0x04
def inx : Flags := 0x08
def dz : Flags := 0x10
def inv : Flags := 0x20
def when (c : Bool) (f : Flags) : Flags := if c then f else 0
end Flag

/-! ### Formats and values (R201, R202) -/

/-- A binary format. The sign bit lies above the magnitude bits. -/
structure FFmt where
  ebits : Nat
  mbits : Nat
  /-- Largest finite magnitude code. -/
  maxMag : Nat
  /-- The code after it is an infinity. -/
  hasInf : Bool
  /-- Canonical NaN, where the format has one. -/
  nan : Option Nat
  /-- DAZ and FTZ apply (R206). -/
  flush : Bool
deriving DecidableEq, Repr, Inhabited

def FFmt.width (f : FFmt) : Nat := 1 + f.ebits + f.mbits
def FFmt.bias (f : FFmt) : Int := 2 ^ (f.ebits - 1) - 1
/-- Exponent of the unit of a subnormal. -/
def FFmt.qmin (f : FFmt) : Int := 1 - f.bias - f.mbits

def fp32 : FFmt := { ebits := 8, mbits := 23, maxMag := 0x7F7FFFFF, hasInf := true, nan := some 0x7FC00000, flush := true }
def fp16 : FFmt := { ebits := 5, mbits := 10, maxMag := 0x7BFF, hasInf := true, nan := some 0x7E00, flush := true }
def bf16 : FFmt := { ebits := 8, mbits := 7, maxMag := 0x7F7F, hasInf := true, nan := some 0x7FC0, flush := true }
def e4m3 : FFmt := { ebits := 4, mbits := 3, maxMag := 0x7E, hasInf := false, nan := some 0x7F, flush := false }
def e5m2 : FFmt := { ebits := 5, mbits := 2, maxMag := 0x7B, hasInf := true, nan := some 0x7E, flush := false }
def e2m1 : FFmt := { ebits := 2, mbits := 1, maxMag := 0x7, hasInf := false, nan := none, flush := false }

/-- A value: `fin neg m e` is (-1)^neg m 2^e, zeros keeping their sign. -/
inductive FVal where
  | nan (signalling : Bool)
  | inf (neg : Bool)
  | fin (neg : Bool) (m : Nat) (e : Int)
deriving DecidableEq, Repr, Inhabited

namespace FVal
def zero (neg : Bool := false) : FVal := .fin neg 0 0
def isNan : FVal → Bool
  | .nan _ => true
  | _ => false
def isSnan : FVal → Bool
  | .nan s => s
  | _ => false
def isInf : FVal → Bool
  | .inf _ => true
  | _ => false
def isZero : FVal → Bool
  | .fin _ m _ => m == 0
  | _ => false
def isFin : FVal → Bool
  | .fin .. => true
  | _ => false
def neg? : FVal → Bool
  | .nan _ => false
  | .inf n => n
  | .fin n _ _ => n
def negate : FVal → FVal
  | .nan s => .nan s
  | .inf n => .inf (!n)
  | .fin n m e => .fin (!n) m e
def abs : FVal → FVal
  | .nan s => .nan s
  | .inf _ => .inf false
  | .fin _ m e => .fin false m e
/-- Exact integer. -/
def ofInt (i : Int) : FVal := .fin (i < 0) i.natAbs 0
end FVal

/-- Decodes the low bits of a code (R201, R202). -/
def FFmt.decode (f : FFmt) (bits : Nat) : FVal :=
  let mag := bits % 2 ^ (f.width - 1)
  let neg := bits / 2 ^ (f.width - 1) % 2 == 1
  if mag ≤ f.maxMag then
    let e := mag / 2 ^ f.mbits
    let m := mag % 2 ^ f.mbits
    if e = 0 then .fin neg m f.qmin else .fin neg (2 ^ f.mbits + m) (f.qmin + (e - 1))
  else if f.hasInf ∧ mag = f.maxMag + 1 then .inf neg
  else .nan (f.hasInf && (mag / 2 ^ (f.mbits - 1)) % 2 == 0)

/-- R206: a subnormal source reads as a zero of its sign under DAZ. -/
def FFmt.read (f : FFmt) (daz : Bool) (bits : Nat) : FVal :=
  let v := f.decode bits
  match v with
  | .fin n m _ => if daz && f.flush && decide (bits % 2 ^ (f.width - 1) < 2 ^ f.mbits) && m != 0 then .zero n else v
  | _ => v

/-! ### Rounding (R207 to R209) -/

/-- One step of the rounding state (R209). -/
def lfsrStep (x : W32) : W32 := if x.getLsbD 0 then (x >>> 1) ^^^ 0x80200003 else x >>> 1

/-- Whether a mode takes the neighbour of larger magnitude: `n` is the lower neighbour in units of the last place,
rem / den the rest, `r` the stochastic draw (R207, R209). -/
def roundsUp (mode : Nat) (neg : Bool) (n rem den : Nat) (r : W32) : Bool :=
  if rem = 0 then false else
  match mode with
  | 2 => false
  | 3 => neg
  | 4 => !neg
  | 5 => den ≤ 2 * rem
  | 6 => r.toNat < 2 ^ 32 * rem / den
  | _ => den < 2 * rem || (den == 2 * rem && n % 2 == 1)

/-- A rounding's outcome. -/
structure Rounded where
  mag : Nat
  inx : Bool
  /-- It selected the virtual neighbour or lies beyond it (R208). -/
  ovf : Bool
deriving DecidableEq, Repr

/-- Rounds (-1)^neg m 2^e to a magnitude code (R207, R208). -/
def FFmt.round (f : FFmt) (mode : Nat) (r : W32) (neg : Bool) (m : Nat) (e : Int) : Rounded :=
  if m = 0 then { mag := 0, inx := false, ovf := false } else
  let q := max f.qmin (e + Nat.log2 m - f.mbits)
  let sh := (q - e).toNat
  let n := if q ≤ e then m * 2 ^ (e - q).toNat else m / 2 ^ sh
  let rem := if q ≤ e then 0 else m % 2 ^ sh
  let base := (q - f.qmin).toNat * 2 ^ f.mbits
  if base + n > f.maxMag then
    let up := match mode with
      | 2 => false
      | 3 => neg
      | 4 => !neg
      | _ => true
    { mag := f.maxMag + bit up, inx := true, ovf := up }
  else
    let mag := base + n + bit (roundsUp mode neg n rem (2 ^ sh) r)
    { mag, inx := rem != 0, ovf := decide (f.maxMag < mag) }
where
  /-- 1 for true. -/
  bit (b : Bool) : Nat := if b then 1 else 0

/-- Sign bit of a format. -/
def FFmt.sign (f : FFmt) (neg : Bool) : Nat := if neg then 2 ^ (f.width - 1) else 0

/-- The canonical NaN, or +0 in E2M1 (R205, R213). -/
def FFmt.nanCode (f : FFmt) : Nat := f.nan.getD 0

/-- An infinity: NaN in E4M3, saturation in E2M1 (R213). -/
def FFmt.infCode (f : FFmt) (neg : Bool) : Nat :=
  if f.hasInf then f.sign neg + f.maxMag + 1
  else match f.nan with
    | some c => c
    | none => f.sign neg + f.maxMag

/-- Writes a finite value with one rounding (R207, R208, R213), then FTZ (R206). -/
def FFmt.writeFin (f : FFmt) (mode : Nat) (r : W32) (sat ftz : Bool) (neg : Bool) (m : Nat) (e : Int) : Nat × Flags :=
  let x := f.round mode r neg m e
  if x.ovf then
    if sat || f.nan.isNone then (f.sign neg + f.maxMag, Flag.sat ||| Flag.inx) else (f.infCode neg, Flag.inx)
  else if ftz && f.flush && x.mag != 0 && decide (x.mag < 2 ^ f.mbits) then (f.sign neg, Flag.inx)
  else (f.sign neg + x.mag, Flag.when x.inx Flag.inx)

/-- Writes an arithmetic result: an infinite result is not clamped (R276). -/
def FFmt.write (f : FFmt) (mode : Nat) (r : W32) (sat ftz : Bool) (x : FVal) : Nat × Flags :=
  match x with
  | .nan _ => (f.nanCode, 0)
  | .inf n => (f.infCode n, 0)
  | .fin n m e => f.writeFin mode r sat ftz n m e

/-- Writes a conversion result (R213). -/
def FFmt.convert (f : FFmt) (mode : Nat) (r : W32) (sat ftz : Bool) (x : FVal) : Nat × Flags :=
  match x with
  | .nan _ => (f.nanCode, if f.nan.isNone then Flag.inv ||| Flag.nf else Flag.nf)
  | .inf n => if sat || f.nan.isNone then (f.sign n + f.maxMag, Flag.sat ||| Flag.nf) else (f.infCode n, Flag.nf)
  | .fin n m e => f.writeFin mode r sat ftz n m e

/-- Encodes a value that the format holds exactly, or selects without rounding (R205, R206). -/
def FFmt.exact (f : FFmt) (x : FVal) : Nat := (f.write 1 0 false false x).1

/-- Rounds to an integer (R214): the integer and whether it changed. -/
def roundInt (mode : Nat) (r : W32) (neg : Bool) (m : Nat) (e : Int) : Int × Bool :=
  let n := if 0 ≤ e then m * 2 ^ e.toNat else m / 2 ^ (-e).toNat
  let rem := if 0 ≤ e then 0 else m % 2 ^ (-e).toNat
  let n' := if roundsUp mode neg n rem (2 ^ (-e).toNat) r then n + 1 else n
  (if neg then -(n' : Int) else n', rem != 0)

/-! ### Exact arithmetic -/

/-- Flags of the sources of an arithmetic instruction (R211, R276). -/
def srcFlags (l : List FVal) : Flags :=
  Flag.when (l.any fun x => !x.isFin) Flag.nf ||| Flag.when (l.any FVal.isSnan) Flag.inv

/-- Signed mantissa at exponent `e0`, for e0 at most the value's own. -/
def FVal.scaled (x : FVal) (e0 : Int) : Int :=
  match x with
  | .fin n m e => let k : Int := m * 2 ^ (e - e0).toNat; if n then -k else k
  | _ => 0

def FVal.exp : FVal → Int
  | .fin _ _ e => e
  | _ => 0

/-- Exact sum; `rdn` gives an exact zero sum of opposite signs its sign (R206). -/
def FVal.add (rdn : Bool) (x y : FVal) : FVal × Flags :=
  match x, y with
  | .nan _, _ => (.nan false, 0)
  | _, .nan _ => (.nan false, 0)
  | .inf a, .inf b => if a = b then (.inf a, 0) else (.nan false, Flag.inv)
  | .inf a, _ => (.inf a, 0)
  | _, .inf b => (.inf b, 0)
  | .fin a m e, .fin b n e' =>
    if m = 0 ∧ n = 0 then (.zero (if a = b then a else rdn), 0)
    else
      let e0 := min e e'
      let t := (FVal.fin a m e).scaled e0 + (FVal.fin b n e').scaled e0
      if t = 0 then (.zero rdn, 0) else (.fin (t < 0) t.natAbs e0, 0)

/-- Exact product. -/
def FVal.mul (x y : FVal) : FVal × Flags :=
  match x, y with
  | .nan _, _ => (.nan false, 0)
  | _, .nan _ => (.nan false, 0)
  | .inf a, .inf b => (.inf (a != b), 0)
  | .inf a, .fin b n _ => if n = 0 then (.nan false, Flag.inv) else (.inf (a != b), 0)
  | .fin a m _, .inf b => if m = 0 then (.nan false, Flag.inv) else (.inf (a != b), 0)
  | .fin a m e, .fin b n e' => (.fin (a != b) (m * n) (e + e'), 0)

/-- x y + z, exact (R276). -/
def FVal.fma (rdn : Bool) (x y z : FVal) : FVal × Flags :=
  let p := x.mul y
  let t := p.1.add rdn z
  (t.1, p.2 ||| t.2)

/-- Bits kept by a quotient or root before its sticky bit. -/
def extraBits : Nat := 96

/-- Quotient with a sticky bit: enough for every rounding of R207 to R209. -/
def FVal.div (x y : FVal) : FVal × Flags :=
  match x, y with
  | .nan _, _ => (.nan false, 0)
  | _, .nan _ => (.nan false, 0)
  | .inf _, .inf _ => (.nan false, Flag.inv)
  | .inf a, .fin b _ _ => (.inf (a != b), 0)
  | .fin a _ _, .inf b => (.zero (a != b), 0)
  | .fin a m e, .fin b n e' =>
    if n = 0 then (if m = 0 then (.nan false, Flag.inv) else (.inf (a != b), Flag.dz))
    else
      let k := extraBits + Nat.log2 n
      let q := m * 2 ^ k / n
      (.fin (a != b) (2 * q + (if m * 2 ^ k % n = 0 then 0 else 1)) (e - e' - k - 1), 0)

/-- Integer square root, bit by bit from 2^k down. -/
def isqrtFrom (n : Nat) : Nat → Nat → Nat
  | 0, r => if (r + 1) * (r + 1) ≤ n then r + 1 else r
  | k + 1, r => let r' := r + 2 ^ (k + 1); isqrtFrom n k (if r' * r' ≤ n then r' else r)

def isqrt (n : Nat) : Nat := isqrtFrom n (Nat.log2 n / 2 + 1) 0

/-- Square root with a sticky bit. -/
def FVal.sqrt (x : FVal) : FVal × Flags :=
  match x with
  | .nan _ => (.nan false, 0)
  | .inf n => if n then (.nan false, Flag.inv) else (.inf false, 0)
  | .fin n m e =>
    if m = 0 then (.zero n, 0)
    else if n then (.nan false, Flag.inv)
    else
      let k := 2 * extraBits + (e % 2).toNat
      let r := isqrt (m * 2 ^ k)
      (.fin false (2 * r + (if r * r = m * 2 ^ k then 0 else 1)) ((e - k) / 2 - 1), 0)

/-- 1 / sqrt x with a sticky bit. -/
def FVal.rsqrt (x : FVal) : FVal × Flags :=
  match x with
  | .nan _ => (.nan false, 0)
  | .inf n => if n then (.nan false, Flag.inv) else (.zero false, 0)
  | .fin n m e =>
    if m = 0 then (.inf n, Flag.dz)
    else if n then (.nan false, Flag.inv)
    else
      let m' := if e % 2 = 0 then m else 2 * m
      let h := if e % 2 = 0 then e / 2 else (e - 1) / 2
      let k := extraBits + Nat.log2 m'
      let r := isqrt (2 ^ (2 * k) / m')
      (.fin false (2 * r + (if r * r * m' = 2 ^ (2 * k) then 0 else 1)) (-h - k - 1), 0)

/-! ### Comparison, minimum and maximum (R205, R250) -/

/-- x < y for values that are not NaN; `signedZero` puts -0 below +0. -/
def FVal.lt (signedZero : Bool) (x y : FVal) : Bool :=
  match x, y with
  | .inf a, .inf b => a && !b
  | .inf a, _ => a
  | _, .inf b => !b
  | x, y =>
    if x.isZero && y.isZero then signedZero && x.neg? && !y.neg?
    else
      let e0 := min x.exp y.exp
      x.scaled e0 < y.scaled e0

/-- IEEE minimum or maximum; with `num`, minimumNumber or maximumNumber. -/
def FVal.minmax (big num : Bool) (x y : FVal) : FVal :=
  if x.isNan then (if num && !y.isNan then y else .nan false)
  else if y.isNan then (if num then x else .nan false)
  else if big then (if x.lt true y then y else x) else (if y.lt true x then y else x)

/-- eq, ne, lt, le, gt, ge by code (R250). -/
def FVal.cmp (c : Nat) (x y : FVal) : Bool × Flags :=
  let un := x.isNan || y.isNan
  let flags := Flag.when (x.isSnan || y.isSnan || (un && decide (2 ≤ c) && decide (c ≤ 5))) Flag.inv
  let lt := x.lt false y
  let gt := y.lt false x
  let res := match c with
    | 0 => !un && !lt && !gt
    | 1 => un || lt || gt
    | 2 => !un && lt
    | 3 => !un && !gt
    | 4 => !un && gt
    | 5 => !un && !lt
    | 6 => un
    | _ => !un
  (res, flags)

/-! ### Integer results (R214) -/

/-- Converts to a w-bit integer; `signed` chooses the range. The rounding sets INX also where its result is out of range (R207, R214). -/
def FVal.toInt (x : FVal) (mode : Nat) (r : W32) (signed : Bool) (w : Nat) : Int × Flags :=
  let lo : Int := if signed then -2 ^ (w - 1) else 0
  let hi : Int := if signed then 2 ^ (w - 1) - 1 else 2 ^ w - 1
  match x with
  | .nan _ => (0, Flag.inv)
  | .inf n => (if n then lo else hi, Flag.inv)
  | .fin n m e =>
    let (i, inx) := roundInt mode r n m e
    let f := Flag.when inx Flag.inx
    if i < lo then (lo, Flag.inv ||| f) else if hi < i then (hi, Flag.inv ||| f) else (i, f)

/-! ### Fixed-point evaluation of the faithful functions (R278) -/

namespace Fx

/-- Fraction bits: far more than separate an FP32 value from a value of these functions (DESIGN CHOICE, safe, log 7). -/
def prec : Nat := 320
def one : Nat := 2 ^ prec
/-- floor (pi 2^320) and floor (ln 2 2^320). -/
def pi : Nat := 0x3243f6a8885a308d313198a2e03707344a4093822299f31d0082efa98ec4e6c89452821e638d01377
def ln2 : Nat := 0xb17217f7d1cf79abc9e3b39803f2f6af40f343267298b62d8a0d175b8baafa2be7b876206debac98
def mul (a b : Nat) : Nat := a * b / one
def div (a b : Nat) : Nat := a * one / b

/-- The sum of t + t y / (k + 1) + ..., n further terms: the exponential series. -/
def expSum (y : Nat) : Nat → Nat → Nat → Nat
  | 0, _, t => t
  | n + 1, k, t => t + expSum y n (k + 1) (mul t y / (k + 1))

/-- e^y for 0 <= y < 1. -/
def exp (y : Nat) : Nat := expSum y 90 0 one

/-- 2^f for 0 <= f < 1. -/
def exp2 (f : Nat) : Nat := exp (mul f ln2)

/-- e^-y, at least one unit. -/
def expNeg (y : Nat) : Nat :=
  let t := div y ln2
  let k := t / one
  let f := t % one
  if 400 ≤ k then 1 else max 1 (if f = 0 then one / 2 ^ k else exp2 (one - f) / 2 ^ (k + 1))

/-- z + z^3 / 3 + z^5 / 5 + ... -/
def atanhSum (z2 : Nat) : Nat → Nat → Nat → Nat
  | 0, _, _ => 0
  | n + 1, k, t => t / k + atanhSum z2 n (k + 2) (mul t z2)

/-- ln x for 1 <= x < 2. -/
def ln (x : Nat) : Nat := let z := div (x - one) (x + one); 2 * atanhSum (mul z z) 110 1 z

/-- Alternating series: even terms and odd terms summed apart. `next k t` is the term after t. -/
def altSum (next : Nat → Nat → Nat) : Nat → Nat → Nat → Nat × Nat
  | 0, _, _ => (0, 0)
  | n + 1, k, t => let r := altSum next n (k + 1) (next k t); (t + r.2, r.1)

/-- sin y and cos y for 0 <= y <= 2. -/
def sin (y : Nat) : Nat := let r := altSum (fun k t => mul (mul t y) y / ((2 * k + 2) * (2 * k + 3))) 60 0 y; r.1 - r.2
def cos (y : Nat) : Nat := let r := altSum (fun k t => mul (mul t y) y / ((2 * k + 1) * (2 * k + 2))) 60 0 one; r.1 - r.2

/-- 2 / sqrt pi. -/
def twoOverSqrtPi : Nat := isqrt (4 * 2 ^ 960 / pi)

/-- The terms x^(2n+1) / (n! (2n+1)) of erf, t being x^(2n+1) / n!. -/
def erfSum (x2 : Nat) : Nat → Nat → Nat → Nat × Nat
  | 0, _, _ => (0, 0)
  | n + 1, k, t => let r := erfSum x2 n (k + 1) (mul t x2 / (k + 1)); (t / (2 * k + 1) + r.2, r.1)

/-- erf x for 0 <= x < 4. -/
def erf (x : Nat) : Nat := let r := erfSum (mul x x) 260 0 x; mul twoOverSqrtPi (r.1 - r.2)

end Fx

/-- A finite magnitude m 2^e in fixed point. FP32 values are exact. -/
def toFx (m : Nat) (e : Int) : Nat :=
  let k := e + Fx.prec
  if 0 ≤ k then m * 2 ^ k.toNat else m / 2 ^ (-k).toNat

/-- A magnitude in fixed point with `k` further binary places, which is not exact. -/
def ofFx (neg : Bool) (x : Nat) (k : Nat := 0) : FVal := .fin neg (2 * x + 1) (-(Fx.prec : Int) - k - 1)

/-- The seven faithful functions, by opcode. -/
inductive FFun where
  | exp2 | log2 | tanh | erf | sigm | sin | cos
deriving DecidableEq, Repr

def FFun.code : FFun → Nat
  | exp2 => 0x0B5 | log2 => 0x0B6 | tanh => 0x0B7 | erf => 0x0B8 | sigm => 0x0B9 | sin => 0x0BA | cos => 0x0BB

/-- An exact result, or the value whose two FP32 neighbours are allowed. -/
inductive Faithful where
  | exact (x : FVal) (flags : Flags)
  | near (x : FVal)
  | overflow
deriving DecidableEq, Repr

/-- A finite, nonzero or zero argument (R278, R279). -/
def FFun.finite (fn : FFun) (neg : Bool) (m : Nat) (e : Int) : Faithful :=
  let x := toFx m e
  let isInt := decide (0 ≤ e) || m % 2 ^ (-e).toNat == 0
  let one : FVal := .fin false 1 0
  match fn with
  | .exp2 =>
    if isInt then
      let k : Int := if neg then -(x / Fx.one : Nat) else (x / Fx.one : Nat)
      if 128 ≤ k then .overflow else if k < -149 then .near (.fin false 1 (max k (-400))) else .exact (.fin false 1 k) 0
    else if neg then
      let k := x / Fx.one
      .near (ofFx false (Fx.exp2 (Fx.one - x % Fx.one)) (min k 400 + 1))
    else if 128 ≤ x / Fx.one then .overflow
    else .near (ofFx false (Fx.exp2 (x % Fx.one) * 2 ^ (x / Fx.one)))
  | .log2 =>
    if m = 0 then .exact (.inf true) Flag.dz
    else if neg then .exact (.nan false) Flag.inv
    else
      let k := e + Nat.log2 m
      if m = 2 ^ Nat.log2 m then .exact (.ofInt k) 0
      else
        let f := Fx.div (Fx.ln (m * Fx.one / 2 ^ Nat.log2 m)) Fx.ln2
        let t : Int := k * Fx.one + f
        .near (if t < 0 then .fin true (2 * (-t).toNat - 1) (-(Fx.prec : Int) - 1) else ofFx false t.toNat)
  | .tanh =>
    if m = 0 then .exact (.zero neg) 0
    else if x < 2 ^ (Fx.prec - 80) then .near (.fin neg (m * 2 ^ 60 - 1) (e - 60))
    else let t := Fx.expNeg (2 * x); .near (ofFx neg (Fx.div (Fx.one - t) (Fx.one + t)))
  | .erf =>
    if m = 0 then .exact (.zero neg) 0
    else if 4 * Fx.one ≤ x then .near (.fin neg (2 ^ 60 - 1) (-60))
    else .near (ofFx neg (Fx.erf x))
  | .sigm =>
    if m = 0 then .exact (.fin false 1 (-1)) 0
    else
      let t := Fx.expNeg x
      .near (if neg then
          let k := Fx.div x Fx.ln2
          let y := if k % Fx.one = 0 then Fx.one else Fx.exp2 (Fx.one - k % Fx.one)
          ofFx false (Fx.div y (Fx.one + t)) (min (k / Fx.one) 400 + (if k % Fx.one = 0 then 0 else 1))
        else ofFx false (Fx.div Fx.one (Fx.one + t)))
  | .sin =>
    if isInt then .exact (.zero neg) 0
    else
      let r := x % (2 * Fx.one)
      let h := r % Fx.one
      let flip := decide (Fx.one ≤ r)
      if 2 * h = Fx.one then .exact (.fin (neg != flip) 1 0) 0
      else .near (ofFx (neg != flip) (Fx.sin (Fx.mul (if 2 * h < Fx.one then h else Fx.one - h) Fx.pi)))
  | .cos =>
    let r := x % (2 * Fx.one)
    let r := if Fx.one < r then 2 * Fx.one - r else r
    if r = 0 then .exact one 0
    else if r = Fx.one then .exact one.negate 0
    else if 2 * r = Fx.one then .exact (.zero false) 0
    else if 2 * r < Fx.one then .near (ofFx false (Fx.cos (Fx.mul r Fx.pi)))
    else .near (ofFx true (Fx.cos (Fx.mul (Fx.one - r) Fx.pi)))

/-- R279. -/
def FFun.eval (fn : FFun) (x : FVal) : Faithful :=
  match x with
  | .nan _ => .exact (.nan false) 0
  | .inf neg =>
    match fn with
    | .exp2 => .exact (if neg then .zero false else .inf false) 0
    | .log2 => if neg then .exact (.nan false) Flag.inv else .exact (.inf false) 0
    | .tanh | .erf => .exact (.fin neg 1 0) 0
    | .sigm => .exact (if neg then .zero false else .fin false 1 0) 0
    | .sin | .cos => .exact (.nan false) Flag.inv
  | .fin neg m e => fn.finite neg m e

/-- The FP32 result of a faithful function on an encoding, with its flags (R278, R279). The choice between the two
neighbours is open (DESIGN CHOICE, safe, log 7). -/
def FFun.apply (fn : FFun) (daz ftz : Bool) (bits : W32) : Nat × Flags :=
  let x := fp32.read daz bits.toNat
  let src := srcFlags [x]
  match fn.eval x with
  | .exact y fl =>
    let z := fp32.write 1 0 false ftz y
    (z.1, src ||| fl ||| z.2)
  | .overflow => (fp32.infCode false, src ||| Flag.inx)
  | .near y =>
    let z := fp32.write (if Config.faithfulUp fn.code bits then (if y.neg? then 3 else 4) else 2) 0 false ftz y
    (z.1, src ||| z.2 ||| Flag.inx)

/-! ### Block scales (R203) -/

/-- The value of an E3M5 code; 0xFF is NaN. -/
def e3m5 (s : Nat) : FVal :=
  if s = 0xFF then .nan false
  else if s / 32 = 0 then .fin false (s % 32) (-7) else .fin false (32 + s % 32) ((s / 32 : Nat) - 8)

end Sys2Proof.Machine
end

