-- ==== Sys2Proof/Machine/Tab.lean ====
section
/-! DEFINITION. Sparse tables: the canonical form that memory, register files and device tables share. An
unlisted key reads as a default that the table's owner names. -/

namespace Sys2Proof

variable {α : Type}

/-- The value at a key; `d` is what an unlisted key reads as. -/
def Tab.getD (t : Tab α) (d : Nat → α) (k : Nat) : α :=
  match t with
  | [] => d k
  | (k', v) :: r => if k = k' then v else Tab.getD r d k

/-- Removes a key. -/
def Tab.erase (t : Tab α) (k : Nat) : Tab α :=
  match t with
  | [] => []
  | (k', v) :: r => if k = k' then Tab.erase r k else (k', v) :: Tab.erase r k

/-- Inserts a key in its place, replacing an entry of the same key. -/
def Tab.insert (t : Tab α) (k : Nat) (v : α) : Tab α :=
  match t with
  | [] => [(k, v)]
  | (k', v') :: r =>
    if k < k' then (k, v) :: (k', v') :: r
    else if k = k' then (k, v) :: r
    else (k', v') :: Tab.insert r k v

/-- Writes a key, keeping the canonical form: no entry equals its default. -/
def Tab.put [DecidableEq α] (t : Tab α) (d : Nat → α) (k : Nat) (v : α) : Tab α :=
  if v = d k then Tab.erase t k else Tab.insert t k v

/-- Keys strictly rising from a bound. -/
def Tab.sortedFrom (t : Tab α) (lo : Nat) : Bool :=
  match t with
  | [] => true
  | (k, _) :: r => decide (lo ≤ k) && Tab.sortedFrom r (k + 1)

/-- The canonical form: keys strictly rising, no entry equal to what an unlisted key reads as. -/
def Tab.wf [DecidableEq α] (t : Tab α) (d : Nat → α) : Bool :=
  Tab.sortedFrom t 0 && t.all fun e => decide (e.2 ≠ d e.1)

/-- Writes several keys in turn. -/
def Tab.putAll [DecidableEq α] (t : Tab α) (d : Nat → α) : List (Nat × α) → Tab α
  | [] => t
  | (k, v) :: r => Tab.putAll (Tab.put t d k v) d r

/-- Changes the value at a key. -/
def Tab.upd [DecidableEq α] (t : Tab α) (d : Nat → α) (k : Nat) (f : α → α) : Tab α :=
  Tab.put t d k (f (Tab.getD t d k))

/-- Drops the keys that fail a test. -/
def Tab.keep (t : Tab α) (p : Nat → Bool) : Tab α := t.filter fun e => p e.1

/-- A table whose unlisted keys read as zero. -/
def Tab.get0 {n : Nat} (t : Tab (BitVec n)) (k : Nat) : BitVec n := Tab.getD t (fun _ => 0) k
def Tab.put0 {n : Nat} (t : Tab (BitVec n)) (k : Nat) (v : BitVec n) : Tab (BitVec n) := Tab.put t (fun _ => 0) k v

end Sys2Proof
end

