-- ==== Sys2Proof/Machine/State.lean ====
section
/-! DEFINITION. The state of one Aedweso package as plain data. The executing stream's own records (its squad, its
wave, itself) are held in `sq`, `wv` and `st`; every other stream lies in its wave's `frags`, its squad's `waves`
or the package's `squads`. -/

namespace Sys2Proof.Machine

/-- Why a step stops. Both cases are safe: no run that the spec describes reaches them. -/
inductive Fault where
  /-- Raised by `step` when `agenda` names a stream that does not exist. Safe: the spec names no such turn. -/
  | noSuchStream (who : StreamId)
deriving DecidableEq, Repr

/-- Why an instruction has no meaning. -/
inductive Refusal where
  /-- Raised by an arm of `exec` that is not modelled. Safe: nothing is claimed of it. -/
  | notModelled (mnemonic : String)
deriving DecidableEq, Repr

/-- A register that an instruction names (R239). -/
inductive RegId where
  | vec (n : Nat)
  | sca (n : Nat)
  | msk (n : Nat)
deriving DecidableEq, Repr, Inhabited

/-- A read through a peer window that has been asked for: its operation, address and length (R118). -/
structure Asked where
  opid : Nat
  pa : Nat
  n : Nat
deriving DecidableEq, Repr, Inhabited

/-- An entry of a reconvergence stack (R164). `frags` lists the recorded fragments that have not arrived. -/
structure StackEntry where
  sibling : Bool
  pc : W64
  mask : W64
  recon : W64
  fmt : W64
  token : BitVec 6
  frags : List Nat
  /-- The distances that a sibling path has inherited at its BRV (R240). -/
  dist : List (RegId × Nat)
deriving DecidableEq, Repr, Inhabited

/-- Kinds of access (R31, ACC). -/
inductive Acc where
  | read | write | exec | atomic
deriving DecidableEq, Repr, Inhabited

/-- Kinds of page that R298 tells apart. -/
inductive PageKind where
  | memory | host | peer | mmio
deriving DecidableEq, Repr, Inhabited

/-- What a stream waits for (R186). -/
inductive Wait where
  /-- It may issue. -/
  | none
  /-- Its instruction could not complete and is issued again: the core keeps the PC on it. -/
  | blocked
  /-- Parked on translation: the lanes that miss with their virtual addresses; or a fetch (R30, R35). The access, and the kinds of page
  that serve it, tell a leaf that makes it trap at once (R416). -/
  | parked (need : List (Nat × Nat)) (fetch : Bool) (acc : Acc) (kinds : List PageKind)
  /-- At a barrier word of a core until its generation changes; whether the wake is an acquire of scope pkg or wider (R126, R312). -/
  | barrier (core off : Nat) (gen : W16) (acq : Bool)
  /-- WAITA on a scratchpad word of a core, or on a word of memory (R313). The instruction is issued again. -/
  | waitScratch (core off : Nat)
  | waitMem (pa : Nat)
  /-- Its command is not accepted yet: it waits on translation of these pages (R334, R37). -/
  | accept (pages : List Nat)
  /-- PBAR, with its scope and its STALL (R94). -/
  | pbar (scope stall : Nat)
  /-- NAP, with the remaining cycles (R260). -/
  | nap (left : Nat)
  /-- WAITT, with the GTB time (R265). -/
  | timed (t : W64)
  /-- A restored WAITT that has no slot of the core's table yet (R192). -/
  | rearm (t : W64)
  /-- SVC, with the register that the reply is written to (R267). -/
  | svc (dst : BitVec 7)
  /-- Frozen after a double fault or a consumption until a decision takes effect (R366, R369). -/
  | frozen
  /-- EXEC is empty and the JOIN entry on top waits for its fragments (R259). -/
  | drained
  /-- It issues nothing more: the wave stream has exited (R259). -/
  | ended
deriving DecidableEq, Repr, Inhabited

/-- A stream's trap record and handler mode (R362). `pinfo` is TINFO0 of the pending error (R367). -/
structure TrapRec where
  cause : W64
  pc : W64
  addr : W64
  mask : W64
  info0 : W64
  info1 : W64
  info2 : W64
  exec : W64
  fmt : W64
  hmode : Bool
  ack : Bool
  pend : Bool
  pcause : W8
  pinfo : W64
  /-- Lanes that EXIT retired in the handler (R364). -/
  hexit : W64
  /-- The wait in which an exhaustion of time found the stream, and in which RTE leaves it again (R159). -/
  under : Wait
deriving DecidableEq, Repr, Inhabited

/-- Kinds of consumption (R368). -/
inductive ConsKind where
  | media | dupmis | mtxsum | integ | mcheck | double
deriving DecidableEq, Repr, Inhabited

/-- A consumption's record before it is written (R370). `op` says that a macro-operation consumed. -/
structure Consumption where
  kind : ConsKind
  who : StreamId
  pc : W64
  addr : W64
  mask : W64
  info : W64
  gtb : W64
  written : Bool
  op : Bool
  /-- What the stream of a double fault waited for, which it does on once it is decided (R366, R373). -/
  under : Wait := .none
deriving DecidableEq, Repr, Inhabited

/-- A push of a line to its home OWQ (R92): `seq` is its entry's number, `none` once settled at once; `tag` the step
tag of the pushed version. -/
structure Push where
  die : Nat
  line : Nat
  seq : Option Nat
  tag : W16
deriving DecidableEq, Repr, Inhabited

/-- A TENQ's packet held or in transit (R174, R353, R358). -/
structure Enqueue where
  who : StreamId
  part : Nat
  handle : W64
  packet : List W8
  /-- The completion word: core of issue, the register's value, VALUE (R322, R417). -/
  word : Option (Nat × Nat × W32)
  /-- A TRENQ's sender: package, domain, flow, operation. -/
  remote : Option (Nat × Nat × Nat × Nat)
deriving DecidableEq, Repr, Inhabited

/-- A batch that GOPEN opened (R358). `refused` when the handle names another package. -/
structure Batch where
  handle : W64
  refused : Bool
  held : List Enqueue
deriving DecidableEq, Repr, Inhabited

/-- A page whose record the supervisor denied: what TINFO0 and TINFO1 report (R35). -/
structure Denied where
  page : Nat
  info : W64
  entry : W64
deriving DecidableEq, Repr, Inhabited

/-- A stream: a wave's own (`fid` 0) or a fragment (R164). `npc` is the model's: the PC after the instruction
being issued, as fetch found it (R230). -/
structure Stream where
  fid : Nat
  /-- Creation token of a fragment (R165). -/
  token : BitVec 6
  pc : W64
  npc : W64
  exec : W64
  fmt : W64
  stack : List StackEntry
  wait : Wait
  /-- The first cycle in which it may issue (R239). -/
  readyAt : Nat
  /-- Stall cycles issued so far: the clock of the checking scoreboard (R240). -/
  issued : Nat
  /-- Registers with an outstanding fixed-latency write, and the value of `issued` at which it is due (R240). -/
  dist : List (RegId × Nat)
  /-- Lap counter and active-set membership (R186). -/
  lap : Nat
  active : Bool
  trap : TrapRec
  /-- Traps taken so far (the model's own count, by which a pair knows that a member trapped). -/
  traps : Nat
  /-- It has entered a handler whose LAND bit its next fetch tests (R231, R363). -/
  entering : Bool
  /-- The line it issues from: address and bytes (R228, R268). -/
  line : Option (W64 × List W8)
  /-- Pages denied while it was parked on them: its instruction meets them when it is issued again (R35). -/
  deny : List Denied
  /-- Pages on which its instruction was parked and whose translation has not arrived, and those whose walk found a leaf without W
  (R26, R35). -/
  pend : List Nat
  seen : List Nat
  /-- What is done of its instruction before it completes: pages whose lines its PFLUSH has pushed (R315), bytes of a transfer that its
  NVSUB has been admitted (R190), the number, plus one, of the macro-operation that its MSTEP waits for (R333). -/
  flushed : Nat
  /-- It continues at the PC after `pc`, without issuing there (R259). -/
  skip : Bool
  pushes : List Push
  /-- Numbers of fragments of the wave under which its path has issued commands, each with the number of the first command that it has
  not (R113, R124, R168). -/
  earlier : List (Nat × Nat)
  batch : Option Batch
  cons : Option Consumption
  /-- Reads through peer windows that its instruction has asked for (R118). -/
  asked : List Asked
deriving DecidableEq, Repr, Inhabited

/-- A fixed-latency write that has not landed: the old values of the lanes it writes (R239, R240). A scalar or
mask register is lane 0. -/
structure InFlight where
  reg : RegId
  lanes : W64
  old : List W64
  land : Nat
deriving DecidableEq, Repr, Inhabited

/-- A wave (R164, R227). Vector register n, lane l is key 64 n + l. -/
structure Wave where
  widx : Nat
  quad : Nat
  slot : Nat
  gran : Nat
  v : Tab W32
  s : Tab W64
  m : Tab W64
  flg : BitVec 6
  /-- Rounding state of a lane, where it differs from its seed (R209). -/
  lfsr : Tab W32
  sbchk : Bool
  shadow : Bool
  detthr : BitVec 6
  /-- SNAPST.SEL (R138). -/
  snapSel : BitVec 6
  /-- Lanes retired by EXIT (R259). -/
  exited : W64
  inflight : List InFlight
  /-- Destinations of tracked results whose response has not been taken, with the issuing fragment id and the cycle in which
  the result lands (R239). -/
  tracked : List (RegId × Nat × Nat)
  /-- The wave's other streams. -/
  frags : List Stream
  ended : Bool
  /-- Frozen at a BKPT with this code (R267). -/
  bkpt : Option (BitVec 16)
deriving DecidableEq, Repr, Inhabited

/-- A register allocation's or instance's budget holder: the RCB and its BUDGET word (R150). -/
structure Budget where
  rcb : W64
  stripes : Nat
  grans : Nat
  cores : Nat
deriving DecidableEq, Repr, Inhabited

/-- What a launch resolves and freezes of the region (R151). -/
structure Region where
  rcb : W64
  handler : W64
  prio : Nat
  fdom : Nat
  budgets : List Budget
  allow : Nat
  shadow : Bool
  detthr : BitVec 6
  sbchk : Bool
  /-- The RCBs that define STEP, and LAPA with LAPB; the values of those two at the launch (R151). -/
  stepRcb : W64
  lapRcb : W64
  lapa : W64
  lapb : W64
deriving DecidableEq, Repr, Inhabited

/-- An instance: one box of a task node (R153, R154). -/
structure Instance where
  /-- Its node's entry in the node table. -/
  node : Nat
  entry : W64
  args : W64
  base : List Nat
  lo : List Nat
  hi : List Nat
  grain : List Nat
  split : List Nat
  scoef : Nat
  sbase : Nat
  waves : Nat
  gran : Nat
  recAllow : Nat
  allow : Nat
  pinFlag : Bool
  pinned : Bool
  die : Nat
  inTiles : List Nat
  resTiles : List Nat
  foot : List (Nat × Nat × Nat)
  path : W32
  region : Region
  /-- The flow: partition and queue (R176, R179). -/
  part : Nat
  queue : Nat
  /-- Pinned NOCAP start (R163). -/
  nocap : Bool
deriving DecidableEq, Repr, Inhabited

/-- Where a squad is (R193, R373). -/
inductive Place where
  | resident
  | shadowSram
  | hbmArea
  | parked
  | discarded
deriving DecidableEq, Repr, Inhabited

/-- A queued or running macro-operation (R325, R329). -/
structure MacroOp where
  /-- Its place among everything issued to the engines (R333). -/
  id : Nat
  who : StreamId
  op : Nat
  imm : W32
  d : List W64
  step : Nat
  /-- Chunks of the step that are already added (R373). -/
  chunk : Nat
  running : Bool
  /-- The wave whose suspension keeps it stopped (R188). -/
  suspended : Bool
  pc : W64
  /-- MWR's vector, and MWR's and MRD's mask, taken at issue (R332). -/
  lanes : List W32
  mask : W64
  /-- The consumption on which it has stopped (R373). -/
  cons : Option Consumption
  /-- A decision lets it go on: poisoned operands poison the elements that they reach (R373). -/
  pass : Bool
deriving DecidableEq, Repr, Inhabited

/-- What a saved squad's image holds beside its waves (R193). Keys are scratchpad offsets and
16384 t + 128 i + j of tile t (DESIGN CHOICE, safe, log 53). -/
structure Image where
  bytes : Tab W8
  poison : List Nat
  tiles : Tab W32
  tilePoison : List Nat
  owned : List (Nat × Nat)
  ops : List MacroOp
  /-- Waves in the baton-returning state, and waves in the FIFO (R188). -/
  returning : List Nat
  waiting : List Nat
deriving DecidableEq, Repr, Inhabited

/-- A TSPLIT whose output has not landed: the cycle in which it does, its axis, the instance's new upper bound there (R321, R357). -/
structure Split where
  lands : Nat
  axis : Nat
  mid : Nat
deriving DecidableEq, Repr, Inhabited

/-- A squad (R156). -/
structure Squad where
  sid : Nat
  part : Nat
  core : Nat
  place : Place
  inst : Instance
  /-- Its waves but for the one in focus. -/
  waves : List Wave
  /-- Stripe numbers it owns (R42). -/
  stripes : List Nat
  /-- SPBASE.BASE (R227). -/
  spBase : Nat
  /-- ALLOWLEFT (R157). -/
  left : Nat
  /-- Core cycles for which it has been charged so far (R179). -/
  resident : Nat
  image : Image
  /-- The wave that took OVERTIME and has not returned (R159). -/
  overtime : Option Nat
  /-- The wave in `overtime` is to meet the exhaustion before it issues again: its handler has ended without lanes, or it stood at a
  reconvergence PC (R159, R259). -/
  overdue : Bool := false
  /-- What TSPLITs have given away that DOM and INSTPATH do not show yet (R321, R357). -/
  splits : List Split := []
  /-- What it has exhausted, until its false start begins (R159, R198). -/
  exhausted : Option Exhausted := none
  /-- Mladeno has been told that it has no place, and it has found none since (R57, R198). -/
  told : Bool := false
  /-- Its allowance has reached zero and the exhaustion is due (R159). -/
  expired : Bool
  /-- The cycle of its last placement (R186). -/
  placed : Nat
deriving DecidableEq, Repr, Inhabited

/-- A 128-byte line in an L1 or an RDC (R63, R67). -/
structure CacheLine where
  line : Nat
  key : Nat
  /-- The way of its set that holds it in an L1. -/
  way : Nat
  /-- A line homed on the core's own die, which the L2 keeps coherent: it reads as at home (R66). -/
  own : Bool
  /-- The bytes held of a line homed elsewhere, and its poisoned sectors, 0 and 1 (R81). -/
  bytes : List W8
  bad : List Nat
deriving DecidableEq, Repr, Inhabited

/-- A translation that a TLB holds (R19, R27). -/
structure TlbEntry where
  part : Nat
  global : Bool
  /-- log2 of the page size: 16, 29 or 42. -/
  size : Nat
  vpage : Nat
  ppage : Nat
  key : Nat
  cp : Nat
  c : Bool
  p : Bool
  x : Bool
  w : Bool
  r : Bool
  d : Bool
  /-- The access at hand is the last use of its line (CPOL 3, R238); no TLB holds it set. -/
  last : Bool := false
deriving DecidableEq, Repr, Inhabited

/-- The write half of an RMW of a scope within its core, performed on the L1 copy and on its way to the L2 (R66, R307). -/
structure WriteThrough where
  pa : Nat
  bytes : List W8
  key : Nat
  c : Bool
  p : Bool
  tag : W16
deriving DecidableEq, Repr, Inhabited

/-- A byte that a stream has stored in a cycle and that engines of some classes may not see yet: they may read what it held before (R113). -/
structure Lag where
  who : StreamId
  key : Nat
  pa : Nat
  byte : W8
  classes : List Nat
  since : Nat
deriving DecidableEq, Repr, Inhabited

/-- A line of a die's metadata cache (R76): what has been written of it since its fill; the rest reads as in the stack. -/
structure MetaLine where
  line : Nat
  news : List (Nat × W8)
deriving DecidableEq, Repr, Inhabited

/-- A non-leaf entry of level 1 or 2 that a walk cache holds: the addresses that it serves by their upper bits (R27). -/
structure WalkNode where
  part : Nat
  level : Nat
  upper : Nat
  entry : W64
deriving DecidableEq, Repr, Inhabited

/-- Where a command stands (R343, CQRY). -/
inductive Phase where
  /-- Its time has not come (R192). -/
  | armed
  /-- Fired and not accepted. -/
  | queued
  | running
  /-- On translation of these pages (R37). -/
  | waiting (pages : List Nat)
  /-- Fired, and its layout record's page is not translated (R37, R337). -/
  | accepting (pages : List Nat)
  /-- Its follow-on waits for a place in the matrix queue (R338). -/
  | following
  /-- Its status and data are known; stores through peer windows are not acknowledged yet (R118). -/
  | draining (status : Nat) (data : W32)
deriving DecidableEq, Repr, Inhabited

/-- A command of a copy engine, gather unit, collective engine or fabric port (R334, R344, R345, R350). -/
structure Command where
  id : Nat
  op : Nat
  who : StreamId
  part : Nat
  core : Nat
  /-- WHO of its issuer (R31). -/
  code : W32
  d : List W64
  imm : W32
  /-- The step tag at issue (R134). -/
  tag : W16
  phase : Phase
  /-- CPYF's follow-on: opcode and IMM32, then six operands (R338). -/
  block : List W64
  /-- The layout record as acceptance read it (R334). -/
  layout : List W8
  /-- A page of it was denied (R37). -/
  denied : Bool
  /-- Pages whose walk found a leaf without W (R26), and the translations that it has waited for (R37). -/
  seen : List Nat
  tlb : List TlbEntry
  /-- Reads through peer windows that it has asked for (R118). -/
  asked : List Asked
  /-- Bytes admitted of a copy (R190); bytes sent of a fabric operation (R350), and of a collective once its stream is taken. -/
  sent : Nat
  /-- A member of its group went DOWN before it fired (R359). -/
  lost : Bool := false
deriving DecidableEq, Repr, Inhabited

/-- Budgeted activities (R190); a per-region one by partition, RCB and the limit that its launch froze (R151). -/
inductive Spend where
  | hostDma
  | nvme
  | snapWalk (die : Nat)
  | owqDrain (die : Nat)
  | proof (die : Nat)
  | copy (part : Nat) (rcb : W64) (limit : Nat)
  | fabTx (part : Nat) (rcb : W64) (limit : Nat)
  | coll (part : Nat) (rcb : W64) (limit : Nat)
  | nvmeOf (part : Nat) (rcb : W64) (limit : Nat)
deriving DecidableEq, Repr, Inhabited

/-- A CPYAT in a core's timed action table (R192). `cmd` is its command. -/
structure Timer where
  cmd : Nat
  time : W64
deriving DecidableEq, Repr, Inhabited

/-- A waiting MACQ.wait (R323). -/
structure MacqWait where
  who : StreamId
  mask : Nat
  since : Nat
deriving DecidableEq, Repr, Inhabited

/-- One core (R1, R39 to R54). Scratchpad bytes are keyed by physical row: 4352 bank + 128 row + byte. -/
structure Core where
  /-- RRT entry of slot j of bank b at key 34 b + j; unlisted entries are the identity (R48). -/
  rrt : Tab Nat
  /-- RVT word of point p, bank b at key 256 p + b; unlisted words are all ones (R49). -/
  rvt : Tab W64
  /-- L1 way viability by point (R53). -/
  l1ways : Tab W64
  halt : Bool
  halted : Bool
  scratch : Tab W8
  /-- Poisoned 8-byte words, by physical byte key / 8 (R41). -/
  poison : List Nat
  cap : Nat
  next : Nat
  doomed : List Nat
  /-- Element (i, j) of tile t at key 16384 t + 128 i + j (R227, R323). -/
  tiles : Tab W32
  tilePoison : List Nat
  /-- Owned tiles with the wave that owns them. -/
  tileOwner : List (Nat × Nat × Nat)
  macqWait : List MacqWait
  /-- The baton's holder, its FIFO, the hold counter, and the returning waves (R188). -/
  baton : Option (Nat × Nat)
  fifo : List (Nat × Nat)
  hold : Nat
  /-- The cycle from which the holder's grant is in force. -/
  grantAt : Nat
  returning : List (Nat × Nat)
  mq : List MacroOp
  /-- Follow-ons of finished copies that wait for a place in the queue (R338), by command. -/
  followWait : List Nat
  /-- L1 TLB, the last filled first (R27). -/
  tlb : List TlbEntry
  /-- L1 lines, the last filled first (R63). -/
  l1 : List CacheLine
  /-- Writes on their way from the L1 to the L2, oldest first (R66, R307). -/
  through : List WriteThrough
  /-- Stored bytes that engines do not see yet (R113; DESIGN CHOICE, safe, log 123). -/
  lags : List Lag := []
  /-- Instruction cache lines, by partition and line VA, the last filled first (R64). -/
  icache : List (Nat × Nat × List W8)
  timers : List Timer
  /-- Points at which it is quarantined (R51, R377). -/
  quarantine : List Nat
  /-- The core reserved for an aged entry (R180), and the proof kernel that runs on it (R183). -/
  reserved : Option Nat
  proof : Option Nat
  /-- Proof kernels that Mladeno has still to run on it: after failures, or since they were discarded (R183, R377). -/
  proofDue : List Nat := []
  /-- Partition of the squad that last owned a stripe (R156). -/
  lastPart : Tab Nat
  /-- By quadrant, one more than the cycle in which it last issued (R186). -/
  slotAt : Tab Nat
deriving DecidableEq, Repr, Inhabited

/-- An empty, halted core with cap(OP1) 32 (R48, R52, R54; DESIGN CHOICE, unsafe, log 5). -/
def Core.reset : Core :=
  { rrt := [], rvt := [], l1ways := [], halt := true, halted := true, scratch := [], poison := [], cap := 32, next := 32,
    doomed := [], tiles := [], tilePoison := [], tileOwner := [], macqWait := [], baton := none, fifo := [], hold := 0,
    grantAt := 0, returning := [], mq := [], followWait := [], tlb := [], l1 := [], through := [], icache := [], timers := [], quarantine := [], reserved := none,
    proof := none, lastPart := [], slotAt := [] }

/-- How a walk ended in a fault (R31). -/
structure WalkFault where
  kind : Nat
  level : Nat
  entry : W64
  key : Nat
deriving DecidableEq, Repr, Inhabited

/-- An entry of a die's miss table (R27, R29). -/
structure Miss where
  part : Nat
  page : Nat
  va : Nat
  acc : Acc
  path : Nat
  who : W32
  walking : Bool
  fault : Option WalkFault
  recorded : Bool
deriving DecidableEq, Repr, Inhabited

/-- An open fault record (R31). `info` is the record's bytes 15:8. -/
structure OpenFault where
  part : Nat
  page : Nat
  info : W64
  entry : W64
deriving DecidableEq, Repr, Inhabited

/-- States of a key slot (R24). -/
inductive KeyState where
  | empty | loaded | failed
deriving DecidableEq, Repr, Inhabited

/-- A key slot; `gen` numbers its material, so that a sector written under other material is known (R77; DESIGN CHOICE, safe, log 10). -/
structure KeySlot where
  state : KeyState
  owner : Nat
  integ : Bool
  gen : Nat
deriving DecidableEq, Repr, Inhabited

/-- A stack of HBM or SCM (R16, R85). -/
inductive MemStack where
  | hbm (n : Nat)
  | scm (n : Nat)
deriving DecidableEq, Repr, Inhabited

/-- What the supervisor's log notes (R10 and the rules named) (DESIGN CHOICE, unsafe, log 76). -/
inductive LogEntry where
  /-- A write of another requester, dropped (R10). -/
  | dropped (pa : W64)
  /-- A write ignored for its value or its moment. -/
  | ignored (pa : W64)
  /-- A response for a page without an open record (R36). -/
  | noRecord (part page : Nat)
  /-- An asynchronous error for an ended wave (R378). -/
  | lateError (who : W32) (code : W8)
  /-- A FALSESTART decision for a pinned instance (R373). -/
  | pinnedFalseStart (sid : Nat)
  /-- A queued half waits for a pool entry (R181). -/
  | spillWait (sid : Nat)
  /-- An imprecise reduction error (R309). -/
  | reduction (who : StreamId) (pa : Nat)
  /-- BKPT's notice (R267). -/
  | breakpoint (who : StreamId) (code : BitVec 16)
  /-- A squad that no core can take (R57), or for which no save space is free (R198). -/
  | unplaced (sid : Nat)
  /-- A memory error record (R83): cause, sector address, key index, stack, path class, GTB. -/
  | memory (cause pa key : Nat) (stack : MemStack) (path : Nat) (gtb : W64)
  /-- A key slot has failed (R82). -/
  | keyFailed (key : Nat)
  /-- The wear counter of a die's SCM stack, with its retention rating (R85). -/
  | wear (die count : Nat) (rating : W64)
  /-- A notice numbered by the rule that gives it. -/
  | notice (rule : Nat) (value : W64)
deriving DecidableEq, Repr, Inhabited

/-- The operating point (R52, R55) and the step in progress. -/
structure Power where
  point : Nat
  target : Nat
  stepping : Bool
  /-- The stage that the step has finished (R56, R59); 0 when none is in progress. -/
  stage : Nat
  up : Bool
  /-- A held request (R55). -/
  heldGo : Option Nat
  /-- Row moves of the plan that are not done: core, bank, slot k, slot j (R56). -/
  moves : List (Nat × Nat × Nat × Nat)
  /-- SETOP's bound (R411). -/
  bound : Nat
  /-- Verdicts on the last samples, latest first: 1 above CAP, 2 below CAP - 100 W, 0 neither (R411). -/
  samples : List Nat
deriving DecidableEq, Repr, Inhabited

/-- What the home L2 holds of a line beside its bytes (R65, R66, R77). -/
structure L2Line where
  /-- The line is present. -/
  held : Bool
  dirty : Bool
  /-- Of a C = 1 page, of a P page, and the key under which it is held. -/
  c : Bool
  p : Bool
  key : Nat
  /-- Its way, and the number of its last use on its die: 0 at the least-recently-used position (R68). -/
  way : Nat
  stamp : Nat
deriving DecidableEq, Repr, Inhabited

/-- A line that is not present. -/
def L2Line.absent : L2Line := { held := false, dirty := false, c := false, p := false, key := 0, way := 0, stamp := 0 }

/-- An entry of an OWQ (R87, R88). -/
structure OwqEntry where
  seq : Nat
  line : Nat
  bytes : List W8
  mask : BitVec 128
  tag : W16
  /-- Poisoned sectors of the line. -/
  bad : List Nat
  /-- The key material of its two sectors, and their tags under a key with integrity: the entry holds ciphertext (R74, R87). -/
  keys : List Nat
  tags : List (Option W32)
deriving DecidableEq, Repr, Inhabited

/-- A word of the combining buffer: element address, its row of R309 and operation, and the merged operand (R310). -/
structure RedElem where
  pa : Nat
  kind : Nat
  aop : Aop
  unsignedT : Bool
  val : W64
  /-- Under what it will be written: the page's key, C and P, and the step tag. -/
  key : Nat
  c : Bool
  p : Bool
  tag : W16
  /-- The stream of each RED merged into it. -/
  merged : List StreamId
deriving DecidableEq, Repr, Inhabited

/-- A line of the combining buffer with the waves whose REDs it holds. -/
structure RedLine where
  line : Nat
  elems : List RedElem
  /-- Squad and wave of each issuer. -/
  issuers : List (Nat × Nat)
  since : Nat
deriving DecidableEq, Repr, Inhabited

/-- A posted service call (R267, R413). -/
structure SvcCall where
  who : StreamId
  code : W16
  arg : W64
  path : W32
  /-- The reply, once the service has been done. -/
  reply : Option W64
deriving DecidableEq, Repr, Inhabited

/-- An entry of a ready pool or spill ring (R180, R181): its instance, the cycle of its entry, and whether it fills a
reserved entry. -/
structure PoolEntry where
  inst : Instance
  since : Nat
  kept : Bool
deriving DecidableEq, Repr, Inhabited

/-- One die (R1). -/
structure Die where
  /-- L2 TLB and walk cache, the last filled first (R27). -/
  tlb : List TlbEntry
  nodes : List WalkNode
  /-- The miss table, and after its 4,096 entries the misses that wait for one (R27, R29). -/
  misses : List Miss
  /-- RDC lines, the last used first (R67, R68). -/
  rdc : List CacheLine
  /-- Uses of its L2 so far. -/
  l2clock : Nat
  /-- Metadata cache, the last used first (R76). -/
  metaLines : List MetaLine
  /-- OWQ: entries oldest first, the number of the last accepted and of the last drained, the lap hold (R89 to R91). -/
  owq : List OwqEntry
  owqLast : Nat
  owqDrained : Nat
  owqHeld : Bool
  /-- Contention predictor: REDs per line in this window, and the hot lines; the combining buffer (R310). -/
  redCount : Tab Nat
  redHot : List Nat
  comb : List RedLine
  /-- L2 way viability word of point p, slice i at key 32 p + i; unlisted words are all ones (R69; DESIGN CHOICE, unsafe, log 5). -/
  l2ways : Tab W64
  /-- Service calls in the order received (R267). -/
  svc : List SvcCall
  /-- Ready pool and spill ring, oldest first, and halves that wait for an entry (R180, R181). -/
  pool : List PoolEntry
  spill : List PoolEntry
  late : List Instance
  /-- The save area that Mladeno has placed in its HBM: address and size (R193). -/
  saveBase : Nat
  saveSize : Nat
deriving DecidableEq, Repr, Inhabited

def Die.reset : Die :=
  { tlb := [], nodes := [], misses := [], rdc := [], l2clock := 0, metaLines := [], owq := [], owqLast := 0, owqDrained := 0, owqHeld := false, redCount := [], redHot := [],
    comb := [], l2ways := [], svc := [], pool := [], spill := [], late := [], saveBase := 0, saveSize := 0 }

/-- A snapshot set's capture state (R137, R138, R141). `state` is the code of SNAPST.STATE. -/
structure SnapSet where
  state : Nat
  cseq : Nat
  cstep : W16
  fstep : W16
  fvalid : Bool
  lstep : W16
  /-- A walk has finished since reset (R135). -/
  walkedOnce : Bool
  cause : W8
  /-- Dies whose walk of the current capture has finished, and the poisoned lines counted on each (R139, R142). -/
  walked : List Nat
  poisoned : Tab Nat
  /-- Parity units of the current capture that have been sent (R144). -/
  sent : List Nat
  /-- OWQ numbers that the log lines await: die and entry (R141). -/
  awaits : List (Nat × Nat)
  /-- Log slot and parity slot of the last FIXED capture (R141, R145). -/
  fslot : Nat
  fpar : Nat
  /-- A parity transfer of the current capture has failed (R141). -/
  parityFailed : Bool
deriving DecidableEq, Repr, Inhabited

def SnapSet.none : SnapSet :=
  { state := 0, cseq := 0, cstep := 0, fstep := 0, fvalid := false, lstep := 0, walkedOnce := false, cause := 0,
    walked := [], poisoned := [], sent := [], awaits := [], fslot := 0, fpar := 0, parityFailed := false }

/-- Whose turn it is (DESIGN CHOICE, unsafe, log 1). -/
inductive Turn where
  /-- A stream issues, `delay` cycles after it could; `upset` are the lanes in which a second, rotated issue would
  differ from the first (R374). -/
  | stream (who : StreamId) (delay : Nat) (upset : W64)
  /-- An event of the opcode table comes about. -/
  | event (i : Instr)
  /-- An error in a word of a core's scratchpad rows (R41): 544 bank + 16 row + word; two bits of it. -/
  | scratchError (core : BitVec 8) (word : Nat) (double : Bool)
  /-- The oldest write on its way from a core's L1 arrives in the L2 (R66, R307). -/
  | writeThrough (core : BitVec 8)
  /-- The supervisor places a die's save area (R193). -/
  | saveArea (die : BitVec 2) (base size : Nat)
  /-- The supervisor decides for a partition's fault domain: an ACT of R372 (R152). -/
  | domain (part : BitVec 4) (fdom : BitVec 8) (act : Nat)
  /-- The ECC of a core's accumulators finds an element uncorrectable: tile, row, column (R375). -/
  | tileError (core : BitVec 8) (tile : BitVec 3) (row col : BitVec 7)
  /-- The proof kernel that runs on a core meets a consumption (R376). -/
  | proofConsumption (core : BitVec 8)
  /-- Mladeno configures the window of HBM that CXL.mem serves: base and size in GiB (R379). -/
  | cxlWindow (base size : Nat)
  /-- A read of n bytes, and a write, of a function's BAR0, the physical function being 0; a write may reach the port split in several TLPs
  (R380, R381, R412). -/
  | bar0Read (fn : BitVec 5) (off : BitVec 20) (n : Nat)
  | bar0Write (fn : BitVec 5) (off : BitVec 20) (bytes : List W8) (split : Bool)
  /-- Mladeno serves the request that a function's mailbox holds (R412). -/
  | boxServe (fn : BitVec 5)
  /-- A Byette port sends its next packet, gets credits back for class 7, and receives the bytes of a packet (R389, R390). -/
  | portSend (port : BitVec 4)
  | portCredit (port : BitVec 4) (n : Nat)
  | portReceive (port : BitVec 4) (bytes : List W8)
  /-- The hub performs the packets that it holds and can perform now (R393, R394). -/
  | heldPackets
  /-- Mladeno configures the paths to a package (R392), a domain's time sources (R397) and the partition bound to a domain (R398). -/
  | paths (dst : W8) (n : Nat)
  | timeSources (domain : W8) (list : List Nat)
  | domainBinding (domain : W8) (part : BitVec 4)
  /-- The hub measures the round trip of a port's link, in GTB ticks (R397). -/
  | roundTrip (port : BitVec 4) (ticks : Nat)
deriving DecidableEq, Repr

/-- What a full OWQ holds: a stream's instruction, or another turn (R89). -/
inductive Waiter where
  | stream (who : StreamId)
  | turn (t : Turn)
deriving DecidableEq, Repr

/-- A device event that a meaning has made due. `step` turns it into the table's event (DESIGN CHOICE, unsafe, log 1). -/
inductive Due where
  | walkStart (die part page : Nat)
  | walkComplete (die part page : Nat)
  | faultRecord (die part page : Nat)
  | instanceEnd (sid : Nat)
  | falseStart (sid : Nat) (cause : Exhausted)
  | allowanceExpired (sid : Nat)
  | lapBoundary
deriving DecidableEq, Repr

/-! ### Queues and nodes (R173 to R177) -/

/-- A consumed packet: where its word goes, and how many of its nodes have not completed (R175, R177). -/
structure Launch where
  id : Nat
  part : Nat
  queue : Nat
  done : W64
  value : W32
  left : Nat
  status : Nat
deriving DecidableEq, Repr, Inhabited

/-- Where an instance counts (R170): in the node table while it waits, in its die's pool, on a core. -/
inductive Level where
  | package
  | die (d : Nat)
  | core (c : Nat)
deriving DecidableEq, Repr, Inhabited

/-- An end counter's tree (R170): counters of cores, clusters (12 d + c) and dies, and the package's. A counter reports to the one above
it when it changes between zero and nonzero. -/
structure EndCount where
  cores : Tab Nat
  clusters : Tab Nat
  dies : Tab Nat
  package : Nat
deriving DecidableEq, Repr, Inhabited

/-- An entry of the node table (R176): its end counter (R170), its root while that waits, and whether a shared entry
holds it. -/
structure Node where
  id : Nat
  launch : Nat
  part : Nat
  queue : Nat
  root : Instance
  waiting : Bool
  count : EndCount
  killed : Bool
  shared : Bool
deriving DecidableEq, Repr, Inhabited

/-- A packet in consumption whose nodes are not all admitted (R176): the records that remain. -/
structure Admitting where
  launch : Nat
  part : Nat
  queue : Nat
  args : W64
  records : List W64
deriving DecidableEq, Repr, Inhabited

/-- A flow (R178): partition, queue and level. -/
abbrev FlowId := Nat × Nat × Nat

/-- The coordinator and the hub's queues. -/
structure Sched where
  launches : List Launch
  nodes : List Node
  admitting : List Admitting
  nextLaunch : Nat
  nextNode : Nat
  nextSquad : Nat
  /-- Fault domains that are parked: partition and FDOM (R152). -/
  parked : List (Nat × Nat)
  /-- Queues that hold a reservation, and those that wait for one, oldest first (R176). -/
  holders : List (Nat × Nat)
  unreserved : List (Nat × Nat)
  /-- Inline packets not yet consumed: partition, queue, index, bytes (R174). -/
  inlines : List (Nat × Nat × Nat × List W8)
  /-- Deficits, and the flow last served at each level (R179). -/
  deficits : List (FlowId × Int)
  served : List (Nat × FlowId)
  /-- The hub's enqueue buffer (R174). -/
  enq : List Enqueue
  /-- A swap in progress: OUT and IN; a held SWAPCTL (R196). -/
  swap : Option (Nat × Nat)
  swapHeld : Option W64
  /-- Partitions that are swapped out. -/
  swappedOut : List Nat := []
  /-- Pre-splits, counted apart from false starts (R163). -/
  presplits : Nat
  /-- Cluster, plus one, that made a tile full, by 65536 die + tile (R182). -/
  makers : Tab Nat
deriving DecidableEq, Repr, Inhabited

def Sched.reset : Sched :=
  { launches := [], nodes := [], admitting := [], nextLaunch := 1, nextNode := 1, nextSquad := 1, parked := [], holders := [], unreserved := [],
    inlines := [], deficits := [], served := [], enq := [], swap := none, swapHeld := none, presplits := 0,
    makers := [] }

/-! ### Host port (R379 to R383) -/

/-- The logic of an NVMe queue pair (R383): submission tail, the submission head that the drive last reported,
completion head and expected phase. -/
structure Qp where
  tail : Nat
  sqHead : Nat
  head : Nat
  phase : Bool
deriving DecidableEq, Repr, Inhabited

def Qp.reset : Qp := { tail := 0, sqHead := 0, head := 0, phase := true }

/-- What the device has put on the host port. -/
inductive HostOut where
  /-- A posted write of a doorbell: bus address and value (R383). -/
  | posted (addr : W64) (v : W32)
  /-- The completion of a read with its bytes, with Unsupported Request, or with Completer Abort (R382). -/
  | completion (bytes : List W8)
  | unsupported
  | aborted
  /-- POWER: the package exceeds its limit at OP4 (R411). -/
  | power (watts : Nat)
  /-- A back-invalidation of a host copy of a line (R119). -/
  | backInv (line : Nat)
deriving DecidableEq, Repr, Inhabited

/-! ### Die links (R384 to R388) -/

/-- A request message (R384): a stream's instruction, for a line that another die homes (DESIGN CHOICE, unsafe, log 71). -/
structure LinkMsg where
  who : StreamId
  line : Nat
deriving DecidableEq, Repr, Inhabited

/-- One direction of a module: the sender's next SEQ, its replay buffer, the SEQ it sends next and the time of the last
ACKSEQ progress; the receiver's last accepted SEQ, whether it discards until the expected one, and the flits since its
last ACKSEQ. `executed` counts the flits whose messages were executed; `nak` is a NAK that the receiver has still to send. Requests wait in
`waiting` for a flit, travel in the flit of a SEQ in `flying`, and are `executed` once it is accepted: `granted`. -/
structure LinkDir where
  next : BitVec 12
  held : List Flit
  resume : Option (BitVec 12)
  progress : Nat
  accepted : BitVec 12
  discarding : Bool
  unacked : Nat
  executed : Nat
  nak : Bool := false
  waiting : List LinkMsg := []
  flying : List (BitVec 12 × LinkMsg) := []
  granted : List LinkMsg := []
deriving DecidableEq, Repr, Inhabited

def LinkDir.reset : LinkDir :=
  { next := 0, held := [], resume := none, progress := 0, accepted := 0xFFF, discarding := false, unacked := 0, executed := 0 }

/-- A module: width, retraining since, times of CRC failures in the window of R386, counters of R388. -/
structure LinkModule where
  half : Bool
  failed : Bool
  training : Option Nat
  recent : List Nat
  /-- The retrain in progress returns the module to x64 (R386). -/
  wide : Bool
  crcFail : Nat
  replay : Nat
  retrain : Nat
deriving DecidableEq, Repr, Inhabited

def LinkModule.reset : LinkModule :=
  { half := false, failed := false, training := none, recent := [], wide := false, crcFail := 0, replay := 0, retrain := 0 }

/-! ### Fabric (R389 to R394) -/

/-- TYPE codes of packets (R389). -/
inductive PacketKind where
  | put | puta | getreq | getrsp | atom | atomrsp | ack | coll | enq | rereq | heartbeat | timesync | fatal | abort
deriving DecidableEq, Repr, Inhabited

/-- An access through a peer window that is not complete (R118): of a stream, or of its command. -/
structure WindowOp where
  opid : Nat
  who : StreamId
  cmd : Option Nat
  pkg : Nat
  pa : Nat
  n : Nat
  store : Bool
deriving DecidableEq, Repr, Inhabited

/-- A packet of such an access that has not been sent, and the counter that it is charged to (R190). -/
structure WindowWait where
  kind : PacketKind
  packet : Packet
  charge : Spend
deriving DecidableEq, Repr, Inhabited

/-- A flow at its source: next PSN, and the packets not acknowledged, oldest first (R392, R393). -/
structure TxFlow where
  dst : Nat
  domain : Nat
  flow : Nat
  psn : Nat
  kept : List (PacketKind × Packet)
deriving DecidableEq, Repr, Inhabited

/-- A packet that a receiver holds (R393): its kind, and the steps of the snapshot sets' holders as it arrived (R134). -/
structure HeldPacket where
  kind : PacketKind
  packet : Packet
  steps : List (Nat × W16)
deriving DecidableEq, Repr, Inhabited

/-- A GETREQ whose GETRSPs are not all sent: the byte offset reached, and whether what has been read was poisoned. -/
structure ReadReq where
  packet : Packet
  offset : Nat
  bad : Bool
deriving DecidableEq, Repr, Inhabited

/-- A packet in the queue of an output port (R390, R391). -/
structure PortEntry where
  port : Nat
  kind : PacketKind
  packet : Packet
deriving DecidableEq, Repr, Inhabited

/-- What a receiver knows of an operation: PSN of its first and last packet, PSNs performed, whether it was refused. -/
structure RxOp where
  opid : Nat
  first : Option Nat
  last : Option Nat
  got : List Nat
  status : Nat
  acked : Bool
deriving DecidableEq, Repr, Inhabited

/-- A flow at its receiver: next PSN, PSNs performed beyond it, packets held, holes, operations and kept ATOMRSPs
(R393, R394); `dead` are the PSN ranges of its ABORTs: the first PSN and the one after the last. -/
structure RxFlow where
  src : Nat
  domain : Nat
  flow : Nat
  next : Nat
  done : List Nat
  held : List HeldPacket
  holes : List Nat
  ops : List RxOp
  atoms : List (Nat × Packet)
  dead : List (Nat × Nat)
  reads : List ReadReq
deriving DecidableEq, Repr, Inhabited

/-- A hole to be re-requested: a flow's domain and number, its PSN, and the header's TRIMS. -/
structure Hole where
  domain : Nat
  flow : Nat
  psn : Nat
  trims : Nat
deriving DecidableEq, Repr, Inhabited

/-- The pacer towards one source (R392): re-requests that wait, those outstanding in this lap, and the last one's time. -/
structure Pacer where
  src : Nat
  waiting : List Hole
  out : List Hole
  count : Nat
  last : Option Nat
deriving DecidableEq, Repr, Inhabited

/-- A stream of bytes that a member has sent for a collective (DESIGN CHOICE, safe, log 11): member's package, group, number, bytes. -/
structure CollIn where
  src : Nat
  group : Nat
  number : Nat
  bytes : List W8
  /-- Units of 64 bytes of it that hold poison. -/
  bad : List Nat := []
  /-- The status with which the member ended, 0 while it has not failed, and whether its stream is whole. -/
  status : Nat
  whole : Bool
deriving DecidableEq, Repr, Inhabited

/-- A parity unit that this package accumulates (R144). -/
structure ParityAcc where
  set : Nat
  cseq : Nat
  unit : Nat
  bytes : List W8
  got : List Nat
  written : Bool
deriving DecidableEq, Repr, Inhabited

/-- The hub's fabric side. `queue` holds what waits at the switch's output ports and `wire` what they have sent, oldest first. -/
structure Fabric where
  /-- Accesses through peer windows that are not complete (R118). -/
  window : List WindowOp
  /-- Their packets that have found no room in their flows, or no budget, oldest first (R190, R393). -/
  windowWait : List WindowWait
  tx : List TxFlow
  rx : List RxFlow
  pacers : List Pacer
  queue : List PortEntry
  wire : List (PacketKind × Packet)
  /-- By port: the class that the weighted round robin is at and how many packets of it have left, as 16 class + count; class-7 packets whose
  credits are out (R390); the measured round trip of its link in GTB ticks, plus 1 (R397). -/
  rounds : Tab Nat
  spentCredits : Tab Nat
  roundTrip : Tab Nat
  /-- Paths configured to a package (R392). -/
  paths : Tab Nat
  /-- Packages that are DOWN (R145), and Byette domains with the partitions bound to them (R398). -/
  down : List Nat
  binds : List (Nat × Nat)
  /-- The number of the next of them. -/
  nextOp : Nat
  /-- Collectives issued on each group, and what peers have sent (R347). -/
  issued : Tab Nat
  coll : List CollIn
  parity : List ParityAcc
  /-- GTB of the last heartbeat from a peer, and of the last TIMESYNC (R145, R397). -/
  heard : List (Nat × Nat)
  synced : Option Nat
  freeRun : Bool
  /-- Steering of the GTB's rate, in ppm (R397). -/
  rate : Int
  /-- The time sources' lists by domain (R397). -/
  sources : List (Nat × List Nat)
  heartbeatAt : Nat
  timesyncAt : Nat
deriving DecidableEq, Repr, Inhabited

def Fabric.reset : Fabric :=
  { window := [], windowWait := [], tx := [], rx := [], pacers := [], queue := [], wire := [], rounds := [], spentCredits := [], roundTrip := [], paths := [], down := [], binds := [], nextOp := 0, issued := [], coll := [], parity := [], heard := [],
    synced := none, freeRun := false, rate := 0, sources := [], heartbeatAt := 0, timesyncAt := 0 }

/-- Member recovery in progress (R145): its last finished stage, the members lost, the sets of their groups, the GTB times at which its
stages ended. -/
structure Recovery where
  stage : Nat
  lost : List Nat
  affected : List Nat
  times : List Nat
  rebuilt : List StripeUnit
  poisoned : List (Nat × Nat)
  failed : Bool
  unprotected : List Nat
  /-- Sets whose capture was in progress at the fence. -/
  inProgress : List Nat
  /-- States of the affected sets before the fence (R141). -/
  was : List (Nat × Nat) := []
  /-- Ranks lost: group, rank, and whether the spare took it. -/
  ranks : List (Nat × Nat × Bool)
  /-- What a restart with a second loss finds again (R148): registers as they were before stage 4, and the parity bytes and their
  poisoned sectors whose place rebuilt units have taken. -/
  before : List (Nat × W64)
  /-- Rebuilt units that take a parity unit's place: set, member, unit, holder (R147). -/
  holders : List (Nat × Nat × Nat × Nat)
  replaced : List (Nat × W8)
  replacedBad : List Nat
deriving DecidableEq, Repr, Inhabited

/-! ### Services (R408 to R414) -/

/-- A mailbox (R412). `status`, `tag` and `data` are the last response. -/
structure Mailbox where
  status : Nat
  tag : W16
  data : List W8
  events : List W64
  /-- The request word and the argument bytes that have been written; whether a submitted request is in progress. -/
  request : W64 := 0
  args : Tab W8 := []
  busy : Bool := false
deriving DecidableEq, Repr, Inhabited

def Mailbox.reset : Mailbox := { status := 0, tag := 0, data := [], events := [] }

/-- An installed proof kernel (R376). -/
structure ProofKernel where
  id : Nat
  image : List W8
deriving DecidableEq, Repr, Inhabited

/-- A capture record of a die (R142). `state` is the code of SNAPST.STATE, `par` the parity slot that it uses. -/
structure CaptureRec where
  die : Nat
  set : Nat
  slot : Nat
  par : Nat
  step : W16
  cseq : Nat
  state : Nat
  poisoned : Nat
  gtb : W64
deriving DecidableEq, Repr, Inhabited

/-- Boot, firmware, mailboxes, logs and telemetry. -/
structure Admin where
  /-- The last stage of R408 that has succeeded, and the one that failed. -/
  stage : Nat
  failed : Option Nat
  suspect : Bool
  /-- The boot flash: two slots, the active one, whether the staged one is complete; the fused counter (R409). -/
  slots : List (List W8)
  active : Nat
  staged : Bool
  counter : W64
  kernels : List ProofKernel
  boxes : Tab Mailbox
  /-- Host logs by partition (R413). -/
  hostLog : List (Nat × List W8)
  /-- Virtual functions bound: function and partition (R380). -/
  bound : List Nat
  /-- Stored configuration of partitions (R408): partition, offset, word. -/
  config : List (Nat × Nat × W64)
  /-- Counts of R414 by 65536 section + bin, now and as last written. -/
  hist : Tab Nat
  histWritten : Tab Nat
  /-- DUPMIS and MTXSUM consumptions of a core with their GTB times, of the last second (R377). -/
  failures : List (Nat × Nat)
  /-- Corrections by stack: HBM stacks, then 8 and the SCM stack (R83). -/
  corrected : Tab Nat
  /-- The field mask of the lifetime area: word of point p, bank b of core c at key 1280 c + 256 p + b; unlisted words are all
  ones (R49). -/
  fieldRows : Tab W64
  /-- Members that a recovery had lost when input power was lost (R148). -/
  lostMembers : List Nat
  /-- The parity bytes, and their poisoned sectors, whose place rebuilt units had taken when it was lost (R148). -/
  replaced : List (Nat × W8) := []
  replacedBad : List Nat := []
  /-- Writes of 256-byte units that each die's SCM stack has made (R85). -/
  wear : Tab Nat := []
  /-- The window of CXL.mem: base and size in bytes, none while Mladeno has configured none (R379). -/
  cxlWindow : Nat × Nat := (0, 0)
  /-- GTB time of the last write of the lifetime area (R414). -/
  telemetryAt : Nat := 0
  /-- Set at loss of input power, with its GTB time (R96). -/
  holdup : Bool
  off : Bool
  lossAt : Nat
  /-- The KEYCTL request in progress (R25). -/
  keyReq : Option W64
deriving DecidableEq, Repr, Inhabited

/-- Before the first boot; the boot flash, the fused counter and the lifetime area hold nothing, which the spec does not say
(DESIGN CHOICE, unsafe, log 128). -/
def Admin.reset : Admin :=
  { stage := 0, failed := none, suspect := false, slots := [[], []], active := 0, staged := false, counter := 0, kernels := [], boxes := [],
    hostLog := [], bound := [], config := [], hist := [], histWritten := [], failures := [], corrected := [], fieldRows := [], lostMembers := [], holdup := false, off := false,
    lossAt := 0, keyReq := none }

/-- The machine. -/
structure State where
  /-- The focus: the squad, wave and stream that issue (DESIGN CHOICE, unsafe, log 4). -/
  sq : Squad
  wv : Wave
  st : Stream
  /-- Every other squad: resident, saved or parked. -/
  squads : List Squad
  cores : Tab Core
  dies : Tab Die
  /-- Memory by physical address (R15): HBM, SCM, host window and peer windows. -/
  mem : Tab W8
  /-- Poisoned sectors, by PA / 64 (R81); the key under which a sector was written (R77), by PA / 64; the L2's
  lines and the step tags, by PA / 128 (R66, R86). -/
  bad : List Nat
  secKey : Tab Nat
  l2 : Tab L2Line
  tags : Tab W16
  /-- What the stacks of HBM and SCM hold: bytes as they decrypt, block states (R72), tag words (R79), step tags, poisoned sectors,
  and the key material of each sector (R74 to R77, R85 to R87). That of SCM survives power loss. -/
  media : Tab W8
  mediaTags : Tab W16
  mediaBad : List Nat
  mediaKeys : Tab Nat
  /-- What waits for a full OWQ in order of arrival, with the dies whose OWQs it enters (R89, R98). -/
  owqWait : List (Waiter × List Nat)
  /-- Keys that have failed, until every region whose page tables name one of them has ended (R82). -/
  keyKills : List Nat
  /-- CXL mode of the host port (R379), and the package's own id (R17). -/
  cxl : Bool
  pkg : Nat
  snaps : Tab SnapSet
  /-- Device MMIO registers by physical address (R10). -/
  mmio : Tab W64
  keys : Tab KeySlot
  faults : List OpenFault
  /-- Pages fixed since their last walk that ended in a leaf: partition and page (R31, REPEAT). -/
  fixed : List (Nat × Nat)
  /-- XLINV: busy, and the writes that wait (R33). -/
  xlinvBusy : Bool
  xlinvHeld : List W64
  /-- Engine commands, oldest first, the next command's number, and the words of completed commands by squad (R343). -/
  cmds : List Command
  nextCmd : Nat
  doneWords : List (Nat × W64)
  /-- Tiles: full and empty bits, by 65536 die + tile (R155; DESIGN CHOICE, unsafe, log 16). -/
  tileState : Tab (Bool × Bool)
  /-- What each activity has spent in this lap (R190). -/
  spent : List (Spend × Nat)
  /-- Frozen clusters, 12 d + c (R369), consumptions whose record is to be written or decided, and recorded
  decisions: WHO and ACT (R372). -/
  frozen : List Nat
  records : List Consumption
  decisions : List (W32 × Nat)
  power : Power
  sched : Sched
  qps : Tab Qp
  hostOut : List HostOut
  /-- Lines of HBM that the host holds through CXL.mem (R119). -/
  hostLines : List Nat
  /-- Directions of die-link modules at 2 m + 1 towards the higher die, 2 m back; modules (R384). -/
  links : Tab LinkDir
  modules : Tab LinkModule
  fab : Fabric
  recovery : Option Recovery
  admin : Admin
  log : List LogEntry
  /-- The model's own: whose turn it is next, device events due, free values drawn so far (logs 1, 6). -/
  agenda : List Turn
  pending : List Due
  free : Nat
  upset : W64
  /-- Core cycles since reset, and the GTB in units of 1 / (273 * 10^6) ns (R5, R189; DESIGN CHOICE, unsafe, log 13). -/
  cycle : Nat
  gtbAcc : Nat
  /-- Lap length exponent in force, and the lap whose boundary came last (R189 to R191). -/
  lapLog : Nat
  lap : Nat
deriving DecidableEq, Repr

/-! ### Reset -/

def TrapRec.zero : TrapRec :=
  { cause := 0, pc := 0, addr := 0, mask := 0, info0 := 0, info1 := 0, info2 := 0, exec := 0, fmt := 0, hmode := false,
    ack := false, pend := false, pcause := 0, pinfo := 0, hexit := 0, under := .none }

/-- FMT at reset: RND = 1, all else zero (R210). -/
def fmtReset : W64 := 0x100

/-- A stream at its first instruction (R156). -/
def Stream.start (entry : W64) : Stream :=
  { fid := 0, token := 0, pc := entry, npc := entry, exec := BitVec.allOnes 64, fmt := fmtReset, stack := [], wait := .none,
    readyAt := 0, issued := 0, dist := [], lap := 0, active := true, trap := TrapRec.zero, traps := 0, entering := false, line := none,
    deny := [], pend := [], seen := [], flushed := 0, skip := false, pushes := [], earlier := [], batch := none, cons := none, asked := [] }

/-- Nothing is left of an instruction's waits on translation. -/
def Stream.cleared (x : Stream) : Stream := { x with deny := [], pend := [], seen := [], flushed := 0 }

/-- A wave with zero registers (R156). -/
def Wave.start (widx quad slot gran : Nat) : Wave :=
  { widx, quad, slot, gran, v := [], s := [], m := [], flg := 0, lfsr := [], sbchk := false, shadow := false,
    detthr := 0, snapSel := 0, exited := 0, inflight := [], tracked := [], frags := [], ended := false, bkpt := none }

def Region.none : Region :=
  { rcb := 0, handler := 0, prio := 0, fdom := 0, budgets := [], allow := 0, shadow := false, detthr := 0, sbchk := false,
    stepRcb := 0, lapRcb := 0, lapa := BitVec.allOnes 64, lapb := BitVec.allOnes 64 }

def Instance.none : Instance :=
  { node := 0, entry := 0, args := 0, base := [0, 0, 0], lo := [0, 0, 0], hi := [0, 0, 0], grain := [1, 1, 1],
    split := [0, 1, 2], scoef := 0, sbase := 0, waves := 1, gran := 1, recAllow := 0, allow := 0, pinFlag := false,
    pinned := false, die := 0, inTiles := [], resTiles := [], foot := [], path := 0, region := Region.none, part := 0,
    queue := 0, nocap := false }

def Image.empty : Image :=
  { bytes := [], poison := [], tiles := [], tilePoison := [], owned := [], ops := [], returning := [], waiting := [] }

/-- The focus of a machine on which nothing runs: a discarded squad, number 0 (DESIGN CHOICE, unsafe, log 4). -/
def Squad.none : Squad :=
  { sid := 0, part := 0, core := 0, place := .discarded, inst := Instance.none, waves := [], stripes := [], spBase := 0,
    left := 0, resident := 0, image := Image.empty, overtime := Option.none, expired := false, placed := 0 }

/-- The machine right after reset (DESIGN CHOICE, unsafe, log 17) (DESIGN CHOICE, unsafe, log 22). -/
def State.reset : State :=
  { sq := Squad.none, wv := Wave.start 0 0 0 1, st := { Stream.start 0 with wait := .ended }, squads := [], cores := [],
    dies := [], mem := [], bad := [], secKey := [], l2 := [], tags := [], media := [], mediaTags := [], mediaBad := [],
    mediaKeys := [], owqWait := [], keyKills := [], cxl := false, pkg := 0, snaps := [], mmio := [], keys := [], faults := [], fixed := [], xlinvBusy := false, xlinvHeld := [],
    cmds := [], nextCmd := 0, doneWords := [], tileState := [], spent := [], frozen := [], records := [], decisions := [],
    power := { point := 1, target := 1, stepping := false, stage := 0, up := false, heldGo := none, moves := [],
               bound := 0, samples := [] },
    sched := Sched.reset, qps := [], hostOut := [], hostLines := [], links := [], modules := [], fab := Fabric.reset, recovery := none, admin := Admin.reset,
    log := [], agenda := [], pending := [], free := 0, upset := 0, cycle := 0, gtbAcc := 0, lapLog := 10, lap := 0 }

end Sys2Proof.Machine
end

