-- ==== Sys2Proof/Machine/Ops.lean ====
section
/-! DEFINITION. Named operations over the state that every family shares: registers with their in-flight writes
(R239, R240, R244, R271), retiring, blocking, pinning, taking a trap (R363, R366) and returning from one (R364). -/

namespace Sys2Proof.Machine

abbrev Out := Host.Outcome State Fault Refusal

/-! ### Places -/

/-- The lanes 0 to 63. -/
def lanes : List Nat := List.range 64

/-- Core c of the package, 0 to 191 (R1). -/
def State.core (s : State) (c : Nat) : Core := Tab.getD s.cores (fun _ => Core.reset) c
def State.setCore (s : State) (c : Nat) (v : Core) : State :=
  { s with cores := Tab.put s.cores (fun _ => Core.reset) c v }
def State.updCore (s : State) (c : Nat) (f : Core → Core) : State := s.setCore c (f (s.core c))

def State.die (s : State) (d : Nat) : Die := Tab.getD s.dies (fun _ => Die.reset) d
def State.updDie (s : State) (d : Nat) (f : Die → Die) : State :=
  { s with dies := Tab.put s.dies (fun _ => Die.reset) d (f (s.die d)) }

def dieOfCore (c : Nat) : Nat := c / 48
/-- Cluster 12 d + c of a core. -/
def clusterOfCore (c : Nat) : Nat := c / 4

/-- The focused stream's name. -/
def State.me (s : State) : StreamId := { sid := s.sq.sid, widx := s.wv.widx, fid := s.st.fid }

/-- WHO of a wave (R31), with the engine index zero. -/
def waveCode (core quad slot : Nat) : W32 :=
  BitVec.ofNat 32 (dieOfCore core * 2 ^ 30 + clusterOfCore core % 12 * 2 ^ 26 + core % 4 * 2 ^ 24 + quad * 2 ^ 22 + slot * 2 ^ 17)

/-- WHO of a fault or consumption record (R31): the focused wave, engine index 0. -/
def State.whoCode (s : State) : W32 := waveCode s.sq.core s.wv.quad s.wv.slot

/-! ### Time -/

/-- GTB in nanoseconds (R189). -/
def gtbUnit : Nat := 273 * 10 ^ 6
def State.gtb (s : State) : W64 := BitVec.ofNat 64 (s.gtbAcc / gtbUnit)

/-! ### Free values -/

/-- Takes the next free value (DESIGN CHOICE, safe, log 6). -/
def State.draw (s : State) : W64 × State := (Config.freeValue s.free, { s with free := s.free + 1 })

/-- Puts an event at the end of those due. -/
def State.due (s : State) (e : Due) : State := if s.pending.contains e then s else { s with pending := s.pending ++ [e] }

def State.note (s : State) (e : LogEntry) : State := { s with log := s.log ++ [e] }

/-! ### Registers -/

/-- Undoes a write that has not landed on a 64-bit value. -/
def InFlight.undo (e : InFlight) (cycle : Nat) (r : RegId) (cur : W64) : W64 :=
  if e.reg = r ∧ cycle < e.land then (cur &&& ~~~e.lanes) ||| (e.old.headD 0 &&& e.lanes) else cur

/-- Undoes a write that has not landed on a lane. -/
def InFlight.undoLane (e : InFlight) (cycle : Nat) (r : RegId) (l : Nat) (cur : W32) : W32 :=
  if e.reg = r ∧ cycle < e.land ∧ e.lanes.getLsbD l = true then (e.old.getD l 0).setWidth 32 else cur

/-- Scalar register n as a reader sees it now (R240, R244); s0 is zero (R227). -/
def State.readS (s : State) (n : Nat) : W64 :=
  if n = 0 then 0 else s.wv.inflight.foldr (fun e a => e.undo s.cycle (.sca n) a) (s.wv.s.get0 n)

/-- Mask register n as a reader sees it now. -/
def State.readM (s : State) (n : Nat) : W64 :=
  s.wv.inflight.foldr (fun e a => e.undo s.cycle (.msk n) a) (s.wv.m.get0 n)

/-- Lane l of vector register n as a reader sees it now. -/
def State.readV (s : State) (n l : Nat) : W32 :=
  s.wv.inflight.foldr (fun e a => e.undoLane s.cycle (.vec n) l a) (s.wv.v.get0 (64 * n + l))

/-- When a write of latency `lat` to `r` lands: after the earlier writes to it (R240). -/
def State.landAt (s : State) (r : RegId) (lat : Nat) : Nat :=
  s.wv.inflight.foldl (fun a e => if e.reg = r then max a e.land else a) (s.cycle + lat)

/-- Notes a fixed-latency write: its old values, and the writer's distance (R240). -/
def State.flight (s : State) (r : RegId) (mask : W64) (old : List W64) (lat : Nat) : State :=
  if lat = 0 then s else
  { s with wv := { s.wv with inflight := s.wv.inflight ++ [{ reg := r, lanes := mask, old, land := s.landAt r lat }] },
           st := { s.st with dist := (r, s.st.issued + lat) :: s.st.dist.filter fun e => decide (e.1 ≠ r) } }

/-- Writes a scalar register; s0 discards it (R227, R243). -/
def State.writeS (s : State) (n : Nat) (v : W64) (lat : Nat := 0) : State :=
  if n = 0 then s else
  let s1 := s.flight (.sca n) (BitVec.allOnes 64) [s.wv.s.get0 n] lat
  { s1 with wv := { s1.wv with s := s1.wv.s.put0 n v } }

/-- Marks a destination as a tracked result (R239, R299), which lands in cycle `land`. -/
def State.trackAt (s : State) (r : RegId) (land : Nat) : State :=
  { s with wv := { s.wv with tracked := (r, s.st.fid, land) :: s.wv.tracked.filter fun e => decide (e.1 ≠ r) } }

/-- The same for a result that lands as soon as the earlier writes to its register have (R240). -/
def State.track (s : State) (r : RegId) : State := s.trackAt r (s.landAt r 0)

/-- Writes a scalar register with a tracked result that lands `lat` cycles on, after the earlier writes to it; the distances of
R240 leave it out, since its readers wait (R239, R263, R265). -/
def State.writeTracked (s : State) (n : Nat) (v : W64) (lat : Nat) : State :=
  if n = 0 then s else
  let land := s.landAt (.sca n) lat
  let e : InFlight := { reg := .sca n, lanes := BitVec.allOnes 64, old := [s.wv.s.get0 n], land }
  let s1 : State := { s with wv := { s.wv with s := s.wv.s.put0 n v, inflight := s.wv.inflight ++ [e] } }
  s1.trackAt (.sca n) land

/-- Writes the bits `mask` of a mask register (R271). -/
def State.writeM (s : State) (n : Nat) (mask v : W64) (lat : Nat := 0) : State :=
  let old := s.wv.m.get0 n
  let s1 := s.flight (.msk n) mask [old] lat
  { s1 with wv := { s1.wv with m := s1.wv.m.put0 n ((old &&& ~~~mask) ||| (v &&& mask)) } }

/-- Puts lanes of a register into a register file. -/
def putLanes (t : Tab W32) (n : Nat) (mask : W64) (f : Nat → W32) : List Nat → Tab W32
  | [] => t
  | l :: r => putLanes (if mask.getLsbD l then t.put0 (64 * n + l) (f l) else t) n mask f r

/-- Writes the lanes `mask` of a vector register (R269). -/
def State.writeV (s : State) (n : Nat) (mask : W64) (f : Nat → W32) (lat : Nat := 0) : State :=
  let s1 := s.flight (.vec n) mask (if lat = 0 then [] else lanes.map fun l => (s.wv.v.get0 (64 * n + l)).setWidth 64) lat
  { s1 with wv := { s1.wv with v := putLanes s1.wv.v n mask f lanes } }

/-- Writes lanes of a vector register with a tracked result that lands `lat` cycles on (R239). -/
def State.writeVTracked (s : State) (n : Nat) (mask : W64) (f : Nat → W32) (lat : Nat) : State :=
  let land := s.landAt (.vec n) lat
  let e : InFlight := { reg := .vec n, lanes := mask, old := lanes.map fun l => (s.wv.v.get0 (64 * n + l)).setWidth 64, land }
  let s1 : State := { s with wv := { s.wv with v := putLanes s.wv.v n mask f lanes, inflight := s.wv.inflight ++ [e] } }
  s1.trackAt (.vec n) land

/-- The readers of a tracked result have waited for it (R239). -/
def State.untrack (s : State) (rs : List RegId) : State :=
  { s with wv := { s.wv with tracked := s.wv.tracked.filter fun e => !rs.contains e.1 } }

/-- ORs flags into FLG (R211). -/
def State.orFlags (s : State) (f : BitVec 6) : State := { s with wv := { s.wv with flg := s.wv.flg ||| f } }

/-! ### Issue -/

/-- R239: the stall of a slot. -/
def stallOf (h : Head) : Nat := max 1 h.stall.toNat

/-- Ends an instruction that continues at `pc`, whose next issue comes after its STALL and at least `cost`. -/
def State.retireTo (s : State) (h : Head) (pc : W64) (cost : Nat := 0) : State :=
  { s with st := { s.st with pc, wait := .none, readyAt := s.cycle + max (stallOf h) cost, issued := s.st.issued + stallOf h,
                             lap := 0 } }

/-- Ends an instruction in sequence (R230). -/
def State.retire (s : State) (h : Head) (cost : Nat := 0) : State := s.retireTo h s.st.npc cost

/-- The instruction waits and is issued again (R186); nothing of it is performed (DEDUCED, unsafe, log 43). -/
def State.hold (s : State) (w : Wait) : State := { s with st := { s.st with wait := w, lap := 0 } }

/-- R158. -/
def State.pin (s : State) : State := { s with sq := { s.sq with inst := { s.sq.inst with pinned := true } } }

/-! ### Traps (R360 to R367) -/

/-! Cause codes (R360). -/
namespace Cause
def illop : Nat := 0x01
def illreg : Nat := 0x02
def illine : Nat := 0x03
def badland : Nat := 0x04
def stallunder : Nat := 0x05
def barmask : Nat := 0x06
def nobaton : Nat := 0x07
def layout : Nat := 0x08
def tfault : Nat := 0x09
def prot : Nat := 0x0A
def misalign : Nat := 0x0B
def atomue : Nat := 0x0C
def poison : Nat := 0x0D
def nocap : Nat := 0x0E
def overtime : Nat := 0x0F
def grain : Nat := 0x10
def stackovf : Nat := 0x11
def swtrap : Nat := 0x12
def rederr : Nat := 0x13
def posted : Nat := 0x14
end Cause

/-- What a trap writes into the record beside the state of the stream (R363). -/
structure TrapArgs where
  code : Nat
  tpc : W64
  addr : W64 := 0
  mask : W64 := 0
  info0 : W64 := 0
  info1 : W64 := 0
  info2 : W64 := 0
deriving DecidableEq, Repr, Inhabited

/-- TCAUSE (R360, R362). -/
def TrapArgs.cause (a : TrapArgs) (async : Bool) : W64 := BitVec.ofNat 64 (a.code + if async then 2048 else 0)

/-- R366: the stream is frozen at the instruction that raised the second fault, and a DOUBLE consumption carries both records to the
supervisor; what it waited for stands until the decision. A stream that has consumed already keeps that consumption. -/
def State.doubleFault (s : State) (a : TrapArgs) (async : Bool := false) : State :=
  let c : Consumption :=
    { kind := .double, who := s.me, pc := s.st.pc, addr := a.addr, mask := a.mask, info := a.cause async,
      gtb := s.gtb, written := false, op := false, under := s.st.wait }
  { s with st := { s.st with wait := .frozen, cons := s.st.cons <|> some c, traps := s.st.traps + 1 }, records := s.records ++ [c] }

/-- The cycle from which the handler may issue: 20 cycles after every outstanding write has landed (R363). -/
def State.handlerReady (s : State) : Nat := s.wv.inflight.foldl (fun a e => max a e.land) s.cycle + 20

/-- A wait that the instruction at it has begun and left behind: it goes on after a handler that an exhaustion of time has entered
(R159). -/
def Wait.kept (w : Wait) : Wait :=
  match w with
  | .barrier _ _ _ _ | .nap _ | .timed _ | .svc _ => w
  | _ => .none

/-- TCAUSE, TPC, TADDR, TMASK, TINFO0 to TINFO2, TEXEC and TFMT as entry writes them (R363). -/
def TrapRec.enter (t : TrapRec) (a : TrapArgs) (async : Bool) (exec fmt : W64) (wait : Wait := .none) : TrapRec :=
  { t with cause := a.cause async, pc := a.tpc, addr := a.addr, mask := a.mask,
           info0 := a.info0, info1 := a.info1, info2 := a.info2, exec, fmt, hmode := true, ack := false, hexit := 0, under := wait.kept }

/-- Entry proper (R363). The LAND bit of the handler's slot is tested by the fetch that follows (R231). -/
def State.enterHandler (s : State) (a : TrapArgs) (async : Bool) : State :=
  { s with st := { s.st.cleared with trap := s.st.trap.enter a async s.st.exec s.st.fmt s.st.wait, fmt := fmtReset,
                                     pc := s.sq.inst.region.handler, wait := .none, readyAt := s.handlerReady, dist := [],
                                     line := none, entering := true, skip := false, traps := s.st.traps + 1, lap := 0, asked := [] } }

/-- R363, R366: takes a synchronous trap. -/
def State.trap (s : State) (a : TrapArgs) : State :=
  if s.st.trap.hmode then s.doubleFault a else s.enterHandler a false

/-- R367: delivers an asynchronous error to the focused stream. -/
def State.asyncError (s : State) (code : Nat) (info0 : W64) : State :=
  if s.st.trap.hmode then
    if s.st.trap.pend then s.doubleFault { code, tpc := s.st.pc, mask := s.st.exec, info0 } true
    else { s with st := { s.st with trap := { s.st.trap with pend := true, pcause := BitVec.ofNat 8 code, pinfo := info0 } } }
  else s.enterHandler { code, tpc := s.st.pc, mask := s.st.exec, info0 } true

/-- Enters the pending error, TPC being the PC at which the stream stands (R364). -/
def State.enterPending (s : State) : State :=
  let t := s.st.trap
  let s1 := { s with st := { s.st with trap := { t with pend := false, pcause := 0, pinfo := 0 } } }
  s1.enterHandler { code := t.pcause.toNat, tpc := s.st.pc, mask := s.st.exec, info0 := t.pinfo } true

/-- A trap of the instruction at the stream's PC. -/
def trapAt (s : State) (code : Nat) (addr mask info0 info1 info2 : W64) : Out :=
  .next (s.trap { code, tpc := s.st.pc, addr, mask, info0, info1, info2 })

/-- ILLOP (R360). -/
def illop (s : State) (info1 : W64 := 0) : Out := trapAt s Cause.illop 0 0 0 info1 0
/-- PROT with its reason (R361). -/
def prot (s : State) (reason : Nat) (addr mask : W64 := 0) : Out :=
  trapAt s Cause.prot addr mask (BitVec.ofNat 64 reason) 0 0
/-- MISALIGN (R298). -/
def misalign (s : State) (addr mask : W64) : Out := trapAt s Cause.misalign addr mask 0 0 0

/-- R364, steps 1 to 4: what RTE restores, and the wait that goes on (R159). -/
def State.returnFromTrap (s : State) : State :=
  { s with st := { s.st with exec := s.st.trap.exec &&& ~~~s.st.trap.hexit, fmt := s.st.trap.fmt, pc := s.st.trap.pc, wait := s.st.trap.under,
                             trap := { s.st.trap with hmode := false, under := .none }, line := none } }

/-- The record is of an exhaustion of time (R159). -/
def TrapRec.ofTime (t : TrapRec) : Bool :=
  t.cause == BitVec.ofNat 64 Cause.overtime || (t.cause == BitVec.ofNat 64 Cause.grain && t.info0 == 2)

/-- The wave that took an exhaustion of time meets it again before it issues (R159). -/
def State.markOverdue (s : State) : State :=
  if s.sq.overtime = some s.wv.widx then { s with sq := { s.sq with overdue := true } } else s

/-! ### Consumptions (R368, R369) -/

/-- The focused stream consumes: nothing of its instruction is written, and the cluster freezes. -/
def State.consume (s : State) (kind : ConsKind) (addr mask info : W64) : State :=
  let c : Consumption := { kind, who := s.me, pc := s.st.pc, addr, mask, info, gtb := s.gtb, written := false, op := false }
  let cl := clusterOfCore s.sq.core
  { s with st := { s.st with wait := .frozen, cons := some c, traps := s.st.traps + 1 },
           frozen := if s.frozen.contains cl then s.frozen else s.frozen ++ [cl], records := s.records ++ [c] }

end Sys2Proof.Machine
end

