-- ==== Sys2Proof/Machine/Operands.lean ====
section
/-! DEFINITION. Operand forms: constants (R236), sources with their modifiers (R235, R237, R243), elements of packed
types (R199), the registers that an instruction names, and the checks 3 and 4 of R241. -/

namespace Sys2Proof.Machine

/-- Registers read and written. -/
structure Named where
  reads : List RegId
  writes : List RegId
deriving DecidableEq, Repr

end Sys2Proof.Machine

namespace Sys2Proof

open Machine

/-! ### The registers that an instruction names (R239, R240) -/

def vecRegs (n : W8) (count : Nat) : List RegId := (List.range count).map fun i => .vec (n.toNat + i)

def Src.regs (x : Src) (count : Nat) : List RegId :=
  match x with
  | .vec n => vecRegs n count
  | .sca n => [.sca n.toNat]
  | _ => []

/-- The predicate mask (R233). -/
def Head.regs (h : Head) : List RegId := if h.pred = 0 then [] else [.msk (h.pred.toNat - 1)]

def VUse.regs (u : VUse) (t : ETy) (x : Src) : List RegId :=
  match u with
  | .none | .redOp _ => []
  | .mask => [.msk x.mask.toNat]
  | _ => Src.regs x (if t.wide then 2 else 1)

def SF.named (r : SRule) (f : SF) : Named :=
  { reads := (if r.a f.sub == .none then [] else Src.regs f.a 1) ++ (if r.b == .none then [] else Src.regs f.b 1) ++
      if r.dstRead then [.sca f.dst.toNat] else [],
    writes := [.sca f.dst.toNat] }

def VF.named (r : VRule) (f : VF) : Named :=
  let dst := match r.dst with
    | .vec => vecRegs f.dst (r.regs f.ty)
    | .mask => [.msk f.dst.toNat]
  let b := if r.bZero f.sub then [] else r.b.regs (r.tb f.ty) f.b
  { reads := Head.regs f.h ++ r.a.regs (r.ta f.ty) f.a ++ b ++ r.c.regs (r.tc f.ty) f.c ++ if r.dstRead then dst else [],
    writes := dst }

def BF.named (r : BRule) (f : BF) : Named :=
  let creg := if r.cregVec then [.vec (2 * f.creg.toNat), .vec (2 * f.creg.toNat + 1)]
    else if r.creg then [.sca f.creg.toNat] else []
  { reads := creg ++ if r.mask then [.msk f.msrc.toNat] else [],
    writes := (if r.link then [.sca f.link.toNat] else []) ++ if r.cregNonzero then [.sca f.creg.toNat] else [] }

def QF.named (r : QRule) (f : QF) : Named :=
  { reads := if r.a f.code then Src.regs f.a 1 else [], writes := if r.dst then [.sca f.dst.toNat] else [] }

def Reg.ids (x : Reg) (count : Nat) : List RegId :=
  match x with
  | .vec n => vecRegs n count
  | .sca n => [.sca n.toNat]

def MF.named (r : MRule) (f : MF) : Named :=
  let base := if r.base then [.sca f.base.toNat] else []
  let data := Reg.ids f.data f.width.regs
  let idx := if r.idx == .none then [] else Src.regs f.index 1
  let isSrc := r.data == .vsrc || r.data == .ssrc
  let isDst := r.data == .vdst || r.data == .sdst
  { reads := Head.regs f.h ++ base ++ idx ++ if isSrc then data else [], writes := if isDst then data else [] }

def AF.named (r : ARule) (f : AF) : Named :=
  { reads := Head.regs f.h ++ [.sca f.base.toNat] ++ Src.regs f.index 1 ++ Src.regs f.val r.regs ++
      (if r.cas then Src.regs f.cmp r.regs else []),
    writes := match f.dst with
      | none => []
      | some d => Reg.ids d r.dstRegs }

/-- Registers of the D fields in a mask. -/
def XF.regs (f : XF) (m : BitVec 6) : List RegId :=
  (List.range 6).flatMap fun k => if m.getLsbD k then [.sca (f.d.getD k 0).toNat] else []

/-- The vector register of MRD and MWR (R332). -/
def XF.rowVec (f : XF) : Nat := f.imm.toNat % 256

def XF.named (r : XRule) (f : XF) : Named :=
  { reads := f.regs (r.inp f.imm) ++ if r.vin then [.vec f.rowVec] else [],
    writes := f.regs (r.out f.imm) ++ if r.vout then [.vec f.rowVec] else [] }

/-- Every register named, for the pair rule of R187. -/
def Shape.named : Shape → Named
  | .s _ r f => f.named r
  | .v _ r f => f.named r
  | .b _ r f => f.named r
  | .q _ r f => f.named r
  | .m _ r f => f.named r
  | .a _ r f => f.named r
  | .x _ r f => f.named r
  | .event => { reads := [], writes := [] }

/-- The format of a float element type. -/
def ETy.fmt : ETy → FFmt
  | .f16x2 | .f16 => Machine.fp16
  | .bf16x2 | .bf16 => Machine.bf16
  | .e4m3x4 => Machine.e4m3
  | .e5m2x4 => Machine.e5m2
  | .e2m1x8 => Machine.e2m1
  | _ => Machine.fp32

/-- The latency of a V instruction (R239). -/
def VF.latency (r : VRule) (f : VF) : Nat := r.lat + if f.modsel = 0 then 0 else Lat.modifier

end Sys2Proof

namespace Sys2Proof.Machine

/-- Check 3 of R241: a vector register at or beyond 8 times the wave's granules. -/
def Named.unallocated (n : Named) (gran : Nat) : Bool :=
  (n.reads ++ n.writes).any fun r => match r with
    | .vec k => decide (8 * gran ≤ k)
    | _ => false

/-- TADDR of STALLUNDER (R240). -/
def RegId.number : RegId → Nat
  | .vec n => 0x800 + n
  | .sca n => 0x900 + n
  | .msk n => 0xA00 + n

/-- Whether a register's distance is above zero (R240). -/
def State.underStall (s : State) (r : RegId) : Bool := s.st.dist.any fun e => decide (e.1 = r) && decide (s.st.issued < e.2)

/-- Check 4 of R241. -/
def State.stallUnder (s : State) (n : Named) : Option RegId := if s.wv.sbchk then n.reads.find? s.underStall else none

/-- Opcode of MRD. -/
def opMrd : Nat := 0x128

/-- An instruction that names the destination of an MRD that is not performed yet waits for it (R239, R332). -/
def State.awaitsRow (s : State) (n : Named) : Bool :=
  (s.core s.sq.core).mq.any fun m =>
    m.op == opMrd && m.who.sid == s.sq.sid && m.who.widx == s.wv.widx && (n.reads ++ n.writes).contains (.vec (m.imm.toNat % 256))

/-- The tracked sources that have not landed (R239, R240). -/
def State.unlanded (s : State) (n : Named) : List (RegId × Nat × Nat) :=
  s.wv.tracked.filter fun e => n.reads.contains e.1 && decide (s.cycle < e.2.2)

/-- The instruction waits until its tracked sources have landed. -/
def State.holdFor (s : State) (es : List (RegId × Nat × Nat)) : State :=
  let t := s.hold .blocked
  { t with st := { t.st with readyAt := es.foldl (fun a e => max a e.2.2) s.st.readyAt } }

/-- Checks 3 and 4 of R241, then the instruction with its tracked sources landed (R239). -/
def checked (n : Named) (s : State) (k : State → Out) : Out :=
  if n.unallocated s.wv.gran then trapAt s Cause.illreg 0 0 0 0 0
  else match s.stallUnder n with
    | some r => trapAt s Cause.stallunder (BitVec.ofNat 64 r.number) 0 0 0 0
    | none =>
      if s.awaitsRow n then .next (s.hold .blocked)
      else if s.unlanded n ≠ [] then .next (s.holdFor (s.unlanded n))
      else k (s.untrack n.reads)

/-- The same for the formats that rotated duplicate issue repeats: a mismatch is a DUPMIS consumption (R374). -/
def guarded (n : Named) (s : State) (k : State → Out) : Out :=
  checked n s fun s1 => if s.wv.shadow && s.upset != 0 then .next (s.consume .dupmis 0 s.upset 0) else k s1

/-! ### Constants (R236) -/

/-- FP32 encodings of the sixteen float constants, 0x60 to 0x6F. -/
def floatConsts : List Nat :=
  [0x00000000, 0x3F000000, 0x3F800000, 0x40000000, 0x40800000, 0xBF000000, 0xBF800000, 0xC0000000, 0xC0800000, 0x3F317218,
    0x3FB8AA3B, 0x40490FDB, 0x3EA2F983, 0x43E00000, 0x47600000, 0x40C00000]

def inlineFloat (k : W8) : Nat := floatConsts.getD (k.toNat - 0x60) 0

/-- Integer of an index below 0x60. -/
def inlineInt (k : W8) : Int := if k.toNat < 0x40 then k.toNat else (k.toNat : Int) - 0x60

/-- A lane filled with one element code. -/
def fillLane (t : ETy) (e : Nat) : Nat := (List.range t.elems).foldl (fun a k => a + e * 2 ^ (t.width * k)) 0

/-- The element code of an inline constant in a type: rounded RNE, an integer constant saturating in the small formats. -/
def constElem (t : ETy) (k : W8) : Nat :=
  let v : FVal := if k.toNat < 0x60 then .ofInt (inlineInt k) else fp32.decode (inlineFloat k)
  if t.isInt then (BitVec.ofInt t.width (inlineInt k)).toNat
  else (t.fmt.convert 1 0 (decide (k.toNat < 0x60) && decide (t.width ≤ 8)) false v).1

/-- Lane bits of an inline constant. -/
def constLane (t : ETy) (k : W8) : W64 := BitVec.ofNat 64 (fillLane t (constElem t k))

/-- Lane bits of a joined literal (R232, R236): EXT32, or the halves of LIT64; LIT64 whole for a 64-bit element. -/
def literalLane (t : ETy) (ext : Option Ext) (k : W8) : W64 :=
  match ext with
  | none => 0
  | some e =>
    if k = 0x70 then e.ext32.setWidth 64
    else if k = 0x71 then (if t.wide then e.lit64 else (e.lit64.setWidth 32).setWidth 64)
    else e.lit64 >>> 32

/-! ### S and Q operands (R243, R248) -/

/-- A 64-bit operand. -/
def State.sval (s : State) (x : Src) (imm : W32) (ext : Option Ext) : W64 :=
  match x with
  | .sca n => s.readS n.toNat
  | .inl k =>
    if k.toNat < 0x60 then BitVec.ofInt 64 (inlineInt k)
    else if k.toNat < 0x70 then BitVec.ofNat 64 (inlineFloat k)
    else match ext with
      | some e => e.lit64
      | none => imm.signExtend 64
  | .spc k =>
    if k = 1 then BitVec.ofNat 64 s.wv.widx
    else if k = 3 then BitVec.ofNat 64 s.st.fid
    else if k = 4 then (s.gtb.setWidth 32).setWidth 64
    else 0
  | .vec _ => 0

/-- An FP32 operand: an inline integer is its exact FP32 value, IMM32 a raw encoding (R248). -/
def State.sfloat (s : State) (x : Src) (imm : W32) (ext : Option Ext) : W32 :=
  match x with
  | .inl k =>
    if k.toNat < 0x60 then BitVec.ofNat 32 (fp32.exact (.ofInt (inlineInt k)))
    else (s.sval x imm ext).setWidth 32
  | _ => (s.sval x imm ext).setWidth 32

/-! ### Lanes -/

/-- The predicate's lanes (R233). -/
def State.predicate (s : State) (h : Head) : W64 :=
  if h.pred = 0 then BitVec.allOnes 64
  else let m := s.readM (h.pred.toNat - 1); if h.pneg then ~~~m else m

/-- ACTIVE (R269). -/
def State.activeLanes (s : State) (h : Head) : W64 := s.st.exec &&& s.predicate h

/-- Lanes that are written: ACTIVE, or all of EXEC under ZERO (R233). -/
def State.written (s : State) (h : Head) : W64 := if h.zero then s.st.exec else s.activeLanes h

/-- A source at a lane, before modifiers: 32 bits, or 64 for a 64-bit element. -/
def State.srcLane (s : State) (t : ETy) (ext : Option Ext) (x : Src) (l : Nat) : W64 :=
  match x with
  | .vec n =>
    let lo := (s.readV n.toNat l).setWidth 64
    if t.wide then lo ||| ((s.readV (n.toNat + 1) l).setWidth 64 <<< 32) else lo
  | .sca n => if t.wide then s.readS n.toNat else ((s.readS n.toNat).setWidth 32).setWidth 64
  | .inl k => if k.toNat < 0x70 then constLane t k else literalLane t ext k
  | .spc k =>
    if k = 0 then BitVec.ofNat 64 l
    else if k = 2 then BitVec.ofNat 64 (64 * s.wv.widx + l)
    else s.sval (.spc k) 0 none

/-- The lane that a modifier makes lane `l` read; none supplies 0 (R237). -/
def modLane (mod : BitVec 12) (l : Nat) : Option Nat :=
  let n := 2 ^ ((mod >>> 6) &&& 7).toNat
  let i := l % n
  let b := l - i
  let d := mod.setWidth 6
  let j : Int := (i : Int) + d.toInt
  match (mod >>> 9).toNat with
  | 1 => some (b + (j % n).toNat)
  | 2 => if 0 ≤ j ∧ j < n then some (b + j.toNat) else none
  | 3 => some (b + (min ((n : Int) - 1) (max 0 j)).toNat)
  | 4 => some (b + (i ^^^ d.toNat))
  | 5 => some (b + d.toNat)
  | _ => some l

/-- Source `which` (1 A, 2 B, 3 C) at a lane with its modifier, and FRX when the lane read is not active (R237). -/
def State.srcMod (s : State) (f : VF) (act : W64) (which : Nat) (t : ETy) (x : Src) (l : Nat) : W64 × Flags :=
  if f.modsel.toNat = which then
    match modLane f.mod l with
    | none => (0, 0)
    | some l' => if act.getLsbD l' then (s.srcLane t f.ext x l', 0) else (0, Flag.frx)
  else (s.srcLane t f.ext x l, 0)

/-! ### Elements -/

/-- Element k of a lane. -/
def elemOf (t : ETy) (lane : W64) (k : Nat) : Nat := lane.toNat / 2 ^ (t.width * k) % 2 ^ t.width

/-- A lane of element codes; a scalar type leaves the rest of the lane zero (R199). -/
def laneOf (t : ETy) : List Nat → Nat
  | [] => 0
  | e :: es => e % 2 ^ t.width + 2 ^ t.width * laneOf t es

/-- A code read as an integer of its type. -/
def intOf (t : ETy) (e : Nat) : Int := if t.signed then (BitVec.ofNat t.width e).toInt else e

/-- ABS, then NEG, of a source element: the sign bit of a float, or integers modulo 2^w, of which an unsigned one is its own
absolute value (R205, R238; DEDUCED, unsafe, log 21). -/
def signMod (t : ETy) (neg abs : Bool) (e : Nat) : Nat :=
  let w := t.width
  if t.isInt then
    let v : BitVec w := BitVec.ofNat w e
    let v := if abs && t.signed && v.msb then -v else v
    (if neg then -v else v).toNat
  else
    let m := e % 2 ^ (w - 1)
    let sgn := if abs then false else e / 2 ^ (w - 1) % 2 == 1
    m + if sgn != neg then 2 ^ (w - 1) else 0

/-! ### Rounding mode and state (R207, R209, R210) -/

def fmtRnd (fmt : W64) : Nat := ((fmt >>> 8) &&& 7).toNat
def fmtDaz (fmt : W64) : Bool := fmt.getLsbD 1
def fmtFtz (fmt : W64) : Bool := fmt.getLsbD 0

/-- FMT with its write rules: reserved bits zero, RND 0 or 7 stored as 1 (R210). -/
def fmtWrite (v : W64) : W64 :=
  let r := if fmtRnd v = 0 ∨ fmtRnd v = 7 then 0x100 else v &&& 0x700
  (v &&& 0xFFFFFFFF00000003) ||| r

/-- The seed of a lane's rounding state (R209). -/
def seedOf (fmt : W64) (l : Nat) : W32 :=
  let x := (fmt >>> 32).setWidth 32 ^^^ BitVec.ofNat 32 ((l + 1) * 0x9E3779B9)
  if x = 0 then 1 else x

def State.lfsr (s : State) (l : Nat) : W32 := Tab.getD s.wv.lfsr (seedOf fmtReset) l

def State.setLfsr (s : State) (l : Nat) (x : W32) : State :=
  { s with wv := { s.wv with lfsr := Tab.put s.wv.lfsr (seedOf fmtReset) l x } }

/-- Writes FMT and reseeds the active lanes (R209, R210). -/
def State.setFmt (s : State) (v : W64) : State :=
  let fmt := fmtWrite v
  lanes.foldl (fun s l => if s.st.exec.getLsbD l then s.setLfsr l (seedOf fmt l) else s)
    { s with st := { s.st with fmt } }

/-- n further steps of a rounding state. -/
def lfsrSteps (x : W32) : Nat → W32
  | 0 => x
  | n + 1 => lfsrSteps (lfsrStep x) n

/-- The draw of a lane's element k in one instruction (R209). -/
def State.draws (s : State) (l k : Nat) : W32 := lfsrSteps (s.lfsr l) (k + 1)

/-- The instruction's rounding mode (R207). -/
def State.roundMode (s : State) (rnd : BitVec 3) : Nat := if rnd = 0 then fmtRnd s.st.fmt else rnd.toNat

/-- Advances the rounding state of the active lanes by n results under mode 6 (R209). -/
def State.advance (s : State) (mode : Nat) (act : W64) (n : Nat) : State :=
  if mode = 6 then lanes.foldl (fun s l => if act.getLsbD l then s.setLfsr l (lfsrSteps (s.lfsr l) n) else s) s else s

/-! ### Writing results -/

/-- A lane's result and flags. -/
abbrev LaneRes := W64 × Flags

/-- The flags of the active lanes, ORed (R211, R269). -/
def laneFlags (act : W64) (res : Nat → LaneRes) : Flags :=
  lanes.foldl (fun a l => if act.getLsbD l then a ||| (res l).2 else a) 0

/-- Writes a vector result and retires (R269): `res` gives each active lane's bits, 64 of them for a pair. -/
def State.vecResult (s : State) (r : VRule) (f : VF) (res : Nat → LaneRes) : State :=
  let act := s.activeLanes f.h
  let wr := s.written f.h
  let val (l : Nat) : W64 := if act.getLsbD l then (res l).1 else 0
  let s1 := s.writeV f.dst.toNat wr (fun l => (val l).setWidth 32) (f.latency r)
  let s2 := if r.regs f.ty = 2 then s1.writeV (f.dst.toNat + 1) wr (fun l => ((val l) >>> 32).setWidth 32) (f.latency r)
    else s1
  (s2.orFlags (laneFlags act res)).retire f.h

/-- A mask of the lanes that satisfy a test. -/
def maskOf (p : Nat → Bool) : W64 := BitVec.ofNat 64 (lanes.foldl (fun a l => a + if p l then 2 ^ l else 0) 0)

/-- Writes a mask result and retires (R271). -/
def State.maskResult (s : State) (r : VRule) (f : VF) (bits : W64) (flags : Flags) : State :=
  let act := s.activeLanes f.h
  ((s.writeM f.dst.toNat (s.written f.h) (bits &&& act) (f.latency r)).orFlags flags).retire f.h

/-- A vector instruction whose lanes are independent. -/
def runVec (r : VRule) (f : VF) (s : State) (res : State → W64 → Nat → LaneRes) : Out :=
  guarded (f.named r) s fun s => .next (s.vecResult r f (res s (s.activeLanes f.h)))

end Sys2Proof.Machine
end

