-- ==== Sys2Proof/Machine/Flags.lean ====
section
/-! DEFINITION. Shared integer computations and the one flag they set (R216), and comparisons. -/

namespace Sys2Proof.Machine

/-- The range of a w-bit type. -/
def intLo (signed : Bool) (w : Nat) : Int := if signed then -2 ^ (w - 1) else 0
def intHi (signed : Bool) (w : Nat) : Int := if signed then 2 ^ (w - 1) - 1 else 2 ^ w - 1

/-- The low w bits of an exact result. -/
def wrapTo (w : Nat) (x : Int) : Nat := (BitVec.ofInt w x).toNat

/-- An exact result wrapped, or clamped with SAT (R216). -/
def narrowTo (signed sat : Bool) (w : Nat) (x : Int) : Nat × Flags :=
  if sat then
    if x < intLo signed w then (wrapTo w (intLo signed w), Flag.sat)
    else if intHi signed w < x then (wrapTo w (intHi signed w), Flag.sat)
    else (wrapTo w x, 0)
  else (wrapTo w x, 0)

/-- a c b for exact integers, c as COND or SUB code: eq, ne, lt, le, gt, ge. -/
def cmpInt (c : Nat) (a b : Int) : Bool :=
  match c with
  | 0 => a = b
  | 1 => a ≠ b
  | 2 => a < b
  | 3 => a ≤ b
  | 4 => a > b
  | _ => a ≥ b

/-- COND's code. -/
def condCode : Cond → Nat
  | .eq => 0 | .ne => 1 | .lt => 2 | .le => 3 | .gt => 4 | .ge => 5

/-- Leading zero bits of a w-bit value. -/
def clz (w x : Nat) : Nat := if x = 0 then w else w - 1 - Nat.log2 x

/-- One bits of the low w bits. -/
def popc : Nat → Nat → Nat
  | 0, _ => 0
  | w + 1, x => x % 2 + popc w (x / 2)

/-- One bits of a mask. -/
def popMask (m : W64) : Nat := popc 64 m.toNat

/-- Index of the lowest set bit, or w. -/
def lowBit (w x : Nat) : Nat := ((List.range w).find? fun i => x / 2 ^ i % 2 == 1).getD w

/-- Rotate left. -/
def rotl (w x s : Nat) : Nat := (x * 2 ^ (s % w) + x / 2 ^ (w - s % w)) % 2 ^ w

end Sys2Proof.Machine
end

