-- ==== Sys2Proof/Machine/Mem.lean ====
section
/-! DEFINITION. Physical memory: the ranges of R15, bytes with their keys (R77), poison (R81), step tags (R134),
L2 state, copies in the RDC and the L1 (R67, R117, R118), the OWQ (R87 to R92) and copy-on-write (R140). -/

namespace Sys2Proof.Machine

/-! ### Ranges (R15 to R17) -/

/-- What backs a physical address. -/
inductive Backing where
  | hbm (die : Nat)
  | scm (die : Nat)
  | mmio
  | host
  /-- HBM range `die` of a peer package. -/
  | peer (pkg die : Nat)
  | hole
deriving DecidableEq, Repr

def gib : Nat := 2 ^ 30

def backing (own pa : Nat) : Backing :=
  if pa < 0x8000000000 then (if pa % 0x2000000000 < 96 * gib then .hbm (pa / 0x2000000000) else .hole)
  else if pa < 0x10000000000 then .hole
  else if pa < 0x30000000000 then .scm ((pa - 0x10000000000) / 0x8000000000)
  else if pa < 0x40000000000 then .mmio
  else if pa < 0x80000000000 then .host
  else if pa / 2 ^ 48 = 1 then
    let p := pa / 2 ^ 40 % 256
    let o := pa % 2 ^ 40
    if p ≠ own ∧ o < 512 * gib ∧ o % 0x2000000000 < 96 * gib then .peer p (o / 0x2000000000) else .hole
  else .hole

/-- The die that homes an address. -/
def homeDie (pa : Nat) : Option Nat :=
  match backing 256 pa with
  | .hbm d | .scm d => some d
  | _ => none

def isScm (pa : Nat) : Bool :=
  match backing 256 pa with
  | .scm _ => true
  | _ => false

def lineOf (pa : Nat) : Nat := pa / 128
def sectorOf (pa : Nat) : Nat := pa / 64

/-! ### Device registers -/

/-- Reset values of the MMIO registers whose reset is not zero (R55, R137, R191, R395, R411). -/
def mmioReset (pa : Nat) : W64 :=
  let o := pa - 0x30000000000
  if o = 0x30000 then 1
  else if 0x40000 ≤ o ∧ o < 0x44000 ∧ o % 256 = 0 then 0x5100
  else if o = 0x50000 then 10
  else if 0x50008 ≤ o ∧ o < 0x50078 ∧ o % 8 = 0 then 0xFFFFFFFF
  else if 0x90000 ≤ o ∧ o < 0x91000 ∧ o % 256 = 0 then 0x0000111100040000
  else if o = 0xE0000 then 2300
  else 0

def State.reg (s : State) (pa : Nat) : W64 := Tab.getD s.mmio mmioReset pa
def State.setReg (s : State) (pa : Nat) (v : W64) : State := { s with mmio := Tab.put s.mmio mmioReset pa v }

/-- Bits hi:lo of a register. -/
def bits (v : W64) (hi lo : Nat) : Nat := v.toNat / 2 ^ lo % 2 ^ (hi + 1 - lo)

/-- A register with bits hi:lo replaced. -/
def setBits (v : W64) (hi lo : Nat) (x : Nat) : W64 :=
  let m : W64 := BitVec.ofNat 64 ((2 ^ (hi + 1 - lo) - 1) * 2 ^ lo)
  (v &&& ~~~m) ||| (BitVec.ofNat 64 (x * 2 ^ lo) &&& m)

/-- The bits of a value that a mask does not cover are zero (R10). -/
def clearOf (v mask : W64) : Bool := (v &&& ~~~mask) == 0

/-- Bytes as a register value, and back (R9). -/
def word64 (bs : List W8) : W64 := BitVec.ofNat 64 (leNat bs)
def bytes64 (v : W64) : List W8 := leBytes 8 v.toNat
def bytes32 (v : W32) : List W8 := leBytes 4 v.toNat

/-! Addresses of the registers that the machine itself reads. -/
namespace Mmio
def base : Nat := 0x30000000000
def xlroot (p : Nat) : Nat := base + 0x10000 + p * 0x100
def xlresp : Nat := base + 0x20000
def xlinv : Nat := base + 0x20008
def xlinvst : Nat := base + 0x20010
def opctl : Nat := base + 0x30000
def snapSet (q : Nat) : Nat := base + 0x40000 + q * 0x100
def lapcfg : Nat := base + 0x50000
def swapctl : Nat := base + 0x60000
def frzdec : Nat := base + 0x70000
def errinfo : Nat := base + 0x70010
def errpost : Nat := base + 0x70018
def nvme (q : Nat) : Nat := base + 0x80000 + 64 * q
def trimcfg (port : Nat) : Nat := base + 0x90000 + 0x100 * port
def group (g : Nat) : Nat := base + 0xA0000 + 16 * g
def modstat (m : Nat) : Nat := base + 0xB0000 + 8 * m
def member (k : Nat) : Nat := base + 0xC0000 + 2 * k
def pwrcap : Nat := base + 0xE0000
def partition (p : Nat) : Nat := base + 0xF0000 + p * 0x1000
def keyctl : Nat := base + 0x110000
def keyblob : Nat := base + 0x110008
def core (c : Nat) : Nat := base + 0x1000000 + c * 0x10000
def die (d : Nat) : Nat := base + 0x2000000 + d * 0x10000
def memcfg (d : Nat) : Nat := die d + 0x1000
def owqstat (d : Nat) : Nat := die d + 0x1008
def xlrbase (d : Nat) : Nat := die d + 0x1100
def xlrhead (d : Nat) : Nat := die d + 0x1108
def xlrtail (d : Nat) : Nat := die d + 0x1110
def crbase (d : Nat) : Nat := die d + 0x1120
def crhead (d : Nat) : Nat := die d + 0x1128
def crtail (d : Nat) : Nat := die d + 0x1130
def spillbase (d : Nat) : Nat := die d + 0x1140
end Mmio

/-- A write of a requester that is not the supervisor to a register it alone writes (R10). -/
def State.drop (s : State) (pa : Nat) : State := s.note (.dropped (BitVec.ofNat 64 pa))
/-- A write that its section makes ignored (DEDUCED, unsafe, log 81). -/
def State.ignore (s : State) (pa : Nat) : State := s.note (.ignored (BitVec.ofNat 64 pa))

/-- A write to a register that only the supervisor writes. -/
def supervised (sup : Bool) (pa : Nat) (s : State) (k : State → State) : Out := .next (if sup then k s else s.drop pa)

/-! ### Keys (R24, R77, R82) -/

def KeySlot.empty : KeySlot := { state := .empty, owner := 0, integ := false, gen := 0 }
def State.key (s : State) (k : Nat) : KeySlot := Tab.getD s.keys (fun _ => KeySlot.empty) k
def State.setKey (s : State) (k : Nat) (v : KeySlot) : State :=
  { s with keys := Tab.put s.keys (fun _ => KeySlot.empty) k v }

/-- The material that a slot holds now: 0 for plaintext. -/
def State.material (s : State) (k : Nat) : Nat := if k = 0 then 0 else k + 4096 * (s.key k).gen

/-! ### Bytes at home -/

/-- The coherent byte of an address, as its last writer wrote it. -/
def State.byteAt (s : State) (pa : Nat) : W8 := s.mem.get0 pa

def State.bytesAt (s : State) (pa n : Nat) : List W8 := (List.range n).map fun i => s.byteAt (pa + i)
def State.wordAt (s : State) (pa : Nat) : W64 := word64 (s.bytesAt pa 8)

def State.l2Line (s : State) (line : Nat) : L2Line := Tab.getD s.l2 (fun _ => L2Line.absent) line
def State.setL2 (s : State) (line : Nat) (v : L2Line) : State := { s with l2 := Tab.put s.l2 (fun _ => L2Line.absent) line v }

/-- What a stack holds at an address: the compression states and the tag words are there alone (R72). -/
def State.stored (s : State) (pa : Nat) : W8 := s.media.get0 pa
def State.store (s : State) (pa : Nat) (bs : List W8) : State :=
  { s with media := Tab.putAll s.media (fun _ => 0) (bs.zipIdx.map fun e => (pa + e.2, e.1)) }

/-! ### The metadata cache (R76) -/

/-- A byte of a state area or tag region, as the controller sees it. -/
def State.metaByte (s : State) (pa : Nat) : W8 :=
  let line := (homeDie pa).bind fun d => (s.die d).metaLines.find? fun (l : MetaLine) => l.line == lineOf pa
  ((line.bind fun l => l.news.find? fun e => e.1 == pa).map (·.2)).getD (s.stored pa)

/-- A line's news go to the stack. -/
def State.metaWriteBack (s : State) (l : MetaLine) : State :=
  { s with media := Tab.putAll s.media (fun _ => 0) l.news }

def metaSetOf (line : Nat) : Nat := line % 1024

/-- Brings a line of metadata in, or uses it: 1,024 sets of 16 ways, the least recently used leaves (R76) (DESIGN CHOICE, unsafe,
log 15). -/
def State.metaUse (s : State) (pa : Nat) : State :=
  match homeDie pa with
  | none => s
  | some d =>
    let line := lineOf pa
    let cs := (s.die d).metaLines
    let rest := cs.filter fun x => x.line != line
    let mine := (cs.find? fun x => x.line == line).getD { line, news := [] }
    let set := rest.filter fun x => metaSetOf x.line == metaSetOf line
    match (if 16 ≤ set.length then set.getLast? else none) with
    | some v => (s.metaWriteBack v).updDie d fun x => { x with metaLines := mine :: rest.filter fun y => y.line != v.line }
    | none => s.updDie d fun x => { x with metaLines := mine :: rest }

/-- Writes bytes of metadata that lie in one line. -/
def State.metaStore (s : State) (pa : Nat) (bs : List W8) : State :=
  match homeDie pa with
  | none => s
  | some d =>
    let ws := bs.zipIdx.map fun e => (pa + e.2, e.1)
    let add (l : MetaLine) : MetaLine := { l with news := ws ++ l.news.filter fun e => ws.all fun w => w.1 != e.1 }
    (s.metaUse pa).updDie d fun x => { x with metaLines := x.metaLines.map fun l => if l.line == lineOf pa then add l else l }

/-- Everything that the metadata caches hold goes to the stacks. -/
def State.metaFlush (s : State) : State :=
  s.dies.foldl (fun s e => (e.2.metaLines.foldl (fun s l => s.metaWriteBack l) s).updDie e.1 fun x => { x with metaLines := [] }) s

/-- The compression state of a block of HBM (R72). -/
def stateByte (pa : Nat) : Nat := pa / 0x2000000000 * 0x2000000000 + 0x17FA000000 + pa % 0x2000000000 / 256 / 4
def State.blockState (s : State) (pa : Nat) : Nat := (s.metaByte (stateByte pa)).toNat / 4 ^ (pa / 256 % 4) % 4

def State.setBlockState (s : State) (pa v : Nat) : State :=
  let b := (s.metaByte (stateByte pa)).toNat
  let sh := 4 ^ (pa / 256 % 4)
  s.metaStore (stateByte pa) [BitVec.ofNat 8 (b - b / sh % 4 * sh + v * sh)]

/-- A line that memory holds as part of a block of zeros: no sector is stored, so nothing is decrypted or compared (R75, R79). -/
def State.zeroBlock (s : State) (pa : Nat) : Bool :=
  (match backing 256 pa with
    | .hbm _ => s.blockState pa == 1
    | _ => false) && !(s.l2Line (lineOf pa)).dirty

/-- Whether a read under a key meets bytes written under another (R77). -/
def State.rekeyed (s : State) (key pa : Nat) : Bool :=
  decide (s.secKey.getD (fun _ => 0) (sectorOf pa) ≠ s.material key) && !s.zeroBlock pa


/-- A sector as a reader under a key sees it (R77). -/
def State.sectorUnder (s : State) (key sec : Nat) : List W8 :=
  Config.decryptUnder (s.secKey.getD (fun _ => 0) sec) (s.material key) (BitVec.ofNat 64 (64 * sec)) (s.bytesAt (64 * sec) 64)

/-- The byte that a read under a key returns at home (DESIGN CHOICE, unsafe, log 23). -/
def State.readHome (s : State) (key pa : Nat) : W8 :=
  if s.rekeyed key pa then (s.sectorUnder key (sectorOf pa)).getD (pa % 64) 0 else s.byteAt pa

/-! ### Poison (R75, R81) -/

def State.isBad (s : State) (pa : Nat) : Bool := s.bad.contains (sectorOf pa)

/-- Adds numbers to a rising list, and removes them. -/
def addNats (l : List Nat) (xs : List Nat) : List Nat := xs.foldl (fun a x => if a.contains x then a else a.insertIdx (a.countP (· < x)) x) l
def dropNats (l : List Nat) (xs : List Nat) : List Nat := l.filter fun x => !xs.contains x

/-- Poisons sectors of the coherent content: data travel with their poison (R81). -/
def State.taint (s : State) (secs : List Nat) : State := { s with bad := addNats s.bad secs }

/-- Poisons sectors as the stack delivers them: a compressed block is poisoned whole (R81). -/
def State.poison (s : State) (secs : List Nat) : State :=
  let whole (x : Nat) : List Nat :=
    match backing 256 (64 * x) with
    | .hbm _ => if s.blockState (64 * x) = 0 then [x] else (List.range 4).map (x / 4 * 4 + ·)
    | _ => [x]
  { s with bad := addNats s.bad (secs.flatMap whole) }

/-- The stack that holds an address (R16, R71, R85). -/
def stackOf (pa : Nat) : MemStack :=
  match backing 256 pa with
  | .scm d => .scm d
  | _ => .hbm (2 * (pa / 0x2000000000) + pa / 4096 % 2)

/-! ### Memory error records (R80, R83) -/

namespace MemCause
def media : Nat := 1
def integ : Nat := 2
def corr : Nat := 3
end MemCause

/-! ### Class codes of the paths (R99) -/

namespace PathCode
def core : Nat := 0
def fab : Nat := 5
def nvme : Nat := 6
def host : Nat := 7
def snap : Nat := 8
end PathCode

/-- A memory error record goes to the supervisor (R83). -/
def State.memoryRecord (s : State) (cause pa key path : Nat) : State :=
  s.note (.memory cause (pa / 64 * 64) key (stackOf pa) path s.gtb)

/-! ### Integrity tags (R72, R79, R85) -/

/-- Where the tag word of a sector stands, if the tag region of its die covers it. -/
def State.tagWordAt (s : State) (pa : Nat) : Option Nat :=
  match backing 256 pa with
  | .hbm d =>
    let o := pa % 0x2000000000
    let n := bits (s.reg (Mmio.memcfg d)) 2 0
    if o < n * 16 * gib then some (d * 0x2000000000 + 0x17FA000000 - n * gib + o / 64 * 4) else none
  | .scm d =>
    let o := (pa - 0x10000000000) % 0x8000000000
    let n := bits (s.reg (Mmio.memcfg d)) 13 8
    if o < n * 16 * gib then some (0x10000000000 + (d + 1) * 0x8000000000 - n * gib + o / 64 * 4) else none
  | _ => none

/-- The tag of a sector's stored bytes under key material of a slot with integrity (R79). -/
def State.tagFor (s : State) (sec material : Nat) (bs : List W8) : Option W32 :=
  if (s.key (material % 4096)).integ then some (Config.sectorTag material (BitVec.ofNat 64 (64 * sec)) bs) else none

/-- Stores a sector's tag, if it has one and a region covers it. -/
def State.putTag (s : State) (sec : Nat) (t : Option W32) : State :=
  match t, s.tagWordAt (64 * sec) with
  | some v, some a => s.metaStore a (bytes32 v)
  | _, _ => s

/-- The sectors that the stack stores of an address's block of HBM, or of its sector elsewhere, with the bytes that are encrypted (R75). -/
def State.storedSectors (s : State) (pa : Nat) : List (Nat × List W8) :=
  let block := pa / 256 * 256
  let packed (n : Nat) : List (Nat × List W8) :=
    let bs := Config.encodeBlock ((List.range 256).map fun i => s.stored (block + i))
    (List.range n).map fun k => (sectorOf block + k, (bs.drop (64 * k)).take 64)
  let plain := [(sectorOf pa, s.bytesAt (pa / 64 * 64) 64)]
  match backing 256 pa with
  | .hbm _ => match s.blockState pa with
    | 0 => plain
    | 1 => []
    | 2 => packed 2
    | _ => packed 1
  | _ => plain

/-! ### The OWQ (R87 to R92) -/

def owqCap : Nat := 131072

def State.owqFull (s : State) (d : Nat) : Bool := decide (owqCap ≤ (s.die d).owq.length)

/-- The key material of a line's two sectors. -/
def State.lineKeys (s : State) (line : Nat) : List Nat := [2 * line, 2 * line + 1].map (s.secKey.getD fun _ => 0)

/-- Writes bytes to the media (R86, R87, R95). -/
def State.toMedia (s : State) (pa : Nat) (bs : List W8) (mask : BitVec 128) : State :=
  { s with media := Tab.putAll s.media (fun _ => 0) ((bs.zipIdx.filter fun e => mask.getLsbD e.2).map fun e => (pa + e.2, e.1)) }

/-- A write of the stack of a line is counted (R85). -/
def State.countWear (s : State) (line : Nat) : State :=
  match homeDie (128 * line) with
  | some d => { s with admin := { s.admin with wear := Tab.upd s.admin.wear (fun _ => 0) d (· + 1) } }
  | none => s

/-- Writes an entry to the media: its bytes, its poison, its keys and its tags (R74, R86, R95) (DEDUCED, unsafe, log 66). The record of
an error names path core (DESIGN CHOICE, unsafe, log 103). -/
def State.drainEntry (s : State) (e : OwqEntry) (mediaError : Bool) : State :=
  let secs := [2 * e.line, 2 * e.line + 1]
  let half (x : Nat) (f : (Nat → Bool) → Bool) : Bool := f fun i => e.mask.getLsbD (64 * (x % 2) + i)
  let whole := secs.filter fun x => half x fun m => (List.range 64).all m
  let part := secs.filter fun x => half x fun m => (List.range 64).any m
  let s1 := (s.toMedia (128 * e.line) e.bytes e.mask).countWear e.line
  let bad := if mediaError then secs else e.bad
  let s2 := { s1 with mediaTags := s1.mediaTags.put0 e.line e.tag, mediaBad := addNats (dropNats s1.mediaBad whole) bad,
                      mediaKeys := part.foldl (fun t x => Tab.put t (fun _ => 0) x (e.keys.getD (x % 2) 0)) s1.mediaKeys }
  let s3 := part.foldl (fun s x => s.putTag x (e.tags.getD (x % 2) none)) s2
  if mediaError then
    (if (s.l2Line e.line).dirty then s3 else s3.poison secs).memoryRecord MemCause.media (128 * e.line) (e.keys.headD 0 % 4096) PathCode.core
  else s3

/-- The oldest entry of an OWQ drains. -/
def State.drainOldest (s : State) (d : Nat) (mediaError : Bool) : State :=
  match (s.die d).owq with
  | [] => s
  | e :: r => (s.updDie d fun x => { x with owq := r, owqDrained := e.seq, owqHeld := false }).drainEntry e mediaError

/-- Accepts an entry: the next number, marked valid (R87, R88). It holds the ciphertext under the line's keys (R74). The step holds
back what meets a full queue (R89, `State.owqGate`); an operation of more entries than there is room goes on as its queue drains
(DESIGN CHOICE, unsafe, log 104). -/
def State.accept (s : State) (d line : Nat) (bytes : List W8) (mask : BitVec 128) (tag : W16) (bad : List Nat) : State :=
  let keys := s.lineKeys line
  let tags := (List.range 2).map fun k => s.tagFor (2 * line + k) (keys.getD k 0) ((bytes.drop (64 * k)).take 64)
  (if s.owqFull d then s.drainOldest d false else s).updDie d fun x =>
    { x with owq := x.owq ++ [{ seq := x.owqLast + 1, line, bytes, mask, tag, bad, keys, tags }], owqLast := x.owqLast + 1 }

def State.tagOf (s : State) (line : Nat) : W16 := s.tags.get0 line

/-- Poisoned sectors of a line. -/
def State.lineBad (s : State) (line : Nat) : List Nat := [2 * line, 2 * line + 1].filter fun x => s.bad.contains x

/-- The whole current line enters the OWQ of its home. -/
def State.acceptLine (s : State) (d line : Nat) : State :=
  s.accept d line (s.bytesAt (128 * line) 128) (BitVec.allOnes 128) (s.tagOf line) (s.lineBad line)

/-- The entry of a sector that waits last in its OWQ. -/
def State.lastOf (s : State) (sec : Nat) : Option OwqEntry :=
  let i := sec % 2
  match homeDie (64 * sec) with
  | some d => ((s.die d).owq.filter fun (e : OwqEntry) => e.line == sec / 2 && (List.range 64).any fun k => e.mask.getLsbD (64 * i + k)).getLast?
  | none => none

/-- The tag that memory, its OWQ counted, holds of a sector. -/
def State.heldTag (s : State) (sec : Nat) : Option W32 :=
  match s.lastOf sec with
  | some e => e.tags.getD (sec % 2) none
  | none => (s.tagWordAt (64 * sec)).map fun a => BitVec.ofNat 32 (leNat ((List.range 4).map fun i => s.metaByte (a + i)))

/-- A read from memory compares the tags of what it fetches (R74, R79); what the L2 holds has been compared. -/
def State.tagFails (s : State) (key pa : Nat) : Bool :=
  let x := s.l2Line (lineOf pa)
  !x.held && !x.dirty && (s.tagWordAt pa).isSome && (s.storedSectors pa).any fun e => s.heldTag e.1 != some (Config.sectorTag (s.material key) (BitVec.ofNat 64 (64 * e.1)) e.2)

/-- A read under an integrity key of a sector that it did not write, or whose tag does not match (R77, R79, R80); or any under a key that
has failed, under which memory is not read (R82). -/
def State.violates (s : State) (key pa : Nat) : Bool :=
  (s.key key).state == .failed || ((s.key key).integ && (s.rekeyed key pa || s.tagFails key pa))

/-- The current sectors of a line are stored: bytes, poison and keys (R74). -/
def State.putStored (s : State) (line : Nat) : State :=
  let secs := [2 * line, 2 * line + 1]
  let s1 := s.toMedia (128 * line) (s.bytesAt (128 * line) 128) (BitVec.allOnes 128)
  { s1 with
    mediaBad := addNats (dropNats s1.mediaBad secs) (s.lineBad line),
    mediaKeys := secs.foldl (fun t x => Tab.put t (fun _ => 0) x (s.secKey.getD (fun _ => 0) x)) s1.mediaKeys }

/-- Tags of sectors as they are stored. -/
def State.storeTags (s : State) (l : List (Nat × List W8)) : State :=
  l.foldl (fun s e => s.putTag e.1 (s.tagFor e.1 (s.secKey.getD (fun _ => 0) e.1) e.2)) s

/-- A line is stored as it is, with its tags. -/
def State.storeLine (s : State) (line : Nat) : State :=
  (s.putStored line).storeTags ([2 * line, 2 * line + 1].map fun x => (x, s.bytesAt (64 * x) 64))

def otherLine (line : Nat) : Nat := if line % 2 = 0 then line + 1 else line - 1

def State.cleanL2 (s : State) (line : Nat) : State := s.setL2 line { s.l2Line line with dirty := false }

/-- The material under which a sector's bytes read as written. -/
def State.secMaterial (s : State) (sec : Nat) : Nat := s.secKey.getD (fun _ => 0) sec

/-- The new state of a block that is written whole (R75); one whose lines are under two keys is not compressed (DESIGN CHOICE, unsafe,
log 126). -/
def State.freshState (s : State) (c : Bool) (block : Nat) : Nat :=
  let bytes := s.bytesAt block 256
  let mixed := (List.range 4).any fun k => s.secMaterial (sectorOf block + k) != s.secMaterial (sectorOf block)
  if !c || mixed then 0 else if bytes.all (· == 0) then 1 else if Config.compressedSize bytes ≤ 64 then 3
  else if Config.compressedSize bytes ≤ 128 then 2 else 0

/-- A sector is held under a key, its bytes as that key reads them (R77). -/
def State.rekey (s : State) (key sec : Nat) : State :=
  let s1 := if s.rekeyed key (64 * sec) then
    { s with mem := Tab.putAll s.mem (fun _ => 0) ((s.sectorUnder key sec).zipIdx.map fun e => (64 * sec + e.2, e.1)) } else s
  if s.secKey.getD (fun _ => 0) sec = s.material key then s1
  else { s1 with secKey := Tab.put s1.secKey (fun _ => 0) sec (s.material key) }

/-- The other line of a block, where the L2 does not hold it, is read and stored again under the key of the one that is written. -/
def State.rekeyOther (s : State) (line : Nat) : State :=
  if (s.l2Line (otherLine line)).held then s
  else (s.rekey (s.l2Line line).key (2 * otherLine line)).rekey (s.l2Line line).key (2 * otherLine line + 1)

/-- A block is stored whole in its new state; the poison of a compressed one spans it, and its stored sectors alone get tags (R75, R79,
R81). -/
def State.storeBlock (s : State) (c : Bool) (line : Nat) : State :=
  let block := line / 2 * 256
  let other := otherLine line
  let s0 := s.rekeyOther line
  let fresh := s0.freshState c block
  let hurt := !(s0.lineBad line).isEmpty || !(s0.lineBad other).isEmpty
  let s1 := if hurt && fresh != 0 then s0.taint ((List.range 4).map (line / 2 * 4 + ·)) else s0
  let s2 := ((s1.putStored line).putStored other).setBlockState block fresh
  let tagged := if fresh = 0 then (List.range 4).flatMap fun k => s2.storedSectors (block + 64 * k) else s2.storedSectors block
  ((s2.storeTags tagged).cleanL2 line).cleanL2 other

/-- Write-back of a dirty line that is not of a P page (R66, R75): with the other line of its block where the L2 holds that or the
block is compressed, else alone. -/
def State.writeBack (s : State) (line : Nat) : State :=
  match backing 256 (128 * line) with
  | .hbm _ =>
    if (s.l2Line (otherLine line)).held || s.blockState (128 * line) != 0 then s.storeBlock (s.l2Line line).c line
    else (s.storeLine line).cleanL2 line
  | .scm _ => (s.storeLine line).cleanL2 line
  | _ => s.cleanL2 line

/-- A dirty line goes out: a P line through its OWQ (R66, R88). -/
def State.evictLine (s : State) (line : Nat) : State :=
  let x := s.l2Line line
  if !x.dirty then s
  else if x.p then
    match homeDie (128 * line) with
    | some d => (s.acceptLine d line).cleanL2 line
    | none => s
  else s.writeBack line

/-! ### The L2 (R65, R66, R68, R69) -/

/-- The home slice of a line: the XOR of the nine 5-bit groups of PA[51:7]. -/
def sliceOf (line : Nat) : Nat := (List.range 9).foldl (fun a k => a ^^^ (line / 32 ^ k % 32)) 0
def l2SetOf (line : Nat) : Nat := line % 1024

/-- Way masks that are not listed: every way works (R53, R69; DESIGN CHOICE, unsafe, log 5). -/
def l1Full : Nat → W64 := fun _ => 0xFF
def l2Full : Nat → W64 := fun _ => 0xFFFF

/-- Ways of a slice that work at a point. -/
def Die.l2WaysAt (x : Die) (point slice : Nat) : List Nat :=
  let w : W64 := Tab.getD x.l2ways l2Full (32 * point + slice)
  (List.range 16).filter fun k => w.getLsbD k

/-- The point whose failing ways are disabled: from stage 4 of a step down its target (R56, R69). -/
def State.wayPoint (s : State) : Nat := if s.power.stepping ∧ !s.power.up ∧ 4 ≤ s.power.stage then s.power.target else s.power.point

/-- The other lines of a line's set. -/
def State.l2Peers (s : State) (line : Nat) : List (Nat × L2Line) :=
  s.l2.filter fun e => e.2.held && e.1 != line && homeDie (128 * e.1) == homeDie (128 * line) && sliceOf e.1 == sliceOf line &&
    l2SetOf e.1 == l2SetOf line

/-- Cores of a die that hold a line of it in their L1: the presence vector (R66). -/
def State.presence (s : State) (line : Nat) : List Nat :=
  (s.cores.filter fun e => some (dieOfCore e.1) == homeDie (128 * line) && e.2.l1.any fun c => c.line == line && c.own).map (·.1)

/-- Invalidates a line in the L1s of its die but for one core's. -/
def State.invalidateL1 (s : State) (line : Nat) (but : Option Nat) : State :=
  ((s.presence line).filter fun c => some c != but).foldl (fun s c =>
    s.updCore c fun x => { x with l1 := x.l1.filter fun y => y.line != line }) s

/-- A line leaves the L2: its dirty bytes go out and its L1 copies are invalidated. -/
def State.evictOut (s : State) (line : Nat) : State := ((s.evictLine line).invalidateL1 line none).setL2 line L2Line.absent

/-- The least recently used of a set. -/
def leastUsed : List (Nat × L2Line) → Option (Nat × L2Line)
  | [] => none
  | e :: r => match leastUsed r with
    | none => some e
    | some x => if x.2.stamp < e.2.stamp then some x else some e

/-- An access under a key to a line held under another writes it back first and invalidates it (R77). -/
def State.switchKey (s : State) (line key : Nat) : State :=
  let x := s.l2Line line
  if x.held && x.key != key then s.evictOut line else s

/-- The controller looks up the state of a line's block, and the tags of its sectors under a key with integrity (R75, R76, R79). -/
def State.metaFor (s : State) (line key : Nat) : State :=
  let s1 := match backing 256 (128 * line) with
    | .hbm _ => s.metaUse (stateByte (128 * line))
    | _ => s
  if (s.key key).integ then
    match s.tagWordAt (128 * line) with
    | some a => s1.metaUse a
    | none => s1
  else s1

/-- A set of the L2 in which an eviction is held takes no new line (R89). -/
def State.setHeld (s : State) (line : Nat) : Bool :=
  s.owqWait.any fun w => match w.1 with
    | .turn (.event (.l2Eviction pa)) =>
      let v := lineOf pa.toNat
      homeDie (128 * v) == homeDie (128 * line) && sliceOf v == sliceOf line && l2SetOf v == l2SetOf line
    | _ => false

/-- Brings a line into the L2 of its home, or uses it there; at the least-recently-used position where `lru` says so (R65, R68)
(DESIGN CHOICE, unsafe, log 15). -/
def State.l2Alloc (s : State) (d line key : Nat) (lru c p : Bool) : State :=
  let x := s.l2Line line
  let now := (s.die d).l2clock + 1
  let stamp := if lru then 0 else now
  let s1 := s.updDie d fun y => { y with l2clock := now }
  if x.held then s1.setL2 line { x with stamp }
  else if s1.setHeld line then s1.metaFor line key
  else
    let s1 := s1.metaFor line key
    let peers := s1.l2Peers line
    let new : L2Line := { held := true, dirty := false, c, p, key, way := 0, stamp }
    let ways := (s1.die d).l2WaysAt s1.wayPoint (sliceOf line)
    match ways.find? fun w => peers.all fun e => e.2.way != w with
    | some way => s1.setL2 line { new with way }
    | none =>
      match leastUsed (peers.filter fun e => ways.contains e.2.way) with
      | some v => (s1.evictOut v.1).setL2 line { new with way := v.2.way }
      | none => s1

/-- An access to a line through the L2 of its home (R65, R66): of a compressed block both lines are installed (R75). -/
def State.l2Use (s : State) (line key cp : Nat) (c p : Bool) (lru : Bool := cp == 1) : State :=
  match homeDie (128 * line) with
  | none => s
  | some d =>
    let s1 := s.switchKey line key
    if 2 ≤ cp then s1.metaFor line key
    else
      let whole := !(s1.l2Line line).held && (match backing 256 (128 * line) with
        | .hbm _ => s1.blockState (128 * line) != 0
        | _ => false) && !(s1.l2Line (otherLine line)).held
      let s2 := if whole then s1.l2Alloc d (otherLine line) key lru c p else s1
      s2.l2Alloc d line key lru c p

/-- Reads of addresses through the L2 of their homes, by whatever path (R75, R77). -/
def State.touch (s : State) (key cp : Nat) (c p : Bool) (lines : List Nat) : State := lines.foldl (fun s l => s.l2Use l key cp c p) s

/-- The lines of n bytes at an address. -/
def linesAt (pa n : Nat) : List Nat := if n = 0 then [] else (List.range (lineOf (pa + n - 1) - lineOf pa + 1)).map (lineOf pa + ·)

/-! ### Snapshot sets: copy-on-write (R139, R140) -/

def State.snap (s : State) (q : Nat) : SnapSet := Tab.getD s.snaps (fun _ => SnapSet.none) q
def State.setSnap (s : State) (q : Nat) (v : SnapSet) : State := { s with snaps := Tab.put s.snaps (fun _ => SnapSet.none) q v }

/-- Words of a set's descriptor (R137). -/
def State.snapCtl (s : State) (q : Nat) : W64 := s.reg (Mmio.snapSet q)
def State.rbase (s : State) (q d : Nat) : Nat := (s.reg (Mmio.snapSet q + 0x20 + 0x20 * d)).toNat
def State.rsize (s : State) (q d : Nat) : Nat := (s.reg (Mmio.snapSet q + 0x28 + 0x20 * d)).toNat
def State.logbase (s : State) (q d : Nat) : Nat := (s.reg (Mmio.snapSet q + 0x30 + 0x20 * d)).toNat
def State.parbase (s : State) (q d : Nat) : Nat := (s.reg (Mmio.snapSet q + 0x38 + 0x20 * d)).toNat
def State.sheet (s : State) (q d : Nat) : Nat := (s.reg (Mmio.snapSet q + 0xA0 + 8 * d)).toNat

/-- Contact-sheet bit of line j (R139). -/
def State.sheetBit (s : State) (q d j : Nat) : Bool := (s.byteAt (s.sheet q d + j / 8)).getLsbD (j % 8)
def State.setSheetBit (s : State) (q d j : Nat) (b : Bool) : State :=
  let a := s.sheet q d + j / 8
  let m : W8 := BitVec.twoPow 8 (j % 8)
  { s with mem := s.mem.put0 a (if b then s.byteAt a ||| m else s.byteAt a &&& ~~~m) }

/-- `a` is at or before `b` in the window of 32,768 (R135). -/
def tagLe (a b : W16) : Bool := decide ((b - a).toNat < 32768)

/-- Copies bytes at home with their poison, without a requester: the snapshot path (R139, R140, R147). -/
def State.snapPut (s : State) (pa : Nat) (bs : List W8) (bad : List Nat) : State :=
  let secs := (List.range ((bs.length + 63) / 64)).map (sectorOf pa + ·)
  { s with mem := Tab.putAll s.mem (fun _ => 0) (bs.zipIdx.map fun e => (pa + e.2, e.1)),
           bad := addNats (dropNats s.bad secs) bad,
           secKey := secs.foldl (fun t x => Tab.put t (fun _ => 0) x 0) s.secKey }

/-- Captures line j of die d's live range into the log slot of the current capture (R139, R140). -/
def State.capture (s : State) (q d j : Nat) : State :=
  let c := s.snap q
  let par := c.cseq % 2
  let src := lineOf (s.rbase q d) + j
  let dst := s.logbase q d + par * s.rsize q d + 128 * j
  let bad := s.lineBad src
  let badDst := bad.map fun x => x - 2 * src + sectorOf dst
  let s1 := s.snapPut dst (s.bytesAt (128 * src) 128) badDst
  let s2 := { s1 with secKey := (List.range 2).foldl (fun t i => Tab.put t (fun _ => 0) (sectorOf dst + i) (s.secKey.getD (fun _ => 0) (2 * src + i))) s1.secKey,
                      tags := s1.tags.put0 (lineOf dst) (s.tagOf src) }
  let s3 := s2.acceptLine d (lineOf dst)
  let c' := { c with poisoned := if bad.isEmpty then c.poisoned else Tab.upd c.poisoned (fun _ => 0) d (· + 1),
                     awaits := (d, (s3.die d).owqLast) :: c.awaits.filter fun e => decide (e.1 ≠ d) }
  (s3.setSheetBit q d j (par == 1)).setSnap q c'

/-- The sets that a write of tag `tag` to a line must copy first: set, die and line index (R140). -/
def State.cowSets (s : State) (line : Nat) (tag : W16) : List (Nat × Nat × Nat) :=
  s.snaps.flatMap fun e =>
    let q := e.1
    if e.2.state ≠ 1 then [] else
    (List.range 4).filterMap fun d =>
      let lo := lineOf (s.rbase q d)
      let j := line - lo
      if lo ≤ line ∧ line < lo + s.rsize q d / 128 ∧ !tagLe tag e.2.cstep ∧ s.sheetBit q d j ≠ (e.2.cseq % 2 == 1) then
        some (q, d, j)
      else none

/-- Copy-on-write of a line before a write of tag `tag`. -/
def State.cow (s : State) (line : Nat) (tag : W16) : State :=
  (s.cowSets line tag).foldl (fun s e => s.capture e.1 e.2.1 e.2.2) s

/-! ### Copies of lines homed elsewhere (R67, R117 to R119) -/

/-- Whether die d's RDC may hold the line. -/
def State.remote (s : State) (d pa cp : Nat) : Bool :=
  decide (cp < 2) &&
    match backing s.pkg pa with
    | .hbm h | .scm h => decide (h ≠ d)
    | .host => s.cxl
    | _ => false

def findLine (cs : List CacheLine) (key pa : Nat) : Option CacheLine := cs.find? fun c => decide (c.line = lineOf pa) && decide (c.key = key)

/-- The copy that a core's load hits, the L1's before the RDC's. -/
def State.copyFor (s : State) (core key cp pa : Nat) : Option CacheLine :=
  if !s.remote (dieOfCore core) pa cp then none
  else match (if cp = 0 then findLine (s.core core).l1 key pa else none) with
    | some c => some c
    | none => findLine (s.die (dieOfCore core)).rdc key pa

/-- How a load reads: through the copies, past the L1 alone, or past every copy (R118). -/
inductive Past where
  | nothing | l1 | all
deriving DecidableEq, Repr

/-- The copy that a load hits. -/
def State.copyPast (s : State) (core key cp : Nat) (past : Past) (pa : Nat) : Option CacheLine :=
  match past with
  | .nothing => s.copyFor core key cp pa
  | .l1 => if s.remote (dieOfCore core) pa cp then findLine (s.die (dieOfCore core)).rdc key pa else none
  | .all => none

/-- The byte of a core's own write on its way from its L1, which its loads see (R66, R117). -/
def State.throughByte (s : State) (core key pa : Nat) : Option W8 :=
  (((s.core core).through.filter fun w => w.key == key && decide (w.pa ≤ pa) && decide (pa < w.pa + w.bytes.length)).getLast?).map fun w =>
    w.bytes.getD (pa - w.pa) 0

/-- A byte as a core's load sees it. -/
def State.viewByte (s : State) (core key cp : Nat) (past : Past) (pa : Nat) : W8 :=
  match s.copyPast core key cp past pa with
  | some c => c.bytes.getD (pa % 128) 0
  | none => (if past = .nothing ∧ cp = 0 then s.throughByte core key pa else none).getD (s.readHome key pa)

/-- Whether the byte is poisoned as the load sees it. -/
def State.viewBad (s : State) (core key cp : Nat) (past : Past) (pa : Nat) : Bool :=
  match s.copyPast core key cp past pa with
  | some c => c.bad.contains (pa % 128 / 64)
  | none => s.isBad pa

/-- Ways of an L1 that work at a point (R53, R69). -/
def Core.l1WaysAt (x : Core) (point : Nat) : List Nat :=
  let w : W64 := Tab.getD x.l1ways l1Full point
  (List.range 8).filter fun k => w.getLsbD k

def l1SetOf (line : Nat) : Nat := line % 256
def rdcSetOf (line : Nat) : Nat := line % 8192

/-- Puts a line first in an L1: into a free working way of its set, or in place of the line filled longest ago, which goes silently
(R63) (DESIGN CHOICE, unsafe, log 15). -/
def fillL1 (ways : List Nat) (cs : List CacheLine) (c : CacheLine) : List CacheLine :=
  let rest := cs.filter fun x => x.line != c.line
  let set := rest.filter fun x => l1SetOf x.line == l1SetOf c.line
  match ways.find? fun w => set.all fun x => x.way != w with
  | some way => { c with way } :: rest
  | none =>
    match (set.filter fun x => ways.contains x.way).getLast? with
    | some v => { c with way := v.way } :: rest.filter fun x => x.line != v.line
    | none => cs

/-- Puts a line into an RDC, 16 of a set at most, the last used leaving first; at the least-recently-used position where `lru` says so
(R67, R68) (DESIGN CHOICE, unsafe, log 15). -/
def fillRdc (cs : List CacheLine) (lru : Bool) (c : CacheLine) : List CacheLine :=
  let rest := cs.filter fun x => x.line != c.line
  let set := rest.filter fun x => rdcSetOf x.line == rdcSetOf c.line
  let kept := match (if 16 ≤ set.length then set.getLast? else none) with
    | some v => rest.filter fun x => x.line != v.line
    | none => rest
  if lru then kept ++ [c] else c :: kept

/-- A core's L1 takes a line; the last use of it leaves it first to go (R238). -/
def State.keepL1 (s : State) (core : Nat) (last : Bool) (c : CacheLine) : State :=
  s.updCore core fun x =>
    let cs := fillL1 (x.l1WaysAt s.wayPoint) x.l1 c
    { x with l1 := if last then (cs.filter fun y => y.line != c.line) ++ cs.filter (fun y => y.line == c.line) else cs }

/-- A line leaves a core's L1, silently. -/
def State.dropL1 (s : State) (core line : Nat) : State :=
  if (s.core core).l1.any fun c => c.line == line then s.updCore core fun x => { x with l1 := x.l1.filter fun c => c.line != line } else s

/-- A load brings the line into the L2 of its home, a line from elsewhere into the RDC, and either into the L1 where `l1` allows
(R63, R65 to R68); a load that goes past the L1 leaves no older copy in it (R104). `last` is CPOL 3 (R238). -/
def State.fillLine (s : State) (core key cp : Nat) (l1 : Bool) (c p : Bool) (pa : Nat) (last : Bool := false) : State :=
  let d := dieOfCore core
  let lru := last || cp == 1
  let keep (s : State) (x : CacheLine) : State := if cp = 0 ∧ l1 then s.keepL1 core last x else s
  match (if cp = 0 then findLine (s.core core).l1 key pa else none) with
  | some x => if last then s.keepL1 core true x else s
  | none =>
    if 2 ≤ cp then s.l2Use (lineOf pa) key cp c p
    else if s.remote d pa cp then
      let s := if cp = 1 then s.dropL1 core (lineOf pa) else s
      match findLine (s.die d).rdc key pa with
      | some x => keep (s.updDie d fun y => { y with rdc := fillRdc y.rdc lru x }) x
      | none =>
        let x : CacheLine :=
          { line := lineOf pa, key, way := 0, own := false, bytes := (List.range 128).map fun i => s.readHome key (pa / 128 * 128 + i),
            bad := [0, 1].filter fun i => s.bad.contains (2 * lineOf pa + i) }
        keep ((s.l2Use (lineOf pa) key cp c p lru).updDie d fun y => { y with rdc := fillRdc y.rdc lru x }) x
    else if homeDie pa = some d then
      keep (s.l2Use (lineOf pa) key cp c p lru) { line := lineOf pa, key, way := 0, own := true, bytes := [], bad := [] }
    else s

/-- Self-invalidation at an acquire of scope pkg or wider: the die's RDC and what its L1s hold of other dies and of the host
(R63, R118). -/
def State.selfInvalidate (s : State) (core : Nat) : State :=
  let d := dieOfCore core
  let s1 := if (s.die d).rdc.isEmpty then s else s.updDie d fun x => { x with rdc := [] }
  s1.cores.foldl (fun s e => if dieOfCore e.1 = d ∧ e.2.l1.any (fun c => !c.own) then
    s.updCore e.1 fun x => { x with l1 := x.l1.filter fun c => c.own } else s) s1

/-- Drops a line's copies in one core's L1 and its die's RDC (R303). -/
def State.dropCopy (s : State) (core pa : Nat) : State :=
  let f (cs : List CacheLine) := cs.filter fun c => decide (c.line ≠ lineOf pa)
  let d := dieOfCore core
  let s1 := if (s.die d).rdc.any (fun c => c.line == lineOf pa) then s.updDie d fun x => { x with rdc := f x.rdc } else s
  if (s.core core).l1.any (fun c => c.line == lineOf pa) then s1.updCore core fun x => { x with l1 := f x.l1 } else s1

/-- A store on its way home updates the copies of its core and die (R67, R118); a sector written whole loses its poison (R81). -/
def CacheLine.set (c : CacheLine) (ws : List (Nat × W8)) : CacheLine :=
  let mine := ws.filter fun w => lineOf w.1 == c.line
  if c.own || mine.isEmpty then c
  else
    let whole (k : Nat) : Bool := (List.range 64).all fun i => mine.any fun w => w.1 % 128 == 64 * k + i
    { c with bytes := mine.foldl (fun bs w => bs.set (w.1 % 128) w.2) c.bytes, bad := c.bad.filter fun k => !whole k }

def State.updCopies (s : State) (core : Nat) (ws : List (Nat × W8)) : State :=
  let f (cs : List CacheLine) := cs.map fun c => c.set ws
  let d := dieOfCore core
  let s1 := if (s.die d).rdc.isEmpty then s else s.updDie d fun x => { x with rdc := f x.rdc }
  if (s.core core).l1.isEmpty then s1 else s1.updCore core fun x => { x with l1 := f x.l1 }

/-! ### Writes -/

/-- Under what a write is performed: the page's key, CP, C and P, the step tag that it carries (R134), and the core
whose copies it passes. -/
structure Under where
  key : Nat
  cp : Nat
  c : Bool
  p : Bool
  tag : W16
  core : Option Nat
  last : Bool := false
deriving DecidableEq, Repr

/-- Distinct values in order of first appearance. -/
def distinct (l : List Nat) : List Nat := l.foldl (fun a x => if a.contains x then a else a ++ [x]) []

/-- The mask of a line's bytes among those written. -/
def lineMask (ws : List (Nat × W8)) (line : Nat) : BitVec 128 :=
  ws.foldl (fun m w => if lineOf w.1 = line then m ||| BitVec.twoPow 128 (w.1 % 128) else m) 0

/-- The key material under which memory, its OWQ counted, holds a sector. -/
def State.storedKey (s : State) (sec : Nat) : Nat :=
  match s.lastOf sec with
  | some e => e.keys.getD (sec % 2) 0
  | none => s.mediaKeys.getD (fun _ => 0) sec

/-- The mask under which a store with CP = 2 enters the OWQ: a sector that changes its key enters whole. -/
def State.entryMask (s : State) (ws : List (Nat × W8)) (line : Nat) : BitVec 128 :=
  let m := lineMask ws line
  [0, 1].foldl (fun m k =>
    let half : BitVec 128 := BitVec.ofNat 128 ((2 ^ 64 - 1) * 2 ^ (64 * k))
    if m &&& half ≠ 0 ∧ s.storedKey (2 * line + k) ≠ s.secKey.getD (fun _ => 0) (2 * line + k) then m ||| half else m) m

/-- What a write leaves in the home's books for one line: dirty in the L2, or at the memory controller with CP = 2;
and its step tag (R66, R68, R87, R88, R134). -/
def State.bookLine (s : State) (u : Under) (ws : List (Nat × W8)) (line : Nat) : State :=
  match homeDie (128 * line) with
  | none => s
  | some d =>
    let s1 := (if u.p then { s with tags := s.tags.put0 line u.tag } else s).invalidateL1 line u.core
    if u.cp < 2 then
      let s2 := s1.l2Use line u.key u.cp u.c u.p (u.last || u.cp == 1)
      s2.setL2 line { s2.l2Line line with dirty := true, c := u.c, p := u.p, key := u.key }
    else if u.p then s1.accept d line (s1.bytesAt (128 * line) 128) (s1.entryMask ws line) u.tag (s1.lineBad line)
    else (s1.setL2 line { s1.l2Line line with dirty := true, c := u.c, p := false, key := u.key }).writeBack line

/-- A device store to lines that the host holds back-invalidates its copies first (R119). -/
def State.backInvalidate (s : State) (lines : List Nat) : State :=
  if s.hostLines.isEmpty then s
  else
    let hit := lines.filter fun l => s.hostLines.contains l
    if hit.isEmpty then s else { s with hostLines := dropNats s.hostLines hit, hostOut := s.hostOut ++ hit.map .backInv }

/-- Stored bytes that satisfy a test are performed with respect to the engines too (R113). -/
def State.dropLags (s : State) (p : Lag → Bool) : State :=
  s.cores.foldl (fun s e => if e.2.lags.any p then s.updCore e.1 fun x => { x with lags := x.lags.filter fun l => !p l } else s) s

/-- Performs byte writes at home, in order. Lines held under another key go out first, and a cached line is held whole under the
write's key (R77), but for sectors not written whose bytes that key may not read: a later read of those meets the violation (R79). A
sector written whole loses its poison; `hurt` are sectors that the bytes themselves poison (R81). -/
def State.writeAll (s : State) (u : Under) (ws : List (Nat × W8)) (hurt : List Nat := []) : State :=
  let pas := ws.map (·.1)
  let s := s.dropLags fun l => pas.contains l.pa
  let secs := distinct (pas.map sectorOf)
  let lines := distinct (pas.map lineOf)
  let s := s.backInvalidate lines
  let s0 := if u.p then lines.foldl (fun s l => s.cow l u.tag) s else s
  let s1 := lines.foldl (fun s l => s.switchKey l u.key) s0
  let under := if u.cp < 2 then (lines.flatMap fun l => [2 * l, 2 * l + 1]).filter fun x => secs.contains x || !s1.violates u.key (64 * x) else secs
  let s2 := under.foldl (fun s x => s.rekey u.key x) s1
  let s3 := { s2 with mem := Tab.putAll s2.mem (fun _ => 0) ws }
  let whole := secs.filter fun x => s3.bad.contains x && (List.range 64).all fun i => pas.contains (64 * x + i)
  let s4 := if whole.isEmpty then s3 else { s3 with bad := dropNats s3.bad whole }
  let s5 := if hurt.isEmpty then s4 else s4.taint hurt
  let s6 := match u.core with
    | some c => s5.updCopies c ws
    | none => s5
  lines.foldl (fun s l => s.bookLine u ws l) s6

/-- A write on its way from a core's L1 is performed in the L2, which invalidates the other copies (R66, R307). -/
def State.landThrough (s : State) (core : Nat) (w : WriteThrough) : State :=
  s.writeAll { key := w.key, cp := 0, c := w.c, p := w.p, tag := w.tag, core := some core } (w.bytes.zipIdx.map fun e => (w.pa + e.2, e.1))

/-- Those of a core's writes on their way that satisfy a test are performed, in order. -/
def State.flushThrough (s : State) (core : Nat) (p : WriteThrough → Bool) : State :=
  let out := (s.core core).through.filter p
  if out.isEmpty then s
  else out.foldl (fun s w => s.landThrough core w) (s.updCore core fun x => { x with through := x.through.filter fun w => !p w })

/-- Sectors lose their poison, at home and in the copies of a core and its die (R81). -/
def State.heal (s : State) (core : Nat) (secs : List Nat) : State :=
  let f (cs : List CacheLine) := cs.map fun c => { c with bad := c.bad.filter fun k => !secs.contains (2 * c.line + k) }
  let d := dieOfCore core
  let s1 := if (secs.filter s.bad.contains).isEmpty then s else { s with bad := dropNats s.bad secs }
  let hurt (cs : List CacheLine) : Bool := cs.any fun c => c.bad.any fun k => secs.contains (2 * c.line + k)
  let s2 := if hurt (s.die d).rdc then s1.updDie d fun x => { x with rdc := f x.rdc } else s1
  if hurt (s.core core).l1 then s2.updCore core fun x => { x with l1 := f x.l1 } else s2

/-- Key 0, cached, for the device's own structures in memory (rings, records, completion words). -/
def Under.device : Under := { key := 0, cp := 0, c := false, p := false, tag := 0, core := none }

/-- Writes consecutive bytes. -/
def State.writeAt (s : State) (u : Under) (pa : Nat) (bs : List W8) : State :=
  s.writeAll u (bs.zipIdx.map fun e => (pa + e.2, e.1))

/-- The last OWQ entry of a line, which settles a push of a clean line (R92). -/
def State.lastEntry (s : State) (d line : Nat) : Option Nat := ((s.die d).owq.filter fun e => e.line == line).getLast?.map (·.seq)

end Sys2Proof.Machine
end

