-- ==== Sys2Proof/Machine/Xlate.lean ====
section
/-! DEFINITION. Translation: partition descriptors (R23), page tables (R18 to R21), walks (R26 to R31), lookups and
parking (R29, R30, R35, R36). -/

namespace Sys2Proof.Machine

/-! ### Partition descriptors (R23) -/

def State.part (s : State) (p off : Nat) : W64 := s.reg (Mmio.partition p + off)
def State.partValid (s : State) (p : Nat) : Bool := (s.part p 0).getLsbD 0
/-- Clusters of the partition, bit 12 d + c. -/
def State.ownsCore (s : State) (p core : Nat) : Bool := (s.part p 0x20).getLsbD (clusterOfCore core)

/-- A range of 64 KiB units: base and size in bytes. -/
def rangeOf (w0 w1 : W64) : Nat × Nat := (bits w0 51 16 * 2 ^ 16, bits w1 35 0 * 2 ^ 16)

def State.owned (s : State) (p : Nat) : List (Nat × Nat) :=
  (List.range (bits (s.part p 0x28) 5 0)).map fun i => rangeOf (s.part p (0x100 + 16 * i)) (s.part p (0x108 + 16 * i))

/-- Grants with their WR bit. -/
def State.grants (s : State) (p : Nat) : List (Nat × Nat × Bool) :=
  (List.range (bits (s.part p 0x28) 13 8)).map fun i =>
    let w1 := s.part p (0x308 + 16 * i)
    let r := rangeOf (s.part p (0x300 + 16 * i)) w1
    (r.1, r.2, w1.getLsbD 62)

def within (base size : Nat) (lo n : Nat) : Bool := decide (base ≤ lo) && decide (lo + n ≤ base + size)
def overlaps (a b : Nat × Nat) : Bool := decide (a.1 < b.1 + b.2) && decide (b.1 < a.1 + a.2)

/-- The end up to which ranges that follow one another cover from `lo` on; `k` of them are tried. -/
def coveredTo (rs : List (Nat × Nat)) (lo : Nat) : Nat → Nat
  | 0 => lo
  | k + 1 => coveredTo rs (rs.foldl (fun a r => if r.1 ≤ lo then max a (r.1 + r.2) else a) lo) k

/-- Ranges together cover n bytes at `lo`. -/
def covered (rs : List (Nat × Nat)) (lo n : Nat) : Bool := decide (lo + n ≤ coveredTo rs lo rs.length)

/-- R28: whether a partition may map n bytes at pa, with W. -/
def State.mayMap (s : State) (p pa n : Nat) (w : Bool) : Bool :=
  match backing s.pkg pa with
  | .hbm _ | .scm _ => covered (s.owned p) pa n
  | _ =>
    let gs := s.grants p
    covered (gs.map fun r => (r.1, r.2.1)) pa n && !(w && gs.any fun r => !r.2.2 && overlaps (r.1, r.2.1) (pa, n))

/-! ### Page table entries (R19) -/

def pteV (e : W64) : Bool := e.getLsbD 0
def pteL (e : W64) : Bool := e.getLsbD 1
def pteR (e : W64) : Bool := e.getLsbD 2
def pteW (e : W64) : Bool := e.getLsbD 3
def pteX (e : W64) : Bool := e.getLsbD 4
def pteP (e : W64) : Bool := e.getLsbD 5
def pteC (e : W64) : Bool := e.getLsbD 6
def pteG (e : W64) : Bool := e.getLsbD 7
def pteA (e : W64) : Bool := e.getLsbD 8
def pteD (e : W64) : Bool := e.getLsbD 9
def pteCp (e : W64) : Nat := bits e 11 10
def ptePa (e : W64) : Nat := bits e 51 16 * 2 ^ 16
def pteKey (e : W64) : Nat := bits e 63 52

/-- log2 of the page that a leaf at a level maps (R18). -/
def pageSize (level : Nat) : Nat := if level = 1 then 42 else if level = 2 then 29 else 16

/-- Index of a VA at a level. -/
def vaIndex (va level : Nat) : Nat := va / 2 ^ pageSize level % 8192

/-- A page lies wholly in one backed range. -/
def State.backedWhole (s : State) (pa n : Nat) : Bool :=
  let b := backing s.pkg pa
  b != .hole && b == backing s.pkg (pa + n - 1)

/-- R20: a malformed leaf. -/
def State.leafMalformed (s : State) (e : W64) (level : Nat) : Bool :=
  let pa := ptePa e
  let b := backing s.pkg pa
  let isHbm := match b with
    | .hbm _ => true
    | _ => false
  let isScm := match b with
    | .scm _ => true
    | _ => false
  let far := match b with
    | .mmio | .peer _ _ => true
    | _ => false
  bits e 15 12 != 0 || pteCp e == 3 || pa % 2 ^ pageSize level != 0 || !s.backedWhole pa (2 ^ pageSize level) ||
    (pteW e && !pteR e) || (pteX e && pteP e) || (pteP e && !isScm) || (pteC e && !isHbm) ||
    (pteKey e != 0 && !isHbm && !isScm) || (pteCp e != 2 && far)

/-- R20: a malformed non-leaf entry; `next` is the address of the entry that the walk reads next. -/
def State.nodeMalformed (s : State) (e : W64) (level next : Nat) : Bool :=
  let isHbm := match backing s.pkg (ptePa e) with
    | .hbm _ => true
    | _ => false
  bits e 63 52 != 0 || bits e 15 12 != 0 || bits e 11 2 != 0 || level == 3 || !isHbm || s.blockState next != 0

/-! Kinds of R31. -/
namespace WalkKind
def notvalid : Nat := 1
def malformed : Nat := 2
def key : Nat := 3
def walkerr : Nat := 4
def owner : Nat := 5
end WalkKind

/-- How a walk ends: a leaf with the entries of the nodes that led to it, or a fault. -/
inductive Walk where
  | leaf (at_ : Nat) (e : W64) (level : Nat) (nodes : List WalkNode)
  | fault (f : WalkFault)
deriving DecidableEq, Repr

/-- R73: whether a tag region covers a page. -/
def State.tagsCover (s : State) (pa n : Nat) : Bool :=
  match backing s.pkg pa with
  | .hbm d => decide (pa % 0x2000000000 + n ≤ bits (s.reg (Mmio.memcfg d)) 2 0 * 16 * gib)
  | .scm d => decide (pa - 0x10000000000 - d * 0x8000000000 + n ≤ bits (s.reg (Mmio.memcfg d)) 13 8 * 16 * gib)
  | _ => true

/-- The checks of a valid leaf: R20, R24, R28, R73. A key that is not usable is reported before an owner (DESIGN CHOICE, unsafe, log 95). -/
def State.leafFault (s : State) (p : Nat) (e : W64) (level : Nat) : Option Nat :=
  let k := s.key (pteKey e)
  if s.leafMalformed e level then some WalkKind.malformed
  else if pteKey e ≠ 0 ∧ (k.state ≠ .loaded ∨ k.owner ≠ p ∨ (k.integ = true ∧ !s.tagsCover (ptePa e) (2 ^ pageSize level))) then
    some WalkKind.key
  else if !s.mayMap p (ptePa e) (2 ^ pageSize level) (pteW e) then some WalkKind.owner
  else none

/-- The node of a walk cache that serves a level of an address (R27). -/
def cachedNode (cache : List WalkNode) (p va level : Nat) : Option WalkNode :=
  cache.find? fun x => x.part == p && x.level == level && x.upper == va / 2 ^ pageSize level

/-- A walk from the node at `node`, at `level`, with `n` levels left (R18, R20), by what a walk cache holds. An entry with V = 0 ends it
in NOTVALID whatever its other bits say (DESIGN CHOICE, unsafe, log 95). -/
def State.walkFrom (s : State) (cache : List WalkNode) (p va node level : Nat) (nodes : List WalkNode) : Nat → Walk
  | 0 => .fault { kind := WalkKind.malformed, level, entry := 0, key := 0 }
  | n + 1 =>
    let a := node + 8 * vaIndex va level
    let known := cachedNode cache p va level
    let e := (known.map (·.entry)).getD (s.wordAt a)
    if known.isNone && s.isBad a then .fault { kind := WalkKind.walkerr, level, entry := e, key := 0 }
    else if !pteV e then .fault { kind := WalkKind.notvalid, level, entry := e, key := 0 }
    else if pteL e then
      match s.leafFault p e level with
      | some k => .fault { kind := k, level, entry := e, key := pteKey e }
      | none => .leaf a e level nodes
    else if s.nodeMalformed e level (ptePa e + 8 * vaIndex va (level + 1)) then
      .fault { kind := WalkKind.malformed, level, entry := e, key := 0 }
    else s.walkFrom cache p va (ptePa e) (level + 1) (nodes ++ [{ part := p, level, upper := va / 2 ^ pageSize level, entry := e }]) n

/-- A walk of a partition's tables (R18, R22). With EN = 0 no entry is read and ENTRY is 0; ROOT is read wherever it points
(DESIGN CHOICE, unsafe, log 95). -/
def State.walk (s : State) (cache : List WalkNode) (p va : Nat) : Walk :=
  let root := s.reg (Mmio.xlroot p)
  if !root.getLsbD 0 then .fault { kind := WalkKind.notvalid, level := 1, entry := 0, key := 0 }
  else s.walkFrom cache p va (bits root 51 16 * 2 ^ 16) 1 [] 3

/-- Whether a table names a key in a leaf: its entries at a level, and the tables under them (R82). -/
def State.nodeNames (s : State) (k node : Nat) : Nat → Bool
  | 0 => false
  | n + 1 => (List.range 8192).any fun i =>
    let e := s.wordAt (node + 8 * i)
    pteV e && (if pteL e then pteKey e == k else s.nodeNames k (ptePa e) n)

/-- Whether the tables of a partition, which all its regions share, name a key. -/
def State.tablesName (s : State) (p k : Nat) : Bool :=
  let root := s.reg (Mmio.xlroot p)
  root.getLsbD 0 && s.nodeNames k (bits root 51 16 * 2 ^ 16) 3

/-! ### Accesses -/

def Acc.code : Acc → Nat
  | .read => 0 | .write => 1 | .exec => 2 | .atomic => 3

/-- Accesses that set D (R26). -/
def Acc.writes : Acc → Bool
  | .write | .atomic => true
  | _ => false

/-- R36: what an access needs of a leaf. -/
def Acc.permits (a : Acc) (x w r : Bool) : Bool :=
  match a with
  | .read => r
  | .write => w
  | .exec => x
  | .atomic => r && w

/-- The leaf after the walker's update, and the TLB entry (R26, R27). A is set, and D where W is, for an access that the leaf then
refuses too (DESIGN CHOICE, unsafe, log 95). -/
def leafAfter (e : W64) (a : Acc) : W64 :=
  e ||| 0x100 ||| (if a.writes && pteW e then 0x200 else 0)

def tlbOf (p va : Nat) (e : W64) (level : Nat) : TlbEntry :=
  { part := p, global := pteG e, size := pageSize level, vpage := va / 2 ^ pageSize level,
    ppage := ptePa e / 2 ^ pageSize level, key := pteKey e, cp := pteCp e, c := pteC e, p := pteP e, x := pteX e, w := pteW e,
    r := pteR e, d := pteD e }

/-- An entry serves a partition's address (R19, G). -/
def TlbEntry.covers (e : TlbEntry) (p va : Nat) : Bool := (e.global || e.part == p) && va / 2 ^ e.size == e.vpage

def TlbEntry.pa (e : TlbEntry) (va : Nat) : Nat := e.ppage * 2 ^ e.size + va % 2 ^ e.size

/-- VA[54:16]. -/
def pageOf (va : Nat) : Nat := va / 2 ^ 16

/-- A TLB's entry for an access: a write to one whose D is 0 misses, unless a walk for the requester has found a leaf without W on
the page, which is one of `seen` (R26). -/
def hitIn (tlb : List TlbEntry) (p va : Nat) (a : Acc) (seen : List Nat) : Option TlbEntry :=
  match tlb.find? fun e => e.covers p va with
  | some e => if a.writes && !e.d && (e.w || !seen.contains (pageOf va)) then none else some e
  | none => none

/-- Lookup in a die's L2 TLB. -/
def State.lookup (s : State) (d p va : Nat) (a : Acc) (seen : List Nat) : Option TlbEntry := hitIn (s.die d).tlb p va a seen

/-- Lookup of the focused stream: the L1 TLB of its core, then the L2 TLB (R29). -/
def State.entryFor (s : State) (va : Nat) (a : Acc) : Option TlbEntry :=
  match hitIn (s.core s.sq.core).tlb s.sq.inst.part va a s.st.seen with
  | some e => some e
  | none => s.lookup (dieOfCore s.sq.core) s.sq.inst.part va a s.st.seen

/-- Two entries of a partition meet: the addresses of one hold those of the other. -/
def TlbEntry.meets (e x : TlbEntry) : Bool :=
  (e.global || x.global || e.part == x.part) && overlaps (e.vpage * 2 ^ e.size, 2 ^ e.size) (x.vpage * 2 ^ x.size, 2 ^ x.size)

/-- An L1 TLB of 128 entries and an L2 TLB of 2,048 sets of 16 ways take an entry, which replaces those that it meets; the entry that
came first leaves a full one (R27) (DESIGN CHOICE, unsafe, log 15). -/
def fillL1Tlb (tlb : List TlbEntry) (e : TlbEntry) : List TlbEntry := (e :: tlb.filter fun x => !(x.part == e.part && x.meets e)).take 128

def fillL2Tlb (tlb : List TlbEntry) (e : TlbEntry) : List TlbEntry :=
  let rest := tlb.filter fun x => !(x.part == e.part && x.meets e)
  let set := rest.filter fun x => x.vpage % 2048 == e.vpage % 2048
  e :: match (if 16 ≤ set.length then set.getLast? else none) with
    | some v => rest.filter fun x => x != v
    | none => rest

/-- A walk cache of 1,024 entries takes the nodes of a walk (R27). -/
def fillNodes (cs ns : List WalkNode) : List WalkNode := (ns.filter (fun n => !cs.contains n) ++ cs).take 1024

/-- A core's L1 TLB takes the entries that an access uses. -/
def State.keepTlb (s : State) (es : List TlbEntry) : State :=
  let new := es.filter fun e => !(s.core s.sq.core).tlb.contains e
  if new.isEmpty then s else s.updCore s.sq.core fun x => { x with tlb := new.foldl (fun t e => if t.contains e then t else fillL1Tlb t e) x.tlb }

/-- A record is open for a page: further misses of the package wait for its answer (R31). -/
def State.recordOpen (s : State) (p page : Nat) : Bool := s.faults.any fun o => o.part == p && o.page == page

/-- Enters a miss, or merges it into the one in the table or into an open record, and starts its walk (R29, R31). Behind the table's
last entry it waits for a free one. -/
def State.miss (s : State) (d p va : Nat) (a : Acc) (path : Nat) (who : W32) : State :=
  if s.recordOpen p (pageOf va) ∨ (s.die d).misses.any fun m => m.part == p && m.page == pageOf va then s
  else
    let m : Miss := { part := p, page := pageOf va, va, acc := a, path, who, walking := false, fault := none, recorded := false }
    (s.updDie d fun x => { x with misses := x.misses ++ [m] }).due (.walkStart d p (pageOf va))


def State.pageKind (s : State) (e : TlbEntry) (va : Nat) : PageKind :=
  match backing s.pkg (e.pa va) with
  | .hbm _ | .scm _ => .memory
  | .host => .host
  | .peer _ _ => .peer
  | _ => .mmio

/-- How a page is written under an entry. -/
def TlbEntry.under (e : TlbEntry) (tag : W16) (core : Nat) : Under :=
  { key := e.key, cp := e.cp, c := e.c, p := e.p, tag, core := some core, last := e.last }

/-! ### The lanes of one instruction (R29, R35, R36, R298, R416) -/

/-- A mask of the lanes named. -/
def lanesMask (ls : List Nat) : W64 := BitVec.ofNat 64 (ls.foldl (fun a l => a ||| 2 ^ l) 0)

/-- A lane's address. -/
abbrev LaneVa := Nat × W64

/-- The walker's update of A and D (R26). -/
def State.writeLeaf (s : State) (at_ : Nat) (old new : W64) : State := if old = new then s else s.writeAt Under.device at_ (bytes64 new)

/-- The lanes of a list that satisfy a test: the lowest one's address and the mask. -/
def pick (ls : List LaneVa) (p : LaneVa → Bool) : Option (W64 × W64) :=
  match ls.filter p with
  | [] => none
  | x :: r => some (x.2, lanesMask ((x :: r).map (·.1)))

/-- What translation says of an instruction's lanes. -/
inductive Lookup where
  /-- A trap with its arguments, TPC aside. -/
  | trap (code : Nat) (addr mask info0 info1 : W64)
  /-- Lanes whose pages miss. -/
  | miss (need : List LaneVa)
  | ok (xs : List (Nat × Nat × TlbEntry))
deriving DecidableEq, Repr

/-- R13: noncanonical. -/
def noncanon (va : W64) : Bool := (va >>> 55) != 0

/-- R416, causes 1 and 2, of global addresses. -/
def addrTrap (ls : List LaneVa) (align : Nat) : Option Lookup :=
  match pick ls fun x => noncanon x.2 with
  | some (a, m) => some (.trap Cause.prot a m 6 0)
  | none =>
    match pick ls fun x => x.2.toNat % align != 0 with
    | some (a, m) => some (.trap Cause.misalign a m 0 0)
    | none => none

/-- TINFO0 of a permission trap (R36). -/
def permInfo (a : Acc) (e : TlbEntry) : W64 :=
  BitVec.ofNat 64 (7 + 16 * a.code + (if e.r then 64 else 0) + (if e.w then 128 else 0) + (if e.x then 256 else 0))

/-- Translation of an instruction's lanes, after the checks at issue: the kinds and permissions of the leaves known, then a denied page,
then the misses (R35, R36, R298, R416). -/
def State.translate (s : State) (ls : List LaneVa) (a : Acc) (serves : PageKind → Bool) : Lookup :=
  let find (l : LaneVa) : Option TlbEntry := s.entryFor l.2.toNat a
  let inDenied (x : Denied) : Option Lookup :=
    (pick ls fun l => pageOf l.2.toNat == x.page).map fun (r : W64 × W64) => .trap Cause.tfault r.1 r.2 x.info x.entry
  let refused (l : LaneVa) : Bool := ((find l).map fun e => !serves (s.pageKind e l.2.toNat)).getD false
  let barred (l : LaneVa) : Bool := ((find l).map fun e => !a.permits e.x e.w e.r).getD false
  let info (l : LaneVa) : W64 := ((find l).map (permInfo a)).getD 7
  match ls.filter refused, ls.filter barred with
  | x :: r, _ => .trap Cause.prot x.2 (lanesMask ((x :: r).map (·.1))) 0xB 0
  | [], x :: r => .trap Cause.prot x.2 (lanesMask ((x :: r).map (·.1))) (info x) 0
  | [], [] =>
    match s.st.deny.findSome? inDenied, ls.filter (fun l => (find l).isNone) with
    | some t, _ => t
    | none, x :: r => .miss (x :: r)
    | none, [] => .ok (ls.filterMap fun l => (find l).map fun e => (l.1, l.2.toNat, e))

/-- The kinds of page that serve an access. -/
def kindsOf (serves : PageKind → Bool) : List PageKind := [.memory, .host, .peer, .mmio].filter serves

/-- Parks the focused stream on the pages that miss: it leaves the active set (R29, R30). -/
def State.park (s : State) (need : List LaneVa) (a : Acc) (fetch : Bool) (kinds : List PageKind) : State :=
  let s1 := need.foldl (fun s l => s.miss (dieOfCore s.sq.core) s.sq.inst.part l.2.toNat a 0 s.whoCode) s
  let t := s1.hold (.parked (need.map fun l => (l.1, l.2.toNat)) fetch a kinds)
  { t with st := { t.st with active := false, pend := distinct (need.map fun l => pageOf l.2.toNat) } }

/-! ### Die links as requests meet them (R384 to R386, R388) (DESIGN CHOICE, unsafe, log 71) -/

/-- A module's direction: towards the higher die, the hub's being 4, or back. -/
def linkKey (m : Nat) (fwd : Bool) : Nat := if fwd then 2 * m + 1 else 2 * m

def State.link (s : State) (k : Nat) : LinkDir := Tab.getD s.links (fun _ => LinkDir.reset) k
def State.setLink (s : State) (k : Nat) (d : LinkDir) : State := { s with links := Tab.put s.links (fun _ => LinkDir.reset) k d }
def State.mod (s : State) (m : Nat) : LinkModule := Tab.getD s.modules (fun _ => LinkModule.reset) m
def State.setMod (s : State) (m : Nat) (x : LinkModule) : State := { s with modules := Tab.put s.modules (fun _ => LinkModule.reset) m x }

/-- Pairs of dies in the order of their modules, four each; die 4 is the hub's (R388). -/
def diePairs : List (Nat × Nat) := [(0, 1), (0, 2), (0, 3), (1, 2), (1, 3), (2, 3), (0, 4), (1, 4), (2, 4), (3, 4)]

/-- The dies that a module joins. -/
def moduleDies (m : Nat) : Nat × Nat := diePairs.getD (m / 4) (0, 0)

/-- The module of a request from die a to die b for an address: the XOR of PA[11:10] and PA[13:12] (R384). -/
def moduleFor (a b pa : Nat) : Nat := 4 * diePairs.idxOf (min a b, max a b) + ((pa / 2 ^ 10 % 4) ^^^ (pa / 2 ^ 12 % 4))

/-- The direction that a core's request for a line takes, where another die homes it. -/
def farLink (core line : Nat) : Option Nat :=
  (homeDie (128 * line)).bind fun h =>
    let d := dieOfCore core
    if h = d then none else some (linkKey (moduleFor d h (128 * line)) (decide (d < h)))

/-- Lines of another die for which an access of the focused stream has still to send a request, or to have it executed: one that a load
finds in its L1 or its RDC needs none. -/
def State.farLines (s : State) (a : Acc) (xs : List (Nat × Nat × TlbEntry)) : List Nat :=
  let far := xs.filter fun x =>
    let pa := x.2.2.pa x.2.1
    match farLink s.sq.core (lineOf pa) with
    | none => false
    | some k => !(s.link k).granted.contains { who := s.me, line := lineOf pa } &&
        (a.writes || (s.copyFor s.sq.core x.2.2.key x.2.2.cp pa).isNone)
  far.foldl (fun l x => let line := lineOf (x.2.2.pa x.2.1); if l.contains line then l else l ++ [line]) []

/-- The requests for lines take their places at their modules. -/
def State.request (s : State) (lines : List Nat) : State :=
  lines.foldl (fun s line => match farLink s.sq.core line with
    | none => s
    | some k =>
      let m : LinkMsg := { who := s.me, line }
      let x := s.link k
      if x.waiting.contains m || x.flying.any fun e => e.2 == m then s else s.setLink k { x with waiting := x.waiting ++ [m] }) s

/-- A stream's instruction is done: what was executed for it is forgotten. -/
def State.dropGrants (s : State) (who : StreamId) : State :=
  if s.links.any fun (e : Nat × LinkDir) => e.2.granted.any fun (m : LinkMsg) => m.who == who then
    s.links.foldl (fun s (e : Nat × LinkDir) => s.setLink e.1 { e.2 with granted := e.2.granted.filter fun (m : LinkMsg) => m.who != who }) s
  else s

/-- A module between a core and the home of an address retrains: what is hashed to it waits (R386). -/
def State.linkTrains (s : State) (core pa : Nat) : Bool :=
  match farLink core (lineOf pa) with
  | some k => (s.mod (k / 2)).training.isSome
  | none => false

/-- Runs an access once every lane holds a permitted translation, and traps or parks otherwise; its requests to other dies are executed as
their flits are accepted (R385). -/
def withLanes (s : State) (ls : List LaneVa) (align : Nat) (a : Acc) (serves : PageKind → Bool)
    (k : State → List (Nat × Nat × TlbEntry) → Out) : Out :=
  match (addrTrap ls align).getD (s.translate ls a serves) with
  | .trap code addr mask i0 i1 => trapAt { s with st := s.st.cleared } code addr mask i0 i1 0
  | .miss need => .next (s.park need a false (kindsOf serves))
  | .ok xs =>
    match s.farLines a xs with
    | [] => k ({ s with st := s.st.cleared }.keepTlb (xs.map fun (e : Nat × Nat × TlbEntry) => e.2.2)) xs
    | ls => .next ((s.request ls).hold .blocked)

end Sys2Proof.Machine
end

