-- ==== Sys2Proof/Machine/Waves.lean ====
section
/-! DEFINITION. Squads, waves and streams as lists around the focus; fragments, arrival and the end of a wave
(R164 to R168, R259); the baton's passing (R188). -/

namespace Sys2Proof.Machine

/-! ### The focus -/

/-- Puts an element before the first that has no smaller number. -/
def putByNumber {α : Type} (n : α → Nat) (x : α) : List α → List α
  | [] => [x]
  | y :: r => if n x ≤ n y then x :: y :: r else y :: putByNumber n x r

/-- Every squad, the focused one put together again in its place; a discarded one is left out. -/
def State.everySquad (s : State) : List Squad :=
  let wv := { s.wv with frags := putByNumber Stream.fid s.st s.wv.frags }
  let sq := { s.sq with waves := putByNumber Wave.widx wv s.sq.waves }
  if s.sq.place = .discarded then s.squads else putByNumber Squad.sid sq s.squads

/-- The state with these squads, focused on a stream; on the empty squad of reset where there is no such stream. -/
def State.focusIn (s : State) (l : List Squad) (who : StreamId) : State :=
  let bare : State := { s with sq := Squad.none, wv := Wave.start 0 0 0 1, st := { Stream.start 0 with wait := .ended }, squads := l }
  match l.find? fun q => q.sid == who.sid with
  | none => bare
  | some q =>
    match q.waves.find? fun w => w.widx == who.widx with
    | none => bare
    | some w =>
      match w.frags.find? fun x => x.fid == who.fid with
      | none => bare
      | some x =>
        { s with sq := { q with waves := q.waves.filter fun y => y.widx != who.widx },
                 wv := { w with frags := w.frags.filter fun y => y.fid != who.fid }, st := x,
                 squads := l.filter fun y => y.sid != who.sid }

def State.focus (s : State) (who : StreamId) : State := if who = s.me then s else s.focusIn s.everySquad who

/-- Whether the stream exists. -/
def State.has (s : State) (who : StreamId) : Bool :=
  s.everySquad.any fun q => q.sid == who.sid && q.waves.any fun w => w.widx == who.widx && w.frags.any fun x => x.fid == who.fid

/-- Changes every squad, keeping the focus where it is. -/
def State.mapSquads (s : State) (f : Squad → Squad) : State := s.focusIn (s.everySquad.map f) s.me

def Squad.mapWaves (q : Squad) (f : Wave → Wave) : Squad := { q with waves := q.waves.map f }
def Wave.mapStreams (w : Wave) (f : Stream → Stream) : Wave := { w with frags := w.frags.map f }

/-- Changes every stream. -/
def State.mapStreams (s : State) (f : Squad → Wave → Stream → Stream) : State :=
  s.mapSquads fun q => q.mapWaves fun w => w.mapStreams (f q w)

/-- Runs an operation with another stream in focus, and returns to the stream in focus. -/
def State.at (s : State) (who : StreamId) (f : State → State) : State :=
  if s.has who then let s1 := f (s.focus who); s1.focusIn s1.everySquad s.me else s

def State.squad? (s : State) (sid : Nat) : Option Squad := s.everySquad.find? fun q => q.sid == sid

/-- Squads resident on a core. -/
def State.residents (s : State) (c : Nat) : List Squad := s.everySquad.filter fun q => q.core == c && q.place == .resident

def Squad.wave? (q : Squad) (w : Nat) : Option Wave := q.waves.find? fun x => x.widx == w

/-- The streams of a squad with their waves. -/
def Squad.streams (q : Squad) : List (Wave × Stream) := q.waves.flatMap fun w => w.frags.map fun x => (w, x)

/-! ### Quadrants (R186) -/

/-- A stream with its wave and squad. -/
structure Resident where
  sq : Squad
  wv : Wave
  strm : Stream

def Resident.who (e : Resident) : StreamId := { sid := e.sq.sid, widx := e.wv.widx, fid := e.strm.fid }

/-- The streams placed on a quadrant. -/
def State.quadStreams (s : State) (c quad : Nat) : List Resident :=
  (s.residents c).flatMap fun q => (q.streams.filter fun e => e.1.quad == quad).map fun e => ⟨q, e.1, e.2⟩

/-- In the active set. -/
def Resident.isActive (e : Resident) : Bool := e.strm.active && e.strm.wait != .ended

/-- Streams of a quadrant's active set. -/
def State.activeCount (s : State) (c quad : Nat) : Nat := ((s.quadStreams c quad).filter Resident.isActive).length

/-- The order of placement: by the time of the squad's, then by number (DESIGN CHOICE, unsafe, log 24). -/
def Resident.older (a b : Resident) : Bool :=
  let key (e : Resident) : List Nat := [e.sq.placed, e.sq.sid, e.wv.widx, e.strm.fid]
  decide (key a < key b)

/-- Nothing of its own stops a wave: it is not frozen at a breakpoint (R267), not in the baton-returning state (R188), and not stopped
while another wave of its squad handles OVERTIME (R159). -/
def State.waveGoes (s : State) (q : Squad) (w : Wave) : Bool :=
  w.bkpt.isNone && !(s.core q.core).returning.contains (q.sid, w.widx) && (q.overtime.isNone || q.overtime == some w.widx)

/-- A stream that is not blocked (R186). -/
def State.unblockedNow (s : State) (e : Resident) : Bool :=
  e.sq.place == .resident && e.strm.wait == .none && !s.frozen.contains (clusterOfCore e.sq.core) && s.waveGoes e.sq e.wv

/-- A stream that can issue now, its quadrant's choice aside. -/
def State.residentReady (s : State) (e : Resident) : Bool := s.unblockedNow e && decide (e.strm.readyAt ≤ s.cycle)

/-- The oldest of some streams. -/
def oldestOf : List Resident → Option Resident
  | [] => none
  | e :: r => match oldestOf r with
    | none => some e
    | some x => if x.older e then some x else some e

/-- The oldest ready pending stream. -/
def State.oldestPending (s : State) (c quad : Nat) : Option Resident :=
  oldestOf ((s.quadStreams c quad).filter fun e => !e.strm.active && s.residentReady e)

/-- The active stream that an exchange evicts where the set is full: a blocked one, else one of the lowest counter. -/
def State.evictee (s : State) (c quad : Nat) : Option StreamId :=
  let xs := (s.quadStreams c quad).filter Resident.isActive
  if xs.length < 8 then none
  else match xs.find? fun e => !s.unblockedNow e with
    | some e => some e.who
    | none => ((xs.map fun e => e.strm.lap).min?).bind fun m => (xs.find? fun e => e.strm.lap == m).map Resident.who

/-- Exchanges a pending stream in, which takes 2 cycles. -/
def State.exchange (s : State) (e : Resident) : State :=
  let out := s.evictee e.sq.core e.wv.quad
  s.mapStreams fun q w x =>
    let me : StreamId := { sid := q.sid, widx := w.widx, fid := x.fid }
    if me = e.who then { x with active := true, readyAt := max x.readyAt (s.cycle + 2) }
    else if some me = out then { x with active := false } else x

/-- A stream by name. -/
def State.resident? (s : State) (who : StreamId) : Option Resident :=
  (s.squad? who.sid).bind fun q => (q.wave? who.widx).bind fun w => (w.frags.find? fun x => x.fid == who.fid).map fun x => ⟨q, w, x⟩

/-- The proof kernel of a core is discarded, and is run again later (R183). -/
def Core.discardProof (x : Core) : Core := { x with proof := none, proofDue := x.proofDue ++ x.proof.toList }

/-- Every stream by name. -/
def State.streamIds (s : State) : List StreamId :=
  s.everySquad.flatMap fun q => q.streams.map fun e => { sid := q.sid, widx := e.1.widx, fid := e.2.fid }

/-! ### The baton (R188) -/

/-- A wave's name on its core. -/
abbrev WaveId := Nat × Nat

def waveOf (x : StreamId) : WaveId := (x.sid, x.widx)

/-- Resumes the macro-operations that a wave's suspension kept stopped. -/
def MacroOp.resume (w : WaveId) (m : MacroOp) : MacroOp := if waveOf m.who = w then { m with suspended := false } else m

def Core.passBaton (x : Core) (cycle : Nat) : Core :=
  match x.fifo with
  | [] => { x with baton := none, hold := 0 }
  | w :: r =>
    { x with baton := some w, fifo := r, hold := 0, grantAt := cycle, returning := x.returning.filter fun y => decide (y ≠ w),
             mq := x.mq.map (·.resume w) }

/-- The wave gives up the baton or its place; a holder with macro-operations keeps it until they end. -/
def Core.leaveBaton (x : Core) (w : WaveId) (cycle : Nat) : Core :=
  if x.baton = some w then (if x.mq.any fun m => waveOf m.who == w then x else x.passBaton cycle)
  else { x with fifo := x.fifo.filter fun y => decide (y ≠ w), returning := x.returning.filter fun y => decide (y ≠ w) }

/-! ### Ends (R167, R259) -/

/-- A stream that ends with a pending error: the error is logged only (R364, R378). -/
def State.noteLate (s : State) (x : Stream) : State := if x.trap.pend then s.note (.lateError s.whoCode x.trap.pcause) else s

/-- The focused wave ends: its streams are gone, and the instance ends with its last wave. -/
def State.endWave (s : State) : State :=
  let s1 := (s.st :: s.wv.frags).foldl (fun s x => s.noteLate x) s
  let w : WaveId := (s.sq.sid, s.wv.widx)
  let s2 := s1.updCore s.sq.core fun x =>
    { x.leaveBaton w s.cycle with macqWait := x.macqWait.filter fun m => decide (waveOf m.who ≠ w) }
  let s3 := { s2 with wv := { s2.wv with ended := true, frags := [], exited := BitVec.allOnes 64, tracked := [], bkpt := none },
                      st := { s2.st with fid := 0, exec := 0, stack := [], wait := .ended, trap := { s2.st.trap with pend := false } } }
  -- the wave that has taken OVERTIME returns no more: the allowance that has run out traps another (R159)
  let s4 := if s3.sq.overtime = some s3.wv.widx then { s3 with sq := { s3.sq with overtime := none, expired := false } } else s3
  if s4.sq.waves.all fun x => x.ended then s4.due (.instanceEnd s4.sq.sid) else s4

/-- The distances that remain of a stream's registers (R240). -/
def Stream.remaining (x : Stream) : List (RegId × Nat) :=
  (x.dist.filter fun e => decide (x.issued < e.2)).map fun e => (e.1, e.2 - x.issued)

/-- A stream's distances once it takes over others: the larger one of each register (R240). -/
def Stream.inherited (x : Stream) (d : List (RegId × Nat)) : List (RegId × Nat) :=
  d.foldl (fun a e =>
    if a.any fun z => decide (z.1 = e.1) && decide (x.issued + e.2 ≤ z.2) then a
    else (e.1, x.issued + e.2) :: a.filter fun z => decide (z.1 ≠ e.1)) x.dist

/-- The fragments under which a path's commands were issued, once it goes on under another number or has taken over another path:
`next` is the number of the next command. -/
def Stream.history (x : Stream) (next : Nat) : List (Nat × Nat) := (x.earlier.filter fun e => e.1 != x.fid) ++ [(x.fid, next)]

/-- The larger of two distances for each register (R240). -/
def mergeDist (a b : List (RegId × Nat)) : List (RegId × Nat) :=
  b.foldl (fun d e => if d.any fun z => decide (z.1 = e.1) && decide (e.2 ≤ z.2) then d else e :: d.filter fun z => decide (z.1 ≠ e.1)) a

/-- Removes an arrived fragment from the JOIN entries that record it; its pushes and commands go to the stream that waits for it
(R93, R125, R166), its distances to the entry, whose merge takes them over (R240). -/
def Stream.join (next : Nat) (x : Stream) (f : Stream) : Stream :=
  if x.stack.any fun e => e.frags.contains f.fid then
    let came := f.history next
    let take (e : StackEntry) : StackEntry :=
      if e.frags.contains f.fid then { e with frags := e.frags.filter fun k => k != f.fid, dist := mergeDist e.dist f.remaining } else e
    { x with stack := x.stack.map take, pushes := x.pushes ++ f.pushes,
             earlier := (x.earlier.filter fun e => came.all fun y => y.1 != e.1 || decide (y.2 < e.2)) ++ came }
  else x

/-- The focused fragment arrives or ends: its slot is free, and the wave's own stream comes into focus. -/
def State.arrive (s : State) : State :=
  let f := s.st
  let s1 := s.noteLate f
  let rest := s1.wv.frags.map fun x => x.join s.nextCmd f
  match rest.find? fun x => x.fid == 0 with
  | none => s1
  | some w =>
    let s2 := { s1 with st := w, wv := { s1.wv with frags := rest.filter fun x => x.fid != 0 } }
    if w.wait = .ended ∧ s2.wv.frags.isEmpty then s2.endWave else s2

/-- The wave's own stream issues nothing more; the wave ends when its fragments have ended. -/
def State.endStream (s : State) : State :=
  let s1 := (s.noteLate s.st)
  if s1.wv.frags.isEmpty then s1.endWave
  else { s1 with st := { s1.st with wait := .ended, exec := 0, trap := { s1.st.trap with pend := false } } }

/-- What a stream with an empty EXEC does, entry by entry (R259). -/
def State.drain (s : State) : Nat → State
  | 0 => s
  | n + 1 =>
    let ready := max s.st.readyAt (s.cycle + 6)
    match s.st.stack with
    | [] => if s.st.fid = 0 then s.endStream else s.arrive
    | e :: r =>
      let m := e.mask &&& ~~~s.wv.exited
      let s1 := { s with st := { s.st with exec := m, fmt := e.fmt, stack := r } }
      if e.sibling then
        if m = 0 then s1.drain n
        else { s1 with st := { s1.st with pc := e.pc, readyAt := ready, wait := .none, dist := s1.st.inherited e.dist } }
      else if !e.frags.isEmpty then { s with st := { s.st with wait := .drained } }
      else
        let s2 := { s1 with st := { s1.st with dist := s1.st.inherited e.dist } }
        if m = 0 then s2.drain n else { s2 with st := { s2.st with pc := e.recon, skip := true, readyAt := ready, wait := .none } }

/-- Continues as EXIT does, EXEC being empty. -/
def State.drained (s : State) : State := s.drain (s.st.stack.length + 1)

/-! ### Fragments (R164, R165, R168) -/

def stackLimit (fid : Nat) : Nat := if fid = 0 then 32 else 8

/-- Free entries of the focused stream's stack. -/
def State.stackFree (s : State) : Nat := stackLimit s.st.fid - s.st.stack.length

/-- Fragment slots that are free. -/
def State.freeFids (s : State) : List Nat := [1, 2, 3, 4].filter fun k => k != s.st.fid && s.wv.frags.all fun x => x.fid != k

/-- A fragment of the focused stream (R124, R165, R240): it inherits the distances, and the commands that its fences wait for. -/
def State.newFragment (s : State) (fid : Nat) (token : BitVec 6) (mask pc fmt : W64) (ready : Nat) : Stream :=
  { s.st with fid, token, pc, npc := pc, exec := mask, fmt, stack := [], wait := .none, readyAt := ready, lap := 0,
              active := decide (s.activeCount s.sq.core s.wv.quad < 8), trap := TrapRec.zero, traps := 0, entering := false,
              line := none, deny := [], pend := [], seen := [], skip := false, pushes := [], earlier := s.st.history s.nextCmd, batch := none, cons := none,
              asked := [] }

def State.addFragment (s : State) (x : Stream) : State := { s with wv := { s.wv with frags := s.wv.frags ++ [x] } }

/-- Records a fragment in the topmost JOIN entry of a stack. -/
def recordFragment (fid : Nat) : List StackEntry → List StackEntry
  | [] => []
  | e :: r => if e.sibling then e :: recordFragment fid r else { e with frags := e.frags ++ [fid] } :: r

/-- R168: the stream, with the state `t.st` that it has after its instruction, becomes a fragment, and the topmost
SIBLING entry of `s` runs in its place. A stream with more entries above that than a fragment's stack holds waits in place (DESIGN CHOICE,
safe, log 105). -/
def State.detachSelf (s t : State) : State :=
  let above := s.st.stack.takeWhile fun e => !e.sibling
  match s.st.stack.drop above.length, s.freeFids with
  | e :: below, fid :: _ =>
    if 8 < above.length then t else
    let f : Stream := { t.st with fid, token := e.token, stack := above, earlier := t.st.history t.nextCmd,
                                  active := decide (s.activeCount s.sq.core s.wv.quad < 8) }
    let t1 := { t with st := { s.st with pc := e.pc, npc := e.pc, exec := e.mask, fmt := e.fmt, stack := recordFragment fid below, wait := .none, deny := [], pend := [], seen := [],
                                         readyAt := max t.st.readyAt (s.cycle + 14), dist := t.st.inherited e.dist, issued := t.st.issued,
                                         trap := { s.st.trap with hmode := false, pend := false } } }
    t1.addFragment f
  | _, _ => t

/-- Whether the stack holds a SIBLING entry. -/
def State.hasSibling (s : State) : Bool := s.st.stack.any fun e => e.sibling

end Sys2Proof.Machine
end

