-- ==== Sys2Proof/Machine/Control.lean ====
section
/-! DEFINITION. Control instructions (R252 to R261), targets and landing (R230, R231), divergence and merging
(R164 to R168). -/

namespace Sys2Proof.Machine

/-! ### Program counters (R230, R231) -/

/-- A valid PC: slot 0 to 4, bits 5:3 and 63:55 zero. -/
def pcValid (pc : W64) : Bool := decide (pc.toNat % 64 ≤ 4) && decide (pc.toNat < 2 ^ 55)

def pcSlot (pc : W64) : Nat := pc.toNat % 64
def pcLine (pc : W64) : W64 := (pc >>> 6) <<< 6

/-- The line of `pc` moved by a signed delta, with a slot: modulo 2^49 on the line address. -/
def pcTarget (pc : W64) (delta : Int) (slot : Nat) : W64 :=
  BitVec.ofNat 64 (((pc.toNat / 64 : Nat) + delta) % 2 ^ 49).toNat * 64 + BitVec.ofNat 64 slot

/-- The next PC in a line whose word is `lw` (R230). -/
def pcNext (pc : W64) (lw : Nat) : W64 :=
  let i := pcSlot pc
  let j := if lineJoin lw i || linePair lw i then i + 2 else i + 1
  if j ≤ 4 then pcLine pc + BitVec.ofNat 64 j else pcTarget pc 1 0

def BF.target (f : BF) (pc : W64) : W64 := pcTarget pc f.ldelta.toInt f.tslot.toNat
def BF.recon (f : BF) (pc : W64) : W64 := pcTarget pc f.rld.toInt f.rslot.toNat

/-- The code bytes of a line: the instruction cache's, or memory's through the L2 or the RDC (R64). -/
def State.codeLine (s : State) (va : Nat) (e : TlbEntry) : List W8 :=
  match (s.core s.sq.core).icache.find? fun x => x.1 == s.sq.inst.part && x.2.1 == va with
  | some x => x.2.2
  | none => (List.range 64).map fun i => s.viewByte s.sq.core e.key e.cp .l1 (e.pa va + i)

/-- What stands at a checked target (R231). -/
inductive Landing where
  | lands | misaligned | denied (x : Denied) | noLand | walking
deriving DecidableEq, Repr

def State.landing (s : State) (t : W64) : Landing :=
  if !pcValid t then .misaligned
  else
    let va := (pcLine t).toNat
    match s.st.deny.find? fun x => x.page == pageOf va with
    | some x => .denied x
    | none =>
      match s.entryFor va .exec with
      | none => .walking
      | some e =>
        let lw := lineWord (s.codeLine va e)
        if lineLand lw (pcSlot t) && !lineIsExt lw (pcSlot t) then .lands else .noLand

def allOnes64 : W64 := BitVec.allOnes 64

/-- A single-target BADLAND (R231). -/
def badland (s : State) (t i0 i1 i2 : W64) : Out :=
  trapAt { s with st := s.st.cleared } Cause.badland t s.st.exec i0 i1 i2

/-- Transfers to a checked target: `k` is the branch with its effects, the target's PC aside (R231). A denied page is
a TFAULT at the target. -/
def transfer (s : State) (t : W64) (k : State → State) : Out :=
  match s.landing t with
  | .misaligned => badland s t 0 allOnes64 0
  | .noLand => badland s t 0 0 allOnes64
  | .walking => .next (s.park [(0, pcLine t)] .exec true [.memory])
  | .lands => .next { (k s) with st := (k s).st.cleared }
  | .denied x =>
    let s1 := k s
    let s2 := { s1 with st := s1.st.cleared }
    .next (s2.trap { code := Cause.tfault, tpc := t, addr := pcLine t, mask := s2.st.exec, info0 := x.info, info1 := x.entry })

/-- Moves the stream to a PC at the cost of a taken transfer (R239). -/
def State.jump (s : State) (h : Head) (pc : W64) (cost : Nat := 6) : State := s.retireTo h pc cost

/-- The test of CREG (R238, COND; R252). -/
def bcond (c : BCond) (v : W64) : Bool :=
  match c with
  | .always => true
  | .zero => v == 0
  | .nonzero => v != 0
  | .negative => decide (v.toInt < 0)
  | .notNegative => decide (0 ≤ v.toInt)
  | .positive => decide (0 < v.toInt)
  | .notPositive => decide (v.toInt ≤ 0)

def execBra (f : BF) (s : State) : Out :=
  checked (f.named Rule.bra) s fun s =>
    if bcond f.cond (s.readS f.creg.toNat) then
      let t := BF.target f s.st.pc
      transfer s t fun s => s.jump f.h t
    else .next (s.retire f.h)

def stackovf (s : State) : Out := trapAt s Cause.stackovf 0 0 0 0 0

/-- R165: a divergent BRV of branch mask `t`, its target checked. -/
def State.diverge (s : State) (f : BF) (t : W64) : Out :=
  let e := s.st.exec
  let other := e &&& ~~~t
  let takenFirst := decide (popMask other ≤ popMask t)
  let first := if takenFirst then t else other
  let minor := if takenFirst then other else t
  let taken := BF.target f s.st.pc
  let firstPc := if takenFirst then taken else s.st.npc
  let minorPc := if takenFirst then s.st.npc else taken
  let join : StackEntry := { sibling := false, pc := 0, mask := e, recon := BF.recon f s.st.pc, fmt := s.st.fmt, token := f.token, frags := [], dist := [] }
  let detaches := f.detach || decide (popMask minor ≤ s.wv.detthr.toNat)
  match (if detaches then s.freeFids else []) with
  | fid :: _ =>
    if s.stackFree < 1 then stackovf s
    else
      let s1 := s.jump f.h firstPc 14
      let s2 := { s1 with st := { s1.st with exec := first, stack := { join with frags := [fid] } :: s1.st.stack } }
      .next (s2.addFragment (s1.newFragment fid f.token minor minorPc s.st.fmt s1.st.readyAt))
  | [] =>
    if s.stackFree < 2 then stackovf s
    else
      let s1 := s.jump f.h firstPc 8
      let sib : StackEntry := { join with sibling := true, pc := minorPc, mask := minor, dist := s1.st.remaining }
      .next { s1 with st := { s1.st with exec := first, stack := sib :: join :: s1.st.stack } }

def execBrv (f : BF) (s : State) : Out :=
  checked (f.named Rule.brv) s fun s =>
    let m := s.readM f.msrc.toNat
    let t := s.st.exec &&& (if f.minv then ~~~m else m)
    if t = 0 then .next (s.retire f.h)
    else
      let target := BF.target f s.st.pc
      if t = s.st.exec then transfer s target fun s => s.jump f.h target
      else
        match s.landing target with
        | .lands => { s with st := s.st.cleared }.diverge f t
        | .denied x =>
          match { s with st := s.st.cleared }.diverge f t with
          | .next s1 =>
            if s1.st.traps = s.st.traps ∧ s1.st.pc = target then
              .next (s1.trap { code := Cause.tfault, tpc := target, addr := pcLine target, mask := s1.st.exec, info0 := x.info, info1 := x.entry })
            else .next s1
          | o => o
        | _ => transfer s target id

def execJmp (f : BF) (s : State) : Out :=
  checked (f.named Rule.jmp) s fun s =>
    let t := s.readS f.creg.toNat
    transfer s t fun s => (s.writeS f.link.toNat s.st.npc).jump f.h t

def execRet (f : BF) (s : State) : Out :=
  checked (f.named Rule.ret) s fun s =>
    let t := s.readS f.creg.toNat
    transfer s t fun s => s.jump f.h t

def execCall (f : BF) (s : State) : Out :=
  checked (f.named Rule.call) s fun s =>
    let t := BF.target f s.st.pc
    transfer s t fun s => (s.writeS f.link.toNat s.st.npc).jump f.h t

def execLoop (f : BF) (s : State) : Out :=
  checked (f.named Rule.loop) s fun s =>
    let v := s.readS f.creg.toNat - 1
    let t := BF.target f s.st.pc
    if v = 0 then .next ((s.writeS f.creg.toNat v).retire f.h)
    else transfer s t fun s => (s.writeS f.creg.toNat v).jump f.h t

/-! ### JMPV (R255) -/

/-- A group of lanes with one target. -/
abbrev Group := W64 × W64

/-- Active lanes grouped by target, in order of their lowest lanes. -/
def groupsOf (ts : List LaneVa) : List Group :=
  ts.foldl (fun gs x =>
    if gs.any fun g => g.2 == x.2 then gs.map fun g => if g.2 = x.2 then (g.1 ||| lanesMask [x.1], g.2) else g
    else gs ++ [(lanesMask [x.1], x.2)]) []

/-- Inserts a group behind those of at least its size; the list is in order of lowest lanes among equals. -/
def insertGroup (g : Group) : List Group → List Group
  | [] => [g]
  | x :: r => if popMask x.1 < popMask g.1 then g :: x :: r else x :: insertGroup g r

/-- Lane count descending, ties by lowest lane. -/
def orderGroups (gs : List Group) : List Group := gs.foldl (fun a g => insertGroup g a) []

/-- Places the groups after the first, the highest index first: the fragments made and the entries pushed. -/
def placeGroups (det : Bool) (thr : Nat) : List Group → List Nat → List (Nat × Group) × List Group
  | [], _ => ([], [])
  | g :: r, free =>
    match (if det || decide (popMask g.1 ≤ thr) then free else []) with
    | fid :: rest => let p := placeGroups det thr r rest; ((fid, g) :: p.1, p.2)
    | [] => let p := placeGroups det thr r free; (p.1, g :: p.2)

/-- Lanes whose landing meets a test. -/
def State.landMask (s : State) (ts : List LaneVa) (p : Landing → Bool) : List LaneVa := ts.filter fun x => p (s.landing x.2)

def Landing.isDenied : Landing → Bool
  | .denied _ => true
  | _ => false

def execJmpv (f : BF) (s : State) : Out :=
  checked (f.named Rule.jmpv) s fun s =>
    let c := 2 * f.creg.toNat
    let ts : List LaneVa := (lanes.filter fun l => s.st.exec.getLsbD l).map fun l =>
      (l, (s.readV c l).setWidth 64 ||| ((s.readV (c + 1) l).setWidth 64 <<< 32))
    let walking := s.landMask ts (· == .walking)
    if !walking.isEmpty then .next (s.park (walking.map fun x => (x.1, pcLine x.2)) .exec true [.memory])
    else
      let den := s.landMask ts Landing.isDenied
      let mis := s.landMask ts (· == .misaligned)
      let nol := s.landMask ts (· == .noLand)
      let s := { s with st := s.st.cleared }
      match pick ts fun x => den.contains x || mis.contains x || nol.contains x with
      | some (a, _) =>
        trapAt s Cause.badland a s.st.exec (lanesMask (den.map (·.1))) (lanesMask (mis.map (·.1))) (lanesMask (nol.map (·.1)))
      | none =>
        match orderGroups (groupsOf ts) with
        | [] => .next (s.retire f.h)
        | [g] => .next (s.jump f.h g.2)
        | g :: rest =>
          let placed := placeGroups f.detach s.wv.detthr.toNat rest.reverse s.freeFids
          if s.stackFree < 1 + placed.2.length then stackovf s
          else
            let s1 := s.jump f.h g.2 (8 + 4 * rest.length)
            let join : StackEntry := { sibling := false, pc := 0, mask := s.st.exec, recon := BF.recon f s.st.pc, fmt := s.st.fmt,
                                       token := f.token, frags := placed.1.map (·.1), dist := [] }
            let sibs := placed.2.map fun x => { join with sibling := true, pc := x.2, mask := x.1, frags := [], dist := s1.st.remaining }
            let s2 := { s1 with st := { s1.st with exec := g.1, stack := sibs.reverse ++ join :: s1.st.stack } }
            .next (placed.1.foldl (fun t x => t.addFragment (s1.newFragment x.1 f.token x.2.1 x.2.2 s.st.fmt s1.st.readyAt)) s2)

/-! ### Merging and leaving (R166, R167, R258 to R260) -/

def execRjoin (f : BF) (s : State) : Out :=
  checked (f.named Rule.rjoin) s fun s =>
    match s.st.stack with
    | [] => if s.st.fid ≠ 0 ∧ s.st.token = f.token then .next s.arrive else .next (s.retire f.h)
    | e :: r =>
      if e.token ≠ f.token then .next (s.retire f.h)
      else if e.sibling then
        let s1 := s.jump f.h e.pc
        .next { s1 with st := { s1.st with exec := e.mask &&& ~~~s.wv.exited, fmt := e.fmt, stack := r, dist := s1.st.inherited e.dist } }
      else if !e.frags.isEmpty then .next (s.hold .blocked)
      else
        let s1 := s.retire f.h
        let s2 := { s1 with st := { s1.st with exec := e.mask &&& ~~~s.wv.exited, fmt := e.fmt, stack := r, dist := s1.st.inherited e.dist } }
        .next (if s2.st.exec = 0 then s2.drained else s2)

def execDetach (f : BF) (s : State) : Out :=
  checked (f.named Rule.detach) s fun s =>
    match s.st.stack, s.freeFids with
    | e :: r, fid :: _ =>
      if e.sibling then
        let s1 := (s.writeS f.link.toNat 1).retire f.h
        let s2 := { s1 with st := { s1.st with stack := recordFragment fid r } }
        let x := s1.newFragment fid e.token e.mask e.pc e.fmt s1.st.readyAt
        .next (s2.addFragment { x with dist := x.inherited e.dist })
      else .next ((s.writeS f.link.toNat 0).retire f.h)
    | _, _ => .next ((s.writeS f.link.toNat 0).retire f.h)

/-- The executing lanes retire (R259), in handler mode ending it (R364). -/
def State.exitLanes (s : State) : State :=
  let gone := s.st.exec
  let t := s.st.trap
  let s1 := { s with wv := { s.wv with exited := s.wv.exited ||| gone },
                     st := { s.st with exec := 0, stack := s.st.stack.map fun e => { e with mask := e.mask &&& ~~~gone } } }
  if t.hmode then
    let s2 := { s1 with st := { s1.st with fmt := t.fmt, trap := { t with hmode := false, hexit := t.hexit ||| gone } } }
    if t.ofTime then s2.markOverdue else s2
  else s1

def execExit (f : BF) (s : State) : Out :=
  checked (f.named Rule.bplain) s fun s => .next ((s.retire f.h).exitLanes).drained

def execTend (f : BF) (s : State) : Out := checked (f.named Rule.bplain) s fun s => .next s.endWave

def execYield (f : BF) (s : State) : Out :=
  checked (f.named Rule.bplain) s fun s =>
    let t := s.retire f.h
    let t := if s.hasSibling then s.detachSelf t else t
    .next (match s.oldestPending s.sq.core s.wv.quad with
      | none => t
      | some e => t.exchange e)

def execNap (f : BF) (s : State) : Out :=
  checked (f.named Rule.nap) s fun s =>
    let n := min (s.readS f.creg.toNat).toNat 1048575
    let t := s.retire f.h
    let t := if n = 0 then t else t.hold (.nap n)
    .next (if s.hasSibling then s.detachSelf t else t)

def execNop (f : BF) (s : State) : Out := checked (f.named Rule.bplain) s fun s => .next (s.retire f.h)

end Sys2Proof.Machine
end

