-- ==== Sys2Proof/Machine/System.lean ====
section
/-! DEFINITION. System instructions (R262 to R268) and the control registers (R227, R263). -/

namespace Sys2Proof.Machine

/-! ### What the registers read -/

/-- The VA of a partition's structure as the device reaches it: by the tables, as they stand (R14). -/
def State.deviceVa (s : State) (p va : Nat) : Option TlbEntry :=
  match s.walk [] p va with
  | .leaf _ e level _ => some (tlbOf p va e level)
  | .fault _ => none

/-- The step of the focused instance's holder (R134, R138), 0 where its page is not mapped (DEDUCED, unsafe, log 36). -/
def State.step16 (s : State) : W16 :=
  let va := s.sq.inst.region.stepRcb.toNat + 0x28
  match s.deviceVa s.sq.inst.part va with
  | some e => (s.wordAt (e.pa va)).setWidth 16
  | none => 0

/-- Coordinates of the box in axis order (R157) (DEDUCED, unsafe, log 37). -/
def axis32 (l : List Nat) (a : Nat) : W64 := BitVec.ofNat 64 (l.getD a 0 % 2 ^ 32)

def State.opnow (s : State) : W64 :=
  BitVec.ofNat 64 (s.power.point + (if s.power.stepping then 8 else 0) + 16 * s.power.target)

/-- SNAPST of the selected set (DEDUCED, unsafe, log 38). -/
def State.snapst (s : State) : W64 :=
  let q := s.wv.snapSel.toNat
  let sel := s.wv.snapSel.setWidth 64
  let ctl := s.snapCtl q
  if ctl.getLsbD 0 ∧ bits ctl 51 48 = s.sq.inst.part then
    let c := s.snap q
    sel + BitVec.ofNat 64 (256 * c.state + (if c.fvalid then 4096 else 0) + 65536 * (if c.state = 4 then c.cause.toNat else 0) + 2 ^ 32 * c.cstep.toNat + 2 ^ 48 * c.fstep.toNat)
  else sel

def TrapRec.tstat (t : TrapRec) : W64 :=
  BitVec.ofNat 64 ((if t.hmode then 1 else 0) + (if t.pend then 2 else 0) + (if t.ack then 4 else 0) + 65536 * t.pcause.toNat)

/-- A control register's value (R227, R362). -/
def State.readX (s : State) (n : Nat) : W64 :=
  let i := s.sq.inst
  let t := s.st.trap
  let c := s.core s.sq.core
  match n with
  | 0x000 => s.st.fmt
  | 0x001 => s.wv.flg.setWidth 64
  | 0x002 => s.st.exec
  | 0x010 => i.path.setWidth 64
  | 0x011 => axis32 i.lo 0
  | 0x012 => axis32 i.hi 0
  | 0x013 => axis32 i.lo 1
  | 0x014 => axis32 i.hi 1
  | 0x015 => axis32 i.lo 2
  | 0x016 => axis32 i.hi 2
  | 0x020 => BitVec.ofNat 64 (s.sq.spBase + 2 ^ 32 * s.sq.stripes.length)
  | 0x021 => BitVec.ofNat 64 (c.cap + 256 * c.next)
  | 0x022 => s.opnow
  | 0x030 => t.cause
  | 0x031 => t.pc
  | 0x032 => t.addr
  | 0x033 => t.mask
  | 0x034 => t.info0
  | 0x035 => t.info1
  | 0x036 => t.info2
  | 0x037 => t.tstat
  | 0x038 => t.exec
  | 0x039 => t.fmt
  | 0x040 => s.gtb
  | 0x041 => BitVec.ofNat 64 (s.gtb.toNat / 2 ^ s.lapLog % 2 ^ 32 * 2 ^ 32 + s.lapLog)
  | 0x042 => BitVec.ofNat 64 s.sq.left
  | 0x050 => if s.wv.sbchk then 1 else 0
  | 0x051 => if s.wv.shadow then 1 else 0
  | 0x052 => s.wv.detthr.setWidth 64
  | 0x060 => s.step16.setWidth 64
  | 0x061 => s.snapst
  | _ => 0

/-! ### Writes (R263) -/

/-- What a write to a control register meets. -/
inductive XWrite where
  | prot (reason : Nat)
  | ok (s : State)
deriving DecidableEq, Repr

/-- RO fields of SNAPST that are not reserved (R138). -/
def snapstRo : W64 := 0xFFFFFFFF00FF1F00

/-- Writes a control register: `operand` decides the RO check, `new` is stored (R263). -/
def State.writeX (s : State) (n : Nat) (operand new : W64) : XWrite :=
  let t := s.st.trap
  let inHandler (s1 : State) : XWrite := if t.hmode then .ok s1 else .prot 0xA
  match n with
  | 0x000 => .ok (s.setFmt new)
  | 0x001 => .ok { s with wv := { s.wv with flg := new.setWidth 6 } }
  | 0x031 =>
    let pc := new &&& 0x7FFFFFFFFFFFFF
    if t.hmode && !pcValid pc then .prot 9 else inHandler { s with st := { s.st with trap := { t with pc } } }
  | 0x038 => inHandler { s with st := { s.st with trap := { t with exec := new } } }
  | 0x039 => inHandler { s with st := { s.st with trap := { t with fmt := fmtWrite new } } }
  | 0x042 => if t.hmode then .ok { s with sq := { s.sq with left := new.toNat % 2 ^ 48 } } else .prot 9
  | 0x050 => .ok { s with wv := { s.wv with sbchk := new.getLsbD 0 } }
  | 0x052 =>
    let v : BitVec 6 := new.setWidth 6
    .ok { s with wv := { s.wv with detthr := if 33 ≤ v.toNat then 32 else v } }
  | 0x061 => if operand &&& snapstRo = 0 then .ok { s with wv := { s.wv with snapSel := new.setWidth 6 } } else .prot 9
  | _ => .prot 9

/-- Cycles in which the value of a control register lands: 4, 12 of GTIME and LAPLEN, and FLG's 4 begin when every earlier
instruction of the wave has written back (R239, R263). -/
def State.xLat (s : State) (n : Nat) : Nat :=
  if n = 0x040 ∨ n = 0x041 then Lat.gtime
  else if n = 0x001 then s.wv.inflight.foldl (fun a e => max a (e.land - s.cycle)) 0 + Lat.xreg
  else Lat.xreg

/-- XWR, XSET and XCLR: `g` forms the new value from the old one and the operand. -/
def runX (f : QF) (s : State) (g : W64 → W64 → W64) : Out :=
  checked (f.named Rule.xwr) s fun s =>
    let n := f.xreg.toNat
    let a := s.sval f.a 0 none
    let old := s.readX n
    match s.writeX n a (g old a) with
    | .prot r => prot s r
    | .ok s1 => .next ((s1.writeTracked f.dst.toNat old (s.xLat n)).retire f.h)

def execXrd (f : QF) (s : State) : Out :=
  checked (f.named Rule.xrd) s fun s =>
    .next ((s.writeTracked f.dst.toNat (s.readX f.xreg.toNat) (s.xLat f.xreg.toNat)).retire f.h)

def execXwr (f : QF) (s : State) : Out := runX f s fun _ a => a
def execXset (f : QF) (s : State) : Out := runX f s fun old a => old ||| a
def execXclr (f : QF) (s : State) : Out := runX f s fun old a => old &&& ~~~a

def execSetfmt (f : QF) (s : State) : Out :=
  checked (f.named Rule.setfmt) s fun s =>
    let seed := if f.code.getLsbD 15 then (s.sval f.a 0 none).setWidth 32 else (s.st.fmt >>> 32).setWidth 32
    let low : W64 := f.code.setWidth 64 &&& 0x703
    .next ((s.setFmt ((seed.setWidth 64 <<< 32) ||| low)).retire f.h)

def execGetfmt (f : QF) (s : State) : Out :=
  checked (f.named Rule.qdst) s fun s => .next ((s.writeS f.dst.toNat s.st.fmt Lat.salu).retire f.h)

def execTime (f : QF) (s : State) : Out :=
  checked (f.named Rule.qdst) s fun s => .next ((s.writeTracked f.dst.toNat s.gtb Lat.gtime).retire f.h)

/-- A timed wait that the stream is in, or that it returns to from its handler. -/
def Stream.timedTo (x : Stream) : Option W64 :=
  match x.wait, x.trap.under with
  | .timed t, _ | _, .timed t => some t
  | _, _ => none

/-- Slots of a core's timed action table in use (R192). -/
def State.timersUsed (s : State) (c : Nat) : Nat :=
  (s.core c).timers.length + ((s.residents c).flatMap fun q => q.streams.filter fun e => e.2.timedTo.isSome).length

def execWaitt (f : QF) (s : State) : Out :=
  checked (f.named Rule.waitt) s fun s =>
    let t := s.sval f.a 0 none
    if t.toNat ≤ s.gtb.toNat then .next (s.retire f.h)
    else if 16 ≤ s.timersUsed s.sq.core then .next (s.hold .blocked)
    else .next ((s.retire f.h).hold (.timed t))

def execTrap (f : QF) (s : State) : Out :=
  checked (f.named Rule.trap) s fun s =>
    .next (s.trap { code := Cause.swtrap, tpc := s.st.npc, mask := s.st.exec, info0 := f.code.setWidth 64, info1 := s.sval f.a 0 none })

/-- OVERTIME raised again where the wave that took it returns without time (R159). -/
def State.afterOvertime (s : State) : State :=
  let s := { s with sq := { s.sq with overdue := false } }
  if s.sq.overtime = some s.wv.widx then
    -- an instance that is not pinned had no axis to split, and still has none
    if s.sq.left = 0 then s.trap { code := if s.sq.inst.pinned then Cause.overtime else Cause.grain, tpc := s.st.pc, mask := s.st.exec, info0 := 2 }
    else { s with sq := { s.sq with overtime := none } }
  else s

def execRte (f : QF) (s : State) : Out :=
  checked (f.named Rule.qplain) s fun s =>
    if !s.st.trap.hmode then prot s 0xA
    else
      let landed := s.wv.inflight.foldl (fun a e => max a e.land) s.cycle
      let timed := s.st.trap.ofTime
      let s1 := s.returnFromTrap
      let s2 := { s1 with st := { s1.st with readyAt := max landed (s.cycle + stallOf f.h), issued := s1.st.issued + stallOf f.h, dist := [], lap := 0 } }
      .next (if s2.st.exec = 0 then (if timed then s2.markOverdue else s2).drained
        else if timed then (if s2.st.trap.pend then s2.markOverdue.enterPending else s2.afterOvertime)
        else if s2.st.trap.pend then s2.enterPending else s2)

def execBkpt (f : QF) (s : State) : Out :=
  checked (f.named Rule.bkpt) s fun s =>
    let s1 := s.retire f.h
    if (s.part s.sq.inst.part 0).getLsbD 8 then
      .next ({ s1 with wv := { s1.wv with bkpt := some f.code } }.note (.breakpoint s.me f.code))
    else .next s1

/-- ERRACK: at once (DEDUCED, unsafe, log 39). -/
def execErrack (f : QF) (s : State) : Out :=
  checked (f.named Rule.qdst) s fun s =>
    if !s.st.trap.hmode then prot s 0xA
    else
      let s1 := { s with st := { s.st with trap := { s.st.trap with ack := true } } }
      .next ((s1.writeS f.dst.toNat (if s.st.trap.pend then 1 else 0)).retire f.h)

def execSvc (f : QF) (s : State) : Out :=
  checked (f.named Rule.svc) s fun s =>
    let c : SvcCall := { who := s.me, code := f.code, arg := s.sval f.a 0 none, path := s.sq.inst.path, reply := none }
    let s1 := s.updDie (dieOfCore s.sq.core) fun d => { d with svc := d.svc ++ [c] }
    .next ((s1.retire f.h).hold (.svc f.dst))

end Sys2Proof.Machine
end

