-- ==== Sys2Proof/Machine/Window.lean ====
section
/-! DEFINITION. Lap budgets (R190), packets and flows at their source (R389, R390, R392, R393), and accesses through peer windows, which are performed at
the peer's home (R17, R118). -/

namespace Sys2Proof.Machine

/-! ### Budgets (R190) -/

/-- The counter of an activity: an RCB's is one, whichever limits its launches have frozen. -/
def Spend.counter : Spend → Spend
  | .copy p r _ => .copy p r 0
  | .fabTx p r _ => .fabTx p r 0
  | .coll p r _ => .coll p r 0
  | .nvmeOf p r _ => .nvmeOf p r 0
  | a => a

/-- The amount spent on an activity in this lap. -/
def State.spentOn (s : State) (a : Spend) : Nat := ((s.spent.find? fun e => e.1.counter == a.counter).map (·.2)).getD 0

/-- Adds to an activity's counter, which keeps the limit of the last to spend (DESIGN CHOICE, unsafe, log 92). -/
def State.spend (s : State) (a : Spend) (n : Nat) : State :=
  if n = 0 then s else { s with spent := (a, s.spentOn a + n) :: s.spent.filter fun e => e.1.counter != a.counter }

/-- The budget of an activity; all ones is unlimited. -/
def State.budget (s : State) (a : Spend) : Option Nat :=
  let lim (n : Nat) : Option Nat := if n = 0xFFFFFFFF then none else some n
  match a with
  | .hostDma => lim (bits (s.reg (Mmio.lapcfg + 8)) 31 0)
  | .nvme => lim (bits (s.reg (Mmio.lapcfg + 0x10)) 31 0)
  | .snapWalk d => lim (bits (s.reg (Mmio.lapcfg + 0x18 + 8 * d)) 31 0)
  | .owqDrain d => (lim (bits (s.reg (Mmio.lapcfg + 0x38 + 8 * d)) 31 0)).map fun n => max n (4 * 2 ^ s.lapLog)
  | .proof d => lim (bits (s.reg (Mmio.lapcfg + 0x58 + 8 * d)) 31 0)
  | .copy _ _ n | .fabTx _ _ n | .coll _ _ n | .nvmeOf _ _ n => lim n

/-- A unit of an activity may start. -/
def State.mayStart (s : State) (a : Spend) : Bool :=
  match s.budget a with
  | none => true
  | some n => decide (s.spentOn a < n)

/-- R190: units of up to 4 KiB of an activity of `total` bytes start while its counter is below the budget: bytes admitted in
all. -/
def State.allot (s : State) (a : Spend) (total : Nat) : Nat → Nat → State × Nat
  | 0, n => (s, n)
  | fuel + 1, n =>
    if total ≤ n ∨ !s.mayStart a then (s, n)
    else
      let unit := min 4096 (total - n)
      (s.spend a unit).allot a total fuel (n + unit)

/-- The region of a squad, whose LAPA and LAPB its commands are charged to. -/
def State.squadRegion (s : State) (sid : Nat) : Region := ((s.squad? sid).map (·.inst.region)).getD Region.none

/-! The activities of a region of partition p, with the limits that its launch froze (R150, R151). -/
def Region.copies (r : Region) (p : Nat) : Spend := .copy p r.lapRcb (bits r.lapa 31 0)
def Region.fabTx (r : Region) (p : Nat) : Spend := .fabTx p r.lapRcb (bits r.lapa 63 32)
def Region.coll (r : Region) (p : Nat) : Spend := .coll p r.lapRcb (bits r.lapb 31 0)
def Region.nvme (r : Region) (p : Nat) : Spend := .nvmeOf p r.lapRcb (bits r.lapb 63 32)

/-- Bin of a lifetime histogram (R414). -/
def State.bump (s : State) (section_ bin : Nat) : State :=
  { s with admin := { s.admin with hist := Tab.upd s.admin.hist (fun _ => 0) (65536 * section_ + bin) (· + 1) } }

/-! ### Packets (R389, R390) -/

/-- A packet before its flow gives it a PSN. -/
def Packet.make (dst domain flow cls : Nat) (ordered last : Bool) (addr : W64) (aux opid : Nat) (payload : List W8) : Packet :=
  { trim := false, ordered, last, path := 0, cls := BitVec.ofNat 3 cls, src := 0, dst := BitVec.ofNat 8 dst, flow := BitVec.ofNat 8 flow,
    domain := BitVec.ofNat 8 domain, len := BitVec.ofNat 16 ((payload.length + 63) / 64), psn := 0, opid := BitVec.ofNat 32 opid, addr,
    aux := BitVec.ofNat 32 aux, trims := 0, payload }

def maxPayload : Nat := 4096
/-- Unacknowledged packets that a source may have in a flow (R393). -/
def flowWindow : Nat := 512

def PacketKind.code : PacketKind → Nat
  | .put => 0x01 | .puta => 0x02 | .getreq => 0x03 | .getrsp => 0x04 | .atom => 0x05 | .atomrsp => 0x06 | .ack => 0x07 | .coll => 0x08
  | .enq => 0x09 | .rereq => 0x10 | .heartbeat => 0x11 | .timesync => 0x12 | .fatal => 0x13 | .abort => 0x14

/-- The kind that a TYPE code names; others are reserved. -/
def PacketKind.ofCode (c : Nat) : Option PacketKind :=
  [PacketKind.put, .puta, .getreq, .getrsp, .atom, .atomrsp, .ack, .coll, .enq, .rereq, .heartbeat, .timesync, .fatal, .abort].find? fun k =>
    k.code == c

/-! ### The switch's output ports (R390, R391, R395, R396) (DESIGN CHOICE, safe, log 118) -/

def Mmio.trimCount (port i : Nat) : Nat := Mmio.trimcfg port + 8 * (1 + i)
def State.countPort (s : State) (port i : Nat) : State :=
  s.setReg (Mmio.trimCount port i) (s.reg (Mmio.trimCount port i) + 1)

/-- Bytes of a class that wait at a port. -/
def State.queued (s : State) (port cls : Nat) : Nat :=
  ((s.fab.queue.filter fun (e : PortEntry) => e.port == port && e.packet.cls.toNat == cls).map fun (e : PortEntry) => 32 + e.packet.payload.length).sum

/-- A packet without its payload (R391). -/
def Packet.trimmed (p : Packet) : Packet := { p with trim := true, cls := 7, trims := p.trims + 1, payload := [], poison := [] }

/-- A trim is counted against the port and the packet's class, and in the lifetime histograms (R391, R396). -/
def State.countTrim (s : State) (port cls : Nat) : State := (s.countPort port cls).bump 6 (4 * port + cls)

/-- A packet takes its place at a port. -/
def State.enqueueAt (s : State) (port : Nat) (k : PacketKind) (p : Packet) : State :=
  { s with fab := { s.fab with queue := s.fab.queue ++ [{ port, kind := k, packet := p }] } }

/-- A class's count at a port exceeds the port's threshold. -/
def State.overTrim (s : State) (port cls : Nat) : Bool := decide (bits (s.reg (Mmio.trimcfg port)) 19 0 < s.queued port cls)

/-- A packet comes to an output port, which trims it where its class's count is over the threshold. -/
def State.emitAt (s : State) (port : Nat) (k : PacketKind) (p : Packet) : State :=
  if p.cls.toNat ≤ 3 ∧ s.overTrim port p.cls.toNat then (s.countTrim port p.cls.toNat).enqueueAt port k (Packet.trimmed p) else s.enqueueAt port k p

/-- The port by which a packet leaves. -/
def State.portOf (s : State) (p : Packet) : Nat := (Config.route s.pkg p.dst.toNat p.path.toNat).toNat

/-- The switch takes a packet. -/
def State.emit (s : State) (k : PacketKind) (p : Packet) : State := s.emitAt (s.portOf p) k { p with type := BitVec.ofNat 8 k.code }

/-- WRR weight of a class at a port: 0 is taken as 1 (R395). -/
def State.weight (s : State) (port cls : Nat) : Nat := max 1 (bits (s.reg (Mmio.trimcfg port)) (35 + 4 * cls) (32 + 4 * cls))

/-- The class that the round robin serves next, and the packets of it that have then left in its turn. -/
def wrrNext (weight : Nat → Nat) (has : Nat → Bool) (cls used : Nat) : Nat → Option (Nat × Nat)
  | 0 => none
  | n + 1 => if has cls && decide (used < weight cls) then some (cls, used + 1) else wrrNext weight has ((cls + 1) % 4) 0 n

/-- The oldest packet of a class at a port leaves. -/
def State.departs (s : State) (e : PortEntry) : State :=
  { s with fab := { s.fab with queue := s.fab.queue.erase e, wire := s.fab.wire ++ [(e.kind, e.packet)] } }

/-- A port sends its next packet: class 7 first, as its credits let it, then the data classes by weighted round robin. -/
def State.portSend (s : State) (port : Nat) : State :=
  let first (cls : Nat) : Option PortEntry := s.fab.queue.find? fun (e : PortEntry) => e.port == port && e.packet.cls.toNat == cls
  let spent := Tab.getD s.fab.spentCredits (fun _ => 0) port
  match (first 7).filter fun _ => decide (spent < Config.portCredits port) with
  | some e => let t := s.departs e; { t with fab := { t.fab with spentCredits := Tab.put t.fab.spentCredits (fun _ => 0) port (spent + 1) } }
  | none =>
    let at_ := Tab.getD s.fab.rounds (fun _ => 0) port
    match wrrNext (s.weight port) (fun c => (first c).isSome) (at_ / 16 % 4) (at_ % 16) 5 with
    | none => s
    | some (c, used) =>
      match first c with
      | none => s
      | some e => let t := s.departs e; { t with fab := { t.fab with rounds := Tab.put t.fab.rounds (fun _ => 0) port (16 * c + used) } }

/-- Credits for class-7 packets come back to a port. -/
def State.portCredit (s : State) (port n : Nat) : State :=
  { s with fab := { s.fab with spentCredits := Tab.put s.fab.spentCredits (fun _ => 0) port (Tab.getD s.fab.spentCredits (fun _ => 0) port - n) } }

/-- A header-only packet (class 7). -/
def State.sendHeader (s : State) (k : PacketKind) (p : Packet) : State :=
  s.emit k { p with cls := 7, len := 0, payload := [], src := BitVec.ofNat 8 s.pkg }

/-! ### Flows at their source (R392, R393) -/

def TxFlow.is (t : TxFlow) (dst domain flow : Nat) : Bool := t.dst == dst && t.domain == domain && t.flow == flow

def State.txFlow (s : State) (dst domain flow : Nat) : TxFlow :=
  (s.fab.tx.find? fun t => t.is dst domain flow).getD { dst, domain, flow, psn := 0, kept := [] }

def State.putTx (s : State) (t : TxFlow) : State :=
  { s with fab := { s.fab with tx := s.fab.tx.filter (fun x => !x.is t.dst t.domain t.flow) ++ [t] } }

/-- The next PSN in sequence. -/
def nextPsn (n : Nat) : Nat := (n + 1) % 2 ^ 32

/-- Sends a data packet in its flow and keeps it until its ACK. -/
def State.sendData (s : State) (k : PacketKind) (p : Packet) : State :=
  let t := s.txFlow p.dst.toNat p.domain.toNat p.flow.toNat
  let p := { p with psn := BitVec.ofNat 32 t.psn, src := BitVec.ofNat 8 s.pkg }
  (s.putTx { t with psn := nextPsn t.psn, kept := t.kept ++ [(k, p)] }).emit k p

def State.windowOpen (s : State) (dst domain flow : Nat) : Bool := decide ((s.txFlow dst domain flow).kept.length < flowWindow)

/-! ### Domains and peers (R398) -/

/-- The Byette domain of a partition. -/
def State.domainOf (s : State) (p : Nat) : Nat := ((s.fab.binds.find? fun b => b.2 == p).map (·.1)).getD 0
def State.isDown (s : State) (pkg : Nat) : Bool := s.fab.down.contains pkg

/-! ### Peer windows (R17, R118) (DESIGN CHOICE, unsafe, log 97) -/

/-- The package and the HBM offset behind a peer window. -/
def State.peerAt (s : State) (pa : Nat) : Option (Nat × Nat) :=
  match backing s.pkg pa with
  | .peer p _ => some (p, pa % 2 ^ 40)
  | _ => none

/-- Operation numbers of window accesses have bit 31 set. -/
def windowBit : Nat := 2 ^ 31
def isWindow (p : Packet) : Bool := p.opid.getLsbD 31

/-- Sends the window packets that wait, in order, as their flows have room (R393) and their regions' budgets let them (R190). -/
def State.windowPump (s : State) : State :=
  s.fab.windowWait.foldl (init := { s with fab := { s.fab with windowWait := [] } }) fun (s : State) (e : WindowWait) =>
    let behind := s.fab.windowWait.any fun x => x.packet.dst == e.packet.dst && x.packet.domain == e.packet.domain
    if !behind && s.windowOpen e.packet.dst.toNat e.packet.domain.toNat e.packet.flow.toNat && s.mayStart e.charge then
      (s.sendData e.kind e.packet).spend e.charge e.packet.payload.length
    else { s with fab := { s.fab with windowWait := s.fab.windowWait ++ [e] } }

/-- One access of `n` bytes at a window's address, in the ordered flow 0 of the partition's domain; AUX 1 poisons what a store
writes. -/
def State.windowSend (s : State) (k : PacketKind) (who : StreamId) (cmd : Option Nat) (part pa n aux : Nat) (payload : List W8) : State :=
  match s.peerAt pa with
  | none => s
  | some (pkg, off) =>
    let id := s.fab.nextOp
    let opid := windowBit + id % windowBit
    let p := Packet.make pkg (s.domainOf part) 0 0 true true (BitVec.ofNat 64 off) aux opid payload
    let w : WindowOp := { opid, who, cmd, pkg, pa, n, store := k == .put }
    let e : WindowWait := { kind := k, packet := p, charge := (s.squadRegion who.sid).fabTx part }
    { s with fab := { s.fab with nextOp := id + 1, window := s.fab.window ++ [w], windowWait := s.fab.windowWait ++ [e] } }.windowPump

/-- Bytes that no peer will deliver are free values. -/
def State.windowFree (s : State) (pa n : Nat) : State :=
  (List.range n).foldl (fun s i => let v := s.draw; { v.2 with mem := v.2.mem.put0 (pa + i) (v.1.setWidth 8) }) s

/-- Joins consecutive addresses, up to a packet's payload. -/
def runsOf (pas : List Nat) : List (Nat × Nat) :=
  pas.foldr (fun a r => match r with
    | (b, n) :: t => if a + 1 = b ∧ n < maxPayload then (a, n + 1) :: t else (a, 1) :: r
    | [] => [(a, 1)]) []

/-- Asks a peer for bytes: the number of the request, if one is needed. -/
def State.windowAsk (s : State) (who : StreamId) (part pa n : Nat) : State × Asked :=
  match s.peerAt pa with
  | some (pkg, _) =>
    if s.isDown pkg then (s.windowFree pa n, { opid := 0, pa, n })
    else (s.windowSend .getreq who none part pa n 0 (leBytes 8 n), { opid := windowBit + s.fab.nextOp % windowBit, pa, n })
  | none => (s, { opid := 0, pa, n })

/-- How a read through windows stands: nothing more is needed, or it waits in the state given, with what it has asked for. -/
inductive WindowRead where
  | here
  | waits (s : State) (asked : List Asked)

/-- A read of runs of peer addresses, of which `asked` have been requested. -/
def State.windowRead (s : State) (who : StreamId) (part : Nat) (rs : List (Nat × Nat)) (asked : List Asked) : WindowRead :=
  match rs.filter fun r => !asked.any fun a => a.pa == r.1 && a.n == r.2 with
  | [] => if rs.any fun r => asked.any fun a => a.pa == r.1 && a.n == r.2 && s.fab.window.any fun w => w.opid == a.opid then .waits s asked else .here
  | new =>
    let x := new.foldl (fun (a : State × List Asked) r => let x := a.1.windowAsk who part r.1 r.2; (x.1, a.2 ++ [x.2])) (s, asked)
    .waits x.1 x.2

/-- Sends byte writes through a window; a peer that is DOWN takes none. -/
def State.windowStore (s : State) (who : StreamId) (cmd : Option Nat) (part : Nat) (ws : List (Nat × W8)) (hurt : List Nat) : State :=
  (runsOf (ws.map (·.1))).foldl (fun (a : State × List (Nat × W8)) r =>
    let bs := (a.2.take r.2).map (·.2)
    let bad := hurt.any fun x => decide (64 * x < r.1 + r.2) && decide (r.1 < 64 * x + 64)
    let down := ((a.1.peerAt r.1).map fun p => a.1.isDown p.1).getD true
    (if down then a.1 else a.1.windowSend .put who cmd part r.1 r.2 (if bad then 1 else 0) bs, a.2.drop r.2)) (s, ws) |>.1

/-- Performs byte writes of one page: at home, or through the window that it lies in. -/
def State.writeOut (s : State) (u : Under) (who : StreamId) (cmd : Option Nat) (part : Nat) (ws : List (Nat × W8)) (hurt : List Nat := []) : State :=
  if ws.any fun w => (s.peerAt w.1).isSome then s.windowStore who cmd part ws hurt else s.writeAll u ws hurt

/-- A wave's stores through windows that no peer has acknowledged: a release waits for them. -/
def State.windowOwed (s : State) : Bool :=
  s.fab.window.any fun w => w.store && w.cmd.isNone && w.who.sid == s.sq.sid && w.who.widx == s.wv.widx

/-- A command's stores through windows that no peer has acknowledged. -/
def State.windowBusy (s : State) (cmd : Nat) : Bool := s.fab.window.any fun w => w.store && w.cmd == some cmd

end Sys2Proof.Machine
end

