-- ==== Sys2Proof/Machine/Access.lean ====
section
/-! DEFINITION. Accesses of an instruction's lanes: scratchpad and cluster window (R39 to R45), the checks of R416,
pinning (R158), memory-side reductions and their combining buffer (R305, R309, R310), loads and stores performed. -/

namespace Sys2Proof.Machine

/-! ### Scratchpad (R39, R41 to R45, R48) -/

/-- The physical row under slot j of bank b. -/
def Core.rowAt (x : Core) (b j : Nat) : Nat := Tab.getD x.rrt (fun k => k % 34) (34 * b + j)

/-- The key of an offset's byte: bank, physical row, byte of the row. -/
def Core.byteKey (x : Core) (off : Nat) : Nat :=
  let b := off / 128 % 256
  4352 * b + 128 * x.rowAt b (off / 32768) + off % 128

def stripeOf (off : Nat) : Nat := off / 32768

/-- Where a scratchpad offset's bytes lie: a core's banks, or a saved squad's image (R45). -/
inductive Sp where
  | core (c : Nat)
  | image (sid : Nat)
deriving DecidableEq, Repr, Inhabited

def State.imageOf (s : State) (sid : Nat) : Image := ((s.squad? sid).map (·.image)).getD Image.empty

def State.updImage (s : State) (sid : Nat) (f : Image → Image) : State :=
  s.mapSquads fun q => if q.sid = sid then { q with image := f q.image } else q

def State.spByte (s : State) (t : Sp) (off : Nat) : W8 :=
  match t with
  | .core c => (s.core c).scratch.get0 ((s.core c).byteKey off)
  | .image q => (s.imageOf q).bytes.get0 off

/-- Whether a byte lies in a poisoned word (R41). -/
def State.spBad (s : State) (t : Sp) (off : Nat) : Bool :=
  match t with
  | .core c => (s.core c).poison.contains ((s.core c).byteKey off / 8)
  | .image q => (s.imageOf q).poison.contains (off / 8)

/-- Words that a write covers whole, among those poisoned. -/
def coveredWords (bad : List Nat) (ks : List Nat) : List Nat :=
  (distinct (ks.map (· / 8))).filter fun w => bad.contains w && (List.range 8).all fun i => ks.contains (8 * w + i)

/-- Writes bytes; a word written whole loses its poison (R41). -/
def State.spWrite (s : State) (t : Sp) (ws : List (Nat × W8)) : State :=
  match t with
  | .core c =>
    s.updCore c fun x =>
      let ks := ws.map fun w => (x.byteKey w.1, w.2)
      { x with scratch := Tab.putAll x.scratch (fun _ => 0) ks, poison := dropNats x.poison (coveredWords x.poison (ks.map (·.1))) }
  | .image q =>
    s.updImage q fun x =>
      { x with bytes := Tab.putAll x.bytes (fun _ => 0) ws, poison := dropNats x.poison (coveredWords x.poison (ws.map (·.1))) }

/-- Poisons words of the scratchpad. -/
def State.spPoison (s : State) (t : Sp) (offs : List Nat) : State :=
  match t with
  | .core c => s.updCore c fun x => { x with poison := addNats x.poison (distinct (offs.map fun o => x.byteKey o / 8)) }
  | .image q => s.updImage q fun x => { x with poison := addNats x.poison (distinct (offs.map (· / 8))) }

def State.spBytes (s : State) (t : Sp) (off n : Nat) : List W8 := (List.range n).map fun i => s.spByte t (off + i)
def State.spWriteAt (s : State) (t : Sp) (off : Nat) (bs : List W8) : State := s.spWrite t (bs.zipIdx.map fun e => (off + e.2, e.1))

/-- The squad of a partition that owns a stripe of a core: resident, or else saved; of two saved ones that do, the first in the order of
their numbers (R43, R45, R195) (DESIGN CHOICE, unsafe, log 102). -/
def State.stripeOwner (s : State) (p c stripe : Nat) : Option (Squad × Sp) :=
  let owns (q : Squad) : Bool := q.part == p && q.core == c && q.stripes.contains stripe
  match s.everySquad.find? fun q => owns q && q.place == .resident with
  | some q => some (q, .core c)
  | none => (s.everySquad.find? fun q => owns q && q.place != .resident && q.place != .discarded).map fun q => (q, .image q.sid)

/-! ### Places of an access -/

/-- Where one lane's access goes. -/
inductive Loc where
  | mem (pa : Nat) (e : TlbEntry)
  /-- Scratchpad, and whether the executing squad owns the stripe. -/
  | sp (t : Sp) (off : Nat) (own : Bool)
deriving DecidableEq, Repr, Inhabited

structure LaneLoc where
  lane : Nat
  va : Nat
  loc : Loc
deriving DecidableEq, Repr, Inhabited

/-- The place of a scratch or cluster address whose stripe is owned (R43, R45). -/
def State.spLoc (s : State) (cluster : Bool) (va : Nat) : Option Loc :=
  let off := va % 2 ^ 20
  if cluster then
    let c := s.sq.core / 4 * 4 + va / 2 ^ 20
    (s.stripeOwner s.sq.part c (stripeOf off)).map fun r => .sp r.2 off (r.1.sid == s.sq.sid)
  else if s.sq.stripes.contains (stripeOf off) then some (.sp (.core s.sq.core) off true) else none

/-- R416, causes 1 to 3, for scratch and cluster addresses. -/
def State.spTrap (s : State) (cluster : Bool) (ls : List LaneVa) (align : Nat) : Option (Nat × W64 × W64 × W64) :=
  match pick ls fun x => x.2 >>> (if cluster then 22 else 20) != 0 with
  | some (a, m) => some (Cause.prot, a, m, 6)
  | none =>
    match pick ls fun x => x.2.toNat % align != 0 with
    | some (a, m) => some (Cause.misalign, a, m, 0)
    | none => (pick ls fun x => (s.spLoc cluster x.2.toNat).isNone).map fun r => (Cause.prot, r.1, r.2, 8)

/-- The lanes of an access in a space, after every check of R416: traps, parks, or continues. -/
def withPlaces (s : State) (space : Space) (ls : List LaneVa) (align : Nat) (a : Acc) (serves : PageKind → Bool)
    (k : State → List LaneLoc → Out) : Out :=
  match space with
  | .global | .param => withLanes s ls align a serves fun s xs => k s (xs.map fun x => ⟨x.1, x.2.1, .mem (x.2.2.pa x.2.1) x.2.2⟩)
  | .scratch | .cluster =>
    let cl := space == .cluster
    match s.spTrap cl ls align with
    | some (code, addr, mask, info) => trapAt s code addr mask info 0 0
    | none => k s (ls.filterMap fun x => (s.spLoc cl x.2.toNat).map fun l => ⟨x.1, x.2.toNat, l⟩)

/-- CPOL 2 treats a cached page as CP 1; CPOL 3 says that the access is the last use of its line, which is left first to go (R68, R238). -/
def TlbEntry.policy (e : TlbEntry) (pol : BitVec 3) : TlbEntry :=
  if pol = 2 ∧ e.cp = 0 then { e with cp := 1 } else if pol = 3 then { e with last := true } else e

def LaneLoc.policy (x : LaneLoc) (pol : BitVec 3) : LaneLoc :=
  match x.loc with
  | .mem pa e => { x with loc := .mem pa (e.policy pol) }
  | .sp _ _ _ => x

/-! ### Orders -/

def Order.acquires : Order → Bool
  | .acq | .ar | .sc => true
  | _ => false

def Order.releases : Order → Bool
  | .rel | .ar | .sc => true
  | _ => false

/-- Scopes pkg and wider (R100). -/
def Scope.wide : Scope → Bool
  | .pkg | .sys | .fabric => true
  | _ => false

/-- A read that bypasses the RDC and the L1 (R118). -/
def readsHome (o : Order) (sc : Scope) : Bool := Order.acquires o && Scope.wide sc

/-- What a read bypasses: an sc read of a narrower scope goes past the core's own L1, which other cores' stores do not reach
(R111, R118) (DEDUCED, safe, log 88). -/
def pastOf (o : Order) (sc : Scope) : Past := if readsHome o sc then .all else if o = .sc then .l1 else .nothing

/-! ### RMW arithmetic (R305, R309) -/

/-- Integer operations on w-bit operands. -/
def aopInt (w : Nat) (op : Aop) (uns : Bool) (old val : Nat) : Nat :=
  let i (x : Nat) : Int := intOf' w uns x
  match op with
  | .add => (old + val) % 2 ^ w
  | .min => if i val < i old then val else old
  | .max => if i old < i val then val else old
  | .and => old &&& val
  | .or => old ||| val
  | .xor => old ^^^ val
  | .xchg => val
  | .incw => if val ≤ old then 0 else old + 1
  | .decw => if old = 0 ∨ val < old then val else old - 1
where
  intOf' (w : Nat) (uns : Bool) (x : Nat) : Int := if uns then x else (BitVec.ofNat w x).toInt

/-- Float operations: RNE, subnormals kept, canonical NaN (R305). -/
def aopFloat (f : FFmt) (op : Aop) (old val : Nat) : Nat :=
  let x := f.decode old
  let y := f.decode val
  let w (v : FVal) : Nat := (f.write 1 0 false false v).1
  match op with
  | .add => w (x.add false y).1
  | .min => w (FVal.minmax false false x y)
  | .max => w (FVal.minmax true false x y)
  | _ => val

/-- Element kinds of RMW and RED. -/
inductive Elem where
  | i32 | i64 | f32 | bf16x2
deriving DecidableEq, Repr

def Elem.bytes : Elem → Nat
  | .i64 => 8
  | _ => 4

def Elem.code : Elem → Nat
  | .i32 => 0 | .i64 => 1 | .f32 => 2 | .bf16x2 => 3

def Elem.ofCode : Nat → Elem
  | 0 => .i32 | 1 => .i64 | 2 => .f32 | _ => .bf16x2

/-- The value that lands. -/
def Elem.apply (k : Elem) (op : Aop) (uns : Bool) (old val : Nat) : Nat :=
  match k with
  | .i32 => aopInt 32 op uns old (val % 2 ^ 32)
  | .i64 => aopInt 64 op uns old val
  | .f32 => aopFloat fp32 op old (val % 2 ^ 32)
  | .bf16x2 => aopFloat bf16 op (old % 2 ^ 16) (val % 2 ^ 16) + 2 ^ 16 * aopFloat bf16 op (old / 2 ^ 16) (val / 2 ^ 16 % 2 ^ 16)

/-! ### What a place reads as -/

/-- Addresses of memory among the places. -/
def LaneLoc.pa? (x : LaneLoc) : Option Nat :=
  match x.loc with
  | .mem pa _ => some pa
  | _ => none

/-- The bytes that a place delivers. -/
def State.locBytes (s : State) (past : Past) (l : Loc) (n : Nat) : List W8 :=
  match l with
  | .mem pa e => (List.range n).map fun i => s.viewByte s.sq.core e.key e.cp past (pa + i)
  | .sp t off _ => s.spBytes t off n

/-- Whether a place's bytes are poisoned. -/
def State.locBad (s : State) (past : Past) (l : Loc) (n : Nat) : Bool :=
  match l with
  | .mem pa e => s.viewBad s.sq.core e.key e.cp past pa
  | .sp t off _ => (List.range n).any fun i => s.spBad t (off + i)

/-- Whether reading a place is an integrity violation (R79). -/
def State.locViolates (s : State) (l : Loc) : Option Nat :=
  match l with
  | .mem pa e => if e.key ≠ 0 ∧ s.violates e.key pa then some e.key else none
  | _ => none

/-- The entries of a line that wait in its OWQ. -/
def State.entriesOf (s : State) (line : Nat) : List OwqEntry :=
  match homeDie (128 * line) with
  | some d => (s.die d).owq.filter fun e => e.line == line
  | none => []

/-- The line content that memory holds: the media with the entries of its OWQ (R82, R95). -/
def State.persisted (s : State) (line : Nat) : List W8 :=
  let es := s.entriesOf line
  (List.range 128).map fun i =>
    match (es.filter fun e => e.mask.getLsbD i).getLast? with
    | some e => e.bytes.getD i 0
    | none => s.stored (128 * line + i)

/-- The poisoned sectors of a line as memory holds it. -/
def State.persistedBad (s : State) (line : Nat) : List Nat :=
  [2 * line, 2 * line + 1].filter fun x =>
    match ((s.entriesOf line).filter fun e => (List.range 64).any fun i => e.mask.getLsbD (x % 2 * 64 + i)).getLast? with
    | some e => e.bad.contains x
    | none => s.mediaBad.contains x

/-- A line lost without write-back: what memory holds is its content again (R82). -/
def State.loseLine (s : State) (line : Nat) : State :=
  let x := s.l2Line line
  let s1 := s.setL2 line L2Line.absent
  if !x.dirty then s1
  else
    let secs := [2 * line, 2 * line + 1]
    let tag := ((s.entriesOf line).getLast?.map (·.tag)).getD (s.mediaTags.get0 line)
    { s1 with
      mem := Tab.putAll s1.mem (fun _ => 0) ((s.persisted line).zipIdx.map fun e => (128 * line + e.2, e.1)),
      secKey := secs.foldl (fun t x => Tab.put t (fun _ => 0) x (s.storedKey x)) s1.secKey,
      bad := addNats (dropNats s1.bad secs) (s.persistedBad line),
      tags := if x.p then s1.tags.put0 line tag else s1.tags }

/-- Drops a key's TLB entries and its copies (R24, R33). -/
def State.dropKey (s : State) (k : Nat) : State :=
  let s1 := s.dies.foldl (fun s e => s.updDie e.1 fun x =>
    { x with tlb := x.tlb.filter fun t => t.key != k, rdc := x.rdc.filter fun c => c.key != k }) s
  let s2 := s1.cores.foldl (fun s e => if e.2.l1.any (fun c => c.key == k) || e.2.tlb.any (fun t => t.key == k) then
    s.updCore e.1 fun x => { x with l1 := x.l1.filter fun c => c.key != k, tlb := x.tlb.filter fun t => t.key != k } else s) s1
  let s3 := s2.cores.foldl (fun s e => if e.2.through.any fun w => w.key == k then
    s.updCore e.1 fun x => { x with through := x.through.filter fun w => w.key != k } else s) s2
  { s3 with cmds := s3.cmds.map fun c => { c with tlb := c.tlb.filter fun t => t.key != k } }

/-- An integrity violation of an access to `pa`: it is recorded, the slot fails, its TLB entries and lines go, and the regions of the
partition that holds it are to end where the tables name it (R24, R82, R83) (DEDUCED, unsafe, log 64). A slot that has failed already
fails no more. -/
def State.keyFails (s : State) (k pa path : Nat) : State :=
  if (s.key k).state = .failed then s else
  let s0 := (s.memoryRecord MemCause.integ pa k path).note (.keyFailed k)
  let s1 := (s0.setKey k { s.key k with state := .failed }).dropKey k
  let s2 := (s.l2.filter fun e => e.2.held && e.2.key == k).foldl (fun s e => s.loseLine e.1) s1
  { s2 with keyKills := addNats s2.keyKills [k] }

/-! ### The combining buffer (R310) -/

/-- A reduction that meets an uncorrectable error, or breaks a key's integrity, at home: it is not applied, and each RED of it is
reported (R80, R309, R310). -/
def State.redFails (s : State) (key pa path : Nat) (whos : List StreamId) : State :=
  let s1 := if !s.isBad pa ∧ key ≠ 0 ∧ s.violates key pa then s.keyFails key pa path else s
  whos.foldl (fun s who => s.note (.reduction who pa)) s1

/-- Whether it does. -/
def State.redMeetsError (s : State) (key pa : Nat) : Bool := s.isBad pa || (key != 0 && s.violates key pa)

/-- Applies one buffered element at home; the copies of its line at the cores that issued it go, which may have been filled since
(R104). -/
def State.applyRed (s : State) (x : RedElem) : State :=
  let k := Elem.ofCode x.kind
  let n := k.bytes
  if s.redMeetsError x.key x.pa then s.redFails x.key x.pa PathCode.core x.merged
  else
    let old := leNat ((List.range n).map fun i => s.readHome x.key (x.pa + i))
    let s1 := s.writeAt { key := x.key, cp := 0, c := x.c, p := x.p, tag := x.tag, core := none } x.pa (leBytes n (k.apply x.aop x.unsignedT old x.val.toNat))
    (distinct (x.merged.filterMap fun who => (s.squad? who.sid).map (·.core))).foldl (fun s c => s.dropCopy c x.pa) s1

/-- Sends the buffered lines that satisfy a test to their homes. -/
def State.flushRed (s : State) (d : Nat) (p : RedLine → Bool) : State :=
  let out := (s.die d).comb.filter p
  if out.isEmpty then s
  else
    let s1 := s.updDie d fun x => { x with comb := x.comb.filter fun l => !p l }
    out.foldl (fun s l => l.elems.foldl (fun s e => s.applyRed e) s) s1

/-- A load or RMW by the die to a buffered line sends it first. -/
def State.flushFor (s : State) (pas : List Nat) : State :=
  s.flushRed (dieOfCore s.sq.core) fun l => pas.any fun pa => lineOf pa == l.line

/-- An access that does not take place in the core's L1 comes after what the core has on its way to the L2 of its lines (R104, R106). -/
def State.landFor (s : State) (pas : List Nat) : State :=
  s.flushThrough s.sq.core fun w => pas.any fun pa => lineOf pa == lineOf w.pa

/-- A release sends the lines that hold REDs of the wave, whose streams' earlier accesses it may have to cover (R108, R124, R125,
R310), and waits for the core's writes on their way to the L2. -/
def State.flushMine (s : State) : State :=
  (s.flushRed (dieOfCore s.sq.core) fun l => l.issuers.contains (s.sq.sid, s.wv.widx)).flushThrough s.sq.core fun _ => true

/-- Every buffered line of the package is sent, and every write on its way is performed (R34, R139). -/
def State.flushAll (s : State) : State :=
  let s1 := (s.dies.map (·.1)).foldl (fun s d => s.flushRed d fun _ => true) s
  (s1.cores.map (·.1)).foldl (fun s c => s.flushThrough c fun _ => true) s1

/-! ### Reads -/

/-- Brings the lines of a load into the copies; a read past the L1 alone refreshes what that holds of them; a read at home goes through
the L2 there, and the copies self-invalidate after it (R118). -/
def State.afterLoad (s : State) (past : Past) (l1 : Bool) (xs : List LaneLoc) : State :=
  let each (f : State → Nat → TlbEntry → State) : State := xs.foldl (fun s x => match x.loc with
    | .mem pa e => f s pa e
    | _ => s) s
  match past with
  | .nothing => each fun s pa e => s.fillLine s.sq.core e.key e.cp l1 e.c e.p pa e.last
  | .l1 => each fun s pa e =>
    let s1 := if s.remote (dieOfCore s.sq.core) pa e.cp then s.updCore s.sq.core fun x => { x with l1 := x.l1.filter fun c => c.line != lineOf pa } else s
    s1.fillLine s.sq.core e.key e.cp l1 e.c e.p pa e.last
  | .all => (each fun s pa e => s.l2Use (lineOf pa) e.key e.cp e.c e.p (e.last || e.cp == 1)).selfInvalidate s.sq.core

/-- The reads of an instruction through peer windows: runs of addresses. -/
def State.windowRuns (s : State) (xs : List LaneLoc) (n : Nat) : List (Nat × Nat) :=
  (distinct ((xs.filterMap LaneLoc.pa?).filter fun pa => (s.peerAt pa).isSome)).map fun pa => (pa, n)

/-- Waits until what the instruction reads through peer windows is here, and in order sc until the peers have acknowledged the wave's
stores (R118); an instruction that reads none goes on as it is. -/
def withWindow (s : State) (xs : List LaneLoc) (n : Nat) (o : Order) (k : State → Out) : Out :=
  if o = .sc ∧ s.windowOwed then .next (s.hold .blocked)
  else match s.windowRead s.me s.sq.inst.part (s.windowRuns xs n) s.st.asked with
    | .waits s1 asked => .next ({ s1 with st := { s1.st with asked } }.hold .blocked)
    | .here => k (if s.st.asked.isEmpty then s else { s with st := { s.st with asked := [] } })

/-- The lowest address among lanes, which a record of them names (R308, R370). -/
def lowestVa (xs : List LaneLoc) : W64 :=
  match xs with
  | [] => 0
  | x :: r => BitVec.ofNat 64 (r.foldl (fun a y => min a y.va) x.va)

/-- Lanes whose sectors break the integrity of the keys that come with them: the keys fail, and the instruction is consumed (R79, R80,
R370). -/
def State.broken (s : State) (hits : List (Nat × LaneLoc)) : State :=
  let keys := distinct (hits.map (·.1))
  let s1 := keys.foldl (fun s k =>
    s.keyFails k ((((hits.find? fun h => h.1 == k).map (·.2)).bind LaneLoc.pa?).getD 0) PathCode.core) s
  s1.consume .integ (lowestVa (hits.map (·.2))) (lanesMask (hits.map (·.2.lane))) (BitVec.ofNat 64 (keys.headD 0))

/-- The lanes that meet a violation, with their keys. -/
def State.violations (s : State) (xs : List LaneLoc) : List (Nat × LaneLoc) := xs.filterMap fun x => (s.locViolates x.loc).map fun k => (k, x)

/-- Lanes whose read does not take place in the core's L1, which may hold a newer version than the L2 (R66). -/
def pastL1 (past : Past) (xs : List LaneLoc) : List Nat :=
  xs.filterMap fun x => match x.loc with
    | .mem pa e => if past = .nothing ∧ e.cp = 0 then none else some pa
    | _ => none

/-- Writes on their way under another key than a lane's. -/
def State.otherThrough (s : State) (xs : List LaneLoc) : List Nat :=
  xs.filterMap fun x => match x.loc with
    | .mem pa e => if (s.core s.sq.core).through.any fun w => lineOf w.pa == lineOf pa && w.key != e.key then some pa else none
    | _ => none

/-- Performs the reads of an instruction: consumes poison or a violation (R80, R81, R299), or hands on the bytes. -/
def withData (s : State) (xs : List LaneLoc) (n : Nat) (o : Order) (sc : Scope) (l1 : Bool)
    (k : State → (Nat → List W8) → Out) : Out :=
  withWindow s xs n o fun s =>
  -- accesses of scratchpad behave as cluster scope at most (R100)
  let past := if xs.any fun x => (LaneLoc.pa? x).isSome then pastOf o sc else .nothing
  let s := (if o = .sc then s.flushMine else s).flushFor (xs.filterMap LaneLoc.pa?)
  let s := s.landFor (pastL1 past xs ++ s.otherThrough xs)
  let bad := xs.filter fun x => s.locBad past x.loc n
  match bad, s.violations xs with
  | _ :: _, _ => .next (s.consume .media (lowestVa bad) (lanesMask (bad.map (·.lane))) 1)
  | [], v :: r => .next (s.broken (v :: r))
  | [], [] =>
    let data (l : Nat) : List W8 := ((xs.find? fun x => x.lane == l).map fun x => s.locBytes past x.loc n).getD []
    k (s.afterLoad past l1 xs) data

/-! ### Stores -/

/-- Byte ranges of the footprint (R154). -/
def Instance.footRanges (i : Instance) : List (Nat × Nat) :=
  i.foot.map fun f =>
    let a := f.2.1
    let b := i.base.getD a 0
    (f.1 + (i.lo.getD a 0 - b) * f.2.2, f.1 + (i.hi.getD a 0 - b) * f.2.2)

/-- Whether every byte of an access lies in the footprint. -/
def Instance.inFoot (i : Instance) (va n : Nat) : Bool :=
  (List.range n).all fun k => i.footRanges.any fun r => decide (r.1 ≤ va + k) && decide (va + k < r.2)

/-- Whether the store pins: outside the footprint, or into a stripe of another squad (R158). -/
def State.storePins (s : State) (xs : List LaneLoc) (n : Nat) : Bool :=
  xs.any fun x => match x.loc with
    | .mem _ _ => !s.sq.inst.inFoot x.va n
    | .sp _ _ own => !own

/-- Byte writes of the lanes to memory, in ascending lane order. -/
def memWrites (xs : List LaneLoc) (data : Nat → List W8) : List (TlbEntry × List (Nat × W8)) :=
  xs.filterMap fun x => match x.loc with
    | .mem pa e => some (e, (data x.lane).zipIdx.map fun b => (pa + b.2, b.1))
    | _ => none

/-- Byte writes of the lanes to one scratchpad. -/
def spWrites (xs : List LaneLoc) (data : Nat → List W8) : List (Sp × List (Nat × W8)) :=
  xs.filterMap fun x => match x.loc with
    | .sp t off _ => some (t, (data x.lane).zipIdx.map fun b => (off + b.2, b.1))
    | _ => none

/-- Consecutive writes to one target are performed together, so that a whole word or sector is seen as such. -/
def groupRuns {α : Type} [DecidableEq α] : List (α × List (Nat × W8)) → List (α × List (Nat × W8))
  | [] => []
  | x :: r =>
    match groupRuns r with
    | y :: t => if x.1 = y.1 then (x.1, x.2 ++ y.2) :: t else x :: y :: t
    | [] => [x]

/-- Sectors that byte addresses cover whole. -/
def coveredSectors (pas : List Nat) : List Nat :=
  (distinct (pas.map sectorOf)).filter fun x => (List.range 64).all fun i => pas.contains (64 * x + i)

/-- Bytes of a store that the engines may not see at once, with what they held (R113); a damaged sector's are seen. -/
def State.lagging (s : State) (ws : List (TlbEntry × List (Nat × W8))) : List Lag :=
  ws.flatMap fun w => (w.2.filter fun b => (s.peerAt b.1).isNone && !s.isBad b.1 && !s.violates w.1.key b.1).map fun b =>
    { who := s.me, key := w.1.key, pa := b.1, byte := s.readHome w.1.key b.1, classes := [1, 3, 4, 5], since := s.cycle }

/-- Performs the stores of an instruction; a sector that its lanes write whole together loses its poison (R105, R302). -/
def State.storeLanes (s : State) (xs : List LaneLoc) (data : Nat → List W8) : State :=
  let tag := s.step16
  let ws := memWrites xs data
  let whole := coveredSectors (ws.flatMap fun w => w.2.map (·.1))
  let s0 := if whole.isEmpty then s else s.heal s.sq.core whole
  let s1 := (groupRuns ws).foldl (fun s w => s.writeOut (w.1.under tag s.sq.core) s.me none s.sq.inst.part w.2) s0
  let late := s.lagging ws
  let s2 := if late.isEmpty then s1 else s1.updCore s.sq.core fun x => { x with lags := x.lags ++ late }
  (groupRuns (spWrites xs data)).foldl (fun s w => s.spWrite w.1 w.2) s2

/-- The lanes of a store that merge into a sector under an integrity key that did not write it (R79, R80); one that the lanes write whole
is not read. -/
def State.mergeViolations (s : State) (xs : List LaneLoc) (n : Nat) : List (Nat × LaneLoc) :=
  let hits := if n = 0 then [] else s.violations xs
  if hits.isEmpty then []
  else
    let whole := coveredSectors (xs.flatMap fun x => ((LaneLoc.pa? x).map fun pa => (List.range n).map (pa + ·)).getD [])
    hits.filter fun h => ((LaneLoc.pa? h.2).map fun pa => !whole.contains (sectorOf pa)).getD true

/-- A release waits until the peers have acknowledged the wave's stores through their windows, and sends what the die combines
(R118, R310); so does an sc access. -/
def releasing (s : State) (o : Order) (k : State → Out) : Out :=
  if Order.releases o then (if s.windowOwed then .next (s.hold .blocked) else k s.flushMine) else k s

/-- The stores of an instruction with everything they bring: the buffered reductions before them (R106, R310), pinning, the bytes. -/
def performStore (s : State) (xs : List LaneLoc) (n : Nat) (o : Order) (data : Nat → List W8) (k : State → Out) : Out :=
  releasing s o fun s =>
  let pas := xs.filterMap LaneLoc.pa?
  let s := (s.flushFor pas).landFor pas
  match s.mergeViolations xs n with
  | v :: r => .next (s.broken (v :: r))
  | [] => k ((if s.storePins xs n then s.pin else s).storeLanes xs data)

end Sys2Proof.Machine
end

