-- ==== Sys2Proof/Machine/Load.lean ====
section
/-! DEFINITION. Loads, stores and cache control (R296 to R303). -/

namespace Sys2Proof.Machine

/-! ### Addresses (R238, R300) -/

def MF.offset (f : MF) : W64 :=
  match f.ext with
  | some e => e.lit64
  | none => f.off.signExtend 64

/-- INDEX at a lane: a vector lane is zero-extended, a scalar is used in full. -/
def State.indexAt (s : State) (x : Src) (l : Nat) : W64 :=
  match x with
  | .vec n => (s.readV n.toNat l).setWidth 64
  | .spc k => if k = 0 then BitVec.ofNat 64 l else if k = 2 then BitVec.ofNat 64 (64 * s.wv.widx + l) else s.sval (.spc k) 0 none
  | x => s.sval x 0 none

/-- `[sB + index << k + off]` at a lane. -/
def State.addrAt (s : State) (f : MF) (l : Nat) : W64 :=
  s.readS f.base.toNat + (s.indexAt f.index l <<< f.shift.toNat) + MF.offset f

/-- VLDB's contiguous block. -/
def State.addrBlock (s : State) (f : MF) (l : Nat) : W64 :=
  s.readS f.base.toNat + MF.offset f + BitVec.ofNat 64 (l * f.width.bytes)

/-- VLDX's and VSTX's row pitch. -/
def State.addrRow (s : State) (f : MF) (l : Nat) : W64 :=
  s.readS f.base.toNat + MF.offset f + BitVec.ofNat 64 l * s.indexAt f.index l

def activeList (m : W64) : List Nat := lanes.filter fun l => m.getLsbD l

/-- The active lanes' addresses. -/
def State.laneVas (s : State) (h : Head) (addr : Nat → W64) : List LaneVa := (activeList (s.activeLanes h)).map fun l => (l, addr l)

/-- One address for the whole stream: every lane of EXEC names it (DEDUCED, unsafe, log 45). -/
def State.uniform (s : State) (a : W64) : List LaneVa :=
  match activeList s.st.exec with
  | [] => [(0, a)]
  | ls => ls.map fun l => (l, a)

/-- A scalar access: checked for every lane of EXEC, performed once. -/
def withOne (s : State) (space : Space) (a : W64) (align : Nat) (acc : Acc) (serves : PageKind → Bool)
    (k : State → List LaneLoc → Out) : Out :=
  withPlaces s space (s.uniform a) align acc serves fun s xs => k s (xs.take 1)

/-! ### Page kinds (R298) -/

def servesVector : PageKind → Bool
  | .mmio => false
  | _ => true

def servesScalar (w : Width) : PageKind → Bool
  | .mmio => w == .b32 || w == .b64
  | _ => true

def servesAtomic : PageKind → Bool
  | .memory => true
  | _ => false

/-! ### Loads -/

/-- Value of register j of a lane's data: narrow data is extended to 32 bits (R297). -/
def loadReg (w : Width) (signed : Bool) (data : List W8) (j : Nat) : W32 :=
  match w with
  | .b8 => if signed then (BitVec.ofNat 8 (leNat data)).signExtend 32 else BitVec.ofNat 32 (leNat data)
  | .b16 => if signed then (BitVec.ofNat 16 (leNat data)).signExtend 32 else BitVec.ofNat 32 (leNat data)
  | _ => BitVec.ofNat 32 (leNat ((data.drop (4 * j)).take 4))

/-- Value of a scalar load (R297). -/
def loadScalar (w : Width) (signed : Bool) (data : List W8) : W64 :=
  let v := leNat data
  match w, signed with
  | .b8, true => (BitVec.ofNat 8 v).signExtend 64
  | .b16, true => (BitVec.ofNat 16 v).signExtend 64
  | .b32, true => (BitVec.ofNat 32 v).signExtend 64
  | _, _ => BitVec.ofNat 64 v

/-- Number of a DATA register. -/
def Reg.num : Reg → Nat
  | .vec n => n.toNat
  | .sca n => n.toNat

/-- CPOL under which a load allocates in the L1 (R238). -/
def keepsL1 (pol : BitVec 3) : Bool := pol == 0 || pol == 3

/-- Writes tracked lanes of a register group: the active lanes their data, the others of `written` zero (R299). -/
def State.loadVec (s : State) (h : Head) (d count : Nat) (val : Nat → Nat → W32) : State :=
  let act := s.activeLanes h
  (List.range count).foldl (fun t j => (t.writeV (d + j) (s.written h) fun l => if act.getLsbD l then val l j else 0).track (.vec (d + j))) s

def runVld (r : MRule) (sp : Space) (f : MF) (s : State) (addr : State → Nat → W64) : Out :=
  guarded (f.named r) s fun s =>
    withPlaces s sp (s.laneVas f.h (addr s)) f.width.bytes .read servesVector fun s xs =>
      withData s (xs.map (·.policy f.cpol)) f.width.bytes f.order f.scope (keepsL1 f.cpol) fun s data =>
        .next ((s.loadVec f.h (Reg.num f.data) f.width.regs fun l j => loadReg f.width (f.sub.getLsbD 0) (data l) j).retire f.h)

def execVldGlobal (f : MF) (s : State) : Out := runVld (Rule.vld [.global] .any true) .global f s fun s l => s.addrAt f l
def execVldScratch (f : MF) (s : State) : Out := runVld (Rule.vld [.scratch] .any true) .scratch f s fun s l => s.addrAt f l
def execVldCluster (f : MF) (s : State) : Out := runVld (Rule.vld [.cluster] .any true) .cluster f s fun s l => s.addrAt f l
def execVldb (f : MF) (s : State) : Out := runVld (Rule.vld Rule.data3 .none false) f.space f s fun s l => s.addrBlock f l
def execVldx (f : MF) (s : State) : Out := runVld (Rule.vld Rule.data3 .sca false) f.space f s fun s l => s.addrRow f l

/-- Whether a place is a device register. -/
def State.isMmio (s : State) (x : LaneLoc) : Bool :=
  match x.loc with
  | .mem _ e => s.pageKind e x.va == .mmio
  | _ => false

/-- A scalar load; a device register gives a free value (DESIGN CHOICE, unsafe, log 44). -/
def runSld (r : MRule) (sp : Space) (f : MF) (s : State) : Out :=
  guarded (f.named r) s fun s =>
    withOne s sp (s.addrAt f 0) f.width.bytes .read (servesScalar f.width) fun s xs =>
      let put (s : State) (v : W64) : Out :=
        .next (((s.writeS (Reg.num f.data) v).track (.sca (Reg.num f.data))).retire f.h)
      if xs.any s.isMmio then
        -- no register is open to a partition (R23): what a refused read delivers is a free value
        let v := s.draw
        put v.2 (loadScalar f.width (f.sub.getLsbD 0) (leBytes f.width.bytes v.1.toNat))
      else
        withData s (xs.map (·.policy f.cpol)) f.width.bytes f.order f.scope (keepsL1 f.cpol) fun s data =>
          put s (loadScalar f.width (f.sub.getLsbD 0) (data ((xs.head?.map (·.lane)).getD 0)))

def execSldGlobal (f : MF) (s : State) : Out := runSld (Rule.sld Rule.data3 [.rlx, .acq, .sc]) f.space f s
def execSldParam (f : MF) (s : State) : Out := runSld (Rule.sld [.param] [.rlx]) .param f s

/-! ### Stores -/

/-- A lane's store data (R297). -/
def State.storeData (s : State) (w : Width) (d l : Nat) : List W8 :=
  ((List.range w.regs).flatMap fun j => bytes32 (s.readV (d + j) l)).take w.bytes

def runVst (r : MRule) (sp : Space) (f : MF) (s : State) (addr : State → Nat → W64) : Out :=
  guarded (f.named r) s fun s =>
    withPlaces s sp (s.laneVas f.h (addr s)) f.width.bytes .write servesVector fun s xs =>
      performStore s (xs.map (·.policy f.cpol)) f.width.bytes f.order (s.storeData f.width (Reg.num f.data)) fun s => .next (s.retire f.h)

def execVstGlobal (f : MF) (s : State) : Out := runVst (Rule.vst [.global] .any true) .global f s fun s l => s.addrAt f l
def execVstScratch (f : MF) (s : State) : Out := runVst (Rule.vst [.scratch] .any true) .scratch f s fun s l => s.addrAt f l
def execVstCluster (f : MF) (s : State) : Out := runVst (Rule.vst [.cluster] .any true) .cluster f s fun s l => s.addrAt f l
def execVstx (f : MF) (s : State) : Out := runVst (Rule.vst Rule.data3 .sca false) f.space f s fun s l => s.addrRow f l

def execSst (f : MF) (s : State) : Out :=
  guarded (f.named Rule.sst) s fun s =>
    withOne s f.space (s.addrAt f 0) f.width.bytes .write (servesScalar f.width) fun s xs =>
      if xs.any s.isMmio then
        let pa := (xs.head?.bind LaneLoc.pa?).getD 0
        .next (((if s.storePins xs f.width.bytes then s.pin else s).drop pa).retire f.h)
      else
        let v := s.readS (Reg.num f.data)
        performStore s (xs.map (·.policy f.cpol)) f.width.bytes f.order (fun _ => leBytes f.width.bytes v.toNat) fun s => .next (s.retire f.h)

/-! ### Cache control (R303) -/

/-- The walk of a prefetch: a leaf that permits reading is entered, anything else is discarded. -/
def State.prefetchEntry (s : State) (va : Nat) : Option (TlbEntry × State) :=
  let d := dieOfCore s.sq.core
  let p := s.sq.inst.part
  match s.entryFor va .read with
  | some e => some (e, s.keepTlb [e])
  | none =>
    match s.walk (s.die d).nodes p va with
    | .fault _ => none
    | .leaf at_ e level ns =>
      let t := tlbOf p va (leafAfter e .read) level
      let s1 := s.writeLeaf at_ e (leafAfter e .read)
      some (t, (s1.updDie d fun x => { x with tlb := fillL2Tlb x.tlb t, nodes := fillNodes x.nodes ns }).keepTlb [t])

/-- One lane's prefetch. -/
def State.prefetch (s : State) (f : MF) (va : Nat) : State :=
  match s.prefetchEntry va with
  | none => s
  | some (e, s1) =>
    let x := e.policy (if f.sub = 2 then 2 else f.cpol)
    if e.r && s1.pageKind e va == .memory then
      (s1.flushFor [e.pa va]).fillLine s.sq.core e.key x.cp (f.sub == 0 && keepsL1 f.cpol) e.c e.p (e.pa va) x.last
    else s1

def execPref (f : MF) (s : State) : Out :=
  guarded (f.named Rule.pref) s fun s =>
    let ls := s.laneVas f.h (s.addrAt f)
    match pick ls fun x => noncanon x.2 with
    | some (a, m) => prot s 6 a m
    | none => .next ((ls.foldl (fun s x => s.prefetch f x.2.toNat) s).retire f.h)

/-- Pushes a line of a P page: the reductions buffered for it are applied first (R130, R310), and a dirty one enters the OWQ and stays
clean (R88, R92). -/
def State.pushLine (s : State) (pa : Nat) : State :=
  match homeDie pa with
  | none => s
  | some d =>
    let line := lineOf pa
    let s := (s.flushFor [pa]).landFor [pa]
    let s1 := if (s.l2Line line).dirty then (s.acceptLine d line).cleanL2 line else s
    { s1 with st := { s1.st with pushes := s1.st.pushes ++ [{ die := d, line, seq := s1.lastEntry d line, tag := s1.tagOf line }] } }

/-- What CWB does at one line: a P line is pushed, another dirty line is written back. -/
def State.cleanLine (s : State) (pa : Nat) (e : TlbEntry) : State :=
  if e.p then s.pushLine pa
  else
    let s := (s.flushFor [pa]).landFor [pa]
    if (s.l2Line (lineOf pa)).dirty then s.writeBack (lineOf pa) else s

/-- Lines named by the lanes, each once. -/
def linesOf (xs : List LaneLoc) : List (Nat × TlbEntry) :=
  xs.foldl (fun a x => match x.loc with
    | .mem pa e => if a.any fun y => lineOf y.1 == lineOf pa then a else a ++ [(pa, e)]
    | _ => a) []

def execCwb (f : MF) (s : State) : Out :=
  guarded (f.named Rule.lineOp) s fun s =>
    withLanes s (s.laneVas f.h (s.addrAt f)) 1 .read servesVector fun s ys =>
      let xs := ys.map fun x => LaneLoc.mk x.1 x.2.1 (.mem (x.2.2.pa x.2.1) x.2.2)
      .next (((linesOf xs).foldl (fun s l => s.cleanLine l.1 l.2) s).retire f.h)

def execCinv (f : MF) (s : State) : Out :=
  guarded (f.named Rule.lineOp) s fun s =>
    withLanes s (s.laneVas f.h (s.addrAt f)) 1 .read servesVector fun s ys =>
      .next ((ys.foldl (fun s x => s.dropCopy s.sq.core (x.2.2.pa x.2.1)) s).retire f.h)

end Sys2Proof.Machine
end

