-- ==== Sys2Proof/Machine/VInt.lean ====
section
/-! DEFINITION. Vector integer, select, move and lookup instructions (R272 to R275). -/

namespace Sys2Proof.Machine

/-- The lanes of the sources A, B, C at one lane, with FRX (R237). -/
structure Srcs where
  a : W64
  b : W64
  c : W64
  flags : Flags

/-- Reads the sources that a rule names, at their element types. -/
def State.srcs (s : State) (r : VRule) (f : VF) (act : W64) (l : Nat) : Srcs :=
  let rd (u : VUse) (which : Nat) (t : ETy) (x : Src) : W64 × Flags :=
    if u = .none then (0, 0) else s.srcMod f act which t x l
  let a := rd r.a 1 (r.ta f.ty) f.a
  let b := rd r.b 2 (r.tb f.ty) f.b
  let c := rd r.c 3 (r.tc f.ty) f.c
  { a := a.1, b := b.1, c := c.1, flags := a.2 ||| b.2 ||| c.2 }

/-- Element k of each source with its NEG and ABS applied. -/
def elemA (f : VF) (t : ETy) (x : Srcs) (k : Nat) : Nat := signMod t f.nega f.absa (elemOf t x.a k)
def elemB (f : VF) (t : ETy) (x : Srcs) (k : Nat) : Nat := signMod t f.negb f.absb (elemOf t x.b k)
def elemC (f : VF) (t : ETy) (x : Srcs) (k : Nat) : Nat := signMod t f.negc false (elemOf t x.c k)

/-- An elementwise instruction: `op k a b c` gives element k's code and flags. -/
def runElems (r : VRule) (f : VF) (s : State) (op : Nat → Nat → Nat → Nat → Nat × Flags) : Out :=
  runVec r f s fun s act l =>
    let x := s.srcs r f act l
    let es := (List.range f.ty.elems).map fun k =>
      op k (elemA f f.ty x k) (elemB f f.ty x k) (elemC f f.ty x k)
    (BitVec.ofNat 64 (laneOf f.ty (es.map Prod.fst)), es.foldl (fun a e => a ||| e.2) x.flags)

/-- An elementwise instruction on exact integers, wrapped or clamped (R216). -/
def runInts (r : VRule) (sat : Bool) (f : VF) (s : State) (op : Int → Int → Int → Int) : Out :=
  runElems r f s fun _ a b c => narrowTo f.ty.signed sat f.ty.width (op (intOf f.ty a) (intOf f.ty b) (intOf f.ty c))

/-- An elementwise instruction on bits. -/
def runBits (r : VRule) (f : VF) (s : State) (op : Nat → Nat → Nat → Nat) : Out :=
  runElems r f s fun _ a b _ => (op f.ty.width a b % 2 ^ f.ty.width, 0)

def execVadd (f : VF) (s : State) : Out := runInts (Rule.v2 ETy.allInts true) f.sat f s fun a b _ => a + b
def execVsub (f : VF) (s : State) : Out := runInts (Rule.v2 ETy.allInts true) f.sat f s fun a b _ => a - b
def execVmul (f : VF) (s : State) : Out := runInts (Rule.v2 ETy.smallInts true Lat.vmul) f.sat f s fun a b _ => a * b
def execVmulhI (f : VF) (s : State) : Out :=
  runInts (Rule.v2 ETy.smallSigned false Lat.vmul) false f s fun a b _ => a * b / 2 ^ f.ty.width
def execVmulhN (f : VF) (s : State) : Out :=
  runInts (Rule.v2 ETy.smallUnsigned false Lat.vmul) false f s fun a b _ => a * b / 2 ^ f.ty.width

/-- Exact 64-bit product of 32-bit elements (R272). -/
def runMulw (r : VRule) (f : VF) (s : State) : Out :=
  runVec r f s fun s act l =>
    let x := s.srcs r f act l
    (BitVec.ofInt 64 (intOf f.ty (elemA f f.ty x 0) * intOf f.ty (elemB f f.ty x 0)), x.flags)
def execVmulwI (f : VF) (s : State) : Out := runMulw (Rule.vMulw [.i32]) f s
def execVmulwN (f : VF) (s : State) : Out := runMulw (Rule.vMulw [.n32]) f s

def execVmad (f : VF) (s : State) : Out := runInts (Rule.v3 ETy.smallInts true Lat.vmul) f.sat f s fun a b c => a * b + c
def execVand (f : VF) (s : State) : Out := runBits (Rule.vBits2 ETy.allInts) f s fun _ a b => a &&& b
def execVor (f : VF) (s : State) : Out := runBits (Rule.vBits2 ETy.allInts) f s fun _ a b => a ||| b
def execVxor (f : VF) (s : State) : Out := runBits (Rule.vBits2 ETy.allInts) f s fun _ a b => a ^^^ b
def execVandn (f : VF) (s : State) : Out := runBits (Rule.vBits2 ETy.allInts) f s fun w a b => a &&& (2 ^ w - 1 - b)
def execVshl (f : VF) (s : State) : Out := runBits (Rule.vShift ETy.allInts) f s fun w a b => a * 2 ^ (b % w)
def execVshls (f : VF) (s : State) : Out :=
  runElems (Rule.vShift ETy.smallInts) f s fun _ a b _ =>
    narrowTo f.ty.signed true f.ty.width (intOf f.ty a * 2 ^ (b % f.ty.width))
def execVshr (f : VF) (s : State) : Out := runBits (Rule.vShift ETy.allInts) f s fun w a b => a / 2 ^ (b % w)
/-- VSRA fills with the top bit whatever the type's signedness (R272). -/
def execVsra (f : VF) (s : State) : Out :=
  runBits (Rule.vShift ETy.allInts) f s fun w a b => wrapTo w ((BitVec.ofNat w a).toInt / 2 ^ (b % w))
def execVrot (f : VF) (s : State) : Out := runBits (Rule.vShift ETy.smallInts) f s fun w a b => rotl w a b
def execVminI (f : VF) (s : State) : Out := runInts (Rule.v2 ETy.signedInts) false f s fun a b _ => min a b
def execVminN (f : VF) (s : State) : Out := runInts (Rule.v2 ETy.unsignedInts) false f s fun a b _ => min a b
def execVmaxI (f : VF) (s : State) : Out := runInts (Rule.v2 ETy.signedInts) false f s fun a b _ => max a b
def execVmaxN (f : VF) (s : State) : Out := runInts (Rule.v2 ETy.unsignedInts) false f s fun a b _ => max a b
def execVclampI (f : VF) (s : State) : Out := runInts (Rule.v3 ETy.smallSigned) false f s fun a b c => min (max a b) c
def execVclampN (f : VF) (s : State) : Out := runInts (Rule.v3 ETy.smallUnsigned) false f s fun a b c => min (max a b) c
def execVabsdI (f : VF) (s : State) : Out := runInts (Rule.v2 ETy.smallSigned) false f s fun a b _ => (a - b).natAbs
def execVabsdN (f : VF) (s : State) : Out := runInts (Rule.v2 ETy.smallUnsigned) false f s fun a b _ => (a - b).natAbs
def execVavgI (f : VF) (s : State) : Out := runInts (Rule.v2 ETy.smallSigned) false f s fun a b _ => (a + b + 1) / 2
def execVavgN (f : VF) (s : State) : Out := runInts (Rule.v2 ETy.smallUnsigned) false f s fun a b _ => (a + b + 1) / 2
def execVaddsI (f : VF) (s : State) : Out := runInts (Rule.v2 ETy.smallSigned) true f s fun a b _ => a + b
def execVaddsN (f : VF) (s : State) : Out := runInts (Rule.v2 ETy.smallUnsigned) true f s fun a b _ => a + b
def execVsubsI (f : VF) (s : State) : Out := runInts (Rule.v2 ETy.smallSigned) true f s fun a b _ => a - b
def execVsubsN (f : VF) (s : State) : Out := runInts (Rule.v2 ETy.smallUnsigned) true f s fun a b _ => a - b

/-- c + the sum of the n element products, formed exactly; 32-bit result of the type's signedness (R273). -/
def runDot (r : VRule) (n : Nat) (f : VF) (s : State) : Out :=
  let ct : ETy := if f.ty.signed then .i32 else .n32
  runVec r f s fun s act l =>
    let x := s.srcs r f act l
    let sum := (List.range n).foldl (fun t k => t + intOf f.ty (elemA f f.ty x k) * intOf f.ty (elemB f f.ty x k))
      (intOf ct (elemC f ct x 0))
    let y := narrowTo f.ty.signed f.sat 32 sum
    (BitVec.ofNat 64 y.1, x.flags ||| y.2)
def execVdot2I (f : VF) (s : State) : Out := runDot (Rule.vDot [.i16x2]) 2 f s
def execVdot2N (f : VF) (s : State) : Out := runDot (Rule.vDot [.n16x2]) 2 f s
def execVdot4I (f : VF) (s : State) : Out := runDot (Rule.vDot [.i8x4]) 4 f s
def execVdot4N (f : VF) (s : State) : Out := runDot (Rule.vDot [.n8x4]) 4 f s

/-- floor ((a + 2^(s-1)) / 2^s), s = 0 giving a (R272). -/
def roundShift (a : Int) (s : Nat) : Int := if s = 0 then a else (a + 2 ^ (s - 1)) / 2 ^ s
def runRshr (r : VRule) (f : VF) (s : State) : Out :=
  runElems r f s fun _ a b _ => (wrapTo f.ty.width (roundShift (intOf f.ty a) (b % f.ty.width)), 0)
def execVrshrI (f : VF) (s : State) : Out := runRshr (Rule.vShift ETy.smallSigned) f s
def execVrshrN (f : VF) (s : State) : Out := runRshr (Rule.vShift ETy.smallUnsigned) f s

/-- R273: the elements of a, then those of b, each narrowed. -/
def runNarrow (r : VRule) (f : VF) (s : State) : Out :=
  let st := Rule.narrowSrc f.ty
  let n := f.ty.elems / 2
  runVec r f s fun s act l =>
    let x := s.srcs r f act l
    let xs := (List.range n).map (fun k => elemA f st x k) ++ (List.range n).map (fun k => elemB f st x k)
    let ys := xs.map fun e => narrowTo f.ty.signed f.sat f.ty.width (intOf st e)
    (BitVec.ofNat 64 (laneOf f.ty (ys.map Prod.fst)), ys.foldl (fun a y => a ||| y.2) x.flags)
def execVnarrowI (f : VF) (s : State) : Out := runNarrow (Rule.vNarrow [.i16x2, .i8x4]) f s
def execVnarrowN (f : VF) (s : State) : Out := runNarrow (Rule.vNarrow [.n16x2, .n8x4]) f s

/-- R273: element k extended to 32 bits, or to 64 for a 32-bit source. -/
def runWiden (r : VRule) (f : VF) (s : State) : Out :=
  runVec r f s fun s act l =>
    let x := s.srcs r f act l
    let e := intOf f.ty (elemA f f.ty x f.sub.toNat)
    (if f.ty.width = 32 then BitVec.ofInt 64 e else (BitVec.ofInt 32 e).setWidth 64, x.flags)
def execVwidenI (f : VF) (s : State) : Out := runWiden (Rule.vWiden [.i16x2, .i8x4, .i32]) f s
def execVwidenN (f : VF) (s : State) : Out := runWiden (Rule.vWiden [.n16x2, .n8x4, .n32]) f s

def execVclz (f : VF) (s : State) : Out := runBits (Rule.vBits1 ETy.smallInts) f s fun w a _ => clz w a
def execVpopc (f : VF) (s : State) : Out := runBits (Rule.vBits1 ETy.smallInts) f s fun w a _ => popc w a

/-- pos and wid of R274. -/
def bfxPos (b : Nat) : Nat := b % 32
def bfxWid (b c : Nat) : Nat := min c (32 - bfxPos b)
def runBfx (signed : Bool) (r : VRule) (f : VF) (s : State) : Out :=
  runElems r f s fun _ a b c =>
    let w := bfxWid b c
    let x := a / 2 ^ bfxPos b % 2 ^ w
    (if w = 0 then 0 else if signed then wrapTo 32 (BitVec.ofNat w x).toInt else x, 0)
def execVbfxI (f : VF) (s : State) : Out := runBfx true (Rule.vBfx [.i32]) f s
def execVbfxN (f : VF) (s : State) : Out := runBfx false (Rule.vBfx [.n32]) f s
/-- R274: inserts into the destination lane. -/
def execVbfi (f : VF) (s : State) : Out :=
  runVec Rule.vBfi f s fun s act l =>
    let x := s.srcs Rule.vBfi f act l
    let b := elemOf .n32 x.b 0
    let m : W32 := BitVec.ofNat 32 ((2 ^ bfxWid b (elemOf .n32 x.c 0) - 1) * 2 ^ bfxPos b)
    let d := s.readV f.dst.toNat l
    (((d &&& ~~~m) ||| (((x.a.setWidth 32) <<< bfxPos b) &&& m)).setWidth 64, x.flags)

/-- R275: a mask of the lanes whose comparison holds. -/
def runCmp (r : VRule) (f : VF) (s : State) : Out :=
  guarded (f.named r) s fun s =>
    let act := s.activeLanes f.h
    let x (l : Nat) := s.srcs r f act l
    .next (s.maskResult r f
      (maskOf fun l => cmpInt f.sub.toNat (intOf f.ty (elemA f f.ty (x l) 0)) (intOf f.ty (elemB f f.ty (x l) 0)))
      (laneFlags act fun l => (0, (x l).flags)))
def execVcmpI (f : VF) (s : State) : Out := runCmp (Rule.vCmp [.i32, .i64]) f s
def execVcmpN (f : VF) (s : State) : Out := runCmp (Rule.vCmp [.n32, .n64]) f s

/-- R275: bits are copied unchanged. -/
def execVsel (f : VF) (s : State) : Out :=
  runVec Rule.vSel f s fun s act l =>
    let a := s.srcMod f act 1 f.ty f.a l
    let b := s.srcMod f act 2 f.ty f.b l
    (if (s.readM f.c.mask.toNat).getLsbD l then a.1 else b.1, a.2 ||| b.2)
def execVmov (f : VF) (s : State) : Out := runVec Rule.vMov f s fun s act l => s.srcMod f act 1 f.ty f.a l

/-- Entry x of the table in vector register n: zero with FRX when its lane is not active (R275). -/
def State.tableEntry (s : State) (t : ETy) (act : W64) (n x : Nat) : Nat × Flags :=
  let l := x / t.elems
  if act.getLsbD l then (elemOf t ((s.readV n l).setWidth 64) (x % t.elems), 0) else (0, Flag.frx)
def execVlut (f : VF) (s : State) : Out :=
  let table := match f.b with
    | .vec n => n.toNat
    | _ => 0
  runVec Rule.vLut f s fun s act l =>
    let a := s.srcMod f act 1 f.ty f.a l
    let es := (List.range f.ty.elems).map fun k => s.tableEntry f.ty act table (elemOf f.ty a.1 k % (64 * f.ty.elems))
    (BitVec.ofNat 64 (laneOf f.ty (es.map Prod.fst)), es.foldl (fun a e => a ||| e.2) a.2)

end Sys2Proof.Machine
end

