-- ==== Sys2Proof/Machine/Mask.lean ====
section
/-! DEFINITION. Mask and cross-lane instructions (R286 to R294). -/

namespace Sys2Proof.Machine

/-- A mask instruction: the bits are those of all 64 lanes (R271, R286). -/
def runMask (r : VRule) (f : VF) (s : State) (g : State → W64) : Out :=
  guarded (f.named r) s fun s => .next (s.maskResult r f (g s) 0)

def execMand (f : VF) (s : State) : Out :=
  runMask Rule.m2 f s fun s => s.readM f.a.mask.toNat &&& s.readM f.b.mask.toNat
def execMor (f : VF) (s : State) : Out := runMask Rule.m2 f s fun s => s.readM f.a.mask.toNat ||| s.readM f.b.mask.toNat
def execMxor (f : VF) (s : State) : Out := runMask Rule.m2 f s fun s => s.readM f.a.mask.toNat ^^^ s.readM f.b.mask.toNat
def execMandn (f : VF) (s : State) : Out :=
  runMask Rule.m2 f s fun s => s.readM f.a.mask.toNat &&& ~~~s.readM f.b.mask.toNat
def execMnot (f : VF) (s : State) : Out := runMask Rule.m1 f s fun s => ~~~s.readM f.a.mask.toNat
def execMmov (f : VF) (s : State) : Out := runMask Rule.m1 f s fun s => s.readM f.a.mask.toNat

/-- A scalar or inline operand of 64 bits in V format; a literal is EXT32 sign-extended, or half of LIT64. -/
def State.vscalar (s : State) (f : VF) (x : Src) : W64 :=
  match x with
  | .inl k =>
    if k.toNat < 0x60 then BitVec.ofInt 64 (inlineInt k)
    else if k.toNat < 0x70 then BitVec.ofNat 64 (inlineFloat k)
    else ((literalLane .i32 f.ext k).setWidth 32).signExtend 64
  | x => s.sval x 0 none

/-- R286: left for b >= 0, right for b < 0. -/
def shiftMask (a b : W64) : W64 :=
  let n := b.toInt
  if 64 ≤ n.natAbs then 0 else if 0 ≤ n then a <<< n.toNat else a >>> n.natAbs
/-- MSHIFT: the count may be inline (DEDUCED, unsafe, log 33). -/
def execMshift (f : VF) (s : State) : Out :=
  runMask Rule.mShift f s fun s => shiftMask (s.readM f.a.mask.toNat) (s.vscalar f f.b)
def execMset (f : VF) (s : State) : Out := runMask Rule.mSet f s fun s => s.vscalar f f.a

/-- R287: one value for every active lane, or each lane's own bit. -/
def runCount (f : VF) (s : State) (g : W64 → Nat → Nat) : Out :=
  runVec Rule.mCount f s fun s _ l => (BitVec.ofNat 64 (g (s.readM f.a.mask.toNat) l), 0)
def execMpopc (f : VF) (s : State) : Out := runCount f s fun m _ => popMask m
def execMfirst (f : VF) (s : State) : Out := runCount f s fun m _ => lowBit 64 m.toNat
def execMlast (f : VF) (s : State) : Out := runCount f s fun m _ => if m = 0 then 64 else Nat.log2 m.toNat
def execMget (f : VF) (s : State) : Out := runCount f s fun m l => if m.getLsbD l then 1 else 0

/-- 32 raw bits of VOTE's source (R288). -/
def State.voteLane (s : State) (f : VF) (l : Nat) : W32 :=
  match f.a with
  | .inl k => (s.vscalar f (.inl k)).setWidth 32
  | x => (s.srcLane .i32 f.ext x l).setWidth 32

/-- The member set M (R288). -/
def State.voteMembers (s : State) (f : VF) : W64 := if f.sub.getLsbD 0 then s.st.exec else s.readM f.b.mask.toNat

/-- R288: `g` decides a lane from M, ACTIVE and the values; FRX for a member outside ACTIVE. -/
def runVote (f : VF) (s : State) (g : W64 → W64 → (Nat → W32) → Nat → Bool) : Out :=
  guarded (f.named Rule.vote) s fun s =>
    let m := s.voteMembers f
    let act := s.activeLanes f.h
    .next (s.maskResult Rule.vote f (maskOf (g m act (s.voteLane f))) (Flag.when (m &&& ~~~act != 0) Flag.frx))
/-- VOTE.any; FRX is set for members outside ACTIVE (DEDUCED, unsafe, log 85). -/
def execVoteAny (f : VF) (s : State) : Out :=
  runVote f s fun m act a _ => lanes.any fun k => m.getLsbD k && act.getLsbD k && a k != 0
def execVoteAll (f : VF) (s : State) : Out :=
  runVote f s fun m act a _ => lanes.all fun k => !m.getLsbD k || (act.getLsbD k && a k != 0)
def execVoteEq (f : VF) (s : State) : Out :=
  runVote f s fun m act a _ =>
    let x := a (lowBit 64 m.toNat)
    lanes.all fun k => !m.getLsbD k || (act.getLsbD k && a k == x)
def execVoteBallot (f : VF) (s : State) : Out := runVote f s fun m _ a l => m.getLsbD l && a l != 0

/-! ### Cross-lane (R289 to R294) -/

def VF.seg (f : VF) : Nat := 2 ^ (f.sub.toNat % 8)
def segStart (n l : Nat) : Nat := l - l % n

/-- A's register number. -/
def VF.vecA (f : VF) : Nat := match f.a with
  | .vec n => n.toNat
  | _ => 0

/-- Lane k of A, zero with FRX outside ACTIVE (R289). -/
def State.laneRead (s : State) (f : VF) (act : W64) (k : Nat) : LaneRes :=
  if act.getLsbD k then ((s.readV (VF.vecA f) k).setWidth 64, 0) else (0, Flag.frx)

/-- A lane move: `pick` names the lane read. -/
def runMove (r : VRule) (f : VF) (s : State) (pick : State → Nat → Nat) : Out :=
  runVec r f s fun s act l => s.laneRead f act (pick s l)

/-- B read as n32 at a lane. -/
def State.laneB (s : State) (f : VF) (l : Nat) : Nat := ((s.srcLane .n32 f.ext f.b l).setWidth 32).toNat
def execShflIdx (f : VF) (s : State) : Out :=
  runMove (Rule.seg2 .raw) f s fun s l => segStart (VF.seg f) l + s.laneB f l % VF.seg f
def execShflXor (f : VF) (s : State) : Out :=
  runMove (Rule.seg2 .raw) f s fun s l => segStart (VF.seg f) l + (l % VF.seg f ^^^ s.laneB f l) % VF.seg f
def execVbcast (f : VF) (s : State) : Out :=
  runMove (Rule.seg2 .scaInl) f s fun s l => segStart (VF.seg f) l + s.laneB f l % VF.seg f
def execVrev (f : VF) (s : State) : Out :=
  runMove Rule.seg1 f s fun _ l => segStart (VF.seg f) l + (VF.seg f - 1 - l % VF.seg f)

/-- The operation code of VRED and VSCAN, B = 0x200 + op (R290). -/
def VF.redOp (f : VF) : Nat := match f.b with
  | .inl k => k.toNat
  | _ => 0

/-- An integer node (R290). -/
def intNode (t : ETy) (op a b : Nat) : Nat :=
  match op with
  | 0 => (a + b) % 2 ^ 32
  | 1 => if intOf t b < intOf t a then b else a
  | 2 => if intOf t a < intOf t b then b else a
  | 3 => a &&& b
  | 4 => a ||| b
  | _ => a ^^^ b

/-- A float node: one RNE rounding, canonical NaN (R220, R290). -/
def floatNode (op : Nat) (a b : Nat) : Nat × Flags :=
  let x := fp32.decode a
  let y := fp32.decode b
  if op = 0 then
    let t := x.add false y
    let z := fp32.write 1 0 false false t.1
    (z.1, srcFlags [x, y] ||| t.2 ||| z.2)
  else (fp32.exact (x.minmax (op != 1) false y), srcFlags [x, y])

/-- A position's value, when present, and its flags. -/
abbrev Cell := Option (Nat × Flags)

/-- A node of a tree: two present children combine, one passes through (R220, R221). -/
def node (op : Nat → Nat → Nat × Flags) (a b : Cell) : Cell :=
  match a, b with
  | some x, some y => let z := op x.1 y.1; some (z.1, x.2 ||| y.2 ||| z.2)
  | some x, none => some x
  | none, y => y

/-- The reduction tree of a segment of 2^g positions at p (R220). -/
def redTree (op : Nat → Nat → Nat × Flags) (x : Nat → Cell) : Nat → Nat → Cell
  | 0, p => x p
  | g + 1, p => node op (redTree op x g p) (redTree op x g (p + 2 ^ g))

/-- The inclusive scan: level k combines position l - 2^k with l inside the segment of n (R221). -/
def scanLevels (op : Nat → Nat → Nat × Flags) (n : Nat) (x : List Cell) : Nat → Nat → List Cell
  | 0, _ => x
  | levels + 1, k =>
    let y := lanes.map fun l =>
      if 2 ^ k ≤ l % n then node op ((x.getD (l - 2 ^ k) none)) (x.getD l none) else x.getD l none
    scanLevels op n y levels (k + 1)

/-- The lanes of A as cells of an integer or float reduction; DAZ and amax apply to floats (R220, R290). -/
def State.redCell (s : State) (f : VF) (flt : Bool) (act : W64) (l : Nat) : Cell :=
  if act.getLsbD l then
    let x := (s.readV (VF.vecA f) l).toNat
    if flt then
      let v := fp32.read (fmtDaz s.st.fmt) x
      let v := if VF.redOp f = 3 then v.abs else v
      some (fp32.exact v, if v.isNan || v.isInf then srcFlags [v] else 0)
    else some (x, 0)
  else none

/-- A float result: canonical NaN and FTZ (R205, R206). -/
def State.redWrite (s : State) (flt : Bool) (c : Nat × Flags) : LaneRes :=
  if flt then
    let y := fp32.write 1 0 false (fmtFtz s.st.fmt) (fp32.decode c.1)
    (BitVec.ofNat 64 y.1, c.2 ||| y.2)
  else (BitVec.ofNat 64 c.1, c.2)

/-- The node operation of VRED and VSCAN. -/
def VF.nodeOp (f : VF) (flt : Bool) (a b : Nat) : Nat × Flags :=
  if flt then floatNode (VF.redOp f) a b else (intNode f.ty (VF.redOp f) a b, 0)

def runVred (flt : Bool) (r : VRule) (f : VF) (s : State) : Out :=
  runVec r f s fun s act l =>
    match redTree (VF.nodeOp f flt) (s.redCell f flt act) (f.sub.toNat % 8) (segStart (VF.seg f) l) with
    | some c => s.redWrite flt c
    | none => (0, 0)
def execVredInt (f : VF) (s : State) : Out := runVred false Rule.redInt f s
def execVredFloat (f : VF) (s : State) : Out := runVred true Rule.redFlt f s

/-- Identities of the exclusive scan (R291). -/
def scanIdentity (flt : Bool) (t : ETy) (op : Nat) : Nat :=
  if flt then (match op with
    | 1 => 0x7F800000
    | 2 => 0xFF800000
    | _ => 0)
  else match op with
    | 1 => if t.signed then 0x7FFFFFFF else 0xFFFFFFFF
    | 2 => if t.signed then 0x80000000 else 0
    | 3 => 0xFFFFFFFF
    | _ => 0

def runScan (flt : Bool) (r : VRule) (f : VF) (s : State) : Out :=
  runVec r f s fun s act l =>
    let xs := scanLevels (VF.nodeOp f flt) (VF.seg f) (lanes.map (s.redCell f flt act)) (f.sub.toNat % 8) 0
    let ex := f.sub.getLsbD 3
    let cell := if ex then (if l % VF.seg f = 0 then none else xs.getD (l - 1) none) else xs.getD l none
    -- an exclusive scan shifts the inclusive results, so a position's own flags are raised as well (R211, R221)
    let own : Flags := if ex then ((xs.getD l none).map Prod.snd).getD 0 else 0
    match cell with
    | some c => let y := s.redWrite flt c; (y.1, y.2 ||| own)
    | none => (BitVec.ofNat 64 (scanIdentity flt f.ty (VF.redOp f)), own)
def execVscanInt (f : VF) (s : State) : Out := runScan false Rule.scanInt f s
def execVscanFloat (f : VF) (s : State) : Out := runScan true Rule.scanFlt f s

/-- R292. -/
def execVext (f : VF) (s : State) : Out :=
  runVec Rule.vext f s fun s _ l =>
    ((BitVec.ofInt 32 (intOf f.ty (elemOf f.ty (s.srcLane f.ty f.ext f.a l) f.sub.toNat))).setWidth 64, 0)

/-- A lane with element k replaced. -/
def setElem (t : ETy) (lane : W64) (k e : Nat) : W64 :=
  BitVec.ofNat 64 (laneOf t ((List.range t.elems).map fun i => if i = k then e else elemOf t lane i))
def execVins (f : VF) (s : State) : Out :=
  runVec Rule.vins f s fun s _ l =>
    (setElem f.ty (s.srcLane f.ty f.ext f.a l) f.sub.toNat (elemOf f.ty (s.srcLane f.ty f.ext f.b l) 0), 0)

/-- R293: the j-th selected lane of the segment supplies position j. -/
def execVcompact (f : VF) (s : State) : Out :=
  runVec Rule.compact f s fun s act l =>
    let n := VF.seg f
    let sel := ((List.range n).map (segStart n l + ·)).filter fun k =>
      act.getLsbD k && (s.readM f.b.mask.toNat).getLsbD k
    match sel[l % n]? with
    | some k => ((s.readV (VF.vecA f) k).setWidth 64, 0)
    | none => (0, 0)

/-- The item and offset of a position of the flattened set of a segment (R294). `k` is the next item, `p` the lengths
before it, `found` the last item of nonzero length that starts at or before the position. -/
def raggedAt (pos : Nat) : List Nat → Nat → Nat → Option (Nat × Nat) → Option (Nat × Nat)
  | [], _, p, found => if p ≤ pos then none else found
  | c :: cs, k, p, found =>
    raggedAt pos cs (k + 1) (p + c) (if 0 < c ∧ p ≤ pos then some (k, pos - p) else found)
def execVragg (f : VF) (s : State) : Out :=
  runVec Rule.vragg f s fun s act l =>
    let n := VF.seg f
    let b := segStart n l
    let cnt := (List.range n).map fun j => if act.getLsbD (b + j) then (s.readV (VF.vecA f) (b + j)).toNat else 0
    match raggedAt (s.laneB f l + (l - b)) cnt 0 0 none with
    | some (j, off) => (BitVec.ofNat 64 (j + 2 ^ 32 * off), 0)
    | none => (0xFFFFFFFF, 0)

end Sys2Proof.Machine
end

