-- ==== Sys2Proof/Machine/VFloat.lean ====
section
/-! DEFINITION. Vector floating-point, special-function and conversion instructions (R276 to R283). -/

namespace Sys2Proof.Machine

/-- What an elementwise float operation is given: the mode, the draw of its element (R209) and FMT's bits. -/
structure FEnv where
  mode : Nat
  draw : W32
  sat : Bool
  daz : Bool
  ftz : Bool

def State.fenv (s : State) (f : VF) (l k : Nat) : FEnv :=
  let mode := s.roundMode f.rnd
  { mode, draw := if mode = 6 then s.draws l k else 0, sat := f.sat, daz := fmtDaz s.st.fmt, ftz := fmtFtz s.st.fmt }

/-- Toward negative infinity (R206). -/
def FEnv.rdn (e : FEnv) : Bool := e.mode == 3

/-- Rounds an exact result to a format with its flags (R276). -/
def FEnv.round (e : FEnv) (t : FFmt) (x : FVal × Flags) : Nat × Flags :=
  let y := t.write e.mode e.draw e.sat e.ftz x.1
  (y.1, x.2 ||| y.2)

/-- After a rounding instruction that is performed, the rounding state of the active lanes has advanced by `n` results (R209). -/
def advanced (n : Nat) (f : VF) (before : State) (o : Out) : Out :=
  match o with
  | .next t =>
    if t.st.issued = before.st.issued then o else .next (t.advance (before.roundMode f.rnd) (before.activeLanes f.h) n)
  | o => o

/-- An elementwise float instruction: `op` works on values read under DAZ. -/
def runFlt (r : VRule) (f : VF) (s : State) (op : FEnv → FVal → FVal → FVal → Nat × Flags) : Out :=
  advanced (if r.rnd then f.ty.elems else 0) f s <|
    runVec r f s fun s act l =>
      let x := s.srcs r f act l
      let es := (List.range f.ty.elems).map fun k =>
        let e := s.fenv f l k
        op e (f.ty.fmt.read e.daz (elemA f f.ty x k)) (f.ty.fmt.read e.daz (elemB f f.ty x k))
          (f.ty.fmt.read e.daz (elemC f f.ty x k))
      (BitVec.ofNat 64 (laneOf f.ty (es.map Prod.fst)), es.foldl (fun a e => a ||| e.2) x.flags)

/-- An instruction that rounds its exact result once (R276). -/
def runRound2 (r : VRule) (f : VF) (s : State) (op : Bool → FVal → FVal → FVal × Flags) : Out :=
  runFlt r f s fun e a b _ =>
    let y := e.round f.ty.fmt (op e.rdn a b)
    (y.1, srcFlags [a, b] ||| y.2)

def runRound3 (r : VRule) (f : VF) (s : State) (op : Bool → FVal → FVal → FVal → FVal × Flags) : Out :=
  runFlt r f s fun e a b c =>
    let y := e.round f.ty.fmt (op e.rdn a b c)
    (y.1, srcFlags [a, b, c] ||| y.2)

/-- An instruction that selects one of its sources (R276). -/
def runPick (r : VRule) (f : VF) (s : State) (op : FVal → FVal → FVal → FVal) (src : FVal → FVal → FVal → List FVal) : Out :=
  runFlt r f s fun _ a b c => (f.ty.fmt.exact (op a b c), srcFlags (src a b c))

def execVfadd (f : VF) (s : State) : Out := runRound2 Rule.vf2 f s fun rdn a b => a.add rdn b
def execVfsub (f : VF) (s : State) : Out := runRound2 Rule.vf2 f s fun rdn a b => a.add rdn b.negate
def execVfmul (f : VF) (s : State) : Out := runRound2 Rule.vf2 f s fun _ a b => a.mul b
def execVfma (f : VF) (s : State) : Out := runRound3 Rule.vf3 f s fun rdn a b c => a.fma rdn b c
def execVfmin (f : VF) (s : State) : Out :=
  runPick Rule.vfMin f s (fun a b _ => a.minmax false false b) fun a b _ => [a, b]
def execVfminNum (f : VF) (s : State) : Out :=
  runPick Rule.vfMin f s (fun a b _ => a.minmax false true b) fun a b _ => [a, b]
def execVfmax (f : VF) (s : State) : Out :=
  runPick Rule.vfMin f s (fun a b _ => a.minmax true false b) fun a b _ => [a, b]
def execVfmaxNum (f : VF) (s : State) : Out :=
  runPick Rule.vfMin f s (fun a b _ => a.minmax true true b) fun a b _ => [a, b]
def execVfclamp (f : VF) (s : State) : Out :=
  runPick Rule.vfClamp f s (fun a b c => (a.minmax true false b).minmax false false c) fun a b c => [a, b, c]
def execVfamax (f : VF) (s : State) : Out :=
  runPick Rule.vfMin f s (fun a b _ => a.abs.minmax true false b.abs) fun a b _ => [a, b]
/-- A bit operation: a with b's sign (R205). -/
def execVfsign (f : VF) (s : State) : Out :=
  runElems Rule.vfSign f s fun _ a b _ =>
    let top := 2 ^ (f.ty.width - 1)
    (a % top + b / top % 2 * top, 0)
def execVflrp (f : VF) (s : State) : Out :=
  runRound3 Rule.vf3 f s fun rdn a b c =>
    let d := b.add rdn a.negate
    let p := c.mul d.1
    let t := a.add rdn p.1
    (t.1, d.2 ||| p.2 ||| t.2)
/-- R276: an integral value of the same format. -/
def execVfrnd (f : VF) (s : State) : Out :=
  runFlt Rule.vfRnd f s fun e a _ _ =>
    match a with
    | .fin n m x =>
      let (i, inx) := roundInt e.mode e.draw n m x
      (f.ty.fmt.exact (.fin n i.natAbs 0), Flag.when inx Flag.inx)
    | a => (f.ty.fmt.exact a, srcFlags [a])
/-- a × 2^b: exponents beyond any FP32 result are clamped before the one rounding. -/
def execVfscale (f : VF) (s : State) : Out :=
  advanced 1 f s <|
    runVec Rule.vfScale f s fun s act l =>
      let x := s.srcs Rule.vfScale f act l
      let e := s.fenv f l 0
      let a := fp32.read e.daz (elemA f .f32 x 0)
      let b := max (-1000) (min 1000 (intOf .i32 (elemB f .i32 x 0)))
      let v := match a with
        | .fin n m k => FVal.fin n m (k + b)
        | a => a
      let y := e.round fp32 (v, 0)
      (BitVec.ofNat 64 y.1, x.flags ||| srcFlags [a] ||| y.2)
/-- c + a0 b0 + a1 b1 in FP32 (R276). -/
def execVfdot2 (f : VF) (s : State) : Out :=
  advanced 1 f s <|
    runVec Rule.vfDot2 f s fun s act l =>
      let x := s.srcs Rule.vfDot2 f act l
      let e := s.fenv f l 0
      let t := f.ty.fmt
      let a0 := t.read e.daz (elemA f f.ty x 0)
      let a1 := t.read e.daz (elemA f f.ty x 1)
      let b0 := t.read e.daz (elemB f f.ty x 0)
      let b1 := t.read e.daz (elemB f f.ty x 1)
      let c := fp32.read e.daz (elemC f .f32 x 0)
      let p0 := a0.mul b0
      let p1 := a1.mul b1
      let q := p0.1.add e.rdn p1.1
      let t := q.1.add e.rdn c
      let y := e.round fp32 (t.1, p0.2 ||| p1.2 ||| q.2 ||| t.2)
      (BitVec.ofNat 64 y.1, x.flags ||| srcFlags [a0, a1, b0, b1, c] ||| y.2)

/-- R277: no DAZ, no NF. -/
def execVfcmp (f : VF) (s : State) : Out :=
  guarded (f.named Rule.vfCmp) s fun s =>
    let act := s.activeLanes f.h
    let x (l : Nat) := s.srcs Rule.vfCmp f act l
    let c (l : Nat) := (f.ty.fmt.decode (elemA f f.ty (x l) 0)).cmp f.sub.toNat (f.ty.fmt.decode (elemB f f.ty (x l) 0))
    .next (s.maskResult Rule.vfCmp f (maskOf fun l => (c l).1) (laneFlags act fun l => (0, (x l).flags ||| (c l).2)))

/-- The class bit of a code (R277). -/
def classOf (t : FFmt) (code : Nat) : Nat :=
  let sub := code % 2 ^ (t.width - 1) < 2 ^ t.mbits
  match t.decode code with
  | .nan s => if s then 0 else 1
  | .inf n => if n then 2 else 9
  | .fin n m _ => if m = 0 then (if n then 5 else 6) else if n then (if sub then 4 else 3) else (if sub then 7 else 8)
def execVfclass (f : VF) (s : State) : Out :=
  runVec Rule.vfClass f s fun s act l =>
    let x := s.srcs Rule.vfClass f act l
    (BitVec.ofNat 64 (2 ^ classOf f.ty.fmt (elemOf f.ty x.a 0)), x.flags)

/-! ### Division, roots and special functions (R278, R279) -/

def execVfrcp (f : VF) (s : State) : Out :=
  runFlt Rule.vfRoot f s fun e a _ _ =>
    let y := e.round fp32 ((FVal.fin false 1 0).div a)
    (y.1, srcFlags [a] ||| y.2)
def execVfrsq (f : VF) (s : State) : Out :=
  runFlt Rule.vfRoot f s fun e a _ _ => let y := e.round fp32 a.rsqrt; (y.1, srcFlags [a] ||| y.2)
def execVfsqrt (f : VF) (s : State) : Out :=
  runFlt Rule.vfRoot f s fun e a _ _ => let y := e.round fp32 a.sqrt; (y.1, srcFlags [a] ||| y.2)
def execVfdiv (f : VF) (s : State) : Out := runRound2 Rule.vfDiv f s fun _ a b => a.div b

/-- A faithful function of one FP32 source. -/
def runFaithful (fn : FFun) (f : VF) (s : State) : Out :=
  runVec Rule.vfFaithful f s fun s act l =>
    let x := s.srcs Rule.vfFaithful f act l
    let y := fn.apply (fmtDaz s.st.fmt) (fmtFtz s.st.fmt) (BitVec.ofNat 32 (elemA f .f32 x 0))
    (BitVec.ofNat 64 y.1, x.flags ||| y.2)
def execVfexp2 (f : VF) (s : State) : Out := runFaithful .exp2 f s
def execVflog2 (f : VF) (s : State) : Out := runFaithful .log2 f s
def execVftanh (f : VF) (s : State) : Out := runFaithful .tanh f s
def execVferf (f : VF) (s : State) : Out := runFaithful .erf f s
def execVfsigm (f : VF) (s : State) : Out := runFaithful .sigm f s
def execVfsin (f : VF) (s : State) : Out := runFaithful .sin f s
def execVfcos (f : VF) (s : State) : Out := runFaithful .cos f s

/-! ### Conversions (R280 to R283) -/

def execVfcvtw (f : VF) (s : State) : Out :=
  runVec Rule.vfCvtw f s fun s act l =>
    let x := s.srcs Rule.vfCvtw f act l
    let v := f.ty.fmt.read (fmtDaz s.st.fmt) (elemA f f.ty x f.sub.toNat)
    (BitVec.ofNat 64 (fp32.exact v), x.flags ||| srcFlags [v])

/-- R281: one rounding into element k of the destination lane. `scaled` multiplies by B exactly (R212). -/
def runNarrowF (scaled : Bool) (r : VRule) (f : VF) (s : State) : Out :=
  advanced 1 f s <|
    runVec r f s fun s act l =>
      let x := s.srcs r f act l
      let e := s.fenv f l 0
      let a := fp32.read e.daz (elemA f .f32 x 0)
      let b := fp32.read e.daz (elemB f .f32 x 0)
      let p := if scaled then b.mul a else (a, 0)
      let y := f.ty.fmt.convert e.mode e.draw e.sat e.ftz p.1
      (setElem f.ty ((s.readV f.dst.toNat l).setWidth 64) f.sub.toNat y.1,
        x.flags ||| srcFlags (if scaled then [a, b] else [a]) ||| p.2 ||| y.2)
def execVfcvtn (f : VF) (s : State) : Out := runNarrowF false Rule.vfCvtn f s
def execVfcvts (f : VF) (s : State) : Out := runNarrowF true Rule.vfCvts f s

/-- R282: integer to FP32. -/
def runICvt (r : VRule) (f : VF) (s : State) : Out :=
  advanced 1 f s <|
    runVec r f s fun s act l =>
      let x := s.srcs r f act l
      let y := (s.fenv f l 0).round fp32 (.ofInt (intOf f.ty (elemA f f.ty x 0)), 0)
      (BitVec.ofNat 64 y.1, x.flags ||| y.2)
def execVicvtI (f : VF) (s : State) : Out := runICvt (Rule.vICvt [.i32, .i64]) f s
def execVicvtN (f : VF) (s : State) : Out := runICvt (Rule.vICvt [.n32, .n64]) f s

/-- R282: FP32 to integer. -/
def runFCvti (r : VRule) (f : VF) (s : State) : Out :=
  advanced 1 f s <|
    runVec r f s fun s act l =>
      let x := s.srcs r f act l
      let e := s.fenv f l 0
      let a := fp32.read e.daz (elemA f .f32 x 0)
      let y := a.toInt e.mode e.draw f.ty.signed f.ty.width
      (BitVec.ofInt 64 y.1, x.flags ||| srcFlags [a] ||| y.2)
def execVfcvtiI (f : VF) (s : State) : Out := runFCvti (Rule.vFCvti [.i32, .i64]) f s
def execVfcvtiN (f : VF) (s : State) : Out := runFCvti (Rule.vFCvti [.n32, .n64]) f s

/-- A packed FP4 block (R215). -/
structure Block where
  word : Nat
  scale : Nat
  flags : Flags

/-- The smallest E3M5 code whose value is at least a / 6, or 31's (R215). -/
def blockScale (a : FVal) : Nat :=
  ((List.range 0xFF).find? fun c => !(((e3m5 c).mul (.fin false 6 0)).1.lt false a)).getD 0xFE

/-- R215, for eight FP32 values. -/
def packBlock (xs : List FVal) : Block :=
  if xs.any fun x => !x.isFin then
    { word := 0, scale := 0xFF, flags := Flag.nf ||| Flag.when (xs.any FVal.isNan) Flag.inv }
  else
    let a := xs.foldl (fun m x => if m.lt false x.abs then x.abs else m) (FVal.zero)
    if a.isZero then { word := laneOf .e2m1x8 (xs.map fun x => if x.neg? then 8 else 0), scale := 0, flags := 0 }
    else
      let c := blockScale a
      let es := xs.map fun x => e2m1.convert 1 0 true false (x.div (e3m5 c)).1
      { word := laneOf .e2m1x8 (es.map Prod.fst), scale := c, flags := es.foldl (fun f e => f ||| e.2) 0 }

/-- R283: lanes 0 to 7 take the words, 8 and 9 the scales (DEDUCED, unsafe, log 31). -/
def execVfpack4 (f : VF) (s : State) : Out :=
  runVec Rule.vfPack4 f s fun s act =>
    let lane (i : Nat) : W64 × Flags := if act.getLsbD i then s.srcMod f act 1 .f32 f.a i else (0, 0)
    let val (i : Nat) : FVal := fp32.read (fmtDaz s.st.fmt) (signMod .f32 f.nega f.absa (elemOf .f32 (lane i).1 0))
    let blocks := (List.range 8).map fun b => packBlock ((List.range 8).map fun i => val (8 * b + i))
    let scales := blocks.map Block.scale
    let flags := blocks.foldl (fun a b => a ||| b.flags) (lanes.foldl (fun a i => a ||| (lane i).2) 0)
    let words := blocks.map Block.word ++ [laneOf .n8x4 (scales.take 4), laneOf .n8x4 (scales.drop 4)]
    fun l => (BitVec.ofNat 64 (words.getD l 0), flags)

/-- R283: a word and a scale read from other lanes. -/
def execVfunpk4 (f : VF) (s : State) : Out :=
  runVec Rule.vfUnpk4 f s fun s act l =>
    let rd (k : Nat) : W64 × Flags := if act.getLsbD k then s.srcMod f act 1 .i32 f.a k else (0, Flag.frx)
    let w := rd (l / 8)
    let sc := rd (8 + l / 32)
    let c := elemOf .n8x4 sc.1 (l / 8 % 4)
    let flags := w.2 ||| sc.2
    if c = 0xFF then (0x7FC00000, flags ||| Flag.nf)
    else (BitVec.ofNat 64 (fp32.exact ((e2m1.decode (elemOf .e2m1x8 w.1 (l % 8))).mul (e3m5 c)).1), flags)

end Sys2Proof.Machine
end

