-- ==== Sys2Proof/Machine/Adam.lean ====
section
/-! DEFINITION. VADAM (R284, R285). -/

namespace Sys2Proof.Machine

/-- The hyperparameter block. -/
structure AdamBlock where
  beta1 : FVal
  beta2 : FVal
  eps : FVal
  lr : FVal
  wd : FVal
  c1 : FVal
  c2 : FVal

def AdamBlock.ofBytes (daz : Bool) (bs : List W8) : AdamBlock :=
  let g (i : Nat) : FVal := fp32.read daz (leNat ((bs.drop (4 * i)).take 4))
  { beta1 := g 0, beta2 := g 1, eps := g 2, lr := g 3, wd := g 4, c1 := g 5, c2 := g 6 }

def AdamBlock.finite (b : AdamBlock) : Bool := [b.beta1, b.beta2, b.eps, b.lr, b.wd, b.c1, b.c2].all FVal.isFin

/-- One lane's outcome: the three results, or none; its flags; whether the final rounding took place. -/
structure AdamRes where
  out : Option (Nat × Nat × Nat)
  flags : Flags
  final : Bool

/-- rne: rounds an exact value to FP32 (R285); INX alone is noted. -/
def rne32 (x : FVal) : FVal × Flags :=
  let y := fp32.write 1 0 false false x
  (fp32.decode y.1, y.2 &&& Flag.inx)

/-- One lane's step. `e` holds the mode, draw and FTZ of the final rounding. -/
def adamLane (b : AdamBlock) (e : FEnv) (w m v g : FVal) : AdamRes :=
  if [w, m, v, g].any fun x => !x.isFin then { out := none, flags := Flag.nf, final := false } else
  let plus (x y : FVal) : FVal := (x.add false y).1
  let times (x y : FVal) : FVal := (x.mul y).1
  let one : FVal := .fin false 1 0
  let m1 := rne32 (plus (times b.beta1 m) (times (plus one b.beta1.negate) g))
  let v0 := rne32 (plus (times b.beta2 v) (times (plus one b.beta2.negate) (times g g)))
  let low := FVal.neg? v0.1
  let v1 : FVal := if low then FVal.zero else v0.1
  let fl := m1.2 ||| v0.2 ||| Flag.when low Flag.inv
  let num := rne32 (times m1.1 b.c1)
  let q := rne32 (times v1 b.c2)
  let root := rne32 (FVal.sqrt q.1).1
  let den := rne32 (plus root.1 b.eps)
  let fl := fl ||| num.2 ||| q.2 ||| root.2 ||| den.2
  if den.1.isZero && !num.1.isZero then { out := none, flags := fl ||| Flag.nf, final := false } else
  let u := if den.1.isZero then (FVal.zero, 0) else rne32 (num.1.div den.1).1
  let t := rne32 (plus u.1 (times b.wd w))
  let w1 := fp32.write e.mode e.draw false e.ftz (w.add e.rdn (times b.lr t.1).negate).1
  let flush (x : FVal) : Nat × Flags := fp32.write 1 0 false e.ftz x
  let fl := fl ||| u.2 ||| t.2 ||| (w1.2 &&& Flag.inx)
  if m1.1.isFin && v1.isFin && (fp32.decode w1.1).isFin then
    { out := some (w1.1, (flush m1.1).1, (flush v1).1), final := true,
      flags := fl ||| (((flush m1.1).2 ||| (flush v1).2) &&& Flag.inx) }
  else { out := none, flags := fl ||| Flag.nf, final := true }

/-- Writes the results of the lanes that have one, zeroes the inactive lanes of ZERO, and retires. -/
def State.adamResult (s : State) (f : VF) (res : Nat → AdamRes) : State :=
  let act := s.activeLanes f.h
  let wr := maskOf fun l => (s.written f.h).getLsbD l && (!act.getLsbD l || (res l).out.isSome)
  let val (k l : Nat) : W32 :=
    if act.getLsbD l then
      match (res l).out with
      | some x => BitVec.ofNat 32 (if k = 0 then x.1 else if k = 1 then x.2.1 else x.2.2)
      | none => 0
    else 0
  let lat := f.latency Rule.vAdam
  let s1 := (List.range 3).foldl (fun t k => t.writeV (f.dst.toNat + k) wr (val k) lat) s
  let s2 := if s.roundMode f.rnd = 6 then
      lanes.foldl (fun t l => if act.getLsbD l && (res l).final then t.setLfsr l (lfsrSteps (t.lfsr l) 1) else t) s1
    else s1
  (s2.orFlags (lanes.foldl (fun a l => if act.getLsbD l then a ||| (res l).flags else a) 0)).retire f.h

def execVadam (f : VF) (s : State) : Out :=
  guarded (f.named Rule.vAdam) s fun s =>
    withPlaces s .scratch (s.laneVas f.h fun _ => s.sval f.b 0 none) 32 .read servesVector fun s xs =>
      withData s (xs.take 1) 32 .rlx .wave false fun s data =>
        let daz := fmtDaz s.st.fmt
        let b := AdamBlock.ofBytes daz (data ((xs.head?.map (·.lane)).getD 0))
        if !b.finite then .next ((s.orFlags Flag.nf).retire f.h)
        else
          let act := s.activeLanes f.h
          let reg (k l : Nat) : FVal := fp32.read daz (s.readV (f.dst.toNat + k) l).toNat
          let lane (l : Nat) : AdamRes :=
            let g := s.srcMod f act 1 .f32 f.a l
            let r := adamLane b (s.fenv f l 0) (reg 0 l) (reg 1 l) (reg 2 l) (fp32.read daz (g.1.toNat % 2 ^ 32))
            { r with flags := r.flags ||| g.2 }
          .next (s.adamResult f lane)

end Sys2Proof.Machine
end

