-- ==== Sys2Proof/Machine/Atomic.lean ====
section
/-! DEFINITION. Atomics and memory-side reductions (R304 to R310). -/

namespace Sys2Proof.Machine

def AF.addrAt (f : AF) (s : State) (l : Nat) : W64 :=
  s.readS f.base.toNat + (s.indexAt f.index l <<< f.shift.toNat) + f.off.signExtend 64

/-- The element type by which VAL and CMP are read. -/
def Elem.ety : Elem → ETy
  | .i32 => .n32
  | .i64 => .n64
  | .f32 => .f32
  | .bf16x2 => .bf16x2

/-- VAL or CMP at a lane. -/
def State.atomVal (s : State) (k : Elem) (scalar : Bool) (x : Src) (l : Nat) : W64 :=
  if scalar then s.sval x 0 none else s.srcLane k.ety none x l

/-- What one lane's RMW stores: none for a failed compare. -/
abbrev Rmw := Nat → W64 → Option Nat

/-- Scopes within a core, whose RMWs are performed on its L1 copy of a line of the own die (R307). -/
def Scope.narrow : Scope → Bool
  | .wave | .squad | .core => true
  | _ => false

/-- An RMW that is performed on the L1 copy of its line and then written through (R307). -/
def State.inL1 (s : State) (narrow : Bool) (pa : Nat) (e : TlbEntry) : Bool :=
  narrow && e.cp == 0 && homeDie pa == some (dieOfCore s.sq.core)

/-- Where an RMW at home leaves the core's copy of its line: one that writes drops it (R306), and so does one that has read a later
version of a line homed elsewhere than the copy's (R104). -/
def State.rmwCopy (s : State) (pa : Nat) (e : TlbEntry) (wrote : Bool) : State :=
  let s1 := s.l2Use (lineOf pa) e.key e.cp e.c e.p
  if wrote || s.remote (dieOfCore s.sq.core) pa e.cp then s1.dropCopy s.sq.core pa else s1

/-- A write half that is performed on the L1 copy: it is on its way to the L2 (R66, R307). -/
def State.putThrough (s : State) (tag : W16) (pa : Nat) (e : TlbEntry) (bs : List W8) : State :=
  s.updCore s.sq.core fun x => { x with through := x.through ++ [{ pa, bytes := bs, key := e.key, c := e.c, p := e.p, tag }] }

/-- A lane's RMW: the old value, or none where its sector is poisoned (R305, R306, R308). -/
def State.rmwLane (s : State) (k : Elem) (tag : W16) (narrow : Bool) (g : W64 → Option Nat) (x : LaneLoc) : Option W64 × State :=
  match x.loc with
  | .sp _ _ _ => (none, s)
  | .mem pa e =>
    if s.isBad pa then (none, s)
    else if s.inL1 narrow pa e then
      let s1 := s.fillLine s.sq.core e.key e.cp true e.c e.p pa
      let old := BitVec.ofNat 64 (leNat ((List.range k.bytes).map fun i => s1.viewByte s.sq.core e.key e.cp .nothing (pa + i)))
      (some old, ((g old).map fun new => s1.putThrough tag pa e (leBytes k.bytes new)).getD s1)
    else
      let old := BitVec.ofNat 64 (leNat ((List.range k.bytes).map fun i => s.readHome e.key (pa + i)))
      match g old with
      | none => (some old, s.rmwCopy pa e false)
      | some new => (some old, (s.writeAt (e.under tag s.sq.core) pa (leBytes k.bytes new)).rmwCopy pa e true)

/-- The lanes in ascending order, each seeing the lanes before it (R305): old values, and whether any wrote. -/
def State.rmwAll (s : State) (k : Elem) (tag : W16) (narrow : Bool) (g : Rmw) : List LaneLoc → List (Nat × Option W64) × State
  | [] => ([], s)
  | x :: r =>
    let a := s.rmwLane k tag narrow (g x.lane) x
    let b := a.2.rmwAll k tag narrow g r
    ((x.lane, a.1) :: b.1, b.2)

/-- Lanes whose read half meets an uncorrectable error (R308). -/
def State.rmwHurt (s : State) (xs : List LaneLoc) : List LaneLoc := xs.filter fun x => ((LaneLoc.pa? x).map s.isBad).getD false

/-- ATOMUE of lanes, TINFO2 being the atomic's PC: the trap is taken at the PC where the stream stands (R308). -/
def State.atomue (s : State) (pc : W64) (xs : List LaneLoc) : State :=
  match xs with
  | [] => s
  | xs => s.trap { code := Cause.atomue, tpc := s.st.pc, addr := lowestVa xs, mask := lanesMask (xs.map (·.lane)), info2 := pc }

/-- A lane's outcome decides its order: the success order where it wrote, else the failure order (R306). -/
def anyAcquire (o ofail : Order) (sc : Scope) (wrote failed : Bool) : Bool :=
  (wrote && readsHome o sc) || (failed && readsHome ofail sc)

/-- Addresses of lanes whose RMWs are performed at home. -/
def State.rmwHome (s : State) (narrow : Bool) (xs : List LaneLoc) : List Nat :=
  xs.filterMap fun x => match x.loc with
    | .mem pa e => if s.inL1 narrow pa e then none else some pa
    | _ => none

/-- The order by which an RMW waits and sends: a lane that fails with ORDF sc is an sc access (R102, R306, R310). -/
def rmwOrder (ords ofail : Order) : Order := if ofail = .sc then .sc else ords

/-- An RMW instruction after its checks; `put` writes the destination. -/
def rmw (f : AF) (k : Elem) (ofail : Order) (g : State → Rmw) (one : Bool) (s : State)
    (put : State → (Nat → Option W64) → State) : Out :=
  let run (s : State) (xs : List LaneLoc) : Out :=
    releasing s (rmwOrder f.ords ofail) fun s =>
    let narrow := Scope.narrow f.scope
    let s := (s.flushFor (xs.filterMap LaneLoc.pa?)).landFor (s.rmwHome narrow xs ++ s.otherThrough xs)
    let hurt := s.rmwHurt xs
    match s.violations xs with
      | v :: r => .next (s.broken (v :: r))
      | [] =>
        -- a double fault leaves nothing of the instruction performed (R366)
        if !hurt.isEmpty ∧ s.st.trap.hmode then .next (s.atomue s.st.pc hurt)
        else
          let s := s.pin
          let pc := s.st.pc
          let r := s.rmwAll k s.step16 narrow (g s) xs
          let wrote := r.1.any fun e => match e.2 with
            | some v => (g s e.1 v).isSome
            | none => false
          let failed := r.1.any fun e => match e.2 with
            | some v => (g s e.1 v).isNone
            | none => false
          let s1 := if anyAcquire f.ords ofail f.scope wrote failed then r.2.selfInvalidate s.sq.core else r.2
          let s2 := put s1 fun l => (r.1.find? fun e => e.1 == l).bind (·.2)
          .next ((s2.retire f.h).atomue pc hurt)
  if one then withOne s .global (AF.addrAt f s 0) k.bytes .atomic servesAtomic run
  else withPlaces s .global (s.laneVas f.h (AF.addrAt f s)) k.bytes .atomic servesAtomic run

/-- A vector destination: old values, one or two registers; failing lanes keep theirs (R305, R308). -/
def State.putOld (s : State) (f : AF) (k : Elem) (old : Nat → Option W64) : State :=
  match f.dst with
  | some (.vec d) =>
    let act := s.activeLanes f.h
    let keep := maskOf fun l => act.getLsbD l && (old l).isNone
    let wr := s.written f.h &&& ~~~keep
    let v (l : Nat) : W64 := if act.getLsbD l then (old l).getD 0 else 0
    let s1 := (s.writeV d.toNat wr fun l => (v l).setWidth 32).track (.vec d.toNat)
    if k = .i64 then (s1.writeV (d.toNat + 1) wr fun l => (v l >>> 32).setWidth 32).track (.vec (d.toNat + 1)) else s1
  | _ => s

/-- A scalar destination. -/
def State.putOldS (s : State) (f : AF) (old : Nat → Option W64) : State :=
  match f.dst, lanes.findSome? old with
  | some (.sca d), some v => (s.writeS d.toNat v).track (.sca d.toNat)
  | _, _ => s

def atomOp (f : AF) (k : Elem) (scalar : Bool) (s : State) : Rmw := fun l old =>
  some (k.apply f.aop f.unsignedT old.toNat (s.atomVal k scalar f.val l).toNat)

def casOp (f : AF) (k : Elem) (scalar : Bool) (s : State) : Rmw := fun l old =>
  let m := 2 ^ (8 * k.bytes)
  if old.toNat = (s.atomVal k scalar f.cmp l).toNat % m then some ((s.atomVal k scalar f.val l).toNat % m) else none

def runAtom (r : ARule) (k : Elem) (f : AF) (s : State) : Out :=
  guarded (f.named r) s fun s => rmw f k .rlx (atomOp f k false) false s fun s old => s.putOld f k old

def execAtomI32 (f : AF) (s : State) : Out := runAtom (Rule.atomI 1) .i32 f s
def execAtomI64 (f : AF) (s : State) : Out := runAtom (Rule.atomI 2) .i64 f s
def execAtomF32 (f : AF) (s : State) : Out := runAtom Rule.atomF .f32 f s

def runCas (r : ARule) (k : Elem) (f : AF) (s : State) : Out :=
  guarded (f.named r) s fun s => rmw f k f.ordf (casOp f k false) false s fun s old => s.putOld f k old

def execCas32 (f : AF) (s : State) : Out := runCas (Rule.cas 1) .i32 f s
def execCas64 (f : AF) (s : State) : Out := runCas (Rule.cas 2) .i64 f s

def execSatom (f : AF) (s : State) : Out :=
  guarded (f.named Rule.satom) s fun s => rmw f .i64 .rlx (atomOp f .i64 true) true s fun s old => s.putOldS f old
def execScas (f : AF) (s : State) : Out :=
  guarded (f.named Rule.scas) s fun s => rmw f .i64 f.ordf (casOp f .i64 true) true s fun s old => s.putOldS f old

/-! ### RED (R309, R310) -/

/-- Counts the lines of a RED instruction in the contention predictor. -/
def State.countRed (s : State) (pas : List Nat) : State :=
  s.updDie (dieOfCore s.sq.core) fun d =>
    { d with redCount := (distinct (pas.map lineOf)).foldl (fun t l =>
        if 256 ≤ t.length ∧ (t.all fun e => e.1 != l) then t else Tab.upd t (fun _ => 0) l (· + 1)) d.redCount }

/-- Merges one element into the combining buffer; a line with an element that overlaps it and is not merged with it, or a 33rd line, is
sent first. -/
def State.mergeRed (s : State) (x : RedElem) : State :=
  let d := dieOfCore s.sq.core
  let line := lineOf x.pa
  let same (y : RedElem) : Bool := y.pa == x.pa
  let alike (y : RedElem) : Bool :=
    y.kind == x.kind && y.aop == x.aop && y.unsignedT == x.unsignedT && y.key == x.key && y.c == x.c && y.p == x.p && y.tag == x.tag
  let meets (y : RedElem) : Bool :=
    decide (y.pa < x.pa + (Elem.ofCode x.kind).bytes) && decide (x.pa < y.pa + (Elem.ofCode y.kind).bytes)
  let clash := (s.die d).comb.any fun l => l.line == line && l.elems.any fun y => meets y && !(same y && alike y)
  let s1 := if clash then s.flushRed d fun l => l.line == line else s
  let s2 := if (s1.die d).comb.all (fun l => l.line != line) ∧ 32 ≤ (s1.die d).comb.length then
      let oldest := ((s1.die d).comb.head?.map (·.line)).getD 0
      s1.flushRed d fun l => l.line == oldest
    else s1
  let add (l : RedLine) : RedLine :=
    let issuers := if l.issuers.contains (waveOf s.me) then l.issuers else l.issuers ++ [waveOf s.me]
    if l.elems.any same then
      { l with issuers, elems := l.elems.map fun y => if same y then
          { y with val := BitVec.ofNat 64 ((Elem.ofCode y.kind).apply y.aop y.unsignedT y.val.toNat x.val.toNat), merged := y.merged ++ x.merged }
        else y }
    else { l with issuers, elems := l.elems ++ [x] }
  s2.updDie d fun z =>
    if z.comb.any fun l => l.line == line then { z with comb := z.comb.map fun l => if l.line = line then add l else l }
    else { z with comb := z.comb ++ [{ line, elems := [x], issuers := [waveOf s.me], since := s.cycle }] }

/-- One lane's reduction: merged where its line is hot and the order rlx, else applied at home; whether it was applied. The copies of
the issuer's core and die go (R104, R118). With a destination the merged line is sent at once, and the lane's word tells its outcome
(R310). -/
def State.redLane (s : State) (f : AF) (k : Elem) (tag : W16) (x : LaneLoc) : Bool × State :=
  match x.loc with
  | .sp _ _ _ => (false, s)
  | .mem pa e =>
    let el : RedElem := { pa, kind := k.code, aop := f.aop, unsignedT := f.unsignedT, val := s.atomVal k false f.val x.lane,
                          key := e.key, c := e.c, p := e.p, tag, merged := [s.me] }
    if s.redMeetsError e.key pa then (false, s.redFails e.key pa PathCode.core [s.me])
    else if f.ords = .rlx ∧ (s.die (dieOfCore s.sq.core)).redHot.contains (lineOf pa) ∧ e.cp < 2 then
      let s1 := ((s.landFor [pa]).mergeRed el).dropCopy s.sq.core pa
      (true, if f.dst.isNone then s1 else s1.flushFor [pa])
    else
      let s1 := (s.flushFor [pa]).landFor [pa]
      let old := leNat ((List.range k.bytes).map fun i => s1.readHome e.key (pa + i))
      let new := k.apply f.aop f.unsignedT old el.val.toNat
      (true, (s1.writeAt (e.under tag s.sq.core) pa (leBytes k.bytes new)).dropCopy s.sq.core pa)

def State.redAll (s : State) (f : AF) (k : Elem) (tag : W16) : List LaneLoc → List (Nat × Bool) × State
  | [] => ([], s)
  | x :: r =>
    let a := s.redLane f k tag x
    let b := a.2.redAll f k tag r
    ((x.lane, a.1) :: b.1, b.2)

/-- The acknowledgement: 0 for an applied lane, all ones for one that met an error. -/
def State.putAck (s : State) (f : AF) (res : List (Nat × Bool)) : State :=
  match f.dst with
  | some (.vec d) =>
    let act := s.activeLanes f.h
    (s.writeV d.toNat (s.written f.h) fun l =>
      if act.getLsbD l && res.any (fun r => r.1 == l && !r.2) then 0xFFFFFFFF else 0).track (.vec d.toNat)
  | _ => s

def runRed (r : ARule) (k : Elem) (f : AF) (s : State) : Out :=
  guarded (f.named r) s fun s =>
    withPlaces s .global (s.laneVas f.h (AF.addrAt f s)) k.bytes .atomic servesAtomic fun s xs =>
      releasing s f.ords fun s =>
        let s := (s.countRed (xs.filterMap LaneLoc.pa?)).pin
        let a := s.redAll f k s.step16 xs
        .next ((a.2.putAck f a.1).retire f.h)

def execRedI32 (f : AF) (s : State) : Out := runRed (Rule.redI 1) .i32 f s
def execRedI64 (f : AF) (s : State) : Out := runRed (Rule.redI 2) .i64 f s
def execRedF32 (f : AF) (s : State) : Out := runRed Rule.redF .f32 f s
def execRedBf16x2 (f : AF) (s : State) : Out := runRed Rule.redB .bf16x2 f s

end Sys2Proof.Machine
end

