-- ==== Sys2Proof/Machine/Records.lean ====
section
/-! DEFINITION. Records in the reserved SCM areas: the drain and shutdown records of a loss of power (R96, R97), the capture records
(R142), and the CRC-32C that they carry (R341). -/

namespace Sys2Proof.Machine

/-! ### CRC-32C (R341) -/

def crcBit (c : W32) : W32 := if c.getLsbD 0 then (c >>> 1) ^^^ 0x82F63B78 else c >>> 1

def crcByte (c : W32) (b : W8) : W32 := (List.range 8).foldl (fun c _ => crcBit c) (c ^^^ b.setWidth 32)

/-- CRC-32C of bytes (PRESUMED, unsafe, log 84). -/
def crc32c (bs : List W8) : W32 := (bs.foldl crcByte 0xFFFFFFFF) ^^^ 0xFFFFFFFF

/-! ### Places (DESIGN CHOICE, unsafe, log 67) -/

/-- The reserved SCM area of a die (R85). -/
def reservedScm (d : Nat) : Nat := 0x10000000000 + d * 0x8000000000

def drainRecordAt (d : Nat) : Nat := reservedScm d
def shutdownRecordAt : Nat := reservedScm 0 + 64
/-- A set's records on a die: one for each log slot. -/
def captureRecordAt (d q slot : Nat) : Nat := reservedScm d + 0x10000 + 128 * q + 64 * slot

/-- A record of 64 bytes: 60 bytes, and their CRC-32C (R142). -/
def sealed (bs : List W8) : List W8 :=
  let b := (bs ++ List.replicate 60 0).take 60
  b ++ bytes32 (crc32c b)

def sealHolds (bs : List W8) : Bool := bs.drop 60 == bytes32 (crc32c (bs.take 60))

/-! ### Capture records (R142) -/

def CaptureRec.bytes (r : CaptureRec) : List W8 :=
  sealed (leBytes 1 r.set ++ leBytes 1 r.slot ++ leBytes 1 r.state ++ leBytes 1 r.par ++ leBytes 2 r.step.toNat ++ leBytes 2 0 ++ leBytes 8 r.cseq ++
    leBytes 8 r.poisoned ++ bytes64 r.gtb)

/-- The record of a die for a set and slot, if its CRC is good. -/
def State.readCapture (s : State) (d q slot : Nat) : Option CaptureRec :=
  let bs := s.bytesAt (captureRecordAt d q slot) 64
  let n (o k : Nat) : Nat := leNat ((bs.drop o).take k)
  if sealHolds bs then
    some { die := d, set := n 0 1, slot := n 1 1, state := n 2 1, par := n 3 1, step := BitVec.ofNat 16 (n 4 2), cseq := n 8 8, poisoned := n 16 8,
           gtb := BitVec.ofNat 64 (n 24 8) }
  else none

/-- Every good record of the package. -/
def State.captureRecs (s : State) : List CaptureRec :=
  (List.range 4).flatMap fun d => (List.range 64).flatMap fun q => [0, 1].filterMap fun k => s.readCapture d q k

/-- A die writes a record through its OWQ. -/
def State.putRecord (s : State) (pa : Nat) (bs : List W8) : State := s.writeAt { Under.device with cp := 2, p := true, tag := s.tagOf (lineOf pa) } pa bs

/-! ### Drain records (R97) -/

structure DrainRec where
  drained : Nat
  accepted : Nat
  done : Bool
deriving DecidableEq, Repr, Inhabited

def DrainRec.bytes (r : DrainRec) : List W8 := leBytes 8 r.drained ++ leBytes 8 r.accepted ++ leBytes 8 r.done.toNat ++ List.replicate 40 0

def State.readDrain (s : State) (d : Nat) : DrainRec :=
  let a := drainRecordAt d
  { drained := (word64 ((List.range 8).map fun i => s.stored (a + i))).toNat, accepted := (word64 ((List.range 8).map fun i => s.stored (a + 8 + i))).toNat,
    done := s.stored (a + 16) == 1 }

/-- Writes a record to the media past the OWQ, which is empty or of no more use. -/
def State.storeRecord (s : State) (pa : Nat) (bs : List W8) : State :=
  let s1 := s.store pa bs
  { s1 with mediaBad := dropNats s1.mediaBad [sectorOf pa], mediaKeys := Tab.put s1.mediaKeys (fun _ => 0) (sectorOf pa) 0 }

end Sys2Proof.Machine
end

