-- ==== Sys2Proof/Machine/Sync.lean ====
section
/-! DEFINITION. Fences (R311, R113), FENCEI (R268), barriers (R169, R312), waiting on memory and waking (R313, R314). -/

namespace Sys2Proof.Machine

/-! ### Commands that a fence waits for -/

/-- Class code of an engine's opcode (R99). -/
def opClass (op : Nat) : Nat :=
  if 0x140 ≤ op ∧ op ≤ 0x147 then 1
  else if 0x14A ≤ op ∧ op ≤ 0x14C then 3
  else if 0x14D ≤ op ∧ op ≤ 0x151 then 4
  else if 0x155 ≤ op ∧ op ≤ 0x15A then 5
  else 0

/-- Whether the path of the focused stream issued the command of a number and name: under its own number of fragment, or before it
took that number (R124, R125, R168). -/
def State.issuedHere (s : State) (who : StreamId) (id : Nat) : Bool :=
  waveOf who == waveOf s.me && (who.fid == s.st.fid || s.st.earlier.any fun e => e.1 == who.fid && decide (id < e.2))

/-- Commands of a class that the focused stream issued and that have not completed; a class of writes that others make adds no
wait (R113). Macro-operations count by wave, which holds the baton. -/
def State.classBusy (s : State) (cls : Nat) : Bool :=
  if cls = 2 then (s.core s.sq.core).mq.any fun m => waveOf m.who == waveOf s.me
  else if cls = 1 ∨ cls = 3 ∨ cls = 4 then s.cmds.any fun c => s.issuedHere c.who c.id && opClass c.op == cls
  else false

/-- The acquire of a fence: copies self-invalidate at scope pkg and wider (R118). -/
def State.acquireAt (s : State) (o : Order) (sc : Scope) : State := if readsHome o sc then s.selfInvalidate s.sq.core else s

/-- What FENCE does on path core (R106, R107, R118). -/
def fenceAt (s : State) (o : Order) (sc : Scope) (h : Head) : Out := releasing s o fun s => .next ((s.acquireAt o sc).retire h)

def execFence (f : MF) (s : State) : Out := guarded (f.named Rule.fence) s fun s => fenceAt s f.order f.scope f.h

/-- An XFENCE whose first class is core: the wave's stores are performed with respect to the second class (R113). -/
def State.seenBy (s : State) (a b : Nat) : State :=
  let x := s.core s.sq.core
  if a ≠ 0 ∨ x.lags.isEmpty then s
  else s.setCore s.sq.core { x with
    lags := (x.lags.map fun l => if waveOf l.who = waveOf s.me then { l with classes := l.classes.filter (· != b) } else l).filter fun l => !l.classes.isEmpty }

def execXfence (f : MF) (s : State) : Out :=
  guarded (f.named Rule.xfence) s fun s =>
    let a := f.off.toNat % 16
    if s.classBusy a then .next (s.hold .blocked) else fenceAt (s.seenBy a (f.off.toNat / 16 % 16)) f.order f.scope f.h

/-- FENCEI: the stream's earlier stores are performed at scope pkg first, as a release has them performed (R268). -/
def execFencei (f : QF) (s : State) : Out :=
  checked (f.named Rule.qplain) s fun s =>
    releasing s .rel fun s =>
      let s1 := (s.updCore s.sq.core fun c => { c with icache := [] }).retire f.h
      .next { s1 with st := { s1.st with line := none } }

/-! ### Barriers -/

/-- BASE + OFF. -/
def State.wordAddr (s : State) (f : MF) : W64 := s.readS f.base.toNat + MF.offset f

/-- The core whose scratchpad an address of a space names, with the offset. -/
def State.spPlace (s : State) (space : Space) (va : Nat) : Nat × Nat :=
  (if space = .cluster then s.sq.core / 4 * 4 + va / 2 ^ 20 % 4 else s.sq.core, va % 2 ^ 20)

/-- GEN of a barrier word. -/
def barGen (v : W64) : W16 := (v >>> 32).setWidth 16

/-- The word after an arrival, and whether the arrival completes the generation (R169). -/
def barArrive (v : W64) : W64 × Bool :=
  let arrived := bits v 31 16 + 1
  if bits v 15 0 ≤ arrived then (setBits (setBits v 31 16 0) 47 32 ((barGen v).toNat + 1), true)
  else (setBits v 31 16 arrived, false)

/-- BAR, BARA and BARW after their checks: the mask check, then the word (R169, R312). With order ar the arrival is a release (R126). -/
def runBar (d : DUse) (f : MF) (s : State) (k : State → LaneLoc → Sp → Nat → Bool → Out) : Out :=
  guarded (f.named (Rule.bar d)) s fun s =>
    withOne s f.space (s.wordAddr f) 8 .write servesVector fun s xs =>
      if s.st.exec ≠ ~~~s.wv.exited ∨ s.st.fid ≠ 0 ∨ !s.wv.frags.isEmpty then trapAt s Cause.barmask (s.wordAddr f) s.st.exec 0 0 0
      else match xs with
        | x :: _ =>
          match x.loc with
          | .sp t off own =>
            if s.locBad .nothing x.loc 8 then .next (s.consume .media (s.wordAddr f) s.st.exec 1)
            else releasing s f.order fun s => k s x t off own
          | .mem _ _ => .next (s.retire f.h)
        | [] => .next (s.retire f.h)

/-- With order ar and a scope of pkg or wider, the passing of a barrier is an acquire that drops the copies (R118, R126). -/
def State.passBar (s : State) (f : MF) : State := s.acquireAt f.order f.scope

/-- An arrival: the state with the new word, the old word, and whether the generation is complete. -/
def State.arriveAt (s : State) (t : Sp) (off : Nat) (own : Bool) : State × W64 × Bool :=
  let old := word64 (s.spBytes t off 8)
  let r := barArrive old
  ((if own then s else s.pin).spWriteAt t off (bytes64 r.1), old, r.2)

def execBar (f : MF) (s : State) : Out :=
  runBar .none f s fun s x t off own =>
    let r := s.arriveAt t off own
    let s1 := r.1.retire f.h
    if r.2.2 then .next (s1.passBar f)
    else
      let p := s.spPlace f.space x.va
      .next (s1.hold (.barrier p.1 p.2 (barGen r.2.1) (readsHome f.order f.scope)))

def execBara (f : MF) (s : State) : Out :=
  runBar .sdst f s fun s _ t off own =>
    let r := s.arriveAt t off own
    .next (((r.1.writeS (Reg.num f.data) ((barGen r.2.1).setWidth 64)).track (.sca (Reg.num f.data))).retire f.h)

def execBarw (f : MF) (s : State) : Out :=
  runBar .ssrc f s fun s x t off _ =>
    let g := barGen (word64 (s.spBytes t off 8))
    let mine : W16 := (s.readS (Reg.num f.data)).setWidth 16
    let s1 := s.retire f.h
    let p := s.spPlace f.space x.va
    let s2 := if g = mine then s1.hold (.barrier p.1 p.2 mine (readsHome f.order f.scope)) else s1.passBar f
    .next (if s.hasSibling then s.detachSelf s2 else s2)

/-! ### WAITA and WAKEA -/

def servesWait : PageKind → Bool
  | .memory | .host => true
  | _ => false

/-- x cc c, unsigned, by SUB (R313). -/
def waitTest (sub x c : Nat) : Bool := cmpInt sub x c

/-- The wait of an address. -/
def State.waitOn (s : State) (f : MF) (x : LaneLoc) : Wait :=
  match x.loc with
  | .mem pa _ => .waitMem pa
  | .sp _ _ _ => let p := s.spPlace f.space x.va; .waitScratch p.1 p.2

/-- A word of memory that is read again is read at its home: the copies that the core's die holds of it may be older than the write that
is waited for (R104, R313) (DEDUCED, unsafe, log 106). -/
def State.dropWaited (s : State) (w : Wait) : State :=
  match w with
  | .waitMem pa => s.dropCopy s.sq.core pa
  | _ => s

def runWaita (w : Width) (f : MF) (s : State) : Out :=
  guarded (f.named (Rule.waita w)) s fun s =>
    withOne s f.space (s.wordAddr f) w.bytes .read servesWait fun s xs =>
      withData s xs w.bytes f.order f.scope true fun s1 data =>
        let v := leNat (data ((xs.head?.map (·.lane)).getD 0))
        let c := (s.sval f.index 0 none).toNat % 2 ^ (8 * w.bytes)
        let t := if waitTest f.sub.toNat v c then
            ((s1.writeS (Reg.num f.data) (BitVec.ofNat 64 v)).track (.sca (Reg.num f.data))).retire f.h
          else
            let wait := (xs.head?.map (s.waitOn f)).getD .blocked
            (s1.dropWaited wait).hold wait
        .next (if s.hasSibling then s.detachSelf t else t)

def execWaita32 (f : MF) (s : State) : Out := runWaita .b32 f s
def execWaita64 (f : MF) (s : State) : Out := runWaita .b64 f s

/-- Wakes the streams that satisfy a test of their wait: their WAITA is issued again. -/
def State.wakeWhere (s : State) (p : Wait → Bool) : State :=
  if s.everySquad.any fun q => q.streams.any fun e => p e.2.wait then
    s.mapStreams fun _ _ x => if p x.wait then { x with wait := .blocked } else x
  else s

/-- The words that WAKEA names, by 8 bytes. -/
def wakesMem (pa : Nat) : Wait → Bool
  | .waitMem a => a / 8 == pa / 8
  | _ => false

def wakesScratch (c off : Nat) : Wait → Bool
  | .waitScratch a b => a == c && b / 8 == off / 8
  | _ => false

def execWakea (f : MF) (s : State) : Out :=
  guarded (f.named Rule.wakea) s fun s =>
    let a := s.wordAddr f
    if f.space = .global ∨ f.space = .param then
      if noncanon a then prot s 6 a s.st.exec
      else match s.prefetchEntry a.toNat with
        | none => .next (s.retire f.h)
        | some (e, s1) =>
          if e.r && servesWait (s1.pageKind e a.toNat) && a.toNat % f.width.bytes == 0 then
            .next ((s1.wakeWhere (wakesMem (e.pa a.toNat))).retire f.h)
          else .next (s1.retire f.h)
    else
      withOne s f.space a f.width.bytes .read servesVector fun s xs =>
        match xs with
        | x :: _ => let p := s.spPlace f.space x.va; .next ((s.wakeWhere (wakesScratch p.1 p.2)).retire f.h)
        | [] => .next (s.retire f.h)

end Sys2Proof.Machine
end

