-- ==== Sys2Proof/Machine/Persist.lean ====
section
/-! DEFINITION. Persistence: pushes, PBAR and the OWQ's state (R91 to R94, R315, R316, R319), the step and its captures
(R134 to R139, R317, R318). -/

namespace Sys2Proof.Machine

/-! ### Persist scopes (R92, R93, R141) -/

/-- The entry that settled the push has drained to SCM; every push is settled as it is made. -/
def State.atMedia (s : State) (p : Push) : Bool :=
  match p.seq with
  | some n => decide (n ≤ (s.die p.die).owqDrained)
  | none => true

/-- Striped sets whose live range holds a line of a die. -/
def State.stripedSets (s : State) (d line : Nat) : List SnapSet :=
  (List.range 64).filterMap fun q =>
    let ctl := s.snapCtl q
    let lo := lineOf (s.rbase q d)
    if ctl.getLsbD 0 ∧ bits ctl 5 4 ≠ 0 ∧ lo ≤ line ∧ line < lo + s.rsize q d / 128 then some (s.snap q) else none

/-- The push has reached stripe scope: at media, and a FIXED capture contains it or a later version. -/
def State.atStripe (s : State) (p : Push) : Bool :=
  s.atMedia p && (s.stripedSets p.die p.line).all fun c => c.fvalid && tagLe p.tag c.fstep

/-- Every push of the stream has reached a scope: 0 owq, 1 media, 2 stripe. -/
def State.reached (s : State) (scope : Nat) : Bool :=
  match scope with
  | 0 => true
  | 1 => s.st.pushes.all s.atMedia
  | _ => s.st.pushes.all s.atStripe

/-! ### Pushes (R315) -/

/-- 64 KiB pages that a range of addresses touches, each with its lowest address in the range. -/
def pagesOf (a n : Nat) : List Nat :=
  (List.range ((a + n) / 2 ^ 16 - a / 2 ^ 16 + 1)).map fun i => if i = 0 then a else (a / 2 ^ 16 + i) * 2 ^ 16

/-- Pages translated in order up to the first that is not: the entries, and the first failing page's address. -/
def State.pagePrefix (s : State) : List Nat → List (Nat × TlbEntry) × Option (Nat × Lookup)
  | [] => ([], none)
  | va :: r =>
    match s.translate (s.uniform (BitVec.ofNat 64 va)) .read servesVector with
    | .ok ((_, _, e) :: _) => let t := s.pagePrefix r; ((va, e) :: t.1, t.2)
    | l => ([], some (va, l))

/-- The lines of [a, a + n] that lie in a page. -/
def linesIn (a n va : Nat) (e : TlbEntry) : List Nat :=
  let last := min (a + n) (va / 2 ^ 16 * 2 ^ 16 + 65535)
  (List.range (last / 128 - va / 128 + 1)).map fun i => e.pa (va / 128 * 128 + 128 * i)

/-- Pushes the lines of the pages; those of pages with P = 0 are not pushed. -/
def State.pushPages (s : State) (a n : Nat) (ps : List (Nat × TlbEntry)) : State :=
  ps.foldl (fun s p => if p.2.p then (linesIn a n p.1 p.2).foldl (fun s pa => s.pushLine pa) s else s) s

/-- PFLUSH: SHIFT is 0 (DEDUCED, unsafe, log 32). The pages before one that misses are pushed before the stream parks, and only once
(R29). -/
def execPflush (f : MF) (s : State) : Out :=
  guarded (f.named Rule.pflush) s fun s =>
    let a := s.readS f.base.toNat + MF.offset f
    let n := (s.sval f.index 0 none).toNat - 1
    if noncanon a ∨ 2 ^ 55 ≤ a.toNat + n then prot s 6 (if noncanon a then a else 0x80000000000000) s.st.exec
    else
      let r := s.pagePrefix ((pagesOf a.toNat n).drop s.st.flushed)
      let clear (s : State) : State := { s with st := s.st.cleared }
      let done := if r.1.isEmpty then s else (s.pushPages a.toNat n r.1).pin
      match r.2 with
      | some (_, .miss need) =>
        let t := done.park need .read false (kindsOf servesVector)
        .next { t with st := { t.st with flushed := t.st.flushed + r.1.length } }
      | some (_, .trap code addr mask i0 i1) => trapAt (clear done) code addr mask i0 i1 0
      | some (_, .ok _) => .next (s.retire f.h)
      | none => .next ((clear ((s.pushPages a.toNat n r.1).pin)).retire f.h)

def execPflushv (f : MF) (s : State) : Out :=
  guarded (f.named Rule.lineOp) s fun s =>
    withLanes s (s.laneVas f.h (s.addrAt f)) 1 .read servesVector fun s ys =>
      let xs := ys.map fun x => LaneLoc.mk x.1 x.2.1 (.mem (x.2.2.pa x.2.1) x.2.2)
      .next (((linesOf xs).foldl (fun s l => if l.2.p then s.pushLine l.1 else s) s.pin).retire f.h)

def execPbar (f : MF) (s : State) : Out :=
  guarded (f.named Rule.pbar) s fun s =>
    let s := s.pin
    if s.reached f.sub.toNat then .next (s.retire f.h) else .next (s.hold (.pbar f.sub.toNat (stallOf f.h)))

/-! ### PSTAT (R91, R319) -/

/-- OWQSTAT of a die. -/
def State.owqstat (s : State) (d : Nat) : W64 :=
  let x := s.die d
  BitVec.ofNat 64 (min x.owq.length owqCap + (if x.owqHeld then 2 ^ 19 else 0) + (if owqCap ≤ x.owq.length then 2 ^ 20 else 0) +
    x.owqDrained % 2 ^ 32 * 2 ^ 32)

def execPstat (f : MF) (s : State) : Out :=
  guarded (f.named Rule.pstat) s fun s =>
    let pend : W64 := if s.st.pushes.all s.atMedia then 0 else 0x400000
    let lat := if f.sub.toNat = dieOfCore s.sq.core then 190 else 430
    .next ((s.writeTracked (Reg.num f.data) (s.owqstat f.sub.toNat ||| pend) lat).retire f.h)

/-! ### The step (R134 to R136, R317) -/

/-- How the device writes its own structures through a partition's page. -/
def TlbEntry.device (e : TlbEntry) (tag : W16) : Under := { key := e.key, cp := 0, c := e.c, p := e.p, tag, core := none }

/-- The sets bound to the focused instance's step holder. -/
def State.bound (s : State) (q : Nat) : Bool :=
  let ctl := s.snapCtl q
  ctl.getLsbD 0 && bits ctl 51 48 == s.sq.inst.part && s.reg (Mmio.snapSet q + 8) == s.sq.inst.region.stepRcb

/-- R135: the new step lies 16,384 or more after the last finished walk of a bound set, and not before it. -/
def State.outOfWindow (s : State) (step : W16) : Bool :=
  (List.range 64).any fun q =>
    let n := (step - (s.snap q).lstep).toNat
    s.bound q && (s.snap q).walkedOnce && decide (16384 ≤ n) && decide (n < 32768)

/-- Commands and macro-operations of the stream that its fence to every class waits for. -/
def State.anyBusy (s : State) : Bool := [1, 2, 3, 4].any s.classBusy

/-- Writes the holder's step; one whose page is not mapped stays as it is (DESIGN CHOICE, unsafe, log 127). -/
def State.putStep (s : State) (step : W16) : State :=
  let va := s.sq.inst.region.stepRcb.toNat + 0x28
  match s.deviceVa s.sq.inst.part va with
  | some e => s.writeAt (e.device step) (e.pa va) (leBytes 2 step.toNat)
  | none => s

/-- The status register of STEPSET and SNAP. -/
def State.putStatus (s : State) (f : MF) (code : W64) : State :=
  ((s.writeS (Reg.num f.data) code).track (.sca (Reg.num f.data))).retire f.h

def execStepset (f : MF) (s : State) : Out :=
  guarded (f.named Rule.stepset) s fun s =>
    let s := s.pin
    if s.anyBusy || s.windowOwed then .next (s.hold .blocked)
    else
      let step := s.step16 + 1
      let s := s.flushMine.selfInvalidate s.sq.core
      if s.outOfWindow step then .next (s.putStatus f 3) else .next ((s.putStep step).putStatus f 0)

/-! ### SNAP (R136, R139, R318) -/

/-- The set's stripe group is in member recovery, which begins as the loss is detected (R136, R145). -/
def State.inMemberRecovery (s : State) (q : Nat) : Bool :=
  (s.snap q).state == 5 || (s.recovery.map fun r => r.affected.contains q).getD false

/-- The refusal of a SNAP, 0 where it is accepted. -/
def State.snapRefusal (s : State) (q : Nat) (n : W16) : W64 :=
  if 63 < q ∨ !s.bound q then 4
  else if s.inMemberRecovery q then 5
  else if (s.snap q).state = 1 ∨ (s.snap q).state = 2 then 1
  else if s.step16 ≠ n then 2
  else 0

/-- STATUS of a set's descriptor (R137). -/
def State.publishSnap (s : State) (q : Nat) : State :=
  let c := s.snap q
  s.setReg (Mmio.snapSet q + 0xC0) (BitVec.ofNat 64 (c.cseq % 2 ^ 32 * 2 ^ 32 + c.fstep.toNat * 2 ^ 16 + c.lstep.toNat))

/-- A die's record of a set's capture. -/
def State.captureRec (s : State) (q d : Nat) : CaptureRec :=
  let c := s.snap q
  { die := d, set := q, slot := c.cseq % 2, par := if c.state = 3 then c.fpar else c.cseq % 2, step := c.cstep, cseq := c.cseq, state := c.state,
    poisoned := Tab.getD c.poisoned (fun _ => 0) d, gtb := s.gtb }

/-- Each die writes, or rewrites, its record of a set's capture through its OWQ: at the SNAP, at DEVELOPED and at FIXED (R142). -/
def State.recordCapture (s : State) (q : Nat) : State :=
  (List.range 4).foldl (fun s d => let r := s.captureRec q d; s.putRecord (captureRecordAt d q r.slot) r.bytes) (s.publishSnap q)

def execSnap (f : MF) (s : State) : Out :=
  guarded (f.named Rule.snap) s fun s =>
    let s := s.pin
    let q := (s.readS f.base.toNat).toNat
    let n : W16 := (s.sval f.index 0 none).setWidth 16
    let code := s.snapRefusal q n
    if code ≠ 0 then .next (s.putStatus f code)
    else
      let c := s.snap q
      let c' : SnapSet := { c with state := 1, cseq := c.cseq + 1, cstep := n, cause := 0, walked := [], poisoned := [], sent := [], awaits := [],
                                   parityFailed := false }
      .next (((s.setSnap q c').recordCapture q).putStatus f 0)

end Sys2Proof.Machine
end

