-- ==== Sys2Proof/Machine/Engine.lean ====
section
/-! DEFINITION. What the engine instructions share (R321, R322, R417): operands, completion words, the issuing squad's
scratchpad wherever it lies, translation by an engine (R37), commands issued, ended and cancelled. -/

namespace Sys2Proof.Machine

/-! ### Issue -/

/-- The values of the six D fields; a field that is not named is s0, which is zero. -/
def State.dvals (s : State) (f : XF) : List W64 := f.d.map fun n => s.readS n.toNat

def dval (d : List W64) (k : Nat) : W64 := d.getD k 0

/-- Number of the register that a D field names. -/
def dreg (f : XF) (k : Nat) : Nat := (f.d.getD k 0).toNat

/-- Writes a tracked scalar output. -/
def State.output (s : State) (f : XF) (k : Nat) (v : W64) (lat : Nat) : State := s.writeTracked (dreg f k) v lat

/-- A trap of an engine instruction at an address, every lane of EXEC being its own. -/
def State.protX (s : State) (reason : Nat) (addr : W64) : Out := prot s reason addr s.st.exec

/-- R417, R321: what is wrong with a register that names a word or an area of `align` bytes. -/
inductive WordFault where
  | form | misaligned | unowned
deriving DecidableEq, Repr

def State.wordFault (s : State) (v : W64) (align : Nat) (clusterOk : Bool) : Option WordFault :=
  let cl := v.getLsbD 22
  if (v >>> 23) != 0 || (!cl && bits v 21 20 != 0) || (cl && !clusterOk) then some .form
  else if v.toNat % align != 0 then some .misaligned
  else if (s.spLoc cl (v.toNat % 2 ^ 22)).isNone then some .unowned
  else none

/-- Runs an instruction whose operand `v` names a completion word or area, or traps (R416, R417). -/
def withWord (s : State) (v : W64) (align : Nat) (clusterOk : Bool) (k : State → Out) : Out :=
  match s.wordFault v align clusterOk with
  | some .form => s.protX 6 v
  | some .misaligned => misalign s v s.st.exec
  | some .unowned => s.protX 8 v
  | none => k s

/-! ### Squads by number -/

/-- Pins an instance. -/
def State.pinSquad (s : State) (sid : Nat) : State :=
  if s.sq.sid = sid then s.pin
  else s.mapSquads fun q => if q.sid = sid then { q with inst := { q.inst with pinned := true } } else q

/-- Where a squad's own scratchpad offset lies, if it owns the stripe (R43, R195). -/
def State.ownSp (s : State) (sid off : Nat) : Option Sp :=
  match s.squad? sid with
  | some q =>
    if q.place ≠ .discarded ∧ q.stripes.contains (stripeOf off) then some (if q.place = .resident then .core q.core else .image sid)
    else none
  | none => none

/-- Where a scratch or cluster address of a command lies, and whether its own squad owns it. -/
def State.cmdSp (s : State) (c : Command) (cluster : Bool) (va : Nat) : Option (Sp × Nat × Bool) :=
  if cluster then
    if va / 2 ^ 22 ≠ 0 then none
    else (s.stripeOwner c.part (c.core / 4 * 4 + va / 2 ^ 20) (stripeOf (va % 2 ^ 20))).map fun r => (r.2, va % 2 ^ 20, r.1.sid == c.who.sid)
  else if va / 2 ^ 20 ≠ 0 then none
  else (s.ownSp c.who.sid va).map fun t => (t, va, true)

/-! ### Commands -/

/-- A new command of the focused stream. -/
def State.newCommand (s : State) (op : Nat) (d : List W64) (imm : W32) (phase : Phase) : Command :=
  { id := s.nextCmd, op, who := s.me, part := s.sq.inst.part, core := s.sq.core, code := s.whoCode, d, imm, tag := s.step16, phase,
    block := [], layout := [], denied := false, seen := [], tlb := [], asked := [], sent := 0 }

def State.addCommand (s : State) (c : Command) : State := { s with cmds := s.cmds ++ [c], nextCmd := s.nextCmd + 1 }

def State.command? (s : State) (id : Nat) : Option Command := s.cmds.find? fun c => c.id == id

def State.putCommand (s : State) (c : Command) : State := { s with cmds := s.cmds.map fun x => if x.id = c.id then c else x }

/-- The register value by which CQRY and CCNL know a command. -/
def Command.key (c : Command) : W64 := dval c.d 3

/-- Takes a command off the lists; its word is complete (R343). -/
def State.dropCommand (s : State) (c : Command) : State :=
  let s1 := { s with cmds := s.cmds.filter fun x => x.id != c.id }
  s1.updCore c.core fun x => { x with timers := x.timers.filter fun t => t.cmd != c.id, followWait := x.followWait.filter fun k => k != c.id }

/-- Notes that a squad's word is complete. -/
def State.noteWord (s : State) (sid : Nat) (v : W64) : State :=
  if s.doneWords.contains (sid, v) then s else { s with doneWords := s.doneWords ++ [(sid, v)] }

def State.noteDone (s : State) (c : Command) : State := s.noteWord c.who.sid c.key

/-! ### Completion words (R322, R417) -/

namespace Status
def ok : Nat := 0x00
def tfault : Nat := 0x01
def layout : Nat := 0x02
def prot : Nat := 0x03
def poison : Nat := 0x04
def zstd : Nat := 0x05
def zchk : Nat := 0x06
def zsize : Nat := 0x07
def cancel : Nat := 0x08
def notp : Nat := 0x09
def misalign : Nat := 0x0A
def badarg : Nat := 0x0B
def noq : Nat := 0x10
def stale : Nat := 0x11
def deferred : Nat := 0x12
def member : Nat := 0x20
def down : Nat := 0x21
def mismatch : Nat := 0x22
def nogrp : Nat := 0x23
def trimfail : Nat := 0x24
def remote : Nat := 0x25
end Status

/-- A completion word: VALUE with ERR, and DATA. -/
def wordValue (value : W32) (status : Nat) (data : W32) : W64 :=
  let err := decide (status ≠ Status.ok ∧ status ≠ Status.deferred)
  let low : W32 := (value &&& 0x7FFFFFFF) ||| (if err then 0x80000000 else 0)
  let high : W32 := if err ∨ status = Status.deferred then BitVec.ofNat 32 status else data
  (high.setWidth 64 <<< 32) ||| low.setWidth 64

/-- Writes bytes where a word register of a command says; where no squad owns the stripe, nothing (R162, R195). -/
def State.deliver (s : State) (c : Command) (v : W64) (bs : List W8) : State :=
  match s.cmdSp c (v.getLsbD 22) (v.toNat % 2 ^ 22) with
  | some (t, off, _) => s.spWriteAt t off bs
  | none => s

/-- Writes the word of an enqueue (R353, R358). -/
def State.enqWord (s : State) (e : Enqueue) (status : Nat) : State :=
  match e.word with
  | none => s
  | some (core, v, value) =>
    let c : Command := { id := 0, op := 0x160, who := e.who, part := e.part, core, code := 0, d := [0, 0, 0, BitVec.ofNat 64 v], imm := value, tag := 0,
                         phase := .running, block := [], layout := [], denied := false, seen := [], tlb := [], asked := [], sent := 0 }
    (s.noteWord e.who.sid (BitVec.ofNat 64 v)).deliver c (BitVec.ofNat 64 v) (bytes64 (wordValue value status 0))

/-- Receivers of a CPYM: cores of the cluster. -/
def receivers (c : Command) : List Nat := (List.range 4).filter fun r => (dval c.d 4).getLsbD r

/-- Where a command's word is, and its VALUE (R337, R339, R351). -/
def Command.words (c : Command) : List W64 :=
  if c.op = 0x142 then (receivers c).map fun r => dval c.d 3 + 0x400000 + BitVec.ofNat 64 (r * 2 ^ 20)
  else if 0x158 ≤ c.op ∧ c.op ≤ 0x15A then [dval c.d 3 + 8]
  else [dval c.d 3]

def Command.value (c : Command) : W32 := if 0x158 ≤ c.op ∧ c.op ≤ 0x15A then (dval c.d 4).setWidth 32 else c.imm

/-- A completion word goes through the cluster window into a stripe that the squad does not own (R158, R417). -/
def State.wordPins (s : State) (c : Command) : Bool :=
  c.words.any fun v => v.getLsbD 22 && ((s.cmdSp c true (v.toNat % 2 ^ 22)).map fun r => !r.2.2).getD false

/-- It waits for its layout record's page. -/
def Phase.isAccepting : Phase → Bool
  | .accepting _ => true
  | _ => false

/-- Its end waits for acknowledgements of peers. -/
def Phase.isDraining : Phase → Bool
  | .draining _ _ => true
  | _ => false

/-- Writes the word of a command that has ended; a copy's that goes through the cluster window into another squad's stripe pins, even where
the copy ended at its acceptance (R158). -/
def State.finishNow (s : State) (c : Command) (status : Nat) (data : W32) : State :=
  let s0 := if opClass c.op = 1 && s.wordPins c then s.pinSquad c.who.sid else s
  let s1 := (s0.dropCommand c).noteDone c
  c.words.foldl (fun s v => s.deliver c v (bytes64 (wordValue c.value status data))) s1

/-- Ends a command: its word is written once, after its last effect, which a peer may have to acknowledge (R116, R118). -/
def State.finish (s : State) (c : Command) (status : Nat) (data : W32 := 0) : State :=
  if s.windowBusy c.id then s.putCommand { c with phase := .draining status data } else s.finishNow c status data

/-- A window access ends; one that failed has stored nothing, and has read free values. The end of its command may wait for it
(DESIGN CHOICE, unsafe, log 97). -/
def State.windowEnds (s : State) (opid : Nat) (failed : Bool) : State :=
  match s.fab.window.find? fun w => w.opid == opid with
  | none => s
  | some w =>
    let s1 := { s with fab := { s.fab with window := s.fab.window.filter fun x => x.opid != opid } }
    let s2 := if !failed then s1 else if w.store then s1.note (.notice 118 (BitVec.ofNat 64 w.pa)) else s1.windowFree w.pa w.n
    match w.cmd.bind s2.command? with
    | none => s2
    | some c =>
      match c.phase with
      | .draining st data => if s2.windowBusy c.id then s2 else s2.finishNow c st data
      | _ => s2

/-! ### Translation by an engine (R37) -/

/-- What an engine finds at a byte address. -/
inductive EngAns where
  | at (l : Loc)
  | miss
  | refused
deriving DecidableEq, Repr

/-- Engines serve memory, the host window and peer windows. -/
def State.engByte (s : State) (c : Command) (space : Nat) (a : Acc) (va : Nat) : EngAns :=
  if space = 0 then
    if 2 ^ 55 ≤ va then .refused
    else match (hitIn c.tlb c.part va a c.seen).orElse fun _ => s.lookup (dieOfCore c.core) c.part va a c.seen with
      | none => .miss
      | some e => if s.pageKind e va == .mmio || !a.permits e.x e.w e.r then .refused else .at (.mem (e.pa va) e)
  else match s.cmdSp c (space == 2) va with
    | some (t, off, own) => .at (.sp t off own)
    | none => .refused

/-- PATH and WHO of an engine's miss: the issuing wave, with the class as engine index. -/
def Command.missCode (c : Command) : W32 := c.code ||| BitVec.ofNat 32 (opClass c.op * 2 ^ 12)

/-- The command waits on pages that miss. -/
def State.engineWaits (s : State) (c : Command) (need : List (Nat × Acc)) : State :=
  let s1 := need.foldl (fun s x => s.miss (dieOfCore c.core) c.part x.1 x.2 (opClass c.op) c.missCode) s
  s1.putCommand { c with phase := .waiting (distinct (need.map fun x => pageOf x.1)) }

/-- Waits until what a command reads through peer windows, at these addresses, is here, and while a module on the way retrains (R386); nothing
where it needs not (R118). -/
def State.engAsk (s : State) (c : Command) (vas : List Nat) : Option State :=
  let pas := vas.filterMap fun va => match s.engByte c 0 .read va with
    | .at (.mem pa _) => if (s.peerAt pa).isSome then some pa else none
    | _ => none
  if vas.any fun va => match s.engByte c 0 .read va with
    | .at (.mem pa _) => s.linkTrains c.core pa
    | _ => false then some s
  else match s.windowRead c.who c.part (runsOf (distinct pas)) c.asked with
  | .here => none
  | .waits s1 asked => some (s1.putCommand { c with asked })

/-- Keeps one address per page. -/
def byPage (xs : List (Nat × Acc)) : List (Nat × Acc) :=
  xs.foldl (fun a x => if a.any fun y => pageOf y.1 == pageOf x.1 && y.2 == x.2 then a else a ++ [x]) []

/-- What a command finds in a byte: what it held before a store of its squad that the command's path does not see yet (R113). -/
def State.engSees (s : State) (c : Command) (key pa : Nat) : W8 :=
  let late (l : Lag) : Bool := l.who.sid == c.who.sid && l.key == key && l.pa == pa && l.classes.contains (opClass c.op)
  match (s.core c.core).lags.find? fun l => late l && Config.storeLags l.since pa with
  | some l => l.byte
  | none => s.readHome key pa

/-- Reads bytes as an engine: their values, and whether any is poisoned or violates integrity (R79, R81). -/
def State.engRead (s : State) (c : Command) (space : Nat) (va n : Nat) : List W8 × Bool :=
  (List.range n).foldl (fun r k =>
    match s.engByte c space .read ((va + k) % 2 ^ 64) with
    | .at (.mem pa e) => (r.1 ++ [s.engSees c e.key pa], r.2 || s.isBad pa || (e.key != 0 && s.violates e.key pa))
    | .at (.sp t off _) => (r.1 ++ [s.spByte t off], r.2 || s.spBad t off)
    | _ => (r.1 ++ [0], r.2)) ([], false)

/-- The slots whose integrity an engine's read of these spans breaks, each with the first address (R79, R80): spans of a space. -/
def State.brokenKeys (s : State) (c : Command) (spans : List (Nat × Nat × Nat)) : List (Nat × Nat) :=
  spans.foldl (fun a x => (List.range x.2.2).foldl (fun a k =>
    match s.engByte c x.1 .read ((x.2.1 + k) % 2 ^ 64) with
    | .at (.mem pa e) => if e.key != 0 && s.violates e.key pa && a.all fun y => y.1 != e.key then a ++ [(e.key, pa)] else a
    | _ => a) a) []

/-- Each of them fails (R24, R82). -/
def State.failKeys (s : State) (path : Nat) (ks : List (Nat × Nat)) : State := ks.foldl (fun s k => s.keyFails k.1 k.2 path) s

/-- Addresses at which n bytes from `va` on meet another line. -/
def lineSteps (va n : Nat) : List Nat := va :: ((List.range (n / 128 + 1)).map fun i => (va / 128 + 1 + i) * 128).filter fun a => a < va + n

/-- An engine's reads go through the L2 of their lines' homes (R66, R75, R77): spans of a space. -/
def State.engTouch (s : State) (c : Command) (spans : List (Nat × Nat × Nat)) : State :=
  spans.foldl (fun s x => if x.1 ≠ 0 then s else (lineSteps x.2.1 x.2.2).foldl (fun s va =>
    match s.engByte c 0 .read (va % 2 ^ 64) with
    | .at (.mem pa e) => s.l2Use (lineOf pa) e.key e.cp e.c e.p
    | _ => s) s) s

/-- What an engine's reads that met poison or a violation leave behind: `before` is the state that they read. -/
def State.engFails (s before : State) (c : Command) (spans : List (Nat × Nat × Nat)) : State :=
  s.failKeys (opClass c.op) (before.brokenKeys c spans)

/-- Drops a die's copies of lines that its engine has written: later loads read them at home. -/
def State.dropDie (s : State) (d : Nat) (lines : List Nat) : State :=
  let f (cs : List CacheLine) := cs.filter fun c => !lines.contains c.line
  let s1 := if (s.die d).rdc.isEmpty then s else s.updDie d fun x => { x with rdc := f x.rdc }
  s1.cores.foldl (fun s e => if dieOfCore e.1 = d ∧ !e.2.l1.isEmpty then s.updCore e.1 fun x => { x with l1 := f x.l1 } else s) s1

/-- The slots whose integrity an engine's write breaks, where it merges into a sector (R79, R80): addresses of a space. -/
def State.mergeBreaks (s : State) (c : Command) (space : Nat) (vas : List Nat) : List (Nat × Nat) :=
  let at_ := vas.filterMap fun va => match s.engByte c space .write va with
    | .at (.mem pa e) => some (pa, e.key)
    | _ => none
  let hits := at_.filter fun x => x.2 != 0 && s.violates x.2 x.1
  if hits.isEmpty then []
  else
    let whole := coveredSectors (at_.map (·.1))
    (hits.filter fun x => !whole.contains (sectorOf x.1)).foldl (fun a x => if a.any fun y => y.1 == x.2 then a else a ++ [(x.2, x.1)]) []

/-- The 64-byte units of `n` bytes from `off` on that hold some of the bytes `bad`. -/
def unitsOf (off n : Nat) (bad : List Nat) : List Nat :=
  distinct ((bad.filter fun i => decide (off ≤ i) && decide (i < off + n)).map fun i => (i - off) / 64)

/-- Performs an engine's byte writes, each `(space, address, byte, poisoned)`; bytes that no place takes are lost, and so are those
that merge into a sector against its integrity key, which fails (R82). `direct` makes P lines enter their OWQ with a byte mask (R342). -/
def State.engWrite (s : State) (c : Command) (direct : Bool) (ws : List (Nat × Nat × W8 × Bool)) : State :=
  let placed := ws.filterMap fun w => match s.engByte c w.1 .write w.2.1 with
    | .at l => some (l, w.2.2.1, w.2.2.2)
    | _ => none
  let broken := s.mergeBreaks c 0 ((ws.filter fun w => w.1 == 0).map fun w => w.2.1)
  let mems := placed.filterMap fun p => match p.1 with
    | .mem pa e => if broken.any (fun b => b.1 == e.key) && s.violates e.key pa then none else some (e, [(pa, p.2.1)])
    | _ => none
  let sps := placed.filterMap fun p => match p.1 with
    | .sp t off _ => some (t, [(off, p.2.1)])
    | _ => none
  let hurt := distinct (placed.filterMap fun p => match p.1, p.2.2 with
    | .mem pa _, true => some (sectorOf pa)
    | _, _ => none)
  let badSps := placed.filterMap fun p => match p.1, p.2.2 with
    | .sp t off _, true => some (t, off)
    | _, _ => none
  let mine (w : List (Nat × W8)) : List Nat := hurt.filter fun x => w.any fun b => sectorOf b.1 == x
  -- one write for each translation, so that a line enters its OWQ once
  let es := mems.foldl (fun (a : List TlbEntry) m => if a.contains m.1 then a else a ++ [m.1]) []
  let s1 := (es.map fun e => (e, (mems.filter fun m => m.1 == e).flatMap fun m => m.2)).foldl (fun s w =>
    s.writeOut { key := w.1.key, cp := if direct then 2 else w.1.cp, c := w.1.c, p := w.1.p, tag := c.tag, core := none } c.who (some c.id) c.part
      w.2 (mine w.2)) s
  let s2 := (groupRuns sps).foldl (fun s w => s.spWrite w.1 w.2) s1
  let s3 := badSps.foldl (fun s w => s.spPoison w.1 [w.2]) s2
  (s3.dropDie (dieOfCore c.core) (distinct ((mems.flatMap fun m => m.2).map fun w => lineOf w.1))).failKeys (opClass c.op) broken

/-- A span of addresses lies in one footprint range (R336). -/
def Instance.spanInFoot (i : Instance) (lo hi : Nat) : Bool := i.footRanges.any fun r => decide (r.1 ≤ lo) && decide (hi < r.2)

end Sys2Proof.Machine
end

