-- ==== Sys2Proof/Machine/Matrix.lean ====
section
/-! DEFINITION. The matrix engine: accumulators and the baton (R188, R323, R324), macro-operations with their checks and
steps (R325 to R331), row moves and waits (R332, R333), their arithmetic (R217 to R219). -/

namespace Sys2Proof.Machine

/-! ### The baton (R188, R324) -/

/-- The focused wave. -/
def State.myWave (s : State) : WaveId := (s.sq.sid, s.wv.widx)
def State.myCore (s : State) : Core := s.core s.sq.core

def execBatonTake (f : XF) (s : State) : Out :=
  checked (f.named Rule.xplain) s fun s =>
    let w := s.myWave
    let take (x : Core) : Core :=
      if x.baton = none then { x with baton := some w, hold := 0, grantAt := s.cycle + 2 }
      else if x.baton = some w ∨ x.fifo.contains w then x
      else { x with fifo := x.fifo ++ [w] }
    .next ((s.updCore s.sq.core take).retire f.h)

def execBatonPass (f : XF) (s : State) : Out :=
  checked (f.named Rule.xplain) s fun s =>
    let w := s.myWave
    let pass (x : Core) : Core :=
      if x.baton = some w then x.passBaton s.cycle
      else { x with fifo := x.fifo.filter fun y => decide (y ≠ w), returning := x.returning.filter fun y => decide (y ≠ w) }
    .next ((s.updCore s.sq.core pass).retire f.h)

/-- Position in the waiter FIFO, 1 at its head; 0 when not in it. -/
def fifoPos (w : WaveId) : List WaveId → Nat
  | [] => 0
  | x :: r => if x = w then 1 else match fifoPos w r with
    | 0 => 0
    | n + 1 => n + 2

def execBatonQuery (f : XF) (s : State) : Out :=
  checked (f.named Rule.xout0) s fun s =>
    let x := s.myCore
    let w := s.myWave
    let pos := fifoPos w x.fifo
    let v := (if x.baton = some w then 1 else 0) + (if pos ≠ 0 then 2 else 0) + (if x.returning.contains w then 4 else 0) + 256 * pos
    .next ((s.output f 0 (BitVec.ofNat 64 v) 4).retire f.h)

/-! ### Tiles (R323) -/

def tileKey (t i j : Nat) : Nat := 16384 * t + 128 * i + j

def Core.tile (x : Core) (t i j : Nat) : W32 := x.tiles.get0 (tileKey t i j)

def Core.ownerOf (x : Core) (t : Nat) : Option WaveId := (x.tileOwner.find? fun e => e.1 == t).map (·.2)

/-- Tiles of a mask. -/
def tilesOf (m : Nat) : List Nat := (List.range 8).filter fun t => m / 2 ^ t % 2 == 1

/-- Sets every element of a tile to zero. -/
def Core.zeroTile (x : Core) (t : Nat) : Core :=
  { x with tiles := x.tiles.keep fun k => k / 16384 != t, tilePoison := x.tilePoison.filter fun k => k / 16384 != t }

/-- Every tile of the mask is free or the wave's. -/
def Core.grantable (x : Core) (w : WaveId) (m : Nat) : Bool :=
  (tilesOf m).all fun t => match x.ownerOf t with
    | none => true
    | some o => o == w

/-- Grants the mask, zeroing the tiles that are new to the wave. -/
def Core.grantTiles (x : Core) (w : WaveId) (m : Nat) : Core :=
  (tilesOf m).foldl (fun x t => if (x.ownerOf t).isSome then x else { (x.zeroTile t) with tileOwner := x.tileOwner ++ [(t, w)] }) x

/-- Masks of waiters that have waited 65,536 cycles, ORed. -/
def starvedMask (cycle : Nat) (ws : List MacqWait) : Nat :=
  (ws.filter fun e => decide (e.since + 65536 ≤ cycle)).foldl (fun a e => a ||| e.mask) 0

/-- Examines the waiters in arrival order, granting those whose whole mask can be granted. -/
def Core.examine (x : Core) (cycle : Nat) : List MacqWait → Nat → Core
  | [], _ => x
  | e :: r, barred =>
    if x.grantable (waveOf e.who) e.mask && e.mask &&& barred == 0 then
      { (x.grantTiles (waveOf e.who) e.mask) with macqWait := x.macqWait.filter fun y => y != e }.examine cycle r barred
    else x.examine cycle r (if e.since + 65536 ≤ cycle then barred ||| e.mask else barred)

/-- Frees tiles that satisfy a test, and examines the waiters. -/
def Core.freeTiles (x : Core) (cycle : Nat) (p : Nat × WaveId → Bool) : Core :=
  let x1 := { x with tileOwner := x.tileOwner.filter fun e => !p e }
  x1.examine cycle x1.macqWait 0

def execMacq (f : XF) (s : State) : Out :=
  checked (f.named Rule.macq) s fun s =>
    let m := f.imm.toNat % 256
    let w := s.myWave
    let x := s.myCore
    let others := x.macqWait.filter fun e => e.who != s.me
    let all := (tilesOf m).all fun t => x.ownerOf t == some w
    if all || (x.grantable w m && starvedMask s.cycle others &&& m == 0) then
      let s1 := s.updCore s.sq.core fun x => { (x.grantTiles w m) with macqWait := x.macqWait.filter fun e => e.who != s.me }
      .next ((s1.output f 0 (BitVec.ofNat 64 m) 8).retire f.h)
    else if f.imm.getLsbD 8 then
      let s1 := if x.macqWait.any fun e => e.who == s.me then s
        else s.updCore s.sq.core fun x => { x with macqWait := x.macqWait ++ [{ who := s.me, mask := m, since := s.cycle }] }
      .next (s1.hold .blocked)
    else .next ((s.output f 0 0 4).retire f.h)

/-! ### The queue (R325, R332) -/

def opMwr : Nat := 0x129

def MacroOp.isMacro (m : MacroOp) : Bool := m.op != opMrd && m.op != opMwr

/-- The tile that an entry names. -/
def MacroOp.tile (m : MacroOp) : Nat := if m.isMacro then m.imm.toNat % 8 else m.imm.toNat / 256 % 8

/-- Macro-operations in the queue. -/
def Core.queued (x : Core) : Nat := (x.mq.filter MacroOp.isMacro).length

def State.enqueueOp (s : State) (core : Nat) (m : MacroOp) : State :=
  { s.updCore core fun x => { x with mq := x.mq ++ [m] } with nextCmd := s.nextCmd + 1 }

def State.newOp (s : State) (op : Nat) (imm : W32) (d : List W64) (lanes : List W32) : MacroOp :=
  { id := s.nextCmd, who := s.me, op, imm, d, step := 0, chunk := 0, running := false, suspended := false, pc := s.st.pc, lanes, mask := s.st.exec, cons := none, pass := false }

def execMrel (f : XF) (s : State) : Out :=
  checked (f.named Rule.maskImm) s fun s =>
    let m := f.imm.toNat % 256
    let w := s.myWave
    if s.myCore.mq.any fun e => waveOf e.who == w && (tilesOf m).contains e.tile then .next (s.hold .blocked)
    else .next ((s.updCore s.sq.core fun x => x.freeTiles s.cycle fun e => decide (e.2 = w) && (tilesOf m).contains e.1).retire f.h)

/-- PROT 0xC: a tile that the wave does not own. -/
def State.ownsTile (s : State) (t : Nat) : Bool := s.myCore.ownerOf t == some s.myWave

/-! ### Operands (R46, R326, R327) -/

/-- One operand of a macro-operation: its first D field, its two registers, the rows and row width of a step, the number
of steps, rows and width of the last one, and whether TILEPITCH counts. -/
structure Opnd where
  field : Nat
  r1 : W64
  r2 : W64
  rows : Nat
  width : Nat
  steps : Nat
  lastRows : Nat
  lastWidth : Nat
  tile : Bool
deriving DecidableEq, Repr, Inhabited

def Opnd.base (o : Opnd) : Nat := bits o.r1 19 0
def Opnd.rowPitch (o : Opnd) : Nat := bits o.r1 39 20
def Opnd.tilePitch (o : Opnd) : Nat := if o.tile then bits o.r2 19 0 else 0
def Opnd.rot (o : Opnd) : Nat := bits o.r2 22 20

/-- Banks that ROT adds per row (R46). -/
def rotAdd (rot : Nat) : Nat := if rot = 0 then 0 else 2 ^ (rot - 1)

/-- R46: the offset of an address of operand row i. -/
def rotate (a i add : Nat) : Nat := a / 32768 * 32768 + (a / 128 + i * add) % 256 * 128 + a % 128

/-- The scratchpad offset of byte j of row i of a step. -/
def Opnd.off (o : Opnd) (step i j : Nat) : Nat :=
  rotate (o.base + step * o.tilePitch + i * o.rowPitch + j) i (rotAdd o.rot)

/-- The highest byte of the operand's span. -/
def Opnd.top (o : Opnd) : Nat :=
  let last := o.base + (o.steps - 1) * o.tilePitch + (o.lastRows - 1) * o.rowPitch + o.lastWidth - 1
  if o.steps ≤ 1 then last else max last (o.base + (o.steps - 2) * o.tilePitch + (o.rows - 1) * o.rowPitch + o.width - 1)

/-- How an operand fails: the trap's cause, address and TINFO0, TINFO1. -/
abbrev OpndFault := Nat × W64 × W64 × W64

/-- The checks of R327, in their order. -/
def State.opndFault (s : State) (o : Opnd) : Option OpndFault :=
  if o.base % 128 ≠ 0 ∨ o.rowPitch % 128 ≠ 0 ∨ (o.r1 >>> 40) ≠ 0 ∨ o.rowPitch < o.width then
    some (Cause.layout, 0, 0, BitVec.ofNat 64 o.field)
  else if o.tilePitch % 128 ≠ 0 ∨ (o.r2 >>> 23) ≠ 0 then some (Cause.layout, 0, 0, BitVec.ofNat 64 (o.field + 1))
  else if 2 ^ 20 ≤ o.top then some (Cause.prot, BitVec.ofNat 64 o.base, 6, 0)
  else
    (((List.range (stripeOf o.top - stripeOf o.base + 1)).map (stripeOf o.base + ·)).find? fun k => !s.sq.stripes.contains k).map
      fun k => (Cause.prot, BitVec.ofNat 64 (max o.base (32768 * k)), 8, 0)

/-- Elements of K per step and per chunk, and bits of an element, of an MMA opcode (R217, R327). -/
def mmaKt (op : Nat) : Nat := if op = 0x121 then 64 else if op = 0x123 then 256 else 128
def mmaChunk (op : Nat) : Nat := if op = 0x121 then 16 else if op = 0x123 then 64 else 32
def mmaBits (op : Nat) : Nat := if op = 0x121 then 16 else if op = 0x123 then 4 else 8
def mmaK (imm : W32) : Nat := 16 * (imm.toNat / 16 % 4096)
def mmaSteps (op : Nat) (imm : W32) : Nat := (mmaK imm + mmaKt op - 1) / mmaKt op
/-- Elements of K that a step covers. -/
def mmaLen (op : Nat) (imm : W32) (step : Nat) : Nat := min (mmaKt op) (mmaK imm - step * mmaKt op)

def mmaOpnd (op : Nat) (imm : W32) (trans : Bool) (field : Nat) (r1 r2 : W64) : Opnd :=
  let steps := mmaSteps op imm
  let last := mmaLen op imm (steps - 1)
  if trans then
    let w := 128 * mmaBits op / 8
    { field, r1, r2, rows := mmaKt op, width := w, steps, lastRows := last, lastWidth := w, tile := true }
  else { field, r1, r2, rows := 128, width := 128, steps, lastRows := 128, lastWidth := last * mmaBits op / 8, tile := true }

/-- MMAS's scales: 32 bytes per step in each row, one register, no TILEPITCH. -/
def scaleOpnd (imm : W32) (field : Nat) (r1 : W64) : Opnd :=
  let w := 32 * mmaSteps 0x123 imm
  { field, r1, r2 := 0, rows := 128, width := w, steps := 1, lastRows := 128, lastWidth := w, tile := false }

def mmaTA (imm : W32) : Bool := imm.getLsbD 16
def mmaTB (imm : W32) : Bool := imm.getLsbD 17

/-- The operands of MMA and MMAS. -/
def mmaOpnds (op : Nat) (imm : W32) (d : List W64) : List Opnd :=
  [mmaOpnd op imm (mmaTA imm) 0 (dval d 0) (dval d 1), mmaOpnd op imm (mmaTB imm) 2 (dval d 2) (dval d 3)] ++
    if op = 0x123 then [scaleOpnd imm 4 (dval d 4), scaleOpnd imm 5 (dval d 5)] else []

/-- A tile in scratchpad, 128 rows of `w`-byte elements. -/
def tileOpnd (d : List W64) (w : Nat) : Opnd :=
  { field := 0, r1 := dval d 0, r2 := dval d 1, rows := 128, width := 128 * w, steps := 1, lastRows := 128, lastWidth := 128 * w, tile := false }

/-- Element bytes of an MST target (R331). -/
def otypeBytes (imm : W32) : Nat :=
  match imm.toNat / 16 % 8 with
  | 1 | 2 => 2
  | 3 | 4 => 1
  | _ => 4

/-- The operands of a macro-operation. -/
def opOpnds (op : Nat) (imm : W32) (d : List W64) : List Opnd :=
  if op ≤ 0x123 then mmaOpnds op imm d
  else if op = 0x125 then [tileOpnd d 4]
  else if op = 0x126 ∨ op = 0x127 then [tileOpnd d (otypeBytes imm)]
  else []

/-- The checks of a macro-operation after the baton's (R323, R326, R327). -/
def State.opFault (s : State) (op : Nat) (imm : W32) (d : List W64) : Option OpndFault :=
  if !s.ownsTile (imm.toNat % 8) then some (Cause.prot, 0, 0xC, 0)
  else if op = 0x123 ∧ (mmaTA imm || mmaTB imm) then some (Cause.layout, 0, 0, if mmaTA imm then 0 else 2)
  else (opOpnds op imm d).findSome? s.opndFault

/-- Takes the trap of a failed check. -/
def opTrap (s : State) (e : OpndFault) : Out := trapAt s e.1 e.2.1 s.st.exec e.2.2.1 e.2.2.2 0

/-- A macro-operation's issue: the baton, the checks, the queue (R188, R325, R327). -/
def issueOp (r : XRule) (op : Nat) (f : XF) (s : State) : Out :=
  checked (f.named r) s fun s =>
    let x := s.myCore
    let w := s.myWave
    let d := s.dvals f
    if x.baton ≠ some w ∧ !x.fifo.contains w then trapAt s Cause.nobaton 0 0 0 0 0
    else if x.baton ≠ some w ∨ s.cycle < x.grantAt then .next (s.hold .blocked)
    else match s.opFault op f.imm d with
      | some e => opTrap s e
      | none =>
        if 16 ≤ x.queued then .next (s.hold .blocked)
        else .next ((s.enqueueOp s.sq.core (s.newOp op f.imm d [])).retire f.h)

def execMmaFp8 (f : XF) (s : State) : Out := issueOp Rule.mmaFp8 0x120 f s
/-- MMA_BF16: K is a multiple of 16 (DEDUCED, unsafe, log 40). -/
def execMmaBf16 (f : XF) (s : State) : Out := issueOp (Rule.mma16 0) 0x121 f s
def execMmaF16 (f : XF) (s : State) : Out := issueOp (Rule.mma16 1) 0x121 f s
def execMmaInt8 (f : XF) (s : State) : Out := issueOp Rule.mmaFp8 0x122 f s
def execMmas (f : XF) (s : State) : Out := issueOp Rule.mmas 0x123 f s
def execMzero (f : XF) (s : State) : Out := issueOp (Rule.tile 0) 0x124 f s
def execMld (f : XF) (s : State) : Out := issueOp (Rule.tile 0b000011) 0x125 f s
def execMst (f : XF) (s : State) : Out := issueOp (Rule.mst false) 0x126 f s
def execMstBand (f : XF) (s : State) : Out := issueOp (Rule.mst true) 0x127 f s
def execMscl (f : XF) (s : State) : Out := issueOp (Rule.tile 0b000001) 0x12A f s

/-! ### Row moves (R332) -/

/-- Lanes of half a row. -/
def MacroOp.rowKey (m : MacroOp) (l : Nat) : Nat :=
  tileKey m.tile (m.imm.toNat / 2 ^ 11 % 128) (64 * (m.imm.toNat / 2 ^ 18 % 2) + l)

/-- Performs a move of the focused stream: MWR to the tile, MRD to the vector register; a poisoned element is a
consumption (R368). -/
def State.rowMove (s : State) (core : Nat) (m : MacroOp) : State :=
  let ls := lanes.filter fun l => m.mask.getLsbD l
  if m.op = opMwr then
    s.updCore core fun x =>
      { x with tiles := Tab.putAll x.tiles (fun _ => 0) (ls.map fun l => (m.rowKey l, m.lanes.getD l 0)),
               tilePoison := dropNats x.tilePoison (ls.map m.rowKey) }
  else
    let bad := ls.filter fun l => (s.core core).tilePoison.contains (m.rowKey l)
    if !bad.isEmpty then
      -- INFO is R80's code of an uncorrectable error
      let s1 := s.consume .media 0 (lanesMask bad) 1
      { s1 with st := { s1.st with cons := s1.st.cons.map fun c => { c with pc := m.pc } },
                records := s.records ++ (s1.records.drop s.records.length).map fun c => { c with pc := m.pc } }
    else
      let v := m.imm.toNat % 256
      s.writeVTracked v m.mask (fun l => (s.core core).tiles.get0 (m.rowKey l)) 8

/-- What a move waits for: earlier entries of its stream's path, of the same tile for MRD. -/
def State.waitsFor (s : State) (m e : MacroOp) : Bool :=
  (e.who == m.who || (s.has m.who && (s.focus m.who).issuedHere e.who e.id)) && (m.op == opMwr || e.tile == m.tile)

/-- The first move of the queue that waits for nothing, with the rest of the queue. -/
def State.nextMove (s : State) : List MacroOp → List MacroOp → Option (MacroOp × List MacroOp)
  | _, [] => none
  | before, m :: r =>
    if !m.isMacro && m.cons.isNone && !before.any (s.waitsFor m) then some (m, before ++ r) else s.nextMove (before ++ [m]) r

/-- Performs the moves that wait for nothing. -/
def State.settleMoves (s : State) (core : Nat) : Nat → State
  | 0 => s
  | n + 1 =>
    match s.nextMove [] (s.core core).mq with
    | none => s
    | some (m, q) =>
      let s1 := (s.updCore core fun x => { x with mq := q }).at m.who fun s => s.rowMove core m
      if s1.records.length = s.records.length then s1.settleMoves core n
      else (s1.updCore core fun x => { x with mq := { m with cons := s1.records.getLast? } :: x.mq }).settleMoves core n

def runRow (op : Nat) (r : XRule) (f : XF) (s : State) : Out :=
  checked (f.named r) s fun s =>
    let t := f.imm.toNat / 256 % 8
    if !s.ownsTile t then s.protX 0xC 0
    else
      let m := s.newOp op f.imm [] (if op = opMwr then lanes.map fun l => s.readV (f.imm.toNat % 256) l else [])
      if s.myCore.mq.any (s.waitsFor m) then .next ((s.enqueueOp s.sq.core m).retire f.h)
      else
        let s1 := s.rowMove s.sq.core m
        .next (if s1.st.traps = s.st.traps then s1.retire f.h else s1)

def execMrd (f : XF) (s : State) : Out := runRow opMrd (Rule.rowMove false) f s
def execMwr (f : XF) (s : State) : Out := runRow opMwr (Rule.rowMove true) f s

/-! ### Waits (R333) -/

def execMwait (f : XF) (s : State) : Out :=
  checked (f.named Rule.maskImm) s fun s =>
    let m := f.imm.toNat % 256
    if s.myCore.mq.any fun e => s.issuedHere e.who e.id && (m == 0 || (tilesOf m).contains e.tile) then .next (s.hold .blocked)
    else fenceAt s .ar .core f.h

/-- MSTEP waits for the macro-operation that was the oldest unfinished one as it first met it. -/
def execMstep (f : XF) (s : State) : Out :=
  checked (f.named Rule.mstep) s fun s =>
    let mine (e : MacroOp) : Bool := s.issuedHere e.who e.id && e.isMacro && (s.st.flushed == 0 || e.id + 1 == s.st.flushed)
    let done := .next ({ s with st := { s.st with flushed := 0 } }.retire f.h)
    match s.myCore.mq.find? mine with
    | some e => if e.step < f.imm.toNat % 4096 then .next ({ s with st := { s.st with flushed := e.id + 1 } }.hold .blocked) else done
    | none => done

/-! ### Arithmetic (R203, R217 to R219) -/

/-- Truncates toward zero to a multiple of 2^q. -/
def FVal.truncTo (q : Int) : FVal → FVal
  | .fin n m e => if q ≤ e then .fin n m e else .fin n (m / 2 ^ (q - e).toNat) q
  | x => x

/-- floor(log2 |p|) of a nonzero finite value. -/
def FVal.logFloor : FVal → Option Int
  | .fin _ m e => if m = 0 then none else some (Nat.log2 m + e)
  | _ => none

/-- The largest of a list. -/
def maxInt : List Int → Option Int
  | [] => none
  | x :: r => match maxInt r with
    | none => some x
    | some y => some (max x y)

/-- The sum of a chunk's products: +0 if every product is zero. -/
def chunkSum (aligned : Bool) (ps : List FVal) : FVal :=
  let ps := if aligned then
      match maxInt (ps.filterMap FVal.logFloor) with
      | some e => ps.map fun p => FVal.truncTo (e - 50) p
      | none => ps
    else ps
  ps.foldl (fun a p => (a.add false p).1) FVal.zero

/-- Adds a chunk sum to an accumulator element with one rounding. -/
def chunkAdd (acc : W32) (x : FVal) : W32 := BitVec.ofNat 32 (fp32.write 1 0 false false ((fp32.decode acc.toNat).add false x).1).1

/-- The element formats of an MMA's operands. -/
def mmaFmt (op : Nat) (imm : W32) (b : Bool) : FFmt :=
  let c := imm.toNat / (if b then 2 ^ 20 else 2 ^ 18) % 4
  if op = 0x120 then (if c = 0 then e4m3 else e5m2)
  else if op = 0x121 then (if c = 0 then bf16 else fp16)
  else e2m1

/-- A code as an INT8 operand reads it. -/
def int8Of (unsigned : Bool) (c : Nat) : Int := if unsigned then c else (BitVec.ofNat 8 c).toInt

/-- An element of an operand: column or row `r`, element `k` of the step. -/
def State.opElem (s : State) (core : Nat) (o : Opnd) (trans : Bool) (bits step r k : Nat) : Nat :=
  let row := if trans then k else r
  let pos := if trans then r else k
  if bits = 4 then (s.spByte (.core core) (o.off step row (pos / 2))).toNat / 16 ^ (pos % 2) % 16
  else leNat ((List.range (bits / 8)).map fun j => s.spByte (.core core) (o.off step row (pos * bits / 8 + j)))

/-- The offsets that a step of an operand reads. -/
def Opnd.reads (o : Opnd) (step : Nat) : List Nat :=
  let last := step + 1 == o.steps
  (List.range (if last then o.lastRows else o.rows)).flatMap fun i =>
    (List.range (if last then o.lastWidth else o.width)).map fun j => o.off step i j

/-- One chunk of one element: INT8 sums wrap, floats round once (R217). -/
def chunkElem (op : Nat) (imm : W32) (acc : W32) (a b sa sb : List Nat) : W32 :=
  if op = 0x122 then
    let u (x : Bool) : Bool := imm.getLsbD (if x then 20 else 18)
    (a.zip b).foldl (fun acc x => acc + BitVec.ofInt 32 (int8Of (u false) x.1 * int8Of (u true) x.2)) acc
  else
    let p (x : (Nat × Nat) × (Nat × Nat)) : FVal :=
      let v := (((mmaFmt op imm false).decode x.1.1).mul ((mmaFmt op imm true).decode x.1.2)).1
      if op = 0x123 then ((v.mul (e3m5 x.2.1)).1.mul (e3m5 x.2.2)).1 else v
    chunkAdd acc (chunkSum (op == 0x121) (((a.zip b).zip (sa.zip sb)).map p))

/-- The tile's values after a chunk of a step. -/
def State.mmaChunkTile (s : State) (core : Nat) (m : MacroOp) (chunk : Nat) : Core :=
  let os := opOpnds m.op m.imm m.d
  let n := mmaChunk m.op
  let ks := (List.range n).map (n * chunk + ·)
  let elems (i : Nat) (trans : Bool) (r : Nat) : List Nat :=
    ks.map fun k => s.opElem core (os.getD i default) trans (mmaBits m.op) m.step r k
  let scales (i r : Nat) : List Nat :=
    if m.op = 0x123 then ks.map fun k => (s.spByte (.core core) ((os.getD i default).off 0 r (32 * m.step + k / 8))).toNat else ks.map fun _ => 0
  let x := s.core core
  let fresh := m.imm.getLsbD 22 && m.step == 0 && chunk == 0
  let x0 := if fresh then x.zeroTile m.tile else x
  let bs := (List.range 128).map fun j => (elems 1 (mmaTB m.imm) j, scales 3 j)
  let new := (List.range 128).flatMap fun i =>
    let a := elems 0 (mmaTA m.imm) i
    let sa := scales 2 i
    bs.zipIdx.map fun b => (tileKey m.tile i b.2, chunkElem m.op m.imm (x0.tile m.tile i b.2) a b.1.1 sa b.1.2)
  { x0 with tiles := Tab.putAll x0.tiles (fun _ => 0) new }

/-! ### Steps (R328 to R331) -/

/-- Changes the first entry that satisfies a test. -/
def setFirst (p : MacroOp → Bool) (f : MacroOp → Option MacroOp) : List MacroOp → List MacroOp
  | [] => []
  | m :: r => if p m then (match f m with
    | some x => x :: r
    | none => r) else m :: setFirst p f r

/-- The macro-operation that the engine runs: the one in progress, or the holder's first. -/
def Core.isCurrent (x : Core) (cycle : Nat) (m : MacroOp) : Bool :=
  m.isMacro &&
    if x.mq.any fun e => e.isMacro && e.running && !e.suspended then m.running && !m.suspended
    else x.baton == some (waveOf m.who) && decide (x.grantAt ≤ cycle)

def Core.current (x : Core) (cycle : Nat) : Option MacroOp := x.mq.find? fun m => x.isCurrent cycle m

/-- Steps of a macro-operation (R328, R329). -/
def MacroOp.steps (m : MacroOp) : Nat := if m.op ≤ 0x123 then mmaSteps m.op m.imm else if m.op = 0x124 then 1 else 8

/-- A macro-operation consumes: it stays where it is, and the cluster freezes (R368, R369). -/
def State.opConsumes (s : State) (core : Nat) (m : MacroOp) (kind : ConsKind) (addr info : W64) : State :=
  let c : Consumption := { kind, who := m.who, pc := m.pc, addr, mask := 0, info, gtb := s.gtb, written := false, op := true }
  let cl := clusterOfCore core
  let x := s.core core
  let s1 := s.updCore core fun _ => { x with mq := setFirst (x.isCurrent s.cycle) (fun e => some { e with running := true, cons := some c }) x.mq }
  { s1 with frozen := if s.frozen.contains cl then s.frozen else s.frozen ++ [cl], records := s1.records ++ [c] }

/-- INFO of an MTXSUM record (R370). -/
def mtxInfo (m : MacroOp) (x : ChunkMismatch) : W64 :=
  BitVec.ofNat 64 (m.tile + 2 ^ 8 * (m.step % 4096) + 2 ^ 20 * x.chunk.toNat + 2 ^ 32 * (if x.rows = 0 then 127 else x.row.toNat) +
    2 ^ 40 * (if x.cols = 0 then 127 else x.col.toNat) + 2 ^ 48 * x.rows.toNat + 2 ^ 56 * x.cols.toNat)

/-- Chunks `from` to `from + n - 1` of the step. -/
def State.mmaChunks (s : State) (core : Nat) (m : MacroOp) (chunk : Nat) : Nat → State
  | 0 => s
  | n + 1 => (s.setCore core (s.mmaChunkTile core m chunk)).mmaChunks core m (chunk + 1) n

/-- Rows of a step of MLD, MST, MST.band and MSCL. -/
def stepRows (step : Nat) : List Nat := (List.range 16).map (16 * step + ·)

/-- MST's element (i, j) of the output (R219, R331). -/
def mstElem (m : MacroOp) (x : Core) (i j : Nat) : Nat :=
  let imm := m.imm
  let r := if imm.getLsbD 13 then j else i
  let c := if imm.getLsbD 13 then i else j
  let v := x.tile m.tile r c
  let otype := imm.toNat / 16 % 8
  if otype = 5 then v.toNat
  else
    let band (k : Nat) : FVal :=
      let b := bf16.decode (bits (dval m.d 3) (16 * k + 15) (16 * k))
      if imm.getLsbD 14 then b.abs else b
    let one : FVal := .fin false 1 0
    let sA := if m.op = 0x127 then band (r / 64) else one
    let sB := if m.op = 0x127 then band (2 + c / 64) else one
    let sc := if imm.getLsbD 12 then fp32.decode (bits (dval m.d 2) 31 0) else one
    let p := ((((fp32.decode v.toNat).mul sA).1.mul sB).1.mul sc).1
    let f := match otype with
      | 1 => bf16
      | 2 => fp16
      | 3 => e4m3
      | 4 => e5m2
      | _ => fp32
    (f.convert (imm.toNat / 256 % 8) 0 (imm.getLsbD 11) false p).1

/-- One step of MZERO, MLD, MST, MST.band or MSCL. -/
def State.tileStep (s : State) (core : Nat) (m : MacroOp) : State :=
  let t := m.tile
  let o := (opOpnds m.op m.imm m.d).getD 0 default
  let rows := stepRows m.step
  if m.op = 0x124 then s.updCore core fun x => x.zeroTile t
  else if m.op = 0x125 then
    let new := rows.flatMap fun i => (List.range 128).map fun j =>
      (tileKey t i j, (BitVec.ofNat 32 (leNat ((List.range 4).map fun k => s.spByte (.core core) (o.off 0 i (4 * j + k)))) : W32))
    s.updCore core fun x =>
      { x with tiles := Tab.putAll x.tiles (fun _ => 0) new, tilePoison := dropNats x.tilePoison (new.map (·.1)) }
  else if m.op = 0x12A then
    let sc := fp32.decode (bits (dval m.d 0) 31 0)
    s.updCore core fun x =>
      { x with tiles := Tab.putAll x.tiles (fun _ => 0) (rows.flatMap fun i => (List.range 128).map fun j =>
          (tileKey t i j, (BitVec.ofNat 32 (fp32.write 1 0 false false ((fp32.decode (x.tile t i j).toNat).mul sc).1).1 : W32))) }
  else
    let w := otypeBytes m.imm
    let x := s.core core
    let ws := rows.flatMap fun i => (List.range 128).flatMap fun j =>
      (leBytes w (mstElem m x i j)).zipIdx.map fun b => (o.off 0 i (w * j + b.2), b.1)
    let bad := rows.flatMap fun i => ((List.range 128).filter fun j =>
      x.tilePoison.contains (if m.imm.getLsbD 13 then tileKey t j i else tileKey t i j)).flatMap fun j =>
        (List.range w).map fun k => o.off 0 i (w * j + k)
    let s1 := s.spWrite (.core core) ws
    if bad.isEmpty then s1 else s1.spPoison (.core core) bad

/-- The offsets that a step reads. -/
def MacroOp.stepReads (m : MacroOp) : List Nat :=
  if m.op ≤ 0x123 then
    (mmaOpnds m.op m.imm m.d).flatMap fun o => if o.steps = 1 ∧ !o.tile then
        (List.range 128).flatMap fun i => (List.range 32).map fun j => o.off 0 i (32 * m.step + j)
      else o.reads m.step
  else if m.op = 0x125 then
    (stepRows m.step).flatMap fun i => (List.range 512).map fun j => ((opOpnds m.op m.imm m.d).getD 0 default).off 0 i j
  else []

/-- The current macro-operation has done a step: it stays for the next, or has completed. -/
def State.stepDone (s : State) (core : Nat) (m : MacroOp) : State :=
  let x := s.core core
  let done := decide (m.steps ≤ m.step + 1)
  let s1 := s.updCore core fun _ => { x with mq := setFirst (x.isCurrent s.cycle) (fun e => if done then none
    else some { e with running := true, step := e.step + 1, chunk := 0 }) x.mq }
  if !done then s1
  else
    let s2 := s1.settleMoves core (s1.core core).mq.length
    let w := waveOf m.who
    let gone := !(s2.everySquad.any fun q => q.sid == w.1 && q.waves.any fun v => v.widx == w.2 && !v.ended)
    let y := s2.core core
    if gone && y.baton == some w && y.mq.all fun e => decide (waveOf e.who ≠ w) then s2.setCore core (y.passBaton s2.cycle) else s2

/-- Offsets of an operand's element (`opElem`). -/
def Opnd.elemOffs (o : Opnd) (trans : Bool) (bits step r k : Nat) : List Nat :=
  let row := if trans then k else r
  let pos := if trans then r else k
  if bits = 4 then [o.off step row (pos / 2)] else (List.range (bits / 8)).map fun j => o.off step row (pos * bits / 8 + j)

/-- Elements that a step's poisoned operands reach, in a macro-operation that a decision let go on (R373). -/
def State.poisonedBy (s : State) (core : Nat) (m : MacroOp) : List Nat :=
  let os := opOpnds m.op m.imm m.d
  let bad (o : Nat) : Bool := s.spBad (.core core) o
  if m.op = 0x125 then
    (stepRows m.step).flatMap fun i => ((List.range 128).filter fun j =>
      (List.range 4).any fun k => bad ((os.getD 0 default).off 0 i (4 * j + k))).map fun j => tileKey m.tile i j
  else
    let n := mmaLen m.op m.imm m.step
    let hurt (i : Nat) (trans : Bool) (r : Nat) : Bool :=
      ((List.range n).any fun k => ((os.getD i default).elemOffs trans (mmaBits m.op) m.step r k).any bad) ||
        (m.op == 0x123 && (List.range (n / 8)).any fun k => bad ((os.getD (i + 2) default).off 0 r (32 * m.step + k)))
    let rows := (List.range 128).filter (hurt 0 (mmaTA m.imm))
    let cols := (List.range 128).filter (hurt 1 (mmaTB m.imm))
    (List.range 128).flatMap fun i => ((List.range 128).filter fun j => rows.contains i || cols.contains j).map fun j => tileKey m.tile i j

/-- Poisons what a resumed macro-operation's step has written. -/
def State.passPoison (s : State) (core : Nat) (m : MacroOp) (ks : List Nat) : State :=
  if m.pass then s.updCore core fun x => { x with tilePoison := addNats x.tilePoison ks } else s

/-- Macro-operations pause from stage 2 of a downward step until its end (R58). -/
def State.opsPaused (s : State) : Bool := s.power.stepping && !s.power.up && decide (1 ≤ s.power.stage)

def execMacroOpStep (core : BitVec 8) (mismatch : Option ChunkMismatch) (s : State) : Out :=
  let c := core.toNat
  match (s.core c).current s.cycle with
  | none => .next s
  | some m =>
    if s.frozen.contains (clusterOfCore c) ∨ s.opsPaused then .next s
    else match (if m.pass then none else m.stepReads.find? fun o => s.spBad (.core c) o) with
      | some o => .next (s.opConsumes c m .media (BitVec.ofNat 64 o) 1)
      | none =>
        let hurt := if m.pass then s.poisonedBy c m else []
        if m.op ≤ 0x123 then
          let n := mmaLen m.op m.imm m.step / mmaChunk m.op
          match mismatch.filter fun x => decide (m.chunk ≤ x.chunk.toNat) && decide (x.chunk.toNat < n) with
          | some x =>
            let s1 := s.mmaChunks c m m.chunk (x.chunk.toNat - m.chunk)
            let y := s1.core c
            let s2 := s1.updCore c fun _ => { y with mq := setFirst (y.isCurrent s.cycle) (fun e => some { e with chunk := x.chunk.toNat }) y.mq }
            .next (s2.opConsumes c m .mtxsum 0 (mtxInfo m x))
          | none => .next (((s.mmaChunks c m m.chunk (n - m.chunk)).passPoison c m hurt).stepDone c m)
        else .next (((s.tileStep c m).passPoison c m hurt).stepDone c m)

/-- R188: after 4,096 cycles with waiters, at a step boundary: no step of the holder has been interrupted at a chunk. -/
def execBatonForcedPass (core : BitVec 8) (s : State) : Out :=
  let c := core.toNat
  let x := s.core c
  match x.baton, x.fifo with
  | some w, _ :: _ =>
    let within := x.mq.any fun m => waveOf m.who == w && m.running && (m.chunk != 0 || m.cons.isSome)
    if 4096 ≤ x.hold ∧ !within then
      let stop (m : MacroOp) : MacroOp := if waveOf m.who = w ∧ m.running then { m with suspended := true } else m
      let x1 := { x with fifo := x.fifo ++ [w], mq := x.mq.map stop }
      let x2 := x1.passBaton s.cycle
      .next (s.setCore c { x2 with returning := x2.returning ++ [w] })
    else .next s
  | _, _ => .next s

end Sys2Proof.Machine
end

