-- ==== Sys2Proof/Machine/Zstd.lean ====
section
/-! DEFINITION. Decoding of one Zstandard frame (R340): the format of RFC 8878 and the checksum XXH64, which the spec names and does not
describe (PRESUMED, unsafe, log 9). -/

namespace Sys2Proof.Machine

/-- The verdict on a frame (R340). -/
structure ZstdResult where
  /-- One frame, window of at most 8 MiB, no dictionary, no reserved bit, well formed, exact length. -/
  decodable : Bool
  /-- Frame_Content_Size is absent or equals the output's length. -/
  sizeAgrees : Bool
  /-- The content checksum is absent or matches. -/
  checksumAgrees : Bool
  output : List W8
deriving DecidableEq, Repr, Inhabited

namespace Zstd

/-! ### XXH64 -/

def p1 : W64 := 0x9E3779B185EBCA87
def p2 : W64 := 0xC2B2AE3D27D4EB4F
def p3 : W64 := 0x165667B19E3779F9
def p4 : W64 := 0x85EBCA77C2B2AE63
def p5 : W64 := 0x27D4EB2F165667C5

def xxRound (acc x : W64) : W64 := (acc + x * p2).rotateLeft 31 * p1

def word64 (bs : List W8) : W64 := BitVec.ofNat 64 (leNat (bs.take 8))

/-- The four lanes over the whole stripes of 32 bytes, and what is left. -/
def xxStripes : Nat → W64 × W64 × W64 × W64 → List W8 → (W64 × W64 × W64 × W64) × List W8
  | 0, v, bs => (v, bs)
  | n + 1, (a, b, c, d), bs =>
    xxStripes n (xxRound a (word64 bs), xxRound b (word64 (bs.drop 8)), xxRound c (word64 (bs.drop 16)), xxRound d (word64 (bs.drop 24)))
      (bs.drop 32)

/-- The words of 8 bytes of the rest. -/
def xxWords : Nat → W64 → List W8 → W64 × List W8
  | 0, h, bs => (h, bs)
  | n + 1, h, bs => xxWords n ((h ^^^ xxRound 0 (word64 bs)).rotateLeft 27 * p1 + p4) (bs.drop 8)

/-- XXH64 with seed 0. -/
def xxh64 (bs : List W8) : W64 :=
  let n := bs.length
  let (h0, rest) :=
    if n < 32 then (p5, bs)
    else
      let ((a, b, c, d), rest) := xxStripes (n / 32) (p1 + p2, p2, 0, 0 - p1) bs
      let h := a.rotateLeft 1 + b.rotateLeft 7 + c.rotateLeft 12 + d.rotateLeft 18
      ([a, b, c, d].foldl (fun h v => (h ^^^ xxRound 0 v) * p1 + p4) h, rest)
  let (h1, r1) := xxWords (rest.length / 8) (h0 + BitVec.ofNat 64 n) rest
  let (h2, r2) := if 4 ≤ r1.length then
      ((h1 ^^^ BitVec.ofNat 64 (leNat (r1.take 4)) * p1).rotateLeft 23 * p2 + p3, r1.drop 4) else (h1, r1)
  let h3 := r2.foldl (fun h (b : W8) => (h ^^^ b.setWidth 64 * p5).rotateLeft 11 * p1) h2
  let h4 := (h3 ^^^ (h3 >>> 33)) * p2
  let h5 := (h4 ^^^ (h4 >>> 29)) * p3
  h5 ^^^ (h5 >>> 32)

/-! ### Bit streams -/

/-- A stream that is read from its last bit backwards: the unread bits, their number, and whether more was read than there was. -/
structure Back where
  bits : Nat
  left : Nat
  past : Bool

/-- Past the mark: the highest one of the last byte. -/
def Back.open? (bs : List W8) : Option Back :=
  match bs.getLast? with
  | none => none
  | some b => if b = 0 then none else
      let v := leNat bs
      let n := 8 * (bs.length - 1) + Nat.log2 b.toNat
      some { bits := v % 2 ^ n, left := n, past := false }

/-- The next n bits; zeros follow the end. -/
def Back.peek (b : Back) (n : Nat) : Nat := if n ≤ b.left then b.bits / 2 ^ (b.left - n) else b.bits * 2 ^ (n - b.left)

def Back.skip (b : Back) (n : Nat) : Back :=
  if n ≤ b.left then { b with bits := b.bits % 2 ^ (b.left - n), left := b.left - n } else { bits := 0, left := 0, past := true }

def Back.read (b : Back) (n : Nat) : Nat × Back := (b.peek n, b.skip n)

/-- Read to the last bit and no further. -/
def Back.done (b : Back) : Bool := b.left == 0 && !b.past

/-! ### FSE tables -/

/-- A state of a table: its symbol, the bits that the next state takes, and their base. -/
structure Cell where
  sym : Nat
  bits : Nat
  base : Nat
deriving Inhabited

structure Fse where
  log : Nat
  cells : Array Cell
deriving Inhabited

def Fse.sym (t : Fse) (st : Nat) : Nat := (t.cells.getD st default).sym

/-- The first state. -/
def Fse.start (t : Fse) (b : Back) : Nat × Back := b.read t.log

/-- The state after one. -/
def Fse.next (t : Fse) (st : Nat) (b : Back) : Nat × Back :=
  let c := t.cells.getD st default
  let r := b.read c.bits
  (c.base + r.1, r.2)

/-- A table of one symbol. -/
def Fse.single (sym : Nat) : Fse := { log := 0, cells := #[{ sym, bits := 0, base := 0 }] }

/-- The table of normalised counts; a count of -1 is a probability below one cell, whose symbols stand at the end. -/
def Fse.build (log : Nat) (norm : List Int) : Fse :=
  let size := 2 ^ log
  let syms := norm.zipIdx
  let low := (syms.filter fun e => e.1 == -1).map (·.2)
  let high := size - low.length
  let step := size / 2 + size / 8 + 3
  let places := (((List.range size).map fun k => k * step % size).filter fun p => p < high) ++ (List.range low.length).map fun k => size - 1 - k
  let order := (syms.flatMap fun e => if 0 < e.1 then List.replicate e.1.toNat e.2 else []) ++ low
  let spread : Array Nat := (places.zip order).foldl (fun a e => a.setIfInBounds e.1 e.2) (Array.replicate size 0)
  let counts : Array Nat := (norm.map fun c => if c == -1 then 1 else c.toNat).toArray
  let r := spread.toList.foldl (fun (r : Array Nat × Array Cell) sym =>
    let n := r.1.getD sym 1
    let nb := log - Nat.log2 n
    (r.1.setIfInBounds sym (n + 1), r.2.push { sym, bits := nb, base := n * 2 ^ nb - size })) (counts, #[])
  { log, cells := r.2 }

/-- Zero counts that follow a zero count: groups of two bits, of which a three goes on. -/
def zeroRun : Nat → Nat → Nat → Nat → Nat × Nat
  | 0, _, pos, n => (n, pos)
  | f + 1, v, pos, n =>
    let r := v / 2 ^ pos % 4
    if r = 3 then zeroRun f v (pos + 2) (n + 3) else (n + r, pos + 2)

/-- The counts of a table from bit `pos` of a number on, and where they end: `left` of the cells are not given yet. -/
def readNorm (v most : Nat) : Nat → Nat → Nat → List Int → Option (List Int × Nat)
  | 0, _, _, _ => none
  | f + 1, pos, left, acc =>
    if left = 0 then (if acc.length ≤ most then some (acc, pos) else none)
    else if most ≤ acc.length then none
    else
      let nb := Nat.log2 (left + 1) + 1
      let x := v / 2 ^ pos % 2 ^ nb
      let lower := x % 2 ^ (nb - 1)
      let edge := 2 ^ nb - 1 - (left + 1)
      let (val, used) := if lower < edge then (lower, nb - 1) else (if 2 ^ (nb - 1) ≤ x then x - edge else x, nb)
      let p : Int := val - 1
      if left < p.natAbs then none
      else if p = 0 then
        let z := zeroRun most v (pos + used) 0
        readNorm v most f z.2 left (acc ++ List.replicate (z.1 + 1) 0)
      else readNorm v most f (pos + used) (left - p.natAbs) (acc ++ [p])

/-- A table description at the head of a list: its table and the bytes after it. `most` is the number of symbols there may be. -/
def Fse.parse (maxLog most : Nat) (bs : List W8) : Option (Fse × List W8) :=
  let part := bs.take 600
  let v := leNat part
  let log := v % 16 + 5
  if maxLog < log then none
  else match readNorm v most (most + 1) 4 (2 ^ log) [] with
    | none => none
    | some (norm, pos) =>
      let n := (pos + 7) / 8
      if bs.length < n then none else some (Fse.build log norm, bs.drop n)

/-! ### Huffman trees -/

/-- A prefix code: the length of its longest word, and by the bits that follow the symbol and its length. -/
structure Huff where
  log : Nat
  cells : Array (Nat × Nat)
deriving Inhabited

/-- The weights that two alternating states give, until the bits run out. -/
def weightsOf (t : Fse) : Nat → Nat → Nat → Back → List Nat → Option (List Nat)
  | 0, _, _, _, _ => none
  | f + 1, a, b, s, acc =>
    let acc := acc ++ [t.sym a]
    let (a1, s1) := t.next a s
    if s1.past then some (acc ++ [t.sym b]) else weightsOf t f b a1 s1 acc

/-- The code of given weights; the last symbol's weight is what is missing to a power of two. -/
def Huff.build (ws : List Nat) : Option Huff :=
  let sum := (ws.map fun w => if w = 0 then 0 else 2 ^ (w - 1)).sum
  if sum = 0 ∨ 255 < ws.length then none
  else
    let log := Nat.log2 sum + 1
    let rest := 2 ^ log - sum
    if 11 < log ∨ 2 ^ Nat.log2 rest ≠ rest then none
    else
      let all := (ws ++ [Nat.log2 rest + 1]).zipIdx
      let cells := (List.range log).flatMap fun w =>
        (all.filter fun e => e.1 == w + 1).flatMap fun e => List.replicate (2 ^ w) (e.2, log - w)
      some { log, cells := cells.toArray }

/-- A tree description at the head of a list: its code and the bytes after it. -/
def Huff.parse (bs : List W8) : Option (Huff × List W8) :=
  match bs with
  | [] => none
  | h :: r =>
    let n := h.toNat
    if n < 128 then
      if r.length < n then none
      else do
        let (t, body) ← Fse.parse 6 256 (r.take n)
        let s ← Back.open? body
        let (a, s1) := t.start s
        let (b, s2) := t.start s1
        if s2.past then none
        else
          let ws ← weightsOf t 255 a b s2 []
          let c ← Huff.build ws
          some (c, r.drop n)
    else
      let k := n - 127
      if r.length < (k + 1) / 2 then none
      else
        let ws := ((r.take ((k + 1) / 2)).flatMap fun b => [b.toNat / 16, b.toNat % 16]).take k
        (Huff.build ws).map fun c => (c, r.drop ((k + 1) / 2))

/-- Symbols of one stream, the latest first. -/
def huffSymbols (c : Huff) : Nat → Back → List W8 → Option (List W8)
  | 0, s, acc => if s.done then some acc else none
  | n + 1, s, acc =>
    let e := c.cells.getD (s.peek c.log) (0, 0)
    let s1 := s.skip e.2
    if s1.past then none else huffSymbols c n s1 (BitVec.ofNat 8 e.1 :: acc)

def huffStream (c : Huff) (n : Nat) (bs : List W8) : Option (List W8) := do
  let s ← Back.open? bs
  let r ← huffSymbols c n s []
  some r.reverse

/-! ### Blocks -/

/-- What one block hands to the next: the code of its literals, the three tables of its sequences, the last three offsets, and the output. -/
structure Ctx where
  huff : Option Huff
  ll : Option Fse
  off : Option Fse
  ml : Option Fse
  reps : Nat × Nat × Nat
  out : Array W8

def Ctx.initial : Ctx := { huff := none, ll := none, off := none, ml := none, reps := (1, 4, 8), out := #[] }

/-- The literals of a block, and its bytes after them. -/
def literals (x : Ctx) (most : Nat) (bs : List W8) : Option (Ctx × List W8 × List W8) :=
  let v := leNat (bs.take 5)
  let kind := v % 4
  let form := v / 4 % 4
  if kind < 2 then
    let (size, head) := if form % 2 = 0 then (v % 256 / 8, 1) else if form = 1 then (v % 65536 / 16, 2) else (v % 2 ^ 24 / 16, 3)
    let body := bs.drop head
    if bs.length < head ∨ most < size then none
    else if kind = 0 then (if body.length < size then none else some (x, body.take size, body.drop size))
    else match body with
      | [] => none
      | b :: r => some (x, List.replicate size b, r)
  else
    let (nb, head) := if form < 2 then (10, 3) else if form = 2 then (14, 4) else (18, 5)
    let size := v / 16 % 2 ^ nb
    let comp := v / 2 ^ (4 + nb) % 2 ^ nb
    let body := bs.drop head
    if bs.length < head ∨ body.length < comp ∨ most < size then none
    else
      let mine := body.take comp
      match (if kind = 2 then Huff.parse mine else x.huff.map fun c => (c, mine)) with
      | none => none
      | some (c, data) =>
        let done (l : List W8) : Ctx × List W8 × List W8 := ({ x with huff := some c }, l, body.drop comp)
        if form = 0 then (huffStream c size data).map done
        else
          let j (k : Nat) : Nat := leNat ((data.drop (2 * k)).take 2)
          let seg := (size + 3) / 4
          let d0 := data.drop 6
          let d1 := d0.drop (j 0)
          let d2 := d1.drop (j 1)
          if data.length < 6 ∨ d0.length < j 0 + j 1 + j 2 ∨ size < 3 * seg then none
          else do
            let a ← huffStream c seg (d0.take (j 0))
            let b ← huffStream c seg (d1.take (j 1))
            let e ← huffStream c seg (d2.take (j 2))
            let f ← huffStream c (size - 3 * seg) (d2.drop (j 2))
            some (done (a ++ b ++ e ++ f))

/-- Codes of literal lengths and match lengths: the least value, and the bits added to it. -/
def llBase : List (Nat × Nat) :=
  ((List.range 16).map fun k => (k, 0)) ++
  [(16, 1), (18, 1), (20, 1), (22, 1), (24, 2), (28, 2), (32, 3), (40, 3), (48, 4), (64, 6), (128, 7), (256, 8), (512, 9),
   (1024, 10), (2048, 11), (4096, 12), (8192, 13), (16384, 14), (32768, 15), (65536, 16)]

def mlBase : List (Nat × Nat) :=
  ((List.range 32).map fun k => (k + 3, 0)) ++
  [(35, 1), (37, 1), (39, 1), (41, 1), (43, 2), (47, 2), (51, 3), (59, 3), (67, 4), (83, 4), (99, 5), (131, 7), (259, 8), (515, 9),
   (1027, 10), (2051, 11), (4099, 12), (8195, 13), (16387, 14), (32771, 15), (65539, 16)]

/-- The tables that a block need not give. -/
def llDefault : Fse := Fse.build 6
  [4, 3, 2, 2, 2, 2, 2, 2, 2, 2, 2, 2, 2, 1, 1, 1, 2, 2, 2, 2, 2, 2, 2, 2, 2, 3, 2, 1, 1, 1, 1, 1, -1, -1, -1, -1]
def mlDefault : Fse := Fse.build 6
  ([1, 4, 3, 2, 2, 2, 2, 2, 2] ++ List.replicate 37 1 ++ List.replicate 7 (-1))
def offDefault : Fse := Fse.build 5
  [1, 1, 1, 1, 1, 1, 2, 2, 2, 1, 1, 1, 1, 1, 1, 1, 1, 1, 1, 1, 1, 1, 1, 1, -1, -1, -1, -1, -1]

/-- The table of one kind of code, by its mode. -/
def tableOf (mode maxLog most : Nat) (deflt : Fse) (last : Option Fse) (bs : List W8) : Option (Fse × List W8) :=
  match mode with
  | 0 => some (deflt, bs)
  | 1 => match bs with
    | [] => none
    | b :: r => if b.toNat < most then some (Fse.single b.toNat, r) else none
  | 2 => Fse.parse maxLog most bs
  | _ => last.map fun t => (t, bs)

/-- The distance of an offset value, and the last three after it; distance 0 does not exist. -/
def distance (reps : Nat × Nat × Nat) (value litLen : Nat) : Nat × (Nat × Nat × Nat) :=
  let (a, b, c) := reps
  if 3 < value then (value - 3, (value - 3, a, b))
  else match (if litLen = 0 then value else value - 1) with
    | 0 => (a, reps)
    | 1 => (b, (b, a, c))
    | 2 => (c, (c, a, b))
    | _ => (a - 1, (a - 1, a, b))

/-- Copies n bytes from a distance back, one by one. -/
def copyBack (d : Nat) : Nat → Array W8 → Array W8
  | 0, o => o
  | n + 1, o => copyBack d n (o.push (o.getD (o.size - d) 0))

/-- A sequence: literals, then a match. -/
def pair (t : List (Nat × Nat)) (code : Nat) : Nat × Nat := t.getD code (0, 0)

/-- Performs the sequences: `f` are left, in the states given. -/
def sequences (ll off ml : Fse) (window : Nat) :
    Nat → Nat → Nat → Nat → Back → (Nat × Nat × Nat) → List W8 → Array W8 → Option ((Nat × Nat × Nat) × List W8 × Array W8)
  | 0, _, _, _, s, reps, lits, out => if s.done then some (reps, lits, out) else none
  | n + 1, a, b, c, s, reps, lits, out =>
    let code := off.sym b
    let (x, s1) := s.read code
    let m := pair mlBase (ml.sym c)
    let (y, s2) := s1.read m.2
    let l := pair llBase (ll.sym a)
    let (z, s3) := s2.read l.2
    let len := l.1 + z
    let (d, reps1) := distance reps (2 ^ code + x) len
    let out1 := out ++ (lits.take len).toArray
    if s3.past ∨ lits.length < len ∨ d = 0 ∨ out1.size < d ∨ window < d then none
    else
      let out2 := copyBack d (m.1 + y) out1
      if n = 0 then sequences ll off ml window n a b c s3 reps1 (lits.drop len) out2
      else
        let (a1, s4) := ll.next a s3
        let (c1, s5) := ml.next c s4
        let (b1, s6) := off.next b s5
        sequences ll off ml window n a1 b1 c1 s6 reps1 (lits.drop len) out2

/-- The number of sequences, and the bytes after it. -/
def sequenceCount (bs : List W8) : Option (Nat × List W8) :=
  match bs with
  | [] => none
  | a :: r =>
    if a.toNat < 128 then some (a.toNat, r)
    else match r with
      | [] => none
      | b :: r1 =>
        if a.toNat < 255 then some ((a.toNat - 128) * 256 + b.toNat, r1)
        else match r1 with
          | [] => none
          | c :: r2 => some (b.toNat + 256 * c.toNat + 0x7F00, r2)

/-- A compressed block. -/
def compressed (x : Ctx) (window most : Nat) (bs : List W8) : Option Ctx := do
  let (x1, lits, r) ← literals x most bs
  let (n, r1) ← sequenceCount r
  if n = 0 then (if r1.isEmpty then some { x1 with out := x1.out ++ lits.toArray } else none)
  else match r1 with
    | [] => none
    | m :: r2 =>
      if m.toNat % 4 ≠ 0 then none
      else
        let (ll, r3) ← tableOf (m.toNat / 64) 9 36 llDefault x1.ll r2
        let (off, r4) ← tableOf (m.toNat / 16 % 4) 8 32 offDefault x1.off r3
        let (ml, r5) ← tableOf (m.toNat / 4 % 4) 9 53 mlDefault x1.ml r4
        let s ← Back.open? r5
        let (a, s1) := ll.start s
        let (b, s2) := off.start s1
        let (c, s3) := ml.start s2
        if s3.past then none
        else
          let (reps, rest, out) ← sequences ll off ml window n a b c s3 x1.reps lits x1.out
          let out1 := out ++ rest.toArray
          if x1.out.size + most < out1.size then none
          else some { x1 with ll := some ll, off := some off, ml := some ml, reps, out := out1 }

/-- The blocks of a frame, and the bytes after the last. -/
def blocks (window : Nat) : Nat → Ctx → List W8 → Option (Array W8 × List W8)
  | 0, _, _ => none
  | f + 1, x, bs =>
    if bs.length < 3 then none
    else
      let h := leNat (bs.take 3)
      let size := h / 8
      let most := min window 131072
      let r := bs.drop 3
      let go (y : Ctx) (used : Nat) : Option (Array W8 × List W8) :=
        if h % 2 = 1 then some (y.out, r.drop used) else blocks window f y (r.drop used)
      if most < size then none
      else match h / 2 % 4 with
        | 0 => if r.length < size then none else go { x with out := x.out ++ (r.take size).toArray } size
        | 1 => match r with
          | [] => none
          | b :: _ => go { x with out := x.out ++ (List.replicate size b).toArray } 1
        | 2 => if r.length < size then none else match compressed x window most (r.take size) with
          | none => none
          | some y => go y size
        | _ => none

/-- A frame's header: its window, the content size that it gives, whether a checksum follows, and the bytes after it. A dictionary, a
reserved bit and a window above 8 MiB have none. -/
def header (bs : List W8) : Option (Nat × Option Nat × Bool × List W8) :=
  if bs.length < 5 ∨ leNat (bs.take 4) ≠ 0xFD2FB528 then none
  else
    let d := (bs.getD 4 0).toNat
    let single := d / 32 % 2 = 1
    let nw := if single then 0 else 1
    let nd := [0, 1, 2, 4].getD (d % 4) 0
    let nf := if d / 64 = 0 then (if single then 1 else 0) else 2 ^ (d / 64)
    let r := bs.drop 5
    let f := leNat ((r.drop (nw + nd)).take nf) + (if nf = 2 then 256 else 0)
    let w := (r.getD 0 0).toNat
    let base := 2 ^ (10 + w / 8)
    let window := if single then f else base + base / 8 * (w % 8)
    if r.length < nw + nd + nf ∨ d / 8 % 2 = 1 ∨ leNat ((r.drop nw).take nd) ≠ 0 ∨ 2 ^ 23 < window then none
    else some (window, if nf = 0 then none else some f, d / 4 % 2 = 1, r.drop (nw + nd + nf))

/-- Decodes one frame. -/
def decode (bs : List W8) : ZstdResult :=
  let refused : ZstdResult := { decodable := false, sizeAgrees := false, checksumAgrees := false, output := [] }
  match header bs with
  | none => refused
  | some (window, size, sum, r) => match blocks window (r.length / 3 + 1) Ctx.initial r with
    | none => refused
    | some (out, rest) =>
      let o := out.toList
      if rest.length ≠ (if sum then 4 else 0) then refused
      else { decodable := true, sizeAgrees := (size.map fun n => n == o.length).getD true,
             checksumAgrees := !sum || leNat rest == (xxh64 o).toNat % 2 ^ 32, output := o }

end Zstd

end Sys2Proof.Machine
end

