-- ==== Sys2Proof/Machine/Copy.lean ====
section
/-! DEFINITION. Copy commands (R334 to R343): layout records, acceptance, the elements moved, follow-ons, completion. -/

namespace Sys2Proof.Machine

/-! ### Layout records (R335, R336) -/

structure Layout where
  ndim : Nat
  blksc : Bool
  rot : Nat
  trans : Bool
  dspace : Nat
  sspace : Nat
  elem : Nat
  ext : List Nat
  sstride : List Int
  dstride : List Int
deriving DecidableEq, Repr, Inhabited

/-- R335: dimensions above NDIM take extent 1; their strides count where TRANS exchanges dimensions 0 and 1 (R336). -/
def Layout.ofBytes (bs : List W8) : Layout :=
  let ctl := word64 (bs.take 8)
  let w (o : Nat) : W32 := BitVec.ofNat 32 (leNat ((bs.drop o).take 4))
  let nd := bits ctl 15 14 + 1
  let dims (o : Nat) : List Int := (List.range 4).map fun d => (w (o + 4 * d)).toInt
  { ndim := nd, blksc := ctl.getLsbD 13, rot := bits ctl 12 10, trans := ctl.getLsbD 9, dspace := bits ctl 8 7, sspace := bits ctl 6 5,
    elem := bits ctl 2 0, ext := (List.range 4).map fun d => if d < nd then (w (8 + 4 * d)).toNat else 1,
    sstride := dims 0x18, dstride := dims 0x28 }

/-- Bytes of an element; half-bytes count as one byte of address. -/
def Layout.size (l : Layout) : Nat := if l.elem = 4 then 1 else 2 ^ l.elem

def Layout.count (l : Layout) : Nat := l.ext.foldl (· * ·) 1

def Layout.bytes (l : Layout) : Nat := if l.elem = 4 then (l.count + 1) / 2 else l.count * l.size

/-- R335: what makes a record's status LAYOUT, for the command's opcode. CPYM's receivers are scratchpads (DEDUCED, unsafe, log 48). -/
def Layout.bad (l : Layout) (bs : List W8) (op : Nat) : Bool :=
  let ctl := word64 (bs.take 8)
  let reads := op != 0x144 && op != 0x147
  (ctl >>> 16) != 0 || bits ctl 4 3 != 0 || 4 < l.elem || (l.sspace == 3 && op != 0x147) || ((bs.drop 0x38).take 8).any (· != 0) ||
    (l.ext.take l.ndim).any (fun e => e == 0 || decide (2 ^ 24 < e)) || decide (2 ^ 32 < l.bytes) ||
    (l.elem == 4 && (l.trans || (reads && l.sstride.getD 0 0 != 0) || l.dstride.getD 0 0 != 0)) || (l.trans && l.blksc) ||
    (l.dspace == 3 && op != 0x145) || (op == 0x142 && l.dspace == 0)

/-- One element: its source and destination addresses, and which half of the byte it is, if a half-byte. -/
structure Move where
  src : Nat
  dst : Nat
  half : Option Bool
deriving DecidableEq, Repr, Inhabited

/-- The indices, dimension 0 fastest. -/
def indices : List Nat → List (List Nat)
  | [] => [[]]
  | n :: r => (indices r).flatMap fun t => (List.range n).map fun i => i :: t

def wrap64 (x : Int) : Nat := (x % (2 ^ 64 : Int)).toNat

/-- Exchanges dimensions 0 and 1. -/
def swap01 : List Nat → List Nat
  | a :: b :: r => b :: a :: r
  | l => l

def dot (ix : List Nat) (st : List Int) : Int := ((ix.zip st).map fun e => (e.1 : Int) * e.2).sum

/-- The elements of a copy in iteration order (R336). -/
def Layout.moves (l : Layout) (src dst : W64) : List Move :=
  (indices l.ext).map fun ix =>
    let half := ix.getD 0 0
    let run : Int := if l.elem = 4 then (half / 2 : Nat) else 0
    let jx := if l.trans then swap01 ix else ix
    let row := jx.getD 1 0
    let dst' := wrap64 ((dst.toNat : Int) + dot jx l.dstride + run)
    let dst' := if l.dspace = 0 ∨ l.dspace = 3 then dst' else rotate dst' row (rotAdd l.rot)
    { src := wrap64 ((src.toNat : Int) + dot ix l.sstride + run), dst := dst', half := if l.elem = 4 then some (half % 2 == 1) else none }

/-- The receivers' copies of a destination (R339). -/
def spread (c : Command) (m : Move) : List Move :=
  if c.op = 0x142 then (receivers c).map fun r => { m with dst := m.dst % 2 ^ 20 + r * 2 ^ 20 } else [m]

/-- The space in which destinations are resolved: CPYM names its receivers through the cluster window. -/
def dspaceOf (c : Command) (l : Layout) : Nat := if c.op = 0x142 then 2 else l.dspace

/-- Whether the command reads a source by the record (R340, R342). -/
def readsSource (c : Command) : Bool := c.op != 0x147 && c.op != 0x144

/-! ### Acceptance (R334 to R336, R158) -/

/-- What acceptance comes to. -/
inductive Accept where
  | waits (pages : List Nat) (s : State)
  /-- The record is read through a peer window (R118). -/
  | asks (s : State) (asked : List Asked)
  | full
  | ends (s : State) (status : Nat)
  /-- The record is poisoned, or its read broke a key's integrity. -/
  | spoiled (s : State)
  | accepted (s : State) (layout : List W8)

/-- Commands that a cluster's copy engine holds. -/
def State.copyLoad (s : State) (cluster : Nat) : Nat :=
  (s.cmds.filter fun c => opClass c.op == 1 && c.core / 4 == cluster && c.phase != .armed && c.phase != .queued && !c.phase.isAccepting).length

/-- Bytes of the elements' ends. -/
def ends (l : Layout) (a : Nat) : List Nat := (List.range l.size).map fun k => (a + k) % 2 ^ 64

/-- Whether every byte of a scratch or cluster space that the elements name is owned. -/
def State.allOwned (s : State) (c : Command) (space : Nat) (l : Layout) (as : List Nat) : Bool :=
  as.all fun a => (ends l a).all fun b => (s.cmdSp c (space == 2) b).isSome

/-- Source bytes of CPYZ. -/
def frameBytes (c : Command) : List Nat := (List.range (dval c.d 4).toNat).map fun k => ((dval c.d 0).toNat + k) % 2 ^ 64

/-- The checks of a record that has been read: a status, or none. A global destination whose translation is at hand is refused here
without W; one that has none yet is refused once it has (R37) (DEDUCED, safe, log 113). -/
def State.acceptFault (s : State) (c : Command) (bs : List W8) : Option Nat :=
  let l := Layout.ofBytes bs
  if l.bad bs c.op then some Status.layout
  else if c.op = 0x146 ∧ l.dspace ≠ 0 then some Status.notp
  else
    let ms := l.moves (dval c.d 0) (dval c.d 1)
    let srcBad := readsSource c && l.sspace != 0 && !s.allOwned c l.sspace l (ms.map (·.src))
    let frameBad := c.op == 0x144 && l.sspace != 0 && !(frameBytes c).all fun b => (s.cmdSp c (l.sspace == 2) b).isSome
    let d := dspaceOf c l
    let dstBad := (d == 1 || d == 2) && !s.allOwned c d l ((ms.flatMap (spread c)).map (·.dst))
    -- R43, R339: CPYM's destination is an offset, the same in every receiver
    let offsetBad := c.op == 0x142 && ms.any fun m => (ends l m.dst).any fun b => decide (2 ^ 20 ≤ b)
    let globalBad := d == 0 && ms.any fun m => (ends l m.dst).any fun v => s.engByte c 0 .write v == .refused
    if srcBad || frameBad || dstBad || offsetBad || globalBad then some Status.prot else none

/-- Whether acceptance pins (R158): global bytes outside the footprint, stripes of others, the completion word's among them, CPYP. -/
def State.acceptPins (s : State) (c : Command) (i : Instance) (bs : List W8) : Bool :=
  let l := Layout.ofBytes bs
  let tos := (l.moves (dval c.d 0) (dval c.d 1)).map (·.dst)
  c.op == 0x146 || s.wordPins c ||
    match dspaceOf c l with
    | 0 => !i.spanInFoot (tos.foldl min (tos.headD 0)) (tos.foldl max 0 + l.size - 1)
    | 2 => ((l.moves (dval c.d 0) (dval c.d 1)).flatMap (spread c)).any fun m =>
        (ends l m.dst).any fun b => ((s.cmdSp c true b).map fun r => !r.2.2).getD false
    | _ => false

/-- Tries to accept a command: room, the record's translation and its content. -/
def State.accept? (s : State) (c : Command) : Accept :=
  let va := (dval c.d 2).toNat
  if 64 ≤ s.copyLoad (c.core / 4) then .full
  else if c.denied then .ends s Status.tfault
  else if 2 ^ 55 ≤ va then .ends s Status.prot
  else if va % 64 ≠ 0 then .ends s Status.layout
  else match s.engByte c 0 .read va with
    | .miss => .waits [pageOf va] (s.miss (dieOfCore c.core) c.part va .read (opClass c.op) c.missCode)
    | .refused => .ends s Status.prot
    | .at l =>
      let runs := match l with
        | .mem pa _ => if (s.peerAt pa).isSome then [(pa, 64)] else []
        | .sp _ _ _ => []
      match s.windowRead c.who c.part runs c.asked with
      | .waits s1 asked => .asks s1 asked
      | .here =>
        let r := s.engRead c 0 va 64
        let t := s.engTouch c [(0, va, 64)]
        if r.2 then .spoiled (t.engFails s c [(0, va, 64)])
        else match s.acceptFault c r.1 with
          | some st => .ends t st
          | none => .accepted t r.1

/-- The command enters the engine. -/
def State.enterCopy (s : State) (c : Command) (bs : List W8) : State :=
  let i := (s.squad? c.who.sid).map (·.inst)
  let s1 := if (i.map fun i => s.acceptPins c i bs).getD false then s.pinSquad c.who.sid else s
  s1.putCommand { c with phase := .running, layout := bs, asked := [] }

/-- A copy command at its issue: the stream blocks until acceptance (R334). `block` is CPYF's. -/
def issueCopy (r : XRule) (op : Nat) (f : XF) (s : State) (clusterOk : Bool) (pre : State → Except (State → Out) (List W64)) : Out :=
  checked (f.named r) s fun s =>
    let d := s.dvals f
    withWord s (dval d 3) 8 clusterOk fun s =>
      match pre s with
      | .error o => o s
      | .ok block =>
        let clear (s : State) : State := { s with st := { s.st.cleared with asked := [] } }
        let denied := s.st.deny.any fun x => x.page == pageOf (dval d 2).toNat
        let c := { s.newCommand op d f.imm .queued with block, denied, asked := s.st.asked }
        match s.accept? c with
        | .full => .next (s.hold .blocked)
        | .waits pages s1 => .next (s1.hold (.accept pages))
        | .asks s1 asked => .next ({ s1 with st := { s1.st with asked } }.hold .blocked)
        | .ends s1 st => .next (((clear (s1.addCommand c)).finish c st).retire f.h)
        | .spoiled s1 => .next (((clear (s1.addCommand c)).finish c Status.poison).retire f.h)
        | .accepted s1 bs => .next (((clear (s1.addCommand c)).enterCopy c bs).retire f.h)

def noBlock (_ : State) : Except (State → Out) (List W64) := .ok []

def execCpy (f : XF) (s : State) : Out := issueCopy (Rule.command 0b001111) 0x140 f s true noBlock

/-- R338: the follow-on block, checked as its macro-operation would be. -/
def followBlock (f : XF) (s : State) : Except (State → Out) (List W64) :=
  let off := s.readS (dreg f 4)
  match s.wordFault (off &&& 0xFFFFFFFFFFBFFFFF) 64 false, off.getLsbD 22 with
  | some .form, _ | _, true => .error fun s => s.protX 6 off
  | some .misaligned, _ => .error fun s => misalign s off s.st.exec
  | some .unowned, _ => .error fun s => s.protX 8 off
  | none, false =>
    let ws := (List.range 8).map fun k => word64 (s.spBytes (.core s.sq.core) (off.toNat + 8 * k) 8)
    let ctl := dval ws 0
    let op := bits ctl 63 32
    let imm : W32 := ctl.setWidth 32
    let d := (ws.drop 1).take 6
    let legal := if op = 0x120 ∨ op = 0x122 then Rule.mmaFp8.imm imm
      else if op = 0x121 then (Rule.mma16 0).imm imm || (Rule.mma16 1).imm imm
      else Rule.mmas.imm imm
    if (List.range 64).any fun k => s.spBad (.core s.sq.core) (off.toNat + k) then
      .error fun s => .next (s.consume .media off s.st.exec 1)
    else if op < 0x120 ∨ 0x123 < op then .error fun s => illop s 8
    else if !legal || dval ws 7 != 0 || (op != 0x123 && (dval d 4 != 0 || dval d 5 != 0)) then .error fun s => illop s
    else match s.opFault op imm d with
      | some e => .error fun s => opTrap s e
      | none => .ok ws

def execCpyf (f : XF) (s : State) : Out := issueCopy (Rule.command 0b011111) 0x141 f s true (followBlock f)

/-- R339: receivers, nonzero; other bits of D4 zero. -/
def execCpym (f : XF) (s : State) : Out :=
  issueCopy (Rule.command 0b011111) 0x142 f s false fun s =>
    let m := s.readS (dreg f 4)
    if m = 0 ∨ (m >>> 4) ≠ 0 then
      .error fun s =>
        let c := s.newCommand 0x140 (s.dvals f) f.imm .queued
        .next (((s.addCommand c).finish c Status.badarg).retire f.h)
    else .ok []

/-- R192, R337: armed in the core's table; the stream goes on. -/
def execCpyat (f : XF) (s : State) : Out :=
  checked (f.named (Rule.command 0b011111)) s fun s =>
    let d := s.dvals f
    withWord s (dval d 3) 8 true fun s =>
      if 16 ≤ s.timersUsed s.sq.core then .next (s.hold .blocked)
      else
        let c := s.newCommand 0x143 d f.imm .armed
        let t := dval d 4
        let s1 := s.addCommand c
        if t.toNat ≤ s.gtb.toNat then .next ((s1.putCommand { c with phase := .queued }).retire f.h)
        else .next ((s1.updCore s.sq.core fun x => { x with timers := x.timers ++ [{ cmd := c.id, time := t }] }).retire f.h)

def execCpyz (f : XF) (s : State) : Out := issueCopy (Rule.command 0b011111) 0x144 f s true noBlock
def execCpyk (f : XF) (s : State) : Out := issueCopy (Rule.command 0b001111) 0x145 f s true noBlock
def execCpyp (f : XF) (s : State) : Out := issueCopy (Rule.command 0b001111) 0x146 f s true noBlock
def execCfill (f : XF) (s : State) : Out := issueCopy (Rule.command 0b001111) 0x147 f s true noBlock

/-! ### The elements (R336, R340 to R342) -/

/-- An element's value as bytes (a half-byte as one), and whether a byte of it is poisoned. -/
abbrev Item := List W8 × Bool

/-- A half of a byte. -/
def halfOf (hi : Bool) (b : W8) : W8 := if hi then b >>> 4 else b &&& 0x0F

/-- A source element. -/
def State.readMove (s : State) (c : Command) (l : Layout) (m : Move) : Item :=
  let r := s.engRead c l.sspace m.src l.size
  match m.half with
  | none => r
  | some hi => (r.1.map (halfOf hi), r.2)

/-- CFILL's element. -/
def fillItem (c : Command) (l : Layout) : Item :=
  if l.elem = 4 then ([(dval c.d 0).setWidth 8 &&& 0x0F], false) else (leBytes l.size (dval c.d 0).toNat, false)

/-- Decompressed bytes as elements. -/
def itemsOf (l : Layout) : List W8 → List Item
  | [] => []
  | b :: r =>
    if l.elem = 4 then ([b &&& 0x0F], false) :: ([b >>> 4], false) :: itemsOf l r else chunk (b :: r) r
where
  /-- Groups of `size` bytes. -/
  chunk (bs : List W8) : List W8 → List Item
    | [] => [(bs.take l.size, false)]
    | _ :: r => (bs.take l.size, false) :: (if bs.length ≤ l.size then [] else chunk (bs.drop l.size) r)

/-- The byte that a half-byte leaves in its destination. -/
def mergeHalf (old new : W8) (hi : Bool) : W8 := if hi then (old &&& 0x0F) ||| (new <<< 4) else (old &&& 0xF0) ||| (new &&& 0x0F)

/-- The byte writes of elements. -/
def writesOf (space : Nat) (ms : List (Move × Item)) : List (Nat × Nat × W8 × Bool × Option Bool) :=
  ms.flatMap fun e => e.2.1.zipIdx.map fun b => (space, (e.1.dst + b.2) % 2 ^ 64, b.1, e.2.2, e.1.half)

/-- R336: a destination byte that several elements write receives one of them, and which is open (DESIGN CHOICE, safe, log 6). -/
def settleOverlap (n : Nat) : List (Nat × Nat × W8 × Bool × Option Bool) → List (Nat × Nat × W8 × Bool × Option Bool) →
    List (Nat × Nat × W8 × Bool × Option Bool)
  | acc, [] => acc
  | acc, w :: r =>
    let same (x : Nat × Nat × W8 × Bool × Option Bool) : Bool := x.1 == w.1 && x.2.1 == w.2.1 && x.2.2.2.2 == w.2.2.2.2
    if acc.any same then
      settleOverlap (n + 1) (if Config.freeBit n then acc.map fun x => if same x then w else x else acc) r
    else settleOverlap n (acc ++ [w]) r

/-- The bytes that half-bytes leave, each one merged once (R335). -/
def State.mergeHalves (s : State) (c : Command) (ws : List (Nat × Nat × W8 × Bool × Option Bool)) : List (Nat × Nat × W8 × Bool) :=
  let at_ := ws.foldl (fun (a : List (Nat × Nat)) w => if a.contains (w.1, w.2.1) then a else a ++ [(w.1, w.2.1)]) []
  at_.map fun a =>
    let old := match s.engByte c a.1 .write a.2 with
      | .at (.mem pa e) => s.readHome e.key pa
      | .at (.sp t off _) => s.spByte t off
      | _ => 0
    let mine := ws.filter fun w => w.1 == a.1 && w.2.1 == a.2
    (a.1, a.2, mine.foldl (fun b w => mergeHalf b w.2.2.1 (w.2.2.2.2.getD false)) old, mine.any fun w => w.2.2.2.1)

/-- Writes elements. -/
def State.moveElems (s : State) (c : Command) (direct : Bool) (space : Nat) (ms : List (Move × Item)) : State :=
  let ws := settleOverlap s.free [] (writesOf space ms)
  let s1 := { s with free := s.free + (writesOf space ms).length }
  let halves := ws.filter fun w => w.2.2.2.2.isSome
  let whole := ws.filter fun w => w.2.2.2.2.isNone
  let all := whole.map (fun w => (w.1, w.2.1, w.2.2.1, w.2.2.2.1)) ++ s1.mergeHalves c halves
  if all.isEmpty then s1 else s1.engWrite c direct all

/-- Pages that a command still misses. -/
def State.copyMisses (s : State) (c : Command) (l : Layout) (ms : List Move) : List (Nat × Acc) :=
  let find (space : Nat) (a : Acc) (vas : List Nat) : List (Nat × Acc) :=
    if space = 0 then (vas.filter fun v => s.engByte c 0 a v == .miss).map fun v => (v, a) else []
  let src := if readsSource c then ms.flatMap fun m => ends l m.src else if c.op = 0x144 then frameBytes c else []
  byPage (find l.sspace .read src ++ if l.dspace = 3 then [] else find l.dspace .write (ms.flatMap fun m => ends l m.dst))

/-- A refused byte among those of the elements. -/
def State.copyRefused (s : State) (c : Command) (l : Layout) (ms : List Move) : Bool :=
  let bad (space : Nat) (a : Acc) (vas : List Nat) : Bool := vas.any fun v => s.engByte c space a v == .refused
  let src := if readsSource c then ms.flatMap fun m => ends l m.src else if c.op = 0x144 then frameBytes c else []
  -- destinations in scratchpads were checked at acceptance; what has been freed since is discarded (R162)
  bad l.sspace .read src || (l.dspace == 0 && bad 0 .write (ms.flatMap fun m => ends l m.dst))

/-- Elements both of whose ends have their translation. -/
def State.reachable (s : State) (c : Command) (l : Layout) (m : Move) : Bool :=
  (!readsSource c || (ends l m.src).all fun v => s.engByte c l.sspace .read v != .miss && s.engByte c l.sspace .read v != .refused) &&
    (l.dspace != 0 || (ends l m.dst).all fun v => s.engByte c 0 .write v != .miss && s.engByte c 0 .write v != .refused)

/-- Global bytes that a command reads. -/
def copyReads (c : Command) (l : Layout) (ms : List Move) : List Nat :=
  if l.sspace != 0 then [] else if readsSource c then ms.flatMap fun m => ends l m.src else if c.op = 0x144 then frameBytes c else []

/-- Spans that a command reads. -/
def copySpans (c : Command) (l : Layout) (ms : List Move) : List (Nat × Nat × Nat) :=
  if readsSource c then ms.map fun m => (l.sspace, m.src, l.size)
  else if c.op = 0x144 then [(l.sspace, (dval c.d 0).toNat, (dval c.d 4).toNat)]
  else []

/-- The element values of a command other than CPYZ. -/
def State.items (s : State) (c : Command) (l : Layout) (ms : List Move) : List (Move × Item) :=
  ms.map fun m => (m, if c.op = 0x147 then fillItem c l else s.readMove c l m)

/-- A command that ends early has moved some of its elements, and which is open (R37, R123, R343; DESIGN CHOICE, safe, log 6) (DESIGN CHOICE, safe, log 47). -/
def State.landSome (s : State) (c : Command) : State :=
  if c.phase = .armed ∨ c.phase = .queued ∨ c.phase.isAccepting ∨ c.op = 0x144 then s
  else
    let l := Layout.ofBytes c.layout
    if l.dspace = 3 then s
    else
      let ms := (l.moves (dval c.d 0) (dval c.d 1)).zipIdx.filter fun e => Config.freeBit (s.free + e.2) && s.reachable c l e.1
      let s1 := { s with free := s.free + l.count }
      let its := (s1.items c l (ms.map (·.1))).flatMap fun e => (spread c e.1).map fun m => (m, e.2)
      let s2 := (s1.engTouch c (copySpans c l (ms.map (·.1)))).moveElems c (c.op == 0x146) (dspaceOf c l) its
      if readsSource c then s2.engFails s c (copySpans c l (ms.map (·.1))) else s2

/-- Admits what may start now of a command's bytes; what is left waits for a later lap. -/
def State.allotCommand (s : State) (a : Spend) (c : Command) (total : Nat) : State × Command :=
  let r := s.allot a total (total / 4096 + 1) c.sent
  let c' := { c with sent := r.2 }
  (r.1.putCommand c', c')

/-! ### Completion (R116, R338 to R342) -/

/-- What a performed command comes to: its status and DATA. -/
def State.perform (s : State) (c : Command) (l : Layout) (ms : List Move) : State × Nat × W32 :=
  let d := dspaceOf c l
  if c.op = 0x144 then
    let r := s.engRead c l.sspace (dval c.d 0).toNat (dval c.d 4).toNat
    let z := Zstd.decode r.1
    let put (bs : List W8) : State := s.moveElems c false d (ms.zip (itemsOf l bs))
    if r.2 then
      -- what a poisoned frame decodes to is open, how many bytes among it: they are free values, and poisoned (R322)
      let n := (Config.freeValue s.free).toNat % (l.bytes + 1)
      let bs : List Item := (itemsOf l ((List.range n).map fun k => (Config.freeValue (s.free + 1 + k)).setWidth 8)).map fun e => (e.1, true)
      ((({ s with free := s.free + n + 1 }).moveElems c false d (ms.zip bs)).engFails s c (copySpans c l ms), Status.poison, 0)
    else if !z.decodable || !z.sizeAgrees then (s, Status.zstd, 0)
    else if l.bytes < z.output.length then
      let n := (Config.freeValue s.free).toNat % (l.bytes + 1)
      let s1 := { s with free := s.free + 1 }
      (s1.moveElems c false d (ms.zip (itemsOf l (z.output.take n))), Status.zsize, 0)
    else (put z.output, if z.checksumAgrees then Status.ok else Status.zchk, 0)
  else
    let its := s.items c l ms
    let merges := if l.dspace = 0 ∧ c.op ≠ 0x142 then s.mergeBreaks c 0 (ms.flatMap fun m => ends l m.dst) else []
    let bad := (its.any fun e => e.2.2) || !merges.isEmpty
    let crc : W32 := if c.op = 0x145 then crc32c (its.flatMap fun e => e.2.1) else 0
    let s1 := if l.dspace = 3 then s else s.moveElems c (c.op == 0x146) d (its.flatMap fun e => (spread c e.1).map fun m => (m, e.2))
    (if bad ∧ readsSource c then s1.engFails s c (copySpans c l ms) else s1, if bad then Status.poison else Status.ok, crc)

/-- CPYP's destination pages: every one has P = 1. -/
def State.notPersistent (s : State) (c : Command) (l : Layout) (ms : List Move) : Bool :=
  c.op == 0x146 && ms.any fun m => (ends l m.dst).any fun v => match s.engByte c 0 .write v with
    | .at (.mem _ e) => !e.p
    | _ => true

/-- R339: receivers of which a destination byte is owned by no squad at delivery get neither bytes nor word. -/
def State.lostReceivers (s : State) (c : Command) (l : Layout) (ms : List Move) : List Nat :=
  (receivers c).filter fun r => ms.any fun m => (ends l (m.dst % 2 ^ 20 + r * 2 ^ 20)).any fun b => (s.cmdSp c true b).isNone

/-- COPY_COMPLETE: once its units are admitted, the command moves its bytes and writes its word; CPYF then waits for its follow-on (DESIGN CHOICE, unsafe, log 46). -/
def execCopyComplete (cmd : Nat) (s : State) : Out :=
  match s.command? cmd with
  | none => .next s
  | some c =>
    if opClass c.op ≠ 1 then .next s
    else if c.phase = .queued then
      -- a fired CPYAT is accepted now (R337)
      match s.accept? c with
      | .full => .next s
      | .waits pages s1 => .next (s1.putCommand { c with phase := .accepting pages })
      | .asks s1 asked => .next (s1.putCommand { c with asked })
      | .ends s1 st => .next (s1.finish c st)
      | .spoiled s1 => .next (s1.finish c Status.poison)
      | .accepted s1 bs => .next (s1.enterCopy c bs)
    else if c.phase = .armed ∨ c.phase = .following ∨ c.phase.isAccepting ∨ c.phase.isDraining then .next s
    else
      let l := Layout.ofBytes c.layout
      let ms := l.moves (dval c.d 0) (dval c.d 1)
      let need := s.copyMisses c l ms
      if c.denied then .next ((s.landSome c).finish c Status.tfault)
      else if !need.isEmpty then .next (s.engineWaits c need)
      else if s.copyRefused c l ms then .next (s.finish c Status.prot)
      else if s.notPersistent c l ms then .next (s.finish c Status.notp)
      else
        let r := s.allotCommand ((s.squadRegion c.who.sid).copies c.part) c l.bytes
        let s := r.1
        let c := r.2
        if c.sent < l.bytes then .next s
        else if let some s1 := s.engAsk c (copyReads c l ms) then .next s1
        else
          let c := if c.op = 0x142 then
              let lost := s.lostReceivers c l ms
              { c with d := c.d.set 4 (dval c.d 4 &&& ~~~(BitVec.ofNat 64 (lost.foldl (fun a r => a + 2 ^ r) 0))) }
            else c
          let r := (s.engTouch c (copySpans c l ms)).perform c l ms
          if c.op = 0x141 ∧ r.2.1 = Status.ok then .next (r.1.putCommand { c with phase := .following })
          else .next (r.1.finish c r.2.1 r.2.2)

/-- CPYF_FOLLOWON_ENTER: after every earlier copy of the stream, where the matrix queue has a place (R338). -/
def execCpyfFollowonEnter (cmd : Nat) (s : State) : Out :=
  match s.command? cmd with
  | none => .next s
  | some c =>
    let before (e : Command) : Bool := e.who == c.who || (s.has c.who && (s.focus c.who).issuedHere e.who e.id)
    let earlier := s.cmds.any fun e => before e && opClass e.op == 1 && decide (e.id < c.id)
    if c.phase ≠ .following ∨ earlier then .next s
    else
      let ctl := dval c.block 0
      let m : MacroOp := { id := c.id, who := c.who, op := bits ctl 63 32, imm := ctl.setWidth 32, d := (c.block.drop 1).take 6, step := 0, chunk := 0,
                           running := false, suspended := false, pc := 0, lanes := [], mask := 0, cons := none, pass := false }
      match s.squad? c.who.sid with
      | none => .next (s.dropCommand c)
      | some q =>
        if q.place = .resident then
          if 16 ≤ (s.core q.core).queued then .next s else .next ((s.enqueueOp q.core m).finish c Status.ok)
        else .next ((s.updImage q.sid fun x => { x with ops := x.ops ++ [m] }).finish c Status.ok)

/-! ### CCNL and CQRY (R343) -/

/-- Ends a command that is stopped: what has landed stays, the follow-on is dropped. One whose last stores peers have yet to acknowledge
is not yet complete, and is stopped too. -/
def State.cancel (s : State) (c : Command) : State :=
  if c.phase.isDraining then s.finish c Status.cancel
  else (if opClass c.op = 1 ∧ c.phase ≠ .following then s.landSome c else s).finish c Status.cancel

/-- A squad's packets that wait in the hub, in its buffer or in a batch, with their words yet to be written (R174, R358). -/
def State.delayed (s : State) (sid : Nat) : List Enqueue :=
  (s.sched.enq ++ (s.everySquad.filter fun q => q.sid == sid).flatMap fun q => q.streams.flatMap fun e => (e.2.batch.map (·.held)).getD []).filter
    fun e => e.word.isSome && e.who.sid == sid

/-- The register value that names a packet's word. -/
def Enqueue.key (e : Enqueue) : Option W64 := e.word.map fun w => BitVec.ofNat 64 w.2.1

/-- Takes a squad's waiting packets that name a word out of the hub, each with its word (R343). -/
def State.cancelDelayed (s : State) (sid : Nat) (v : W64) : State :=
  let hit (e : Enqueue) : Bool := e.who.sid == sid && e.key == some v
  let out := (s.delayed sid).filter hit
  if out.isEmpty then s
  else
    let s1 := { s with sched := { s.sched with enq := s.sched.enq.filter fun e => !hit e } }
    let s2 := s1.mapSquads fun q => if q.sid ≠ sid then q else q.mapWaves fun w => w.mapStreams fun x =>
      { x with batch := x.batch.map fun b => { b with held := b.held.filter fun e => !hit e } }
    out.foldl (fun s e => s.enqWord e Status.cancel) s2

def execCcnl (f : XF) (s : State) : Out :=
  checked (f.named (Rule.xin 0b000001)) s fun s =>
    let v := s.readS (dreg f 0)
    withWord s v 8 true fun s =>
      let s1 := (s.cmds.filter fun c => c.who.sid == s.sq.sid && c.key == v).foldl (fun s c => s.cancel c) s
      .next ((s1.cancelDelayed s.sq.sid v).retire f.h)

def Phase.code : Phase → Nat
  | .armed | .queued => 1
  | .running | .following | .draining _ _ => 2
  | .waiting _ | .accepting _ => 3

def execCqry (f : XF) (s : State) : Out :=
  checked (f.named Rule.cqry) s fun s =>
    let v := s.readS (dreg f 1)
    withWord s v 8 true fun s =>
      let mine := s.cmds.filter fun c => c.who.sid == s.sq.sid
      let held := s.delayed s.sq.sid
      let st := match (mine.filter fun c => c.key == v).getLast? with
        | some c => c.phase.code
        | none => if held.any fun e => e.key == some v then 1 else if s.doneWords.contains (s.sq.sid, v) then 4 else 0
      .next ((s.output f 0 (BitVec.ofNat 64 (st + 2 ^ 32 * ((mine.length + held.length) % 2 ^ 16))) 20).retire f.h)

end Sys2Proof.Machine
end

