-- ==== Sys2Proof/Machine/Gather.lean ====
section
/-! DEFINITION. Gather and scatter (R344). -/

namespace Sys2Proof.Machine

/-- The fields of D4 and D5. -/
structure GatherArgs where
  rowBytes : Nat
  stride : Nat
  count : Nat
  pitch : Nat
  rtype : Nat
  idx64 : Bool
deriving DecidableEq, Repr

def gatherArgs (c : Command) : GatherArgs :=
  let a := dval c.d 4
  let b := dval c.d 5
  { rowBytes := bits a 23 0, stride := bits a 63 24, count := bits b 31 0, pitch := bits b 51 32, rtype := bits b 55 52,
    idx64 := if c.op = 0x14C then b.getLsbD 56 else c.op == 0x14B }

/-- Values that break the limits. -/
def gatherBad (c : Command) : Bool :=
  let g := gatherArgs c
  let rest := if c.op = 0x14C then bits (dval c.d 5) 63 57 != 0 || decide (3 < g.rtype) else bits (dval c.d 5) 63 52 != 0
  g.rowBytes % 8 != 0 || g.rowBytes == 0 || decide (65536 < g.rowBytes) || g.pitch % 8 != 0 || rest

/-- An own-scratchpad offset in a register (R321): its form, its alignment, its stripe. -/
def withOffset (s : State) (v : W64) (align : Nat) (k : State → Out) : Out :=
  if (v >>> 20) != 0 then s.protX 6 v
  else if v.toNat % align ≠ 0 then misalign s v s.st.exec
  else if !s.sq.stripes.contains (stripeOf v.toNat) then s.protX 8 v
  else k s

/-- The issue of a gather or scatter. -/
def issueGather (op : Nat) (f : XF) (s : State) : Out :=
  checked (f.named (Rule.command 0b111111)) s fun s =>
    let d := s.dvals f
    let c := s.newCommand op d f.imm .running
    withOffset s (dval d 1) 8 fun s =>
      withOffset s (dval d 2) (if (gatherArgs c).idx64 then 8 else 4) fun s =>
        withWord s (dval d 3) 8 true fun s =>
          let s1 := (if op = 0x14C then s.pin else s).addCommand c
          if gatherBad c then .next ((s1.finish c Status.badarg).retire f.h)
          else if (gatherArgs c).count = 0 then .next ((s1.finish c Status.ok).retire f.h)
          else .next (s1.retire f.h)

def execGthrX32 (f : XF) (s : State) : Out := issueGather 0x14A f s
def execGthrX64 (f : XF) (s : State) : Out := issueGather 0x14B f s
def execSctr (f : XF) (s : State) : Out := issueGather 0x14C f s

/-- Row n: its table address and its scratch offset. -/
def State.gatherRow (s : State) (c : Command) (n : Nat) : Nat × Nat :=
  let g := gatherArgs c
  let w := if g.idx64 then 8 else 4
  let ix := leNat (s.engRead c 1 ((dval c.d 2).toNat + w * n) w).1
  (((dval c.d 0).toNat + ix * g.stride) % 2 ^ 64, (dval c.d 1).toNat + n * g.pitch)

def State.gatherRows (s : State) (c : Command) : List (Nat × Nat) := (List.range (gatherArgs c).count).map (s.gatherRow c)

/-- The access that a command makes of its table. -/
def gatherAcc (c : Command) : Acc := if c.op = 0x14C then .atomic else .read

def span (a n : Nat) : List Nat := (List.range n).map fun k => (a + k) % 2 ^ 64

/-- Element kind of SCTR's RTYPE. -/
def sctrElem (c : Command) : Elem := match (gatherArgs c).rtype with
  | 0 => .i32 | 1 => .i64 | 2 => .f32 | _ => .bf16x2

/-- One reduction at the home slice (R309): the state, and whether it met an error. One of a poisoned source element leaves its sector
poisoned (R322). -/
def State.scatterElem (s : State) (c : Command) (va off : Nat) : State × Bool :=
  let k := sctrElem c
  match s.engByte c 0 .atomic va with
  | .at (.mem pa e) =>
    let v := s.engRead c 1 off k.bytes
    if s.redMeetsError e.key pa then (s.redFails e.key pa (opClass c.op) [c.who], true)
    else
      let old := leNat ((List.range k.bytes).map fun i => s.readHome e.key (pa + i))
      let new := k.apply .add false old (leNat v.1)
      let u : Under := { key := e.key, cp := e.cp, c := e.c, p := e.p, tag := c.tag, core := none }
      let s1 := s.writeAll u ((leBytes k.bytes new).zipIdx.map fun b => (pa + b.2, b.1)) (if v.2 then [sectorOf pa] else [])
      (s1.dropDie (dieOfCore c.core) [lineOf pa], v.2)
  | _ => (s, false)

/-- Moves the rows: the state, and whether an error was met. -/
def State.gatherMove (s : State) (c : Command) (rows : List (Nat × Nat)) : State × Bool :=
  let n := (gatherArgs c).rowBytes
  if c.op = 0x14C then
    let w := (sctrElem c).bytes
    rows.foldl (fun r x => (List.range (n / w)).foldl (fun r k =>
      let t := r.1.scatterElem c ((x.1 + w * k) % 2 ^ 64) (x.2 + w * k)
      (t.1, r.2 || t.2)) r) (s, false)
  else
    rows.foldl (fun r x =>
      let d := r.1.engRead c 0 x.1 n
      let bytes := (List.range n).map fun k =>
        let b := r.1.engRead c 0 ((x.1 + k) % 2 ^ 64) 1
        (1, x.2 + k, b.1.headD 0, b.2)
      let s1 := (r.1.engTouch c [(0, x.1, n)]).engWrite c false bytes
      (if d.2 then s1.engFails r.1 c [(0, x.1, n)] else s1, r.2 || d.2)) (s, false)

/-- An index in a poisoned word: its row, and with it every row, stays where it is. -/
def State.badIndex (s : State) (c : Command) : Bool :=
  let g := gatherArgs c
  let w := if g.idx64 then 8 else 4
  (List.range g.count).any fun n => (s.engRead c 1 ((dval c.d 2).toNat + w * n) w).2

/-- A byte of the index array lies in a stripe that the squad does not own (R43, R344). -/
def State.indexUnowned (s : State) (c : Command) : Bool :=
  let g := gatherArgs c
  (List.range (g.count * (if g.idx64 then 8 else 4))).any fun i => (s.cmdSp c false ((dval c.d 2).toNat + i)).isNone

/-- GATHER_COMPLETE: the rows move and the word is written. -/
def execGatherComplete (cmd : Nat) (s : State) : Out :=
  match s.command? cmd with
  | none => .next s
  | some c =>
    if opClass c.op ≠ 3 ∨ c.phase.isDraining then .next s
    else
      let n := (gatherArgs c).rowBytes
      let rows := s.gatherRows c
      let vas := rows.flatMap fun x => span x.1 n
      let need := byPage ((vas.filter fun v => s.engByte c 0 (gatherAcc c) v == .miss).map fun v => (v, gatherAcc c))
      let kindBad := c.op == 0x14C && vas.any fun v => match s.engByte c 0 .atomic v with
        | .at (.mem _ e) => s.pageKind e v != .memory
        | _ => false
      let refused := kindBad || vas.any (fun v => s.engByte c 0 (gatherAcc c) v == .refused) ||
        (rows.any fun x => (span x.2 n).any fun o => (s.cmdSp c false o).isNone)
      if s.indexUnowned c then .next (s.finish c Status.prot)
      else if s.badIndex c then .next (s.finish c Status.poison)
      else if c.denied then
        -- some rows have moved, and which is open (R37; DESIGN CHOICE, safe, log 6)
        let some_ := (rows.zipIdx.filter fun e => Config.freeBit (s.free + e.2) && (span e.1.1 n).all fun v =>
          s.engByte c 0 (gatherAcc c) v != .miss).map (·.1)
        .next ((({ s with free := s.free + rows.length }).gatherMove c some_).1.finish c Status.tfault)
      else if !need.isEmpty then .next (s.engineWaits c need)
      else if refused then .next (s.finish c Status.prot)
      else if let some s1 := s.engAsk c (if c.op = 0x14C then [] else vas) then .next s1
      else
        let r := s.gatherMove c rows
        .next (r.1.finish c (if r.2 then Status.poison else Status.ok))

end Sys2Proof.Machine
end

