-- ==== Sys2Proof/Machine/Net.lean ====
section
/-! DEFINITION. Flows of the hub's fabric side, as senders use them (R392), and collective groups (R398). -/

namespace Sys2Proof.Machine

/-! ### Flows at their source (R392) -/

/-- Kinds of packets that a command's operation sends from its source. -/
def PacketKind.request : PacketKind → Bool
  | .put | .puta | .getreq | .atom | .enq => true
  | _ => false

/-- Drops the kept packets of an operation that ends (R392). -/
def State.freeOp (s : State) (dst domain flow opid : Nat) : State :=
  let t := s.txFlow dst domain flow
  s.putTx { t with kept := t.kept.filter fun e => !(e.1.request && e.2.opid.toNat == opid) }

/-- Drops one kept packet: it is acknowledged (R392). -/
def State.freePacket (s : State) (dst domain flow psn : Nat) : State :=
  let t := s.txFlow dst domain flow
  s.putTx { t with kept := t.kept.filter fun e => e.2.psn.toNat != psn }

/-- Bits of an ACK's AUX above the status (DESIGN CHOICE, unsafe, log 12): the ACK frees its PSN; the operation is a collective. -/
def ackFrees : Nat := 256
def ackColl : Nat := 512

/-! ### Domains and peers (R350, R398) -/

/-- The partition bound to a domain. -/
def State.partitionOf (s : State) (domain : Nat) : Option Nat := (s.fab.binds.find? fun b => b.1 == domain).map (·.2)

/-! ### Collective groups (R398) -/

structure CollGroup where
  valid : Bool
  domain : Nat
  spare : Option Nat
  count : Nat
  pool : Nat
  scale : W32
deriving DecidableEq, Repr, Inhabited

def State.group (s : State) (g : Nat) : CollGroup :=
  let lo := s.reg (Mmio.group g)
  let hi := s.reg (Mmio.group g + 8)
  { valid := lo.getLsbD 0, domain := bits lo 50 43, spare := if lo.getLsbD 51 then some (bits lo 59 52) else none,
    count := bits lo 63 60 + 16 * bits hi 5 0 + 1, pool := bits hi 31 16, scale := (hi >>> 32).setWidth 32 }

/-- Member entry k: package and state. -/
def State.memberEntry (s : State) (k : Nat) : Nat × Bool :=
  let w := s.reg (Mmio.member (k / 4 * 4))
  let e := bits w (16 * (k % 4) + 15) (16 * (k % 4))
  (e % 256, e / 256 % 2 == 1)

def State.setMember (s : State) (k : Nat) (pkg : Nat) (down : Bool) : State :=
  let r := Mmio.member (k / 4 * 4)
  s.setReg r (setBits (s.reg r) (16 * (k % 4) + 15) (16 * (k % 4)) (pkg + if down then 256 else 0))

/-- The members by rank. -/
def State.members (s : State) (g : Nat) : List (Nat × Bool) :=
  let x := s.group g
  (List.range x.count).map fun r => s.memberEntry (x.pool + r)

/-- This package's rank. -/
def State.rankIn (s : State) (g : Nat) : Option Nat := ((s.members g).zipIdx.find? fun e => e.1.1 == s.pkg).map (·.2)

/-! ### Reception (R393) -/

def RxFlow.is (t : RxFlow) (src domain flow : Nat) : Bool := t.src == src && t.domain == domain && t.flow == flow

def State.rxFlow (s : State) (src domain flow : Nat) : RxFlow :=
  (s.fab.rx.find? fun t => t.is src domain flow).getD
    { src, domain, flow, next := 0, done := [], held := [], holes := [], ops := [], atoms := [], dead := [], reads := [] }

def State.putRx (s : State) (t : RxFlow) : State :=
  { s with fab := { s.fab with rx := s.fab.rx.filter (fun x => !x.is t.src t.domain t.flow) ++ [t] } }

end Sys2Proof.Machine
end

