-- ==== Sys2Proof/Machine/Coll.lean ====
section
/-! DEFINITION. Collectives (R345 to R347, R192): issue, what members send one another (DESIGN CHOICE, safe, log 11), the reduction, the end. -/

namespace Sys2Proof.Machine

/-! ### Operands -/

structure CollArgs where
  kind : Nat
  ty : Nat
  op : Nat
  mean : Bool
  root : Nat
  count : Nat
deriving DecidableEq, Repr, Inhabited

/-- D5; a COLL takes its kind from its opcode. -/
def collArgs (c : Command) : CollArgs :=
  let d := dval c.d 5
  { kind := if c.op = 0x151 then bits d 14 13 else c.op - 0x14D, ty := bits d 7 0, op := bits d 11 8, mean := d.getLsbD 12,
    root := bits d 27 16, count := bits d 63 32 }

/-- The parameters that members compare, as one word. -/
def CollArgs.word (a : CollArgs) : W64 :=
  BitVec.ofNat 64 (a.ty + 2 ^ 8 * a.op + (if a.mean then 2 ^ 12 else 0) + 2 ^ 13 * a.kind + 2 ^ 16 * a.root + 2 ^ 32 * a.count)

def collGroup (c : Command) : Nat := (dval c.d 0).toNat
def collFloat (ty : Nat) : Bool := ty == 0x08 || ty == 0x0E || ty == 0x0F
def collWidth (ty : Nat) : Nat := if ty = 0x0E ∨ ty = 0x0F then 2 else 4
def collFmt (ty : Nat) : FFmt := if ty = 0x0E then fp16 else if ty = 0x0F then bf16 else fp32

/-- R346: values that give BADARG, for a group of n. -/
def collBad (c : Command) (n : Nat) : Bool :=
  let a := collArgs c
  let d := dval c.d 5
  !(a.ty == 0 || a.ty == 1 || collFloat a.ty) || decide (2 < a.op) || (a.mean && (a.op != 0 || !collFloat a.ty)) ||
    (a.op != 0 && (a.kind == 2 || a.kind == 3)) || decide (n ≤ a.root) || d.getLsbD 15 || bits d 31 28 != 0 ||
    (c.op != 0x151 && bits d 14 13 != 0)

/-! ### Issue -/

/-- Slots of the die's collective table (R192). -/
def State.collArmed (s : State) (d : Nat) : Nat := (s.cmds.filter fun c => opClass c.op == 4 && c.phase == .armed && dieOfCore c.core == d).length

/-- Issue of a collective: NOGRP is found before BADARG (DEDUCED, unsafe, log 49). -/
def issueColl (r : XRule) (op : Nat) (f : XF) (s : State) : Out :=
  checked (f.named r) s fun s =>
    let d := s.dvals f
    withWord s (dval d 3) 8 true fun s =>
      let late := op == 0x151 && decide (s.gtb.toNat < (dval d 4).toNat)
      let g := (dval d 0).toNat
      let c0 := s.newCommand op d f.imm (if late then .armed else .running)
      let grp := s.group g
      if late ∧ 64 ≤ s.collArmed (dieOfCore s.sq.core) then .next (s.hold .blocked)
      else
        let s1 := s.pin
        if 4096 ≤ g then .next (((s1.addCommand c0).finish c0 Status.badarg).retire f.h)
        else if !grp.valid ∨ (s.rankIn g).isNone then .next (((s1.addCommand c0).finish c0 Status.nogrp).retire f.h)
        else if collBad c0 grp.count then .next (((s1.addCommand c0).finish c0 Status.badarg).retire f.h)
        else
          let k := Tab.getD s.fab.issued (fun _ => 0) g
          let c := { c0 with block := [BitVec.ofNat 64 k] }
          let s2 := { s1 with fab := { s1.fab with issued := Tab.put s1.fab.issued (fun _ => 0) g (k + 1) } }
          .next ((s2.addCommand c).retire f.h)

def execCollAllreduce (f : XF) (s : State) : Out := issueColl (Rule.command 0b101111) 0x14D f s
def execCollReducescatter (f : XF) (s : State) : Out := issueColl (Rule.command 0b101111) 0x14E f s
def execCollAllgather (f : XF) (s : State) : Out := issueColl (Rule.command 0b101111) 0x14F f s
def execCollBcast (f : XF) (s : State) : Out := issueColl (Rule.command 0b101111) 0x150 f s
def execCollat (f : XF) (s : State) : Out := issueColl (Rule.command 0b111111) 0x151 f s

/-! ### Sizes -/

/-- Elements of a member's source, for its rank in a group of n. -/
def CollArgs.sourceCount (a : CollArgs) (n rank : Nat) : Nat :=
  if a.kind = 1 then n * a.count else if a.kind = 3 ∧ rank ≠ a.root then 0 else a.count

def CollArgs.destCount (a : CollArgs) (n : Nat) : Nat := if a.kind = 2 then n * a.count else a.count

/-- Addresses of a command's source and destination. -/
def collSource (c : Command) (n rank : Nat) : List Nat :=
  span (dval c.d 1).toNat (collWidth (collArgs c).ty * (collArgs c).sourceCount n rank)
def collDest (c : Command) (n : Nat) : List Nat := span (dval c.d 2).toNat (collWidth (collArgs c).ty * (collArgs c).destCount n)

/-! ### Streams of the members (DESIGN CHOICE, safe, log 11) -/

def State.collIn (s : State) (src g k : Nat) : CollIn :=
  (s.fab.coll.find? fun x => x.src == src && x.group == g && x.number == k).getD
    { src, group := g, number := k, bytes := [], status := 0, whole := false }

def State.putColl (s : State) (x : CollIn) : State :=
  { s with fab := { s.fab with coll := s.fab.coll.filter (fun y => !(y.src == x.src && y.group == x.group && y.number == x.number)) ++ [x] } }

/-- Drops what is kept of a collective that has ended here. -/
def State.dropColl (s : State) (g k : Nat) : State :=
  { s with fab := { s.fab with coll := s.fab.coll.filter fun y => !(y.group == g && y.number == k) } }

/-- Number of a command's collective on its group. -/
def collNumber (c : Command) : Nat := (dval c.block 0).toNat

/-- Bytes of this member's stream that are poisoned, found as the stream is taken. -/
def collOwnBad (c : Command) : List Nat := (c.block.drop 1).map (·.toNat)

def State.peersIn (s : State) (g : Nat) : List Nat := ((s.members g).map (·.1)).filter fun m => m != s.pkg

/-- Sends the next packets of the stream to every other member, while the flows have room: bytes sent. -/
def State.collSend (s : State) (c : Command) (peers : List Nat) (stream : List W8) (bad : List Nat) (sent : Nat) : Nat → State × Nat
  | 0 => (s, sent)
  | fuel + 1 =>
    let g := collGroup c
    let dom := (s.group g).domain
    if stream.length ≤ sent ∨ peers.any (fun m => !s.windowOpen m dom 0) then (s, sent)
    else
      let part := (stream.drop sent).take maxPayload
      let last := decide (stream.length ≤ sent + part.length)
      let p (m : Nat) : Packet := { Packet.make m dom 0 2 false last (BitVec.ofNat 64 g) sent (collNumber c) part with
        poison := unitsOf sent part.length bad }
      let s1 := peers.foldl (fun s m => s.sendData .coll (p m)) s
      s1.collSend c peers stream bad (sent + part.length) fuel

/-- Tells the other members that the collective has failed here. -/
def State.collFail (s : State) (c : Command) (status : Nat) : State :=
  let g := collGroup c
  let s1 := (s.peersIn g).foldl (fun s m =>
    s.sendData .coll (Packet.make m (s.group g).domain 0 2 true true (BitVec.ofNat 64 g) status (collNumber c) [])) s
  (s1.dropColl g (collNumber c)).finish c status

/-! ### The reduction (R346) -/

/-- Combines two 32-bit values; floats are FP32 encodings. -/
def collCombine (ty op a b : Nat) : Nat :=
  if collFloat ty then
    let x := fp32.decode a
    let y := fp32.decode b
    fp32.exact (if op = 0 then (x.add false y).1 else FVal.minmax (op == 2) false x y)
  else
    let i (v : Nat) : Int := if ty = 1 then v else (BitVec.ofNat 32 v).toInt
    if op = 0 then (a + b) % 2 ^ 32 else if op = 1 then (if i b < i a then b else a) else (if i a < i b then b else a)

/-- Combines along a tree: each step takes two of the values that are left. -/
def treeReduce (f : Nat → Nat → Nat) : List (Nat × Nat) → List Nat → Nat
  | [], xs => xs.headD 0
  | (i, j) :: r, xs =>
    let a := xs.getD (i % xs.length) 0
    let rest := xs.eraseIdx (i % xs.length)
    let b := rest.getD (j % rest.length) 0
    treeReduce f r (f a b :: rest.eraseIdx (j % rest.length))

/-- An element as it is combined: floats widened to FP32. -/
def collWiden (ty : Nat) (bs : List W8) : Nat :=
  let v := leNat bs
  if collFloat ty then fp32.exact ((collFmt ty).decode v) else v

/-- The result in TYPE; with MEAN, scaled exactly and rounded once. -/
def collNarrow (a : CollArgs) (scale : W32) (v : Nat) : List W8 :=
  if !collFloat a.ty then leBytes 4 v
  else
    let x := fp32.decode v
    leBytes (collWidth a.ty) ((collFmt a.ty).exact (if a.mean then (x.mul (fp32.decode scale.toNat)).1 else x))

/-- Bytes of the destination from the members' sources in rank order; `tree` is the shape. -/
def collResult (a : CollArgs) (scale : W32) (rank : Nat) (tree : List (Nat × Nat)) (srcs : List (List W8)) : List W8 :=
  let w := collWidth a.ty
  let elem (bs : List W8) (i : Nat) : List W8 := (bs.drop (w * i)).take w
  match a.kind with
  | 2 => srcs.flatten
  | 3 => srcs.getD a.root []
  | _ =>
    let first := if a.kind = 1 then rank * a.count else 0
    (List.range a.count).flatMap fun i =>
      collNarrow a scale (treeReduce (collCombine a.ty a.op) tree (srcs.map fun b => collWiden a.ty (elem b (first + i))))

/-! ### The end (R347, R37) -/

/-- Poisoned source bytes of the member of rank `of`, as byte indices of the destination that they reach at the member of rank `rank`. -/
def collPoison (a : CollArgs) (rank of : Nat) (bad : List Nat) : List Nat :=
  let w := collWidth a.ty
  match a.kind with
  | 2 => bad.map fun i => of * a.count * w + i
  | 1 => bad.filterMap fun i => if rank * a.count * w ≤ i ∧ i < (rank + 1) * a.count * w then some (i - rank * a.count * w) else none
  | _ => bad

/-- Writes the destination and the word: what a member's poison reaches is written poisoned (R322). -/
def State.collEnd (s : State) (c : Command) (grp : CollGroup) (rank : Nat) (srcs : List (List W8)) (bads : List (List Nat)) : State :=
  let a := collArgs c
  let n := grp.count
  let tree := (List.range (n - 1)).map fun k => ((Config.freeValue (s.free + 2 * k)).toNat, (Config.freeValue (s.free + 2 * k + 1)).toNat)
  let out := collResult a grp.scale rank tree srcs
  let hurt := bads.zipIdx.flatMap fun e => collPoison a rank e.2 e.1
  let ws := (out.zip (collDest c n)).zipIdx.map fun e => (0, e.1.2, e.1.1, hurt.contains e.2)
  let s1 := { s with free := s.free + 2 * (n - 1) }.engWrite c false ws
  let ok := bads.all (·.isEmpty) && (s.mergeBreaks c 0 (collDest c n)).isEmpty
  (s1.dropColl (collGroup c) (collNumber c)).finish c (if ok then Status.ok else Status.poison)

/-- COLLECTIVE_COMPLETE: sends what is left of this member's stream; once every member's stream is here, the collective ends. -/
def execCollectiveComplete (cmd : Nat) (s : State) : Out :=
  match s.command? cmd with
  | none => .next s
  | some c =>
    let g := collGroup c
    if c.phase.isDraining then .next s
    else match s.rankIn g with
    | none => if opClass c.op = 4 then .next (s.finish c Status.member) else .next s
    | some rank =>
      if opClass c.op ≠ 4 ∨ c.phase = .armed then .next s
      else
        let grp := s.group g
        let a := collArgs c
        let src := collSource c grp.count rank
        let dst := collDest c grp.count
        let need := byPage ((src.filter fun v => s.engByte c 0 .read v == .miss).map (fun v => (v, .read)) ++
          (dst.filter fun v => s.engByte c 0 .write v == .miss).map fun v => (v, .write))
        let ins := (s.peersIn g).map fun m => s.collIn m g (collNumber c)
        let failed := ins.find? fun x => x.status != 0
        let act := (s.squadRegion c.who.sid).coll c.part
        if (s.members g).any (·.2) then .next ((s.dropColl g (collNumber c)).finish c Status.member)
        else if c.denied then .next (s.collFail c Status.tfault)
        else if failed.isSome then .next ((s.dropColl g (collNumber c)).finish c ((failed.map (·.status)).getD 0))
        else if !need.isEmpty then .next (s.engineWaits c need)
        else if src.any (fun v => s.engByte c 0 .read v == .refused) || dst.any (fun v => s.engByte c 0 .write v == .refused) then
          .next (s.collFail c Status.prot)
        else if let some s1 := s.engAsk c (if c.layout = [] then src else []) then .next s1
        else
          let r := if c.layout = [] then s.allotCommand act c src.length else (s, c)
          let s := r.1
          let c := r.2
          if c.layout = [] ∧ c.sent < src.length then .next s
          else
            -- the stream is taken when the collective starts
            let fresh := decide (c.layout = [])
            let stream := if fresh then bytes64 a.word ++ (src.map fun v => (s.engRead c 0 v 1).1.headD 0) else c.layout
            let found := if fresh then (src.zipIdx.filter fun e => (s.engRead c 0 e.1 1).2).map fun e => BitVec.ofNat 64 (8 + e.2) else []
            let c0 := { c with block := c.block ++ found }
            let spans := src.map fun v => (0, v, 1)
            let s := if !fresh then s else (s.engTouch c spans).engFails s c spans
            let r := s.collSend c0 (s.peersIn g) stream (collOwnBad c0) (if fresh then 0 else c.sent) (stream.length / maxPayload + 1)
            let c1 := { c0 with layout := stream, sent := if (s.peersIn g).isEmpty then stream.length else r.2 }
            let s1 := r.1.putCommand c1
            if c1.sent < stream.length ∨ ins.any (fun x => !x.whole) then .next s1
            else if ins.any fun x => x.bytes.take 8 ≠ bytes64 a.word then
              .next ((s1.dropColl g (collNumber c)).finish c1 Status.mismatch)
            else
              let of (m : Nat) : List W8 := if m = s.pkg then stream.drop 8 else (s.collIn m g (collNumber c)).bytes.drop 8
              let badOf (m : Nat) : List Nat :=
                let l := if m = s.pkg then collOwnBad c1 else (s.collIn m g (collNumber c)).bad.flatMap fun u => (List.range 64).map (64 * u + ·)
                (l.filter (8 ≤ ·)).map (· - 8)
              .next (s1.collEnd c1 grp rank ((s.members g).map fun m => of m.1) ((s.members g).map fun m => badOf m.1))

end Sys2Proof.Machine
end

