-- ==== Sys2Proof/Machine/Nvme.lean ====
section
/-! DEFINITION. Device-hosted NVMe queue pairs (R348, R349, R383). -/

namespace Sys2Proof.Machine

/-! ### Descriptors (R383) -/

def State.qp (s : State) (q : Nat) : Qp := Tab.getD s.qps (fun _ => Qp.reset) q
def State.setQp (s : State) (q : Nat) (v : Qp) : State := { s with qps := Tab.put s.qps (fun _ => Qp.reset) q v }

structure QpDesc where
  part : Nat
  en : Bool
  block : Nat
  requester : Nat
  sqBase : Nat
  cqBase : Nat
  sqSize : Nat
  cqSize : Nat
  sqDb : W64
  cqDb : W64
  winBase : Nat
  winSize : Nat
  prpArea : Nat
deriving DecidableEq, Repr, Inhabited

def State.qpDesc (s : State) (q : Nat) : QpDesc :=
  let w (o : Nat) : W64 := s.reg (Mmio.nvme q + o)
  { part := bits (w 0) 3 0, en := (w 0).getLsbD 4, block := 2 ^ (bits (w 0) 11 8 + 9), requester := bits (w 0) 31 16,
    sqBase := (w 8).toNat, cqBase := (w 0x10).toNat, sqSize := bits (w 0x18) 11 0 + 1, cqSize := bits (w 0x18) 27 16 + 1,
    sqDb := w 0x20, cqDb := w 0x28, winBase := bits (w 0x30) 38 12 * 4096, winSize := bits (w 0x30) 63 40 * 4096,
    prpArea := (w 0x38).toNat }

/-- The pair that a register names is configured and belongs to the partition, or the instruction traps (R349). -/
def withQp (s : State) (v : W64) (k : State → Nat → QpDesc → Out) : Out :=
  let d := s.qpDesc (v.toNat % 1024)
  if 1024 ≤ v.toNat ∨ !d.en ∨ d.part ≠ s.sq.inst.part then s.protX 0xD v else k s.pin v.toNat d

/-- How the queue logic reads and writes device memory: as BAR2 does for the partition (R382). -/
def State.bar2Key (s : State) (p : Nat) : Nat := bits (s.part p 0) 31 20
def State.bar2Under (s : State) (p : Nat) : Under := { key := s.bar2Key p, cp := 0, c := false, p := false, tag := 0, core := none }

/-! ### NVSUB (R348) -/

/-- Opcodes. -/
def nvOpKnown (op : Nat) : Bool := op == 0x00 || op == 0x01 || op == 0x02 || op == 0x08
def nvOpData (op : Nat) : Bool := op == 0x01 || op == 0x02

/-- 4 KiB memory pages that a buffer touches. -/
def memPages (a n : Nat) : Nat := if n = 0 then 0 else (a + n - 1) / 4096 - a / 4096 + 1

/-- The data pointer's two words, and the list page's entries. -/
def nvPointer (sgl : Bool) (addr len listPage : Nat) : Nat × Nat × List Nat :=
  if sgl then (addr, len, [])
  else
    let n := memPages addr len
    let next (i : Nat) : Nat := (addr / 4096 + 1 + i) * 4096
    if n ≤ 1 then (addr, 0, []) else if n = 2 then (addr, next 0, []) else (addr, listPage, (List.range (n - 1)).map next)

/-- The submission entry (its field places are those of the NVMe standard) (PRESUMED, unsafe, log 83). -/
def nvEntry (op psdt cid nsid : Nat) (ptr : Nat × Nat) (slba cdw : W64) : List W8 :=
  leBytes 4 (op + 2 ^ 14 * psdt + 2 ^ 16 * cid) ++ leBytes 4 nsid ++ leBytes 16 0 ++ leBytes 8 ptr.1 ++ leBytes 8 ptr.2 ++ bytes64 slba ++
    bytes64 cdw ++ leBytes 8 0

/-- Units of up to 4 KiB of a transfer start while the package's and the region's counters are below their budgets (R190): the bytes
admitted in all. -/
def State.nvAllot (s : State) (mine : Spend) (total : Nat) : Nat → Nat → State × Nat
  | 0, n => (s, n)
  | fuel + 1, n =>
    if total ≤ n ∨ !s.mayStart .nvme ∨ !s.mayStart mine then (s, n)
    else
      let unit := min 4096 (total - n)
      ((s.spend .nvme unit).spend mine unit).nvAllot mine total fuel (n + unit)

def execNvsub (f : XF) (s : State) : Out :=
  checked (f.named Rule.nvsub) s fun s =>
    let d := s.dvals f
    withQp s (dval d 0) fun s q x =>
      let op := f.imm.toNat % 256
      let psdt := f.imm.toNat / 2 ^ 14 % 4
      let z := s.qp q
      let len := ((dval d 3).toNat % 2 ^ 16 + 1) * x.block
      let off := (dval d 2).toNat
      let addr := x.winBase + off
      let data := nvOpData op
      let full := decide ((z.tail + 1) % x.sqSize = z.sqHead)
      let range := data && (decide (x.winSize < off + len) || (psdt == 0 && decide (513 < memPages addr len)))
      let answer := z.tail + (if full then 2 ^ 31 else 0) + (if nvOpKnown op then 0 else 2 ^ 30) + if range then 2 ^ 29 else 0
      let done (s : State) : Out := .next ((s.output f 5 (BitVec.ofNat 64 answer) 200).retire f.h)
      if full ∨ !nvOpKnown op ∨ range then done s
      else
        let mine := s.sq.inst.region.nvme s.sq.inst.part
        let total := if data then len else 0
        let paid := s.nvAllot mine total (total / 4096 + 1) s.st.flushed
        if paid.2 < total then
          let t := paid.1.hold .blocked
          .next { t with st := { t.st with flushed := paid.2 } }
        else
          let s := { paid.1 with st := { paid.1.st with flushed := 0 } }
          let u := s.bar2Under x.part
          let list := x.prpArea + 4096 * z.tail
          let p := if data then nvPointer (psdt == 1) addr len list else (0, 0, [])
          let flush := op == 0
          let e := nvEntry op psdt z.tail ((dval d 4).toNat % 2 ^ 32) (p.1, p.2.1) (if flush then 0 else dval d 1) (if flush then 0 else dval d 3)
          let s1 := if p.2.2.isEmpty then s else s.writeAt u list (p.2.2.flatMap fun a => leBytes 8 a)
          let s2 := (s1.writeAt u (x.sqBase + 64 * z.tail) e).setQp q { z with tail := (z.tail + 1) % x.sqSize }
          done s2

/-! ### NVDB, NVCQ (R349) -/

def State.post (s : State) (addr : W64) (v : Nat) : State := { s with hostOut := s.hostOut ++ [.posted addr (BitVec.ofNat 32 v)] }

def execNvdb (f : XF) (s : State) : Out :=
  checked (f.named (Rule.xin 0b000001)) s fun s =>
    withQp s (dval (s.dvals f) 0) fun s q x => .next ((s.post x.sqDb (s.qp q).tail).retire f.h)

def execNvcq (f : XF) (s : State) : Out :=
  checked (f.named Rule.nvcq) s fun s =>
    withQp s (dval (s.dvals f) 2) fun s q x =>
      -- its reading is an acquire at scope sys, and the fences that it contains are acquires and releases (R115, R128)
      releasing s .ar fun s =>
      let z := s.qp q
      let pa := x.cqBase + 16 * z.head
      let e := (List.range 16).map fun i => s.readHome (s.bar2Key x.part) (pa + i)
      let dw (i : Nat) : W32 := BitVec.ofNat 32 (leNat ((e.drop (4 * i)).take 4))
      let k := s.bar2Key x.part
      let s := s.touch k 0 false false [lineOf pa]
      let fenced (s : State) : State := s.selfInvalidate s.sq.core
      if s.isBad pa then .next (s.consume .media 0 s.st.exec 1)
      else if s.violates k pa then .next ((s.keyFails k pa PathCode.core).consume .integ 0 s.st.exec (BitVec.ofNat 64 k))
      else if (dw 3).getLsbD 16 == z.phase then
        let head := (z.head + 1) % x.cqSize
        let z1 := { z with head, phase := if head = 0 then !z.phase else z.phase, sqHead := (dw 2).toNat % 2 ^ 16 }
        let s1 := fenced ((s.setQp q z1).post x.cqDb head)
        .next (((s1.output f 0 ((dw 3).setWidth 64 ||| 0x100000000) 200).output f 1 ((dw 0).setWidth 64) 200).retire f.h)
      else if f.imm.getLsbD 0 then .next ((fenced s).hold .blocked)
      else .next ((((fenced s).output f 0 0 200).output f 1 0 200).retire f.h)

end Sys2Proof.Machine
end

