-- ==== Sys2Proof/Machine/Fabric.lean ====
section
/-! DEFINITION. Fabric operations at their source (R350 to R352, R392, R393). -/

namespace Sys2Proof.Machine

/-! ### Operands -/

structure FabArgs where
  pkg : Nat
  flow : Nat
  ordered : Bool
  space : Nat
  bad : Bool
deriving DecidableEq, Repr, Inhabited

/-- D2 (R350). -/
def fabArgs (c : Command) : FabArgs :=
  let d := dval c.d 2
  { pkg := bits d 7 0, flow := bits d 23 16, ordered := d.getLsbD 31, space := bits d 33 32,
    bad := bits d 15 8 != 0 || bits d 30 24 != 0 || (d >>> 34) != 0 }

def isAtomOp (op : Nat) : Bool := decide (0x158 ≤ op ∧ op ≤ 0x15A)

/-- Bytes of a remote RMW's operand. -/
def fatomWidth (c : Command) : Nat := if c.op ≠ 0x159 ∧ c.imm.getLsbD 5 then 8 else 4

/-- AUX of an ATOM packet (DESIGN CHOICE, unsafe, log 12): AOP, unsigned, 64-bit, float, compare and swap. -/
def fatomAux (c : Command) : Nat :=
  c.imm.toNat % 64 + (if c.op = 0x159 then 64 else 0) + if c.op = 0x15A then 128 else 0

def fabCount (c : Command) : Nat := (dval c.d 4).toNat

/-! ### Sending -/

/-- One address in each page of a range. -/
def pageStarts (a n : Nat) : List Nat :=
  if n = 0 then [] else (List.range ((a + n - 1) / 2 ^ 16 - a / 2 ^ 16 + 1)).map fun i => if i = 0 then a else (a / 2 ^ 16 + i) * 2 ^ 16

/-- An earlier operation of the same flow that has packets to send: those of a flow leave in order. -/
def State.fabBehind (s : State) (c : Command) : Bool :=
  let a := fabArgs c
  s.cmds.any fun e =>
    let b := fabArgs e
    opClass e.op == 5 && decide (e.id < c.id) && e.part == c.part && b.pkg == a.pkg && b.flow == a.flow &&
      if e.op = 0x155 ∨ e.op = 0x156 then decide (e.sent < fabCount e + if e.op = 0x156 then 1 else 0) else e.layout.isEmpty

/-- Drops an operation's packets and ends it. -/
def State.fabEnd (s : State) (c : Command) (status : Nat) : State :=
  let a := fabArgs c
  (s.freeOp a.pkg (s.domainOf c.part) a.flow c.id).finish c status

/-- The packet of an operation that sends one. -/
def fabRequest (c : Command) (dom : Nat) : PacketKind × Packet :=
  let a := fabArgs c
  if c.op = 0x157 then (.getreq, Packet.make a.pkg dom a.flow 0 a.ordered true (dval c.d 0) 0 c.id (leBytes 8 (fabCount c)))
  else (.atom, Packet.make a.pkg dom a.flow 1 a.ordered true (dval c.d 0) (fatomAux c) c.id (bytes64 (dval c.d 1) ++ bytes64 (dval c.d 5)))

/-- The transmission of a command, charged to its region (R190, R350). -/
def State.transmits (s : State) (c : Command) : Spend := (s.squadRegion c.who.sid).fabTx c.part

/-- Sends what a put may send now: payload in packets of up to 4 KiB, then FPUTA's word. -/
def State.putSend (s : State) (c : Command) : Nat → State
  | 0 => s.putCommand c
  | fuel + 1 =>
    let a := fabArgs c
    let dom := s.domainOf c.part
    let n := fabCount c
    let act := s.transmits c
    if n + (if c.op = 0x156 then 1 else 0) ≤ c.sent ∨ !s.windowOpen a.pkg dom a.flow ∨ !s.mayStart act then s.putCommand c
    else if c.sent = n then
      -- R350: VALUE with DATA 0, after the payload
      let p := Packet.make a.pkg dom a.flow 0 a.ordered true (dval c.d 5) n c.id (bytes64 (wordValue c.imm Status.ok 0))
      ((s.sendData .puta p).spend act 8).putCommand { c with sent := n + 1 }
    else
      let len := min maxPayload (n - c.sent)
      let va := (dval c.d 0).toNat + c.sent
      let need := (pageStarts va len).filter fun v => s.engByte c 0 .read v == .miss
      if !need.isEmpty then s.engineWaits c (need.map fun v => (v, .read))
      else if (pageStarts va len).any fun v => s.engByte c 0 .read v == .refused then s.fabEnd c Status.prot
      else if let some s1 := s.engAsk c (span va len) then s1
      else
        let r := s.engRead c 0 va len
        let last := c.op == 0x155 && decide (c.sent + len = n)
        -- AUX is the byte offset, and ADDR takes what AUX has no room for
        let hurt := (List.range len).filter fun k => (s.engRead c 0 (va + k) 1).2
        let p := { Packet.make a.pkg dom a.flow 0 a.ordered last (dval c.d 1 + BitVec.ofNat 64 (c.sent / 2 ^ 32 * 2 ^ 32)) c.sent c.id r.1 with
          poison := unitsOf 0 len hurt }
        let c1 := { c with sent := c.sent + len, block := if r.2 then [1] else c.block }
        let s1 := (s.engTouch c [(0, va, len)]).engFails s c [(0, va, len)]
        ((s1.sendData (if c.op = 0x156 then .puta else .put) p).spend act len).putSend c1 fuel

/-- Pages that an operation other than a put writes here. -/
def fabPages (c : Command) : List Nat :=
  if c.op = 0x157 ∧ (fabArgs c).space = 0 then pageStarts (dval c.d 1).toNat (fabCount c) else []

/-- Sends what a running operation may send now. `layout` of an operation with one request is nonempty once it is
sent. -/
def State.fabStep (s : State) (id : Nat) : State :=
  match s.command? id with
  | none => s
  | some c =>
    let a := fabArgs c
    let dom := s.domainOf c.part
    if opClass c.op ≠ 5 ∨ c.phase ≠ .running ∨ s.fabBehind c then s
    else if c.denied then s.fabEnd c Status.tfault
    else if c.op = 0x155 ∨ c.op = 0x156 then s.putSend c (flowWindow + 1)
    else if !c.layout.isEmpty ∨ !s.windowOpen a.pkg dom a.flow ∨ !s.mayStart (s.transmits c) then s
    else
      let need := (fabPages c).filter fun v => s.engByte c 0 .write v == .miss
      if !need.isEmpty then s.engineWaits c (need.map fun v => (v, .write))
      else if (fabPages c).any fun v => s.engByte c 0 .write v == .refused then s.fabEnd c Status.prot
      else
        let r := fabRequest c dom
        ((s.sendData r.1 r.2).spend (s.transmits c) r.2.payload.length).putCommand { c with layout := [1] }

/-- Every fabric operation and every access through a peer window sends what it may, oldest first. -/
def State.fabPump (s : State) : State := ((s.cmds.map (·.id)).foldl (fun s i => s.fabStep i) s).windowPump

/-! ### FPUT, FPUTA, FGET (R350) -/

/-- FGET's destination in own scratchpad (R43, R44). -/
def withDest (s : State) (c : Command) (k : State → Out) : Out :=
  let v := dval c.d 1
  if c.op = 0x157 ∧ (fabArgs c).space = 1 then
    if (v >>> 20) != 0 then s.protX 6 v
    else if (List.range (fabCount c)).any fun i => (s.ownSp s.sq.sid (v.toNat + i)).isNone then s.protX 8 v
    else k s
  else k s

def issueFabric (r : XRule) (op : Nat) (f : XF) (s : State) : Out :=
  checked (f.named r) s fun s =>
    let c := s.newCommand op (s.dvals f) f.imm .running
    let a := fabArgs c
    withWord s (dval c.d 3) 8 true fun s =>
      withDest s c fun s =>
        let s1 := s.pin.addCommand c
        let ends (st : Nat) : Out := .next ((s1.finish c st).retire f.h)
        if a.bad ∨ 2 ≤ a.space ∨ (op ≠ 0x157 ∧ a.space ≠ 0) then ends Status.badarg
        else if fabCount c = 0 then ends Status.ok
        else if op = 0x156 ∧ (dval c.d 5).toNat % 8 ≠ 0 then ends Status.misalign
        else if s.isDown a.pkg then ends Status.down
        else .next ((s1.fabStep c.id).retire f.h)

def execFput (f : XF) (s : State) : Out := issueFabric (Rule.command 0b011111) 0x155 f s
def execFputa (f : XF) (s : State) : Out := issueFabric (Rule.command 0b111111) 0x156 f s
def execFget (f : XF) (s : State) : Out := issueFabric (Rule.command 0b011111) 0x157 f s

/-! ### FATOM, FCAS (R351) -/

def issueFatom (r : XRule) (op : Nat) (f : XF) (s : State) : Out :=
  checked (f.named r) s fun s =>
    let c := s.newCommand op (s.dvals f) f.imm .running
    let a := fabArgs c
    withWord s (dval c.d 3) 16 true fun s =>
      let s1 := s.pin.addCommand c
      let ends (st : Nat) : Out := .next ((s1.finish c st).retire f.h)
      if a.bad ∨ a.space ≠ 0 ∨ (dval c.d 4 >>> 31) != 0 then ends Status.badarg
      else if (dval c.d 0).toNat % fatomWidth c ≠ 0 then ends Status.misalign
      else if s.isDown a.pkg then ends Status.down
      else .next ((s1.fabStep c.id).retire f.h)

def execFatomInt (f : XF) (s : State) : Out := issueFatom Rule.fatomI 0x158 f s
def execFatomF32 (f : XF) (s : State) : Out := issueFatom Rule.fatomF 0x159 f s
def execFcas (f : XF) (s : State) : Out := issueFatom Rule.fcas 0x15A f s

/-! ### FFENCE (R352) -/

/-- An operation of the stream that FFENCE waits for. -/
def State.fabOwed (s : State) (v : W64) : Bool :=
  s.cmds.any fun c => s.issuedHere c.who c.id && opClass c.op == 5 && c.op != 0x157 && (v.getLsbD 8 || (fabArgs c).pkg == v.toNat % 256)

def execFfence (f : XF) (s : State) : Out :=
  checked (f.named (Rule.xin 0b000001)) s fun s =>
    let s1 := s.pin
    if s1.fabOwed (dval (s1.dvals f) 0) then .next (s1.hold .blocked) else releasing s1 .ar fun s => .next (s.retire f.h)

end Sys2Proof.Machine
end

