-- ==== Sys2Proof/Machine/Sched.lean ====
section
/-! DEFINITION. What scheduling shares: device accesses to partition memory, queues and enqueues (R173, R174), a core's
free resources and region budgets (R42, R150), exhaustion (R159), splitting and ready pools (R160, R163, R180, R181). -/

namespace Sys2Proof.Machine

/-! ### Device accesses by virtual address -/

/-- Bytes at a partition's address, by the tables as they stand; none where a page is not mapped. -/
def State.deviceRead (s : State) (p va n : Nat) : Option (List W8) :=
  (List.range n).foldr (fun i a => match a, s.deviceVa p (va + i) with
    | some l, some e => some (s.readHome e.key (e.pa (va + i)) :: l)
    | _, _ => none) (some [])

def State.deviceWord (s : State) (p va : Nat) : Option W64 := (s.deviceRead p va 8).map word64

/-- Writes bytes that lie in one page; where it is not mapped, the write is dropped and logged. -/
def State.deviceWrite (s : State) (p va : Nat) (bs : List W8) : State :=
  match s.deviceVa p va with
  | some e => s.writeAt (e.device (s.tagOf (lineOf (e.pa va)))) (e.pa va) bs
  | none => s.drop va

/-! ### Queues (R173, R174) -/

structure QueueDesc where
  part : Nat
  va : Nat
  ring : Nat
  quantum : Nat
  gen : Nat
  size : Nat
  state : Nat
  rd : Nat
  wr : Nat
deriving DecidableEq, Repr, Inhabited

/-- A descriptor whose reserved fields are zero and whose ring is aligned (R10, R173): bytes 0x20 to 0x3F are `rest`. -/
def queueFormed (ring ctl : W64) (rest : List W8) : Bool := clearOf ctl 0xFFFFFFFF03FF0F07 && ring.toNat % 4096 == 0 && rest.all (· == 0)

/-- Queue q of partition p; none where no such queue exists. One whose descriptor is not well formed is as in STATE 0 (R10). -/
def State.queue? (s : State) (p q : Nat) : Option QueueDesc :=
  if !s.partValid p ∨ bits (s.part p 0x18) 10 0 ≤ q then none
  else
    let va := (s.part p 0x10).toNat + 64 * q
    match s.deviceWord p va, s.deviceWord p (va + 8), s.deviceWord p (va + 16), s.deviceWord p (va + 24), s.deviceRead p (va + 32) 32 with
    | some ring, some ctl, some rd, some wr, some rest =>
      let quantum := bits ctl 63 32
      some { part := p, va, ring := ring.toNat, quantum := if quantum = 0 then 65536 else quantum, gen := bits ctl 25 16, size := bits ctl 11 8,
             state := if queueFormed ring ctl rest then bits ctl 2 0 else 0, rd := bits rd 31 0, wr := bits wr 31 0 }
    | _, _, _, _, _ => none

/-- A use of a descriptor that is not well formed is logged, once for each queue (R10). -/
def State.noteQueue (s : State) (p q : Nat) : State :=
  if !s.partValid p ∨ bits (s.part p 0x18) 10 0 ≤ q then s
  else
    let va := (s.part p 0x10).toNat + 64 * q
    match s.deviceWord p va, s.deviceWord p (va + 8), s.deviceRead p (va + 32) 32 with
    | some ring, some ctl, some rest =>
      let e : LogEntry := .notice 173 (BitVec.ofNat 64 (1024 * p + q))
      if queueFormed ring ctl rest ∨ s.log.contains e then s else s.note e
    | _, _, _ => s

/-- ACTIVE, SWAPPED, or else unusable. -/
def QueueDesc.usable (x : QueueDesc) : Bool := (x.state == 1 || x.state == 2) && decide (x.size ≤ 12)
def QueueDesc.slots (x : QueueDesc) : Nat := 2 ^ (x.size + 4)
def QueueDesc.held (x : QueueDesc) : Nat := (x.wr + 2 ^ 32 - x.rd) % 2 ^ 32
def QueueDesc.full (x : QueueDesc) : Bool := decide (x.slots ≤ x.held)

def State.putRd (s : State) (p : Nat) (x : QueueDesc) (v : Nat) : State := s.deviceWrite p (x.va + 16) (leBytes 8 (v % 2 ^ 32))
def State.putWr (s : State) (p : Nat) (x : QueueDesc) (v : Nat) : State := s.deviceWrite p (x.va + 24) (leBytes 8 (v % 2 ^ 32))

/-- Puts a packet into the slot at WRIDX, which advances. -/
def State.putPacketIn (s : State) (p : Nat) (x : QueueDesc) (pkt : List W8) : State :=
  (s.deviceWrite p (x.ring + 64 * (x.wr % x.slots)) pkt).putWr p x (x.wr + 1)

/-- A queue handle: package, queue, generation (R353). -/
def handlePkg (h : W64) : Nat := (h >>> 20).toNat
def handleQueue (h : W64) : Nat := bits h 19 10
def handleGen (h : W64) : Nat := bits h 9 0

/-- What an enqueue comes to (R174). -/
inductive EnqAns where
  /-- Decided: the status, and the state with the packet in its ring. -/
  | done (status : Nat) (s : State)
  | full
deriving DecidableEq, Repr

/-- An enqueue; an empty packet stands for the word of a batch, which takes no slot (R358). -/
def State.enqueue (s : State) (p : Nat) (h : W64) (pkt : List W8) : EnqAns :=
  match s.queue? p (handleQueue h) with
  | none => .done Status.noq s
  | some x =>
    if !x.usable then .done Status.noq (s.noteQueue p (handleQueue h))
    else if x.gen ≠ handleGen h then .done Status.stale s
    else if pkt.isEmpty then .done (if x.state = 2 then Status.deferred else Status.ok) s
    else if x.full then .full
    else .done (if x.state = 2 then Status.deferred else Status.ok) (s.putPacketIn p x pkt)

/-- Places of the hub's enqueue buffer. -/
def enqPlaces : Nat := 256

/-- An earlier packet for the same queue is in the buffer. -/
def State.enqBehind (s : State) (p : Nat) (h : W64) : Bool := s.sched.enq.any fun e => e.part == p && handleQueue e.handle == handleQueue h

def State.buffer (s : State) (e : Enqueue) : State := { s with sched := { s.sched with enq := s.sched.enq ++ [e] } }

/-- Tries one enqueue: none where neither the ring nor the buffer has a place. -/
def State.tryEnqueue (s : State) (e : Enqueue) : Option State :=
  if s.enqBehind e.part e.handle then (if enqPlaces ≤ s.sched.enq.length then none else some (s.buffer e))
  else match s.enqueue e.part e.handle e.packet with
    | .done st s1 => some (s1.enqWord e st)
    | .full => if enqPlaces ≤ s.sched.enq.length then none else some (s.buffer e)

/-! ### Resources of a core (R42, R156) -/

def granCap : Nat := 128
def waveSlots : Nat := 24

/-- Granules in use in a quadrant. -/
def State.gransUsed (s : State) (c quad : Nat) : Nat :=
  (((s.residents c).flatMap (·.waves)).filter fun w => w.quad == quad && !w.ended).foldl (fun a w => a + w.gran) 0

def State.slotsUsed (s : State) (c quad : Nat) : List Nat :=
  (((s.residents c).flatMap (·.waves)).filter fun w => w.quad == quad && !w.ended).map (·.slot)

/-- A stripe of a core is FREE. -/
def State.stripeFree (s : State) (c k : Nat) : Bool :=
  let x := s.core c
  decide (k < x.cap) && !x.doomed.contains k && !(s.residents c).any fun q => q.stripes.contains k

/-- The lowest run of `n` consecutive FREE stripes. -/
def State.freeRun (s : State) (c n : Nat) : Option Nat :=
  (List.range 33).find? fun b => decide (b + n ≤ 32) && (List.range n).all fun i => s.stripeFree c (b + i)

/-! ### Region budgets (R150) -/

/-- Squads that hold resources under a budget's RCB. -/
def State.budgeted (s : State) (p : Nat) (rcb : W64) : List Squad :=
  s.everySquad.filter fun q => q.part == p && q.place == .resident && q.inst.region.budgets.any fun b => b.rcb == rcb

/-- Each budget has room for more granules, stripes, and for a core. -/
def State.budgetRoom (s : State) (i : Instance) (grans stripes : Nat) (core : Option Nat) : Bool :=
  i.region.budgets.all fun b =>
    let qs := s.budgeted i.part b.rcb
    let g := (qs.flatMap (·.waves)).foldl (fun a w => if w.ended then a else a + w.gran) 0
    let st := qs.foldl (fun a q => a + q.stripes.length) 0
    let cores := distinct (qs.map (·.core))
    decide (g + grans ≤ b.grans) && decide (st + stripes ≤ b.stripes) &&
      match core with
      | some c => cores.contains c || decide (cores.length < b.cores)
      | none => true

/-! ### Splitting (R154, R160, R163) -/

/-- First axis of the split order whose extent exceeds its grain. -/
def Instance.splitAxis (i : Instance) : Option Nat := i.split.find? fun a => decide (i.grain.getD a 1 < i.hi.getD a 0 - i.lo.getD a 0)

def Instance.depth (i : Instance) : Nat := i.path.toNat / 2 ^ 27

def Instance.splittable (i : Instance) : Bool := i.splitAxis.isSome && decide (i.depth < 27)

def Instance.mid (i : Instance) (ax : Nat) : Nat := i.lo.getD ax 0 + (i.hi.getD ax 0 - i.lo.getD ax 0) / 2

/-- The path of a half. -/
def Instance.childPath (i : Instance) (upper : Bool) : W32 :=
  BitVec.ofNat 32 ((i.depth + 1) * 2 ^ 27 + i.path.toNat % 2 ^ 27 + if upper then 2 ^ i.depth else 0)

/-- A half as it is queued. -/
def Instance.half (i : Instance) (ax : Nat) (upper : Bool) : Instance :=
  let m := i.mid ax
  { i with lo := if upper then i.lo.set ax m else i.lo, hi := if upper then i.hi else i.hi.set ax m,
           path := i.childPath upper, allow := i.recAllow, pinned := i.pinFlag }

/-- Stripe need (R154). -/
def Instance.need (i : Instance) : Nat :=
  let n (a : Nat) : Nat := i.hi.getD a 0 - i.lo.getD a 0
  i.sbase + (i.scoef * n 0 * n 1 * n 2 + 2 ^ 24 - 1) / 2 ^ 24

/-! ### Nodes and pools -/

def State.node? (s : State) (n : Nat) : Option Node := s.sched.nodes.find? fun x => x.id == n
def State.updNode (s : State) (n : Nat) (f : Node → Node) : State :=
  { s with sched := { s.sched with nodes := s.sched.nodes.map fun x => if x.id = n then f x else x } }

def tabAt (t : Tab Nat) (k : Nat) : Nat := Tab.getD t (fun _ => 0) k
def tabSet (t : Tab Nat) (k v : Nat) : Tab Nat := Tab.put t (fun _ => 0) k v

/-- One instance in the node table. -/
def EndCount.one : EndCount := { cores := [], clusters := [], dies := [], package := 1 }

/-- Adds to a die's counter, which reports when it leaves zero. -/
def EndCount.addDie (x : EndCount) (d k : Nat) : EndCount :=
  { x with dies := tabSet x.dies d (tabAt x.dies d + k), package := if tabAt x.dies d = 0 ∧ k ≠ 0 then x.package + 1 else x.package }

def EndCount.addCluster (x : EndCount) (c k : Nat) : EndCount :=
  let y := { x with clusters := tabSet x.clusters c (tabAt x.clusters c + k) }
  if tabAt x.clusters c = 0 ∧ k ≠ 0 then y.addDie (c / 12) 1 else y

/-- end_counter_add: instances count where they are (R170). -/
def EndCount.add (x : EndCount) (at_ : Level) (k : Nat) : EndCount :=
  match at_ with
  | .package => { x with package := x.package + k }
  | .die d => x.addDie d k
  | .core c =>
    let y := { x with cores := tabSet x.cores c (tabAt x.cores c + k) }
    if tabAt x.cores c = 0 ∧ k ≠ 0 then y.addCluster (c / 4) 1 else y

/-- Takes from a die's counter, which reports when it reaches zero. -/
def EndCount.subDie (x : EndCount) (d k : Nat) : EndCount :=
  let n := tabAt x.dies d
  { x with dies := tabSet x.dies d (n - k), package := if n ≠ 0 ∧ n ≤ k then x.package - 1 else x.package }

def EndCount.subCluster (x : EndCount) (c k : Nat) : EndCount :=
  let n := tabAt x.clusters c
  let y := { x with clusters := tabSet x.clusters c (n - k) }
  if n ≠ 0 ∧ n ≤ k then y.subDie (c / 12) 1 else y

/-- end_counter_sub. -/
def EndCount.sub (x : EndCount) (at_ : Level) (k : Nat) : EndCount :=
  match at_ with
  | .package => { x with package := x.package - k }
  | .die d => x.subDie d k
  | .core c =>
    let n := tabAt x.cores c
    let y := { x with cores := tabSet x.cores c (n - k) }
    if n ≠ 0 ∧ n ≤ k then y.subCluster (c / 4) 1 else y

/-- end_counter_add of a node (R160, R170). -/
def State.countNode (s : State) (n : Nat) (at_ : Level) (k : Nat) : State := s.updNode n fun x => { x with count := x.count.add at_ k }

/-- An instance moves from one place to another: it is counted there before it leaves here. -/
def State.moveCount (s : State) (n : Nat) (from_ to_ : Level) : State := s.updNode n fun x => { x with count := (x.count.add to_ 1).sub from_ 1 }

def poolSize : Nat := 1024
def poolKept : Nat := 64
def spillSize : Nat := 65536

def Die.keptUsed (x : Die) : Nat := (x.pool.filter (·.kept)).length
def Die.openUsed (x : Die) : Nat := (x.pool.filter fun e => !e.kept).length

/-- SPILLBASE.EN. -/
def State.spillOn (s : State) (d : Nat) : Bool := (s.reg (Mmio.spillbase d)).getLsbD 0

/-- Cores of a partition that are not quarantined at the target point. -/
def State.usableCores (s : State) (p : Nat) : List Nat :=
  (List.range 192).filter fun c => s.ownsCore p c && !(s.core c).quarantine.contains s.power.target

/-- The largest SPCAP.NEXT among them. -/
def State.maxNext (s : State) (p : Nat) : Nat := (s.usableCores p).foldl (fun a c => max a (s.core c).next) 0

/-- The instance that keeps the lower half of an axis (R357). -/
def Instance.narrowed (i : Instance) (x : Split) : Instance := { i with hi := i.hi.set x.axis x.mid, path := i.childPath false }

/-- The squad's instance as decisions about it find it: every TSPLIT counts (R359). -/
def Squad.splitInst (q : Squad) : Instance := q.splits.foldl Instance.narrowed q.inst

/-- TSPLITs whose cycle has come show in DOM and INSTPATH (R321). -/
def Squad.landSplits (q : Squad) (cycle : Nat) : Squad :=
  if q.splits.isEmpty then q
  else { q with inst := (q.splits.takeWhile fun x => decide (x.lands ≤ cycle)).foldl Instance.narrowed q.inst,
                splits := q.splits.dropWhile fun x => decide (x.lands ≤ cycle) }

/-- Pre-split (R163): the instances that enter a pool in place of one, lower halves first. One that cannot be split
and does not fit will start with NOCAP, pinned. -/
def Instance.fit (next : Nat) (i : Instance) : Nat → List Instance
  | 0 => [i]
  | fuel + 1 =>
    if i.need ≤ next then [i]
    else match i.splitAxis with
      | .none => [{ i with nocap := true, pinned := true }]
      | .some ax =>
        if 27 ≤ i.depth then [{ i with nocap := true, pinned := true }]
        else (i.half ax false).fit next fuel ++ (i.half ax true).fit next fuel

/-- What an instance becomes as it enters a pool. A partition without a core tests nothing. -/
def State.fitted (s : State) (i : Instance) : List Instance := if (s.usableCores i.part).isEmpty then [i] else i.fit (s.maxNext i.part) 28

/-- The pre-splits are counted, and each adds an instance to the node's end counter, in its die's pool. -/
def State.notePresplit (s : State) (node d n : Nat) : State :=
  let s1 := s.countNode node (.die d) (n - 1)
  { s1 with sched := { s1.sched with presplits := s.sched.presplits + (n - 1) } }

/-- Names an instance among those alive. -/
def Instance.key (i : Instance) : Nat := i.node * 2 ^ 32 + i.path.toNat

/-- One instance enters its home die's pool or the spill ring as a half does; none where there is no entry (R180). While the ring holds
entries, those fill the pool, and a half goes to the ring (R181). The ring's entries are kept as they are, since the layout of their 64
bytes is not given (DESIGN CHOICE, unsafe, log 112). -/
def State.enterHalf (s : State) (i : Instance) : Option State :=
  let x := s.die i.die
  let e (kept : Bool) : PoolEntry := { inst := i, since := s.cycle, kept }
  if !x.spill.isEmpty then
    (if s.spillOn i.die ∧ x.spill.length < spillSize then some (s.updDie i.die fun x => { x with spill := x.spill ++ [e false] }) else none)
  else if x.keptUsed < poolKept then some (s.updDie i.die fun x => { x with pool := x.pool ++ [e true] })
  else if x.openUsed < poolSize - poolKept then some (s.updDie i.die fun x => { x with pool := x.pool ++ [e false] })
  else if s.spillOn i.die ∧ x.spill.length < spillSize then some (s.updDie i.die fun x => { x with spill := x.spill ++ [e false] })
  else none

/-- A half with its pre-splits; none where an entry is missing. -/
def State.queueHalf? (s : State) (i : Instance) : Option State :=
  let l := s.fitted i
  l.foldl (fun a j => a.bind fun s => s.enterHalf j) (some (s.notePresplit i.node i.die l.length))

/-- A half of a false start: where there is no entry, or others wait for one, it waits, and the wait is logged (R181). -/
def State.queueHalf (s : State) (i : Instance) : State :=
  match (if (s.die i.die).late.isEmpty then s.queueHalf? i else none) with
  | some s1 => s1
  | none => (s.updDie i.die fun x => { x with late := x.late ++ [i] }).note (.spillWait i.node)

/-! ### Exhaustion (R159) -/

def Exhausted.code : Exhausted → Nat
  | .registers => 0
  | .scratchpad => 1
  | .time => 2
  | _ => 0

/-- The focused squad is to be false-started. -/
def State.exhausts (s : State) (cause : Exhausted) : State := { s with sq := { s.sq with exhausted := some cause } }.due (.falseStart s.sq.sid cause)

/-- The focused stream's instruction exhausts a resource. -/
def State.exhaust (s : State) (cause : Exhausted) (amount : Nat) : State :=
  let i := s.sq.splitInst
  let code := if i.pinned then (if cause = .time then Cause.overtime else Cause.nocap) else Cause.grain
  if !s.st.trap.hmode ∧ !i.pinned ∧ i.splittable then (s.hold .blocked).exhausts cause
  else s.trap { code, tpc := s.st.pc, mask := s.st.exec, info0 := BitVec.ofNat 64 (Exhausted.code cause), info1 := BitVec.ofNat 64 amount }

end Sys2Proof.Machine
end

