-- ==== Sys2Proof/Machine/Task.lean ====
section
/-! DEFINITION. Task instructions (R353 to R358). -/

namespace Sys2Proof.Machine

/-! ### TENQ, TRENQ (R353) -/

/-- A launch packet in own scratchpad, read at issue. -/
def withPacket (s : State) (v : W64) (k : State → List W8 → Out) : Out :=
  withOffset s v 64 fun s =>
    let t : Sp := .core s.sq.core
    if (List.range 64).any fun i => s.spBad t (v.toNat + i) then .next (s.consume .media v s.st.exec 1)
    else k s (s.spBytes t v.toNat 64)

def State.newEnqueue (s : State) (h : W64) (pkt : List W8) (word : Option (W64 × W32)) : Enqueue :=
  { who := s.me, part := s.sq.inst.part, handle := h, packet := pkt, word := word.map fun w => (s.sq.core, w.1.toNat, w.2),
    remote := none }

def Batch.limit : Nat := 64

/-- Publishes a batch: the packets in order, all or, where the hub has no place for one, none (R358). -/
def State.publish (s : State) (es : List Enqueue) : Option State :=
  es.foldl (fun a e => a.bind fun s => s.tryEnqueue e) (some s)

def execTenq (f : XF) (s : State) : Out :=
  checked (f.named (Rule.command 0b000111)) s fun s =>
    let d := s.dvals f
    let h := dval d 0
    withPacket s (dval d 1) fun s pkt =>
      withWord s (dval d 2) 8 true fun s =>
        releasing s.pin .rel fun s =>
        let e := s.newEnqueue h pkt (some (dval d 2, f.imm))
        if handlePkg h ≠ s.pkg then .next ((s.enqWord e Status.noq).retire f.h)
        else match s.st.batch with
          | some b =>
            -- the batch holds the TENQs to its queue, each with its own generation
            if handleQueue b.handle ≠ handleQueue h ∨ b.refused then
              match s.tryEnqueue e with
              | some s1 => .next (s1.retire f.h)
              | none => .next (s.hold .blocked)
            else if b.held.length < Batch.limit then
              .next ({ s with st := { s.st with batch := some { b with held := b.held ++ [e] } } }.retire f.h)
            else match s.publish b.held with
              | some s1 => .next ({ s1 with st := { s1.st with batch := some { b with held := [e] } } }.retire f.h)
              | none => .next (s.hold .blocked)
          | none =>
            match s.tryEnqueue e with
            | some s1 => .next (s1.retire f.h)
            | none => .next (s.hold .blocked)

/-- TRENQ is an ENQ packet of class 1; its word is written when the target's answer arrives. -/
def execTrenq (f : XF) (s : State) : Out :=
  checked (f.named (Rule.command 0b000111)) s fun s =>
    let d := s.dvals f
    let h := dval d 0
    withPacket s (dval d 1) fun s pkt =>
      withWord s (dval d 2) 8 true fun s =>
        releasing s.pin .rel fun s =>
        let c := s.newCommand 0x161 [h, dval d 1, 0, dval d 2, 0, 0] f.imm .running
        let dom := s.domainOf c.part
        if 256 ≤ handlePkg h then .next (((s.addCommand c).finish c Status.noq).retire f.h)
        else if s.isDown (handlePkg h) then .next (((s.addCommand c).finish c Status.down).retire f.h)
        else if !s.windowOpen (handlePkg h) dom 0 ∨ !s.mayStart (s.transmits c) then .next (s.hold .blocked)
        else
          let s1 := (s.addCommand c).sendData .enq (Packet.make (handlePkg h) dom 0 1 false true h 0 c.id pkt)
          .next ((s1.spend (s.transmits c) 64).retire f.h)

/-! ### GOPEN, GCLOSE (R358) -/

def execGopen (f : XF) (s : State) : Out :=
  checked (f.named (Rule.xin 0b000001)) s fun s =>
    let h := dval (s.dvals f) 0
    let s := s.pin
    match s.publish ((s.st.batch.map (·.held)).getD []) with
    | none => .next (s.hold .blocked)
    | some s1 =>
      let b : Batch := { handle := h, refused := handlePkg h != s.pkg, held := [] }
      .next ({ s1 with st := { s1.st with batch := some b } }.retire f.h)

/-- GCLOSE: the held packets in order, then its own word, with the status that a packet to the queue would have then (R174). -/
def execGclose (f : XF) (s : State) : Out :=
  checked (f.named (Rule.command 0b000001)) s fun s =>
    let v := dval (s.dvals f) 0
    withWord s v 8 true fun s =>
      match s.publish ((s.st.batch.map (·.held)).getD []) with
      | none => .next (s.hold .blocked)
      | some s1 =>
        let s2 := { s1 with st := { s1.st with batch := none } }
        let e (h : W64) : Enqueue := s2.newEnqueue h [] (some (v, f.imm))
        match s.st.batch with
        | none => .next ((s2.enqWord (e 0) Status.ok).retire f.h)
        | some b =>
          if b.refused then .next ((s2.enqWord (e 0) Status.noq).retire f.h)
          -- behind packets that wait for a place in the ring, the batch's word waits too
          else match s2.tryEnqueue (e b.handle) with
            | some s3 => .next (s3.retire f.h)
            | none => .next (s.hold .blocked)

/-! ### Tiles (R354, R155) -/

def tileEmpty : Nat → Bool × Bool := fun _ => (false, true)
/-- Full and empty bit of a tile (DESIGN CHOICE, unsafe, log 16). -/
def State.tileBits (s : State) (die t : Nat) : Bool × Bool := Tab.getD s.tileState tileEmpty (65536 * die + t)
def State.setTile (s : State) (die t : Nat) (v : Bool × Bool) : State := { s with tileState := Tab.put s.tileState tileEmpty (65536 * die + t) v }

/-- Notes the cluster that makes a tile full. -/
def State.madeTile (s : State) (die t : Nat) (full : Bool) : State :=
  if full then { s with sched := { s.sched with makers := Tab.put s.sched.makers (fun _ => 0) (65536 * die + t) (clusterOfCore s.sq.core + 1) } }
  else s

def tileOfReg (v : W64) : Nat × Nat := (bits v 17 16, bits v 15 0)

def execTset (f : XF) (s : State) : Out :=
  checked (f.named Rule.tset) s fun s =>
    let t := tileOfReg (dval (s.dvals f) 0)
    let v := if f.imm = 0 then (true, false) else if f.imm = 1 then (false, true) else (false, false)
    releasing s.pin .rel fun s => .next (((s.setTile t.1 t.2 v).madeTile t.1 t.2 v.1).retire f.h)

def execTwait (f : XF) (s : State) : Out :=
  checked (f.named Rule.twait) s fun s =>
    let t := tileOfReg (dval (s.dvals f) 0)
    let b := s.tileBits t.1 t.2
    if (if f.imm.getLsbD 0 then b.2 else b.1) then .next ((s.selfInvalidate s.sq.core).retire f.h) else .next (s.hold .blocked)

def execTstat (f : XF) (s : State) : Out :=
  checked (f.named Rule.tstat) s fun s =>
    let t := tileOfReg (dval (s.dvals f) 1)
    let b := if f.imm.getLsbD 0 then s.tileBits t.1 t.2 else (s.sq.inst.pinned, s.st.trap.hmode)
    let lat := if !f.imm.getLsbD 0 then 4 else if t.1 = dieOfCore s.sq.core then 190 else 430
    .next ((s.output f 0 (BitVec.ofNat 64 ((if b.1 then 1 else 0) + if b.2 then 2 else 0)) lat).retire f.h)

/-- TARG reads as SLD.param does. -/
def execTarg (f : XF) (s : State) : Out :=
  checked (f.named Rule.targ) s fun s =>
    withOne s .param (s.sq.inst.args + 8 * (f.imm.setWidth 64)) 8 .read (servesScalar .b64) fun s xs =>
      if xs.any s.isMmio then
        let v := s.draw
        .next ((v.2.output f 0 v.1 0).retire f.h)
      else withData s xs 8 .rlx .wave true fun s data => .next ((s.output f 0 (word64 (data ((xs.head?.map (·.lane)).getD 0))) 0).retire f.h)

/-! ### Registers (R355) -/

/-- Why a wave cannot grow by n granules. -/
def State.growFault (s : State) (n : Nat) : Nat :=
  if granCap < s.gransUsed s.sq.core s.wv.quad + n then 1
  else if 32 < s.wv.gran + n then 2
  else if !s.budgetRoom s.sq.inst n 0 none then 3
  else 0

def execRgrow (f : XF) (s : State) : Out :=
  checked (f.named Rule.rgrow) s fun s =>
    let n := f.imm.toNat % 64
    let tries := f.imm.getLsbD 8
    let why := s.growFault n
    if why = 0 then
      -- the new registers hold nothing: RSHRINK and the wave's start leave none of their lanes listed
      let s1 := { s with wv := { s.wv with gran := s.wv.gran + n, v := Tab.keep s.wv.v fun k => decide (k < 512 * s.wv.gran) } }
      .next ((if tries then s1.output f 0 0 (n + 4) else s1).retire f.h)
    else if tries then .next ((s.output f 0 (BitVec.ofNat 64 why) 4).retire f.h)
    else .next (s.exhaust .registers n)

/-- A write to a vector register of the top granules is pending. -/
def State.pendingAbove (s : State) (reg : Nat) : Bool :=
  (s.wv.inflight.any fun e => decide (s.cycle < e.land) && match e.reg with
    | .vec n => decide (reg ≤ n)
    | _ => false) || (List.range (256 - reg)).any fun i => s.awaitsRow { reads := [], writes := [.vec (reg + i)] }

def execRshrink (f : XF) (s : State) : Out :=
  checked (f.named (Rule.nOnly 0)) s fun s =>
    let g := s.wv.gran - min (f.imm.toNat % 64) (s.wv.gran - 1)
    if s.pendingAbove (8 * g) then .next (s.hold .blocked)
    else .next ({ s with wv := { s.wv with gran := g, v := Tab.keep s.wv.v fun k => decide (k < 512 * g) } }.retire f.h)

/-! ### Stripes (R356) -/

/-- Zeroes a stripe's bytes. -/
def State.zeroStripe (s : State) (c k : Nat) : State := s.spWriteAt (.core c) (32768 * k) (List.replicate 32768 0)

def execSpalloc (f : XF) (s : State) : Out :=
  checked (f.named Rule.spalloc) s fun s =>
    let n := f.imm.toNat % 64
    let c := s.sq.core
    match s.freeRun c n, s.budgetRoom s.sq.inst 0 n none with
    | some b, true =>
      let run := (List.range n).map (b + ·)
      let s1 := run.foldl (fun s k => s.zeroStripe c k) s
      let s2 := { s1 with sq := { s1.sq with stripes := s1.sq.stripes ++ run } }
      let s3 := s2.updCore c fun x => { x with lastPart := Tab.putAll x.lastPart (fun _ => 0) (run.map fun k => (k, s.sq.part + 1)) }
      .next ((s3.output f 0 (BitVec.ofNat 64 (32768 * b)) (32 * n + 4)).retire f.h)
    | _, _ =>
      if f.imm.getLsbD 8 then .next ((s.output f 0 (BitVec.allOnes 64) 4).retire f.h) else .next (s.exhaust .scratchpad n)

/-- Own stripes that a command of the squad reads or writes; a copy whose record has not been read may touch any. -/
def Command.touches (c : Command) (ks : List Nat) : Bool :=
  let own (cluster : Bool) (va : Nat) : Bool :=
    (!cluster || va / 2 ^ 20 % 4 == c.core % 4) && ks.contains (stripeOf (va % 2 ^ 20))
  let word := c.words.any fun v => own (v.getLsbD 22) (v.toNat % 2 ^ 22)
  word ||
    match opClass c.op with
    | 1 =>
      if c.layout.isEmpty then true
      else
        let l := Layout.ofBytes c.layout
        let ms := l.moves (dval c.d 0) (dval c.d 1)
        (l.sspace != 0 && (ms.flatMap fun m => ends l m.src).any (own (l.sspace == 2))) ||
          (c.op == 0x144 && l.sspace != 0 && (frameBytes c).any (own (l.sspace == 2))) ||
          ((dspaceOf c l == 1 || dspaceOf c l == 2) && ((ms.flatMap (spread c)).flatMap fun m => ends l m.dst).any (own (dspaceOf c l == 2)))
    | 3 =>
      let g := gatherArgs c
      (List.range (g.count * (if g.idx64 then 8 else 4))).any (fun i => own false ((dval c.d 2).toNat + i)) ||
        (List.range g.count).any fun r => (List.range g.rowBytes).any fun i => own false ((dval c.d 1).toNat + r * g.pitch + i)
    | 5 => c.op == 0x157 && (fabArgs c).space == 1 && (List.range (fabCount c)).any fun i => own false ((dval c.d 1).toNat + i)
    | _ => false

/-- Operands lie in some of these stripes. -/
def opsTouch (op : Nat) (imm : W32) (d : List W64) (ks : List Nat) : Bool :=
  (opOpnds op imm d).any fun o => ks.any fun k => decide (stripeOf o.base ≤ k) && decide (k ≤ stripeOf o.top)

/-- Stripes that a macro-operation's operands lie in. -/
def MacroOp.touches (m : MacroOp) (ks : List Nat) : Bool := m.isMacro && opsTouch m.op m.imm m.d ks

/-- A CPYF's pending follow-on reads or writes some of these stripes. -/
def Command.followTouches (c : Command) (ks : List Nat) : Bool :=
  c.op == 0x141 && opsTouch (bits (dval c.block 0) 63 32) ((dval c.block 0).setWidth 32) ((c.block.drop 1).take 6) ks

/-- A waiting packet's word lies in own stripes among these. -/
def Enqueue.touches (e : Enqueue) (core : Nat) (ks : List Nat) : Bool :=
  match e.word with
  | some (_, v, _) =>
    let w : W64 := BitVec.ofNat 64 v
    (!w.getLsbD 22 || v % 2 ^ 22 / 2 ^ 20 == core % 4) && ks.contains (stripeOf (v % 2 ^ 20))
  | none => false

def execSpfree (f : XF) (s : State) : Out :=
  checked (f.named (Rule.nOnly 0b000001)) s fun s =>
    let v := dval (s.dvals f) 0
    let n := f.imm.toNat % 64
    let ks := (List.range n).map fun i => stripeOf v.toNat + i
    if (v >>> 20) != 0 then s.protX 6 v
    else if v.toNat % 32768 ≠ 0 then misalign s v s.st.exec
    else if !ks.all fun k => s.sq.stripes.contains k then s.protX 8 v
    else if s.cmds.any (fun c => c.who.sid == s.sq.sid && (c.touches ks || c.followTouches ks)) ||
        (s.delayed s.sq.sid).any (fun e => e.touches s.sq.core ks) ||
        s.myCore.mq.any fun m => m.who.sid == s.sq.sid && m.touches ks then .next (s.hold .blocked)
    else .next ({ s with sq := { s.sq with stripes := s.sq.stripes.filter fun k => !ks.contains k } }.retire f.h)

/-! ### PIN, TSPLIT (R357) -/

def execPin (f : XF) (s : State) : Out := checked (f.named Rule.xplain) s fun s => .next (s.pin.retire f.h)

/-- TSPLIT: the upper half is queued, and DOM and INSTPATH change as the output lands; until then, another TSPLIT and what decides about the
instance count it as given away (R321, R357, R359) (DEDUCED, safe, log 114). -/
def execTsplit (f : XF) (s : State) : Out :=
  checked (f.named Rule.xout0) s fun s =>
    let i := s.sq.splitInst
    match i.splitAxis with
    | none => .next ((s.output f 0 (BitVec.allOnes 64) 40).retire f.h)
    | some ax =>
      if 27 ≤ i.depth then .next ((s.output f 0 (BitVec.allOnes 64) 40).retire f.h)
      else match (s.countNode i.node (.die i.die) 1).queueHalf? (i.half ax true) with
        | none => .next (s.hold .blocked)
        | some s1 =>
          let m := i.mid ax
          let s2 := { s1 with sq := { s1.sq with splits := s1.sq.splits ++ [({ lands := s.cycle + 40, axis := ax, mid := m } : Split)] } }
          .next ((s2.output f 0 (BitVec.ofNat 64 (ax + 2 ^ 32 * m)) 40).retire f.h)

end Sys2Proof.Machine
end

