-- ==== Sys2Proof/Machine/EvXlate.lean ====
section
/-! DEFINITION. Events of translation: partition descriptors (R23), keys (R24, R25), walks and fault records
(R26 to R32), responses and invalidations (R33 to R37). -/

namespace Sys2Proof.Machine


/-! ### Waiters (R35, R37) -/

/-- A leaf of pages of `hit` makes the parked access trap, whatever its other pages do (R416). -/
def State.leafTraps (s : State) (hit : Nat → Bool) (t : TlbEntry) : Wait → Bool
  | .parked need _ acc kinds =>
    need.any fun n => hit (pageOf n.2) && (!kinds.contains (s.pageKind t n.2) || !acc.permits t.x t.w t.r)
  | _ => false

/-- What a stream waits for once the translation of pages of `hit` is here; it goes on when none of its pages is missing, or at once
where `now` says so (R30). A stream that has left the active set counts its laps from then on. -/
def Wait.come (hit : Nat → Bool) (missing : List Nat) (now : Bool) : Wait → Wait
  | .parked need fetch acc kinds => if missing.isEmpty || now then .none else .parked need fetch acc kinds
  | .accept pages => let left := pages.filter fun p => !hit p; if left.isEmpty then .blocked else .accept left
  | w => w

/-- A leaf of pages of `hit` has come for a stream that waits on them; `ro` says that it has no W (R26). -/
def Stream.wake (x : Stream) (hit : Nat → Bool) (ro now : Bool) : Stream :=
  let mine := x.pend.filter hit
  let missing := x.pend.filter fun p => !hit p
  if mine.isEmpty && (match x.wait with
    | .accept _ => false
    | _ => true) then x
  else { x with pend := missing, seen := if ro then x.seen ++ mine else x.seen, wait := x.wait.come hit missing now }

/-- A command that waits on pages of `hit` looks them up again, and keeps the entry that a walk has found (R35, R37); `ro` as above. -/
def Command.wake (c : Command) (hit : Nat → Bool) (t : Option TlbEntry) (ro : Bool) : Command :=
  match c.phase with
  | .waiting pages =>
    let left := pages.filter fun p => !hit p
    { c with phase := if left.isEmpty then .running else .waiting left, seen := if ro then c.seen ++ pages.filter hit else c.seen,
             tlb := if pages.any hit then t.toList ++ c.tlb else c.tlb }
  | .accepting pages => if pages.any hit then { c with phase := .queued } else c
  | _ => c

/-- A walk's leaf comes to the streams and commands of a partition that wait on its pages on a die. -/
def State.leafWakes (s : State) (d part : Nat) (hit : Nat → Bool) (t : TlbEntry) : State :=
  let s1 := s.mapStreams fun q _ x => if q.part = part ∧ dieOfCore q.core = d then x.wake hit (!t.w) (s.leafTraps hit t x.wait) else x
  { s1 with cmds := s1.cmds.map fun c => if c.part = part ∧ dieOfCore c.core = d then c.wake hit (some t) (!t.w) else c }

/-- The misses of a parked access on a page, with their die and WHO. -/
def State.missesOn (s : State) (part page : Nat) : List (Nat × Nat × Acc × W32) :=
  (s.everySquad.filter fun q => q.part == part && q.place == .resident).flatMap fun q => q.streams.filterMap fun e =>
    match e.2.wait with
    | .parked need _ acc _ =>
      if e.2.pend.contains page then (need.find? fun n => pageOf n.2 == page).map fun n => (dieOfCore q.core, n.2, acc, waveCode q.core e.1.quad e.1.slot)
      else none
    | _ => none

/-- Every access that is parked on a page looks it up again (R35): it misses and is walked; commands, and instructions that wait for
their command's acceptance, are tried again. -/
def State.relook (s : State) (part page : Nat) : State :=
  let hit (p : Nat) : Bool := p == page
  let s1 := (s.missesOn part page).foldl (fun s m => s.miss m.1 part m.2.1 m.2.2.1 0 m.2.2.2) s
  let s2 := s1.mapStreams fun q _ x => if q.part = part then { x with wait := match x.wait with
    | .accept pages => if pages.any hit then .blocked else .accept pages
    | w => w } else x
  { s2 with cmds := s2.cmds.map fun c => if c.part = part then c.wake hit none false else c }

/-- Fabric operations go on once their pages are translated. -/
def State.resumeFabric (s : State) : State := if s.cmds.any fun c => opClass c.op == 5 then s.fabPump else s

/-! ### Walks (R26, R29) -/

def walkers : Nat := 96
def missEntries : Nat := 4096

def Miss.is (m : Miss) (part page : Nat) : Bool := m.part == part && m.page == page

/-- A miss that has an entry of the table. -/
def State.missAt (s : State) (d part page : Nat) : Option Miss := ((s.die d).misses.take missEntries).find? fun m => m.is part page
def State.updMiss (s : State) (d part page : Nat) (f : Miss → Miss) : State :=
  s.updDie d fun x => { x with misses := x.misses.map fun m => if m.is part page then f m else m }

def execWalkStart (die : BitVec 2) (part : BitVec 4) (page : BitVec 39) (s : State) : Out :=
  let d := die.toNat
  match s.missAt d part.toNat page.toNat with
  | none => .next s
  | some m =>
    if m.walking ∨ m.fault.isSome ∨ walkers ≤ ((s.die d).misses.filter (·.walking)).length then .next s
    else .next ((s.updMiss d part.toNat page.toNat fun m => { m with walking := true }).due (.walkComplete d part.toNat page.toNat))

/-- A leaf: the entry is filled, in the TLBs of the cores whose streams wait on it too, and the misses of its page are satisfied. -/
def State.walkLeaf (s : State) (d : Nat) (m : Miss) (at_ : Nat) (e : W64) (level : Nat) (ns : List WalkNode) : State :=
  let e1 := leafAfter e m.acc
  let t := tlbOf m.part m.va e1 level
  let n := pageSize level - 16
  let hit (p : Nat) : Bool := decide (p / 2 ^ n = m.page / 2 ^ n)
  let at_cores := distinct ((s.everySquad.filter fun q => q.place == .resident && q.part == m.part && dieOfCore q.core == d &&
    q.streams.any fun x => x.2.pend.any hit).map (·.core))
  let s1 := (s.writeLeaf at_ e e1).updDie d fun x =>
    { x with tlb := fillL2Tlb x.tlb t, nodes := fillNodes x.nodes ns, misses := x.misses.filter fun y => !(y.part == m.part && hit y.page) }
  let s2 := at_cores.foldl (fun s c => s.updCore c fun x => { x with tlb := fillL1Tlb x.tlb t }) s1
  { s2 with fixed := s2.fixed.filter fun f => !(f.1 == m.part && hit f.2) }.leafWakes d m.part hit t |>.resumeFabric

def execWalkComplete (die : BitVec 2) (part : BitVec 4) (page : BitVec 39) (s : State) : Out :=
  let d := die.toNat
  match s.missAt d part.toNat page.toNat with
  | none => .next s
  | some m =>
    if !m.walking then .next s
    else match s.walk (s.die d).nodes m.part m.va with
      | .leaf at_ e level ns => .next (s.walkLeaf d m at_ e level ns)
      | .fault f =>
        .next ((s.updMiss d m.part m.page fun m => { m with walking := false, fault := some f }).due (.faultRecord d m.part m.page))

/-! ### Fault records (R31, R32) -/

def xlrSize : Nat := 8192
/-- Records in a free-running ring. -/
def ringHeld (head tail : W64) : Nat := (bits head 31 0 + 2 ^ 32 - bits tail 31 0) % 2 ^ 32

/-- Bytes 15:8 of a record. -/
def State.recordInfo (s : State) (m : Miss) (f : WalkFault) : W64 :=
  BitVec.ofNat 64 (f.kind + 16 * m.path + 256 * m.acc.code + 1024 * f.level + 4096 * m.part + 65536 * f.key +
    (if s.fixed.contains (m.part, m.page) then 2 ^ 28 else 0) + 2 ^ 32 * m.who.toNat)

/-- A fault's record, when the ring has a place (DESIGN CHOICE, safe, log 86). -/
def execFaultRecordWrite (die : BitVec 2) (part : BitVec 4) (page : BitVec 39) (s : State) : Out :=
  let d := die.toNat
  match s.missAt d part.toNat page.toNat with
  | none => .next s
  | some m =>
    match m.fault with
    | none => .next s
    | some f =>
      let done (s : State) : State := s.updMiss d m.part m.page fun m => { m with recorded := true }
      let base := s.reg (Mmio.xlrbase d)
      let head := s.reg (Mmio.xlrhead d)
      if m.recorded then .next s
      else if s.recordOpen m.part m.page then .next (done s)
      else if !base.getLsbD 0 ∨ xlrSize ≤ ringHeld head (s.reg (Mmio.xlrtail d)) then .next s
      else
        let info := s.recordInfo m f
        let pa := bits base 51 18 * 2 ^ 18 + 32 * (bits head 31 0 % xlrSize)
        let s1 := s.writeAt Under.device pa (leBytes 8 m.va ++ bytes64 info ++ bytes64 f.entry ++ bytes64 s.gtb)
        let s2 := s1.setReg (Mmio.xlrhead d) (BitVec.ofNat 64 ((bits head 31 0 + 1) % 2 ^ 32))
        .next (done { s2 with faults := s2.faults ++ [{ part := m.part, page := m.page, info, entry := f.entry }] })

/-- Walks that ended in a fault and wait for room in the ring are tried again. -/
def State.dueRecords (s : State) (d : Nat) : State :=
  ((s.die d).misses.filter fun m => m.fault.isSome && !m.recorded).foldl (fun s m => s.due (.faultRecord d m.part m.page)) s

/-- A ring's base register: EN and BASE; BASE may not change while EN is 1 (R32, R371). -/
def State.ringBase (s : State) (pa lo : Nat) (v : W64) : Option State :=
  let old := s.reg pa
  let mask : W64 := BitVec.ofNat 64 (2 ^ 52 - 2 ^ lo + 1)
  if !clearOf v mask ∨ (old.getLsbD 0 ∧ bits v 51 lo ≠ bits old 51 lo) then none else some (s.setReg pa v)

/-- Die d's fault-ring signal to the supervisor cores (R32). -/
def State.faultSignal (s : State) (d : Nat) : Bool := s.reg (Mmio.xlrhead d) != s.reg (Mmio.xlrtail d)

/-- A ring's tail register may not pass its head. A tail that would go back is ignored too (DESIGN CHOICE, unsafe, log 95). -/
def State.ringTail (s : State) (pa headPa : Nat) (v : W64) : Option State :=
  if !clearOf v 0xFFFFFFFF ∨ ringHeld (s.reg headPa) (s.reg pa) < ringHeld (s.reg headPa) v then none else some (s.setReg pa v)

def State.orIgnore (s : State) (pa : Nat) (k : State → State) (r : Option State) : State :=
  match r with
  | some s1 => k s1
  | none => s.ignore pa

def execXlrbaseWrite (die : BitVec 2) (v : W64) (sup : Bool) (s : State) : Out :=
  let pa := Mmio.xlrbase die.toNat
  supervised sup pa s fun s => s.orIgnore pa (fun s => s.dueRecords die.toNat) (s.ringBase pa 18 v)

def execXlrtailWrite (die : BitVec 2) (v : W64) (sup : Bool) (s : State) : Out :=
  let pa := Mmio.xlrtail die.toNat
  supervised sup pa s fun s => s.orIgnore pa (fun s => s.dueRecords die.toNat) (s.ringTail pa (Mmio.xlrhead die.toNat) v)

/-! ### Responses (R33, R35, R37) -/

def xlrespMask : W64 := 0x007FFFFFFFFFF003
def respPage (v : W64) : Nat := bits v 54 16
def respPart (v : W64) : Nat := bits v 15 12

/-- Drops the misses of a page that an answered record covers. -/
def State.dropMisses (s : State) (part page : Nat) : State :=
  s.dies.foldl (fun s e => if e.2.misses.any fun m => m.is part page then
    s.updDie e.1 fun x => { x with misses := x.misses.filter fun m => !m.is part page } else s) s

/-- Runs an answer to an open record; a response without one is counted only (R36). -/
def State.respond (s : State) (act : Nat) (v : W64) (k : State → OpenFault → State) : State :=
  if !clearOf v xlrespMask ∨ bits v 1 0 ≠ act then s.ignore Mmio.xlresp
  else match s.faults.find? fun o => o.part == respPart v && o.page == respPage v with
    | none => s.note (.noRecord (respPart v) (respPage v))
    | some o =>
      let s1 := { s with faults := s.faults.filter fun x => !(x.part == o.part && x.page == o.page) }
      k (s1.dropMisses o.part o.page) o

def State.fix (s : State) (v : W64) : State :=
  s.respond 1 v fun s o =>
    let s1 := if s.fixed.contains (o.part, o.page) then s else { s with fixed := s.fixed ++ [(o.part, o.page)] }
    (s1.relook o.part o.page).resumeFabric

def State.deny (s : State) (v : W64) : State :=
  s.respond 2 v fun s o =>
    let hit (p : Nat) : Bool := p == o.page
    let x : Denied := { page := o.page, info := o.info, entry := o.entry }
    let on (w : Wait) : Wait := match w with
      | .parked _ _ _ _ => .none
      | _ => .blocked
    let waits (t : Stream) : Bool := t.pend.any hit || (match t.wait with
      | .accept pages => pages.any hit
      | _ => false)
    let s1 := s.mapStreams fun q _ t =>
      if q.part = o.part ∧ q.place = .resident ∧ waits t then { t with deny := t.deny ++ [x], pend := t.pend.filter fun p => !hit p, wait := on t.wait } else t
    let mark (c : Command) : Command := match c.phase with
      | .waiting pages => if c.part = o.part ∧ pages.any hit then { c with denied := true, phase := .running } else c
      | .accepting pages => if c.part = o.part ∧ pages.any hit then { c with denied := true, phase := .queued } else c
      | _ => c
    let s2 := { s1 with cmds := s1.cmds.map mark }
    { s2 with cmds := s2.cmds.map fun (c : Command) => if c.part = o.part then c.wake hit none false else c }.resumeFabric

def execFaultFix (v : W64) (sup : Bool) (s : State) : Out := supervised sup Mmio.xlresp s fun s => s.fix v
def execFaultDeny (v : W64) (sup : Bool) (s : State) : Out := supervised sup Mmio.xlresp s fun s => s.deny v

/-! ### Invalidation (R33, R34) -/

/-- The entries that an XLINV value names. -/
def xlinvNames (v : W64) (e : TlbEntry) : Bool :=
  let part := bits v 15 12
  match bits v 2 0 with
  | 0 => e.part == part && !e.global
  | 1 => e.covers part (bits v 54 16 * 2 ^ 16)
  | 2 => e.part == part
  | 3 => e.key == bits v 27 16
  | _ => true

/-- Misses of the partition, or all: their walks start over. -/
def xlinvMiss (v : W64) (m : Miss) : Bool :=
  match bits v 2 0 with
  | 0 | 2 => m.part == bits v 15 12
  | 1 => m.is (bits v 15 12) (bits v 54 16)
  | _ => true

/-- The nodes of walk caches that it removes: those of the tables whose addresses it names. -/
def xlinvNode (v : W64) (n : WalkNode) : Bool :=
  match bits v 2 0 with
  | 0 | 2 => n.part == bits v 15 12
  | 1 => n.part == bits v 15 12 && n.upper == bits v 54 16 * 2 ^ 16 / 2 ^ pageSize n.level
  | 3 => false
  | _ => true

/-- A walk in progress starts over, and so does one whose fault waits for room. -/
def Miss.again (m : Miss) (v : W64) : Bool := (m.walking || (m.fault.isSome && !m.recorded)) && xlinvMiss v m

/-- Removes entries from the TLBs and walk caches, restarts walks, and keeps BUSY. -/
def State.invalidate (s : State) (v : W64) : State :=
  let s0 := s.cores.foldl (fun s e => if e.2.tlb.any (xlinvNames v) then
    s.updCore e.1 fun x => { x with tlb := x.tlb.filter fun t => !xlinvNames v t } else s) s
  let s1 := s0.dies.foldl (fun s e => s.updDie e.1 fun x =>
    { x with tlb := x.tlb.filter fun t => !xlinvNames v t, nodes := x.nodes.filter fun n => !xlinvNode v n }) s0
  let s2 := s1.dies.foldl (fun s e =>
    let again := (s.die e.1).misses.filter fun m => m.again v
    let s := s.updDie e.1 fun x => { x with misses := x.misses.map fun m => if m.again v then { m with walking := false, fault := none } else m }
    again.foldl (fun s m => s.due (.walkStart e.1 m.part m.page)) s) s1
  let cmds := s2.cmds.map fun (c : Command) => { c with tlb := c.tlb.filter fun t => !xlinvNames v t }
  { s2 with xlinvBusy := true, cmds }.setReg Mmio.xlinvst 1

def State.xlinv (s : State) (v : W64) : State :=
  if !clearOf v 0x007FFFFFFFFFF007 ∨ 4 < bits v 2 0 ∨ (bits v 2 0 = 3 ∧ bits v 54 28 ≠ 0) then s.ignore Mmio.xlinv
  else if s.xlinvBusy then { s with xlinvHeld := s.xlinvHeld ++ [v] }
  else s.invalidate v

/-- A write with the SCOPE of its row. -/
def runXlinv (scope : Nat) (v : W64) (sup : Bool) (s : State) : Out :=
  supervised sup Mmio.xlinv s fun s => if bits v 2 0 = scope then s.xlinv v else s

def execXlinvPartition (v : W64) (sup : Bool) (s : State) : Out := runXlinv 0 v sup s
def execXlinvPage (v : W64) (sup : Bool) (s : State) : Out := runXlinv 1 v sup s
def execXlinvPartitionAll (v : W64) (sup : Bool) (s : State) : Out := runXlinv 2 v sup s
def execXlinvKey (v : W64) (sup : Bool) (s : State) : Out := runXlinv 3 v sup s
def execXlinvAll (v : W64) (sup : Bool) (s : State) : Out := runXlinv 4 v sup s

/-- Once the accesses through peer windows are complete, what the combining buffers hold is performed, BUSY returns to 0, and the next
write that waits is performed. -/
def execXlinvDone (s : State) : Out :=
  if !s.xlinvBusy ∨ s.fab.window ≠ [] then .next s
  else
    let s1 := { s.flushAll with xlinvBusy := false }.setReg Mmio.xlinvst 0
    match s1.xlinvHeld with
    | [] => .next s1
    | v :: r => .next ({ s1 with xlinvHeld := r }.invalidate v)

/-! ### Partition descriptors (R23, R72, R85) -/

/-- Areas that no OWN range covers: R72, R85, and the rings, save areas, spill areas and contact sheets placed. -/
def State.reservedAreas (s : State) : List (Nat × Nat) :=
  (List.range 4).flatMap fun d =>
    let hbm := d * 0x2000000000
    let scm := 0x10000000000 + d * 0x8000000000
    let tag := bits (s.reg (Mmio.memcfg d)) 2 0 * gib
    let stag := bits (s.reg (Mmio.memcfg d)) 13 8 * gib
    let ring (pa lo n : Nat) : List (Nat × Nat) := let v := s.reg pa; if v.getLsbD 0 then [(bits v 51 lo * 2 ^ lo, n)] else []
    [(hbm + 0x17FA000000 - tag, tag), (hbm + 0x17FA000000, 0x6000000), (scm, gib), (scm + 0x8000000000 - stag, stag),
     ((s.die d).saveBase, (s.die d).saveSize)] ++
      ring (Mmio.xlrbase d) 18 0x40000 ++ ring (Mmio.crbase d) 19 0x80000 ++ ring (Mmio.spillbase d) 22 0x400000 ++
      (List.range 64).filterMap fun q => if (s.snapCtl q).getLsbD 0 ∧ s.rsize q d ≠ 0 then some (s.sheet q d, s.rsize q d / 1024) else none

/-- A grant lies in the host window, in device MMIO or in the peer windows. -/
def grantPlace (r : Nat × Nat) : Bool :=
  within 0x40000000000 0x40000000000 r.1 r.2 || within 0x30000000000 0x10000000000 r.1 r.2 || within (2 ^ 48) (2 ^ 48) r.1 r.2

/-- The entries in use keep their rules. -/
def State.descriptorOk (s : State) (p : Nat) : Bool :=
  let own := s.owned p
  let nown := bits (s.part p 0x28) 5 0
  let ngrant := bits (s.part p 0x28) 13 8
  decide (nown ≤ 32) && decide (ngrant ≤ 32) &&
    (own.all fun r => r.2 != 0 && s.backedWhole r.1 r.2 && (match backing s.pkg r.1 with
      | .hbm _ | .scm _ => true
      | _ => false) && !s.reservedAreas.any fun a => a.2 != 0 && overlaps a r) &&
    ((s.grants p).all fun r => r.2.1 != 0 && grantPlace (r.1, r.2.1)) &&
    (!s.partValid p || (List.range 16).all fun q => q == p || !s.partValid q || !(s.owned q).any fun a => own.any fun b => overlaps a b)

/-- Bits that may be set in a descriptor's word. -/
def descriptorMask (off : Nat) : W64 :=
  if off = 0 then 0x00000000FFF00101
  else if off = 8 then BitVec.allOnes 64
  else if off = 0x10 then 0xFFFFFFFFFFFFF000
  else if off = 0x18 then 0x7FF
  else if off = 0x20 then 0x0000FFFFFFFFFFFF
  else if off = 0x28 then 0x3F3F
  else if 0x100 ≤ off ∧ off < 0x300 then (if off % 16 = 0 then 0x000FFFFFFFFF0000 else 0x0000000FFFFFFFFF)
  else if 0x300 ≤ off ∧ off < 0x500 then (if off % 16 = 0 then 0x000FFFFFFFFF0000 else 0x4000000FFFFFFFFF)
  else 0

def State.writeDescriptor (s : State) (p off : Nat) (v : W64) : State :=
  let pa := Mmio.partition p + off
  let s1 := s.setReg pa v
  if off % 8 ≠ 0 ∨ !clearOf v (descriptorMask off) ∨ (off = 0x18 ∧ 1024 < v.toNat) ∨ !s1.descriptorOk p then s.ignore pa else s1

def execPartitionDescriptorWrite (p : BitVec 4) (off : BitVec 12) (v : W64) (sup : Bool) (s : State) : Out :=
  supervised sup (Mmio.partition p.toNat + off.toNat) s fun s => s.writeDescriptor p.toNat off.toNat v

/-! ### Keys (R24, R25) -/

def keySlotOf (v : W64) : Nat := bits v 51 40
def keyOpOf (v : W64) : Nat := bits v 34 32

/-- A KEYCTL write: a request with an OP above 2, or while BUSY is 1, is ignored. -/
def State.keyctl (s : State) (v : W64) : State :=
  let old := s.reg Mmio.keyctl
  if !clearOf v 0x000FFFFFFF000003 ∨ (v.getLsbD 1 ∧ (2 < keyOpOf v ∨ old.getLsbD 0)) then s.ignore Mmio.keyctl
  else
    let fields := (v &&& 0x000FFFFF00000000) ||| (old &&& 0xFF000001)
    let fields := fields &&& 0x000FFFFFFF000001
    if v.getLsbD 1 then { s with admin := { s.admin with keyReq := some v } }.setReg Mmio.keyctl (fields ||| 1)
    else s.setReg Mmio.keyctl fields

def runKey (op : Nat) (v : W64) (sup : Bool) (s : State) : Out :=
  supervised sup Mmio.keyctl s fun s => if keyOpOf v = op then s.keyctl v else s

def execKeyLoad (v : W64) (sup : Bool) (s : State) : Out := runKey 0 v sup s
def execKeyErase (v : W64) (sup : Bool) (s : State) : Out := runKey 1 v sup s
def execKeyReload (v : W64) (sup : Bool) (s : State) : Out := runKey 2 v sup s

namespace KeyStatus
def ok : Nat := 0
def badslot : Nat := 1
def inuse : Nat := 2
def unwrap : Nat := 3
def notag : Nat := 4
end KeyStatus

/-- A request ends with its status. -/
def State.keyDone (s : State) (status : Nat) : State :=
  { s with admin := { s.admin with keyReq := none } }.setReg Mmio.keyctl
    (setBits (s.reg Mmio.keyctl &&& 0xFFFFFFFFFFFFFFFE) 31 24 status)

/-- The blob at KEYBLOB, if it lies in an owned range of the partition. -/
def State.keyBlob (s : State) (p : Nat) : Option (List W8) :=
  let pa := bits (s.reg Mmio.keyblob) 51 12 * 4096
  if (s.owned p).any fun r => within r.1 r.2 pa 4096 then some ((List.range 1192).map fun i => s.readHome 0 (pa + i)) else none

/-- A blob that lies outside the owned ranges of its partition does not unwrap (DESIGN CHOICE, unsafe, log 95). -/
def State.loadKey (s : State) (k p : Nat) (integ : Bool) : State :=
  match s.keyBlob p with
  | some b =>
    if Config.keyUnwraps p k b then
      (s.setKey k { state := .loaded, owner := p, integ, gen := Config.keyMaterial k b }).keyDone KeyStatus.ok
    else s.keyDone KeyStatus.unwrap
  | none => s.keyDone KeyStatus.unwrap

/-- OWQ entries written under a slot (R74). -/
def State.owqUnder (s : State) (k : Nat) : Bool :=
  s.dies.any fun e => e.2.owq.any fun (x : OwqEntry) => x.keys.any fun m => m % 4096 == k

/-- Writes back what is dirty under a slot, and drops its lines, copies and entries; what cores and dies still hold of writes is performed
first. -/
def State.purgeKey (s : State) (k : Nat) : State :=
  let s := s.flushAll
  let s1 := (s.l2.filter fun e => e.2.held && e.2.key == k).foldl (fun s e => s.evictOut e.1) s
  s1.dropKey k

def execKeyRequestComplete (s : State) : Out :=
  match s.admin.keyReq with
  | none => .next s
  | some v =>
    let k := keySlotOf v
    let x := s.key k
    if k = 0 then .next (s.keyDone KeyStatus.badslot)
    else match keyOpOf v, x.state with
      | 0, .empty =>
        if v.getLsbD 35 ∧ (List.range 4).all fun d => s.reg (Mmio.memcfg d) == 0 then .next (s.keyDone KeyStatus.notag)
        else .next (s.loadKey k (bits v 39 36) (v.getLsbD 35))
      | 0, _ => .next (s.keyDone KeyStatus.inuse)
      | 1, .empty => .next (s.keyDone KeyStatus.badslot)
      | 1, _ =>
        let s1 := s.purgeKey k
        -- the request ends once nothing under the key is left in a queue
        if s1.owqUnder k then .next s1
        else .next ((s1.setKey k KeySlot.empty).keyDone KeyStatus.ok)
      | _, .failed => .next (s.loadKey k x.owner x.integ)
      | _, _ => .next (s.keyDone KeyStatus.badslot)

end Sys2Proof.Machine
end

