-- ==== Sys2Proof/Machine/EvLaunch.lean ====
section
/-! DEFINITION. Events of launching: doorbells (R174, R381), packets and records (R149 to R155, R175 to R177), the
coordinator (R178 to R181), placement (R156, R163, R182). -/

namespace Sys2Proof.Machine

/-! ### Doorbells -/

/-- A dropped doorbell: logged in the partition's host-error log. -/
def State.hostError (s : State) (rule part q : Nat) : State := s.note (.notice rule (BitVec.ofNat 64 (2 ^ 32 * part + q)))

/-- R380: an unbound virtual function drops writes. -/
def State.vfBound (s : State) (part : Nat) : Bool := s.admin.bound.contains part

def execDoorbellWridx (part : BitVec 4) (q : BitVec 10) (v : W64) (s : State) : Out :=
  let p := part.toNat
  let no : Out := .next (s.hostError 381 p q.toNat)
  if !s.vfBound p then .next s
  else match s.queue? p q.toNat with
    | none => no
    | some x =>
      let new := v.toNat
      if 2 ^ 32 ≤ new ∨ !x.usable then no
      else if x.slots < (new + 2 ^ 32 - x.rd) % 2 ^ 32 ∨ 2 ^ 31 ≤ (new + 2 ^ 32 - x.wr) % 2 ^ 32 then no
      else .next (s.putWr p x new)

/-- The packet takes the index WRIDX without a ring slot; it is consumed in its turn. -/
def execDoorbellInline (part : BitVec 4) (q : BitVec 10) (pkt : List W8) (s : State) : Out :=
  let p := part.toNat
  let no : Out := .next (s.hostError 381 p q.toNat)
  if !s.vfBound p then .next s
  else match s.queue? p q.toNat with
    | none => no
    | some x =>
      if pkt.length ≠ 64 ∨ !x.usable then no
      else
        let s1 := { s with sched := { s.sched with inlines := s.sched.inlines ++ [(p, q.toNat, x.wr, pkt)] } }
        .next (s1.putWr p x (x.wr + 1))

/-! ### Enqueues that wait (R174) -/

/-- The answer to a TRENQ (DESIGN CHOICE, unsafe, log 12): an ACK whose AUX is the status. -/
def State.answerRemote (s : State) (r : Nat × Nat × Nat × Nat) (status : Nat) : State :=
  s.sendHeader .ack (Packet.make r.1 r.2.1 r.2.2.1 7 false true 0 status r.2.2.2 [])

/-- Ends an enqueue: its word, or the answer to its sender. -/
def State.enqDone (s : State) (e : Enqueue) (status : Nat) : State :=
  match e.remote with
  | some r => s.answerRemote r status
  | none => s.enqWord e status

/-- Drains the first packet whose queue decides it and that has none before it for the same queue. -/
def State.drainEnq (s : State) (before : List Enqueue) : List Enqueue → State
  | [] => s
  | e :: r =>
    if before.any fun b => b.part == e.part && handleQueue b.handle == handleQueue e.handle then s.drainEnq (before ++ [e]) r
    else match s.enqueue e.part e.handle e.packet with
      | .done st s1 => { s1 with sched := { s1.sched with enq := before ++ r } }.enqDone e st
      | .full => s.drainEnq (before ++ [e]) r

def execEnqueueBufferDrain (s : State) : Out := .next (s.drainEnq [] s.sched.enq)

/-! ### Region control blocks (R149 to R151) -/

def rcbWordOf (b : List W8) (off : Nat) : W64 := word64 ((b.drop off).take 8)

/-- Reserved bits are zero and fields in range. -/
def rcbOk (b : List W8) : Bool :=
  let ctl := rcbWordOf b 0x10
  let bud := rcbWordOf b 0x18
  clearOf ctl 0x003FF0FF073F0607 && decide (bits ctl 21 16 ≤ 32) && clearOf bud 0x0000FFFFFFFFFFFF && decide (bits bud 47 32 ≤ 6144) &&
    decide (bits bud 31 8 ≤ 98304) && decide (bits bud 7 0 ≤ 192) && clearOf (rcbWordOf b 0x20) 0xFFFFFFFFFFFF &&
    clearOf (rcbWordOf b 0x28) 0xFFFF && (b.drop 0x50).all (· == 0)

def rcbDef (b : List W8) (i : Nat) : Bool := (rcbWordOf b 0x10).getLsbD (44 + i)
def rcbDepth (b : List W8) : Nat := bits (rcbWordOf b 0x10) 26 24

/-- The chain from a region to the partition's root, with the blocks' addresses; none where it is refused. -/
def State.rcbChain (s : State) (p : Nat) (va : W64) : Nat → Option (List (W64 × List W8))
  | 0 => none
  | fuel + 1 =>
    if va.toNat % 128 ≠ 0 then none
    else match s.deviceRead p va.toNat 128 with
      | none => none
      | some b =>
        if !rcbOk b then none
        else
          let parent := rcbWordOf b 0
          if parent = 0 then
            if va = s.part p 8 ∧ rcbDepth b = 0 ∧ (List.range 10).all fun i => rcbDef b i then some [(va, b)] else none
          else match s.rcbChain p parent fuel with
            | some ((pva, pb) :: r) => if rcbDepth b = rcbDepth pb + 1 then some ((va, b) :: (pva, pb) :: r) else none
            | _ => none

/-- The nearest block that defines field i. -/
def definer (c : List (W64 × List W8)) (i : Nat) : W64 × List W8 := (c.find? fun e => rcbDef e.2 i).getD (0, [])

/-- The fields that a launch resolves. -/
def regionOf (c : List (W64 × List W8)) : Region :=
  let ctl (i : Nat) : W64 := rcbWordOf (definer c i).2 0x10
  { rcb := (c.headD (0, [])).1, handler := rcbWordOf (definer c 2).2 8, prio := bits (ctl 0) 2 0, fdom := bits (ctl 1) 39 32,
    budgets := (c.filter fun e => rcbDef e.2 3).map fun e =>
      let b := rcbWordOf e.2 0x18
      { rcb := e.1, stripes := bits b 47 32, grans := bits b 31 8, cores := bits b 7 0 },
    allow := bits (rcbWordOf (definer c 4).2 0x20) 47 0, shadow := (ctl 5).getLsbD 9, detthr := BitVec.ofNat 6 (bits (ctl 6) 21 16),
    sbchk := (ctl 7).getLsbD 10, stepRcb := (definer c 8).1, lapRcb := (definer c 9).1, lapa := rcbWordOf (definer c 9).2 0x30,
    lapb := rcbWordOf (definer c 9).2 0x38 }

/-! ### Task records (R153, R154) -/

/-- ENTRY is a LAND slot (R231). -/
def State.entryLands (s : State) (p : Nat) (pc : W64) : Bool :=
  pcValid pc && match s.deviceRead p (pcLine pc).toNat 64 with
    | some b => lineLand (lineWord b) (pcSlot pc) && !lineIsExt (lineWord b) (pcSlot pc)
    | none => false

def half16 (b : List W8) (off : Nat) : Nat := leNat ((b.drop off).take 2)

/-- A record's fields are legal. A GRAN above 32 and an ARGS that is not 8-byte aligned, which the list of refusals does not name, break
their fields' ranges and are refused too (DESIGN CHOICE, unsafe, log 107). -/
def recordOk (b : List W8) : Bool :=
  let g := rcbWordOf b 0x30
  let sh := rcbWordOf b 0x38
  let al := rcbWordOf b 0x40
  let dom (a : Nat) : W64 := rcbWordOf b (0x18 + 8 * a)
  let foot (i : Nat) : W64 := rcbWordOf b (0x60 + 8 * i)
  let split := [bits g 49 48, bits g 51 50, bits g 53 52]
  clearOf g 0x003FFFFFFFFFFFFF && clearOf sh 0xFFFFFFFF003F3F0F && clearOf al 0xFF80FFFFFFFFFFFF && ((b.drop 0x5C).take 4).all (· == 0) &&
    decide (bits al 61 59 ≤ 6) && decide (bits al 58 56 ≤ 4) && ([0, 1, 2].all fun a => split.contains a) &&
    bits g 15 0 != 0 && bits g 31 16 != 0 && bits g 47 32 != 0 && bits sh 13 8 != 0 && decide (bits sh 13 8 ≤ 32) && decide (bits sh 21 16 ≤ 32) &&
    ([0, 1, 2].all fun a => bits (dom a) 63 32 != 0 && decide (bits (dom a) 31 0 + bits (dom a) 63 32 ≤ 2 ^ 32)) &&
    ([0, 1, 2, 3].all fun i => bits (foot i) 53 48 == 0 && (bits (foot i) 55 54 == 3 || bits (foot i) 47 0 != 0)) &&
    (rcbWordOf b 0x10).toNat % 8 == 0

/-- The root instance of a record; none where it is refused. The footprint's argument words are read here, once; one on a page that is
not mapped gives no range (DESIGN CHOICE, unsafe, log 108). -/
def State.rootOf (s : State) (p q node : Nat) (va args : W64) : Option Instance :=
  if va.toNat % 128 ≠ 0 then none
  else match s.deviceRead p va.toNat 128 with
    | none => none
    | some b =>
      if !recordOk b ∨ !s.entryLands p (rcbWordOf b 0) then none
      else match s.rcbChain p (rcbWordOf b 8) 8 with
        | none => none
        | some c =>
          let r := regionOf c
          let g := rcbWordOf b 0x30
          let sh := rcbWordOf b 0x38
          let al := rcbWordOf b 0x40
          let dom (a : Nat) : W64 := rcbWordOf b (0x18 + 8 * a)
          let lo := [0, 1, 2].map fun a => bits (dom a) 31 0
          let argv := if args = 0 then rcbWordOf b 0x10 else args
          let allow := if bits al 47 0 = 0 then r.allow else bits al 47 0
          let foot := [0, 1, 2, 3].filterMap fun i =>
            let w := rcbWordOf b (0x60 + 8 * i)
            if bits w 55 54 = 3 then none
            else (s.deviceWord p (argv.toNat + 8 * bits w 63 56)).map fun base => (base.toNat, bits w 55 54, bits w 47 0)
          let pin := al.getLsbD 55
          some
            { node, entry := rcbWordOf b 0, args := argv, base := lo, lo, hi := [0, 1, 2].map fun a => bits (dom a) 31 0 + bits (dom a) 63 32,
              grain := [bits g 15 0, bits g 31 16, bits g 47 32], split := [bits g 49 48, bits g 51 50, bits g 53 52], scoef := bits sh 63 32,
              sbase := bits sh 21 16, waves := bits sh 3 0 + 1, gran := bits sh 13 8, recAllow := allow, allow, pinFlag := pin, pinned := pin,
              die := bits al 63 62, inTiles := (List.range (bits al 61 59)).map fun i => half16 b (0x48 + 2 * i),
              resTiles := (List.range (bits al 58 56)).map fun i => half16 b (0x54 + 2 * i), foot, path := 0, region := r, part := p, queue := q,
              nocap := false }

/-! ### Completion of launches (R177) -/

namespace LaunchStatus
def ok : Nat := 0
def badrec : Nat := 1
def badpkt : Nat := 2
def killed : Nat := 3
end LaunchStatus

/-- A launch all of whose nodes have ended writes its word and is gone. -/
def State.settleLaunch (s : State) (id : Nat) : State :=
  match s.sched.launches.find? fun l => l.id == id with
  | none => s
  | some l =>
    if l.left ≠ 0 then s
    else
      let s1 := { s with sched := { s.sched with launches := s.sched.launches.filter fun x => x.id != id } }
      if l.done = 0 then s1 else s1.deviceWrite l.part l.done.toNat (bytes32 l.value ++ leBytes 4 l.status)

/-- One node of a launch has ended with a status. -/
def State.nodeEnds (s : State) (id status : Nat) : State :=
  { s with sched := { s.sched with launches := s.sched.launches.map fun (l : Launch) =>
      if l.id = id then { l with left := l.left - 1, status := max l.status status } else l } }.settleLaunch id

/-! ### Consumption (R175, R176) -/

def nodesReserved : Nat := 16
def maxHolders : Nat := 768
def sharedNodes : Nat := 4096

/-- ACTIVE queues of valid partitions; a SIZE that is not legal is as STATE 0 (R173). -/
def State.activeQueues (s : State) : List (Nat × Nat) :=
  ((List.range 16).filter s.partValid).flatMap fun p =>
    ((List.range (bits (s.part p 0x18) 10 0)).filter fun q => ((s.queue? p q).map fun x => x.state == 1 && decide (x.size ≤ 12)).getD false).map fun q => (p, q)

/-- Reservations: queues that have left ACTIVE lose theirs, those that have become ACTIVE come last, and the oldest unreserved queues
take what is free (R176). Every step ends so (`State.tidy`). -/
def State.reserveNodes (s : State) : State :=
  let live := s.activeQueues
  let hold := s.sched.holders.filter live.contains
  let old := s.sched.unreserved.filter live.contains
  let wait := old ++ live.filter fun h => !hold.contains h && !old.contains h
  let n := maxHolders - hold.length
  { s with sched := { s.sched with holders := hold ++ wait.take n, unreserved := wait.drop n } }

/-- Whether the next node of a queue finds an entry: reserved (false) or shared (true). Nodes that a queue has left in reserved entries
still take them up as its reservation goes to another. -/
def State.nodeEntry (s : State) (p q : Nat) : Option Bool :=
  let held := s.sched.nodes.filter fun n => !n.shared
  let mine := (held.filter fun n => n.part == p && n.queue == q).length
  if s.sched.holders.contains (p, q) ∧ mine < nodesReserved ∧ held.length < maxHolders * nodesReserved then some false
  else if (s.sched.nodes.filter (·.shared)).length < sharedNodes then some true
  else none

/-- Admits the nodes of a packet while entries last. -/
def State.acceptItem (s : State) (a : Admitting) : List W64 → State
  | [] => s
  | va :: r =>
    match s.nodeEntry a.part a.queue with
    | none => { s with sched := { s.sched with admitting := s.sched.admitting ++ [{ a with records := va :: r }] } }
    | some shared =>
      let id := s.sched.nextNode
      match s.rootOf a.part a.queue id va a.args with
      | none => (s.nodeEnds a.launch LaunchStatus.badrec).acceptItem a r
      | some root =>
        let n : Node := { id, launch := a.launch, part := a.part, queue := a.queue, root, waiting := true, count := EndCount.one,
                          killed := false, shared }
        { s with sched := { s.sched with nodes := s.sched.nodes ++ [n], nextNode := id + 1 } }.acceptItem a r

/-- The records that a packet names; none for a graph that is not legal. -/
def State.packetRecords (s : State) (p : Nat) (pkt : List W8) : Option (List W64) :=
  let target := rcbWordOf pkt 8
  if bits (rcbWordOf pkt 0) 7 0 = 1 then some [target]
  else match s.deviceWord p target.toNat with
    | none => none
    | some h =>
      if !clearOf h 0xFFFF ∨ h = 0 ∨ 4096 < h.toNat then none
      else (List.range h.toNat).foldr (fun i a => match a, s.deviceWord p (target.toNat + 8 + 8 * i) with
        | some l, some v => some (v :: l)
        | _, _ => none) (some [])

/-- A packet's fields are legal. A TARGET or a DONE that is not aligned is refused with BADPKT, and such a DONE is not written
(DESIGN CHOICE, unsafe, log 109). -/
def packetOk (pkt : List W8) : Bool :=
  let h := rcbWordOf pkt 0
  (h == 1 || h == 2) && (rcbWordOf pkt 8).toNat % 128 == 0 && (rcbWordOf pkt 0x18).toNat % 8 == 0 && (pkt.drop 0x24).all (· == 0)

/-- Consumes a packet: a launch, and its nodes as far as entries last (DEDUCED, unsafe, log 82). -/
def State.consumePacket (s : State) (p q : Nat) (pkt : List W8) : State :=
  let id := s.sched.nextLaunch
  let ok := packetOk pkt
  let l (n st : Nat) : Launch :=
    { id, part := p, queue := q, done := if (rcbWordOf pkt 0x18).toNat % 8 = 0 then rcbWordOf pkt 0x18 else 0,
      value := (rcbWordOf pkt 0x20).setWidth 32, left := n, status := st }
  let start (l : Launch) : State := { s with sched := { s.sched with launches := s.sched.launches ++ [l], nextLaunch := id + 1 } }
  if !ok then (start (l 0 LaunchStatus.badpkt)).settleLaunch id
  else match s.packetRecords p pkt with
    | none => (start (l 0 LaunchStatus.badpkt)).settleLaunch id
    | some rs => (start (l rs.length LaunchStatus.ok)).acceptItem { launch := id, part := p, queue := q, args := rcbWordOf pkt 0x10, records := [] } rs

def execLaunchPacketConsume (part : BitVec 4) (q : BitVec 10) (s : State) : Out :=
  let p := part.toNat
  match s.queue? p q.toNat with
  | none => .next s
  | some x =>
    if x.state ≠ 1 ∨ 13 ≤ x.size then .next (if x.held = 0 then s else s.noteQueue p q.toNat)
    else
      let s1 := s.reserveNodes
      match s1.sched.admitting.find? fun a => a.part == p && a.queue == q.toNat with
      | some a =>
        let rest := s1.sched.admitting.filter fun b => b.launch != a.launch
        .next ({ s1 with sched := { s1.sched with admitting := rest } }.acceptItem a a.records)
      | none =>
        if x.held = 0 then .next s1
        else match s1.sched.inlines.find? fun e => e.1 == p && e.2.1 == q.toNat && e.2.2.1 == x.rd with
          | some e =>
            let s2 := { s1 with sched := { s1.sched with inlines := s1.sched.inlines.filter fun y => decide (y ≠ e) } }
            .next ((s2.putRd p x (x.rd + 1)).consumePacket p q.toNat e.2.2.2)
          | none => match s1.deviceRead p (x.ring + 64 * (x.rd % x.slots)) 64 with
            | none => .next s1
            | some pkt => .next ((s1.putRd p x (x.rd + 1)).consumePacket p q.toNat pkt)

/-! ### Arbitration (R155, R178 to R180) -/

/-- R155: inputs full, results empty. -/
def State.tilesReady (s : State) (i : Instance) : Bool :=
  i.inTiles.all (fun t => (s.tileBits i.die t).1) && i.resTiles.all fun t => (s.tileBits i.die t).2

/-- The partition's queue is not swapped out (R196). -/
def State.flowIn (s : State) (i : Instance) : Bool := ((s.queue? i.part i.queue).map fun x => x.state != 2).getD true

def flowOf (i : Instance) : FlowId := (i.part, i.queue, i.region.prio)

/-- The instance's fault domain is parked (R152). -/
def State.domainParked (s : State) (i : Instance) : Bool := s.sched.parked.contains (i.part, i.region.fdom)

/-- Roots that wait to be moved into a pool, oldest first. -/
def State.eligible (s : State) : List Node :=
  s.sched.nodes.filter fun n => n.waiting && s.tilesReady n.root && s.flowIn n.root && !s.domainParked n.root

def State.deficit (s : State) (f : FlowId) : Int := ((s.sched.deficits.find? fun e => e.1 == f).map (·.2)).getD 0
def State.setDeficit (s : State) (f : FlowId) (v : Int) : State :=
  { s with sched := { s.sched with deficits := (f, v) :: s.sched.deficits.filter fun e => e.1 != f } }

def State.quantum (s : State) (f : FlowId) : Nat := ((s.queue? f.1 f.2.1).map (·.quantum)).getD 65536

/-- Flows of a list, each once, in ring order: by partition and queue (DESIGN CHOICE, unsafe, log 110). -/
def flowsOf (ns : List Node) : List FlowId :=
  let fs := ns.foldl (fun a n => if a.contains (flowOf n.root) then a else a ++ [flowOf n.root]) []
  fs.insertionSort fun a b => 1024 * a.1 + a.2.1 ≤ 1024 * b.1 + b.2.1

/-- Ring order from the flow after the one last served. -/
def ringFrom (last : Option FlowId) (fs : List FlowId) : List FlowId :=
  match last with
  | none => fs
  | some l =>
    let after (f : FlowId) : Bool := decide (1024 * l.1 + l.2.1 < 1024 * f.1 + f.2.1)
    fs.filter after ++ fs.filter fun f => !after f

/-- Top-ups needed so that some flow's deficit is above zero. -/
def topUps (fs : List (Int × Nat)) : Int :=
  let ks := fs.map fun e => (1 - e.1 + e.2 - 1) / (e.2 : Int)
  ks.foldl min (ks.headD 0)

/-- The flow that is served at a level, with the deficits after any top-up. -/
def State.serveLevel (s : State) (es : List FlowId) (lvl : Nat) : Option (FlowId × State) :=
  let s1 := if es.any fun f => 0 < s.deficit f then s
    else
      let k := topUps (es.map fun f => (s.deficit f, s.quantum f))
      es.foldl (fun s f => s.setDeficit f (s.deficit f + k * s.quantum f)) s
  let last := (s1.sched.served.find? fun e => e.1 == lvl).map (·.2)
  ((ringFrom last es).find? fun f => 0 < s1.deficit f).map fun f =>
    (f, { s1 with sched := { s1.sched with served := (lvl, f) :: s1.sched.served.filter fun e => e.1 != lvl } })

/-- A flow without an eligible instance keeps no credit (on_no_eligible, R179); the deficits of a queue that is swapped out stay as they
are (R196). Every step ends so (`State.tidy`). -/
def State.dropCredit (s : State) : State :=
  if s.sched.deficits.all fun e => decide (e.2 ≤ 0) then s
  else
    let fs := flowsOf s.eligible
    let out (f : FlowId) : Bool := ((s.queue? f.1 f.2.1).map fun x => x.state == 2).getD false
    { s with sched := { s.sched with deficits := s.sched.deficits.map fun e => if 0 < e.2 ∧ !fs.contains e.1 ∧ !out e.1 then (e.1, 0) else e } }

/-- A piece of a pre-split enters its die's pool in an unreserved entry; one that finds none enters as a half does (DESIGN CHOICE, unsafe,
log 111). -/
def State.enterPiece (s : State) (d : Nat) (i : Instance) : State :=
  let x := s.die d
  if x.openUsed < poolSize - poolKept ∧ x.spill.isEmpty ∧ x.late.isEmpty then
    s.updDie d fun x => { x with pool := x.pool ++ [{ inst := i, since := s.cycle, kept := false }] }
  else s.queueHalf i

/-- COORDINATOR_SELECT: one instance, if its die's pool has a free unreserved entry and its spill ring is empty. -/
def execCoordinatorSelect (s : State) : Out :=
  let el := s.eligible
  let levels := el.map fun n => n.root.region.prio
  match levels with
  | [] => .next s.dropCredit
  | _ =>
    let top := levels.foldl max 0
    let es := flowsOf (el.filter fun n => n.root.region.prio == top)
    match s.serveLevel es top with
    | none => .next s
    | some (f, s1) =>
      match el.find? fun n => flowOf n.root == f with
      | none => .next s
      | some n =>
        let d := n.root.die
        let l := s.fitted n.root
        if poolSize - poolKept ≤ (s.die d).openUsed ∨ !(s.die d).spill.isEmpty ∨ !(s.die d).late.isEmpty then .next s
        else
          let s2 := (s1.updNode n.id fun x => { x with waiting := false }).moveCount n.id .package (.die d)
          .next (l.foldl (fun s i => s.enterPiece d i) (s2.notePresplit n.id d l.length)).dropCredit

def Die.poolRoom (x : Die) : Bool := decide (x.keptUsed < poolKept) || decide (x.openUsed < poolSize - poolKept)

/-- No core stays reserved for instances that are gone (R180). -/
def State.unreserve (s : State) (keys : List Nat) : State :=
  s.cores.foldl (fun s e => if (e.2.reserved.map keys.contains).getD false then s.updCore e.1 fun x => { x with reserved := none } else s) s

/-- A spilled instance enters the pool, tested against R163 (R180): the pieces that it becomes fill it, and those that find no entry stay
first in the ring. -/
def State.admitSpilled (s : State) (d : Nat) (e : PoolEntry) : State :=
  let l := s.fitted e.inst
  let s1 := (s.notePresplit e.inst.node d l.length).updDie d fun x => { x with spill := x.spill.erase e }
  let r := l.foldl (fun (a : State × List PoolEntry) i =>
    let p : PoolEntry := { e with inst := i, kept := decide ((a.1.die d).keptUsed < poolKept) }
    if (a.1.die d).poolRoom then (a.1.updDie d fun x => { x with pool := x.pool ++ [p] }, a.2) else (a.1, a.2 ++ [{ p with kept := false }]))
    (if l.length = 1 then s1 else s1.unreserve [e.inst.key], [])
  r.1.updDie d fun x => { x with spill := r.2 ++ x.spill }

/-- Free entries of a pool are filled from the spill ring, oldest first (R181). -/
def State.refill (s : State) (d : Nat) : State :=
  (s.die d).spill.foldl (fun s e => if (s.die d).poolRoom then s.admitSpilled d e else s) s

/-- SPILL_REFILL: free entries are filled from the ring, and a half that waits takes what an entry or a place of the ring that has
freed offers it. -/
def execSpillRefill (die : BitVec 2) (s : State) : Out :=
  let d := die.toNat
  let s1 := s.refill d
  match (s1.die d).late with
  | i :: r =>
    match (s1.updDie d fun x => { x with late := r }).queueHalf? i with
    | some s2 => .next s2
    | none => .next s1
  | [] => .next s1

/-! ### Placement (R156, R182) -/

/-- Quadrants of the waves, and the lowest free slots, if every wave fits from q0. -/
def State.fitWaves (s : State) (c q0 gran : Nat) (n : Nat) : Option (List (Nat × Nat)) :=
  (List.range n).foldl (fun a w => a.bind fun l =>
    let quad := (q0 + w) % 4
    let used := s.slotsUsed c quad ++ (l.filter fun e => e.1 == quad).map (·.2)
    let g := s.gransUsed c quad + gran * (l.filter fun e => e.1 == quad).length
    match (List.range waveSlots).find? fun k => !used.contains k with
    | some k => if g + gran ≤ granCap then some (l ++ [(quad, k)]) else none
    | none => none) (some [])

/-- Waves with granules of their own, as a saved squad has them. -/
def State.fitSaved (s : State) (c q0 : Nat) (ws : List (Nat × Nat)) : Option (List (Nat × Nat × Nat)) :=
  ws.foldl (fun a w => a.bind fun l =>
    let quad := (q0 + w.1) % 4
    let used := s.slotsUsed c quad ++ (l.filter fun e => e.2.1 == quad).map (·.2.2)
    let g := s.gransUsed c quad + ((ws.filter fun x => l.any fun e => e.1 == x.1 && e.2.1 == quad).map (·.2)).sum
    match (List.range waveSlots).find? fun k => !used.contains k with
    | some k => if g + w.2 ≤ granCap then some (l ++ [(w.1, quad, k)]) else none
    | none => none) (some [])

/-- A core takes instances of a partition now. -/
def State.coreOpen (s : State) (p c : Nat) : Bool :=
  let x := s.core c
  s.ownsCore p c && !x.quarantine.contains s.power.target && !x.halt && !s.frozen.contains (clusterOfCore c) &&
    !(s.sched.swap.map fun w => w.1 == p || w.2 == p).getD false

/-- Granules in use on a core. -/
def State.gransOn (s : State) (c : Nat) : Nat := ((List.range 4).map fun q => s.gransUsed c q).sum

/-- Cores of a die in R182's order. -/
def State.coreOrder (s : State) (i : Instance) (d : Nat) : List Nat :=
  let pref := match i.inTiles with
    | t :: _ => Tab.getD s.sched.makers (fun _ => 0) (65536 * i.die + t)
    | [] => 0
  let far (c : Nat) : Nat := if clusterOfCore c + 1 = pref then 0 else 1
  ((List.range 48).map (48 * d + ·)).insertionSort fun a b =>
    far a < far b ∨ (far a = far b ∧ (s.gransOn a < s.gransOn b ∨ (s.gransOn a = s.gransOn b ∧ a ≤ b)))

/-- Where an instance goes: the core, its waves' quadrants and slots, and its first stripe. -/
def State.placeFor (s : State) (i : Instance) (d : Nat) : Option (Nat × List (Nat × Nat) × Nat) :=
  let n := if i.nocap then 1 else i.waves
  let need := if i.nocap then 0 else i.need
  (s.coreOrder i d).findSome? fun c =>
    if !s.coreOpen i.part c ∨ !(((s.core c).reserved.map fun k => k == i.key).getD true) ∨
        !s.budgetRoom i (n * i.gran) need (some c) then none
    else match s.freeRun c need with
      | none => none
      | some b => ((List.range 4).findSome? fun q0 => s.fitWaves c q0 i.gran n).map fun w => (c, w, b)

/-- Registers at the first instruction. -/
def startRegs (i : Instance) (first : Nat) : Tab W64 :=
  let v (l : List Nat) (a : Nat) : W64 := BitVec.ofNat 64 (l.getD a 0)
  Tab.putAll [] (fun _ => 0) [(1, i.args), (2, v i.lo 0), (3, v i.hi 0), (4, v i.lo 1), (5, v i.hi 1), (6, v i.lo 2), (7, v i.hi 2),
    (8, i.path.setWidth 64), (9, BitVec.ofNat 64 (32768 * first))]

/-- The stream of NOCAP (R163). -/
def nocapStream (i : Instance) (next : Nat) (x : Stream) : Stream :=
  { x with pc := i.region.handler, entering := true, traps := 1,
           trap := (TrapRec.zero.enter { code := Cause.nocap, tpc := i.entry, mask := BitVec.allOnes 64, info0 := 1,
                                         info1 := BitVec.ofNat 64 i.need, info2 := BitVec.ofNat 64 next } false (BitVec.allOnes 64) fmtReset) }

/-- Cycles from placement to the first issue (R184). -/
def startCost : Nat := 280

/-- Starts an instance on a core: start state, start acquire; it counts on its core (R170). A core reserved for it is released wherever
it starts (R180). -/
def State.start (s : State) (i : Instance) (c : Nat) (ws : List (Nat × Nat)) (b : Nat) : State :=
  let need := if i.nocap then 0 else i.need
  let run := (List.range need).map (b + ·)
  let first := if need = 0 then 0 else b
  let foreign := run.filter fun k => let o := Tab.getD (s.core c).lastPart (fun _ => 0) k; o != 0 && o != i.part + 1
  let s0 := foreign.foldl (fun s k => s.zeroStripe c k) s
  let held := s0.cores.filter fun e => e.2.reserved == some i.key
  let s1 := (held.foldl (fun s e => s.updCore e.1 fun x => { x with reserved := none }) s0).updCore c fun x =>
    { x.discardProof with lastPart := Tab.putAll x.lastPart (fun _ => 0) (run.map fun k => (k, i.part + 1)) }
  let quads := ws.map (·.1)
  let stream (w : Nat) : Stream :=
    let quad := quads.getD w 0
    let before := (quads.take w).filter (· == quad)
    let x := { Stream.start i.entry with readyAt := s.cycle + startCost, active := decide (s.activeCount c quad + before.length < 8) }
    if i.nocap then nocapStream i (s.maxNext i.part) x else x
  let wave (w : Nat) (e : Nat × Nat) : Wave :=
    { Wave.start w e.1 e.2 i.gran with s := startRegs i first, sbchk := i.region.sbchk, shadow := i.region.shadow, detthr := i.region.detthr,
                                       frags := [stream w] }
  let q : Squad :=
    { sid := s.sched.nextSquad, part := i.part, core := c, place := .resident, inst := i, waves := ws.zipIdx.map fun e => wave e.2 e.1,
      stripes := run, spBase := 32768 * first, left := i.allow, resident := 0, image := Image.empty, overtime := none, expired := false,
      placed := s.cycle }
  let s2 := { s1 with sched := { s1.sched with nextSquad := s1.sched.nextSquad + 1 } }
  ((s2.focusIn (q :: s2.everySquad) s2.me).moveCount i.node (.die i.die) (.core c)).selfInvalidate c

end Sys2Proof.Machine
end

