-- ==== Sys2Proof/Machine/EvSquad.lean ====
section
/-! DEFINITION. Events of squads: placement (R156, R180, R182), the abort of a false start (R123, R159 to R161), the end of
an instance (R120, R155, R171, R179), save and restore (R193 to R195), swaps (R196), waits that end, laps (R190 to R192),
the combining buffer (R310). -/

namespace Sys2Proof.Machine

/-! ### Names -/

/-- Changes the squad with a number. -/
def State.updSquad (s : State) (sid : Nat) (f : Squad → Squad) : State := s.mapSquads fun q => if q.sid = sid then f q else q


/-! ### What a squad leaves behind -/

/-- Charges a squad's cycles to its flow and its region (R179). -/
def State.charge (s : State) (q : Squad) : State :=
  let f := flowOf q.inst
  let va := q.inst.region.rcb.toNat + 0x40
  let s1 := s.setDeficit f (s.deficit f - q.resident)
  s1.deviceWrite q.part va (bytes64 (((s1.deviceWord q.part va).getD 0) + BitVec.ofNat 64 q.resident))

/-- FSTARTS of the region (DESIGN CHOICE, unsafe, log 51). -/
def State.countFalseStart (s : State) (i : Instance) : State :=
  let va := i.region.rcb.toNat + 0x48
  s.deviceWrite i.part va (bytes64 (((s.deviceWord i.part va).getD 0) + 1))

def Exhausted.bin : Exhausted → Nat
  | .registers => 0
  | .scratchpad | .doomed => 1
  | .time => 2
  | .consumption => 3

/-- What a resident squad holds of its core is free; the baton passes on (R161, R188). -/
def State.leaveCore (s : State) (q : Squad) : State :=
  if q.place ≠ .resident then s
  else s.updCore q.core fun x =>
    let x1 := { x with mq := x.mq.filter fun m => m.who.sid != q.sid, macqWait := x.macqWait.filter fun m => m.who.sid != q.sid,
                       fifo := x.fifo.filter fun w => w.1 != q.sid, returning := x.returning.filter fun w => w.1 != q.sid,
                       lags := x.lags.filter fun l => l.who.sid != q.sid }
    let x2 := match x1.baton with
      | some w => if w.1 = q.sid then x1.passBaton s.cycle else x1
      | none => x1
    x2.freeTiles s.cycle fun e => e.2.1 == q.sid

/-- The squad's combined reductions are sent (R310), and its core's writes on their way to the L2 are performed. -/
def State.flushSquad (s : State) (q : Squad) : State :=
  (s.flushRed (dieOfCore q.core) fun l => l.issuers.any fun x => x.1 == q.sid).flushThrough q.core fun _ => true

/-- Takes a squad off the machine; its service calls are discarded (R267). -/
def State.removeSquad (s : State) (sid : Nat) : State :=
  let s0 := s.focusIn (s.everySquad.filter fun q => q.sid != sid) s.me
  let s1 := s0.dies.foldl (fun s e => if e.2.svc.any fun c => c.who.sid == sid then
    s.updDie e.1 fun x => { x with svc := x.svc.filter fun c => c.who.sid != sid } else s) s0
  { s1 with doneWords := s1.doneWords.filter fun e => e.1 != sid,
            pending := s1.pending.filter fun e => match e with
              | .instanceEnd k | .falseStart k _ | .allowanceExpired k => k != sid
              | _ => true }

/-- Asynchronous errors that pend as the streams end are logged (R364). -/
def State.noteLates (s : State) (q : Squad) : State :=
  q.streams.foldl (fun s e => if e.2.trap.pend then s.note (.lateError (waveCode q.core e.1.quad e.1.slot) e.2.trap.pcause) else s) s

/-- Stops a squad: its commands end without words, part of a copy's bytes having landed; what it performed is released,
its resources are free and its cycles charged (R123, R161, R373) (DEDUCED, unsafe, log 52). -/
def State.abort (s : State) (q : Squad) : State :=
  let cs := s.cmds.filter fun c => c.who.sid == q.sid
  let s1 := cs.foldl (fun s c => (if opClass c.op = 1 ∧ c.phase ≠ .following ∧ !c.phase.isDraining then s.landSome c else s).dropCommand c) s
  ((((s1.flushSquad q).leaveCore q).noteLates q).removeSquad q.sid).charge q

/-! ### Nodes (R155, R170, R171, R177) -/

/-- Sets a tile and the cluster that produced it. -/
def State.produceTile (s : State) (die t core : Nat) : State :=
  { s.setTile die t (true, false) with sched := { s.sched with
      makers := Tab.put s.sched.makers (fun _ => 0) (65536 * die + t) (clusterOfCore core + 1) } }

/-- An instance leaves its node's end counter from where it is (R170); at zero the node completes (R171). `core` is where it ran. -/
def State.leaveNode (s : State) (node : Nat) (at_ : Level) (core : Nat) : State :=
  match s.node? node with
  | none => s
  | some n =>
    let left := n.count.sub at_ 1
    if left.package ≠ 0 then s.updNode node fun x => { x with count := left }
    else
      let s1 := { s with sched := { s.sched with nodes := s.sched.nodes.filter fun x => x.id != node } }
      let s2 := if n.killed then s1
        else
          let s2 := n.root.inTiles.foldl (fun s t => s.setTile n.root.die t (false, true)) s1
          n.root.resTiles.foldl (fun s t => s.produceTile n.root.die t core) s2
      s2.nodeEnds n.launch (if n.killed then LaunchStatus.killed else LaunchStatus.ok)

/-- INSTANCE_END: once all waves and commands have ended (R167). -/
def execInstanceEnd (sid : Nat) (s : State) : Out :=
  match s.squad? sid with
  | none => .next s
  | some q =>
    if !q.waves.all (·.ended) ∨ s.cmds.any (fun c => c.who.sid == sid) ∨ (s.core q.core).mq.any (fun m => m.who.sid == sid) ∨
        s.fab.window.any (fun w => w.store && w.who.sid == sid) then .next s
    else .next (((((s.flushSquad q).leaveCore q).removeSquad sid).charge q).leaveNode q.inst.node (.core q.core) q.core)

/-- A false start: the abort, then the halves (R160). -/
def State.falseStart (s : State) (q : Squad) (cause : Exhausted) : State :=
  let i := q.splitInst
  match i.splitAxis with
  | none => s
  | some ax =>
    let s1 := (((s.countNode i.node (.die i.die) 2).abort q).countFalseStart i).bump 5 (Exhausted.bin cause)
    let s2 := s1.updNode i.node fun n => { n with count := n.count.sub (.core q.core) 1 }
    (s2.queueHalf (i.half ax false)).queueHalf (i.half ax true)

/-- KILL: the squad is stopped, and its node completes as KILLED (R373). -/
def State.kill (s : State) (q : Squad) : State :=
  (((s.updNode q.inst.node fun n => { n with killed := true }).abort q)).leaveNode q.inst.node (.core q.core) q.core

/-- KILL of every instance of a kind: resident, saved, in pools, in spill rings, waiting for an entry, and roots that wait (R82, R145,
R152). -/
def State.killWhere (s : State) (mine : Instance → Bool) : State :=
  let roots := (s.sched.nodes.filter fun n => n.waiting && mine n.root).map (·.id)
  let mark (s : State) (n : Nat) : State := s.updNode n fun x => { x with killed := true }
  let s1 := roots.foldl mark s
  let s2 := (s1.everySquad.filter fun q => mine q.inst).foldl (fun s q => s.kill q) s1
  let dropDie (s : State) (d : Nat) : State :=
    let x := s.die d
    let gone := ((x.pool ++ x.spill).filter fun e => mine e.inst).map (·.inst) ++ x.late.filter mine
    if gone.isEmpty then s
    else
      let s' := s.updDie d fun x => { x with pool := x.pool.filter fun e => !mine e.inst, spill := x.spill.filter fun e => !mine e.inst,
                                             late := x.late.filter fun i => !mine i }
      ((gone.foldl (fun s i => (mark s i.node).leaveNode i.node (.die d) (48 * d)) s').unreserve (gone.map (·.key))).refill d
  let s3 := (List.range 4).foldl dropDie s2
  roots.foldl (fun s n => s.leaveNode n .package 0) s3

/-- The lowest-numbered unexited wave of a squad, and its lowest stream. -/
def Squad.firstStream (q : Squad) : Option StreamId :=
  let ws := q.waves.filter fun w => !w.ended
  (ws.map (·.widx)).min?.bind fun k =>
    ((((ws.filter fun w => w.widx == k).flatMap (·.frags)).filter fun x => x.wait != Wait.ended).map (·.fid)).min?.map fun f =>
      { sid := q.sid, widx := k, fid := f }

/-- The exhaustion of a squad's time, met by its lowest-numbered unexited wave (R159). -/
def State.timeOut (s : State) (q : Squad) : State :=
  match q.firstStream with
  | none => s
  | some x =>
    s.at x fun s =>
      let i := s.sq.splitInst
      if !s.st.trap.hmode ∧ !i.pinned ∧ i.splittable then s.exhausts .time
      -- the stream forms its next PC first (R259)
      else if s.st.skip then { s with sq := { s.sq with overtime := some x.widx, overdue := true } }
      else
        let s1 := s.exhaust .time 0
        { s1 with sq := { s1.sq with overtime := some x.widx } }

/-- ALLOWANCE_EXPIRED: LEFT is zero (R159). -/
def execAllowanceExpired (sid : Nat) (s : State) : Out :=
  match s.squad? sid with
  | none => .next s
  | some q => if q.left ≠ 0 ∨ q.place ≠ .resident then .next s else .next (s.timeOut q)

/-- FALSE_START of a resident squad that has exhausted what the event names. An instance that has been pinned since its time ran out traps
instead; one that failed to grow issues its instruction again, which then traps (R162). -/
def execFalseStart (sid : Nat) (cause : Exhausted) (s : State) : Out :=
  match s.squad? sid with
  | none => .next s
  | some q =>
    if q.exhausted ≠ some cause ∨ q.place ≠ .resident then .next s
    else
      let s1 := s.updSquad sid fun q => { q with exhausted := none }
      if !q.inst.pinned ∧ q.splitInst.splittable then .next (s1.falseStart q cause)
      else if cause = .time ∧ q.left = 0 ∧ q.overtime = none then .next (s1.timeOut q)
      else .next s1

/-! ### Save and restore (R193 to R195) -/

/-- Tiles of a squad on its core. -/
def Core.tilesOfSquad (x : Core) (sid : Nat) : List (Nat × Nat) := (x.tileOwner.filter fun e => e.2.1 == sid).map fun e => (e.1, e.2.2)

/-- What a saved squad's image holds. -/
def State.takeImage (s : State) (q : Squad) : Image :=
  let x := s.core q.core
  let offs := q.stripes.flatMap fun k => (List.range 32768).map (32768 * k + ·)
  let own := x.tilesOfSquad q.sid
  let mine (k : Nat) : Bool := own.any fun t => t.1 == k / 16384
  let holds := (match x.baton with
    | some w => if w.1 = q.sid then [w.2] else []
    | none => [])
  let waits := (x.fifo.filter fun w => w.1 == q.sid).map (·.2)
  { bytes := Tab.putAll [] (fun _ => 0) (offs.map fun o => (o, s.spByte (.core q.core) o)),
    poison := (distinct (offs.map (· / 8))).filter fun w => s.spBad (.core q.core) (8 * w),
    tiles := x.tiles.keep mine, tilePoison := x.tilePoison.filter mine, owned := own,
    ops := (x.mq.filter fun m => m.who.sid == q.sid).map fun m => { m with suspended := m.isMacro },
    returning := ((x.returning.filter fun w => w.1 == q.sid).map (·.2)) ++ holds, waiting := waits ++ holds }

/-- A stream as it is saved: what waited on the device is issued again after the restore; barriers, NAP, WAITT and SVC
stay what they are (DEDUCED, unsafe, log 54). -/
def Wait.saved : Wait → Wait
  | .parked _ _ _ _ => .blocked
  | .accept _ => .blocked
  | .pbar _ _ => .blocked
  | .waitScratch _ _ => .blocked
  | .waitMem _ => .blocked
  | w => w

/-- The codes of a squad's waves. -/
def Squad.codes (q : Squad) : List W32 := q.waves.map fun w => waveCode q.core w.quad w.slot

/-- Decisions that name a squad's waves where it is end as it leaves. -/
def State.dropDecisions (s : State) (q : Squad) : State := { s with decisions := s.decisions.filter fun e => !q.codes.contains e.1 }

/-- Saves a squad (R193). What it has read through peer windows stays read (R127). -/
def State.save (s : State) (q : Squad) (place : Place) : State :=
  let im := s.takeImage q
  let s1 := ((s.flushSquad q).leaveCore q).dropDecisions q
  s1.updSquad q.sid fun q => { (q.mapWaves fun w => { w with tracked := [], frags := w.frags.map fun x => { x.cleared with wait := x.wait.saved, line := none } })
                               with place, image := im, told := false }

/-! ### Room for images (R1, R57, R193, R198) -/

def shadowBytes : Nat := 32 * 2 ^ 20

/-- Bytes of a squad's image: stripes, tiles, granules of 8 registers, and 4 KiB for what else a wave has (R193; DESIGN CHOICE, unsafe,
log 91). -/
def Squad.imageBytes (q : Squad) (tiles : Nat) : Nat :=
  32768 * q.stripes.length + 65536 * tiles + ((q.waves.filter fun w => !w.ended).map fun w => 2048 * w.gran + 4096).sum

/-- Bytes of a die's saved images in a place. -/
def State.savedBytes (s : State) (d : Nat) (in_ : Place → Bool) : Nat :=
  ((s.everySquad.filter fun q => dieOfCore q.core == d && in_ q.place).map fun q => q.imageBytes q.image.owned.length).sum

def Place.inSram (p : Place) : Bool := p == .shadowSram
def Place.inHbm (p : Place) : Bool := p == .hbmArea || p == .parked

/-- Bytes of a squad's image, saved or to be. -/
def State.imageSize (s : State) (q : Squad) : Nat :=
  q.imageBytes (if q.place = .resident then (s.core q.core).tilesOfSquad q.sid else q.image.owned).length

/-- Whether the save area of a squad's die holds its image, or has room for it. -/
def State.hbmRoom (s : State) (q : Squad) : Bool :=
  let d := dieOfCore q.core
  q.place.inHbm || decide (s.savedBytes d Place.inHbm + s.imageSize q ≤ (s.die d).saveSize)

/-- Where a squad's image goes: shadow SRAM, else the die's save area in HBM, else nowhere yet. -/
def State.saveRoom (s : State) (q : Squad) : Option Place :=
  if s.savedBytes (dieOfCore q.core) Place.inSram + s.imageSize q ≤ shadowBytes then some .shadowSram
  else if s.hbmRoom q then some .hbmArea
  else none

/-- The supervisor is told, once for each time, that a squad waits for a place. -/
def State.noteUnplaced (s : State) (sid : Nat) : State :=
  if ((s.squad? sid).map (·.told)).getD true then s else (s.updSquad sid fun q => { q with told := true }).note (.unplaced sid)

/-- Saves a squad where there is room; where there is none the save waits, and Mladeno is notified (R198). -/
def State.saveNow (s : State) (q : Squad) : State :=
  match s.saveRoom q with
  | some p => s.save q p
  | none => s.noteUnplaced q.sid

/-- The code of ACT PARK (R372). -/
def actPark : Nat := 4

/-- What a save waits for: the peers' answers to what its streams have issued through windows (R127), and a false start in progress, which
completes (R198). -/
def State.saveHeld (s : State) (q : Squad) : Bool :=
  q.exhausted.isSome || s.fab.window.any fun w => w.cmd.isNone && w.who.sid == q.sid

/-- Parks a squad in its die's save area and notifies the host (R373). Where its save has to wait the decision stays; where that is for
room, Mladeno is notified (R198). -/
def State.parkSquad (s : State) (q : Squad) (code : W32) : State :=
  let later (s : State) : State := { s with decisions := (s.decisions.filter fun e => e.1 != code) ++ [(code, actPark)] }
  if !s.hbmRoom q then later (s.noteUnplaced q.sid)
  else if q.place = .resident ∧ s.saveHeld q then later s
  else (if q.place = .resident then s.save q .parked else s.updSquad q.sid fun q => { q with place := .parked }).note (.notice 373 (BitVec.ofNat 64 q.sid))

/-- A parking that waits for room, outside a frozen cluster. -/
def State.parkWaits (s : State) (q : Squad) : Bool :=
  q.place == .resident && !s.frozen.contains (clusterOfCore q.core) && q.codes.any fun c => s.decisions.contains (c, actPark)

/-- Mladeno places a die's save area: backed HBM of that die, outside every owned range, while nothing is saved there (R23, R193)
(DESIGN CHOICE, unsafe, log 91). -/
def State.placeSaveArea (s : State) (d base size : Nat) : State :=
  let inside := decide (0 < size) && backing s.pkg base == .hbm d && backing s.pkg (base + size - 1) == .hbm d
  let owned := (List.range 16).any fun p => s.partValid p && (s.owned p).any fun r => decide (r.1 < base + size) && decide (base < r.1 + r.2)
  if !inside ∨ owned ∨ s.savedBytes d Place.inHbm ≠ 0 then s else s.updDie d fun x => { x with saveBase := base, saveSize := size }

/-- A squad whose save may proceed (R198). -/
def State.saveable (s : State) (q : Squad) : Bool :=
  q.place == .resident && !s.frozen.contains (clusterOfCore q.core) && !s.saveHeld q

/-- SQUAD_SAVE: a parking that waits for room is carried out; else the squad is saved where Mladeno asks for it. Saves of a step and of a
swap are made by the step and the swap themselves. -/
def execSquadSave (sid : Nat) (asked : Bool) (s : State) : Out :=
  match s.squad? sid with
  | none => .next s
  | some q =>
    if s.parkWaits q then
      if s.hbmRoom q && !s.saveHeld q then .next ({ s with decisions := s.decisions.filter fun e => !q.codes.contains e.1 }.parkSquad q 0) else .next s
    else if asked && s.saveable q then .next (s.saveNow q)
    else .next s

/-- Where a saved squad's waves go on a core, if the core can take it (R194). -/
def State.restoreFit (s : State) (q : Squad) (c : Nat) : Option (List (Nat × Nat × Nat)) :=
  let x := s.core c
  let ws := (q.waves.filter fun w => !w.ended).map fun w => (w.widx, w.gran)
  if dieOfCore c ≠ dieOfCore q.core ∨ !s.ownsCore q.part c ∨ x.quarantine.contains s.power.target ∨ x.halt ∨
      s.frozen.contains (clusterOfCore c) ∨ x.reserved.isSome ∨ !q.stripes.all (s.stripeFree c) ∨
      q.image.owned.any (fun t => (x.ownerOf t.1).isSome) ∨
      !s.budgetRoom q.inst ((ws.map (·.2)).sum) q.stripes.length (some c) then none
  else (List.range 4).findSome? fun q0 => s.fitSaved c q0 ws

/-- The wait of a restored stream on its new core. -/
def Wait.moved (old new : Nat) : Wait → Wait
  | .barrier c off gen acq =>
    .barrier (if c = old then new else if c / 4 = old / 4 then new / 4 * 4 + c % 4 else c) off gen acq
  | w => w

/-- A timed wait without a slot. -/
def Wait.unslotted (w : Wait) : Wait :=
  match w with
  | .timed t => .rearm t
  | w => w

/-- The timed waits beyond the free slots of a core's table wait for one (R192). -/
def Squad.rearm (q : Squad) (slots : Nat) : Squad :=
  let late := ((q.streams.filter fun e => e.2.timedTo.isSome).map fun e => (e.1.widx, e.2.fid)).drop slots
  q.mapWaves fun w => w.mapStreams fun x =>
    if late.contains (w.widx, x.fid) then { x with wait := x.wait.unslotted, trap := { x.trap with under := x.trap.under.unslotted } } else x

/-- Restores a squad on a core (R194): the image is written back, and the streams resume after the acquire. A proof kernel there is
discarded (R183), and the instance counts at its new core (R170). -/
def State.restore (s : State) (q : Squad) (c : Nat) (ws : List (Nat × Nat × Nat)) : State :=
  let im := q.image
  let s1 := q.stripes.foldl (fun s k => s.zeroStripe c k) s
  let s2 := s1.spWrite (.core c) im.bytes
  let s3 := s2.spPoison (.core c) (im.poison.map (8 * ·))
  let s4 := s3.updCore c fun x =>
    let waits := im.waiting.map fun w => (q.sid, w)
    let x1 : Core := (im.owned.map (·.1)).foldl (fun x t => x.zeroTile t) x
    let x2 : Core := { x1.discardProof with
      tiles := Tab.putAll x1.tiles (fun _ => 0) im.tiles, tilePoison := addNats x1.tilePoison im.tilePoison,
      tileOwner := x1.tileOwner ++ (im.owned.map fun t => (t.1, q.sid, t.2)), mq := x1.mq ++ im.ops, fifo := x1.fifo ++ waits,
      returning := x1.returning ++ (im.returning.map fun w => (q.sid, w)),
      lastPart := Tab.putAll x1.lastPart (fun _ => 0) (q.stripes.map fun k => (k, q.part + 1)) }
    if x2.baton = none then x2.passBaton s.cycle else x2
  let place (w : Wave) : Wave :=
    let p := ((ws.find? fun e => e.1 == w.widx).map (·.2)).getD (w.quad, w.slot)
    let before := ((q.waves.filter fun y => decide (y.widx < w.widx) && ((ws.find? fun e => e.1 == y.widx).map (·.2.1)) == some p.1).map
      fun y => y.frags.length).sum
    { w with quad := p.1, slot := p.2, frags := w.frags.zipIdx.map fun e =>
        { e.1 with wait := e.1.wait.moved q.core c, active := decide (s.activeCount c p.1 + before + e.2 < 8) } }
  let slots := 16 - s4.timersUsed c
  let s5 := s4.updSquad q.sid fun q =>
    { ((q.mapWaves place).rearm slots) with
      place := .resident, core := c, image := Image.empty, placed := s.cycle, told := false, expired := q.expired && q.overtime.isSome }
  (s5.moveCount q.inst.node (.core q.core) (.core c)).selfInvalidate c

/-- Saved, not parked, and not swapped out. -/
def State.restorable (s : State) (q : Squad) : Bool := (q.place == .shadowSram || q.place == .hbmArea) && s.flowIn q.inst && !s.domainParked q.inst

/-- SQUAD_RESTORE. -/
def execSquadRestore (sid : Nat) (core : BitVec 8) (s : State) : Out :=
  match s.squad? sid with
  | none => .next s
  | some q =>
    if !s.restorable q then .next s
    else match s.restoreFit q core.toNat with
      | some ws => .next (s.restore q core.toNat ws)
      | none => .next s

/-- Restores a saved squad on the first core of its die that can take it. -/
def State.restoreAnywhere (s : State) (q : Squad) : Option State :=
  let d := dieOfCore q.core
  (List.range 48).findSome? fun i => (s.restoreFit q (48 * d + i)).map fun ws => s.restore q (48 * d + i) ws

/-! ### The dispatcher (R180 to R182) -/

/-- Entries that may be placed, by level and then by age. -/
def State.waitingEntries (s : State) (d : Nat) : List PoolEntry :=
  (((s.die d).pool ++ (s.die d).spill).filter fun e => s.flowIn e.inst && !s.domainParked e.inst).insertionSort fun a b =>
    b.inst.region.prio < a.inst.region.prio ∨ (a.inst.region.prio = b.inst.region.prio ∧ a.since ≤ b.since)

/-- Takes an entry out of the pool or the spill ring; an entry of the pool that frees is filled from the ring (R181). -/
def State.takeEntry (s : State) (d : Nat) (e : PoolEntry) : State :=
  (s.updDie d fun x => if x.pool.contains e then { x with pool := x.pool.erase e } else { x with spill := x.spill.erase e }).refill d

/-- A saved squad of a level or higher that some core can take. -/
def State.restoreLevel (s : State) (d lvl : Nat) : Option State :=
  if (s.sched.swap).isSome then none
  else ((s.everySquad.filter fun q => s.restorable q && dieOfCore q.core == d && decide (lvl ≤ q.inst.region.prio)).insertionSort
    fun a b => b.inst.region.prio < a.inst.region.prio ∨ (a.inst.region.prio = b.inst.region.prio ∧ a.sid ≤ b.sid)).findSome? s.restoreAnywhere

/-- Tries the entries in order; a saved squad of an entry's level, or of a higher one, is tried before it (R182). -/
def State.placeNext (s : State) (d : Nat) : List PoolEntry → State
  | [] => (s.restoreLevel d 0).getD s
  | e :: r =>
    match s.restoreLevel d e.inst.region.prio with
    | some s1 => s1
    | none =>
      match s.placeFor e.inst d with
      | some (c, ws, b) => (s.takeEntry d e).start e.inst c ws b
      | none => s.placeNext d r

/-- PLACE_INSTANCE. -/
def execPlaceInstance (die : BitVec 2) (s : State) : Out := .next (s.placeNext die.toNat (s.waitingEntries die.toNat))

/-- A core on which the instance fits once everything on it is released. -/
def State.couldFit (s : State) (i : Instance) (c : Nat) : Bool :=
  let x := s.core c
  let n := if i.nocap then 1 else i.waves
  let need := if i.nocap then 0 else i.need
  let free (b : Nat) : Bool := (List.range need).all fun k => decide (b + k < x.cap) && !x.doomed.contains (b + k)
  s.ownsCore i.part c && !x.quarantine.contains s.power.target && !x.halt && x.reserved.isNone &&
    decide ((n + 3) / 4 ≤ waveSlots) && decide ((n + 3) / 4 * i.gran ≤ granCap) && (List.range 33).any fun b => decide (b + need ≤ 32) && free b

def maxAge : Nat := 65536

/-- DISPATCH_AGE_RESERVE (DESIGN CHOICE, unsafe, log 61). -/
def execDispatchAgeReserve (die : BitVec 2) (s : State) : Out :=
  let d := die.toNat
  match s.waitingEntries d with
  | [] => .next s
  | e :: _ =>
    let taken := (List.range 48).any fun i => (s.core (48 * d + i)).reserved == some e.inst.key
    if taken ∨ s.cycle < e.since + maxAge then .next s
    else match (s.coreOrder e.inst d).find? (s.couldFit e.inst) with
      | some c => .next (s.updCore c fun x => { x with reserved := some e.inst.key })
      | none => .next s

/-! ### Partition swap (R196 to R198) -/

def swapOut (v : W64) : Nat := bits v 3 0
def swapIn (v : W64) : Nat := bits v 7 4

/-- Saves what can be saved of OUT. -/
def State.swapSaves (s : State) (p : Nat) : State :=
  (s.everySquad.filter fun q => q.part == p && s.saveable q).foldl (fun s q => s.saveNow q) s

/-- A swap starts. -/
def State.beginSwap (s : State) (v : W64) : State :=
  let o := swapOut v
  let i := swapIn v
  if o = i ∨ s.part o 0x20 ≠ s.part i 0x20 then s.ignore Mmio.swapctl
  else
    let s1 := { s with sched := { s.sched with swap := some (o, i) } }.setReg Mmio.swapctl ((v &&& 0xFF) ||| 0x80000000)
    s1.swapSaves o

/-- A write to SWAPCTL: BUSY, which is read-only, is not looked at (DESIGN CHOICE, unsafe, log 101). -/
def State.swapctl (s : State) (v : W64) : State :=
  if !clearOf v 0x800001FF then s.ignore Mmio.swapctl
  else if v.getLsbD 8 then
    if s.sched.swap.isSome ∨ s.power.stepping then { s with sched := { s.sched with swapHeld := some v } } else s.beginSwap v
  else s.setReg Mmio.swapctl ((s.reg Mmio.swapctl &&& 0x80000000) ||| (v &&& 0xFF))

def execPartitionSwap (v : W64) (sup : Bool) (s : State) : Out := supervised sup Mmio.swapctl s fun s => s.swapctl v

/-- Sets the state of a partition's queues that are in another (DEDUCED, unsafe, log 62). -/
def State.setQueues (s : State) (p old new : Nat) : State :=
  (List.range (bits (s.part p 0x18) 10 0)).foldl (fun s q =>
    match s.queue? p q with
    | some x =>
      if x.state = old then match s.deviceWord p (x.va + 8) with
        | some ctl => s.deviceWrite p (x.va + 8) (bytes64 (setBits ctl 2 0 new))
        | none => s
      else s
    | none => s) s

/-- A held swap starts, when no operating-point step is in progress. -/
def State.nextSwap (s : State) : State :=
  match s.sched.swapHeld with
  | some v => if s.sched.swap.isSome ∨ s.power.stepping then s else { s with sched := { s.sched with swapHeld := none } }.beginSwap v
  | none => s

/-- SWAP_DONE: once nothing of OUT is resident. -/
def execSwapDone (s : State) : Out :=
  match s.sched.swap with
  | none => .next s
  | some (o, i) =>
    let s1 := s.swapSaves o
    if s1.everySquad.any fun q => q.part == o && q.place == .resident then .next s1
    else
      let s2 := (s1.setQueues o 1 2).setQueues i 2 1
      let back := s2.everySquad.filter fun q => q.part == i && (q.place == .shadowSram || q.place == .hbmArea)
      let s3 := back.foldl (fun s q => (s.restoreAnywhere q).getD s) s2
      let s4 := { s3 with sched := { s3.sched with swap := none, swappedOut := addNats (dropNats s3.sched.swappedOut [i]) [o] } }
      .next ((s4.setReg Mmio.swapctl (s4.reg Mmio.swapctl &&& 0xFF)).nextSwap)

/-! ### The active set (R186) -/

/-- Whether a stream waits on a tracked result that is expected to take more than 64 cycles: a walk, a WAITA, an SVC, a read through a peer
window, or its own read of a tile's row behind a macro-operation (R186). -/
def State.longWait (s : State) (e : Resident) : Bool :=
  match e.strm.wait with
  | .parked _ _ _ _ | .waitScratch _ _ | .waitMem _ | .svc _ => true
  | .blocked => !e.strm.asked.isEmpty || (s.core e.sq.core).mq.any fun m => m.op == opMrd && m.who == e.who
  | _ => false

/-- Whether the quadrant exchanges the pending stream in: its counter has reached 64 and is above that of every active ready
stream; or it is the oldest ready pending one while an active stream has long to wait; or the active set has room (R186). -/
def State.exchanges (s : State) (e : Resident) : Bool :=
  let act := (s.quadStreams e.sq.core e.wv.quad).filter Resident.isActive
  !e.strm.active && s.unblockedNow e &&
    ((decide (64 ≤ e.strm.lap) && act.all fun a => !s.residentReady a || decide (a.strm.lap < e.strm.lap)) ||
     ((s.oldestPending e.sq.core e.wv.quad).any fun o => o.who == e.who) && act.any s.longWait ||
     decide (act.length < 8))

/-- STREAM_EXCHANGE: a pending stream enters the active set. -/
def execStreamExchange (who : StreamId) (s : State) : Out :=
  match s.resident? who with
  | none => .next s
  | some e => if s.exchanges e then .next (s.exchange e) else .next s

/-! ### Waits that end -/

/-- Runs an operation on a stream whose wait satisfies a test. -/
def State.wakeStream (s : State) (who : StreamId) (p : Wait → Bool) (f : State → State) : State :=
  s.at who fun s => if p s.st.wait then f s else s

def State.resumeAt (s : State) (w : Wait) (cost : Nat) : State := { s with st := { s.st with wait := w, readyAt := max s.st.readyAt (s.cycle + cost) } }

/-- BARRIER_WAKE: the word's generation has changed (R312); an acquire where the barrier orders (R126). -/
def execBarrierWake (who : StreamId) (s : State) : Out :=
  .next (s.at who fun s => match s.st.wait with
    | .barrier c off gen acq =>
      match s.stripeOwner s.sq.part c (stripeOf off) with
      | some r =>
        if barGen (word64 (s.spBytes r.2 off 8)) = gen then s
        else (if acq then s.selfInvalidate s.sq.core else s).resumeAt .none 14
      | none => s
    | _ => s)

def Wait.isWaita : Wait → Bool
  | .waitScratch _ _ | .waitMem _ => true
  | _ => false

/-- WAITA_RESUME: the word is read again, 30 cycles after a write (R313). -/
def execWaitaResume (who : StreamId) (s : State) : Out :=
  .next (s.wakeStream who Wait.isWaita fun s => (s.dropWaited s.st.wait).resumeAt .blocked 30)

/-- WAITA_POLL: a word of memory that is not watched is read again. -/
def execWaitaPoll (who : StreamId) (s : State) : Out :=
  .next (s.wakeStream who (fun w => match w with
    | .waitMem _ => true
    | _ => false) fun s => (s.dropWaited s.st.wait).resumeAt .blocked 0)

/-- NAP_END (R260). -/
def execNapEnd (who : StreamId) (s : State) : Out := .next (s.wakeStream who (· == .nap 0) fun s => s.resumeAt .none 0)

/-- MEMORY_RESPONSE_RETURN: the oldest tracked result of the stream has been delivered (R239, R299). -/
def execMemoryResponseReturn (who : StreamId) (s : State) : Out :=
  .next (s.at who fun s =>
    match (s.wv.tracked.filter fun e => e.2.1 == s.st.fid && decide (e.2.2 ≤ s.cycle)).getLast? with
    | some e => { s with wv := { s.wv with tracked := s.wv.tracked.filter fun y => decide (y ≠ e) } }
    | none => s)

/-- PBAR_COMPLETE: the stream's pushes have reached the scope (R94). -/
def execPbarComplete (who : StreamId) (s : State) : Out :=
  .next (s.at who fun s => match s.st.wait with
    | .pbar scope stall =>
      if s.reached scope then
        { s with st := { s.st with wait := .none, pc := s.st.npc, readyAt := s.cycle + max 1 stall, issued := s.st.issued + max 1 stall } }
      else s
    | _ => s)

/-! ### Laps and timed actions (R190 to R192) -/

def State.lapNow (s : State) : Nat := s.gtb.toNat / 2 ^ s.lapLog

/-- Lap counters at a boundary: what exceeds the budgets of the laps that have passed is carried over. -/
def State.carry (s : State) : List (Spend × Nat) :=
  (s.spent.map fun e => (e.1, match s.budget e.1 with
    | some b => e.2 - b * (s.lapNow - s.lap)
    | none => 0)).filter fun e => e.2 != 0

/-- LAP_BOUNDARY. -/
def execLapBoundary (s : State) : Out :=
  if s.lapNow = s.lap then .next s
  else
    let s1 : State := { s with spent := s.carry, lapLog := bits (s.reg Mmio.lapcfg) 4 0 }
    -- a re-request stays outstanding until its retransmission arrives (R392)
    let clear (p : Pacer) : Pacer := { p with count := 0 }
    let s2 : State := { s1 with lap := s1.lapNow, fab := { s1.fab with pacers := s1.fab.pacers.map clear } }
    .next (s2.dies.foldl (fun s e => if e.2.owqHeld then s.updDie e.1 fun x => { x with owqHeld := false } else s) s2).resumeFabric.windowPump

/-- The first restored WAITT without a slot takes one that is free. -/
def State.rearmNext (s : State) : State :=
  let waits (e : Resident) : Bool := match e.strm.wait with
    | .rearm _ => e.sq.place == .resident && decide (s.timersUsed e.sq.core < 16)
    | _ => false
  match s.streamIds.find? fun who => ((s.resident? who).map waits).getD false with
  | none => s
  | some who => s.at who fun s => match s.st.wait with
    | .rearm t => { s with st := { s.st with wait := .timed t } }
    | _ => s

def State.rearmAll (s : State) : State := (List.range 16).foldl (fun s _ => s.rearmNext) s

/-- TIMED_ACTION_FIRE: everything whose time has come. -/
def execTimedActionFire (s : State) : Out :=
  let now := s.gtb.toNat
  let fires (t : W64) : Bool := decide (t.toNat ≤ now)
  let cpy := s.cores.flatMap fun e => (e.2.timers.filter fun t => fires t.time).map (·.cmd)
  let s1 := s.cores.foldl (fun s e => if e.2.timers.any (fun t => fires t.time) then
    s.updCore e.1 fun x => { x with timers := x.timers.filter fun t => !fires t.time } else s) s
  let fire (c : Command) : Command :=
    if c.phase = .armed then
      if cpy.contains c.id then { c with phase := .queued }
      else if c.op = 0x151 ∧ fires (dval c.d 4) then { c with phase := .running }
      else c
    else c
  -- R359: a member of the group went DOWN before the firing
  let s2 := ((s1.cmds.map fire).filter fun c => c.lost && c.phase == .running).foldl (fun s c => (s.dropColl (collGroup c) (collNumber c)).finish c Status.member)
    { s1 with cmds := s1.cmds.map fire }
  .next ((s2.mapStreams fun q _ x => match x.wait with
    | .timed t | .rearm t => if q.place = .resident ∧ fires t then { x with wait := .none } else x
    | _ => x).rearmAll)

/-! ### The combining buffer (R310) -/

/-- RED_COMBINE_FLUSH. -/
def execRedCombineFlush (die : BitVec 2) (pa : W64) (s : State) : Out :=
  .next (s.flushRed die.toNat fun l => l.line == lineOf pa.toNat)

/-- CONTENTION_WINDOW: lines that reached 16 are hot in the next window. -/
def execContentionWindow (die : BitVec 2) (s : State) : Out :=
  .next (s.updDie die.toNat fun x => { x with redHot := (x.redCount.filter fun e => 16 ≤ e.2).map (·.1), redCount := [] })

end Sys2Proof.Machine
end

