-- ==== Sys2Proof/Machine/EvPower.lean ====
section
/-! DEFINITION. Events of cores and operating points: row remap and viability tables (R48 to R54), halting (R54), steps
(R55 to R61), L1 and L2 ways (R69), the power limit (R411). -/

namespace Sys2Proof.Machine

/-! ### Viability (R49 to R51, R69) -/

def rvtFull : Nat → W64 := fun _ => 0x3FFFFFFFF

/-- The working rows of bank b at point p. -/
def Core.rows (x : Core) (p b : Nat) : W64 := Tab.getD x.rvt rvtFull (256 * p + b)
def Core.works (x : Core) (p b row : Nat) : Bool := (x.rows p b).getLsbD row

def popNat (v : W64) : Nat := ((List.range 64).filter fun i => v.getLsbD i).length

/-- Banks with a failing row at a point. -/
def Core.failing (x : Core) (p : Nat) : List Nat := (x.rvt.filter fun e => e.1 / 256 == p).map fun e => e.1 % 256

/-- cap(p) (R50). -/
def Core.capAt (x : Core) (p : Nat) : Nat := (x.failing p).foldl (fun a b => min a (popNat (x.rows p b))) 32

/-- Guaranteed minimum of R5. -/
def minCap (p : Nat) : Nat := if p ≤ 1 then 32 else if p = 2 then 30 else if p = 3 then 28 else 24

/-- R51: a core below the minimum at a point is quarantined there. -/
def State.quarantineCheck (s : State) (c : Nat) : State :=
  let x := s.core c
  let new := (List.range 5).filter fun p => x.capAt p < minCap p && !x.quarantine.contains p
  if new.isEmpty then s
  else (s.updCore c fun x => { x with quarantine := addNats x.quarantine new }).note (.notice 51 (BitVec.ofNat 64 c))

/-- Clears bits of an RVT word at a point and at every lower-voltage point (R49) (DEDUCED, unsafe, log 55). -/
def Core.clearRows (x : Core) (p b : Nat) (keep : W64) : Core :=
  { x with rvt := Tab.putAll x.rvt rvtFull (((List.range 5).filter (p ≤ ·)).map fun q => (256 * q + b, x.rows q b &&& keep)) }

/-- Rows of a core fail: its RVT says so, and the field mask of the lifetime area with it (R49) (DEDUCED, unsafe, log 55). -/
def State.clearRows (s : State) (c p b : Nat) (keep : W64) : State :=
  let full : Nat → W64 := fun _ => BitVec.allOnes 64
  let at_ (q : Nat) : Nat := 1280 * c + 256 * q + b
  let mask := ((List.range 5).filter (p ≤ ·)).map fun q => (at_ q, Tab.getD s.admin.fieldRows full (at_ q) &&& keep)
  { s with admin := { s.admin with fieldRows := Tab.putAll s.admin.fieldRows full mask } }.updCore c fun x => x.clearRows p b keep

/-- Ways that fail at a point hold nothing: lines go out of the L2, and are dropped from the L1s (R56, R69) (DEDUCED, unsafe, log 56). -/
def State.disableWays (s : State) (p : Nat) : State :=
  let works (e : Nat × L2Line) : Bool :=
    ((homeDie (128 * e.1)).map fun d => ((s.die d).l2WaysAt p (sliceOf e.1)).contains e.2.way).getD true
  let s1 := (s.l2.filter fun e => e.2.held && !works e).foldl (fun s e => s.evictOut e.1) s
  s1.cores.foldl (fun s e =>
    let ws := e.2.l1WaysAt p
    if e.2.l1.all fun c => ws.contains c.way then s
    else s.updCore e.1 fun x => { x with l1 := x.l1.filter fun c => ws.contains c.way }) s1

def execRvtWrite (core : BitVec 8) (idx : BitVec 11) (v : W64) (sup : Bool) (s : State) : Out :=
  let c := core.toNat
  let pa := Mmio.core c + 0x2200 + 8 * idx.toNat
  supervised sup pa s fun s =>
    if 192 ≤ c ∨ 1280 ≤ idx.toNat ∨ !clearOf v 0x3FFFFFFFF then s.ignore pa
    else (s.clearRows c (idx.toNat / 256) (idx.toNat % 256) v).quarantineCheck c

def execWayViabilityWrite (l2 : Bool) (unit : BitVec 8) (idx : BitVec 8) (v : W64) (sup : Bool) (s : State) : Out :=
  let u := unit.toNat
  let i := idx.toNat
  if l2 then
    let pa := Mmio.die u + 8 * i
    supervised sup pa s fun s =>
      if 4 ≤ u ∨ 160 ≤ i ∨ !clearOf v 0xFFFF then s.ignore pa
      else (s.updDie u fun x => { x with l2ways := Tab.upd x.l2ways l2Full i (· &&& v) }).disableWays s.wayPoint
  else
    let pa := Mmio.core u + 0x4A00 + 8 * i
    supervised sup pa s fun s =>
      if 192 ≤ u ∨ 5 ≤ i ∨ !clearOf v 0xFF then s.ignore pa
      else (s.updCore u fun x => { x with l1ways := Tab.upd x.l1ways l1Full i (· &&& v) }).disableWays s.wayPoint

/-! ### RRTXCHG (R54) -/

/-- Exchanges the contents of two physical rows of a bank; a word that cannot be read cleanly is poisoned, and stays so (R54, R60, R61)
(DEDUCED, unsafe, log 90). -/
def Core.swapRows (x : Core) (b p q : Nat) : Core :=
  let key (r k : Nat) : Nat := 4352 * b + 128 * r + k
  let ks := List.range 128
  let ws := ks.flatMap fun k => [(key p k, x.scratch.get0 (key q k)), (key q k, x.scratch.get0 (key p k))]
  let words (r : Nat) : List Nat := (List.range 16).map fun k => key r 0 / 8 + k
  let move (f g : Nat) : List Nat := ((words f).zip (words g)).filterMap fun e => if x.poison.contains e.1 then some e.2 else none
  { x with scratch := Tab.putAll x.scratch (fun _ => 0) ws,
           poison := addNats (dropNats x.poison (words p ++ words q)) (move p q ++ move q p) }

def rrtIdentity : Nat → Nat := fun k => k % 34

/-- Exchanges two entries of a bank. -/
def Core.swapSlots (x : Core) (b j k : Nat) : Core :=
  { x with rrt := Tab.putAll x.rrt rrtIdentity [(34 * b + j, x.rowAt b k), (34 * b + k, x.rowAt b j)] }

def State.rrtxchg (s : State) (c : Nat) (v : W64) : State :=
  let a := bits v 13 8
  let b := bits v 21 16
  let bank := bits v 7 0
  let x := s.core c
  if !x.halted ∨ 33 < a ∨ 33 < b ∨ a = b ∨ !clearOf v 0x13F3FFF then s.ignore (Mmio.core c + 0x4A40)
  else
    let x1 := if v.getLsbD 24 then x.swapRows bank (x.rowAt bank a) (x.rowAt bank b) else x
    s.setCore c (x1.swapSlots bank a b)

/-- A write with the MOVE bit of its row. -/
def runRrt (move : Bool) (core : BitVec 8) (v : W64) (sup : Bool) (s : State) : Out :=
  supervised sup (Mmio.core core.toNat + 0x4A40) s fun s => if core.toNat < 192 ∧ v.getLsbD 24 = move then s.rrtxchg core.toNat v else s

def execRrtExchange (core : BitVec 8) (v : W64) (sup : Bool) (s : State) : Out := runRrt false core v sup s
def execRrtExchangeMove (core : BitVec 8) (v : W64) (sup : Bool) (s : State) : Out := runRrt true core v sup s

/-! ### CORECTL (R54) -/

/-- Saves every squad of a core that can be saved. -/
def State.saveAll (s : State) (c : Nat) : State := ((s.residents c).filter s.saveable).foldl (fun s q => s.saveNow q) s

def State.haltCore (s : State) (c : Nat) : State := (s.updCore c fun x => { x.discardProof with halt := true }).saveAll c

def State.corectl (s : State) (c : Nat) (v : W64) : State :=
  if !clearOf v 3 then s.ignore (Mmio.core c + 0x4A48)
  else if v.getLsbD 0 then s.haltCore c
  else s.updCore c fun x => { x with halt := false, halted := false }

/-- A write with the HALT bit of its row. -/
def runCorectl (halt : Bool) (core : BitVec 8) (v : W64) (sup : Bool) (s : State) : Out :=
  supervised sup (Mmio.core core.toNat + 0x4A48) s fun s => if core.toNat < 192 ∧ v.getLsbD 0 = halt then s.corectl core.toNat v else s

def execCoreHalt (core : BitVec 8) (v : W64) (sup : Bool) (s : State) : Out := runCorectl true core v sup s
def execCoreRelease (core : BitVec 8) (v : W64) (sup : Bool) (s : State) : Out := runCorectl false core v sup s

/-- CORE_HALTED: the last save has completed. -/
def execCoreHalted (core : BitVec 8) (s : State) : Out :=
  let c := core.toNat
  if !(s.core c).halt then .next s
  else
    let s1 := s.saveAll c
    if (s1.residents c).isEmpty then .next (s1.updCore c fun x => { x with halted := true }) else .next s1

/-! ### Steps of the operating point (R55 to R61) -/

def State.setPower (s : State) (f : Power → Power) : State := { s with power := f s.power }

/-- OPCTL as it reads. -/
def State.putOpctl (s : State) (t : Nat) : State := s.setReg Mmio.opctl (BitVec.ofNat 64 (t + if s.power.stepping then 128 else 0))

/-- A step starts; OPCTL.TARGET becomes its target (DESIGN CHOICE, unsafe, log 96). -/
def State.beginStep (s : State) (t : Nat) : State :=
  (s.setPower fun p => { p with target := t, stepping := true, stage := 0, up := decide (t < p.point), moves := [] }).putOpctl t

/-- A request for a step to point t through OPCTL, whoever makes it; while one is in progress it is held. -/
def State.requestStep (s : State) (t : Nat) : State :=
  if s.power.stepping then (s.setPower fun p => { p with heldGo := some t }).putOpctl t else s.beginStep t

def State.opctl (s : State) (v : W64) : State :=
  let t := bits v 2 0
  if !clearOf v 0x97 ∨ 4 < t then s.ignore Mmio.opctl
  else
    let s1 := s.putOpctl t
    if v.getLsbD 4 then s1.requestStep t else s1

def execOpStepRequest (v : W64) (sup : Bool) (s : State) : Out := supervised sup Mmio.opctl s fun s => s.opctl v

/-- Slots j of a bank from 33 down to a bound. -/
def slotsDown (lo : Nat) : List Nat := ((List.range 34).filter (lo ≤ ·)).reverse

/-- Row moves of one bank: slot k takes donor slot j's row. -/
def Core.planBank (x : Core) (tgt next b : Nat) : List (Nat × Nat) :=
  ((List.range next).foldl (fun (a : Core × List (Nat × Nat)) k =>
    if a.1.works tgt b (a.1.rowAt b k) then a
    else match (slotsDown next).find? fun j => a.1.works tgt b (a.1.rowAt b j) with
      | some j => (a.1.swapSlots b k j, a.2 ++ [(k, j)])
      | none => a) (x, [])).2

/-- Stage 1 on one core: NEXT, the doomed stripes, and the moves of the plan. -/
def State.planCore (s : State) (c : Nat) : State :=
  let x := s.core c
  let t := s.power.target
  let next := x.capAt t
  let moves := (x.failing t).flatMap fun b => (x.planBank t next b).map fun m => (c, b, m.1, m.2)
  (s.updCore c fun x => { x with next, doomed := (List.range 32).filter fun k => decide (next ≤ k) && decide (k < x.cap) }).setPower
    fun p => { p with moves := p.moves ++ moves }

/-- Cores whose tables differ from those of reset. -/
def State.coreList (s : State) : List Nat := s.cores.map (·.1)

def State.atStage (s : State) (up : Bool) (n : Nat) : Bool := s.power.stepping && s.power.up == up && s.power.stage == n

def State.finishStage (s : State) (n : Nat) : State := s.setPower fun p => { p with stage := n }

def execOpStepPlan (s : State) : Out :=
  if !s.atStage false 0 then .next s else .next ((s.coreList.foldl (fun s c => s.planCore c) s).finishStage 1)

/-- One move: contents are copied where the stripe is owned (R56). -/
def State.moveRow (s : State) (c b k j : Nat) : State :=
  let x := s.core c
  let p := x.rowAt b k
  let q := x.rowAt b j
  let owned (i : Nat) : Bool := decide (i < 32) && (s.residents c).any fun e => e.stripes.contains i
  let y := x.swapRows b p q
  -- of an unowned side nothing is copied: its bytes stay where they were
  let stay (from_ : Core) (r : Nat) (z : Core) : Core :=
    let keys := (List.range 128).map fun i => 4352 * b + 128 * r + i
    let words := (List.range 16).map fun i => (4352 * b + 128 * r) / 8 + i
    { z with scratch := Tab.putAll z.scratch (fun _ => 0) (keys.map fun i => (i, from_.scratch.get0 i)),
             poison := addNats (dropNats z.poison words) (words.filter fun w => from_.poison.contains w) }
  let y1 := if owned k then y else stay x q y
  let y2 := if owned j then y1 else stay x p y1
  (s.setCore c (y2.swapSlots b k j)).bump 4 (5 * c + s.power.target)

def execOpStepRowMoves (s : State) : Out :=
  if !s.atStage false 1 then .next s
  else .next (((s.power.moves.foldl (fun s m => s.moveRow m.1 m.2.1 m.2.2.1 m.2.2.2) s).setPower fun p => { p with moves := [] }).finishStage 2)

/-- R57: the owner of a doomed stripe. An unpinned one of a frozen cluster is false-started too, for the step continues (R61); the save
of a pinned one waits for the decision (R198) (DEDUCED, unsafe, log 57). -/
def State.dispose (s : State) (q : Squad) : State :=
  if !q.inst.pinned ∧ q.splitInst.splittable then s.falseStart q .doomed
  else if s.saveable q then (s.saveNow q).noteUnplaced q.sid
  else s

def State.doomedSquads (s : State) : List Squad :=
  s.everySquad.filter fun q => q.place == .resident && q.stripes.any fun k => (s.core q.core).doomed.contains k

def execOpStepDispose (s : State) : Out :=
  if !s.atStage false 2 then .next s
  else
    let s1 := s.doomedSquads.foldl (fun s q => s.dispose q) s
    .next (if s1.doomedSquads.isEmpty then s1.finishStage 3 else s1)

/-- Stage 4: what the ways that fail at the target hold is written back and dropped. -/
def execOpStepWays (s : State) : Out :=
  if !s.atStage false 3 then .next s else .next ((s.finishStage 4).disableWays s.power.target)

/-- Stage 5, with which the clock of the target runs; a refit has none. -/
def execOpStepRamp (s : State) : Out :=
  if !s.atStage false 4 ∨ s.power.target = s.power.point then .next s else .next (s.finishStage 5)

/-- The step has ended: a held target is stepped to, unless it is the current point, and a held swap starts. -/
def State.endStep (s : State) : State :=
  let t := s.power.target
  let held := s.power.heldGo
  let s1 := s.coreList.foldl (fun s c => s.updCore c fun x => { x with cap := x.next, doomed := [] }) s
  let s2 := (s1.setPower fun p => { p with point := t, stepping := false, stage := 0, up := false, heldGo := none }).putOpctl (bits (s.reg Mmio.opctl) 2 0)
  match held with
  | some h => if h = t then s2.nextSwap else s2.beginStep h
  | none => s2.nextSwap

def execOpStepCommit (s : State) : Out :=
  let refit := s.power.target == s.power.point
  if s.atStage false 5 ∨ (refit ∧ s.atStage false 4) then .next s.endStep else .next s

/-- Upward stages 1 and 2. -/
def execOpStepUpRaise (s : State) : Out :=
  if !s.atStage true 0 then .next s
  else .next ((s.coreList.foldl (fun s c => s.updCore c fun x => { x with next := x.capAt s.power.target }) s).finishStage 2)

/-- Upward stages 3 to 6. -/
def execOpStepUpSettled (s : State) : Out := if s.atStage true 2 then .next s.endStep else .next s

/-! ### The power limit (R411) -/

def capMin : Nat := 600
def capMax : Nat := 2300

/-- CAP of PWRCAP; other values are ignored. -/
def State.putCap (s : State) (v : Nat) : Option State :=
  if v < capMin ∨ capMax < v then none else some (s.setReg Mmio.pwrcap (setBits (s.reg Mmio.pwrcap) 15 0 v))

/-- A write to PWRCAP: MEAS is read-only. -/
def State.pwrcap (s : State) (v : W64) : State :=
  if !clearOf v 0xFFFF00000000FFFF then s.ignore Mmio.pwrcap else (s.putCap (bits v 15 0)).getD (s.ignore Mmio.pwrcap)

def execPowerSample (meas : BitVec 16) (s : State) : Out :=
  let cap := bits (s.reg Mmio.pwrcap) 15 0
  let m := meas.toNat
  let verdict := if cap < m then 1 else if m + 100 < cap then 2 else 0
  let s1 := s.setReg Mmio.pwrcap (setBits (s.reg Mmio.pwrcap) 63 48 m)
  let l := (verdict :: s1.power.samples).take 100
  let put (l : List Nat) : State := s1.setPower fun p => { p with samples := l }
  let above := l.take 3 == [1, 1, 1]
  let under := decide (l.length = 100) && l.all (· == 2)
  let pt := s.power.point
  if above then (if pt = 4 then let t := put []; .next ({ t with hostOut := t.hostOut ++ [HostOut.power m] }.note (.notice 411 (BitVec.ofNat 64 m)))
    else .next ((put []).requestStep (pt + 1)))
  else if under ∧ s.power.bound < pt then .next ((put []).requestStep (pt - 1))
  else .next (put l)

end Sys2Proof.Machine
end

