-- ==== Sys2Proof/Machine/Sha256.lean ====
section
/-! DEFINITION. SHA-256, by which images, measurements and the output of proof kernels are named (R376, R409, R410): the function of
FIPS 180-4, which the spec names and does not describe (PRESUMED, unsafe, log 115). -/

namespace Sys2Proof.Machine

namespace Sha256

/-- The constants of the rounds. -/
def table : List W32 :=
  [0x428a2f98, 0x71374491, 0xb5c0fbcf, 0xe9b5dba5, 0x3956c25b, 0x59f111f1, 0x923f82a4, 0xab1c5ed5,
   0xd807aa98, 0x12835b01, 0x243185be, 0x550c7dc3, 0x72be5d74, 0x80deb1fe, 0x9bdc06a7, 0xc19bf174,
   0xe49b69c1, 0xefbe4786, 0x0fc19dc6, 0x240ca1cc, 0x2de92c6f, 0x4a7484aa, 0x5cb0a9dc, 0x76f988da,
   0x983e5152, 0xa831c66d, 0xb00327c8, 0xbf597fc7, 0xc6e00bf3, 0xd5a79147, 0x06ca6351, 0x14292967] ++
  [0x27b70a85, 0x2e1b2138, 0x4d2c6dfc, 0x53380d13, 0x650a7354, 0x766a0abb, 0x81c2c92e, 0x92722c85,
   0xa2bfe8a1, 0xa81a664b, 0xc24b8b70, 0xc76c51a3, 0xd192e819, 0xd6990624, 0xf40e3585, 0x106aa070,
   0x19a4c116, 0x1e376c08, 0x2748774c, 0x34b0bcb5, 0x391c0cb3, 0x4ed8aa4a, 0x5b9cca4f, 0x682e6ff3,
   0x748f82ee, 0x78a5636f, 0x84c87814, 0x8cc70208, 0x90befffa, 0xa4506ceb, 0xbef9a3f7, 0xc67178f2]

/-- The hash value before the first block. -/
def initial : List W32 := [0x6a09e667, 0xbb67ae85, 0x3c6ef372, 0xa54ff53a, 0x510e527f, 0x9b05688c, 0x1f83d9ab, 0x5be0cd19]

def rotr (x : W32) (n : Nat) : W32 := x.rotateRight n

/-- Four bytes, the most significant first. -/
def wordOf (bs : List W8) : W32 := bs.foldl (fun a b => (a <<< 8) ||| b.setWidth 32) 0

def bytesOf (w : W32) : List W8 := [(w >>> 24).setWidth 8, (w >>> 16).setWidth 8, (w >>> 8).setWidth 8, w.setWidth 8]

/-- The message with its padding: one bit, zeros, and the length in bits, to whole blocks of 64 bytes. -/
def padded (m : List W8) : List W8 :=
  let n : W64 := BitVec.ofNat 64 (8 * m.length)
  m ++ [(0x80 : W8)] ++ List.replicate ((119 - m.length % 64) % 64) (0 : W8) ++ bytesOf ((n >>> 32).setWidth 32) ++ bytesOf (n.setWidth 32)

/-- The message schedule, from the 16 words of a block: `w` is latest first. -/
def schedule (w : List W32) : Nat → List W32
  | 0 => w.reverse
  | n + 1 =>
    let x := w.getD 14 0
    let y := w.getD 1 0
    let s0 := rotr x 7 ^^^ rotr x 18 ^^^ (x >>> 3)
    let s1 := rotr y 17 ^^^ rotr y 19 ^^^ (y >>> 10)
    schedule ((s1 + w.getD 6 0 + s0 + w.getD 15 0) :: w) n

/-- One round on the eight working variables. -/
def round (v : List W32) (k w : W32) : List W32 :=
  match v with
  | [a, b, c, d, e, f, g, h] =>
    let t1 := h + (rotr e 6 ^^^ rotr e 11 ^^^ rotr e 25) + ((e &&& f) ^^^ (~~~e &&& g)) + k + w
    let t2 := (rotr a 2 ^^^ rotr a 13 ^^^ rotr a 22) + ((a &&& b) ^^^ (a &&& c) ^^^ (b &&& c))
    [t1 + t2, a, b, c, d + t1, e, f, g]
  | _ => v

/-- The words of a block. -/
def words (block : List W8) : List W32 := (List.range 16).map fun i => wordOf ((block.drop (4 * i)).take 4)

def compress (h : List W32) (block : List W8) : List W32 :=
  let w := schedule (words block).reverse 48
  let v := (table.zip w).foldl (fun v e => round v e.1 e.2) h
  (h.zip v).map fun e => e.1 + e.2

def blocks (h : List W32) (m : List W8) : Nat → List W32
  | 0 => h
  | n + 1 => blocks (compress h (m.take 64)) (m.drop 64) n

end Sha256

/-- The SHA-256 digest of a message, 32 bytes. -/
def sha256 (m : List W8) : List W8 :=
  let p := Sha256.padded m
  (Sha256.blocks Sha256.initial p (p.length / 64)).flatMap Sha256.bytesOf

end Sys2Proof.Machine
end

