-- ==== Sys2Proof/Machine/EvTrap.lean ====
section
/-! DEFINITION. Events of errors: posted errors (R367), consumption records and their ring (R370, R371), decisions (R372,
R373), proof kernels (R183, R376, R377). -/

namespace Sys2Proof.Machine

/-! ### Waves by their code (R31) -/

/-- The squad and wave that WHO names, a resident one before a saved one. -/
def State.waveByCode (s : State) (who : W32) : Option (Squad × Wave) :=
  let code : W32 := who &&& 0xFFFE0000
  let find (res : Bool) : Option (Squad × Wave) :=
    (s.everySquad.filter fun q => (q.place == .resident) == res).findSome? fun q =>
      (q.waves.find? fun w => !w.ended && waveCode q.core w.quad w.slot == code).map fun w => (q, w)
  match find true with
  | some r => some r
  | none => find false

/-- The lowest-numbered live stream of a wave. -/
def Wave.lowest (w : Wave) : Option Nat := ((w.frags.filter fun x => x.wait != Wait.ended).map (·.fid)).min?

/-! ### Posted errors (R367) -/

/-- An error posted to the focused stream waits in its pending slot; a second one is a double fault (R366) (DEDUCED, unsafe, log 59). -/
def State.postError (s : State) (code : Nat) (info : W64) : State :=
  if s.st.trap.pend then s.doubleFault { code, tpc := s.st.pc, mask := s.st.exec, info0 := info } true
  else { s with st := { s.st with trap := { s.st.trap with pend := true, pcause := BitVec.ofNat 8 code, pinfo := info } } }

/-- A write to ERRPOST. -/
def State.errpost (s : State) (v : W64) : State :=
  let code := bits v 39 32
  let who : W32 := v.setWidth 32
  if !clearOf v 0xFFFFFFFFFF ∨ (code ≠ Cause.rederr ∧ code ≠ Cause.posted) then s.ignore Mmio.errpost
  else match s.waveByCode who with
    | none => s.note (.lateError who (BitVec.ofNat 8 code))
    | some (q, w) =>
      match w.lowest with
      | none => s.note (.lateError who (BitVec.ofNat 8 code))
      | some f => s.at { sid := q.sid, widx := w.widx, fid := f } fun s => s.postError code (s.reg Mmio.errinfo)

/-- A write with the CODE of its row. -/
def runPost (code : Nat) (v : W64) (sup : Bool) (s : State) : Out :=
  supervised sup Mmio.errpost s fun s => if bits v 39 32 = code then s.errpost v else s

def execPostRederr (v : W64) (sup : Bool) (s : State) : Out := runPost Cause.rederr v sup s
def execPostPosted (v : W64) (sup : Bool) (s : State) : Out := runPost Cause.posted v sup s

/-- ASYNC_TRAP_ENTRY: a stream between two instructions enters its pending error, unless a handler runs. -/
def execAsyncTrapEntry (who : StreamId) (s : State) : Out :=
  .next (s.at who fun s =>
    if s.st.trap.pend ∧ !s.st.trap.hmode ∧ !s.st.skip ∧ (s.st.wait = .none ∨ s.st.wait = .blocked) ∧ s.sq.place = .resident then s.enterPending else s)

/-! ### Consumption records (R370, R371) -/

def crSize : Nat := 4096

def ConsKind.code : ConsKind → Nat
  | .media => 1 | .dupmis => 2 | .mtxsum => 3 | .integ => 4 | .mcheck => 5 | .double => 6

/-- The 128 bytes of a record. -/
def consBytes (q : Squad) (w : Wave) (x : Stream) (c : Consumption) : List W8 :=
  let hdr := BitVec.ofNat 64 (2 ^ 32 * (waveCode q.core w.quad w.slot).toNat + 2 ^ 10 * x.fid + (if x.trap.hmode then 512 else 0) +
    (if q.inst.pinned then 256 else 0) + c.kind.code)
  let t := x.trap
  let first : List W64 := if c.kind = .double then [t.cause, t.pc, t.addr, t.mask, t.info0, t.info1, t.info2] else List.replicate 7 0
  ([hdr, c.pc, c.addr, c.mask, c.info, q.inst.region.rcb, q.inst.path.setWidth 64, c.gtb] ++ first ++ [0]).flatMap bytes64

def State.streamOf (s : State) (who : StreamId) : Option (Squad × Wave × Stream) :=
  (s.squad? who.sid).bind fun q => (q.wave? who.widx).bind fun w => (w.frags.find? fun x => x.fid == who.fid).map fun x => (q, w, x)

/-- Die of a consumption; of one whose squad is gone, none. -/
def State.consDie (s : State) (c : Consumption) : Option Nat := (s.squad? c.who.sid).map fun q => dieOfCore q.core

/-- A DUPMIS or MTXSUM of a core: after the second within one GTB second Mladeno runs the core's proof kernels (R377). -/
def State.countFailure (s : State) (c t : Nat) : State :=
  let near := s.admin.failures.filter fun e => decide (t < e.2 + 10 ^ 9)
  if near.any fun e => e.1 == c then
    { s with admin := { s.admin with failures := near.filter fun e => e.1 != c } }.updCore c fun x =>
      { x with proofDue := x.proofDue ++ (s.admin.kernels.map fun (k : ProofKernel) => k.id).filter fun k => !x.proofDue.contains k && x.proof != some k }
  else { s with admin := { s.admin with failures := near ++ [(c, t)] } }

/-- CONSUMPTION_RECORD_WRITE: the oldest record of the die, if its ring has room. -/
def execConsumptionRecordWrite (die : BitVec 2) (s : State) : Out :=
  let d := die.toNat
  let base := s.reg (Mmio.crbase d)
  let head := s.reg (Mmio.crhead d)
  match s.records.find? fun c => s.consDie c == some d with
  | none => .next s
  | some c =>
    let gone : State := { s with records := s.records.erase c }
    match s.streamOf c.who with
    | none => .next gone
    | some (q, w, x) =>
      if !base.getLsbD 0 ∨ crSize ≤ ringHeld head (s.reg (Mmio.crtail d)) then .next s
      else
        let pa := bits base 51 19 * 2 ^ 19 + 128 * (bits head 31 0 % crSize)
        let s1 := (gone.writeAt Under.device pa (consBytes q w x c)).setReg (Mmio.crhead d) (BitVec.ofNat 64 ((bits head 31 0 + 1) % 2 ^ 32))
        let s2 := s1.bump 8 (c.kind.code - 1)
        .next (if c.kind = .dupmis ∨ c.kind = .mtxsum then s2.countFailure q.core c.gtb.toNat else s2)

/-- Die d's consumption-ring signal to the supervisor cores, raised while HEAD differs from TAIL (R371). -/
def State.consSignal (s : State) (d : Nat) : Bool := bits (s.reg (Mmio.crhead d)) 31 0 != bits (s.reg (Mmio.crtail d)) 31 0

def execCrbaseWrite (die : BitVec 2) (v : W64) (sup : Bool) (s : State) : Out :=
  let pa := Mmio.crbase die.toNat
  supervised sup pa s fun s => s.orIgnore pa id (s.ringBase pa 19 v)

def execCrtailWrite (die : BitVec 2) (v : W64) (sup : Bool) (s : State) : Out :=
  let pa := Mmio.crtail die.toNat
  supervised sup pa s fun s => s.orIgnore pa id (s.ringTail pa (Mmio.crhead die.toNat) v)

/-! ### Decisions (R372, R373) -/

namespace Act
/-- RESUME of a stream: it goes on past what it consumed (DEDUCED, unsafe, log 60). -/
def resume : Nat := 0
def replay : Nat := 1
def kill : Nat := 2
def falseStart : Nat := 3
def park : Nat := actPark
end Act

/-- What a decision to go on does to a macro-operation that has stopped. -/
def MacroOp.resumed (act : Nat) (w : WaveId) (m : MacroOp) : Option MacroOp :=
  match m.cons with
  | none => some m
  | some c =>
    if waveOf m.who ≠ w then some m
    else if act = Act.resume ∧ c.kind = .media then (if m.isMacro then some { m with cons := none, pass := true } else none)
    else some { m with cons := none }

/-- What a decision to go on does to the focused stream: POISON after a MEDIA resumed, or the instruction again, or on with the wait
that a posted error met. -/
def State.goOn (s : State) (act : Nat) : State :=
  match s.st.cons with
  | none => s
  | some c =>
    let s1 := { s with st := { s.st with cons := none, wait := c.under.saved } }
    if act = Act.resume ∧ c.kind = .media then
      s1.trap { code := Cause.poison, tpc := c.pc, addr := c.addr, mask := c.mask, info0 := c.info }
    else s1

/-- RESUME or REPLAY of a wave. -/
def State.continueWave (s : State) (q : Squad) (w : Wave) (act : Nat) : State :=
  let id : WaveId := (q.sid, w.widx)
  let s1 := if q.place = .resident then s.updCore q.core fun x => { x with mq := x.mq.filterMap (MacroOp.resumed act id) }
    else s.updImage q.sid fun x => { x with ops := x.ops.filterMap (MacroOp.resumed act id) }
  let s2 := w.frags.foldl (fun s x => s.at { sid := q.sid, widx := w.widx, fid := x.fid } fun s => s.goOn act) s1
  let s3 := s2.updSquad q.sid fun q =>
    { (q.mapWaves fun y => if y.widx = w.widx then { y with bkpt := none } else y) with place := if q.place = .parked then .hbmArea else q.place }
  if q.place = .resident then s3.settleMoves q.core (s3.core q.core).mq.length else s3

/-- An integrity violation of the wave: RESUME and REPLAY act as KILL. -/
def State.mustDie (s : State) (q : Squad) (w : Wave) : Bool :=
  (w.frags.any fun x => (x.cons.map fun c => c.kind == .integ).getD false) ||
    (s.core q.core).mq.any fun m => waveOf m.who == (q.sid, w.widx) && (m.cons.map fun c => c.kind == .integ).getD false

/-- A decision takes effect. -/
def State.takeDecision (s : State) (q : Squad) (w : Wave) (act : Nat) : State :=
  if act = Act.kill ∨ ((act = Act.resume ∨ act = Act.replay) ∧ s.mustDie q w) then s.kill q
  else if act = Act.resume ∨ act = Act.replay then s.continueWave q w act
  else if act = Act.falseStart ∧ !q.inst.pinned ∧ q.splitInst.splittable then s.falseStart q .consumption
  else if act = Act.falseStart then (s.parkSquad q (waveCode q.core w.quad w.slot)).note (.pinnedFalseStart q.sid)
  else s.parkSquad q (waveCode q.core w.quad w.slot)

/-- The wave is frozen apart from its cluster: after a double fault, or at a BKPT. -/
def Wave.frozenAlone (w : Wave) : Bool := w.bkpt.isSome || w.frags.any fun x => (x.cons.map fun c => c.kind == .double).getD false

/-- A wave that stands frozen outside a frozen cluster, its parking having found no room. -/
def State.standsFrozen (s : State) (q : Squad) (w : Wave) : Bool :=
  q.place == .resident && !s.frozen.contains (clusterOfCore q.core) && w.frags.any fun x => x.wait == .frozen

/-- A saved squad of which Mladeno was told that no core can take it: KILL and PARK are open to it (R57). -/
def Squad.unplaced (q : Squad) (act : Nat) : Bool :=
  (q.place == .shadowSram || q.place == .hbmArea) && q.told && (act == Act.kill || act == Act.park)

/-- A wave of a squad that is no longer resident, which has consumed and waits for its own decision: its squad was parked, and another
wave's decision has ended the parking. -/
def Squad.stillConsumes (q : Squad) (w : Wave) : Bool :=
  q.place != .resident && (w.frags.any (fun x => x.cons.isSome) || q.image.ops.any fun m => waveOf m.who == (q.sid, w.widx) && m.cons.isSome)

def State.frzdec (s : State) (who : W32) (act : Nat) : State :=
  match s.waveByCode who with
  | none => s.ignore Mmio.frzdec
  | some (q, w) =>
    if q.place = .parked ∨ w.frozenAlone ∨ s.standsFrozen q w ∨ q.unplaced act ∨ q.stillConsumes w then
      { s with decisions := s.decisions.filter fun e => e.1 != waveCode q.core w.quad w.slot }.takeDecision q w act
    else if q.place = .resident ∧ s.frozen.contains (clusterOfCore q.core) then
      let code := waveCode q.core w.quad w.slot
      { s with decisions := (s.decisions.filter fun e => e.1 != code) ++ [(code, act)] }
    else s.ignore Mmio.frzdec

def runFrz (act : Nat) (who : W32) (sup : Bool) (s : State) : Out := supervised sup Mmio.frzdec s fun s => s.frzdec who act

def execFrzResume (who : W32) (sup : Bool) (s : State) : Out := runFrz Act.resume who sup s
def execFrzReplay (who : W32) (sup : Bool) (s : State) : Out := runFrz Act.replay who sup s
def execFrzKill (who : W32) (sup : Bool) (s : State) : Out := runFrz Act.kill who sup s
def execFrzFalsestart (who : W32) (sup : Bool) (s : State) : Out := runFrz Act.falseStart who sup s
def execFrzPark (who : W32) (sup : Bool) (s : State) : Out := runFrz Act.park who sup s

/-- Cluster 12 d + c that a code names. -/
def codeCluster (who : W32) : Nat := who.toNat / 2 ^ 30 * 12 + who.toNat / 2 ^ 26 % 16

/-- RELEASE: every recorded decision of the cluster, and RESUME for a wave without one. They take effect together: those that let a wave go
on come before those that end or move its whole squad, so that none of them is lost (DEDUCED, unsafe, log 58). -/
def State.release (s : State) (cl : Nat) : State :=
  let waves := (s.everySquad.filter fun q => q.place == .resident && clusterOfCore q.core == cl).flatMap fun q =>
    q.waves.map fun w => (q.sid, w.widx, waveCode q.core w.quad w.slot)
  let acts := waves.map fun e => (e.1, e.2.1, ((s.decisions.find? fun d => d.1 == e.2.2).map (·.2)).getD Act.resume)
  let s1 := { s with frozen := s.frozen.filter (· != cl), decisions := s.decisions.filter fun d => codeCluster d.1 != cl }
  let goes (a : Nat × Nat × Nat) : Bool := a.2.2 == Act.resume || a.2.2 == Act.replay
  (acts.filter goes ++ acts.filter fun a => !goes a).foldl (fun s a =>
    match s.squad? a.1 with
    | some q =>
      match q.wave? a.2.1 with
      | some w => if q.place = .resident ∧ !w.frozenAlone then s.takeDecision q w a.2.2 else s
      | none => s
    | none => s) s1

/-- FRZ_RELEASE; a freeze whose records are not all written goes on (R370). -/
def execFrzRelease (who : W32) (sup : Bool) (s : State) : Out :=
  let cl := codeCluster who
  supervised sup Mmio.frzdec s fun s =>
    let owed := s.records.any fun c => ((s.squad? c.who.sid).map fun q => clusterOfCore q.core == cl).getD false
    if !s.frozen.contains cl ∨ owed then s.ignore Mmio.frzdec else s.release cl

/-! ### Decisions for a fault domain (R152) (DESIGN CHOICE, unsafe, log 1) -/

/-- A squad of a parked domain goes on, unless a wave of it waits for a decision of its own. -/
def Squad.unpark (q : Squad) : Squad :=
  if q.place == .parked && q.waves.all (fun w => w.bkpt.isNone && w.frags.all fun x => x.cons.isNone) then { q with place := .hbmArea } else q

/-- KILL and PARK reach every instance of every region of the domain; RESUME and REPLAY end its parking. -/
def State.decideDomain (s : State) (part fdom act : Nat) : State :=
  let mine (i : Instance) : Bool := i.part == part && i.region.fdom == fdom
  let others := s.sched.parked.filter fun e => e != (part, fdom)
  let parked (l : List (Nat × Nat)) : State := { s with sched := { s.sched with parked := l } }
  if act = Act.kill then (parked others).killWhere mine
  else if act = Act.park then
    (s.everySquad.filter fun q => mine q.inst && q.place != .parked).foldl (fun s q => s.parkSquad q (q.codes.headD 0)) (parked ((part, fdom) :: others))
  else if act = Act.resume ∨ act = Act.replay then (parked others).mapSquads fun q => if mine q.inst then q.unpark else q
  else s

/-! ### Proof kernels (R183, R376, R377) -/

/-- Some entry of the die's pool can be placed on the core. -/
def State.canPlaceOn (s : State) (c : Nat) : Bool :=
  (s.waitingEntries (dieOfCore c)).any fun e =>
    let i := e.inst
    let n := if i.nocap then 1 else i.waves
    let need := if i.nocap then 0 else i.need
    s.coreOpen i.part c && ((s.core c).reserved.map fun k => k == i.key).getD true && s.budgetRoom i (n * i.gran) need (some c) &&
      (s.freeRun c need).isSome && (List.range 4).any fun q0 => (s.fitWaves c q0 i.gran n).isSome

def execProofKernelDispatch (core : BitVec 8) (kernel : Nat) (s : State) : Out :=
  let c := core.toNat
  let x := s.core c
  if 192 ≤ c ∨ !(s.admin.kernels.any fun k => k.id == kernel) ∨ !(s.residents c).isEmpty ∨ x.halt ∨ x.proof.isSome ∨ s.canPlaceOn c ∨
      !s.mayStart (.proof (dieOfCore c)) then .next s
  else .next (s.updCore c fun x => { x with proof := some kernel, proofDue := x.proofDue.filter fun k => k != kernel })

/-- How the log of failures names a target, beside its core and the point (DESIGN CHOICE, unsafe, log 18). -/
def proofTargetCode : Config.ProofTarget → Nat
  | .rows _ => 0
  | .l1Way w => 1 + 16 * w
  | .l2Way i w => 2 + 16 * (w + 256 * i)
  | .core => 3

/-- The section that counts failures of proof kernels, by point and target: it has no id in R414, and neither HIST nor SVC reads it
(DESIGN CHOICE, unsafe, log 18). -/
def failureSection : Nat := 9

/-- What a failure of a kernel's target brings (R377). A refit that comes during a step is held, in place of what was held (DESIGN CHOICE,
unsafe, log 96). -/
def State.failTarget (s : State) (c : Nat) (t : Config.ProofTarget) : State :=
  let p := s.power.point
  let s1 := match t with
    | .rows rs =>
      let s1 := (rs.foldl (fun (s : State) (r : Nat × Nat) => s.clearRows c p (r.1 % 256) (~~~(BitVec.twoPow 64 r.2))) s).quarantineCheck c
      s1.requestStep p
    | .l1Way w => (s.updCore c fun x => { x with l1ways := Tab.putAll x.l1ways l1Full (((List.range 5).filter (p ≤ ·)).map fun q =>
        (q, Tab.getD x.l1ways l1Full q &&& ~~~(BitVec.twoPow 64 w))) }).disableWays s.wayPoint
    | .l2Way i w => (s.updDie (dieOfCore c) fun x => { x with l2ways := Tab.putAll x.l2ways l2Full (((List.range 5).filter (p ≤ ·)).map fun q =>
        (32 * q + i, Tab.getD x.l2ways l2Full (32 * q + i) &&& ~~~(BitVec.twoPow 64 w))) }).disableWays s.wayPoint
    | .core => s.updCore c fun x => { x with quarantine := List.range 5 }
  (s1.bump failureSection (c + 192 * p + 960 * (proofTargetCode t % 4))).note (.notice 377 (BitVec.ofNat 64 (c + 2 ^ 8 * p + 2 ^ 12 * proofTargetCode t)))

/-- PROOF_KERNEL_RESULT: the kernel has ended, and the hub hashes its output buffer; only a digest that differs is a failure. The kernel's own
instructions are no part of the model (DESIGN CHOICE, unsafe, log 116): `output` is what they leave. A kernel that is held ends in a later
lap (R190). -/
def execProofKernelResult (core : BitVec 8) (output : List W8) (s : State) : Out :=
  let c := core.toNat
  match (s.core c).proof with
  | none => .next s
  | some k =>
    let s1 := s.updCore c fun x => { x with proof := none }
    if !s.mayStart (.proof (dieOfCore c)) then .next s
    else if sha256 output = Config.proofDigest k s.power.point then .next s1 else .next (s1.failTarget c (Config.proofTarget k))

/-- A consumption inside a proof kernel freezes nothing: the kernel ends, as a failure of its target (R376). -/
def State.proofConsumption (s : State) (c : Nat) : State :=
  match (s.core c).proof with
  | none => s
  | some k => (s.updCore c fun x => { x with proof := none }).failTarget c (Config.proofTarget k)

/-! ### Accumulators (R375) -/

/-- An uncorrectable element of an accumulator is poisoned. -/
def State.tileError (s : State) (c tile row col : Nat) : State :=
  if 192 ≤ c then s else s.updCore c fun x => { x with tilePoison := addNats x.tilePoison [tileKey tile row col] }

end Sys2Proof.Machine
end

