-- ==== Sys2Proof/Machine/EvMem.lean ====
section
/-! DEFINITION. Events of memory and of the host port: sector reads and scrubbing (R79 to R84), evictions (R66), the OWQ's
drain (R89, R90), BAR2 and CXL (R119, R379, R382), NVMe descriptors (R383). -/

namespace Sys2Proof.Machine

/-! ### Sectors (R78 to R85) -/

/-- The number of a stack: HBM stacks, then SCM stacks. -/
def MemStack.index : MemStack → Nat
  | .hbm n => n
  | .scm n => 8 + n

/-- The bin of a correction: a scratchpad bank or, beyond those, a stack, at the operating point (R41, R84, R414; DESIGN CHOICE,
unsafe, log 78). -/
def State.correctionBin (s : State) (bank : Nat) : Nat := 5 * bank + s.power.point

/-- A correction in a stack is counted, and reported once the count passes the threshold (R83, R84). -/
def State.countCorrected (s : State) (pa path : Nat) : State :=
  let k := (stackOf pa).index
  let n := Tab.getD s.admin.corrected (fun _ => 0) k + 1
  let s1 := s.bump 3 (s.correctionBin (256 + k))
  let s2 := { s1 with admin := { s1.admin with corrected := Tab.put s1.admin.corrected (fun _ => 0) k n } }
  if n = Config.corrThreshold k + 1 then s2.memoryRecord MemCause.corr pa (s2.secKey.getD (fun _ => 0) (sectorOf pa) % 4096) path else s2

/-- An uncorrectable error of sectors: they are poisoned, at the stack too, and recorded (R80, R81, R83). -/
def State.mediaError (s : State) (secs : List Nat) (pa path : Nat) : State :=
  let s1 := (s.poison secs).memoryRecord MemCause.media pa (s.secKey.getD (fun _ => 0) (sectorOf pa) % 4096) path
  { s1 with mediaBad := addNats s1.mediaBad secs }

/-- What the ECC makes of a sector (R78, R80). -/
inductive EccResult where
  | clean | corrected | uncorrectable
deriving DecidableEq, Repr, Inhabited

/-- The code corrects an error of one symbol and detects one of two; of more, which it reports is open (R78; DESIGN CHOICE, safe, log 6). -/
def State.ecc (s : State) (symbols : Nat) : EccResult × State :=
  match symbols with
  | 0 => (.clean, s)
  | 1 => (.corrected, s)
  | 2 => (.uncorrectable, s)
  | _ => (if Config.freeBit s.free then .uncorrectable else if Config.freeBit (s.free + 1) then .corrected else .clean, { s with free := s.free + 2 })

/-- The bytes of a sector whose error the code has missed are open (R78; DESIGN CHOICE, safe, log 6). -/
def State.scramble (s : State) (sec : Nat) : State :=
  let bs := (List.range 8).flatMap fun k => bytes64 (Config.freeValue (s.free + k))
  { (s.store (64 * sec) bs) with mem := Tab.putAll s.mem (fun _ => 0) (bs.zipIdx.map fun e => (64 * sec + e.2, e.1)), free := s.free + 8 }

/-- A number that no key material has: a sector whose stored tag does not match. -/
def brokenKey : Nat := 2 ^ 64

/-- MEMCTL_SECTOR_READ: ECC, then the tag (R80). A line that is dirty in the L2 is not read. -/
def execMemctlSectorRead (pa : W64) (read : SectorRead) (tag : TagResult) (stateBad : Bool) (s : State) : Out :=
  let a := pa.toNat
  let line := lineOf a
  let cls := read.path.toNat
  match homeDie a with
  | none => .next s
  | some _ =>
    let k := s.secKey.getD (fun _ => 0) (sectorOf a) % 4096
    if (s.l2Line line).dirty then .next s
    else if stateBad ∧ !isScm a then .next (s.mediaError ((List.range 4).map (a / 256 * 4 + ·)) a cls)
    else
      let r := s.ecc read.symbols
      let s := r.2
      match r.1 with
      | .uncorrectable => .next (s.mediaError [2 * line, 2 * line + 1] a cls)
      | e =>
        let s1 := if e = .corrected then s.countCorrected a cls else s
        let s2 := if 3 ≤ read.symbols then s1.scramble (sectorOf a) else s1
        if !(s.key k).integ ∨ s.zeroBlock a then .next s2
        else match tag with
          | .agrees => .next s2
          | .unevaluable => .next (s2.mediaError [sectorOf a] a cls)
          | .mismatch =>
            let s3 := s2.keyFails k a cls
            .next { s3 with secKey := Tab.put s3.secKey (fun _ => 0) (sectorOf a) (brokenKey + k) }

/-- SCRUB_LINE: of SCM within the drain budget (R84). What it records names path core, and an uncorrectable error that it meets is a media
error of the line: both sectors are poisoned and MEDIA recorded, and where the L2 holds the line dirty only the media are (DESIGN CHOICE,
unsafe, log 103). -/
def execScrubLine (pa : W64) (symbols : Nat) (s : State) : Out :=
  let a := pa.toNat
  let line := lineOf a
  let secs := [2 * line, 2 * line + 1]
  match homeDie a with
  | none => .next s
  | some d =>
    if isScm a ∧ !s.mayStart (.owqDrain d) then .next s
    else
      let s0 := if isScm a then s.spend (.owqDrain d) 128 else s
      let r := s0.ecc symbols
      let s1 := r.2
      match r.1 with
      | .clean => .next s1
      | .corrected => .next (s1.countCorrected a PathCode.core)
      | .uncorrectable =>
        if (s.l2Line line).dirty then
          .next { (s1.memoryRecord MemCause.media a (s.secKey.getD (fun _ => 0) (sectorOf a) % 4096) PathCode.core) with mediaBad := addNats s1.mediaBad secs }
        else .next (s1.mediaError secs a PathCode.core)

/-! ### Scratchpad words (R41) -/

/-- An error in an 8-byte word of a core's physical rows: one bit is corrected and counted, two bits poison the word (R41). A MOVE that
meets such a word while it reads copies it poisoned (R54, R60, R61) (DEDUCED, unsafe, log 90). -/
def State.scratchError (s : State) (c word : Nat) (double : Bool) : State :=
  if 192 ≤ c ∨ 256 * 544 ≤ word then s
  else if double then s.updCore c fun x => { x with poison := addNats x.poison [word] }
  else s.bump 3 (s.correctionBin (word / 544))

/-! ### The L2 and the OWQ (R66, R88 to R90, R98) -/

/-- L2_EVICTION: a line leaves the L2; a dirty one of a P page waits while its OWQ is full (R89). -/
def execL2Eviction (pa : W64) (s : State) : Out :=
  let line := lineOf pa.toNat
  .next (if (s.l2Line line).held then s.evictOut line else s)

/-- OWQ_DRAIN_ENTRY, within the lap's budget except in the hold-up (R190). -/
def execOwqDrainEntry (die : BitVec 2) (mediaError : Bool) (s : State) : Out :=
  let d := die.toNat
  if (s.die d).owq.isEmpty then .next s
  else if !s.admin.holdup ∧ !s.mayStart (.owqDrain d) then .next (s.updDie d fun x => { x with owqHeld := true })
  else .next ((if s.admin.holdup then s else s.spend (.owqDrain d) 128).drainOldest d mediaError)

/-! ### The host port (R119, R379, R382) -/

/-- CXL_SNOOP: a host line leaves the RDCs, and the L1s above them. -/
def execCxlSnoop (pa : W64) (s : State) : Out :=
  let line := lineOf pa.toNat
  let s1 := s.dies.foldl (fun s e => if e.2.rdc.any fun c => c.line == line then
    s.updDie e.1 fun x => { x with rdc := x.rdc.filter fun c => c.line != line } else s) s
  let s2 := s1.cores.foldl (fun s e => if e.2.l1.any fun c => c.line == line then
    s.updCore e.1 fun x => { x with l1 := x.l1.filter fun c => c.line != line } else s) s1
  .next (match backing s.pkg pa.toNat with
    | .host => s2
    | _ => s)

/-- Every byte lies in backed HBM that the partition owns. -/
def State.bar2Serves (s : State) (p off n : Nat) : Bool :=
  (List.range n).all fun i => (match backing s.pkg (off + i) with
    | .hbm _ => true
    | _ => false) && (s.owned p).any fun r => within r.1 r.2 (off + i) 1

/-- A requester of an enabled descriptor of the partition runs on path nvme (R383). -/
def State.isDrive (s : State) (p req : Nat) : Bool :=
  (List.range 1024).any fun q => let d := s.qpDesc q; d.en && d.part == p && d.requester == req

def State.answerHost (s : State) (r : HostOut) : State := { s with hostOut := s.hostOut ++ [r] }

def bar2Log (rule p off : Nat) : LogEntry := .notice rule (BitVec.ofNat 64 (2 ^ 40 * p + off))

/-- A read of BAR2 by the host or by a drive (DEDUCED, unsafe, log 65). -/
def execHostBar2Read (part : BitVec 4) (off : BitVec 39) (n : Nat) (req : BitVec 16) (s : State) : Out :=
  let p := part.toNat
  let a := off.toNat
  let host := !s.isDrive p req.toNat
  if !s.vfBound p then .next (s.answerHost (.completion (List.replicate n 0xFF)))
  else if !s.bar2Serves p a n then .next ((s.answerHost .unsupported).note (bar2Log 382 p a))
  else if host ∧ !s.mayStart .hostDma then .next s
  else
    let k := s.bar2Key p
    let u := s.bar2Under p
    -- a line held under another key is written back first (R77)
    let s1 := (if host then s.spend .hostDma n else s).touch k u.cp u.c u.p (linesAt a n)
    let cls := if host then PathCode.host else PathCode.nvme
    if (List.range n).any fun i => s.isBad (a + i) then .next ((s1.answerHost .aborted).memoryRecord MemCause.media a k cls)
    else if (List.range n).any fun i => s.violates k (a + i) then .next ((s1.keyFails k a cls).answerHost .aborted)
    else .next (s1.answerHost (.completion ((List.range n).map fun i => s.readHome k (a + i))))

def execHostBar2Write (part : BitVec 4) (off : BitVec 39) (bytes : List W8) (req : BitVec 16) (s : State) : Out :=
  let p := part.toNat
  let a := off.toNat
  let n := bytes.length
  let host := !s.isDrive p req.toNat
  if !s.vfBound p then .next s
  else if !s.bar2Serves p a n then .next (s.note (bar2Log 382 p a))
  else if host ∧ !s.mayStart .hostDma then .next s
  else
    let s1 := if host then s.spend .hostDma n else s
    let k := s.bar2Key p
    let whole := coveredSectors ((List.range n).map (a + ·))
    if (List.range n).any fun i => s.violates k (a + i) && !whole.contains (sectorOf (a + i)) then
      .next (s1.keyFails k a (if host then PathCode.host else PathCode.nvme))
    else .next (s1.writeAt (s.bar2Under p) a bytes)

/-- Mladeno configures the window of CXL.mem: whole GiB of backed HBM; anything else leaves it as it is (R379) (DEDUCED, unsafe, log 63). -/
def State.putCxlWindow (s : State) (base size : Nat) : State :=
  let b := 2 ^ 30 * base
  let n := 2 ^ 30 * size
  let hbm (x : Nat) : Bool := match backing s.pkg x with
    | .hbm _ => true
    | _ => false
  if size = 0 ∨ (hbm b && hbm (b + n - 1) && homeDie b == homeDie (b + n - 1)) then { s with admin := { s.admin with cxlWindow := (b, n) } } else s

/-- HOST_CXL_MEM_ACCESS: within the window, coherent; the host then holds the lines (R119). Outside it nothing is served (DEDUCED, unsafe,
log 63). -/
def execHostCxlMemAccess (pa : W64) (write : Option (List W8)) (n : Nat) (s : State) : Out :=
  let a := pa.toNat
  let len := (write.map (·.length)).getD n
  let w := s.admin.cxlWindow
  if !s.cxl ∨ len = 0 then .next s
  else if !within w.1 w.2 a len then .next (if write.isSome then s else s.answerHost .unsupported)
  else
    let lines := linesAt a len
    let hold (s : State) : State := { s with hostLines := addNats s.hostLines lines }
    match write with
    | some bs => .next (hold ({ s with hostLines := dropNats s.hostLines lines }.writeAt Under.device a bs))
    | none =>
      let s1 := s.touch 0 0 false false lines
      if (List.range n).any fun i => s.isBad (a + i) then .next ((s1.answerHost .aborted).memoryRecord MemCause.media a 0 PathCode.host)
      else if (List.range n).any fun i => s.violates 0 (a + i) then .next (s1.answerHost .aborted)
      else .next (hold (s1.answerHost (.completion ((List.range n).map fun i => s.readHome 0 (a + i)))))

/-! ### NVMe descriptors (R383) -/

def nvmeMask (off : Nat) : W64 :=
  match off with
  | 0 => 0xFFFF031F
  | 0x08 | 0x10 => 0x000FFFFFFFFFF000
  | 0x18 => 0x0FFF0FFF
  | 0x30 => 0xFFFFFF7FFFFFF000
  | 0x38 => 0x0000007FFFFFF000
  | _ => BitVec.allOnes 64

def State.writeQp (s : State) (q off : Nat) (v : W64) : State :=
  let pa := Mmio.nvme q + off
  let old := s.reg (Mmio.nvme q)
  let start (s : State) : State := if v.getLsbD 4 ∧ !old.getLsbD 4 then s.setQp q Qp.reset else s
  if off % 8 ≠ 0 ∨ !clearOf v (nvmeMask off) ∨ (off = 0x18 ∧ (bits v 11 0 = 0 ∨ bits v 27 16 = 0)) then s.ignore pa
  else if old.getLsbD 4 then (if off = 0 then s.setReg pa (setBits old 4 4 (bits v 4 4)) else s.ignore pa)
  else if off = 0 then start (s.setReg pa v)
  else s.setReg pa v

def execNvmeQueuePairWrite (qp : BitVec 10) (off : BitVec 6) (v : W64) (sup : Bool) (s : State) : Out :=
  supervised sup (Mmio.nvme qp.toNat + off.toNat) s fun s => s.writeQp qp.toNat off.toNat v

end Sys2Proof.Machine
end

