-- ==== Sys2Proof/Machine/EvSnap.lean ====
section
/-! DEFINITION. Events of snapshots and erasure stripes (R135, R139 to R144). -/

namespace Sys2Proof.Machine

/-! ### Descriptors (R137) -/

structure SnapDesc where
  valid : Bool
  code : Nat
  k : Nat
  unitLog : Nat
  member : Nat
  part : Nat
  group : Nat
deriving DecidableEq, Repr, Inhabited

def State.snapDesc (s : State) (q : Nat) : SnapDesc :=
  let c := s.snapCtl q
  { valid := c.getLsbD 0, code := bits c 5 4, k := bits c 11 8, unitLog := bits c 15 12, member := bits c 39 36, part := bits c 51 48,
    group := bits c 63 52 }

def SnapDesc.m (d : SnapDesc) : Nat := d.code
def SnapDesc.n (d : SnapDesc) : Nat := d.k + d.m
def SnapDesc.unit (d : SnapDesc) : Nat := 2 ^ d.unitLog

/-- Fields of CTL in range; with CODE 0, for which no n is stated, MEMBER may be any and K up to 15 (R137) (DESIGN CHOICE, unsafe, log 120). -/
def SnapDesc.ok (d : SnapDesc) : Bool :=
  decide (d.code ≤ 2) && decide (5 ≤ d.unitLog) && decide (d.unitLog ≤ 12) && decide (1 ≤ d.k) && decide (d.k ≤ (if d.code = 2 then 14 else 15)) &&
    (d.code == 0 || decide (d.member < d.n))

/-- The step of a set's holder, read from its control block. -/
def State.holderStep (s : State) (q : Nat) : W16 :=
  let va := (s.reg (Mmio.snapSet q + 8)).toNat + 0x28
  match s.deviceVa (s.snapDesc q).part va with
  | some e => (word64 ((List.range 8).map fun i => s.readHome e.key (e.pa va + i))).setWidth 16
  | none => 0

/-! ### The walk (R139) -/

/-- The holder has passed step N, and no command that carries N or an earlier tag is in flight. -/
def State.walkMay (s : State) (q : Nat) : Bool :=
  let n := (s.snap q).cstep
  let st := s.holderStep q
  st != n && tagLe n st && !s.cmds.any fun c => c.part == (s.snapDesc q).part && tagLe c.tag n

/-- Captures one line, and rewrites a media tag that lags by 16,384 or more (R135). -/
def State.walkLine (s : State) (q d j : Nat) : State :=
  let c := s.snap q
  let line := lineOf (s.rbase q d) + j
  let lag := (c.cstep - s.tagOf line).toNat
  let s1 := s.capture q d j
  if 16384 ≤ lag then { s1 with tags := s1.tags.put0 line c.cstep, mediaTags := s1.mediaTags.put0 line c.cstep } else s1

/-- Lines of a 4 KiB unit that are not captured. -/
def State.unitOpen (s : State) (q d u : Nat) : List Nat :=
  let par := (s.snap q).cseq % 2 == 1
  ((List.range 32).map (32 * u + ·)).filter fun j => decide (128 * j < s.rsize q d) && s.sheetBit q d j != par

/-- Walks unit by unit, as far as the budget and the OWQ allow; where the OWQ has no room for the first unit, the walk waits as every
source does (R89). -/
def State.walkUnits (s : State) (q d : Nat) (first : Bool) : List Nat → State
  | [] => s
  | u :: r =>
    let js := s.unitOpen q d u
    if js.isEmpty then s.walkUnits q d first r
    else if !s.mayStart (.snapWalk d) ∨ (!first ∧ owqCap < (s.die d).owq.length + js.length) then s
    else ((js.foldl (fun s j => s.walkLine q d j) s).spend (.snapWalk d) (128 * js.length)).walkUnits q d false r

def State.walkDone (s : State) (q d : Nat) : Bool :=
  (List.range ((s.rsize q d + 4095) / 4096)).all fun u => (s.unitOpen q d u).isEmpty

/-- CAPTURE_WALK_START: the walk goes on from where it was held. What the package's combining buffers hold is performed first (R139, R310). -/
def execCaptureWalkStart (die : BitVec 2) (set : BitVec 6) (s : State) : Out :=
  let q := set.toNat
  let d := die.toNat
  if (s.snap q).state ≠ 1 ∨ (s.snap q).walked.contains d ∨ !s.walkMay q then .next s
  else
    let s1 := s.flushAll.walkUnits q d true (List.range ((s.rsize q d + 4095) / 4096))
    .next (if s1.walkDone q d then s1.setSnap q { s1.snap q with walked := (s1.snap q).walked ++ [d] } else s1)

/-- COPY_ON_WRITE: the lines' sets that a write tagged after N is about to change (R140). -/
def execCopyOnWrite (pa : W64) (s : State) : Out :=
  let line := lineOf pa.toNat
  .next (s.snaps.foldl (fun s e => if e.2.state = 1 ∧ s.walkMay e.1 then
    ((s.cowSets line (e.2.cstep + 1)).filter fun x => x.1 == e.1).foldl (fun s x => s.capture x.1 x.2.1 x.2.2) s else s) s)

/-! ### States of a capture (R141, R142) -/

def State.setCapture (s : State) (q : Nat) (f : SnapSet → SnapSet) : State := (s.setSnap q (f (s.snap q))).recordCapture q

namespace SpoilCause
def power : Nat := 1
def member : Nat := 2
def abort : Nat := 3
def parity : Nat := 4
end SpoilCause

/-- A capture that cannot be finished. Its records stay as they are (R142). -/
def State.spoil (s : State) (q cause : Nat) : State :=
  if (s.snap q).state = 1 ∨ (s.snap q).state = 2 then s.setSnap q { s.snap q with state := 4, cause := BitVec.ofNat 8 cause } else s

/-- A parity transfer has failed: a capture that is EXPOSING is SPOILED by it as it becomes DEVELOPED (R141) (DEDUCED, unsafe, log 98). -/
def State.parityFails (s : State) (q : Nat) : State :=
  if (s.snap q).state = 1 then s.setSnap q { s.snap q with parityFailed := true }
  else if (s.snap q).state = 2 then s.spoil q SpoilCause.parity
  else s

/-- CAPTURE_DEVELOPED. -/
def execCaptureDeveloped (set : BitVec 6) (s : State) : Out :=
  let q := set.toNat
  let c := s.snap q
  if c.state ≠ 1 ∨ !(List.range 4).all fun d => c.walked.contains d then .next s
  else
    let s1 := s.setCapture q fun c => { c with state := 2, lstep := c.cstep, walkedOnce := true }
    .next (if c.parityFailed then s1.spoil q SpoilCause.parity else s1)

def execCaptureAbort (set : BitVec 6) (sup : Bool) (s : State) : Out :=
  supervised sup (Mmio.snapSet set.toNat) s fun s => s.spoil set.toNat SpoilCause.abort

/-! ### Stripes (R143, R144) -/

/-- The image's length, its units rounded up to a multiple of K. -/
def State.imageLen (s : State) (q : Nat) : Nat := ((List.range 4).map fun d => s.rsize q d).sum
def State.dataUnits (s : State) (q : Nat) : Nat :=
  let x := s.snapDesc q
  let d := (s.imageLen q + x.unit - 1) / x.unit
  if x.k = 0 then 0 else (d + x.k - 1) / x.k * x.k

/-- Where byte i of the image of capture c lies. -/
def State.imagePa (s : State) (q c i : Nat) : Option Nat :=
  ((List.range 4).foldl (fun (a : Option Nat × Nat) d =>
    if a.1.isNone ∧ i < a.2 + s.rsize q d then (some (s.logbase q d + c % 2 * s.rsize q d + (i - a.2)), a.2)
    else (a.1, if a.1.isNone then a.2 + s.rsize q d else a.2)) (none, 0)).1

/-- The line of the live range that byte i of the image copies, by die and index. -/
def State.imageLine (s : State) (q i : Nat) : Option (Nat × Nat) :=
  ((List.range 4).foldl (fun (a : Option (Nat × Nat) × Nat) d =>
    if a.1.isNone ∧ i < a.2 + s.rsize q d then (some (d, (i - a.2) / 128), a.2)
    else (a.1, if a.1.isNone then a.2 + s.rsize q d else a.2)) (none, 0)).1

def SnapDesc.skip (d : SnapDesc) (j : Nat) : List Nat :=
  [(d.n - 1 - j) % d.n] ++ if d.code = 2 then [(2 * d.n - 2 - j) % d.n] else []

/-- The stripe of member j's data unit u. -/
def SnapDesc.stripe (d : SnapDesc) (j u : Nat) : Nat :=
  u / d.k * d.n + ((List.range d.n).filter fun x => !(d.skip j).contains x).getD (u % d.k) 0

/-- Members that hold P and Q of a stripe. -/
def SnapDesc.pHolder (d : SnapDesc) (st : Nat) : Nat := (d.n - 1 + d.n * st - st) % d.n
def SnapDesc.qHolder (d : SnapDesc) (st : Nat) : Nat := (2 * d.n - 2 + d.n * st - st) % d.n

/-- Data position of member j in a stripe. -/
def SnapDesc.position (d : SnapDesc) (st j : Nat) : Nat :=
  ((List.range j).filter fun x => x != d.pHolder st && !(d.code == 2 && x == d.qHolder st)).length

/-- Number of member j's parity unit for a stripe: units in ascending stripe order, P before Q. -/
def SnapDesc.parityUnit (d : SnapDesc) (j st : Nat) (isQ : Bool) : Nat :=
  ((List.range st).map fun t => (if d.pHolder t = j then 1 else 0) + (if d.code = 2 ∧ d.qHolder t = j then 1 else 0)).sum +
    if isQ ∧ d.pHolder st = j then 1 else 0

/-- Where parity unit t lies in a parity slot: die and address. -/
def State.parityPa (s : State) (q slot t : Nat) : Nat × Nat :=
  let x := s.snapDesc q
  let psize := (s.dataUnits q * x.m + 4 * x.k - 1) / (4 * x.k) * x.unit
  (t % 4, s.parbase q (t % 4) + slot * psize + t / 4 * x.unit)

/-- Multiplication by 2 in GF(2^8) with polynomial 0x11D, and by 2^i. -/
def gfDouble (b : W8) : W8 := (b <<< 1) ^^^ (if b.getLsbD 7 then 0x1D else 0)
def gfScale (i : Nat) (b : W8) : W8 := i.repeat gfDouble b

/-- Bytes of a data unit; padding reads as zero. -/
def State.unitBytes (s : State) (q c u : Nat) : List W8 :=
  let n := (s.snapDesc q).unit
  (List.range n).map fun i => ((s.imagePa q c (n * u + i)).map s.byteAt).getD 0

/-- Every line of a data unit has been captured. -/
def State.unitReady (s : State) (q u : Nat) : Bool :=
  let n := (s.snapDesc q).unit
  let par := (s.snap q).cseq % 2 == 1
  (List.range n).all fun i => match s.imageLine q (n * u + i) with
    | some (d, j) => s.sheetBit q d j == par
    | none => true

/-- The sets of a stripe group, in order of their numbers. -/
def State.setsOfGroup (s : State) (g : Nat) : List Nat :=
  (List.range 64).filter fun q => let x := s.snapDesc q; x.valid && x.code != 0 && x.group == g

/-- The packet of a unit: group, member, unit, and which of the group's sets it is, in ADDR (DESIGN CHOICE, unsafe, log 12). -/
def parityAddr (group member u k : Nat) : W64 := BitVec.ofNat 64 (group + 2 ^ 12 * member + 2 ^ 16 * u + 2 ^ 48 * k)

/-- The set that a parity packet names. -/
def State.paritySet (s : State) (a : W64) : Option Nat := (s.setsOfGroup (bits a 11 0))[bits a 53 48]?

/-- The collectives of the region that holds a set's step, as its control blocks stand (R144, R190). -/
def State.parityCharge (s : State) (q : Nat) : Spend :=
  let p := (s.snapDesc q).part
  let holder := s.reg (Mmio.snapSet q + 8)
  match s.rcbChain p holder 8 with
  | some c => (regionOf c).coll p
  | none => .coll p holder 0xFFFFFFFF

/-- Stage 6 of a recovery recomputes this set's parity (R145). -/
def State.restriping (s : State) (q : Nat) : Bool := (s.recovery.map (·.stage == 6)).getD false && (s.snap q).state == 5

/-- PARITY_UNIT_SEND. -/
def execParityUnitSend (set : BitVec 6) (unit : Nat) (s : State) : Out :=
  let q := set.toNat
  let x := s.snapDesc q
  let c := s.snap q
  let act := s.parityCharge q
  let re := s.restriping q
  if x.code = 0 ∨ s.dataUnits q ≤ unit ∨ c.sent.contains unit ∨
      (!re ∧ ((c.state ≠ 1 ∧ c.state ≠ 2) ∨ !s.unitReady q unit ∨ !s.mayStart act)) then .next s
  else
    let st := x.stripe x.member unit
    let holders := [x.pHolder st] ++ if x.code = 2 then [x.qHolder st] else []
    let pkgs := holders.map fun h => (s.memberEntry ((s.group x.group).pool + h)).1
    let dom := (s.group x.group).domain
    if pkgs.any fun p => !s.windowOpen p dom 0 then .next s
    else
      let bs := s.unitBytes q (if re then c.fslot else c.cseq) unit
      let k := ((s.setsOfGroup x.group).idxOf? q).getD 0
      let s1 := pkgs.foldl (fun s p => s.sendData .coll (Packet.make p dom 0 3 false true (parityAddr x.group x.member unit k) 0 c.cseq bs)) s
      let s2 := if re then s1 else s1.spend act (x.unit * pkgs.length)
      .next (s2.setSnap q { c with sent := addNats c.sent [unit] })

/-- The parity slot that a capture's parity goes to: slot c mod 2, in stage 6 of a recovery the one that the FIXED capture
does not use (R143, R145). -/
def State.paritySlot (s : State) (q cseq : Nat) : Nat := if s.restriping q then 1 - (s.snap q).fpar else cseq % 2

/-- A unit arrives at a holder of its stripe's parity: it is added, and the complete parity unit is written (R144). Poison is neither added
nor cleared (DESIGN CHOICE, unsafe, log 121). -/
def State.addParity (s : State) (q cseq member u : Nat) (bs : List W8) : State :=
  let x := s.snapDesc q
  let st := x.stripe member u
  let pos := x.position st member
  let one (isQ : Bool) (s : State) : State :=
    let t := x.parityUnit x.member st isQ
    let zero : ParityAcc := { set := q, cseq, unit := t, bytes := List.replicate x.unit 0, got := [], written := false }
    let a := (s.fab.parity.find? fun a => a.set == q && a.cseq == cseq && a.unit == t).getD zero
    if a.got.contains member then s
    else
      let add := if isQ then bs.map (gfScale pos) else bs
      let sum := a.bytes.zipIdx.map fun e => e.1 ^^^ add.getD e.2 0
      let done := decide (x.k ≤ a.got.length + 1)
      let a' : ParityAcc := { a with bytes := sum, got := a.got ++ [member], written := done }
      let s1 := { s with fab := { s.fab with parity := (s.fab.parity.filter fun b => !(b.set == q && b.cseq == cseq && b.unit == t)) ++ [a'] } }
      if !done then s1
      else
        let p := s1.parityPa q (s1.paritySlot q cseq) t
        let s2 := { s1 with mem := Tab.putAll s1.mem (fun _ => 0) (sum.zipIdx.map fun e => (p.2 + e.2, e.1)) }
        let pas := (List.range x.unit).map (p.2 + ·)
        (distinct (pas.map lineOf)).foldl (fun s l =>
          s.accept p.1 l (s.bytesAt (128 * l) 128) (lineMask (pas.map fun a => (a, (0 : W8))) l) (s.tagOf l) (s.lineBad l)) s2
  let s1 := if x.pHolder st = x.member then one false s else s
  if x.code = 2 ∧ x.qHolder st = x.member then one true s1 else s1

/-- Parity units that this package holds in a set's stripes (R143). -/
def State.ownParity (s : State) (q : Nat) : List Nat :=
  let x := s.snapDesc q
  if x.k = 0 then []
  else (List.range (s.dataUnits q * x.n / x.k)).flatMap fun st =>
    (if x.pHolder st = x.member then [x.parityUnit x.member st false] else []) ++
      if x.code = 2 ∧ x.qHolder st = x.member then [x.parityUnit x.member st true] else []

/-- Every unit of the set's capture has been sent, and every parity unit that this package holds is accepted (R141, R144). -/
def State.parityDone (s : State) (q : Nat) : Bool :=
  let c := s.snap q
  ((List.range (s.dataUnits q)).all fun u => c.sent.contains u) &&
    (s.ownParity q).all fun t => s.fab.parity.any fun a => a.set == q && a.cseq == c.cseq && a.unit == t && a.written

/-- CAPTURE_FIXED: the log has drained and, in a stripe, this package's units are sent and its parity is accepted; the event
stands for the other members' confirmations (DESIGN CHOICE, unsafe, log 68). -/
def execCaptureFixed (set : BitVec 6) (s : State) : Out :=
  let q := set.toNat
  let c := s.snap q
  let drained := c.awaits.all fun e => decide (e.2 ≤ (s.die e.1).owqDrained)
  let units := decide ((s.snapDesc q).code = 0) || s.parityDone q
  if c.state ≠ 2 ∨ !drained ∨ !units then .next s
  else .next (s.setCapture q fun c => { c with state := 3, fstep := c.cstep, fvalid := true, fslot := c.cseq % 2, fpar := c.cseq % 2 })

/-- A write to a set's descriptor (R137); one of a base or a size that is not 64 KiB aligned is ignored (DESIGN CHOICE, unsafe, log 93), as
is one of the read-only STATUS. -/
def State.writeSnapDesc (s : State) (q off : Nat) (v : W64) : State :=
  let pa := Mmio.snapSet q + off
  let busy := (s.snap q).state = 1 ∨ (s.snap q).state = 2
  let mask : W64 := if off = 0 then 0xFFFF00F00000FF31 else if off = 0x18 ∨ 0xC0 ≤ off then 0
    else if 0x20 ≤ off ∧ off < 0xA0 ∧ (off % 0x20 = 0) then 0xFFFFFFFFFFFF0000
    else if 0x20 ≤ off ∧ off < 0xA0 ∧ (off % 0x20 = 8) then 0xFFFFFFFFFFFF0000 else BitVec.allOnes 64
  let s1 := s.setReg pa v
  let areas (q : Nat) : List (Nat × Nat) :=
    let x := s1.snapDesc q
    let psize := if x.code = 0 ∨ x.k = 0 then 0 else (s1.dataUnits q * x.m + 4 * x.k - 1) / (4 * x.k) * x.unit
    (List.range 4).flatMap fun d =>
      (if s1.rsize q d = 0 then []
        else [(s1.rbase q d, s1.rsize q d), (s1.logbase q d, 2 * s1.rsize q d), (s1.sheet q d, s1.rsize q d / 1024)]) ++
        if psize = 0 then [] else [(s1.parbase q d, 2 * psize)]
  let clash := (s1.snapDesc q).valid && (List.range 64).any fun r => r != q && (s1.snapDesc r).valid && (areas q).any fun a => (areas r).any (overlaps a)
  if off % 8 ≠ 0 ∨ off = 0xC0 ∨ !clearOf v mask ∨ busy ∨
      (off = 0 ∧ !(s1.snapDesc q).ok) ∨ clash then s.ignore pa
  else s1

end Sys2Proof.Machine
end

