-- ==== Sys2Proof/Machine/EvFabric.lean ====
section
/-! DEFINITION. Events of the fabric: packets by type (R389 to R394), trims, re-requests and timeouts (R391, R392), time and
membership (R145, R397, R398). Packet contents beyond R389 are the model's (DESIGN CHOICE, unsafe, log 12). -/

namespace Sys2Proof.Machine

/-! ### Membership (R145, R398) -/

/-- Valid groups that hold a package. -/
def State.groupsOf (s : State) (pkg : Nat) : List Nat :=
  let regs := s.mmio.filterMap fun e => if Mmio.group 0 ≤ e.1 ∧ e.1 < Mmio.group 4096 ∧ e.1 % 16 = 0 then some ((e.1 - Mmio.group 0) / 16) else none
  regs.filter fun g => (s.group g).valid && (s.members g).any fun m => m.1 == pkg

/-- Packages UP that share a group with this one. -/
def State.peers (s : State) : List Nat :=
  distinct ((s.groupsOf s.pkg).flatMap fun g => ((s.members g).filter fun m => !m.2 && m.1 != s.pkg).map (·.1))

/-- A group of this package, or one of which it is the spare, holds the other. -/
def State.sharesGroup (s : State) (pkg : Nat) : Bool :=
  (s.groupsOf pkg).any fun g => (s.group g).spare == some s.pkg || (s.members g).any fun m => m.1 == s.pkg

/-- A FATAL header that names a package (DESIGN CHOICE, unsafe, log 12), to every package of every group that holds it (R398). -/
def State.spreadFatal (s : State) (pkg : Nat) : State :=
  let to_ := distinct ((s.groupsOf pkg).flatMap fun g => (s.members g).map fun (m : Nat × Bool) => m.1)
  (to_.filter fun m => m != s.pkg).foldl (fun s m =>
    s.sendHeader .fatal (Packet.make m 0 0 7 false true (BitVec.ofNat 64 pkg) 0 0 [])) s

/-- Sets of the stripe groups that hold a package. -/
def State.affectedSets (s : State) (pkgs : List Nat) : List Nat :=
  (List.range 64).filter fun q => let x := s.snapDesc q; x.valid && x.code != 0 && (s.members x.group).any fun m => pkgs.contains m.1

/-- The recovery of lost packages as its first stage ends. -/
def State.freshRecovery (s : State) (lost : List Nat) : Recovery :=
  { stage := 1, lost, affected := s.affectedSets lost, times := [s.gtb.toNat], rebuilt := [], poisoned := [], failed := false,
    unprotected := [], inProgress := [], ranks := [], before := [], holders := [], replaced := [], replacedBad := [] }

/-- What a recovery that restarts finds again: the registers as they were before stage 4, and the parity that rebuilt units have
replaced, which those units and the parity that is left restore (R147, R148) (DEDUCED, unsafe, log 99). -/
def State.rewind (s : State) (r : Recovery) : State :=
  let s1 := r.before.foldl (fun s e => s.setReg e.1 e.2) s
  let secs := distinct (r.replaced.map fun e => sectorOf e.1)
  { s1 with mem := Tab.putAll s1.mem (fun _ => 0) r.replaced, bad := addNats (dropNats s1.bad secs) r.replacedBad }

/-- Sets that are rebuilt: those of the groups that lost a rank. -/
def State.recoverySets (s : State) (r : Recovery) : List Nat :=
  (List.range 64).filter fun q => let x := s.snapDesc q; x.valid && x.code != 0 && r.ranks.any fun e => e.1 == x.group

/-- Every unit of the set has been sent, and every parity unit that this package accumulates is written. -/
def State.restriped (s : State) (q : Nat) : Bool := (s.snapDesc q).code == 0 || s.parityDone q

/-- A RECOVERING set as stage 6 leaves it: FIXED under its new CSEQ; one that goes on unprotected in the state before the fence, or SPOILED
by MEMBER where its capture was in progress (R141, R145). -/
def State.afterStripe (s : State) (r : Recovery) (q : Nat) : State :=
  if (s.snapDesc q).code ≠ 0 then s.setCapture q fun c => { c with state := 3, fpar := 1 - c.fpar }
  else if r.inProgress.contains q then s.setSnap q { s.snap q with state := 4, cause := BitVec.ofNat 8 SpoilCause.member }
  else s.setSnap q { s.snap q with state := ((r.was.find? fun e => e.1 == q).map (·.2)).getD 3 }

/-- The report of stage 8: lost members, the captures resumed from, poisoned units, unprotected sets and the times at which the stages
ended; LOST where the job could not be resumed. -/
def State.postReport (s : State) (r : Recovery) : State :=
  let say (kind v : Nat) (s : State) : State := s.note (.notice 145 (BitVec.ofNat 64 (kind * 2 ^ 56 + v)))
  let s1 := r.lost.foldl (fun s p => say 1 p s) s
  let s2 := (distinct (s.recoverySets r ++ r.unprotected)).foldl (fun s q => say 2 (q + 256 * (s.snap q).fstep.toNat) s) s1
  let s3 := r.poisoned.foldl (fun s e => say 3 (e.1 + 256 * e.2) s) s2
  let s4 := r.unprotected.foldl (fun s q => say 4 q s) s3
  let s5 := if r.failed then say 5 0 s4 else s4
  r.times.foldl (fun s t => say 6 t s) s5

/-- Stage 6 of a recovery has ended. -/
def State.stripesDone (s : State) (r : Recovery) : Bool :=
  decide (7 ≤ r.stage) || (r.stage == 6 && (List.range 64).all fun q => (s.snap q).state != 5 || s.restriped q)

/-- A set of an XOR group that has lost two members (R148). -/
def State.xorLost (s : State) (lost : List Nat) : Bool :=
  (s.affectedSets lost).any fun q => (s.snapDesc q).code == 1 &&
    decide (2 ≤ ((s.members (s.snapDesc q).group).filter fun m => lost.contains m.1).length)

/-- A member is detected as failed: stage 1 of its recovery (R145, R148). After stage 6 of an earlier one a new recovery begins, under the
new geometry, and the earlier one is reported. -/
def State.detect (s : State) (pkg : Nat) : State :=
  if pkg = s.pkg ∨ !s.sharesGroup pkg ∨ s.isDown pkg then s
  else match s.recovery with
    | none => { s with recovery := some (s.freshRecovery [pkg]) }
    | some r =>
      if r.lost.contains pkg then s
      else if s.stripesDone r then
        let s1 := if r.stage = 6 then ((List.range 64).filter fun q => (s.snap q).state == 5).foldl (fun s q => s.afterStripe r q) s else s
        let s2 := s1.postReport r
        { s2 with recovery := some (s2.freshRecovery [pkg]) }
      else
        -- a second loss before stage 6 ends stops the recovery of an XOR group, and restarts that of an RS group with both
        let s1 := s.rewind r
        let lost := r.lost ++ [pkg]
        { s1 with recovery := some { s1.freshRecovery lost with
            failed := r.failed || s1.xorLost lost, inProgress := r.inProgress, was := r.was, times := r.times ++ [s.gtb.toNat] } }

/-! ### Answers -/

/-- An ACK: its status, whether the operation is complete, and what it frees (DEDUCED, unsafe, log 50). -/
def State.ack (s : State) (p : Packet) (frees coll last : Bool) (status : Nat) : State :=
  let aux := status + (if frees then ackFrees else 0) + if coll then ackColl else 0
  s.sendHeader .ack { Packet.make p.src.toNat p.domain.toNat p.flow.toNat 7 p.ordered last 0 aux p.opid.toNat [] with psn := p.psn }

/-! ### Remote memory (R350, log 12) -/

/-- A page of this package as a peer's access finds it: the tables of the partition bound to the domain (DEDUCED, unsafe, log 69). -/
def State.remoteVa (s : State) (domain va : Nat) (a : Acc) : Option (State × TlbEntry) :=
  (s.partitionOf domain).bind fun p =>
    if 2 ^ 55 ≤ va then none
    else match s.walk [] p va with
      | .leaf at_ e level _ =>
        let t := tlbOf p va e level
        if a.permits t.x t.w t.r && s.pageKind t va == .memory then some (s.writeLeaf at_ e (leafAfter e a), t) else none
      | .fault _ => none

/-- The steps of the valid sets' holders: a peer's write carries the one that stands as its packet arrives (R134). -/
def State.holderSteps (s : State) : List (Nat × W16) :=
  ((List.range 64).filter fun q => (s.snapDesc q).valid).map fun q => (q, s.holderStep q)

/-- The tag of a peer's write to a line: the step of the holder whose set holds the line (DEDUCED, unsafe, log 70). -/
def State.fabTag (s : State) (steps : List (Nat × W16)) (line : Nat) : W16 :=
  match steps.find? fun (e : Nat × W16) => (List.range 4).any fun d =>
      decide (lineOf (s.rbase e.1 d) ≤ line) && decide (line < lineOf (s.rbase e.1 d) + s.rsize e.1 d / 128) with
  | some e => e.2
  | none => s.tagOf line

/-- The pages of a peer's access to `n` bytes, with each byte's address; none where an address is refused. -/
def State.remotePlaces (s : State) (domain va n : Nat) (a : Acc) : Option (State × List (Nat × TlbEntry)) :=
  (List.range n).foldl (fun r i => r.bind fun r => (r.1.remoteVa domain (va + i) a).map fun x => (x.1, r.2 ++ [(x.2.pa (va + i), x.2)])) (some (s, []))

/-- Keys whose integrity a peer's access to these bytes breaks (R79). -/
def State.remoteBreaks (s : State) (ps : List (Nat × TlbEntry)) : List (Nat × Nat) :=
  ps.foldl (fun a p => if p.2.key != 0 && s.violates p.2.key p.1 && a.all fun y => y.1 != p.2.key then a ++ [(p.2.key, p.1)] else a) []

/-- Indices of the payload's bytes that lie in its poisoned units (R322). -/
def Packet.badBytes (p : Packet) : List Nat := p.poison.flatMap fun u => (List.range 64).map fun i => 64 * u + i

/-- Writes bytes of a peer, of which those at the indices `bad` are poisoned: the status. A merge that breaks a key's integrity fails the
key (R82). -/
def State.remoteWrite (s : State) (steps : List (Nat × W16)) (domain va : Nat) (bs : List W8) (bad : List Nat) : State × Nat :=
  match s.remotePlaces domain va bs.length .write with
  | none => (s, Status.remote)
  | some (s1, ps) =>
    let whole := coveredSectors (ps.map (·.1))
    match s1.remoteBreaks (ps.filter fun p => !whole.contains (sectorOf p.1)) with
    | [] =>
      let under (p : Nat × TlbEntry) : Under := { key := p.2.key, cp := p.2.cp, c := p.2.c, p := p.2.p, tag := s1.fabTag steps (lineOf p.1), core := none }
      let hurt := distinct ((ps.zipIdx.filter fun e => bad.contains e.2).map fun e => sectorOf e.1.1)
      ((groupRuns ((ps.zip bs).map fun e => (under e.1, [(e.1.1, e.2)]))).foldl (fun s w => s.writeAll w.1 w.2 (hurt.filter fun x => w.2.any fun b => sectorOf b.1 == x)) s1, Status.ok)
    | ks => (s1.failKeys PathCode.fab ks, Status.poison)

/-- A peer's reads go through the L2 of their lines' homes (R66, R75, R77). -/
def State.peerTouch (s : State) (ps : List (Nat × TlbEntry)) : State :=
  (ps.foldl (fun (a : List (Nat × TlbEntry)) p => if a.any fun x => lineOf x.1 == lineOf p.1 then a else a ++ [p]) []).foldl (fun s p =>
    s.touch p.2.key p.2.cp p.2.c p.2.p [lineOf p.1]) s

/-- Reads bytes for a peer, with the indices of those that are poisoned. A violation fails the key (R82). -/
def State.remoteRead (s : State) (domain va n : Nat) : Option (State × List W8 × List Nat) :=
  (s.remotePlaces domain va n .read).map fun r =>
    let ks := r.1.remoteBreaks r.2
    let hurt (p : Nat × TlbEntry) : Bool := r.1.isBad p.1 || (p.2.key != 0 && r.1.violates p.2.key p.1)
    ((r.1.peerTouch r.2).failKeys PathCode.fab ks, r.2.map (fun p => r.1.readHome p.2.key p.1), (r.2.zipIdx.filter fun e => hurt e.1).map (·.2))

/-- The RMW of an ATOM (R351): the old value, or a status. -/
def State.remoteAtom (s : State) (steps : List (Nat × W16)) (p : Packet) : State × Nat × W64 :=
  let aux := p.aux.toNat
  let va := p.addr.toNat
  let k : Elem := if aux / 64 % 2 = 1 then .f32 else if aux / 32 % 2 = 1 then .i64 else .i32
  let n := k.bytes
  match s.remoteVa p.domain.toNat va .atomic with
  | none => (s, Status.remote, 0)
  | some (s1, e) =>
    let pa := e.pa va
    if va % n ≠ 0 then (s, Status.misalign, 0)
    else if s1.isBad pa then (s1, Status.poison, 0)
    else if e.key ≠ 0 ∧ s1.violates e.key pa then (s1.keyFails e.key pa PathCode.fab, Status.poison, 0)
    else
      let s2 := s1.dies.foldl (fun s d => s.flushRed d.1 fun l => l.line == lineOf pa) s1
      let old := leNat ((List.range n).map fun i => s2.readHome e.key (pa + i))
      let val := (leNat (p.payload.take 8)) % 2 ^ (8 * n)
      let cmp := (leNat ((p.payload.drop 8).take 8)) % 2 ^ (8 * n)
      let new := if aux / 128 % 2 = 1 then (if old = cmp then val else old)
        else match Aop.ofCode (aux % 16) with
          | some op => k.apply op (aux.testBit 4) old val
          | none => old
      let u : Under := { key := e.key, cp := e.cp, c := e.c, p := e.p, tag := s2.fabTag steps (lineOf pa), core := none }
      (s2.writeAt u pa (leBytes n new), Status.ok, BitVec.ofNat 64 old)

/-! ### Peers' accesses through their windows (R17, R118) (DESIGN CHOICE, unsafe, log 97) -/

/-- How they write here: as memory with CP 2. -/
def State.windowUnder (s : State) (steps : List (Nat × W16)) (pa : Nat) : Under :=
  { key := 0, cp := 2, c := false, p := false, tag := s.fabTag steps (lineOf pa), core := none }

/-- The bytes lie in this package's HBM. -/
def State.windowHere (s : State) (pa n : Nat) : Bool :=
  (List.range n).all fun i => match backing s.pkg (pa + i) with
    | .hbm _ => true
    | _ => false

/-- Performs a store; AUX 1 poisons the sectors that it writes. -/
def State.windowPut (s : State) (steps : List (Nat × W16)) (p : Packet) : State × Nat :=
  let pa := p.addr.toNat
  let n := p.payload.length
  if !s.windowHere pa n then (s, Status.remote)
  else
    let hurt := if p.aux = 0 then [] else distinct ((List.range n).map fun i => sectorOf (pa + i))
    ((groupRuns (p.payload.zipIdx.map fun e => (s.windowUnder steps (pa + e.2), [(pa + e.2, e.1)]))).foldl (fun s w => s.writeAll w.1 w.2 hurt) s, Status.ok)

/-- Reads bytes with the indices of those that are poisoned. -/
def State.windowGet (s : State) (pa n : Nat) : Option (State × List W8 × List Nat) :=
  if s.windowHere pa n then
    some (s.touch 0 2 false false (linesAt pa n), (List.range n).map fun i => s.readHome 0 (pa + i), (List.range n).filter fun i => s.isBad (pa + i))
  else none

/-- Bytes that a peer delivers for an operation, at an offset of it, of which those at the indices `bad` are poisoned. -/
def State.windowLand (s : State) (opid at_ : Nat) (bs : List W8) (bad : List Nat) : State :=
  match s.fab.window.find? fun w => w.opid == opid with
  | none => s
  | some w =>
    let pa := w.pa + at_
    let secs (l : List Nat) := distinct (l.map fun i => sectorOf (pa + i))
    { s with mem := Tab.putAll s.mem (fun _ => 0) (bs.zipIdx.map fun e => (pa + e.2, e.1)),
             bad := addNats (dropNats s.bad (secs (List.range bs.length))) (secs (bad.filter (· < bs.length))) }

/-- An answer about a window access: a read that the target has not refused ends with its last byte. -/
def State.windowAnswer (s : State) (opid status : Nat) : State :=
  match s.fab.window.find? fun w => w.opid == opid with
  | none => s
  | some w => if status = 0 ∧ !w.store then s else s.windowEnds opid (decide (status ≠ 0))

/-! ### A receiver's flow (R393) -/

/-- Distance from b to a, modulo 2^32. -/
def psnDiff (a b : Nat) : Nat := (a + 2 ^ 32 - b) % 2 ^ 32

def RxFlow.performed (t : RxFlow) (psn : Nat) : Bool := decide (2 ^ 31 ≤ psnDiff psn t.next) || t.done.contains psn

/-- A PSN that an ABORT has ended: those of its range count as performed (R399). -/
def RxFlow.inDead (t : RxFlow) (psn : Nat) : Bool := t.performed psn && t.dead.any fun r => decide (psnDiff psn r.1 < psnDiff r.2 r.1)

/-- The next expected PSN passes those performed. -/
def RxFlow.advance (t : RxFlow) : Nat → RxFlow
  | 0 => t
  | n + 1 => if t.done.contains t.next then { t with next := nextPsn t.next, done := t.done.filter (· != t.next) }.advance n else t

/-- Marks a PSN as performed. -/
def RxFlow.mark (t : RxFlow) (psn : Nat) : RxFlow :=
  { t with done := t.done ++ [psn], holes := t.holes.filter (· != psn) }.advance (t.done.length + 1)

/-- An operation's number beside the kind of packet that carries it. -/
def opKey (k : PacketKind) (p : Packet) : Nat :=
  p.opid.toNat + 2 ^ 32 * match k with
    | .getrsp | .atomrsp => 1
    | .coll => if p.cls = 3 then 4 else if p.ordered then 3 else 2
    | _ => 0

/-- Kinds whose operation may have several packets. -/
def manyPackets (k : PacketKind) (p : Packet) : Bool :=
  match k with
  | .put | .puta | .getrsp => true
  | .coll => p.cls == 2 && !p.ordered
  | _ => false

def RxFlow.op (t : RxFlow) (k : PacketKind) (p : Packet) : RxOp :=
  (t.ops.find? fun o => o.opid == opKey k p).getD { opid := opKey k p, first := none, last := none, got := [], status := 0, acked := false }

/-- The operation after one of its packets has been performed. -/
def RxOp.add (o : RxOp) (k : PacketKind) (p : Packet) (status : Nat) : RxOp :=
  let psn := p.psn.toNat
  let start := !manyPackets k p || (p.aux == 0 && !(k == .puta && p.last))
  { o with first := if o.first.isNone && start then some psn else o.first, last := if p.last then some psn else o.last,
           got := if o.got.contains psn then o.got else o.got ++ [psn], status := max o.status status }

/-- Every packet of the operation has been performed. -/
def RxOp.whole (o : RxOp) : Bool :=
  match o.first, o.last with
  | some a, some b => o.got.length == psnDiff b a + 1
  | _, _ => false

/-- Every packet of a PUTA before its word has been performed. -/
def RxFlow.payloadDone (t : RxFlow) (p : Packet) : Bool :=
  let o := t.op .puta p
  match o.first with
  | some a => o.got.length == psnDiff p.psn.toNat a
  | none => false

def State.updRx (s : State) (p : Packet) (f : RxFlow → RxFlow) : State := s.putRx (f (s.rxFlow p.src.toNat p.domain.toNat p.flow.toNat))
def State.rxOf (s : State) (p : Packet) : RxFlow := s.rxFlow p.src.toNat p.domain.toNat p.flow.toNat

/-! ### The pacer (R392) -/

def State.pacer (s : State) (src : Nat) : Pacer :=
  (s.fab.pacers.find? fun x => x.src == src).getD { src, waiting := [], out := [], count := 0, last := none }

def State.putPacer (s : State) (x : Pacer) : State := { s with fab := { s.fab with pacers := s.fab.pacers.filter (fun y => y.src != x.src) ++ [x] } }

def Hole.is (h : Hole) (p : Packet) : Bool := h.domain == p.domain.toNat && h.flow == p.flow.toNat && h.psn == p.psn.toNat

/-- A packet has arrived, whole or trimmed: its re-request is no longer outstanding. -/
def State.pacerArrived (s : State) (p : Packet) : State :=
  let x := s.pacer p.src.toNat
  if x.out.any (·.is p) ∨ x.waiting.any (·.is p) then
    s.putPacer { x with out := x.out.filter fun h => !h.is p, waiting := x.waiting.filter fun h => !h.is p }
  else s

/-- A trimmed header records a hole. -/
def State.recordHole (s : State) (p : Packet) : State :=
  let s1 := s.pacerArrived p
  let x := s1.pacer p.src.toNat
  let h : Hole := { domain := p.domain.toNat, flow := p.flow.toNat, psn := p.psn.toNat, trims := p.trims.toNat }
  (s1.updRx p fun t => { t with holes := if t.holes.contains p.psn.toNat then t.holes else t.holes ++ [p.psn.toNat] }).putPacer
    { x with waiting := x.waiting ++ [h] }

/-! ### GETRSP (R393) -/

/-- Sends what may be sent of the reads of a flow, oldest first. A GETRSP's AUX is its byte offset modulo 2^32; its ADDR holds the status
of what has been read, and from bit 8 on what AUX has no room for (DESIGN CHOICE, unsafe, log 12). -/
def State.answerRead (s : State) (src domain flow : Nat) : Nat → State
  | 0 => s
  | n + 1 =>
    let t := s.rxFlow src domain flow
    match t.reads with
    | [] => s
    | r :: rest =>
      let p := r.packet
      let count := leNat (p.payload.take 8)
      if !s.windowOpen src domain flow then s
      else
        let len := min maxPayload (count - r.offset)
        let va := p.addr.toNat + r.offset
        match if isWindow p then s.windowGet va len else s.remoteRead domain va len with
        | none => ((s.putRx { t with reads := rest }).ack p false false true Status.remote).answerRead src domain flow n
        | some (s1, bs, hurt) =>
          let last := decide (count ≤ r.offset + len)
          let bad := r.bad || !hurt.isEmpty
          let q := { Packet.make src domain flow 0 p.ordered last (BitVec.ofNat 64 ((if bad then Status.poison else Status.ok) + 256 * (r.offset / 2 ^ 32)))
            r.offset p.opid.toNat bs with poison := unitsOf 0 len hurt }
          let more : ReadReq := { r with offset := r.offset + len, bad }
          ((s1.sendData .getrsp q).putRx { t with reads := if last then rest else more :: rest }).answerRead src domain flow n

def State.answerReads (s : State) : State :=
  (s.fab.rx.filter fun t => !t.reads.isEmpty).foldl (fun s t => s.answerRead t.src t.domain t.flow (flowWindow + 1)) s

/-! ### Performing packets -/

/-- What performing a packet comes to: the state, the status, and whether the operation's end is answered later; it waits until it can be
performed; or there is no room for it here. -/
inductive Performed where
  | done (s : State) (status : Nat) (later : Bool)
  | held (s : State)
  | full (s : State)

/-- The command that a packet answers. -/
def State.fabCommand (s : State) (p : Packet) : Option Command :=
  (s.command? p.opid.toNat).filter fun c => (opClass c.op == 5 && (fabArgs c).pkg == p.src.toNat) || c.op == 0x161

/-- Puts the bytes of a COLL packet into the member's stream. -/
def putStream (old : List W8) (at_ : Nat) (bs : List W8) : List W8 :=
  let base := old ++ List.replicate (at_ + bs.length - old.length) 0
  base.take at_ ++ bs ++ base.drop (at_ + bs.length)

/-- A GETRSP of one of this package's commands: it waits while its destination's translation misses (R37, R393). -/
def State.takeResponse (s : State) (c : Command) (p : Packet) : Performed :=
  let sp := (fabArgs c).space
  let vas := (List.range p.payload.length).map fun i => (dval c.d 1).toNat + p.aux.toNat + 2 ^ 32 * (p.addr.toNat / 256) + i
  let miss := if sp = 0 then (vas.filter fun v => s.engByte c sp .write v == .miss) else []
  if c.phase ≠ .running ∧ !miss.isEmpty then .held s
  else if !miss.isEmpty then .held (s.engineWaits c (byPage (miss.map fun v => (v, .write))))
  else .done (s.engWrite c false ((vas.zip p.payload).zipIdx.map fun e => (sp, e.1.1, e.1.2, (Packet.badBytes p).contains e.2))) (p.addr.toNat % 256) true

/-- Executes an ATOM, once its response has room in its flow (R394). -/
def State.takeAtom (s : State) (steps : List (Nat × W16)) (p : Packet) : Performed :=
  let dom := p.domain.toNat
  if !s.windowOpen p.src.toNat dom p.flow.toNat then .held s
  else
    let r := s.remoteAtom steps p
    if r.2.1 ≠ Status.ok then .done r.1 r.2.1 false
    else
      let q := Packet.make p.src.toNat dom p.flow.toNat 1 p.ordered true 0 0 p.opid.toNat (bytes64 r.2.2)
      let s1 := r.1.sendData .atomrsp q
      let sent := ((s1.txFlow p.src.toNat dom p.flow.toNat).kept.getLast?.map (·.2)).getD q
      .done (s1.updRx p fun t => { t with atoms := (t.atoms ++ [(p.psn.toNat, sent)]).drop (t.atoms.length + 1 - 512) }) Status.ok true

def State.perform1 (s : State) (k : PacketKind) (p : Packet) (steps : List (Nat × W16)) : Performed :=
  let dom := p.domain.toNat
  let put (va : Nat) (bs : List W8) : Performed :=
    let r := s.remoteWrite steps dom va bs (Packet.badBytes p)
    .done r.1 r.2 false
  match k with
  | .put => if isWindow p then let r := s.windowPut steps p; .done r.1 r.2 false else put (p.addr.toNat + p.aux.toNat) p.payload
  | .puta =>
    if !p.last then put (p.addr.toNat + p.aux.toNat) p.payload
    else if ((s.rxOf p).op .puta p).status ≠ 0 then .done s Status.ok false
    else put p.addr.toNat p.payload
  | .getreq => .done (s.updRx p fun t => { t with reads := t.reads ++ [{ packet := p, offset := 0, bad := false }] }) Status.ok true
  | .getrsp =>
    if isWindow p then .done (s.windowLand p.opid.toNat p.aux.toNat p.payload (Packet.badBytes p)) Status.ok true
    else match s.fabCommand p with
    | none => .done s Status.ok true
    | some c => s.takeResponse c p
  | .atom => s.takeAtom steps p
  | .atomrsp =>
    match s.fabCommand p with
    | none => .done s Status.ok true
    | some c => .done ((s.deliver c (dval c.d 3) (p.payload.take 8)).fabEnd c Status.ok) Status.ok true
  | .coll =>
    if p.cls = 3 then
      let a := p.addr
      match s.paritySet a with
      | some q => .done (s.addParity q p.opid.toNat (bits a 15 12) (bits a 47 16) p.payload) Status.ok false
      | none => .done s Status.nogrp false
    else
      let x := s.collIn p.src.toNat p.addr.toNat p.opid.toNat
      if p.ordered then .done (s.putColl { x with status := p.aux.toNat, whole := true }) Status.ok false
      else .done (s.putColl { x with bytes := putStream x.bytes p.aux.toNat p.payload, bad := x.bad ++ p.poison.map (p.aux.toNat / 64 + ·) }) Status.ok false
  | .enq =>
    match s.partitionOf dom with
    | none => .done s Status.remote false
    | some part =>
      let e : Enqueue := { who := s.me, part, handle := p.addr, packet := p.payload, word := none,
                           remote := some (p.src.toNat, dom, p.flow.toNat, p.opid.toNat) }
      if s.enqBehind part p.addr then (if enqPlaces ≤ s.sched.enq.length then .full s else .done (s.buffer e) Status.ok true)
      else match s.enqueue part p.addr p.payload with
        | .done st s1 => .done s1 st false
        | .full => if enqPlaces ≤ s.sched.enq.length then .full s else .done (s.buffer e) Status.ok true
  | _ => .done s Status.ok true

/-- After a packet has been performed: its PSN, its ACK, and what the whole operation brings. -/
def State.afterPacket (s : State) (k : PacketKind) (p : Packet) (status : Nat) (later : Bool) : State :=
  let o := ((s.rxOf p).op k p).add k p status
  let end_ := o.whole && (!later || decide (o.status ≠ 0) && k != .getrsp)
  let s1 := s.updRx p fun t =>
    let t1 := t.mark p.psn.toNat
    { t1 with ops := ((t.ops.filter fun (x : RxOp) => x.opid != o.opid) ++ [{ o with acked := end_ }]).filter fun (x : RxOp) =>
        !x.acked || psnDiff t1.next ((x.last).getD 0) ≤ flowWindow }
  let s2 := s1.ack p true (k == .coll) end_ o.status
  if !o.whole then s2
  else match k with
    | .coll =>
      if p.cls = 3 ∨ p.ordered then s2
      else s2.putColl { s2.collIn p.src.toNat p.addr.toNat p.opid.toNat with whole := true }
    | .getrsp =>
      if isWindow p then s2.windowEnds p.opid.toNat false
      else match s2.fabCommand p with
      | some c => s2.fabEnd c (if o.status = 0 then Status.ok else Status.poison)
      | none => s2
    | _ => s2

/-- The hub keeps a packet until it can be performed. -/
def State.holdPacket (s : State) (h : HeldPacket) : State := s.updRx h.packet fun t => { t with held := t.held ++ [h] }

/-- The receiving hub trims a packet for which it has no room (R391). -/
def State.trimHere (s : State) (p : Packet) : State := (s.countTrim p.port.toNat p.cls.toNat).recordHole { p with trims := p.trims + 1 }

/-- Performs a packet; an ENQ beyond a full buffer finds no room and is trimmed (R174, R391, R392) (DEDUCED, unsafe, log 94). -/
def State.performNow (s : State) (h : HeldPacket) : State :=
  match s.perform1 h.kind h.packet h.steps with
  | .held s1 => s1.holdPacket h
  | .full s1 => s1.trimHere h.packet
  | .done s1 st later => (s1.afterPacket h.kind h.packet st later).answerReads

/-- Whether a held packet may be performed. -/
def RxFlow.ready (t : RxFlow) (k : PacketKind) (p : Packet) : Bool :=
  (!p.ordered || p.psn.toNat == t.next) && (!(k == .puta && p.last) || t.payloadDone p)

/-- Performs held packets of a flow that now may be, each at most once. -/
def State.drainHeld (s : State) (p : Packet) (tried : List W32) : Nat → State
  | 0 => s
  | n + 1 =>
    let t := s.rxOf p
    match t.held.find? fun (e : HeldPacket) => !tried.contains e.packet.psn && t.ready e.kind e.packet with
    | none => s
    | some e =>
      ((s.updRx p fun t => { t with held := t.held.filter fun (x : HeldPacket) => x.packet.psn != e.packet.psn }).performNow e).drainHeld p
        (tried ++ [e.packet.psn]) n

/-- The hub performs what it holds and can perform now. -/
def State.performHeld (s : State) : State :=
  (s.fab.rx.flatMap fun (t : RxFlow) => (t.held.take 1).map fun (h : HeldPacket) => h.packet).foldl (fun s p => s.drainHeld p [] flowWindow) s

/-- Reorder memory of the hub. -/
def reorderBytes : Nat := 32 * 2 ^ 20
def State.heldBytes (s : State) : Nat := (s.fab.rx.map fun t => (t.held.map fun (e : HeldPacket) => e.packet.payload.length).sum).sum

/-- A packet that arrives again: its answer is sent again (R393, R394). -/
def State.again (s : State) (k : PacketKind) (p : Packet) : State :=
  let t := s.rxOf p
  match k, t.atoms.find? fun e => e.1 == p.psn.toNat with
  | .atom, some e => (s.emit .atomrsp e.2).ack p true false false 0
  | _, _ =>
    let o := t.op k p
    s.ack p true (k == .coll) o.acked o.status

/-- R389: a header that no port passes: a reserved TYPE or CLASS, LEN above 64, or a nonzero reserved field. -/
def badHeader (p : Packet) : Bool :=
  (PacketKind.ofCode p.type.toNat).isNone || decide (4 ≤ p.cls.toNat ∧ p.cls.toNat ≤ 6) || decide (64 < p.len.toNat) || p.reserved != 0

/-- A packet of a package that is DOWN, or for one, is dropped (R145). -/
def State.fenced (s : State) (p : Packet) : Bool := s.isDown p.src.toNat || s.isDown p.dst.toNat

/-- What every arriving packet meets first: a bad header, counted at the port that sees it; the fence; transit. -/
def arriving (k : PacketKind) (p : Packet) (s : State) (f : State → State) : Out :=
  if badHeader p then .next (s.countPort p.port.toNat 8)
  else if s.fenced p then .next s
  else if p.dst.toNat ≠ s.pkg then .next (s.emit k p)
  else .next (f s)

/-- Receives a trimmed header; of a packet already performed, the answer is sent again (R392 to R394). -/
def State.trimmedIn (s : State) (p : Packet) : State :=
  let t := s.rxOf p
  if t.inDead p.psn.toNat then s
  else if t.performed p.psn.toNat then s.again ((PacketKind.ofCode p.type.toNat).getD .put) p
  else s.recordHole p

/-- Receives a data packet (R393). -/
def State.dataIn (s : State) (k : PacketKind) (p : Packet) : State :=
  let t := s.rxOf p
  let psn := p.psn.toNat
  let h : HeldPacket := { kind := k, packet := p, steps := s.holderSteps }
  if p.trim then s.trimmedIn { p with type := BitVec.ofNat 8 k.code }
  else if t.inDead psn then s
  else if t.performed psn then (s.pacerArrived p).again k p
  else if flowWindow ≤ psnDiff psn t.next ∨ t.held.any fun (e : HeldPacket) => e.packet.psn == p.psn then s
  else
    let s1 := s.pacerArrived p
    if t.ready k p then ((s1.performNow h).drainHeld p [] flowWindow).fabPump
    else if reorderBytes < s1.heldBytes + p.payload.length then s1.trimHere p
    else s1.holdPacket h

def recvData (k : PacketKind) (p : Packet) (s : State) : Out := arriving k p s fun s => s.dataIn k p

def execPutPacket (p : Packet) (s : State) : Out := recvData .put p s
def execPutaPacket (p : Packet) (s : State) : Out := recvData .puta p s
def execGetreqPacket (p : Packet) (s : State) : Out := recvData .getreq p s
def execGetrspPacket (p : Packet) (s : State) : Out := recvData .getrsp p s
def execAtomPacket (p : Packet) (s : State) : Out := recvData .atom p s
def execAtomrspPacket (p : Packet) (s : State) : Out := recvData .atomrsp p s
def execCollPacket (p : Packet) (s : State) : Out := recvData .coll p s
def execEnqPacket (p : Packet) (s : State) : Out := recvData .enq p s

def execTrimmedHeaderReceive (p : Packet) (s : State) : Out := arriving ((PacketKind.ofCode p.type.toNat).getD .put) p s fun s => s.trimmedIn p

/-! ### ACK (R392, R393, R350) -/

/-- An operation's end, as the target reports it. -/
def State.opEnds (s : State) (p : Packet) (status : Nat) : State :=
  if isWindow p then s.windowAnswer p.opid.toNat status
  else match s.fabCommand p with
  | none => s
  | some c =>
    let st := if status ≠ 0 then status else if c.block ≠ [] then Status.poison else Status.ok
    if c.op = 0x161 then (s.freeOp p.src.toNat p.domain.toNat p.flow.toNat c.id).finish c status
    else if status = 0 ∧ (c.op = 0x157 ∨ isAtomOp c.op) then s
    else s.fabEnd c st

def execAckPacket (p : Packet) (s : State) : Out :=
  arriving .ack p s fun s =>
    let aux := p.aux.toNat
    let s1 := if aux.testBit 8 then s.freePacket p.src.toNat p.domain.toNat p.flow.toNat p.psn.toNat else s
    let s2 := if p.last ∧ !aux.testBit 9 then s1.opEnds p (aux % 256) else s1
    s2.answerReads.fabPump

/-! ### Re-requests (R392) -/

/-- Spacing of re-requests to one source, in ns, and how many may be outstanding. -/
def rereqGap : Nat := 64
def rereqMax : Nat := 16

/-- REREQ_SEND. -/
def execRereqSend (src : W8) (s : State) : Out :=
  let x := s.pacer src.toNat
  let now := s.gtb.toNat
  match x.waiting with
  | [] => .next s
  | h :: r =>
    if ((x.last.map fun t => decide (now < t + rereqGap)).getD false) ∨ rereqMax ≤ x.out.length ∨ rereqMax ≤ x.count then .next s
    else
      let p := { Packet.make src.toNat h.domain h.flow 7 false false 0 0 0 [] with psn := BitVec.ofNat 32 h.psn, trims := BitVec.ofNat 8 h.trims }
      let n := x.out.length + 1
      .next (((s.putPacer { x with waiting := r, out := x.out ++ [h], count := if rereqMax ≤ n then n else x.count, last := some now }).sendHeader
        .rereq p).countPort (s.portOf p) 4)

/-- A failed operation of a flow ends with TRIMFAIL. -/
def State.trimFail (s : State) (dst domain flow : Nat) (e : PacketKind × Packet) : State :=
  let s1 := s.countPort (s.portOf e.2) 7
  match e.1 with
  | .put | .puta | .getreq | .atom | .enq =>
    if isWindow e.2 then s1.windowEnds e.2.opid.toNat true
    else match s1.command? e.2.opid.toNat with
    | some c => if c.op = 0x161 then s1.finish c Status.trimfail else s1.fabEnd c Status.trimfail
    | none => s1
  | .coll =>
    if e.2.cls = 3 then
      match s1.paritySet e.2.addr with
      | some q => s1.parityFails q
      | none => s1
    else match s1.cmds.find? fun c => opClass c.op == 4 && collGroup c == e.2.addr.toNat && collNumber c == e.2.opid.toNat with
      | some c => s1.collFail c Status.trimfail
      | none => s1
  | .getrsp | .atomrsp =>
    -- the requester's operation cannot be answered
    s1.sendHeader .ack (Packet.make dst domain flow 7 false true 0 Status.trimfail e.2.opid.toNat [])
  | _ => s1

/-- R392 at TRIMS 16: the operations at or after the failed packet end, an ABORT leaves, and the flow goes on at its next PSN. -/
def State.abortFlow (s : State) (dst domain flow psn : Nat) : State :=
  let t := s.txFlow dst domain flow
  let bad := t.kept.filter fun e => psnDiff e.2.psn.toNat psn < 2 ^ 31
  let firsts := bad.foldl (fun (a : List (PacketKind × Packet)) e => if a.any fun x => opKey x.1 x.2 == opKey e.1 e.2 then a else a ++ [e]) []
  let s1 := s.putTx { t with kept := t.kept.filter fun e => !(psnDiff e.2.psn.toNat psn < 2 ^ 31) }
  let p := { Packet.make dst domain flow 7 false false 0 t.psn 0 [] with psn := BitVec.ofNat 32 psn }
  (firsts.foldl (fun s e => s.trimFail dst domain flow e) (s1.sendHeader .abort p)).fabPump

/-- Paths configured to a package: one, PATH 0, until Mladeno configures more (DESIGN CHOICE, unsafe, log 124). -/
def State.pathCount (s : State) (dst : Nat) : Nat := max 1 (Tab.getD s.fab.paths (fun _ => 0) dst)

/-- Mladeno configures the paths to a package: PATH 0 to n - 1. -/
def State.setPaths (s : State) (dst n : Nat) : State :=
  if 4 < n then s else { s with fab := { s.fab with paths := Tab.put s.fab.paths (fun _ => 0) dst n } }

/-- Retransmits a kept packet whose TRIMS the source has learnt. -/
def State.retransmit (s : State) (dst domain flow psn trims : Nat) : State :=
  let t := s.txFlow dst domain flow
  match t.kept.find? fun e => e.2.psn.toNat == psn with
  | none => s
  | some e =>
    if 16 ≤ trims then s.abortFlow dst domain flow psn
    else
      let path : BitVec 2 := if trims = 8 ∧ e.2.trims.toNat < 8 then BitVec.ofNat 2 ((e.2.path.toNat + 1) % s.pathCount dst) else e.2.path
      let p := { e.2 with trims := BitVec.ofNat 8 trims, path }
      let s1 := s.putTx { t with kept := t.kept.map fun x => if x.2.psn.toNat = psn then (x.1, p) else x }
      let s2 := (s1.emit e.1 p).countPort (s.portOf p) 5
      if path = e.2.path then s2 else s2.countPort (s.portOf p) 6

def execRereqPacket (p : Packet) (s : State) : Out :=
  arriving .rereq p s fun s => s.retransmit p.src.toNat p.domain.toNat p.flow.toNat p.psn.toNat p.trims.toNat

/-- FABRIC_RETX_TIMEOUT: a lost packet counts as one trim. -/
def execFabricRetxTimeout (dst : W8) (domain : W8) (flow : W8) (psn : W32) (s : State) : Out :=
  match (s.txFlow dst.toNat domain.toNat flow.toNat).kept.find? fun e => e.2.psn == psn with
  | none => .next s
  | some e => .next (s.retransmit dst.toNat domain.toNat flow.toNat psn.toNat (e.2.trims.toNat + 1))

/-- ABORT: held packets of the flow go, and the aborted PSNs are dead. -/
def execAbortPacket (p : Packet) (s : State) : Out :=
  arriving .abort p s fun s =>
    let lo := p.psn.toNat
    let hi := p.aux.toNat
    s.updRx p fun t =>
      let range := (List.range (min (psnDiff hi lo) flowWindow)).map fun i => (lo + i) % 2 ^ 32
      let dead := range.filter fun x => !t.performed x
      { t with held := [], holes := [], dead := t.dead ++ [(lo, hi)], done := t.done ++ dead }.advance (t.done.length + dead.length + 1)

/-! ### Trims (R391) -/

/-- A trimmed header goes on: to this package's hub, or to the port by which it leaves. -/
def State.forwardTrimmed (s : State) (p : Packet) : State :=
  if p.dst.toNat = s.pkg then s.trimmedIn (Packet.trimmed p)
  else s.emit ((PacketKind.ofCode p.type.toNat).getD .put) (Packet.trimmed p)

/-- SWITCH_TRIM: a data packet comes to an output port whose class's count is over the threshold. -/
def execSwitchTrim (port : BitVec 4) (p : Packet) (s : State) : Out :=
  if badHeader p then .next (s.countPort port.toNat 8)
  else if 3 < p.cls.toNat ∨ !s.overTrim port.toNat p.cls.toNat then .next s
  else .next ((s.countTrim port.toNat p.cls.toNat).enqueueAt port.toNat ((PacketKind.ofCode p.type.toNat).getD .put) (Packet.trimmed p))

/-- UNCORRECTABLE_FEC_CODEWORD: the payload of a packet is lost at a port, and its header goes on. -/
def execUncorrectableFecCodeword (port : BitVec 4) (p : Packet) (s : State) : Out :=
  if badHeader p then .next (s.countPort port.toNat 8)
  else if 3 < p.cls.toNat then .next s
  else .next ((s.countTrim port.toNat p.cls.toNat).forwardTrimmed p)

/-! ### Heartbeats, FATAL, time (R145, R397, R398) -/

def heartbeatGap : Nat := 4000

def execHeartbeatSend (s : State) : Out :=
  let now := s.gtb.toNat
  if now < s.fab.heartbeatAt + heartbeatGap then .next s
  else
    let s1 := s.peers.foldl (fun s m => s.sendHeader .heartbeat (Packet.make m 0 0 7 false true 0 0 0 [])) s
    .next { s1 with fab := { s1.fab with heartbeatAt := now } }

def execHeartbeatPacket (p : Packet) (s : State) : Out :=
  arriving .heartbeat p s fun s =>
    { s with fab := { s.fab with heard := (s.fab.heard.filter fun e => e.1 != p.src.toNat) ++ [(p.src.toNat, s.gtb.toNat)] } }

/-- The loss of a package is known here. -/
def State.knowsLost (s : State) (pkg : Nat) : Bool := s.isDown pkg || (s.recovery.map fun r => r.lost.contains pkg).getD false

/-- HEARTBEAT_MISS: the fifth in a row; the notice of stage 1 goes to every member of the groups that hold the package (R145). -/
def execHeartbeatMiss (pkg : W8) (s : State) : Out :=
  let m := pkg.toNat
  let last := ((s.fab.heard.find? fun e => e.1 == m).map (·.2)).getD 0
  if s.gtb.toNat < last + 5 * heartbeatGap ∨ m = s.pkg ∨ !s.sharesGroup m ∨ s.knowsLost m then .next s
  else .next ((s.spreadFatal m).detect m)

def execFatalPacket (p : Packet) (s : State) : Out :=
  arriving .fatal p s fun s =>
    let pkg := p.addr.toNat % 256
    if s.knowsLost pkg then s else (s.spreadFatal pkg).detect pkg

/-- The domain whose list this package follows: the lowest that has one (DESIGN CHOICE, unsafe, log 125). -/
def State.timeList (s : State) : Option (Nat × List Nat) :=
  s.fab.sources.foldl (fun a e => match a with
    | some x => if e.1 < x.1 then some e else a
    | none => some e) none

/-- The time source: the first package of the list that is UP. -/
def State.timeSource (s : State) : Option Nat := s.timeList.bind fun e => e.2.find? fun m => !s.isDown m

/-- Mladeno names a domain's time sources, up to four. -/
def State.setSources (s : State) (domain : Nat) (l : List Nat) : State :=
  if 4 < l.length then s
  else { s with fab := { s.fab with sources := (s.fab.sources.filter fun e => e.1 != domain) ++ if l.isEmpty then [] else [(domain, l)] } }

/-- Mladeno binds a domain to a partition (R350, R398). -/
def State.bindDomain (s : State) (domain part : Nat) : State :=
  { s with fab := { s.fab with binds := (s.fab.binds.filter fun b => b.1 != domain && b.2 != part) ++ [(domain, part)] } }

/-- The hub measures the round trip of a port's link. -/
def State.measured (s : State) (port ticks : Nat) : State :=
  { s with fab := { s.fab with roundTrip := Tab.put s.fab.roundTrip (fun _ => 0) port (ticks + 1) } }

/-- TIMESYNC: one of the followed domain, from the neighbour towards its source, steers the rate by at most 100 ppm; the link's delay is half
its measured round trip (R397; how far the rate is steered: DESIGN CHOICE, unsafe, log 125). -/
def execTimesyncPacket (p : Packet) (s : State) : Out :=
  arriving .timesync p s fun s =>
    match s.timeList, s.timeSource with
    | some l, some m =>
      if m = s.pkg ∨ p.domain.toNat ≠ l.1 ∨ p.src ≠ Config.upstream s.pkg m then s
      else
        let trip := Tab.getD s.fab.roundTrip (fun _ => 0) p.port.toNat
        let theirs := p.addr.toNat + (trip - 1) / 2
        let mine := s.gtb.toNat
        let rate : Int := if trip = 0 then 0 else if mine < theirs then 100 else if theirs < mine then -100 else 0
        { s with fab := { s.fab with synced := some mine, freeRun := false, rate } }
    | _, _ => s

def execTimesyncSend (s : State) : Out :=
  let now := s.gtb.toNat
  if now < s.fab.timesyncAt + 1000 then .next s
  else
    let dom := (s.timeList.map (·.1)).getD 0
    let p := { Packet.make s.pkg dom 0 7 false true (BitVec.ofNat 64 now) 0 0 [] with src := BitVec.ofNat 8 s.pkg, type := 0x12 }
    let s1 := (List.range 16).foldl (fun s port => s.emitAt port .timesync p) s
    .next { s1 with fab := { s1.fab with timesyncAt := now } }

def execTimesyncLoss (s : State) : Out :=
  let last := s.fab.synced.getD 0
  if s.fab.freeRun ∨ s.timeSource = some s.pkg ∨ (s.gtb.toNat < last + 100000 ∧ s.timeSource.isSome) then .next s
  else .next ({ s with fab := { s.fab with freeRun := true, rate := 0 } }.note (.notice 397 0))

/-! ### Packets as a port sees them (R389) -/

/-- The kind, the header fields and the payload of the bytes that arrive at a port. -/
def rawPacket (port : BitVec 4) (bs : List W8) : Option (PacketKind × Packet) :=
  let b (i n : Nat) : Nat := leNat ((bs.drop i).take n)
  let flags := b 1 1
  let p : Packet :=
    { trim := flags.testBit 0, ordered := flags.testBit 1, last := flags.testBit 2, path := BitVec.ofNat 2 (flags / 8),
      cls := BitVec.ofNat 3 (flags / 32), src := BitVec.ofNat 8 (b 2 1), dst := BitVec.ofNat 8 (b 3 1), flow := BitVec.ofNat 8 (b 4 1),
      domain := BitVec.ofNat 8 (b 5 1), len := BitVec.ofNat 16 (b 6 2), psn := BitVec.ofNat 32 (b 8 4), opid := BitVec.ofNat 32 (b 12 4),
      addr := BitVec.ofNat 64 (b 16 8), aux := BitVec.ofNat 32 (b 24 4), trims := BitVec.ofNat 8 (b 28 1), payload := bs.drop 32,
      type := BitVec.ofNat 8 (b 0 1), reserved := BitVec.ofNat 24 (b 29 3), port }
  if bs.length < 32 then none else some ((PacketKind.ofCode p.type.toNat).getD .put, p)

/-- The table's event for a packet: a trimmed header has its own. -/
noncomputable def packetEvent (k : PacketKind) (p : Packet) : Instr :=
  if p.trim then .trimmedHeaderReceive p
  else match k with
    | .put => .putPacket p | .puta => .putaPacket p | .getreq => .getreqPacket p | .getrsp => .getrspPacket p | .atom => .atomPacket p
    | .atomrsp => .atomrspPacket p | .ack => .ackPacket p | .coll => .collPacket p | .enq => .enqPacket p | .rereq => .rereqPacket p
    | .heartbeat => .heartbeatPacket p | .timesync => .timesyncPacket p | .fatal => .fatalPacket p | .abort => .abortPacket p

end Sys2Proof.Machine
end

