-- ==== Sys2Proof/Machine/EvLink.lean ====
section
/-! DEFINITION. The die links: flits, replay, retraining and module failure (R384 to R388). Both ends of every module lie
in the package, so one event moves a direction's sender and its receiver (DESIGN CHOICE, unsafe, log 71). -/

namespace Sys2Proof.Machine

/-- Places of a replay buffer (R385). -/
def replayPlaces : Nat := 64

/-- The window of R386, in GTB ticks, and the number of failures in it. -/
def crcWindow : Nat := 1000000
def crcLimit : Nat := 8

/-- Duration of a retrain (R386). -/
def retrainTicks : Nat := 2000

/-- SEQ x is at or before n, within the window of 2,048 (R385). -/
def seqUpTo (n x : BitVec 12) : Bool := (n - x).toNat < 2048

/-- The first four bytes of a flit (R384). -/
def flitHead (f : Flit) : W32 := f.reserved ++ f.kind ++ f.ackseq ++ f.seq

/-- Bytes 251:0, over which the CRC runs. -/
def flitBody (f : Flit) : List W8 :=
  (List.range 4).map (fun i => (flitHead f >>> (8 * i)).setWidth 8) ++ (List.range 248).map fun i => f.payload.getD i 0

def flitGood (f : Flit) : Bool := crc32c (flitBody f) == f.crc

/-- A module fails: the package reports itself fatal and the supervisor logs the module (R387). -/
def State.failModule (s : State) (m : Nat) : State :=
  ((s.setMod m { s.mod m with failed := true, training := none }).spreadFatal s.pkg).note (.notice 387 (BitVec.ofNat 64 m))

/-- A CRC failure of a module: the eighth in the window retrains it, or fails a module at x32 (R386, R387). -/
def State.countCrc (s : State) (m : Nat) : State :=
  let now := s.gtb.toNat
  let x := s.mod m
  let recent := x.recent.filter (fun t => now ≤ t + crcWindow) ++ [now]
  let s1 := (s.setMod m { x with crcFail := (x.crcFail + 1) % 2 ^ 24, recent }).bump 7 (2 * m)
  if recent.length < crcLimit then s1
  else if x.half then s1.failModule m
  else s1.setMod m { s1.mod m with recent := [], training := some now, wide := false }

/-- The sender of a direction starts a replay from SEQ `n` (R385), counted by MODSTAT.REPLAY. -/
def State.replayFrom (s : State) (m : Nat) (k : Nat) (n : BitVec 12) : State :=
  let x := s.mod m
  (s.setLink k { s.link k with resume := some n, progress := s.gtb.toNat }).setMod m { x with replay := (x.replay + 1) % 2 ^ 24 }

/-- ACKSEQ frees the flits that it covers in the direction's replay buffer (R385). -/
def LinkDir.ack (d : LinkDir) (n : BitVec 12) (now : Nat) : LinkDir :=
  let held := d.held.filter fun (x : Flit) => !seqUpTo n x.seq
  if held.length = d.held.length then d else { d with held, progress := now }

/-- A NAK: the flits up to n are covered, and the others are sent again (R385). -/
def State.nak (s : State) (m k : Nat) (n : BitVec 12) : State :=
  (s.setLink k ((s.link k).ack n s.gtb.toNat)).replayFrom m k (n + 1)

/-- The sender sends no new DATA flit while its replay buffer is full or a replay goes on (R385). -/
def LinkDir.mayBegin (d : LinkDir) (f : Flit) : Bool := f.seq == d.next && d.resume.isNone && decide (d.held.length < replayPlaces)

/-- The sender's side of a flit: a new DATA flit enters the replay buffer with the oldest request that waits, a resent one moves the
resumption on. -/
def LinkDir.sends (d : LinkDir) (f : Flit) (now : Nat) : LinkDir :=
  if f.kind ≠ 0 then d
  else if d.mayBegin f then
    { d with held := d.held ++ [f], next := d.next + 1, progress := if d.held.isEmpty then now else d.progress,
             waiting := d.waiting.drop 1, flying := d.flying ++ (d.waiting.take 1).map fun m => (f.seq, m) }
  else if d.resume = some f.seq then { d with resume := if f.seq + 1 = d.next then none else some (f.seq + 1) }
  else d

/-- What a direction's sender may send beside the direction's way back, whose receiver is on the same die: a DATA flit in its turn; every
flit with that receiver's ACKSEQ, and as a NAK exactly where that receiver owes one (R385). A receiver with 16 flits to acknowledge is
sent no more before it has returned an ACKSEQ. -/
def LinkDir.maySend (d back : LinkDir) (f : Flit) : Bool :=
  (f.kind != 0 || d.mayBegin f || d.resume == some f.seq) && f.ackseq == back.accepted && (f.kind == 2) == back.nak && decide (d.unacked < 16)

/-- The receiver's side of a good DATA flit: accepted in sequence, and its message executed once; a duplicate, or a flit beyond the
expected one, is dropped (R385). -/
def LinkDir.receives (d : LinkDir) (f : Flit) : LinkDir :=
  let d1 := { d with unacked := d.unacked + 1 }
  if f.kind = 0 ∧ f.seq = d.accepted + 1 then
    { d1 with accepted := f.seq, discarding := false, executed := d.executed + 1, flying := d.flying.filter fun e => e.1 != f.seq,
              granted := d.granted ++ (d.flying.filter fun e => e.1 == f.seq).map fun e => e.2 }
  else d1

/-- A flit with a bad CRC: the first since the last accepted one makes the receiver owe a NAK, unless it has started a retrain (R405). -/
def State.corrupted (s : State) (m k : Nat) : State :=
  let first := !(s.link k).discarding
  let s1 := (s.setLink k { s.link k with discarding := true, unacked := (s.link k).unacked + 1 }).countCrc m
  let x := s1.mod m
  if first && x.training.isNone && !x.failed then s1.setLink k { s1.link k with nak := true } else s1

/-- FLIT_RECEIVE (R384, R385): `f` is the flit as it was sent, with the CRC that arrives (DESIGN CHOICE, unsafe, log 71). -/
def execFlitReceive (m : BitVec 6) (fwd : Bool) (f : Flit) (s : State) : Out :=
  let m := m.toNat
  let x := s.mod m
  let k := linkKey m fwd
  let back := linkKey m !fwd
  if 40 ≤ m ∨ x.failed ∨ x.training.isSome ∨ !(s.link k).maySend (s.link back) f then .next s
  else
    let s1 := (s.setLink k ((s.link k).sends f s.gtb.toNat)).setLink back { s.link back with nak := false, unacked := 0 }
    if !flitGood f then .next (s1.corrupted m k)
    else if 3 < f.kind.toNat ∨ f.reserved ≠ 0 then .next (s1.failModule m)
    else
      let s2 := s1.setLink k ((s1.link k).receives f)
      let s3 := s2.setLink back ((s2.link back).ack f.ackseq s.gtb.toNat)
      if f.kind = 2 then .next (s3.nak m back f.ackseq) else .next s3

/-- NAK_RECEIVE (R385): the NAK that the receiver of this direction owes. -/
def execNakReceive (m : BitVec 6) (fwd : Bool) (n : BitVec 12) (s : State) : Out :=
  let x := s.mod m.toNat
  let k := linkKey m.toNat fwd
  if 40 ≤ m.toNat ∨ x.failed ∨ x.training.isSome ∨ !(s.link k).nak ∨ n ≠ (s.link k).accepted then .next s
  else .next ((s.setLink k { s.link k with nak := false, unacked := 0 }).nak m.toNat k n)

/-- REPLAY_TIMEOUT: 64 ns without progress while flits are held (R385). -/
def execReplayTimeout (m : BitVec 6) (fwd : Bool) (s : State) : Out :=
  let x := s.mod m.toNat
  let k := linkKey m.toNat fwd
  match (s.link k).held with
  | [] => .next s
  | f :: _ =>
    if 40 ≤ m.toNat ∨ x.failed ∨ x.training.isSome ∨ s.gtb.toNat < (s.link k).progress + 64 then .next s
    else .next (s.replayFrom m.toNat k f.seq)

/-- A direction after a retrain: the sender resends from the receiver's last accepted SEQ + 1 (R386). -/
def LinkDir.resync (d : LinkDir) (now : Nat) : LinkDir :=
  let d1 := d.ack d.accepted now
  { d1 with discarding := false, nak := false, unacked := 0, progress := now, resume := if d1.held.isEmpty then none else some (d.accepted + 1) }

/-- RETRAIN_END: 2,000 ns after its start; the resend counts once in REPLAY (R386, R388, R405). -/
def execRetrainEnd (m : BitVec 6) (s : State) : Out :=
  let x := s.mod m.toNat
  let now := s.gtb.toNat
  match x.training with
  | none => .next s
  | some t =>
    if now < t + retrainTicks then .next s
    else
      let s1 := (s.setMod m.toNat { x with training := none, half := !x.wide, wide := false, retrain := (x.retrain + 1) % 2 ^ 8 }).bump 7
        (2 * m.toNat + 1)
      let turn (s : State) (fwd : Bool) : State := s.setLink (linkKey m.toNat fwd) ((s.link (linkKey m.toNat fwd)).resync now)
      let s2 := turn (turn s1 false) true
      let again := (s2.link (linkKey m.toNat false)).resume.isSome || (s2.link (linkKey m.toNat true)).resume.isSome
      .next (if again then s2.setMod m.toNat { s2.mod m.toNat with replay := ((s2.mod m.toNat).replay + 1) % 2 ^ 24 } else s2)

/-- MODULE_IDLE_RETRAIN: Mladeno returns an idle module to x64 (R386). -/
def execModuleIdleRetrain (m : BitVec 6) (sup : Bool) (s : State) : Out :=
  let x := s.mod m.toNat
  let quiet (fwd : Bool) : Bool := let d := s.link (linkKey m.toNat fwd); d.held.isEmpty && d.waiting.isEmpty
  let idle := quiet false && quiet true
  if !sup ∨ 40 ≤ m.toNat ∨ x.failed ∨ x.training.isSome ∨ !x.half ∨ !idle then .next s
  else .next (s.setMod m.toNat { x with training := some s.gtb.toNat, recent := [], wide := true })

/-- A flit with its CRC. -/
def sealFlit (kind : BitVec 4) (seq ackseq : BitVec 12) : Flit :=
  let f : Flit := { seq, ackseq, kind, reserved := 0, payload := [], crc := 0 }
  { f with crc := crc32c (flitBody f) }

/-- What a direction has to send of itself: a NAK that its die owes, a DATA flit that is resent or that takes a request, an IDLE flit where
ACKSEQ is awaited (R385). -/
def State.flitDue (s : State) (m : Nat) (fwd : Bool) : Option Flit :=
  let d := s.link (linkKey m fwd)
  let b := s.link (linkKey m !fwd)
  if b.nak then some (sealFlit 2 0 b.accepted)
  else match d.resume with
    | some n => (d.held.find? fun (f : Flit) => f.seq == n).map fun f => sealFlit 0 f.seq b.accepted
    | none =>
      if !d.waiting.isEmpty ∧ d.held.length < replayPlaces then some (sealFlit 0 d.next b.accepted)
      else if b.unacked ≠ 0 ∧ !b.held.isEmpty then some (sealFlit 1 0 b.accepted) else none

/-- MODSTAT of a module (R388). -/
def State.modstat (s : State) (m : Nat) : W64 :=
  let x := s.mod m
  BitVec.ofNat 24 x.crcFail ++ BitVec.ofNat 24 x.replay ++ BitVec.ofNat 8 x.retrain ++ (0 : BitVec 6) ++
    BitVec.ofBool x.failed ++ BitVec.ofBool x.half

end Sys2Proof.Machine
end

