-- ==== Sys2Proof/Machine/EvRecovery.lean ====
section
/-! DEFINITION. Member recovery, stage by stage (R145 to R148, R397). A stage's event stands for its exit condition at the
other survivors; the bytes fetched from them come with RECOVERY_REBUILD (DESIGN CHOICE, unsafe, log 12). -/

namespace Sys2Proof.Machine

def State.inRecovery (s : State) (stage : Nat) (k : Recovery → State) : Out :=
  match s.recovery with
  | some r => if r.stage = stage then .next (k r) else .next s
  | none => .next s

/-- The recovery moves on to a stage, and notes when the one before it ended (DESIGN CHOICE, unsafe, log 72). -/
def State.toStage (s : State) (r : Recovery) (n : Nat) : State :=
  { s with recovery := some { r with stage := n, times := r.times ++ [s.gtb.toNat] } }

/-- RECOVERY_DETECT: the notice of stage 1, and its report to every member of the groups that hold the package. -/
def execRecoveryDetect (pkg : W8) (s : State) : Out :=
  let p := pkg.toNat
  if p = s.pkg ∨ s.knowsLost p ∨ !s.sharesGroup p then .next s
  else .next ((s.spreadFatal p).detect p)

/-! ### Stages 2 to 4 -/

/-- Marks a package DOWN in every group (R145, R398). -/
def State.markDown (s : State) (pkg : Nat) : State :=
  let s1 := (s.groupsOf pkg).foldl (fun s g =>
    ((s.members g).zipIdx.filter fun e => e.1.1 == pkg).foldl (fun s e => s.setMember ((s.group g).pool + e.2) pkg true) s) s
  { s1 with fab := { s1.fab with down := addNats s1.fab.down [pkg] } }

/-- The time source's list has no package UP: this package free-runs (R397). -/
def State.noSource (s : State) : State :=
  if s.fab.sources ≠ [] ∧ s.timeSource = none ∧ !s.fab.freeRun then
    { s with fab := { s.fab with freeRun := true, rate := 0 } }.note (.notice 397 0)
  else s

/-- A recovery that a loss of power has interrupted starts again where a member of it has not been heard of since, with the parity that rebuilt
units had replaced (R148) (DEDUCED, unsafe, log 99). -/
def State.recoverAgain (s : State) : State :=
  let ps := s.admin.lostMembers.filter fun p => s.sharesGroup p && !s.fab.heard.any fun e => e.1 == p
  if s.recovery.isSome ∨ s.admin.stage ≠ 6 ∨ ps = [] then s
  else
    let secs := distinct (s.admin.replaced.map fun e => sectorOf e.1)
    { s with
      recovery := some (s.freshRecovery ps), mem := Tab.putAll s.mem (fun _ => 0) s.admin.replaced,
      bad := addNats (dropNats s.bad secs) s.admin.replacedBad,
      admin := { s.admin with lostMembers := dropNats s.admin.lostMembers ps, replaced := [], replacedBad := [] } }

/-- RECOVERY_FENCE, stage 2. -/
def execRecoveryFence (s : State) : Out :=
  let s := s.recoverAgain
  s.inRecovery 1 fun r =>
    let sets := s.affectedSets r.lost
    let busy := sets.filter fun q => (s.snap q).state == 1 || (s.snap q).state == 2
    let s1 := (r.lost.foldl (fun s p => s.markDown p) s).noSource
    let s2 := sets.foldl (fun s q => s.setSnap q { s.snap q with state := 5 }) s1
    let was := r.was ++ (sets.filter fun q => r.was.all fun e => e.1 != q).map fun q => (q, (s.snap q).state)
    s2.toStage { r with inProgress := addNats r.inProgress busy, was } 2

/-- Ends what names a lost package (R145, R399). -/
def State.endWith (s : State) (lost : List Nat) : State :=
  let fabOp (c : Command) : Bool := opClass c.op == 5 && lost.contains (fabArgs c).pkg
  let tren (c : Command) : Bool := c.op == 0x161 && lost.contains (handlePkg (dval c.d 0))
  let coll (c : Command) : Bool := opClass c.op == 4 && (s.members (collGroup c)).any fun m => lost.contains m.1
  let step (s : State) (c : Command) : State :=
    if coll c ∧ c.phase = .armed then s.putCommand { c with lost := true }
    else if coll c then (s.dropColl (collGroup c) (collNumber c)).finish c Status.member
    else if fabOp c then s.fabEnd c Status.down
    else if tren c then s.finish c Status.down
    else s
  let s0 := { s with fab := { s.fab with windowWait := s.fab.windowWait.filter fun e => !lost.contains e.packet.dst.toNat,
                                           queue := s.fab.queue.filter fun (e : PortEntry) => !lost.contains e.packet.dst.toNat } }
  let gone := (s0.fab.window.filter fun w => lost.contains w.pkg).map (·.opid)
  let s1 := gone.foldl (fun s i => s.windowEnds i true) (s0.cmds.foldl step s0)
  { s1 with fab := { s1.fab with tx := s1.fab.tx.filter fun t => !lost.contains t.dst, rx := s1.fab.rx.filter fun t => !lost.contains t.src,
                                 pacers := s1.fab.pacers.filter fun x => !lost.contains x.src,
                                 heard := s1.fab.heard.filter fun e => !lost.contains e.1 } }

/-- RECOVERY_ABORT, stage 3: a capture in progress is SPOILED, while its set reads RECOVERING. -/
def execRecoveryAbort (s : State) : Out :=
  s.inRecovery 2 fun r =>
    let s1 := s.endWith r.lost
    let spoiled (s : State) (q : Nat) : State := s.setSnap q { s.snap q with state := 5, cause := BitVec.ofNat 8 SpoilCause.member }
    (r.inProgress.foldl spoiled s1).toStage r 3

/-- The FP32 value of 1/n, rounded RNE (R146). -/
def reciprocal (n : Nat) : W32 := BitVec.ofNat 32 (fp32.exact (FVal.div (FVal.ofInt 1) (FVal.ofInt n)).1)

/-- Rebuilds a group over its survivors, with its spare for the lost rank that is lowest (R146). Answers the ranks lost. -/
def State.rebuildGroup (s : State) (g : Nat) (lost : List Nat) : State × List (Nat × Nat × Bool) :=
  let x := s.group g
  let ranks := ((s.members g).zipIdx.filter fun e => lost.contains e.1.1).map (·.2)
  let taken : Option (Nat × Nat) := (x.spare.filter fun sp => !lost.contains sp).bind fun sp => (ranks.head?).map fun r => (r, sp)
  let s1 := match taken with
    | some (r, sp) => (s.setMember (x.pool + r) sp false).setReg (Mmio.group g) (setBits (s.reg (Mmio.group g)) 51 51 0)
    | none => s
  let gone := ranks.filter fun r => taken.map (·.1) != some r
  let left := (s1.members g).zipIdx.filter fun e => !gone.contains e.2
  let s2 := left.zipIdx.foldl (fun s e => s.setMember (x.pool + e.2) e.1.1.1 e.1.1.2) s1
  let n : Nat := left.length
  let lo := s2.reg (Mmio.group g)
  let hi := s2.reg (Mmio.group g + 8)
  let s3 := if n = 0 then s2.setReg (Mmio.group g) (setBits lo 0 0 0)
    else (s2.setReg (Mmio.group g) (setBits lo 63 60 ((n - 1) % 16))).setReg (Mmio.group g + 8)
      (setBits (setBits hi 5 0 ((n - 1) / 16)) 63 32 (reciprocal n).toNat)
  (s3, ranks.map fun r => (g, r, taken.map (·.1) == some r))

/-- The registers that stages 4 and 6 change. -/
def State.treeRegs (s : State) (gs : List Nat) : List (Nat × W64) :=
  let regs := gs.flatMap fun g => [Mmio.group g, Mmio.group g + 8] ++
    (List.range (s.group g).count).map fun r => Mmio.member (((s.group g).pool + r) / 4 * 4)
  (distinct (regs ++ (List.range 64).map Mmio.snapSet)).map fun a => (a, s.reg a)

/-- RECOVERY_TREES, stage 4. A spare takes the place of its member in the group's sets. -/
def execRecoveryTrees (s : State) : Out :=
  s.inRecovery 3 fun r =>
    let gs := distinct (r.lost.flatMap fun p => s.groupsOf p)
    let z := gs.foldl (fun (a : State × List (Nat × Nat × Bool)) g => let b := a.1.rebuildGroup g r.lost; (b.1, a.2 ++ b.2)) (s, [])
    let place (t : State) (q : Nat) : State :=
      let x := t.snapDesc q
      match z.2.find? fun e => e.1 == x.group && e.2.2 with
      | some e => if x.valid ∧ x.code ≠ 0 ∧ (s.group x.group).spare = some s.pkg then
          t.setReg (Mmio.snapSet q) (setBits (t.snapCtl q) 39 36 e.2.1) else t
      | none => t
    ((List.range 64).foldl place z.1).toStage { r with ranks := z.2, before := s.treeRegs gs } 4

/-! ### Stage 5: the lost units (R147) -/

/-- Product and inverse in GF(2^8). -/
def gfMul (a b : W8) : W8 := (List.range 8).foldl (fun z i => if b.getLsbD i then z ^^^ gfScale i a else z) 0
def gfInv (a : W8) : W8 := (List.range 253).foldl (fun z _ => gfMul z a) a

/-- A unit as it was found: its bytes with their damage. -/
abbrev Unit8 := List (W8 × Bool)

def addUnits (a b : Unit8) : Unit8 := (a.zip b).map fun e => (e.1.1 ^^^ e.2.1, e.1.2 || e.2.2)
def scaleUnit (k : W8) (a : Unit8) : Unit8 := a.map fun e => (gfMul k e.1, e.2)

def Recovery.ranksOf (r : Recovery) (g : Nat) : List (Nat × Bool) := (r.ranks.filter fun e => e.1 == g).map (·.2)

/-- Member j's data unit in a stripe; none where it holds parity there. -/
def SnapDesc.unitIn (d : SnapDesc) (st j : Nat) : Option Nat :=
  let free := (List.range d.n).filter fun x => !(d.skip j).contains x
  (free.idxOf? (st % d.n)).map fun r => st / d.n * d.k + r

/-- Bytes at addresses of this package, with their poison. -/
def State.unitAt (s : State) (pas : List (Option Nat)) : Unit8 :=
  pas.map fun a => match a with
    | some pa => (s.byteAt pa, s.isBad pa)
    | none => (0, false)

/-- A survivor's unit of the FIXED capture: this package's own, or one that was fetched. -/
def State.survivor (s : State) (us : List StripeUnit) (q member : Nat) (parity : Bool) (index : Nat) : Option Unit8 :=
  let x := s.snapDesc q
  let c := s.snap q
  if member = x.member then
    if parity then some (s.unitAt ((List.range x.unit).map fun i => some ((s.parityPa q c.fpar index).2 + i)))
    else some (s.unitAt ((List.range x.unit).map fun i => s.imagePa q c.fslot (x.unit * index + i)))
  else (us.find? fun u => u.set == q && u.member == member && u.parity == parity && u.index == index).map fun u =>
    (List.range x.unit).map fun i => (u.bytes.getD i 0, u.bad.contains i)

/-- What the solution of a stripe comes to. -/
inductive Solved where
  /-- A survivor's unit is not here yet. -/
  | waits
  /-- More units are lost than the code restores. -/
  | lost
  | unit (u : Unit8)
deriving DecidableEq, Repr, Inhabited

/-- Solves the data unit of lost member j in a stripe (R144, R147) (DEDUCED, unsafe, log 73). -/
def State.solve (s : State) (us : List StripeUnit) (q : Nat) (lost : List Nat) (st j : Nat) : Solved :=
  let x := s.snapDesc q
  let data := (List.range x.n).filter fun m => (x.unitIn st m).isSome
  let gone := data.filter fun m => lost.contains m
  let pUp := !lost.contains (x.pHolder st)
  let qUp := x.code == 2 && !lost.contains (x.qHolder st)
  let get (m : Nat) : Option Unit8 := (x.unitIn st m).bind fun u => s.survivor us q m false u
  let rest := (data.filter fun m => !lost.contains m).mapM fun m => (get m).map fun u => (x.position st m, u)
  let zero : Unit8 := List.replicate x.unit (0, false)
  let p := s.survivor us q (x.pHolder st) true (x.parityUnit (x.pHolder st) st false)
  let qq := s.survivor us q (x.qHolder st) true (x.parityUnit (x.qHolder st) st true)
  match rest with
  | none => .waits
  | some ds =>
    let sumP (a : Unit8) : Unit8 := ds.foldl (fun z e => addUnits z e.2) a
    let sumQ (a : Unit8) : Unit8 := ds.foldl (fun z e => addUnits z (scaleUnit (gfScale e.1 1) e.2)) a
    match gone with
    | [_] =>
      if pUp then (p.map fun a => Solved.unit (sumP a)).getD .waits
      else if qUp then (qq.map fun a => Solved.unit (scaleUnit (gfInv (gfScale (x.position st j) 1)) (sumQ a))).getD .waits
      else .lost
    | [a, b] =>
      if !pUp ∨ !qUp then .lost
      else match p, qq with
        | some pu, some qu =>
          let i := gfScale (x.position st a) 1
          let l := gfScale (x.position st b) 1
          let da := scaleUnit (gfInv (i ^^^ l)) (addUnits (sumQ qu) (scaleUnit l (sumP pu)))
          .unit (if j = a then da else addUnits (addUnits zero (sumP pu)) da)
        | _, _ => .waits
    | _ => .lost

/-- The parity whose place a lost unit of member j takes in a stripe: its holder, and whether it is Q (R147). -/
def SnapDesc.placeOf (x : SnapDesc) (ranks : List (Nat × Bool)) (st j : Nat) : Nat × Bool :=
  let open_ := (ranks.filter fun e => !e.2 && (x.unitIn st e.1).isSome).map (·.1)
  let useQ := x.code == 2 && (ranks.any (fun e => e.1 == x.pHolder st) || open_.any fun m => decide (m < j))
  (if useQ then x.qHolder st else x.pHolder st, useQ)

/-- Where this package writes a rebuilt unit, if it does: the spare's log slot, or in place of parity that it holds (R147). -/
def State.rebuildAt (s : State) (q : Nat) (ranks : List (Nat × Bool)) (st j u : Nat) : Option (List (Nat × Option Nat)) :=
  let x := s.snapDesc q
  let c := s.snap q
  if ranks.contains (j, true) then
    if x.member = j then some ((List.range x.unit).map fun i => (i, s.imagePa q c.fslot (x.unit * u + i))) else none
  else
    let w := x.placeOf ranks st j
    if w.1 = x.member then
      let t := x.parityUnit w.1 st w.2
      some ((List.range x.unit).map fun i => (i, some ((s.parityPa q c.fpar t).2 + i)))
    else none

/-- The map of a set's units that take a parity unit's place to their holders: member, unit, holder (R147). -/
def State.holderMap (s : State) (r : Recovery) (q : Nat) : List (Nat × Nat × Nat × Nat) :=
  let x := s.snapDesc q
  let ranks := r.ranksOf x.group
  (ranks.filter fun e => !e.2).flatMap fun e => (List.range (s.dataUnits q)).map fun u => (q, e.1, u, (x.placeOf ranks (x.stripe e.1 u) e.1).1)

/-- A rebuilt unit that this package writes: set, member, unit, addresses and content. -/
structure Rebuilt where
  set : Nat
  member : Nat
  index : Nat
  pas : List (Nat × Option Nat)
  content : Solved
deriving DecidableEq, Repr, Inhabited

def State.rebuiltUnits (s : State) (us : List StripeUnit) (r : Recovery) (q : Nat) : List Rebuilt :=
  let x := s.snapDesc q
  let ranks := r.ranksOf x.group
  let lost := ranks.map (·.1)
  lost.flatMap fun j => (List.range (s.dataUnits q)).filterMap fun u =>
    let st := x.stripe j u
    (s.rebuildAt q ranks st j u).map fun pas => { set := q, member := j, index := u, pas, content := s.solve us q lost st j }

/-- Writes a rebuilt unit through the OWQ; sectors with damaged bytes are written poisoned, the others clean. -/
def State.writeRebuilt (s : State) (b : Rebuilt) : State :=
  match b.content with
  | .unit d =>
    let ws : List (Nat × W8 × Bool) := b.pas.filterMap fun e => e.2.map fun pa => (pa, d.getD e.1 (0, false))
    let s1 := { s with mem := Tab.putAll s.mem (fun _ => 0) (ws.map fun (e : Nat × W8 × Bool) => (e.1, e.2.1)) }
    let hurt := (ws.filter fun (e : Nat × W8 × Bool) => e.2.2).map fun (e : Nat × W8 × Bool) => sectorOf e.1
    let s2 := { s1 with bad := addNats (dropNats s1.bad (ws.map fun (e : Nat × W8 × Bool) => sectorOf e.1)) hurt }
    (distinct (ws.map fun e => lineOf e.1)).foldl (fun s l =>
      let s' := { s with tags := s.tags.put0 l (s.snap b.set).fstep }
      match homeDie (128 * l) with
      | some die => s'.accept die l (s'.bytesAt (128 * l) 128) (lineMask (ws.map fun e => (e.1, (0 : W8))) l) (s'.tagOf l) (s'.lineBad l)
      | none => s') s2
  | _ => s

def Solved.hurt : Solved → Bool
  | .unit d => d.any (·.2)
  | _ => false

/-- This package is the spare that has taken a set's member. -/
def State.isSpare (s : State) (r : Recovery) (q : Nat) : Bool :=
  let x := s.snapDesc q
  (r.ranksOf x.group).contains (x.member, true)

/-- A spare takes over the FIXED capture that the survivors' units belong to: its step, CSEQ and slots (R147, R407). -/
def State.adopt (s : State) (r : Recovery) (units : List StripeUnit) : State :=
  ((s.recoverySets r).filter fun q => s.isSpare r q && !(s.snap q).fvalid).foldl (fun s q =>
    match units.find? fun u => u.set == q with
    | some u => s.setSnap q { s.snap q with cseq := u.cseq, cstep := u.step, fstep := u.step, lstep := u.step, walkedOnce := true, fvalid := true,
                                            fslot := u.slot, fpar := u.par }
    | none => s) s

/-- RECOVERY_REBUILD, stage 5. It ends once every survivor's unit that this package needs is here. A set without a FIXED
capture, or with more losses than its code restores, ends the recovery: the job is LOST (R148). -/
def execRecoveryRebuild (units : List StripeUnit) (s : State) : Out :=
  s.inRecovery 4 fun r =>
    let sets := s.recoverySets r
    let s := s.adopt r units
    let all := sets.flatMap fun q => s.rebuiltUnits units r q
    if r.failed ∨ sets.any (fun q => !(s.snap q).fvalid && !s.isSpare r q) ∨ all.any (fun b => b.content == .lost) then
      s.toStage { r with failed := true } 7
    else if sets.any fun q => !(s.snap q).fvalid then s
    else if all.any fun b => b.content == .waits then s
    else
      let hurt := (all.filter fun b => b.content.hurt).map fun b => (b.set, b.index)
      let done := all.map fun b => ({ set := b.set, member := b.member, parity := false, index := b.index, bytes := [], bad := [] } : StripeUnit)
      let pas := all.flatMap fun b => b.pas.filterMap (·.2)
      (all.foldl (fun s b => s.writeRebuilt b) s).toStage
        { r with poisoned := r.poisoned ++ hurt, rebuilt := done, holders := sets.flatMap fun q => s.holderMap r q,
                 replaced := pas.map fun a => (a, s.byteAt a), replacedBad := (distinct (pas.map sectorOf)).filter s.bad.contains } 5

/-! ### Stage 6: the new geometry -/

/-- Bytes of a parity slot on a die (R143). -/
def State.psize (s : State) (q : Nat) : Nat :=
  let x := s.snapDesc q
  if x.k = 0 then 0 else (s.dataUnits q * x.m + 4 * x.k - 1) / (4 * x.k) * x.unit

/-- A set's K, MEMBER and CODE after the losses that no spare replaces; its parity is recomputed under a new CSEQ whose log
slot is that of the FIXED capture (DEDUCED, unsafe, log 74). -/
def State.restripe (s : State) (r : Recovery) (q : Nat) : State × Bool :=
  let x := s.snapDesc q
  let c := s.snap q
  let open_ := ((r.ranksOf x.group).filter fun e => !e.2).map (·.1)
  let k := x.k - open_.length
  let below := (open_.filter fun m => decide (m < x.member)).length
  let ctl := setBits (setBits (s.snapCtl q) 11 8 k) 39 36 (x.member - below)
  let s1 := s.setReg (Mmio.snapSet q) ctl
  let tooBig := decide (k = 0) || (!open_.isEmpty && decide (s.psize q < s1.psize q))
  if tooBig then (s.setReg (Mmio.snapSet q) (setBits (s.snapCtl q) 5 4 0), true)
  else
    let next := if (c.cseq + 1) % 2 = c.fslot then c.cseq + 1 else c.cseq + 2
    (s1.setSnap q { c with cseq := next, cstep := c.fstep, sent := [], awaits := [], cause := 0 }, false)

/-- RECOVERY_RESTRIPE, stage 6: the parity units then leave by PARITY_UNIT_SEND. -/
def execRecoveryRestripe (s : State) : Out :=
  s.inRecovery 5 fun r =>
    let z := (s.recoverySets r).foldl (fun (a : State × List Nat) q => let b := a.1.restripe r q; (b.1, if b.2 then a.2 ++ [q] else a.2)) (s, [])
    z.1.toStage { r with unprotected := r.unprotected ++ z.2 } 6

/-! ### Stage 7: resume -/

/-- Stops every instance of a set's step region (R145). -/
def State.killRegion (s : State) (part : Nat) (holder : W64) : State := s.killWhere fun i => i.part == part && i.region.stepRcb == holder

/-- Copies the FIXED log slot back to the live range, with its tags and poison. -/
def State.restoreRange (s : State) (q : Nat) : State :=
  let c := s.snap q
  let one (d : Nat) (s : State) (j : Nat) : State :=
    let src := lineOf (s.logbase q d + c.fslot * s.rsize q d) + j
    let dst := lineOf (s.rbase q d) + j
    let s1 := s.snapPut (128 * dst) (s.bytesAt (128 * src) 128) ((s.lineBad src).map fun x => x - 2 * src + 2 * dst)
    let s2 := { s1 with secKey := (List.range 2).foldl (fun t i => Tab.put t (fun _ => 0) (2 * dst + i) (s.secKey.getD (fun _ => 0) (2 * src + i))) s1.secKey,
                        tags := s1.tags.put0 dst (s.tagOf src) }
    ((s2.invalidateL1 dst none).setL2 dst L2Line.absent).acceptLine d dst
  let s1 := (List.range 4).foldl (fun s d => (List.range (s.rsize q d / 128)).foldl (one d) s) s
  [0, 48, 96, 144].foldl (fun s core => s.selfInvalidate core) s1

/-- The map goes with the argument block that the packet names: its length, then a word for each unit (R147) (DESIGN CHOICE, unsafe,
log 100). -/
def State.passMap (s : State) (p : Nat) (args : W64) (m : List (Nat × Nat × Nat × Nat)) : State :=
  if m.isEmpty ∨ args = 0 then s
  else (m.zipIdx.foldl (fun s e => s.deviceWrite p (args.toNat + 8 + 8 * e.2) (leBytes 8 (e.1.2.2.1 + 2 ^ 32 * e.1.2.1 + 2 ^ 40 * e.1.2.2.2))) s).deviceWrite
    p args.toNat (leBytes 8 m.length)

/-- One set resumes: its region is killed, its range restored, PSTEP becomes FSTEP + 1 and RESUME's packet is launched with the map of
rebuilt units. -/
def State.resumeSet (s : State) (r : Recovery) (q : Nat) : State :=
  let x := s.snapDesc q
  let holder := s.reg (Mmio.snapSet q + 8)
  let c := s.snap q
  let s1 := (s.killRegion x.part holder).restoreRange q
  let step := c.fstep + 1
  let va := holder.toNat + 0x28
  let s2 := match s1.deviceVa x.part va with
    | some e => s1.writeAt (e.device step) (e.pa va) (leBytes 2 step.toNat)
    | none => s1
  match s2.deviceRead x.part (s.reg (Mmio.snapSet q + 0x10)).toNat 64 with
  | some pkt => (s2.passMap x.part (rcbWordOf pkt 0x10) (r.holders.filter fun e => e.1 == q)).consumePacket x.part 0 pkt
  | none => s2.note (.notice 145 (BitVec.ofNat 64 (2 ^ 48 + q)))

/-- RECOVERY_RESUME, stage 7 (DEDUCED, unsafe, log 75). -/
def execRecoveryResume (s : State) : Out :=
  s.inRecovery 6 fun r =>
    let sets := (List.range 64).filter fun q => (s.snap q).state == 5
    if sets.any fun q => !s.restriped q then s
    else
      ((sets.foldl (fun s q => s.afterStripe r q) s).toStage r 7) |> fun s1 => sets.foldl (fun s q => s.resumeSet r q) s1

/-- RECOVERY_REPORT, stage 8. -/
def execRecoveryReport (s : State) : Out := s.inRecovery 7 fun r => { s.postReport r with recovery := none }

end Sys2Proof.Machine
end

