-- ==== Sys2Proof/Machine/EvMmio.lean ====
section
/-! DEFINITION. MMIO_REGISTER_WRITE: the device's registers by address (R10 and the rules named), and who may write them. -/

namespace Sys2Proof.Machine

/-- A register whose reserved bits are zero is written whole (R10). -/
def State.putReg (s : State) (pa : Nat) (mask v : W64) : State := if clearOf v mask then s.setReg pa v else s.ignore pa

/-- LAPCFG (R191). -/
def State.writeLapcfg (s : State) (pa : Nat) (v : W64) : State :=
  if pa = Mmio.lapcfg then
    if !clearOf v 0x1F ∨ v.toNat < 8 ∨ 16 < v.toNat then s.ignore pa else s.setReg pa v
  else s.putReg pa 0xFFFFFFFF v

/-- MEMCFG (R73). -/
def State.writeMemcfg (s : State) (pa : Nat) (v : W64) : State :=
  let locked := s.keys.any fun e => e.2.integ && e.2.state == .loaded
  if !clearOf v 0x3F07 ∨ 6 < bits v 2 0 ∨ 32 < bits v 13 8 ∨ locked then s.ignore pa else s.setReg pa v

/-- TRIMCFG (R395): a threshold below 4,096 stores 4,096. -/
def State.writeTrimcfg (s : State) (pa : Nat) (v : W64) : State :=
  if !clearOf v 0x0000FFFF000FFFFF then s.ignore pa
  else s.setReg pa (if bits v 19 0 < 4096 then setBits v 19 0 4096 else v)

/-- Pool entries of a group. -/
def CollGroup.entries (x : CollGroup) : Nat × Nat := (x.pool, x.count)

/-- A collective group's words (R398): no two valid groups overlap in the pool. -/
def State.writeGroup (s : State) (pa : Nat) (v : W64) : State :=
  let o := pa - Mmio.group 0
  let g := o / 16
  let mask : W64 := if o % 16 = 0 then 0xFFFFF80000000001 else 0xFFFFFFFFFFFF003F
  let s1 := s.setReg pa v
  let x := s1.group g
  let others := s1.mmio.filterMap fun e =>
    if Mmio.group 0 ≤ e.1 ∧ e.1 < Mmio.group 4096 ∧ e.1 % 16 = 0 ∧ e.1 ≠ Mmio.group g then some ((e.1 - Mmio.group 0) / 16) else none
  let clash := x.valid && others.any fun h => (s1.group h).valid && overlaps (s1.group h).entries x.entries
  if !clearOf v mask ∨ clash ∨ (x.valid ∧ 65536 < x.pool + x.count) then s.ignore pa else s1

/-- Four member entries (R398): member recovery alone sets DOWN. -/
def State.writeMembers (s : State) (pa : Nat) (v : W64) : State :=
  let old := s.reg pa
  if !clearOf v 0x01FF01FF01FF01FF then s.ignore pa
  else s.setReg pa ((v &&& 0x00FF00FF00FF00FF) ||| (old &&& 0x0100010001000100))

/-- The registers of a core's block (R53, R54): the RRT takes no direct write. -/
def State.writeCoreBlock (s : State) (c off : Nat) (v : W64) : Out :=
  let pa := Mmio.core c + off
  if off < 0x2200 then .next (s.drop pa)
  else if off < 0x4A00 then execRvtWrite (BitVec.ofNat 8 c) (BitVec.ofNat 11 ((off - 0x2200) / 8)) v true s
  else if off < 0x4A28 then execWayViabilityWrite false (BitVec.ofNat 8 c) (BitVec.ofNat 8 ((off - 0x4A00) / 8)) v true s
  else if off = 0x4A40 then .next (s.rrtxchg c v)
  else if off = 0x4A48 then .next (s.corectl c v)
  else .next (s.drop pa)

/-- The registers of a die's block (R32, R53, R73, R91, R181, R371). -/
def State.writeDieBlock (s : State) (d off : Nat) (v : W64) : Out :=
  let pa := Mmio.die d + off
  let die := BitVec.ofNat 2 d
  if off < 0x500 then execWayViabilityWrite true (BitVec.ofNat 8 d) (BitVec.ofNat 8 (off / 8)) v true s
  else if off = 0x1000 then .next (s.writeMemcfg pa v)
  else if off = 0x1100 then execXlrbaseWrite die v true s
  else if off = 0x1110 then execXlrtailWrite die v true s
  else if off = 0x1120 then execCrbaseWrite die v true s
  else if off = 0x1130 then execCrtailWrite die v true s
  else if off = 0x1140 then .next (s.putReg pa 0x000FFFFFFFC00001 v)
  else .next (s.drop pa)

/-- A supervisor's write of 8 bytes at an offset of the MMIO space. Registers that the spec makes read-only, and addresses
without a register, drop it. -/
def State.writeMmio (s : State) (o : Nat) (v : W64) : Out :=
  let pa := Mmio.base + o
  if o % 8 ≠ 0 then .next (s.drop pa)
  else if 0x10000 ≤ o ∧ o < 0x11000 ∧ o % 256 = 0 then .next (s.putReg pa 0x000FFFFFFFFF0001 v)
  else if o = 0x20000 then (if bits v 1 0 = 1 then .next (s.fix v) else if bits v 1 0 = 2 then .next (s.deny v) else .next (s.ignore pa))
  else if o = 0x20008 then .next (s.xlinv v)
  else if o = 0x30000 then .next (s.opctl v)
  else if 0x40000 ≤ o ∧ o < 0x44000 then .next (s.writeSnapDesc ((o - 0x40000) / 256) (o % 256) v)
  else if 0x50000 ≤ o ∧ o < 0x50078 then .next (s.writeLapcfg pa v)
  else if o = 0x60000 then .next (s.swapctl v)
  else if o = 0x70000 then
    (if bits v 34 32 = 5 ∧ clearOf v 0x7FFFFFFFF then execFrzRelease (v.setWidth 32) true s
     else if clearOf v 0x7FFFFFFFF ∧ bits v 34 32 ≤ 4 then .next (s.frzdec (v.setWidth 32) (bits v 34 32)) else .next (s.ignore pa))
  else if o = 0x70010 then .next (s.setReg pa v)
  else if o = 0x70018 then .next (s.errpost v)
  else if 0x80000 ≤ o ∧ o < 0x90000 then .next (s.writeQp ((o - 0x80000) / 64) (o % 64) v)
  else if 0x90000 ≤ o ∧ o < 0x91000 ∧ o % 256 = 0 then .next (s.writeTrimcfg pa v)
  else if 0xA0000 ≤ o ∧ o < 0xB0000 then .next (s.writeGroup pa v)
  else if 0xC0000 ≤ o ∧ o < 0xE0000 then .next (s.writeMembers pa v)
  else if o = 0xE0000 then .next (s.pwrcap v)
  else if 0xF0000 ≤ o ∧ o < 0x100000 then .next (s.writeDescriptor ((o - 0xF0000) / 4096) (o % 4096) v)
  else if o = 0x110000 then .next (s.keyctl v)
  else if o = 0x110008 then .next (s.putReg pa 0x000FFFFFFFFFF000 v)
  else if 0x1000000 ≤ o ∧ o < 0x1C00000 then s.writeCoreBlock ((o - 0x1000000) / 65536) (o % 65536) v
  else if 0x2000000 ≤ o ∧ o < 0x2040000 then s.writeDieBlock ((o - 0x2000000) / 65536) (o % 65536) v
  else .next (s.drop pa)

/-- MMIO_REGISTER_WRITE: every register that this model holds is written by the supervisor only. -/
def execMmioRegisterWrite (pa v : W64) (sup : Bool) (s : State) : Out :=
  if !sup ∨ pa.toNat < Mmio.base then .next (s.drop pa.toNat) else s.writeMmio (pa.toNat - Mmio.base) v

end Sys2Proof.Machine
end

