-- ==== Sys2Proof/Machine/EvBoot.lean ====
section
/-! DEFINITION. Services: mailboxes (R409 to R412), service calls (R267, R413), telemetry (R414), the loss of input power
(R96 to R98) and the boot (R408). The layouts of arguments and responses are the model's (DESIGN CHOICE, unsafe, log 18). -/

namespace Sys2Proof.Machine

def State.setAdmin (s : State) (f : Admin → Admin) : State := { s with admin := f s.admin }

/-! ### Mailboxes (R412) -/

namespace BoxStatus
def ok : Nat := 0
def badcmd : Nat := 1
def denied : Nat := 2
def verify : Nat := 4
end BoxStatus

/-- Longest argument and response. -/
def maxArgs : Nat := 2040
def maxData : Nat := 2032

def State.respondBox (s : State) (fn : Nat) (tag : W16) (status : Nat) (data : List W8) : State :=
  s.setAdmin fun a => { a with boxes := Tab.upd a.boxes (fun _ => Mailbox.reset) fn fun b => { b with status, tag, data := data.take maxData } }

def State.box (s : State) (fn : Nat) : Mailbox := Tab.getD s.admin.boxes (fun _ => Mailbox.reset) fn

/-- Whether a function's mailbox answers: the physical function's from stage 5, or in recovery mode; a virtual function's
while it is bound (R380, R408). -/
def State.boxOpen (s : State) (fn : Nat) : Bool :=
  if s.admin.off || s.admin.holdup then false
  else if fn = 0 then decide (5 ≤ s.admin.stage) || s.admin.failed.isSome
  else decide (fn ≤ 16) && s.admin.bound.contains (fn - 1)

/-- One request: `phys` for the physical function only, `rescue` for those that a device stopped in stage 1 accepts; one that has failed in
a later stage creates no partition either (R408). A submit while a request is in progress is dropped and logged. -/
def mailbox (phys rescue : Bool) (fn : BitVec 5) (tag : W16) (args : List W8) (s : State) (k : State → State × Nat × List W8) : Out :=
  let f := fn.toNat
  if !s.boxOpen f then .next s
  else if (s.box f).busy then .next (s.note (.notice 412 (BitVec.ofNat 64 f)))
  else if maxArgs < args.length ∨ (s.admin.failed = some 1 ∧ !rescue) then .next (s.respondBox f tag BoxStatus.badcmd [])
  else if phys ∧ f ≠ 0 then .next (s.respondBox f tag BoxStatus.denied [])
  else let r := k s; .next (r.1.respondBox f tag r.2.1 r.2.2)

/-- GETINFO: security version, boot stage or failed stage, SUSPECT, OPNOW, CAP. -/
def execMailboxGetinfo (fn : BitVec 5) (tag : BitVec 16) (args : List W8) (s : State) : Out :=
  mailbox false true fn tag args s fun s =>
    let a := s.admin
    let image := a.slots.getD a.active []
    (s, BoxStatus.ok, bytes64 (Config.imageVersion image) ++ leBytes 1 a.stage ++ leBytes 1 ((a.failed.map fun f => f + 128).getD 0) ++
      leBytes 1 a.suspect.toNat ++ leBytes 1 s.power.point ++ leBytes 2 (bits (s.reg Mmio.pwrcap) 15 0))

/-- The 4 KiB descriptor of a partition. -/
def State.descriptorBytes (s : State) (p : Nat) : List W8 := (List.range 512).flatMap fun i => bytes64 (s.part p (8 * i))

/-- What ATTEST reports to a function (R410): its nonce; a virtual function's encapsulation key; the measurements of the ROM, the active image,
the installed proof kernels and a virtual function's partition descriptor; the security version; the GTB. -/
def State.attestation (s : State) (fn : Nat) (nonce : List W8) : List W8 :=
  let image := s.admin.slots.getD s.admin.active []
  nonce ++ (if fn = 0 then [] else Config.encapsulationKey (fn - 1)) ++ sha256 Config.romImage ++ sha256 image ++
    (s.admin.kernels.flatMap fun (k : ProofKernel) => sha256 k.image) ++ (if fn = 0 then [] else sha256 (s.descriptorBytes (fn - 1))) ++
    bytes64 (Config.imageVersion image) ++ bytes64 s.gtb

/-- ATTEST (R410): the report with the identity key's signature and its certificate, as far as the response has room (DESIGN CHOICE, unsafe,
log 18). -/
def execMailboxAttest (fn : BitVec 5) (tag : BitVec 16) (args : List W8) (s : State) : Out :=
  mailbox false false fn tag args s fun s =>
    let r := s.attestation fn.toNat args
    if args.length ≠ 32 then (s, BoxStatus.badcmd, []) else (s, BoxStatus.ok, r ++ Config.identitySign r ++ Config.identityCertificate)

/-- SETOP: the target point, and the upper bound of R411. -/
def execMailboxSetop (fn : BitVec 5) (tag : BitVec 16) (args : List W8) (s : State) : Out :=
  mailbox true false fn tag args s fun s =>
    let t := (args.headD 255).toNat
    if 4 < t then (s, BoxStatus.badcmd, [])
    else ((s.setPower fun p => { p with bound := t }).requestStep t, BoxStatus.ok, [])

/-- SETCAP: a value outside 600 to 2,300 is ignored and logged (R411). -/
def execMailboxSetcap (fn : BitVec 5) (tag : BitVec 16) (args : List W8) (s : State) : Out :=
  mailbox true false fn tag args s fun s =>
    match s.putCap (leNat (args.take 2)) with
    | some s1 => (s1, BoxStatus.ok, [])
    | none => (s.ignore Mmio.pwrcap, BoxStatus.badcmd, [])

/-- Bins of a section (R414) (DESIGN CHOICE, unsafe, log 78). -/
def sectionBins (k : Nat) : Nat :=
  if k = 1 ∨ k = 2 then 16 else if k = 3 then 5 * 268 else if k = 4 then 192 * 5 else if k = 5 then 4 else if k = 6 then 64
  else if k = 7 then 80 else if k = 8 then 6 else 0

/-- Bins of a section as the lifetime area holds it, that of failures included (R377). -/
def lifetimeBins (k : Nat) : Nat := if k = failureSection then 3840 else sectionBins k

/-- Counts of a section as last written. -/
def State.sectionCounts (s : State) (k : Nat) : List Nat :=
  (List.range (lifetimeBins k)).map fun i => Tab.getD s.admin.histWritten (fun _ => 0) (65536 * k + i)

/-- HIST: header and counts of a section as of the last write. -/
def execMailboxHist (fn : BitVec 5) (tag : BitVec 16) (args : List W8) (s : State) : Out :=
  mailbox false false fn tag args s fun s =>
    let k := (args.headD 0).toNat
    if sectionBins k = 0 then (s, BoxStatus.badcmd, [])
    else (s, BoxStatus.ok, leBytes 4 k ++ leBytes 4 (sectionBins k) ++ (s.sectionCounts k).flatMap (leBytes 8))

/-! ### Firmware (R376, R409) -/

/-- R409's three conditions. -/
def State.accepts (s : State) (image : List W8) : Bool :=
  Config.signatureVerifies (Config.imageKey image) (sha256 (Config.imageBody image)) (Config.imageSignature image) &&
    sha256 (Config.imageKey image) == Config.fusedKeyHash && decide (s.admin.counter ≤ Config.imageVersion image)

/-- FWSTAGE: bytes of the inactive slot: offset and total length, 4 bytes each, then the bytes. -/
def execFwstage (fn : BitVec 5) (tag : BitVec 16) (args : List W8) (s : State) : Out :=
  mailbox true true fn tag args s fun s =>
    let off := leNat (args.take 4)
    let total := leNat ((args.drop 4).take 4)
    let bs := args.drop 8
    let i := 1 - s.admin.active
    let old := (s.admin.slots.getD i []).take off
    let img := old ++ List.replicate (off - old.length) 0 ++ bs
    (s.setAdmin fun a => { a with slots := a.slots.set i img, staged := decide (img.length = total) && decide (8 ≤ args.length) }, BoxStatus.ok, [])

/-- FWCOMMIT: verifies the inactive slot, makes it active and raises the counter. -/
def execFwcommit (fn : BitVec 5) (tag : BitVec 16) (args : List W8) (s : State) : Out :=
  mailbox true true fn tag args s fun s =>
    let i := 1 - s.admin.active
    let img := s.admin.slots.getD i []
    if !s.admin.staged ∨ !s.accepts img then (s, BoxStatus.verify, [])
    else (s.setAdmin fun a => { a with active := i, staged := false, counter := Config.imageVersion img }, BoxStatus.ok, [])

/-- PROOFLOAD: a kernel's number in 4 bytes, then its image. -/
def execProofload (fn : BitVec 5) (tag : BitVec 16) (args : List W8) (s : State) : Out :=
  mailbox true false fn tag args s fun s =>
    let id := leNat (args.take 4)
    let image := args.drop 4
    if !s.accepts image then (s, BoxStatus.verify, [])
    else (s.setAdmin fun a => { a with kernels := (a.kernels.filter fun k => k.id != id) ++ [{ id, image }] }, BoxStatus.ok, [])

/-! ### Partitions (R23, R380, R412) -/

/-- Descriptor words: offset in 2 bytes and word in 8. -/
def configWords (p : Nat) : List W8 → Nat → List (Nat × Nat × W64)
  | _, 0 => []
  | bs, fuel + 1 =>
    if bs.length < 10 then [] else (p, leNat (bs.take 2) % 4096, word64 ((bs.drop 2).take 8)) :: configWords p (bs.drop 10) fuel

def State.applyConfig (s : State) (l : List (Nat × Nat × W64)) : State := l.foldl (fun s e => s.writeDescriptor e.1 e.2.1 e.2.2) s

/-- PARTCFG, which a device that has failed to boot does not do (R408): a partition's number, then descriptor words in the order in which they are written. -/
def execPartcfg (fn : BitVec 5) (tag : BitVec 16) (args : List W8) (s : State) : Out :=
  mailbox true false fn tag args s fun s =>
    let p := (args.headD 255).toNat
    if 16 ≤ p ∨ s.admin.failed.isSome then (s, BoxStatus.badcmd, [])
    else
      let l := configWords p (args.drop 1) args.length
      let keep (e : Nat × Nat × W64) : Bool := !(l.any fun x => x.2.1 == e.2.1 && e.1 == p)
      ((s.applyConfig l).setAdmin fun a => { a with config := a.config.filter keep ++ l, bound := addNats a.bound [p] }, BoxStatus.ok, [])

/-! ### Service calls (R267, R413) -/

def allOnes : W64 := BitVec.allOnes 64

/-- Does the service that the oldest unanswered call of a die names. -/
def serve (code : Nat) (die : BitVec 2) (s : State) (k : SvcCall → State → State × W64) : Out :=
  match (s.die die.toNat).svc.find? fun c => c.reply.isNone with
  | none => .next s
  | some c =>
    if c.code.toNat ≠ code then .next s
    else
      let r := k c s
      .next (r.1.updDie die.toNat fun x => { x with svc := x.svc.map fun e => if e.who = c.who ∧ e.reply = none then { e with reply := some r.2 } else e })

def State.callerPart (s : State) (c : SvcCall) : Nat := ((s.squad? c.who.sid).map (·.part)).getD 0

/-- Appends 64 bytes to the partition's host log. Bytes that cannot be read append nothing, and the reply is a free value (DESIGN CHOICE, safe, log 6) (DEDUCED, unsafe, log 77). -/
def execSvcHostLog (die : BitVec 2) (s : State) : Out :=
  serve 1 die s fun c s =>
    let p := s.callerPart c
    match if c.arg.toNat < 2 ^ 55 then s.deviceRead p c.arg.toNat 64 else none with
    | some bs => (s.setAdmin fun a => { a with hostLog := a.hostLog ++ [(p, bs)] }, 0)
    | none => ({ s with free := s.free + 1 }, Config.freeValue s.free)

def execSvcMailboxEvent (die : BitVec 2) (s : State) : Out :=
  serve 2 die s fun c s =>
    let fn := s.callerPart c + 1
    (s.setAdmin fun a => { a with boxes := Tab.upd a.boxes (fun _ => Mailbox.reset) fn fun b => { b with events := b.events ++ [c.arg] } }, 0)

/-- A point above SETOP's bound is granted as the bound (R411). -/
def execSvcRequestOp (die : BitVec 2) (s : State) : Out :=
  serve 3 die s fun c s =>
    if 4 < c.arg.toNat then (s, allOnes)
    else
      let t := max s.power.bound c.arg.toNat
      (s.requestStep t, BitVec.ofNat 64 t)

def execSvcReadCounter (die : BitVec 2) (s : State) : Out :=
  serve 4 die s fun c s => (s, if sectionBins c.arg.toNat = 0 then allOnes else BitVec.ofNat 64 (s.sectionCounts c.arg.toNat).sum)

/-- SVC_REPLY: the oldest call of the die is answered; a code without a service replies all ones. -/
def execSvcReply (die : BitVec 2) (s : State) : Out :=
  match (s.die die.toNat).svc with
  | [] => .next s
  | c :: rest =>
    let known := decide (1 ≤ c.code.toNat ∧ c.code.toNat ≤ 4)
    match if known then c.reply else some allOnes with
    | none => .next s
    | some v =>
      let s1 := s.updDie die.toNat fun x => { x with svc := rest }
      .next (s1.at c.who fun s => match s.st.wait, s.st.trap.under with
        | .svc dst, _ => (s.writeS dst.toNat v).hold .none
        | _, .svc dst => { (s.writeS dst.toNat v) with st := { s.st with trap := { s.st.trap with under := .none } } }
        | _, _ => s)

/-! ### Telemetry (R414) -/

/-- A section as it stands in the lifetime area. -/
def State.sectionBytes (s : State) (k : Nat) : List W8 := leBytes 4 k ++ leBytes 4 (lifetimeBins k) ++ (s.sectionCounts k).flatMap (leBytes 8)

/-- Where a die keeps a section (DESIGN CHOICE, unsafe, log 78). -/
def sectionAt (d k : Nat) : Nat := reservedScm d + 0x100000 + 0x10000 * k

/-- Droop and temperature (sections 1 and 2) are counted from sources outside the spec: since the last write each bin has grown by a
free amount (DESIGN CHOICE, unsafe, log 78). -/
def State.sense (s : State) : State :=
  ([1, 2].flatMap fun k => (List.range 16).map fun i => 65536 * k + i).foldl (fun s bin =>
    let d := s.draw
    d.2.setAdmin fun a => { a with hist := Tab.upd a.hist (fun _ => 0) bin (· + d.1.toNat % 2 ^ 32) }) s

/-- The dies and sections of the lifetime area (R414). -/
def lifetimeSections : List (Nat × Nat) := (List.range 4).flatMap fun d => (List.range 9).map fun k => (d, k + 1)

/-- The wear counter of each SCM stack is logged with its retention rating (R85) (DESIGN CHOICE, safe, log 117). -/
def State.logWear (s : State) : State :=
  (List.range 4).foldl (fun s d => let n := Tab.getD s.admin.wear (fun _ => 0) d; s.note (.wear d n (Config.retentionRating d n))) s

/-- The time between two writes of the lifetime area, in GTB ticks: 1 s (R414). -/
def telemetryGap : Nat := 1000000000

/-- TELEMETRY_WRITE: each second the counts as they stand enter the lifetime area of each die through its OWQ. -/
def execTelemetryWrite (s : State) : Out :=
  let now := s.gtb.toNat
  if now < s.admin.telemetryAt + telemetryGap then .next s
  else
    let s1 := s.logWear.sense.setAdmin fun a => { a with histWritten := a.hist, telemetryAt := now }
    .next (lifetimeSections.foldl (fun s e => s.putRecord (sectionAt e.1 e.2) (s.sectionBytes e.2)) s1)

/-! ### Loss of input power (R96 to R98) -/

/-- INPUT_POWER_LOSS: everything but the OWQs halts, and a step of the operating point in progress is given up (R61) (DEDUCED, unsafe, log 79). -/
def execInputPowerLoss (s : State) : Out :=
  if s.admin.holdup then .next s
  else
    let halt (c : Core) : Core := { c with halt := true, proof := none, proofDue := [], timers := [], mq := [] }
    let spoiled (c : SnapSet) : SnapSet := if c.state = 1 ∨ c.state = 2 then { c with state := 4, cause := BitVec.ofNat 8 SpoilCause.power } else c
    let s1 := s.coreList.foldl (fun s c => s.updCore c halt) s
    let s2 := { s1 with snaps := s1.snaps.map fun (e : Nat × SnapSet) => (e.1, spoiled e.2), cmds := [], pending := [], recovery := none,
                        power := { s1.power with stepping := false, heldGo := none, moves := [], stage := 0 }, owqWait := [] }
    let lost := ((s.recovery.map (·.lost)).getD []) ++ s.admin.lostMembers
    .next (s2.setAdmin fun a => { a with
      holdup := true, lossAt := s.gtb.toNat, lostMembers := distinct lost, histWritten := a.hist,
      replaced := a.replaced ++ (s.recovery.map fun (r : Recovery) => r.replaced).getD [],
      replacedBad := a.replacedBad ++ (s.recovery.map fun (r : Recovery) => r.replacedBad).getD [] })

/-- What a test of the place of a unit of bytes keeps of memory: coherent contents and what the stacks hold. -/
def State.keepPlaces (s : State) (p : Nat → Bool) : State :=
  { s with mem := s.mem.keep p, bad := s.bad.filter fun x => p (64 * x), secKey := s.secKey.keep fun x => p (64 * x),
           tags := s.tags.keep fun x => p (128 * x), l2 := s.l2.keep fun x => p (128 * x), media := s.media.keep p,
           mediaTags := s.mediaTags.keep fun x => p (128 * x), mediaBad := s.mediaBad.filter fun x => p (64 * x),
           mediaKeys := s.mediaKeys.keep fun x => p (64 * x) }

/-- HOLDUP_RAILS_OFF: HBM, caches, scratchpads, registers and every squad are gone; what the metadata caches held of the SCM's tag words has
been written back (DESIGN CHOICE, unsafe, log 122). -/
def execHoldupRailsOff (s : State) : Out :=
  if !s.admin.holdup ∨ s.admin.off then .next s
  else
    let s := s.metaFlush
    let bare (c : Core) : Core := { Core.reset with rvt := c.rvt, l1ways := c.l1ways, rrt := c.rrt, quarantine := c.quarantine, cap := c.cap, next := c.next }
    let die (x : Die) : Die := { Die.reset with l2ways := x.l2ways, owq := x.owq, owqLast := x.owqLast, owqDrained := x.owqDrained, owqHeld := x.owqHeld }
    let s1 := s.coreList.foldl (fun s c => s.updCore c bare) s
    let s2 := (s1.dies.map (·.1)).foldl (fun s d => s.updDie d die) s1
    .next ({ s2.keepPlaces isScm with
      sq := Squad.none, wv := Wave.start 0 0 0 1, st := { Stream.start 0 with wait := .ended }, squads := [],
      l2 := [], hostLines := [], doneWords := [], frozen := [], records := [], decisions := [],
      sched := Sched.reset, faults := [], fixed := [] }.setAdmin fun a => { a with off := true })

/-- The package shutdown record of the hub: the GTB at the loss and now, and whether each die's drain is complete (DESIGN CHOICE, unsafe,
log 67). -/
def State.shutdownBytes (s : State) : List W8 :=
  sealed (leBytes 8 s.admin.lossAt ++ bytes64 s.gtb ++ (List.range 4).flatMap fun d => leBytes 1 (decide ((s.die d).owqDrained = (s.die d).owqLast)).toNat)

/-- The lifetime area's write at shutdown (R414), with the drain records (DEDUCED, unsafe, log 79). -/
def State.storeSections (s : State) : State := lifetimeSections.foldl (fun s e => s.storeRecord (sectionAt e.1 e.2) (s.sectionBytes e.2)) s

/-- DRAIN_RECORD_WRITE: each die's record in its reserved SCM, its DONE flag last, and the hub's. -/
def execDrainRecordWrite (s : State) : Out :=
  if !s.admin.holdup ∨ !s.admin.off then .next s
  else
    let put (s : State) (d : Nat) : State :=
      s.storeRecord (drainRecordAt d) (DrainRec.bytes { drained := (s.die d).owqDrained, accepted := (s.die d).owqLast, done := true })
    .next (((List.range 4).foldl put s.storeSections).storeRecord shutdownRecordAt s.shutdownBytes)

/-- The guaranteed hold-up energy, in GTB ticks from the loss (R96). -/
def holdupEnd : Nat := 600000

/-- FULL_RESET, after the hold-up sequence (R96), or where its energy has ended before: what SCM, the boot flash and the lifetime area hold
is kept; the fused masks are those of reset (R49, R53). -/
def execFullReset (s : State) : Out :=
  if !s.admin.off ∨ !((List.range 4).all (fun d => (s.readDrain d).done) || decide (s.admin.lossAt + holdupEnd ≤ s.gtb.toNat)) then .next s
  else
    let s := s.metaFlush
    let a := s.admin
    let r := State.reset
    .next { r with
      mem := s.media, bad := s.mediaBad, tags := s.mediaTags, secKey := s.mediaKeys,
      media := s.media, mediaTags := s.mediaTags, mediaBad := s.mediaBad, mediaKeys := s.mediaKeys,
      cxl := s.cxl, pkg := s.pkg, log := s.log, agenda := s.agenda, free := s.free,
      admin := { r.admin with slots := a.slots, active := a.active, staged := a.staged, counter := a.counter, kernels := a.kernels,
                              hostLog := a.hostLog, config := a.config, hist := a.histWritten, histWritten := a.histWritten,
                              corrected := a.corrected, fieldRows := a.fieldRows, lostMembers := a.lostMembers, wear := a.wear, replaced := a.replaced, replacedBad := a.replacedBad } }

/-! ### Boot (R408) -/

/-- A stage: it succeeds, or the boot stops with its number (DEDUCED, unsafe, log 80). -/
def bootStage (n : Nat) (ok : Bool) (s : State) (k : State → State) : Out :=
  if s.admin.stage + 1 ≠ n ∨ s.admin.failed ≠ none ∨ s.admin.off then .next s
  else if ok then .next ((k s).setAdmin fun a => { a with stage := n })
  else .next (s.setAdmin fun a => { a with failed := some n })

/-- Stage 1: the image in the active slot is verified. -/
def execBootVerify (s : State) : Out := bootStage 1 (s.accepts (s.admin.slots.getD s.admin.active [])) s id

/-- The field mask of the lifetime area is ANDed to a core's RVT (R49). -/
def State.fieldMasked (s : State) (c : Nat) : Core :=
  let x := s.core c
  let mine := s.admin.fieldRows.filter fun e => e.1 / 1280 == c
  { x with rvt := Tab.putAll x.rvt rvtFull (mine.map fun e => (e.1 % 1280, Tab.getD x.rvt rvtFull (e.1 % 1280) &&& e.2)) }

/-- One core at boot: its RRT as the identity, its masks, the plan of OP1 without contents, its capacity, and its release (R48, R49, R54). -/
def State.bootCore (s : State) (c : Nat) : State :=
  let x := { s.fieldMasked c with rrt := [] }
  let next := x.capAt 1
  let y := (x.failing 1).foldl (fun (y : Core) b => (y.planBank 1 next b).foldl (fun y m => y.swapSlots b m.1 m.2) y) x
  (s.setCore c { y with cap := next, next := next, halt := false, halted := false }).quarantineCheck c

/-- Stage 2. -/
def execBootReleaseCores (ok : Bool) (s : State) : Out :=
  bootStage 2 ok s fun s => (List.range 192).foldl (fun s c => s.bootCore c) (s.setPower fun p => { p with point := 1, target := 1 })

/-- Not HBM. -/
def outsideHbm (pa : Nat) : Bool :=
  match backing 256 pa with
  | .hbm _ => false
  | _ => true

/-- Stage 3: links at x64, and every backed HBM byte written (R71): it reads zero, in plaintext and without poison, which is what memory
that lists nothing reads as (DESIGN CHOICE, unsafe, log 3). -/
def execBootTrainLinks (ok : Bool) (s : State) : Out :=
  bootStage 3 ok s fun s =>
    let train (e : Nat × LinkModule) : Option (Nat × LinkModule) :=
      let x := { e.2 with half := false, failed := false, training := none, recent := [], wide := false }
      if x = LinkModule.reset then none else some (e.1, x)
    { s.keepPlaces outsideHbm with links := [], modules := s.modules.filterMap train }

/-- The last record, by CSEQ, of those that satisfy a test. -/
def lastRecord (l : List CaptureRec) (p : CaptureRec → Bool) : Option CaptureRec :=
  (l.filter p).foldl (fun a r => match a with
    | none => some r
    | some b => if b.cseq ≤ r.cseq then some r else a) none

/-- A capture's records stand on all four dies, in a state or a later one. -/
def wholeRecords (l : List CaptureRec) (r : CaptureRec) (st : Nat) : Bool :=
  (List.range 4).all fun d => l.any fun x => x.die == d && x.cseq == r.cseq && decide (st ≤ x.state)

/-- A set whose last FIXED capture is a record's. -/
def SnapSet.fixedAt (c : SnapSet) (r : CaptureRec) : SnapSet :=
  { c with state := 3, cseq := r.cseq, cstep := r.step, fstep := r.step, fvalid := true, fslot := r.slot, fpar := r.par }

/-- A set's state from its capture records (R97, R135, R142). -/
def bootSet (records : List CaptureRec) (suspect : Bool) (confirmed : List Nat) (q : Nat) : SnapSet :=
  let mine := records.filter fun r => r.set == q
  let walked : SnapSet := match lastRecord mine fun r => wholeRecords mine r 2 with
    | some r => { SnapSet.none with walkedOnce := true, lstep := r.step }
    | none => SnapSet.none
  let base := match lastRecord mine fun r => wholeRecords mine r 3 with
    | some r => walked.fixedAt r
    | none => walked
  match lastRecord mine fun _ => true with
  | none => base
  | some r =>
    if wholeRecords mine r 3 then base
    else if wholeRecords mine r 2 ∧ confirmed.contains q ∧ !suspect then base.fixedAt r
    else { base with state := 4, cseq := r.cseq, cstep := r.step, cause := BitVec.ofNat 8 SpoilCause.power }

/-- A set as it stands after the boot; its records say so where its last capture has become FIXED (R142). -/
def State.bootSnap (s : State) (records : List CaptureRec) (suspect : Bool) (confirmed : List Nat) (q : Nat) : State :=
  let c := bootSet records suspect confirmed q
  let s1 := s.setSnap q c
  let known := records.any fun r => r.set == q && r.cseq == c.cseq && wholeRecords (records.filter fun x => x.set == q) r 3
  if c.state = 3 ∧ !known then s1.recordCapture q else s1.publishSnap q

/-- Stage 4: the drain and capture records decide what persistent state is good; the drain records are cleared for the next loss.
`confirmed` are the sets whose parity holders confirm a DEVELOPED capture. -/
def execBootReadRecords (confirmed : List Nat) (ok : Bool) (s : State) : Out :=
  bootStage 4 ok s fun s =>
    let good := (List.range 4).all fun d => let r := s.readDrain d; r.done && r.drained == r.accepted
    let records := s.captureRecs
    let s1 := (distinct (records.map (·.set))).foldl (fun s q => s.bootSnap records (!good) confirmed q) s
    let clear (s : State) (d : Nat) : State :=
      let r := s.readDrain d
      s.storeRecord (drainRecordAt d) (DrainRec.bytes { r with done := false })
    ((List.range 4).foldl clear s1).setAdmin fun a => { a with suspect := !good }

/-- Stage 5: the host port, and the Byette ports in step with the time source. -/
def execBootTrainPorts (ok : Bool) (s : State) : Out :=
  bootStage 5 ok s fun s => { s with fab := { s.fab with synced := some s.gtb.toNat, freeRun := false, heartbeatAt := s.gtb.toNat,
                                                         timesyncAt := s.gtb.toNat } }

/-- Stage 6: the partitions of the stored configuration, and their virtual functions. -/
def execBootCreatePartitions (s : State) : Out :=
  bootStage 6 true s fun s =>
    (s.applyConfig s.admin.config).setAdmin fun a => { a with bound := addNats a.bound (distinct (a.config.map (·.1))) }

/-! ### BAR0 (R380, R381, R412) -/

/-- A submitted request that a mailbox holds is served: its response is written, then the busy bit clears. A CMD that is not listed, or a
LEN above 2,040, answers BADCMD. -/
def State.boxServe (s : State) (fn : BitVec 5) : Out :=
  let b := s.box fn.toNat
  if !b.busy then .next s
  else
    let len := bits b.request 47 32
    let tag : W16 := BitVec.ofNat 16 (bits b.request 31 16)
    let args := (List.range len).map fun i => b.args.get0 i
    let s1 := s.setAdmin fun a => { a with boxes := Tab.upd a.boxes (fun _ => Mailbox.reset) fn.toNat fun b => { b with busy := false } }
    if maxArgs < len then .next (s1.respondBox fn.toNat tag BoxStatus.badcmd [])
    else match bits b.request 15 0 with
      | 1 => execMailboxGetinfo fn tag args s1
      | 2 => execMailboxAttest fn tag args s1
      | 3 => execMailboxSetop fn tag args s1
      | 4 => execMailboxSetcap fn tag args s1
      | 5 => execMailboxHist fn tag args s1
      | 6 => execFwstage fn tag args s1
      | 7 => execFwcommit fn tag args s1
      | 8 => execProofload fn tag args s1
      | 9 => execPartcfg fn tag args s1
      | _ => .next (s1.respondBox fn.toNat tag BoxStatus.badcmd [])

/-- A byte of a mailbox's 4 KiB. -/
def Mailbox.byte (b : Mailbox) (o : Nat) : W8 :=
  let of (v : W64) (i : Nat) : W8 := (v >>> (8 * i)).setWidth 8
  if o < 8 then of b.request o
  else if o < 0x800 then b.args.get0 (o - 8)
  else if o < 0x808 then of (BitVec.ofNat 64 (b.status + 2 ^ 16 * b.tag.toNat + 2 ^ 32 * b.data.length)) (o - 0x800)
  else if o < 0xFF8 then b.data.getD (o - 0x808) 0
  else if o = 0xFF8 then (if b.busy then 1 else 0)
  else 0

/-- A byte of BAR0 as it reads: a virtual function's status page, then the mailbox; elsewhere zero. -/
def State.bar0Byte (s : State) (fn o : Nat) : W8 :=
  let page (v : W64) (i : Nat) : W8 := (v >>> (8 * i)).setWidth 8
  if 0x1000 ≤ o ∧ o < 0x2000 then (s.box fn).byte (o - 0x1000)
  else if fn = 0 then 0
  else if o < 8 then page (BitVec.ofNat 64 (fn - 1 + if s.sched.swappedOut.contains (fn - 1) then 16 else 0)) o
  else if o < 16 then page s.gtb (o - 8)
  else 0

/-- A read of BAR0. The physical function's is not there before stage 5; an unbound virtual function reads as all ones. -/
def State.bar0Read (s : State) (fn : BitVec 5) (off : BitVec 20) (n : Nat) : State :=
  if s.boxOpen fn.toNat then s.answerHost (.completion ((List.range n).map fun i => s.bar0Byte fn.toNat (off.toNat + i)))
  else if fn = 0 then s.answerHost .unsupported
  else s.answerHost (.completion (List.replicate n 0xFF))

/-- A write that BAR0 drops: logged, in the partition's host-error log where a partition has one. -/
def State.bar0Drop (s : State) (fn off : Nat) : State := s.note (.notice 380 (BitVec.ofNat 64 (2 ^ 32 * fn + off)))

/-- Writes bytes of a mailbox's registers: request and arguments, which a request in progress holds as they are; the submit. The response is
read-only. -/
def State.boxWrite (s : State) (fn o : Nat) (bs : List W8) : State :=
  let b := s.box fn
  if bs.length = 0 ∨ 0x1000 < o + bs.length ∨ (o < 0xFF8 ∧ 0x800 < o + bs.length) ∨ b.busy then s.bar0Drop fn (0x1000 + o)
  else
    let put (b : Mailbox) (e : W8 × Nat) : Mailbox :=
      let i := o + e.2
      if i < 8 then { b with request := setBits b.request (8 * i + 7) (8 * i) e.1.toNat }
      else if i < 0x800 then { b with args := b.args.put0 (i - 8) e.1 }
      else if i = 0xFF8 ∧ e.1.getLsbD 0 then { b with busy := true }
      else b
    s.setAdmin fun a => { a with boxes := Tab.upd a.boxes (fun _ => Mailbox.reset) fn fun b => bs.zipIdx.foldl put b }

/-- A write of BAR0. -/
def State.bar0Write (s : State) (fn : BitVec 5) (off : BitVec 20) (bs : List W8) (split : Bool) : Out :=
  let f := fn.toNat
  let o := off.toNat
  if !s.boxOpen f then .next s
  else if 0x1000 ≤ o ∧ o < 0x2000 then .next (s.boxWrite f (o - 0x1000) bs)
  else if f ≠ 0 ∧ 0x10000 ≤ o ∧ o < 0x20000 then
    let part := BitVec.ofNat 4 (f - 1)
    let q := (o - 0x10000) / 64
    if o % 64 = 0 ∧ !split ∧ bs.length = 8 then execDoorbellWridx part (BitVec.ofNat 10 q) (word64 bs) s
    else if o % 64 = 0 ∧ !split ∧ bs.length = 64 then execDoorbellInline part (BitVec.ofNat 10 q) bs s
    else .next (s.hostError 381 (f - 1) q)
  else .next (s.bar0Drop f o)

end Sys2Proof.Machine
end

