-- ==== Sys2Proof/Machine/Scalar.lean ====
section
/-! DEFINITION. Scalar integer instructions (R243 to R247). -/

namespace Sys2Proof.Machine

/-- A scalar instruction on operands a, b and d = s[DST] (R243, R245). -/
def runS (r : SRule) (f : SF) (s : State) (g : W64 → W64 → W64 → W64) : Out :=
  guarded (f.named r) s fun s =>
    .next ((s.writeS f.dst.toNat (g (s.sval f.a f.imm f.ext) (s.sval f.b f.imm f.ext) (s.readS f.dst.toNat)) r.lat).retire f.h)

/-- Truncated quotient of 64-bit operands (R246). -/
def sdivI (a b : W64) : W64 := if b = 0 then BitVec.allOnes 64 else BitVec.ofInt 64 (a.toInt.tdiv b.toInt)
def sdivN (a b : W64) : W64 := if b = 0 then BitVec.allOnes 64 else a / b
def sremI (a b : W64) : W64 := if b = 0 then a else BitVec.ofInt 64 (a.toInt.tmod b.toInt)
def sremN (a b : W64) : W64 := if b = 0 then a else a % b

/-- The shift count of a scalar shift (R245). -/
def cnt (b : W64) : Nat := b.toNat % 64

/-- Bits of the field at `pos` of width `w` (R247). -/
def bitField (a : W64) (pos w : Nat) : Nat := a.toNat / 2 ^ pos % 2 ^ w

/-- IMM32's position and width (R247). -/
def bfPos (imm : W32) : Nat := imm.toNat % 64
def bfWidth (imm : W32) : Nat := imm.toNat / 256 % 64

/-- A w-bit field sign-extended to 64 bits. -/
def sextField (w x : Nat) : W64 := if x / 2 ^ (w - 1) % 2 = 1 then BitVec.ofInt 64 ((x : Int) - 2 ^ w) else BitVec.ofNat 64 x

/-- R247, SBFI. -/
def insertField (a d : W64) (pos w : Nat) : W64 :=
  let m : W64 := BitVec.ofNat 64 ((2 ^ w - 1) * 2 ^ pos)
  (d &&& ~~~m) ||| (BitVec.ofNat 64 (a.toNat % 2 ^ w * 2 ^ pos) &&& m)

def execSadd (f : SF) (s : State) : Out := runS Rule.sInt2 f s fun a b _ => a + b
def execSsub (f : SF) (s : State) : Out := runS Rule.sInt2 f s fun a b _ => a - b
def execSmul (f : SF) (s : State) : Out := runS (Rule.sInt2 Lat.smul) f s fun a b _ => a * b
def execSmulhI (f : SF) (s : State) : Out :=
  runS (Rule.sInt2 Lat.smul) f s fun a b _ => BitVec.ofInt 64 (a.toInt * b.toInt / 2 ^ 64)
def execSmulhN (f : SF) (s : State) : Out :=
  runS (Rule.sInt2 Lat.smul) f s fun a b _ => BitVec.ofNat 64 (a.toNat * b.toNat / 2 ^ 64)
def execSdivI (f : SF) (s : State) : Out := runS (Rule.sInt2 Lat.sdiv) f s fun a b _ => sdivI a b
def execSdivN (f : SF) (s : State) : Out := runS (Rule.sInt2 Lat.sdiv) f s fun a b _ => sdivN a b
def execSremI (f : SF) (s : State) : Out := runS (Rule.sInt2 Lat.sdiv) f s fun a b _ => sremI a b
def execSremN (f : SF) (s : State) : Out := runS (Rule.sInt2 Lat.sdiv) f s fun a b _ => sremN a b
def execSand (f : SF) (s : State) : Out := runS Rule.sInt2 f s fun a b _ => a &&& b
def execSor (f : SF) (s : State) : Out := runS Rule.sInt2 f s fun a b _ => a ||| b
def execSxor (f : SF) (s : State) : Out := runS Rule.sInt2 f s fun a b _ => a ^^^ b
def execSandn (f : SF) (s : State) : Out := runS Rule.sInt2 f s fun a b _ => a &&& ~~~b
def execSshl (f : SF) (s : State) : Out := runS Rule.sInt2 f s fun a b _ => a <<< cnt b
def execSshr (f : SF) (s : State) : Out := runS Rule.sInt2 f s fun a b _ => a >>> cnt b
def execSsra (f : SF) (s : State) : Out := runS Rule.sInt2 f s fun a b _ => a.sshiftRight (cnt b)
def execSrot (f : SF) (s : State) : Out := runS Rule.sInt2 f s fun a b _ => a.rotateLeft (cnt b)
def execSminI (f : SF) (s : State) : Out := runS Rule.sInt2 f s fun a b _ => if b.slt a then b else a
def execSminN (f : SF) (s : State) : Out := runS Rule.sInt2 f s fun a b _ => if b.ult a then b else a
def execSmaxI (f : SF) (s : State) : Out := runS Rule.sInt2 f s fun a b _ => if a.slt b then b else a
def execSmaxN (f : SF) (s : State) : Out := runS Rule.sInt2 f s fun a b _ => if a.ult b then b else a
def execScmpI (f : SF) (s : State) : Out :=
  runS Rule.sCmp f s fun a b _ => if cmpInt (condCode f.cond) a.toInt b.toInt then 1 else 0
def execScmpN (f : SF) (s : State) : Out :=
  runS Rule.sCmp f s fun a b _ => if cmpInt (condCode f.cond) a.toNat b.toNat then 1 else 0
def execSsel (f : SF) (s : State) : Out :=
  runS Rule.sSel f s fun a b d => if cmpInt (condCode f.cond) d.toInt 0 then a else b
def execSmov (f : SF) (s : State) : Out := runS Rule.sInt1 f s fun a _ _ => a
def execSli (f : SF) (s : State) : Out :=
  runS Rule.sLit f s fun _ _ _ => match f.ext with
    | some e => e.lit64
    | none => 0
def execSclz (f : SF) (s : State) : Out := runS Rule.sInt1 f s fun a _ _ => BitVec.ofNat 64 (clz 64 a.toNat)
def execSpopc (f : SF) (s : State) : Out := runS Rule.sInt1 f s fun a _ _ => BitVec.ofNat 64 (popMask a)
def execSbfxI (f : SF) (s : State) : Out :=
  runS (Rule.sBits false) f s fun a _ _ => sextField (bfWidth f.imm) (bitField a (bfPos f.imm) (bfWidth f.imm))
def execSbfxN (f : SF) (s : State) : Out :=
  runS (Rule.sBits false) f s fun a _ _ => BitVec.ofNat 64 (bitField a (bfPos f.imm) (bfWidth f.imm))
def execSbfi (f : SF) (s : State) : Out :=
  runS (Rule.sBits true) f s fun a _ d => insertField a d (bfPos f.imm) (bfWidth f.imm)
def execSaddr (f : SF) (s : State) : Out := runS Rule.sAddr f s fun a b _ => a + (b <<< f.sub.toNat)
def execSsext (f : SF) (s : State) : Out :=
  runS Rule.sInt2 f s fun a b _ => sextField (cnt b + 1) (a.toNat % 2 ^ (cnt b + 1))
def execSabs (f : SF) (s : State) : Out := runS Rule.sInt1 f s fun a _ _ => if a.msb then -a else a

end Sys2Proof.Machine
end

