-- ==== Sys2Proof/Machine/ScalarFloat.lean ====
section
/-! DEFINITION. Scalar float instructions (R248 to R251). -/

namespace Sys2Proof.Machine

/-- The outcome of a scalar float instruction: 64 result bits and its flags. -/
abbrev SFRes := W64 × Flags

/-- Writes the result and ORs the flags; `draws` results advance the lane 0 state in stochastic mode (R209, R249). -/
def runSF (r : SRule) (f : SF) (s : State) (mode : Nat) (g : State → SFRes) : Out :=
  guarded (f.named r) s fun s =>
    let x := g s
    let s1 := ((s.writeS f.dst.toNat x.1 r.lat).orFlags x.2)
    .next ((if mode = 6 then s1.setLfsr 0 (lfsrStep (s.lfsr 0)) else s1).retire f.h)

/-- The mode of SUB[2:0] (R248). -/
def State.sfMode (s : State) (f : SF) : Nat := s.roundMode (f.sub.setWidth 3)

/-- An FP32 source under DAZ (R206, R248). -/
def State.sfSrc (s : State) (x : Src) (f : SF) : FVal := fp32.read (fmtDaz s.st.fmt) (s.sfloat x f.imm f.ext).toNat

/-- Rounds an exact result to FP32 in the instruction's mode, with the sources' flags. -/
def State.sfRound (s : State) (f : SF) (src : List FVal) (x : FVal × Flags) : SFRes :=
  let y := fp32.write (s.sfMode f) (s.draws 0 0) false (fmtFtz s.st.fmt) x.1
  (BitVec.ofNat 64 y.1, srcFlags src ||| x.2 ||| y.2)

/-- A two-source rounding instruction. -/
def runSF2 (r : SRule) (f : SF) (s : State) (op : Bool → FVal → FVal → FVal × Flags) : Out :=
  runSF r f s (s.sfMode f) fun s =>
    let a := s.sfSrc f.a f
    let b := s.sfSrc f.b f
    s.sfRound f [a, b] (op (s.sfMode f == 3) a b)

def execSfadd (f : SF) (s : State) : Out := runSF2 Rule.sFlt2 f s fun rdn a b => a.add rdn b
def execSfmul (f : SF) (s : State) : Out := runSF2 Rule.sFlt2 f s fun _ a b => a.mul b
def execSffma (f : SF) (s : State) : Out :=
  runSF Rule.sFma f s (s.sfMode f) fun s =>
    let a := s.sfSrc f.a f
    let b := s.sfSrc f.b f
    let d := fp32.read (fmtDaz s.st.fmt) ((s.readS f.dst.toNat).setWidth 32).toNat
    s.sfRound f [a, b, d] (a.fma (s.sfMode f == 3) b d)
def execSfdiv (f : SF) (s : State) : Out := runSF2 (Rule.sFlt2 Lat.sdiv) f s fun _ a b => a.div b
def execSfsqrt (f : SF) (s : State) : Out :=
  runSF Rule.sSqrt f s (s.sfMode f) fun s => let a := s.sfSrc f.a f; s.sfRound f [a] a.sqrt

/-- SFMIN and SFMAX: SUB[0] selects the .num form; nothing is rounded or flushed (R206, R249). -/
def runSFMinMax (big : Bool) (f : SF) (s : State) : Out :=
  runSF Rule.sMinMax f s 1 fun s =>
    let a := s.sfSrc f.a f
    let b := s.sfSrc f.b f
    (BitVec.ofNat 64 (fp32.exact (a.minmax big (f.sub.getLsbD 0) b)), srcFlags [a, b])

def execSfmin (f : SF) (s : State) : Out := runSFMinMax false f s
def execSfmax (f : SF) (s : State) : Out := runSFMinMax true f s

/-- R250: no DAZ and no NF. -/
def execSfcmp (f : SF) (s : State) : Out :=
  runSF Rule.sFcmp f s 1 fun s =>
    let x := (fp32.decode (s.sfloat f.a f.imm f.ext).toNat).cmp (condCode f.cond) (fp32.decode (s.sfloat f.b f.imm f.ext).toNat)
    (if x.1 then 1 else 0, x.2)

/-- R251: SUB[4:3] is the direction. -/
def execSfcvt (f : SF) (s : State) : Out :=
  let dir := f.sub.toNat / 8
  runSF Rule.sFcvt f s (s.sfMode f) fun s =>
    if dir ≤ 1 then
      let a := s.sfSrc f.a f
      let x := a.toInt (s.sfMode f) (s.draws 0 0) (dir == 0) 64
      (BitVec.ofInt 64 x.1, srcFlags [a] ||| x.2)
    else
      let a := s.sval f.a f.imm f.ext
      let v := FVal.ofInt (if dir = 2 then a.toInt else a.toNat)
      s.sfRound f [] (v, 0)

end Sys2Proof.Machine
end

