-- ==== Sys2Proof/Machine/Dispatch.lean ====
section
/-! DEFINITION. One arm for each constructor of `Instr`: the meaning of an instruction or an event. -/

namespace Sys2Proof.Machine

def exec (i : Instr) (s : State) : Host.Outcome State Fault Refusal :=
  match i with
  | .sadd f => Sys2Proof.Machine.execSadd f s
  | .ssub f => Sys2Proof.Machine.execSsub f s
  | .smul f => Sys2Proof.Machine.execSmul f s
  | .smulhI f => Sys2Proof.Machine.execSmulhI f s
  | .smulhN f => Sys2Proof.Machine.execSmulhN f s
  | .sdivI f => Sys2Proof.Machine.execSdivI f s
  | .sdivN f => Sys2Proof.Machine.execSdivN f s
  | .sremI f => Sys2Proof.Machine.execSremI f s
  | .sremN f => Sys2Proof.Machine.execSremN f s
  | .sand f => Sys2Proof.Machine.execSand f s
  | .sor f => Sys2Proof.Machine.execSor f s
  | .sxor f => Sys2Proof.Machine.execSxor f s
  | .sandn f => Sys2Proof.Machine.execSandn f s
  | .sshl f => Sys2Proof.Machine.execSshl f s
  | .sshr f => Sys2Proof.Machine.execSshr f s
  | .ssra f => Sys2Proof.Machine.execSsra f s
  | .srot f => Sys2Proof.Machine.execSrot f s
  | .sminI f => Sys2Proof.Machine.execSminI f s
  | .sminN f => Sys2Proof.Machine.execSminN f s
  | .smaxI f => Sys2Proof.Machine.execSmaxI f s
  | .smaxN f => Sys2Proof.Machine.execSmaxN f s
  | .scmpI f => Sys2Proof.Machine.execScmpI f s
  | .scmpN f => Sys2Proof.Machine.execScmpN f s
  | .ssel f => Sys2Proof.Machine.execSsel f s
  | .smov f => Sys2Proof.Machine.execSmov f s
  | .sli f => Sys2Proof.Machine.execSli f s
  | .sclz f => Sys2Proof.Machine.execSclz f s
  | .spopc f => Sys2Proof.Machine.execSpopc f s
  | .sbfxI f => Sys2Proof.Machine.execSbfxI f s
  | .sbfxN f => Sys2Proof.Machine.execSbfxN f s
  | .sbfi f => Sys2Proof.Machine.execSbfi f s
  | .saddr f => Sys2Proof.Machine.execSaddr f s
  | .ssext f => Sys2Proof.Machine.execSsext f s
  | .sabs f => Sys2Proof.Machine.execSabs f s
  | .sfadd f => Sys2Proof.Machine.execSfadd f s
  | .sfmul f => Sys2Proof.Machine.execSfmul f s
  | .sffma f => Sys2Proof.Machine.execSffma f s
  | .sfdiv f => Sys2Proof.Machine.execSfdiv f s
  | .sfsqrt f => Sys2Proof.Machine.execSfsqrt f s
  | .sfmin f => Sys2Proof.Machine.execSfmin f s
  | .sfmax f => Sys2Proof.Machine.execSfmax f s
  | .sfcmp f => Sys2Proof.Machine.execSfcmp f s
  | .sfcvt f => Sys2Proof.Machine.execSfcvt f s
  | .bra f => Sys2Proof.Machine.execBra f s
  | .brv f => Sys2Proof.Machine.execBrv f s
  | .jmp f => Sys2Proof.Machine.execJmp f s
  | .jmpv f => Sys2Proof.Machine.execJmpv f s
  | .call f => Sys2Proof.Machine.execCall f s
  | .ret f => Sys2Proof.Machine.execRet f s
  | .rjoin f => Sys2Proof.Machine.execRjoin f s
  | .detach f => Sys2Proof.Machine.execDetach f s
  | .loop f => Sys2Proof.Machine.execLoop f s
  | .exit f => Sys2Proof.Machine.execExit f s
  | .tend f => Sys2Proof.Machine.execTend f s
  | .yield f => Sys2Proof.Machine.execYield f s
  | .nap f => Sys2Proof.Machine.execNap f s
  | .nop f => Sys2Proof.Machine.execNop f s
  | .trap f => Sys2Proof.Machine.execTrap f s
  | .rte f => Sys2Proof.Machine.execRte f s
  | .xrd f => Sys2Proof.Machine.execXrd f s
  | .xwr f => Sys2Proof.Machine.execXwr f s
  | .xset f => Sys2Proof.Machine.execXset f s
  | .xclr f => Sys2Proof.Machine.execXclr f s
  | .setfmt f => Sys2Proof.Machine.execSetfmt f s
  | .getfmt f => Sys2Proof.Machine.execGetfmt f s
  | .time f => Sys2Proof.Machine.execTime f s
  | .waitt f => Sys2Proof.Machine.execWaitt f s
  | .bkpt f => Sys2Proof.Machine.execBkpt f s
  | .errack f => Sys2Proof.Machine.execErrack f s
  | .svc f => Sys2Proof.Machine.execSvc f s
  | .fencei f => Sys2Proof.Machine.execFencei f s
  | .vadd f => Sys2Proof.Machine.execVadd f s
  | .vsub f => Sys2Proof.Machine.execVsub f s
  | .vmul f => Sys2Proof.Machine.execVmul f s
  | .vmulhI f => Sys2Proof.Machine.execVmulhI f s
  | .vmulhN f => Sys2Proof.Machine.execVmulhN f s
  | .vmulwI f => Sys2Proof.Machine.execVmulwI f s
  | .vmulwN f => Sys2Proof.Machine.execVmulwN f s
  | .vmad f => Sys2Proof.Machine.execVmad f s
  | .vand f => Sys2Proof.Machine.execVand f s
  | .vor f => Sys2Proof.Machine.execVor f s
  | .vxor f => Sys2Proof.Machine.execVxor f s
  | .vandn f => Sys2Proof.Machine.execVandn f s
  | .vshl f => Sys2Proof.Machine.execVshl f s
  | .vshls f => Sys2Proof.Machine.execVshls f s
  | .vshr f => Sys2Proof.Machine.execVshr f s
  | .vsra f => Sys2Proof.Machine.execVsra f s
  | .vrot f => Sys2Proof.Machine.execVrot f s
  | .vminI f => Sys2Proof.Machine.execVminI f s
  | .vminN f => Sys2Proof.Machine.execVminN f s
  | .vmaxI f => Sys2Proof.Machine.execVmaxI f s
  | .vmaxN f => Sys2Proof.Machine.execVmaxN f s
  | .vclampI f => Sys2Proof.Machine.execVclampI f s
  | .vclampN f => Sys2Proof.Machine.execVclampN f s
  | .vabsdI f => Sys2Proof.Machine.execVabsdI f s
  | .vabsdN f => Sys2Proof.Machine.execVabsdN f s
  | .vavgI f => Sys2Proof.Machine.execVavgI f s
  | .vavgN f => Sys2Proof.Machine.execVavgN f s
  | .vaddsI f => Sys2Proof.Machine.execVaddsI f s
  | .vaddsN f => Sys2Proof.Machine.execVaddsN f s
  | .vsubsI f => Sys2Proof.Machine.execVsubsI f s
  | .vsubsN f => Sys2Proof.Machine.execVsubsN f s
  | .vdot2I f => Sys2Proof.Machine.execVdot2I f s
  | .vdot2N f => Sys2Proof.Machine.execVdot2N f s
  | .vdot4I f => Sys2Proof.Machine.execVdot4I f s
  | .vdot4N f => Sys2Proof.Machine.execVdot4N f s
  | .vrshrI f => Sys2Proof.Machine.execVrshrI f s
  | .vrshrN f => Sys2Proof.Machine.execVrshrN f s
  | .vnarrowI f => Sys2Proof.Machine.execVnarrowI f s
  | .vnarrowN f => Sys2Proof.Machine.execVnarrowN f s
  | .vwidenI f => Sys2Proof.Machine.execVwidenI f s
  | .vwidenN f => Sys2Proof.Machine.execVwidenN f s
  | .vclz f => Sys2Proof.Machine.execVclz f s
  | .vpopc f => Sys2Proof.Machine.execVpopc f s
  | .vbfxI f => Sys2Proof.Machine.execVbfxI f s
  | .vbfxN f => Sys2Proof.Machine.execVbfxN f s
  | .vbfi f => Sys2Proof.Machine.execVbfi f s
  | .vcmpI f => Sys2Proof.Machine.execVcmpI f s
  | .vcmpN f => Sys2Proof.Machine.execVcmpN f s
  | .vsel f => Sys2Proof.Machine.execVsel f s
  | .vmov f => Sys2Proof.Machine.execVmov f s
  | .vlut f => Sys2Proof.Machine.execVlut f s
  | .vfadd f => Sys2Proof.Machine.execVfadd f s
  | .vfsub f => Sys2Proof.Machine.execVfsub f s
  | .vfmul f => Sys2Proof.Machine.execVfmul f s
  | .vfma f => Sys2Proof.Machine.execVfma f s
  | .vfmin f => Sys2Proof.Machine.execVfmin f s
  | .vfminNum f => Sys2Proof.Machine.execVfminNum f s
  | .vfmax f => Sys2Proof.Machine.execVfmax f s
  | .vfmaxNum f => Sys2Proof.Machine.execVfmaxNum f s
  | .vfclamp f => Sys2Proof.Machine.execVfclamp f s
  | .vfamax f => Sys2Proof.Machine.execVfamax f s
  | .vfsign f => Sys2Proof.Machine.execVfsign f s
  | .vflrp f => Sys2Proof.Machine.execVflrp f s
  | .vfcmp f => Sys2Proof.Machine.execVfcmp f s
  | .vfclass f => Sys2Proof.Machine.execVfclass f s
  | .vfrcp f => Sys2Proof.Machine.execVfrcp f s
  | .vfrsq f => Sys2Proof.Machine.execVfrsq f s
  | .vfsqrt f => Sys2Proof.Machine.execVfsqrt f s
  | .vfdiv f => Sys2Proof.Machine.execVfdiv f s
  | .vfexp2 f => Sys2Proof.Machine.execVfexp2 f s
  | .vflog2 f => Sys2Proof.Machine.execVflog2 f s
  | .vftanh f => Sys2Proof.Machine.execVftanh f s
  | .vferf f => Sys2Proof.Machine.execVferf f s
  | .vfsigm f => Sys2Proof.Machine.execVfsigm f s
  | .vfsin f => Sys2Proof.Machine.execVfsin f s
  | .vfcos f => Sys2Proof.Machine.execVfcos f s
  | .vfrnd f => Sys2Proof.Machine.execVfrnd f s
  | .vfscale f => Sys2Proof.Machine.execVfscale f s
  | .vfdot2 f => Sys2Proof.Machine.execVfdot2 f s
  | .vfcvtw f => Sys2Proof.Machine.execVfcvtw f s
  | .vfcvtn f => Sys2Proof.Machine.execVfcvtn f s
  | .vfcvts f => Sys2Proof.Machine.execVfcvts f s
  | .vicvtI f => Sys2Proof.Machine.execVicvtI f s
  | .vicvtN f => Sys2Proof.Machine.execVicvtN f s
  | .vfcvtiI f => Sys2Proof.Machine.execVfcvtiI f s
  | .vfcvtiN f => Sys2Proof.Machine.execVfcvtiN f s
  | .vfpack4 f => Sys2Proof.Machine.execVfpack4 f s
  | .vfunpk4 f => Sys2Proof.Machine.execVfunpk4 f s
  | .vadam f => Sys2Proof.Machine.execVadam f s
  | .mand f => Sys2Proof.Machine.execMand f s
  | .mor f => Sys2Proof.Machine.execMor f s
  | .mxor f => Sys2Proof.Machine.execMxor f s
  | .mandn f => Sys2Proof.Machine.execMandn f s
  | .mnot f => Sys2Proof.Machine.execMnot f s
  | .mmov f => Sys2Proof.Machine.execMmov f s
  | .mshift f => Sys2Proof.Machine.execMshift f s
  | .mpopc f => Sys2Proof.Machine.execMpopc f s
  | .mfirst f => Sys2Proof.Machine.execMfirst f s
  | .mlast f => Sys2Proof.Machine.execMlast f s
  | .mset f => Sys2Proof.Machine.execMset f s
  | .mget f => Sys2Proof.Machine.execMget f s
  | .voteAny f => Sys2Proof.Machine.execVoteAny f s
  | .voteAll f => Sys2Proof.Machine.execVoteAll f s
  | .voteEq f => Sys2Proof.Machine.execVoteEq f s
  | .voteBallot f => Sys2Proof.Machine.execVoteBallot f s
  | .shflIdx f => Sys2Proof.Machine.execShflIdx f s
  | .shflXor f => Sys2Proof.Machine.execShflXor f s
  | .vredInt f => Sys2Proof.Machine.execVredInt f s
  | .vredFloat f => Sys2Proof.Machine.execVredFloat f s
  | .vscanInt f => Sys2Proof.Machine.execVscanInt f s
  | .vscanFloat f => Sys2Proof.Machine.execVscanFloat f s
  | .vbcast f => Sys2Proof.Machine.execVbcast f s
  | .vext f => Sys2Proof.Machine.execVext f s
  | .vins f => Sys2Proof.Machine.execVins f s
  | .vrev f => Sys2Proof.Machine.execVrev f s
  | .vcompact f => Sys2Proof.Machine.execVcompact f s
  | .vragg f => Sys2Proof.Machine.execVragg f s
  | .vldGlobal f => Sys2Proof.Machine.execVldGlobal f s
  | .vldScratch f => Sys2Proof.Machine.execVldScratch f s
  | .vldCluster f => Sys2Proof.Machine.execVldCluster f s
  | .vstGlobal f => Sys2Proof.Machine.execVstGlobal f s
  | .vstScratch f => Sys2Proof.Machine.execVstScratch f s
  | .vstCluster f => Sys2Proof.Machine.execVstCluster f s
  | .vldb f => Sys2Proof.Machine.execVldb f s
  | .vldx f => Sys2Proof.Machine.execVldx f s
  | .vstx f => Sys2Proof.Machine.execVstx f s
  | .sldGlobal f => Sys2Proof.Machine.execSldGlobal f s
  | .sldParam f => Sys2Proof.Machine.execSldParam f s
  | .sst f => Sys2Proof.Machine.execSst f s
  | .pref f => Sys2Proof.Machine.execPref f s
  | .cwb f => Sys2Proof.Machine.execCwb f s
  | .cinv f => Sys2Proof.Machine.execCinv f s
  | .atomI32 f => Sys2Proof.Machine.execAtomI32 f s
  | .atomI64 f => Sys2Proof.Machine.execAtomI64 f s
  | .atomF32 f => Sys2Proof.Machine.execAtomF32 f s
  | .cas32 f => Sys2Proof.Machine.execCas32 f s
  | .cas64 f => Sys2Proof.Machine.execCas64 f s
  | .satom f => Sys2Proof.Machine.execSatom f s
  | .scas f => Sys2Proof.Machine.execScas f s
  | .redI32 f => Sys2Proof.Machine.execRedI32 f s
  | .redI64 f => Sys2Proof.Machine.execRedI64 f s
  | .redF32 f => Sys2Proof.Machine.execRedF32 f s
  | .redBf16x2 f => Sys2Proof.Machine.execRedBf16x2 f s
  | .fence f => Sys2Proof.Machine.execFence f s
  | .xfence f => Sys2Proof.Machine.execXfence f s
  | .bar f => Sys2Proof.Machine.execBar f s
  | .bara f => Sys2Proof.Machine.execBara f s
  | .barw f => Sys2Proof.Machine.execBarw f s
  | .waita32 f => Sys2Proof.Machine.execWaita32 f s
  | .waita64 f => Sys2Proof.Machine.execWaita64 f s
  | .wakea f => Sys2Proof.Machine.execWakea f s
  | .pflush f => Sys2Proof.Machine.execPflush f s
  | .pflushv f => Sys2Proof.Machine.execPflushv f s
  | .pbar f => Sys2Proof.Machine.execPbar f s
  | .stepset f => Sys2Proof.Machine.execStepset f s
  | .snap f => Sys2Proof.Machine.execSnap f s
  | .pstat f => Sys2Proof.Machine.execPstat f s
  | .mmaFp8 f => Sys2Proof.Machine.execMmaFp8 f s
  | .mmaBf16 f => Sys2Proof.Machine.execMmaBf16 f s
  | .mmaF16 f => Sys2Proof.Machine.execMmaF16 f s
  | .mmaInt8 f => Sys2Proof.Machine.execMmaInt8 f s
  | .mmas f => Sys2Proof.Machine.execMmas f s
  | .mzero f => Sys2Proof.Machine.execMzero f s
  | .mld f => Sys2Proof.Machine.execMld f s
  | .mst f => Sys2Proof.Machine.execMst f s
  | .mstBand f => Sys2Proof.Machine.execMstBand f s
  | .mrd f => Sys2Proof.Machine.execMrd f s
  | .mwr f => Sys2Proof.Machine.execMwr f s
  | .mscl f => Sys2Proof.Machine.execMscl f s
  | .batonTake f => Sys2Proof.Machine.execBatonTake f s
  | .batonPass f => Sys2Proof.Machine.execBatonPass f s
  | .batonQuery f => Sys2Proof.Machine.execBatonQuery f s
  | .mwait f => Sys2Proof.Machine.execMwait f s
  | .macq f => Sys2Proof.Machine.execMacq f s
  | .mrel f => Sys2Proof.Machine.execMrel f s
  | .mstep f => Sys2Proof.Machine.execMstep f s
  | .cpy f => Sys2Proof.Machine.execCpy f s
  | .cpyf f => Sys2Proof.Machine.execCpyf f s
  | .cpym f => Sys2Proof.Machine.execCpym f s
  | .cpyat f => Sys2Proof.Machine.execCpyat f s
  | .cpyz f => Sys2Proof.Machine.execCpyz f s
  | .cpyk f => Sys2Proof.Machine.execCpyk f s
  | .cpyp f => Sys2Proof.Machine.execCpyp f s
  | .cfill f => Sys2Proof.Machine.execCfill f s
  | .ccnl f => Sys2Proof.Machine.execCcnl f s
  | .cqry f => Sys2Proof.Machine.execCqry f s
  | .gthrX32 f => Sys2Proof.Machine.execGthrX32 f s
  | .gthrX64 f => Sys2Proof.Machine.execGthrX64 f s
  | .sctr f => Sys2Proof.Machine.execSctr f s
  | .collAllreduce f => Sys2Proof.Machine.execCollAllreduce f s
  | .collReducescatter f => Sys2Proof.Machine.execCollReducescatter f s
  | .collAllgather f => Sys2Proof.Machine.execCollAllgather f s
  | .collBcast f => Sys2Proof.Machine.execCollBcast f s
  | .collat f => Sys2Proof.Machine.execCollat f s
  | .nvsub f => Sys2Proof.Machine.execNvsub f s
  | .nvdb f => Sys2Proof.Machine.execNvdb f s
  | .nvcq f => Sys2Proof.Machine.execNvcq f s
  | .fput f => Sys2Proof.Machine.execFput f s
  | .fputa f => Sys2Proof.Machine.execFputa f s
  | .fget f => Sys2Proof.Machine.execFget f s
  | .fatomInt f => Sys2Proof.Machine.execFatomInt f s
  | .fatomF32 f => Sys2Proof.Machine.execFatomF32 f s
  | .fcas f => Sys2Proof.Machine.execFcas f s
  | .ffence f => Sys2Proof.Machine.execFfence f s
  | .tenq f => Sys2Proof.Machine.execTenq f s
  | .trenq f => Sys2Proof.Machine.execTrenq f s
  | .tset f => Sys2Proof.Machine.execTset f s
  | .tstat f => Sys2Proof.Machine.execTstat f s
  | .twait f => Sys2Proof.Machine.execTwait f s
  | .targ f => Sys2Proof.Machine.execTarg f s
  | .rgrow f => Sys2Proof.Machine.execRgrow f s
  | .rshrink f => Sys2Proof.Machine.execRshrink f s
  | .spalloc f => Sys2Proof.Machine.execSpalloc f s
  | .spfree f => Sys2Proof.Machine.execSpfree f s
  | .pin f => Sys2Proof.Machine.execPin f s
  | .tsplit f => Sys2Proof.Machine.execTsplit f s
  | .gopen f => Sys2Proof.Machine.execGopen f s
  | .gclose f => Sys2Proof.Machine.execGclose f s
  | .mmioRegisterWrite pa v sup => Sys2Proof.Machine.execMmioRegisterWrite pa v sup s
  | .partitionDescriptorWrite p off v sup => Sys2Proof.Machine.execPartitionDescriptorWrite p off v sup s
  | .keyLoad v sup => Sys2Proof.Machine.execKeyLoad v sup s
  | .keyErase v sup => Sys2Proof.Machine.execKeyErase v sup s
  | .keyReload v sup => Sys2Proof.Machine.execKeyReload v sup s
  | .xlrbaseWrite die v sup => Sys2Proof.Machine.execXlrbaseWrite die v sup s
  | .xlrtailWrite die v sup => Sys2Proof.Machine.execXlrtailWrite die v sup s
  | .faultFix v sup => Sys2Proof.Machine.execFaultFix v sup s
  | .faultDeny v sup => Sys2Proof.Machine.execFaultDeny v sup s
  | .xlinvPartition v sup => Sys2Proof.Machine.execXlinvPartition v sup s
  | .xlinvPage v sup => Sys2Proof.Machine.execXlinvPage v sup s
  | .xlinvPartitionAll v sup => Sys2Proof.Machine.execXlinvPartitionAll v sup s
  | .xlinvKey v sup => Sys2Proof.Machine.execXlinvKey v sup s
  | .xlinvAll v sup => Sys2Proof.Machine.execXlinvAll v sup s
  | .xlinvDone => Sys2Proof.Machine.execXlinvDone s
  | .walkStart die part page => Sys2Proof.Machine.execWalkStart die part page s
  | .walkComplete die part page => Sys2Proof.Machine.execWalkComplete die part page s
  | .faultRecordWrite die part page => Sys2Proof.Machine.execFaultRecordWrite die part page s
  | .rrtExchange core v sup => Sys2Proof.Machine.execRrtExchange core v sup s
  | .rrtExchangeMove core v sup => Sys2Proof.Machine.execRrtExchangeMove core v sup s
  | .coreHalt core v sup => Sys2Proof.Machine.execCoreHalt core v sup s
  | .coreHalted core => Sys2Proof.Machine.execCoreHalted core s
  | .coreRelease core v sup => Sys2Proof.Machine.execCoreRelease core v sup s
  | .rvtWrite core idx v sup => Sys2Proof.Machine.execRvtWrite core idx v sup s
  | .wayViabilityWrite l2 unit idx v sup => Sys2Proof.Machine.execWayViabilityWrite l2 unit idx v sup s
  | .opStepRequest v sup => Sys2Proof.Machine.execOpStepRequest v sup s
  | .opStepPlan => Sys2Proof.Machine.execOpStepPlan s
  | .opStepRowMoves => Sys2Proof.Machine.execOpStepRowMoves s
  | .opStepDispose => Sys2Proof.Machine.execOpStepDispose s
  | .opStepWays => Sys2Proof.Machine.execOpStepWays s
  | .opStepRamp => Sys2Proof.Machine.execOpStepRamp s
  | .opStepCommit => Sys2Proof.Machine.execOpStepCommit s
  | .opStepUpRaise => Sys2Proof.Machine.execOpStepUpRaise s
  | .opStepUpSettled => Sys2Proof.Machine.execOpStepUpSettled s
  | .partitionSwap v sup => Sys2Proof.Machine.execPartitionSwap v sup s
  | .swapDone => Sys2Proof.Machine.execSwapDone s
  | .postRederr v sup => Sys2Proof.Machine.execPostRederr v sup s
  | .postPosted v sup => Sys2Proof.Machine.execPostPosted v sup s
  | .asyncTrapEntry who => Sys2Proof.Machine.execAsyncTrapEntry who s
  | .frzResume who sup => Sys2Proof.Machine.execFrzResume who sup s
  | .frzReplay who sup => Sys2Proof.Machine.execFrzReplay who sup s
  | .frzKill who sup => Sys2Proof.Machine.execFrzKill who sup s
  | .frzFalsestart who sup => Sys2Proof.Machine.execFrzFalsestart who sup s
  | .frzPark who sup => Sys2Proof.Machine.execFrzPark who sup s
  | .frzRelease who sup => Sys2Proof.Machine.execFrzRelease who sup s
  | .crbaseWrite die v sup => Sys2Proof.Machine.execCrbaseWrite die v sup s
  | .crtailWrite die v sup => Sys2Proof.Machine.execCrtailWrite die v sup s
  | .consumptionRecordWrite die => Sys2Proof.Machine.execConsumptionRecordWrite die s
  | .nvmeQueuePairWrite qp off v sup => Sys2Proof.Machine.execNvmeQueuePairWrite qp off v sup s
  | .doorbellWridx part q v => Sys2Proof.Machine.execDoorbellWridx part q v s
  | .doorbellInline part q pkt => Sys2Proof.Machine.execDoorbellInline part q pkt s
  | .hostBar2Read part off n req => Sys2Proof.Machine.execHostBar2Read part off n req s
  | .hostBar2Write part off bytes req => Sys2Proof.Machine.execHostBar2Write part off bytes req s
  | .cxlSnoop pa => Sys2Proof.Machine.execCxlSnoop pa s
  | .mailboxGetinfo fn tag args => Sys2Proof.Machine.execMailboxGetinfo fn tag args s
  | .mailboxAttest fn tag args => Sys2Proof.Machine.execMailboxAttest fn tag args s
  | .mailboxSetop fn tag args => Sys2Proof.Machine.execMailboxSetop fn tag args s
  | .mailboxSetcap fn tag args => Sys2Proof.Machine.execMailboxSetcap fn tag args s
  | .mailboxHist fn tag args => Sys2Proof.Machine.execMailboxHist fn tag args s
  | .fwstage fn tag args => Sys2Proof.Machine.execFwstage fn tag args s
  | .fwcommit fn tag args => Sys2Proof.Machine.execFwcommit fn tag args s
  | .proofload fn tag args => Sys2Proof.Machine.execProofload fn tag args s
  | .partcfg fn tag args => Sys2Proof.Machine.execPartcfg fn tag args s
  | .svcHostLog die => Sys2Proof.Machine.execSvcHostLog die s
  | .svcMailboxEvent die => Sys2Proof.Machine.execSvcMailboxEvent die s
  | .svcRequestOp die => Sys2Proof.Machine.execSvcRequestOp die s
  | .svcReadCounter die => Sys2Proof.Machine.execSvcReadCounter die s
  | .svcReply die => Sys2Proof.Machine.execSvcReply die s
  | .inputPowerLoss => Sys2Proof.Machine.execInputPowerLoss s
  | .holdupRailsOff => Sys2Proof.Machine.execHoldupRailsOff s
  | .drainRecordWrite => Sys2Proof.Machine.execDrainRecordWrite s
  | .fullReset => Sys2Proof.Machine.execFullReset s
  | .bootVerify => Sys2Proof.Machine.execBootVerify s
  | .bootReleaseCores ok => Sys2Proof.Machine.execBootReleaseCores ok s
  | .bootTrainLinks ok => Sys2Proof.Machine.execBootTrainLinks ok s
  | .bootReadRecords confirmed ok => Sys2Proof.Machine.execBootReadRecords confirmed ok s
  | .bootTrainPorts ok => Sys2Proof.Machine.execBootTrainPorts ok s
  | .bootCreatePartitions => Sys2Proof.Machine.execBootCreatePartitions s
  | .memctlSectorRead pa read tag stateBad => Sys2Proof.Machine.execMemctlSectorRead pa read tag stateBad s
  | .l2Eviction pa => Sys2Proof.Machine.execL2Eviction pa s
  | .owqDrainEntry die mediaError => Sys2Proof.Machine.execOwqDrainEntry die mediaError s
  | .scrubLine pa symbols => Sys2Proof.Machine.execScrubLine pa symbols s
  | .pbarComplete who => Sys2Proof.Machine.execPbarComplete who s
  | .lapBoundary => Sys2Proof.Machine.execLapBoundary s
  | .timedActionFire => Sys2Proof.Machine.execTimedActionFire s
  | .launchPacketConsume part q => Sys2Proof.Machine.execLaunchPacketConsume part q s
  | .enqueueBufferDrain => Sys2Proof.Machine.execEnqueueBufferDrain s
  | .coordinatorSelect => Sys2Proof.Machine.execCoordinatorSelect s
  | .placeInstance die => Sys2Proof.Machine.execPlaceInstance die s
  | .dispatchAgeReserve die => Sys2Proof.Machine.execDispatchAgeReserve die s
  | .spillRefill die => Sys2Proof.Machine.execSpillRefill die s
  | .allowanceExpired sid => Sys2Proof.Machine.execAllowanceExpired sid s
  | .falseStart sid cause => Sys2Proof.Machine.execFalseStart sid cause s
  | .instanceEnd sid => Sys2Proof.Machine.execInstanceEnd sid s
  | .squadSave sid asked => Sys2Proof.Machine.execSquadSave sid asked s
  | .squadRestore sid core => Sys2Proof.Machine.execSquadRestore sid core s
  | .streamExchange who => Sys2Proof.Machine.execStreamExchange who s
  | .batonForcedPass core => Sys2Proof.Machine.execBatonForcedPass core s
  | .macroOpStep core mismatch => Sys2Proof.Machine.execMacroOpStep core mismatch s
  | .cpyfFollowonEnter cmd => Sys2Proof.Machine.execCpyfFollowonEnter cmd s
  | .copyComplete cmd => Sys2Proof.Machine.execCopyComplete cmd s
  | .gatherComplete cmd => Sys2Proof.Machine.execGatherComplete cmd s
  | .collectiveComplete cmd => Sys2Proof.Machine.execCollectiveComplete cmd s
  | .barrierWake who => Sys2Proof.Machine.execBarrierWake who s
  | .waitaResume who => Sys2Proof.Machine.execWaitaResume who s
  | .waitaPoll who => Sys2Proof.Machine.execWaitaPoll who s
  | .redCombineFlush die pa => Sys2Proof.Machine.execRedCombineFlush die pa s
  | .contentionWindow die => Sys2Proof.Machine.execContentionWindow die s
  | .proofKernelDispatch core kernel => Sys2Proof.Machine.execProofKernelDispatch core kernel s
  | .proofKernelResult core output => Sys2Proof.Machine.execProofKernelResult core output s
  | .captureWalkStart die set => Sys2Proof.Machine.execCaptureWalkStart die set s
  | .copyOnWrite pa => Sys2Proof.Machine.execCopyOnWrite pa s
  | .captureDeveloped set => Sys2Proof.Machine.execCaptureDeveloped set s
  | .captureFixed set => Sys2Proof.Machine.execCaptureFixed set s
  | .captureAbort set sup => Sys2Proof.Machine.execCaptureAbort set sup s
  | .parityUnitSend set unit => Sys2Proof.Machine.execParityUnitSend set unit s
  | .heartbeatSend => Sys2Proof.Machine.execHeartbeatSend s
  | .heartbeatMiss pkg => Sys2Proof.Machine.execHeartbeatMiss pkg s
  | .recoveryDetect pkg => Sys2Proof.Machine.execRecoveryDetect pkg s
  | .recoveryFence => Sys2Proof.Machine.execRecoveryFence s
  | .recoveryAbort => Sys2Proof.Machine.execRecoveryAbort s
  | .recoveryTrees => Sys2Proof.Machine.execRecoveryTrees s
  | .recoveryRebuild units => Sys2Proof.Machine.execRecoveryRebuild units s
  | .recoveryRestripe => Sys2Proof.Machine.execRecoveryRestripe s
  | .recoveryResume => Sys2Proof.Machine.execRecoveryResume s
  | .recoveryReport => Sys2Proof.Machine.execRecoveryReport s
  | .flitReceive m fwd flit => Sys2Proof.Machine.execFlitReceive m fwd flit s
  | .nakReceive m fwd n => Sys2Proof.Machine.execNakReceive m fwd n s
  | .replayTimeout m fwd => Sys2Proof.Machine.execReplayTimeout m fwd s
  | .retrainEnd m => Sys2Proof.Machine.execRetrainEnd m s
  | .switchTrim port p => Sys2Proof.Machine.execSwitchTrim port p s
  | .putPacket p => Sys2Proof.Machine.execPutPacket p s
  | .putaPacket p => Sys2Proof.Machine.execPutaPacket p s
  | .getreqPacket p => Sys2Proof.Machine.execGetreqPacket p s
  | .getrspPacket p => Sys2Proof.Machine.execGetrspPacket p s
  | .atomPacket p => Sys2Proof.Machine.execAtomPacket p s
  | .atomrspPacket p => Sys2Proof.Machine.execAtomrspPacket p s
  | .ackPacket p => Sys2Proof.Machine.execAckPacket p s
  | .collPacket p => Sys2Proof.Machine.execCollPacket p s
  | .enqPacket p => Sys2Proof.Machine.execEnqPacket p s
  | .rereqPacket p => Sys2Proof.Machine.execRereqPacket p s
  | .heartbeatPacket p => Sys2Proof.Machine.execHeartbeatPacket p s
  | .timesyncPacket p => Sys2Proof.Machine.execTimesyncPacket p s
  | .fatalPacket p => Sys2Proof.Machine.execFatalPacket p s
  | .abortPacket p => Sys2Proof.Machine.execAbortPacket p s
  | .trimmedHeaderReceive p => Sys2Proof.Machine.execTrimmedHeaderReceive p s
  | .rereqSend src => Sys2Proof.Machine.execRereqSend src s
  | .fabricRetxTimeout dst domain flow psn => Sys2Proof.Machine.execFabricRetxTimeout dst domain flow psn s
  | .timesyncSend => Sys2Proof.Machine.execTimesyncSend s
  | .timesyncLoss => Sys2Proof.Machine.execTimesyncLoss s
  | .powerSample meas => Sys2Proof.Machine.execPowerSample meas s
  | .telemetryWrite => Sys2Proof.Machine.execTelemetryWrite s
  | .keyRequestComplete => Sys2Proof.Machine.execKeyRequestComplete s
  | .napEnd who => Sys2Proof.Machine.execNapEnd who s
  | .memoryResponseReturn who => Sys2Proof.Machine.execMemoryResponseReturn who s
  | .hostCxlMemAccess pa write n => Sys2Proof.Machine.execHostCxlMemAccess pa write n s
  | .moduleIdleRetrain m sup => Sys2Proof.Machine.execModuleIdleRetrain m sup s
  | .uncorrectableFecCodeword port p => Sys2Proof.Machine.execUncorrectableFecCodeword port p s

end Sys2Proof.Machine
end

