-- ==== Sys2Proof/Machine/Fetch.lean ====
section
/-! DEFINITION. Fetching a line (R228 to R231), whether a stream may issue (R186), and the passage of time (R157, R186,
R188, R189). -/

namespace Sys2Proof.Machine

/-! ### Fetch -/

/-- What a fetch comes to: the stream does not issue now, or the line that it issues from. -/
inductive Fetched where
  | stop (s : State)
  | line (s : State) (bytes : List W8)

/-- The stream's denied pages are answered. -/
def State.clearDeny (s : State) : State := { s with st := s.st.cleared }

/-- A line's bytes from memory, the instruction cache left out: the refetch of R229. -/
def State.freshLine (s : State) (va : Nat) (e : TlbEntry) : List W8 :=
  (List.range 64).map fun i => s.viewByte s.sq.core e.key e.cp .l1 (e.pa va + i)

/-- The bytes of the line at `va`, after translation with X permission (R21, R35, R36). Only HBM and SCM hold code (DEDUCED, unsafe, log 19). -/
def State.fetchLine (s : State) (va : Nat) : Fetched :=
  match s.translate [(0, BitVec.ofNat 64 va)] .exec fun k => k == .memory with
  | .trap code addr _ i0 i1 => .stop (s.clearDeny.trap { code, tpc := s.st.pc, addr, mask := s.st.exec, info0 := i0, info1 := i1 })
  | .miss _ => .stop (s.park [(0, BitVec.ofNat 64 va)] .exec true [.memory])
  | .ok [] => .stop s
  | .ok (x :: _) => .line (s.clearDeny.keepTlb [x.2.2]) (s.codeLine va x.2.2)

/-- The translation that a fetch uses. -/
def State.codeEntry (s : State) (va : Nat) : Option TlbEntry := s.entryFor va .exec

/-- Sets of an instruction cache: 8 ways of 64-byte lines (R64) (DESIGN CHOICE, unsafe, log 15). -/
def iSetOf (va : Nat) : Nat := va / 64 % 256

/-- Puts a line first in an instruction cache, in place of the one of a full set that was filled longest ago. -/
def fillI (cs : List (Nat × Nat × List W8)) (x : Nat × Nat × List W8) : List (Nat × Nat × List W8) :=
  let set := cs.filter fun y => iSetOf y.2.1 == iSetOf x.2.1
  x :: match (if 8 ≤ set.length then set.getLast? else none) with
    | some v => cs.filter fun y => !(y.1 == v.1 && y.2.1 == v.2.1)
    | none => cs

/-- Keeps a line in the core's instruction cache, filled through the L2 or the RDC (R64), and in the stream. -/
def State.keepLine (s : State) (va : Nat) (bytes : List W8) (e : TlbEntry) : State :=
  let has := (s.core s.sq.core).icache.any fun x => x.1 == s.sq.inst.part && x.2.1 == va
  let s1 := if has then s
    else (s.fillLine s.sq.core e.key e.cp false e.c e.p (e.pa va)).updCore s.sq.core fun x =>
      { x with icache := fillI x.icache (s.sq.inst.part, va, bytes) }
  { s1 with st := { s1.st with line := some (BitVec.ofNat 64 va, bytes) } }

/-- R229: poison, parity after one refetch, and the conditions of ILLINE, in this order. -/
def State.checkLine (s : State) (va : Nat) (bytes : List W8) : Fetched :=
  let pcs := BitVec.ofNat 64 va
  match s.codeEntry va with
  | none => .stop s
  | some e =>
    let cached := (s.core s.sq.core).icache.any fun x => x.1 == s.sq.inst.part && x.2.1 == va
    let hurt := !cached && s.viewBad s.sq.core e.key e.cp .l1 (e.pa va)
    let broken := !cached && s.violates e.key (e.pa va)
    let good := if lineParityOk bytes then bytes else s.freshLine va e
    if hurt then .stop (s.consume .media pcs s.st.exec 1)
    else if broken then .stop ((s.keyFails e.key (e.pa va) PathCode.core).consume .integ pcs s.st.exec (BitVec.ofNat 64 e.key))
    else if !lineParityOk good then .stop (s.consume .mcheck pcs s.st.exec 0)
    else
      let lw := lineWord good
      if lineFaults lw ≠ 0 then
        .stop (s.trap { code := Cause.illine, tpc := s.st.pc, addr := pcs, mask := s.st.exec, info0 := BitVec.ofNat 64 lw, info1 := BitVec.ofNat 64 (lineFaults lw) })
      else .line (s.keepLine va good e) good

/-- A PC that is no PC: BADLAND, the target misaligned (R230, R231; DEDUCED, unsafe, log 20). -/
def State.badPc (s : State) : State := s.trap { code := Cause.badland, tpc := s.st.pc, addr := s.st.pc, mask := s.st.exec, info1 := allOnes64 }

/-- The LAND test of a handler's entry: a failure is a double fault (R231, R363). -/
def State.entryFails (s : State) (bytes : List W8) : Bool :=
  s.st.entering && !(lineLand (lineWord bytes) (pcSlot s.st.pc) && !lineIsExt (lineWord bytes) (pcSlot s.st.pc))

/-- Fetches the line at the stream's PC. After a join's reconvergence PC the stream goes on at the PC that follows it (R259). -/
def State.fetch (s : State) : Fetched :=
  let pc := s.st.pc
  if !pcValid pc then .stop s.badPc
  else
    let kept : Option (List W8) := match s.st.line with
      | some (a, b) => if a = pcLine pc ∧ !s.st.entering ∧ !s.st.skip then some b else none
      | none => none
    match kept with
    | some b => .line s b
    | none =>
      let va := (pcLine pc).toNat
      match s.fetchLine va with
      | .stop t => .stop t
      | .line t b =>
        if t.st.skip then .stop { t with st := { t.st with pc := pcNext pc (lineWord b), skip := false, line := none } }
        else if t.entryFails b then .stop (t.doubleFault { code := Cause.badland, tpc := pc, addr := pc, mask := t.st.exec, info2 := allOnes64 })
        else { t with st := { t.st with entering := false } }.checkLine va b

/-! ### Whether a stream may issue (R186) -/

/-- The JOIN entry on top waits for no fragment. -/
def Stream.joinFree (x : Stream) : Bool :=
  match x.stack with
  | e :: _ => e.sibling || e.frags.isEmpty
  | [] => true

/-- The focused stream's squad, wave and core let it run. -/
def State.runs (s : State) : Bool :=
  s.sq.place == .resident && !s.admin.holdup && !s.frozen.contains (clusterOfCore s.sq.core) && s.waveGoes s.sq s.wv

/-- The same of a stream of the active set, which may issue. -/
def State.allowed (s : State) : Bool := s.runs && s.st.active

/-- It is not blocked. -/
def Stream.unblocked (x : Stream) : Bool := x.wait == .none || (x.wait == .drained && x.joinFree)

/-- Whether its quadrant, which issues once a cycle, issues the focused stream: no active ready stream has a larger counter, nor an
equal one and was placed earlier (R186). -/
def State.chosen (s : State) : Bool :=
  let c := s.sq.core
  let me : Resident := ⟨s.sq, s.wv, s.st⟩
  decide ((s.core c).slotAt.getD (fun _ => 0) s.wv.quad ≤ s.cycle) &&
    ((s.quadStreams c s.wv.quad).filter fun e => e.isActive && s.residentReady e && e.who != s.me).all fun e =>
      decide (e.strm.lap < s.st.lap) || (decide (e.strm.lap = s.st.lap) && me.older e)

/-- A quadrant may issue again from a cycle on. -/
def State.putSlot (s : State) (c quad at_ : Nat) : State := s.updCore c fun x => { x with slotAt := Tab.put x.slotAt (fun _ => 0) quad at_ }

/-- The quadrant's issue of this cycle is taken. -/
def State.takeSlot (s : State) : State := s.putSlot s.sq.core s.wv.quad (s.cycle + 1)

def State.ready (s : State) : Bool := s.allowed && s.st.unblocked && decide (s.st.readyAt ≤ s.cycle) && (s.st.wait != .none || s.chosen)

/-! ### Time -/

/-- Length of a core cycle at a point, in units of 1 / (273 * 10^6) ns (R5). -/
def cycleUnits (p : Nat) : Nat := (if p = 0 then 140 else if p = 1 then 156 else if p = 2 then 182 else if p = 3 then 210 else 260) * 10 ^ 6

/-- A page whose walk has ended in a fault: a record is open, or the fault waits for room (R36). -/
def State.faulted (s : State) (part die page : Nat) : Bool :=
  s.recordOpen part page ||
    (s.die die).misses.any fun m => m.part == part && m.page == page && m.fault.isSome

/-- Every stream of the squad is parked on such a page (R36). -/
def State.allParked (s : State) (q : Squad) : Bool :=
  let xs := (q.streams.map (·.2)).filter fun x => x.wait != Wait.ended
  !xs.isEmpty && xs.all fun x => match x.wait with
    | .parked _ _ _ _ => x.pend.any fun p => s.faulted q.part (dieOfCore q.core) p
    | _ => false

/-- LEFT does not decrease (R157). -/
def State.leftStops (s : State) (q : Squad) : Bool :=
  q.place != .resident || s.frozen.contains (clusterOfCore q.core) || q.waves.any (fun w => w.bkpt.isSome) || s.allParked q

/-- A stream after n cycles: NAP's count, and the lap counter where nothing blocks it (R186, R260). -/
def Stream.age (x : Stream) (n : Nat) (counts : Bool) : Stream :=
  match x.wait with
  | .nap k => { x with wait := .nap (k - n) }
  | .none => if counts then { x with lap := x.lap + n } else x
  | _ => x

/-- Writes that have landed leave the in-flight list (R239). -/
def Wave.settle (w : Wave) (cycle : Nat) : Wave := { w with inflight := w.inflight.filter fun e => decide (cycle < e.land) }

/-- A squad after n cycles: its streams, which stand still while its cluster is frozen (R186, R261), its charge and its allowance. -/
def State.ageSquad (s : State) (n : Nat) (q : Squad) : Squad :=
  let q := q.landSplits s.cycle
  if q.place ≠ .resident then q
  else
    let left := if s.leftStops q then q.left else q.left - n
    let moved := if s.frozen.contains (clusterOfCore q.core) then q else q.mapWaves fun w => w.mapStreams fun x => x.age n (s.waveGoes q w)
    let aged := moved.mapWaves fun w => w.settle s.cycle
    { aged with resident := q.resident + n, left, expired := q.expired && decide (left = 0) }

/-- Squads whose allowance has run out become due (R159). -/
def State.dueAllowances (s : State) : State :=
  let out := s.everySquad.filter fun q => q.place == .resident && decide (q.left = 0) && !q.expired && !q.waves.all (·.ended)
  if out.isEmpty then s
  else
    let s1 := out.foldl (fun s q => s.due (.allowanceExpired q.sid)) s
    s1.mapSquads fun q => if out.any fun o => o.sid == q.sid then { q with expired := true } else q

/-- A core after n cycles: the hold counter of its baton (R188), and the cycles of its proof kernel, which is held where the lap's budget
is spent (R190). -/
def State.ageCore (s : State) (n c : Nat) : State :=
  let x := s.core c
  let s1 := if x.baton.isSome ∧ !x.fifo.isEmpty ∧ !s.frozen.contains (clusterOfCore c) then s.updCore c fun x => { x with hold := x.hold + n } else s
  let act : Spend := .proof (dieOfCore c)
  if x.proof.isSome then
    s1.spend act (match s1.budget act with
      | some b => min n (b - s1.spentOn act)
      | none => n)
  else s1

/-- The point whose clock runs: the target's from stage 5 of a downward step on (R56); an upward step raises the clock with its last stages
(R59). -/
def State.clockPoint (s : State) : Nat :=
  if s.power.stepping ∧ !s.power.up ∧ 5 ≤ s.power.stage then s.power.target else s.power.point

/-- n core cycles pass. -/
def State.tick (s : State) (n : Nat) : State :=
  let rate : Int := 10 ^ 6 + s.fab.rate
  let s1 : State := { s with cycle := s.cycle + n, gtbAcc := s.gtbAcc + n * cycleUnits s.clockPoint * rate.toNat / 10 ^ 6 }
  let s2 := (s1.cores.map (·.1)).foldl (fun s c => s.ageCore n c) s1
  let s3 := (s2.mapSquads fun q => s2.ageSquad n q).dueAllowances
  if s3.lapNow = s3.lap then s3 else s3.due .lapBoundary

end Sys2Proof.Machine
end

