-- ==== Sys2Proof/Machine/Issue.lean ====
section
/-! DEFINITION. Issue of one instruction or one pair (R187, R241), turns, and the turn that is taken when the agenda names
none (DESIGN CHOICE, unsafe, log 1). Noncomputable for the reason that Decode gives. -/

namespace Sys2Proof.Machine

/-! ### One instruction -/

/-- Slot i of a line with its extension slot (R228, R232). -/
def slotAt (bytes : List W8) (i : Nat) : Nat × Option Ext :=
  (lineSlot bytes i, if lineJoin (lineWord bytes) i then some (Ext.ofNat (lineSlot bytes (i + 1))) else none)

/-- R374: S, V, M and A format issue twice under SHADOW. -/
def twice : Shape → Bool
  | .s _ _ _ | .v _ _ _ | .m _ _ _ | .a _ _ _ => true
  | _ => false

/-- The second of two issue slots: it is taken from the quadrant too, and the stream's next instruction comes no earlier than two cycles
on (R239, R374) (DEDUCED, unsafe, log 42). -/
def State.spaced (s : State) (two : Bool) (o : Out) : Out :=
  match o with
  | .next t =>
    if s.wv.shadow && two then
      let t1 := t.putSlot s.sq.core s.wv.quad (s.cycle + 2)
      .next (if t1.me == s.me then { t1 with st := { t1.st with readyAt := max t1.st.readyAt (s.cycle + 2) } } else t1)
    else o
  | x => x

/-- Check 2 of R241, then the instruction. -/
noncomputable def State.performSlot (s : State) (w : Nat × Option Ext) : Out :=
  match decodeSlot w.1 w.2 with
  | .ok i => s.spaced (twice i.shape) (exec i s)
  | .error _ => illop s

/-! ### Pairs (R187) -/

/-- Kinds of member: S, B or Q; V; M or A; another. -/
def shapeMember : Shape → Nat
  | .s _ _ _ | .b _ _ _ | .q _ _ _ => 1
  | .v _ _ _ => 2
  | .m _ _ _ | .a _ _ _ => 3
  | .x _ _ _ | .event => 0

/-- A V instruction with one of the other kinds, and no register that both write. -/
def legalPair (a b : Instr) : Bool :=
  let x := shapeMember a.shape
  let y := shapeMember b.shape
  ((x == 2 && (y == 1 || y == 3)) || (y == 2 && (x == 1 || x == 3))) &&
    !(a.shape.named.writes.any fun r => b.shape.named.writes.contains r)

/-- The state that an outcome holds. -/
def outState (o : Out) (s : State) : State :=
  match o with
  | .next t => t
  | _ => s

/-- A member, alone, took a trap or a consumption. -/
def trapped (s t : State) : Bool := t.me == s.me && t.st.traps != s.st.traps && (t.st.wait == .frozen || t.st.trap.pc == s.st.pc)

/-- A member, alone, waits with nothing of it performed. -/
def waits (s t : State) : Bool :=
  t.me == s.me && t.st.pc == s.st.pc && match t.st.wait with
    | .none | .pbar _ _ | .frozen | .ended | .drained => false
    | _ => true

def State.atPc (s : State) (pc : W64) : State := { s with st := { s.st with pc } }


/-- Performs both members: the V member's writes land later than the other member reads, what the other member does to PC
and EXEC comes last, and the V member's flags are ORed after the other member's write of FLG (R211). -/
noncomputable def State.performBoth (s : State) (v o : Instr) (vpc opc pc : W64) : Out :=
  let unflagged : State := { s with wv := { s.wv with flg := 0 } }
  let s1 := outState (exec v (unflagged.atPc vpc)) s
  let back : State := { s1 with
    wv := { s1.wv with sbchk := false, flg := s.wv.flg },
    st := { s1.st with pc := opc, wait := .none, issued := s.st.issued, readyAt := s.st.readyAt } }
  match exec o back with
  | .next t =>
    let wv := { t.wv with sbchk := if t.wv.sbchk then true else s.wv.sbchk, flg := t.wv.flg ||| s1.wv.flg }
    if t.me ≠ s.me then .next { t with wv }
    else
      let issued := max t.st.issued s1.st.issued
      let st := { t.st with issued, readyAt := max t.st.readyAt s1.st.readyAt, dist := mergeDist s1.st.dist t.st.dist,
                            pc := if t.st.pc = opc ∧ t.st.wait ≠ .none then pc else t.st.pc }
      .next { t with wv, st }
  | x => x

/-- A pair at slots j and j + 1: neither member is performed where one traps or waits (DEDUCED, unsafe, log 41). -/
noncomputable def State.performPair (s : State) (a b : Nat × Option Ext) : Out :=
  let pc := s.st.pc
  let pc2 := pc + 1
  match decodeSlot a.1 a.2, decodeSlot b.1 b.2 with
  | .error _, _ => illop s
  | .ok _, .error _ => illop (s.atPc pc2)
  | .ok i, .ok j =>
    if !legalPair i j then illop s
    else
      let ta := outState (exec i s) s
      let tb := outState (exec j (s.atPc pc2)) s
      if trapped s ta then .next ta
      -- a consumption's decision issues the pair again (R373)
      else if trapped (s.atPc pc2) tb then .next (if tb.st.wait = .frozen then tb.atPc pc else tb)
      else if waits s ta then .next (ta.atPc pc)
      else if waits (s.atPc pc2) tb then .next (tb.atPc pc)
      else s.spaced true (if shapeMember i.shape = 2 then s.performBoth i j pc pc2 pc else s.performBoth j i pc2 pc pc)

/-! ### Issue -/

/-- The focused stream issues what stands at its PC. -/
noncomputable def State.issue (s : State) : Out :=
  if s.st.trap.pend ∧ !s.st.trap.hmode ∧ !s.st.skip then .next s.enterPending
  else if s.sq.overdue ∧ s.sq.overtime = some s.wv.widx ∧ !s.st.trap.hmode ∧ !s.st.skip then .next s.afterOvertime
  else match s.fetch with
    | .stop t => .next t
    | .line t bytes =>
      let i := pcSlot t.st.pc
      let lw := lineWord bytes
      let t1 : State := { t with st := { t.st with npc := pcNext t.st.pc lw, wait := .none } }
      if linePair lw i then t1.performPair (slotAt bytes i) (slotAt bytes (i + 1)) else t1.performSlot (slotAt bytes i)

/-- What an attempt to issue comes to: one that only waits leaves its quadrant's slot as it was, since a stream that waits is not ready
(R186). -/
def State.slotKept (s : State) (o : Out) : Out :=
  match o with
  | .next t => if waits s t then .next (t.putSlot s.sq.core s.wv.quad ((s.core s.sq.core).slotAt.getD (fun _ => 0) s.wv.quad)) else o
  | x => x

/-- What an instruction that waited comes to as it is tried again: it waits on, or its stream is ready again (R186). -/
def State.retried (s : State) (o : Out) : Out :=
  match o with
  | .next t => if waits s t then .next t else .next { s with st := { s.st with wait := .none, lap := 0 } }
  | x => x

/-- A turn of the focused stream, which may not be able to use it; an instruction that waited is issued again once its quadrant chooses
its stream, and a pending stream that waited becomes ready to be exchanged in (DESIGN CHOICE, unsafe, log 24). -/
noncomputable def State.takeTurn (s : State) : Out :=
  if !s.runs ∨ s.cycle < s.st.readyAt then .next s
  else if !s.st.active then .next (if s.st.wait = .blocked then { s with st := { s.st with wait := .none, lap := 0 } } else s)
  else match s.st.wait with
    | .none => if s.chosen then s.slotKept s.takeSlot.issue else .next s
    | .blocked => if s.chosen then s.slotKept s.takeSlot.issue else s.retried s.issue
    | .drained => .next (if s.st.joinFree then s.drained else s)
    | _ => .next s

/-- The requests of a stream's instruction that have been executed are forgotten once it waits no more. -/
def State.grantsKept (s : State) (o : Out) : Out :=
  match o with
  | .next t => if waits s t then o else .next (t.dropGrants s.me)
  | x => x

/-- Requests that the receivers of the die links have accepted. -/
def State.granted (s : State) : List StreamId := s.links.flatMap fun (e : Nat × LinkDir) => e.2.granted.map fun (m : LinkMsg) => m.who

/-- A flit's message is executed as the flit is accepted: the instruction that waits for it is performed (R385) (DESIGN CHOICE, unsafe,
log 71). -/
noncomputable def State.performGranted (s : State) (before : List StreamId) : Out :=
  match s.granted.find? fun who => !before.contains who with
  | none => .next s
  | some who =>
    let f := s.focus who
    if s.has who && f.runs && f.st.wait == .blocked then f.grantsKept f.issue else .next s

/-- Clears the upset of a turn (R374). -/
def calm : Out → Out
  | .next t => .next { t with upset := 0 }
  | x => x

/-! ### A full OWQ (R89, R98) -/

/-- The dies whose OWQs have accepted entries between two states. -/
def State.owqGrew (s t : State) : List Nat := (List.range 4).filter fun d => decide ((s.die d).owqLast < (t.die d).owqLast)

/-- A waiter that can still come to its turn: a stream that runs and whose instruction waits, or an event. -/
def State.stillWaits (s : State) : Waiter → Bool
  | .stream who => s.has who && ((s.focus who).runs && (s.focus who).st.wait == .blocked)
  | .turn _ => true

/-- What a turn has put into an OWQ has found room there; what is more than a whole queue goes on from an empty one, which it drains itself
(`State.accept`). -/
def State.owqRoom (s t : State) (d : Nat) : Bool :=
  decide ((t.die d).owqLast - (s.die d).owqLast ≤ owqCap - (s.die d).owq.length) || (s.die d).owq.isEmpty

/-- What leads from `s` to `t` finds room in the OWQs, all of it, and nothing that came before it waits for one of them: nothing is
dropped, and all sources wait in sequence of arrival. -/
def State.owqPasses (s t : State) (w : Waiter) : Bool :=
  (s.owqGrew t).all fun d =>
    s.owqRoom t d &&
      (s.owqWait.takeWhile fun e => e.1 != w).all fun e => !(e.2.contains d && s.stillWaits e.1)

/-- A waiter takes its place among those that wait, and keeps it. -/
def State.waitsForOwq (s : State) (w : Waiter) (dies : List Nat) : State :=
  { s with owqWait := if s.owqWait.any fun e => e.1 == w then s.owqWait.map fun e => if e.1 = w then (w, dies) else e
                      else s.owqWait ++ [(w, dies)] }

/-- A turn from `s`, which a full OWQ holds as it was before it: a stream's instruction is issued again, and an event comes again. -/
def State.owqGate (s : State) (w : Waiter) (o : Out) : Out :=
  match o with
  | .next t =>
    if s.owqPasses t w then .next { t with owqWait := t.owqWait.filter fun e => e.1 != w }
    else
      let held := s.waitsForOwq w (s.owqGrew t)
      .next (match w with
        | .stream _ => if s.st.wait = .none then held.hold .blocked else held
        | .turn _ => held)
  | x => x

/-! ### What every step ends with -/

/-- Queues that have become ACTIVE take their reservations, and flows without an eligible instance lose their credit, as soon as they do
(R176, R179). -/
def State.tidy (s : State) : State := s.reserveNodes.dropCredit

def tidied : Out → Out
  | .next t => .next t.tidy
  | x => x

/-! ### Turns -/

/-- The regions of the partition that holds a failed key end, where its tables name the key (R82), once the OWQs have room for what that
brings. -/
def State.carryKills (s : State) : State :=
  match s.keyKills with
  | [] => s
  | ks =>
    let ps := (ks.filter fun k => s.tablesName (s.key k).owner k).map fun k => (s.key k).owner
    let t := { s with keyKills := [] }.killWhere fun i => ps.contains i.part
    if (s.owqGrew t).all fun d => s.owqRoom t d then t else s

/-- Events that go on between the loss of input power and the reset after it (R96). -/
def inHoldup (i : Instr) : Bool :=
  match i with
  | .owqDrainEntry _ _ | .holdupRailsOff | .drainRecordWrite | .fullReset => true
  | _ => false

/-- An event of the agenda, in the hold-up too (DEDUCED, safe, log 2). -/
noncomputable def State.runEvent (s : State) (i : Instr) : Out :=
  if s.admin.holdup ∧ !inHoldup i then .next s
  else match i.shape with
    | .event => exec i s
    | _ => .next s

/-- What the ports, the mailboxes, the write paths and Mladeno do beside the table's events, except in the hold-up. -/
noncomputable def State.deviceTurn (s : State) (t : Turn) : Out :=
  match t with
  | .writeThrough core => s.owqGate (.turn t) (.next (match (s.core core.toNat).through with
    | [] => s.updCore core.toNat fun x => { x with lags := x.lags.drop 1 }
    | w :: r => (s.updCore core.toNat fun x => { x with through := r }).landThrough core.toNat w))
  | .tileError core tile row col => .next (s.tileError core.toNat tile.toNat row.toNat col.toNat)
  | .proofConsumption core => .next (s.proofConsumption core.toNat)
  | .cxlWindow base size => .next (s.putCxlWindow base size)
  | .bar0Read fn off n => .next (s.bar0Read fn off n)
  | .bar0Write fn off bytes split => s.owqGate (.turn t) (s.bar0Write fn off bytes split)
  | .boxServe fn => s.owqGate (.turn t) (s.boxServe fn)
  | .portSend port => .next (s.portSend port.toNat)
  | .portCredit port n => .next (s.portCredit port.toNat n)
  | .portReceive port bytes => match rawPacket port bytes with
    | some e => s.owqGate (.turn t) (s.runEvent (packetEvent e.1 e.2))
    | none => .next s
  | .heldPackets => s.owqGate (.turn t) (.next s.performHeld)
  | .paths dst n => .next (s.setPaths dst.toNat n)
  | .timeSources domain list => .next (s.setSources domain.toNat list)
  | .domainBinding domain part => .next (s.bindDomain domain.toNat part.toNat)
  | .roundTrip port ticks => .next (s.measured port.toNat ticks)
  | .stream _ _ _ | .event _ | .scratchError _ _ _ | .saveArea _ _ _ | .domain _ _ _ => .next s

/-- A turn. A stream's comes when it can issue, and `delay` cycles later. -/
noncomputable def State.runTurn (s : State) (t : Turn) : Out :=
  match t with
  | .event i => s.owqGate (.turn t) (match s.runEvent i with
    | .next u => u.performGranted s.granted
    | x => x)
  | .stream who delay upset =>
    if !s.has who then .fault (.noSuchStream who)
    else
      let s1 := s.focus who
      let n := (s1.st.readyAt - s1.cycle) + delay
      let s2 := if n = 0 then s1 else s1.tick n
      let s3 : State := { s2 with upset }
      s2.owqGate (.stream who) (calm (s3.grantsKept s3.takeTurn))
  | .scratchError core word double => .next (s.scratchError core.toNat word double)
  | .saveArea die base size => .next (s.placeSaveArea die.toNat base size)
  | .domain part fdom act => s.owqGate (.turn t) (.next (s.decideDomain part.toNat fdom.toNat act))
  | t => if s.admin.holdup then .next s else s.deviceTurn t

/-- The event of the table that a due event is. -/
noncomputable def Due.event : Due → Instr
  | .walkStart d p g => .walkStart (BitVec.ofNat 2 d) (BitVec.ofNat 4 p) (BitVec.ofNat 39 g)
  | .walkComplete d p g => .walkComplete (BitVec.ofNat 2 d) (BitVec.ofNat 4 p) (BitVec.ofNat 39 g)
  | .faultRecord d p g => .faultRecordWrite (BitVec.ofNat 2 d) (BitVec.ofNat 4 p) (BitVec.ofNat 39 g)
  | .instanceEnd k => .instanceEnd k
  | .falseStart k c => .falseStart k c
  | .allowanceExpired k => .allowanceExpired k
  | .lapBoundary => .lapBoundary

/-! ### The turn without an agenda (DESIGN CHOICE, unsafe, log 1) -/

/-- A stream's readiness, with it in focus. -/
def State.readyOf (s : State) (who : StreamId) : Bool := (s.focus who).ready

/-- Events that a stream's wait may end with. -/
noncomputable def waitEvents (who : StreamId) : List Turn :=
  [.event (.barrierWake who), .event (.waitaResume who), .event (.waitaPoll who), .event (.napEnd who),
   .event (.pbarComplete who), .event (.memoryResponseReturn who), .event (.streamExchange who)]

/-- Events of a core, and of a die. -/
noncomputable def coreEvents (c : Nat) : List Turn :=
  [.event (.macroOpStep (BitVec.ofNat 8 c) none), .event (.batonForcedPass (BitVec.ofNat 8 c)), .event (.coreHalted (BitVec.ofNat 8 c))]

noncomputable def dieEvents (d : Nat) : List Turn :=
  let x := BitVec.ofNat 2 d
  [.event (.spillRefill x), .event (.placeInstance x), .event (.consumptionRecordWrite x), .event (.owqDrainEntry x false)]

/-- Events of a command. -/
noncomputable def commandEvents (k : Nat) : List Turn :=
  [.event (.cpyfFollowonEnter k), .event (.copyComplete k), .event (.gatherComplete k), .event (.collectiveComplete k)]

/-- Packets of the queues of valid partitions. -/
noncomputable def State.queueEvents (s : State) : List Turn :=
  ((List.range 16).filter s.partValid).flatMap fun p =>
    (List.range (bits (s.part p 0x18) 10 0)).map fun q => .event (.launchPacketConsume (BitVec.ofNat 4 p) (BitVec.ofNat 10 q))

/-- Events of the snapshot sets. -/
noncomputable def State.snapEvents (s : State) : List Turn :=
  s.snaps.flatMap fun e =>
    let q := BitVec.ofNat 6 e.1
    (List.range 4).map (fun d => Turn.event (.captureWalkStart (BitVec.ofNat 2 d) q)) ++ [.event (.captureDeveloped q)] ++
      (List.range (s.dataUnits e.1)).map (fun u => Turn.event (.parityUnitSend q u)) ++ [.event (.captureFixed q)]

/-- A blocked stream whose instruction may be issued again now. -/
def State.mayRetry (s : State) (who : StreamId) : Bool :=
  let t := s.focus who
  t.runs && t.st.wait == .blocked && decide (t.st.readyAt ≤ s.cycle)

/-- Squads whose waves have ended. -/
noncomputable def State.endEvents (s : State) : List Turn :=
  (s.everySquad.filter fun q => q.place == .resident && q.waves.all (·.ended)).map fun q => .event (.instanceEnd q.sid)

/-- Misses of a die that wait for a walker, or for a record. -/
noncomputable def State.missEvents (s : State) (d : Nat) : List Turn :=
  ((s.die d).misses.take missEntries).filterMap fun m =>
    if m.fault.isNone && !m.walking then some (.event (Due.walkStart d m.part m.page).event)
    else if m.fault.isSome && !m.recorded then some (.event (Due.faultRecord d m.part m.page).event)
    else none

/-- Turns that a full OWQ has held. -/
def State.heldTurns (s : State) : List Turn :=
  s.owqWait.filterMap fun e => match e.1 with
    | .turn t => some t
    | .stream _ => none

/-- What the die links do of themselves. -/
noncomputable def State.linkEvents (s : State) : List Turn :=
  (distinct (s.links.map fun (e : Nat × LinkDir) => e.1 / 2)).flatMap fun m =>
    let m6 := BitVec.ofNat 6 m
    [false, true].flatMap (fun fwd => ((s.flitDue m fwd).toList.map fun f => Turn.event (.flitReceive m6 fwd f)) ++ [.event (.replayTimeout m6 fwd)]) ++
      [.event (.retrainEnd m6)]

/-- What the cores' write paths, the proof kernels that are due, the mailboxes and the ports do of themselves. -/
noncomputable def State.deviceEvents (s : State) : List Turn :=
  (s.coreList.filter fun c => !(s.core c).through.isEmpty || !(s.core c).lags.isEmpty).map (fun c => Turn.writeThrough (BitVec.ofNat 8 c)) ++
    s.coreList.flatMap (fun c => (s.core c).proofDue.map fun k => Turn.event (.proofKernelDispatch (BitVec.ofNat 8 c) k)) ++
    (s.admin.boxes.filter fun (e : Nat × Mailbox) => e.2.busy).map (fun e => Turn.boxServe (BitVec.ofNat 5 e.1)) ++
    (distinct (s.fab.queue.map fun (e : PortEntry) => e.port)).map (fun p => Turn.portSend (BitVec.ofNat 4 p)) ++
    (if s.fab.rx.any fun (t : RxFlow) => !t.held.isEmpty then [.heldPackets] else [])

/-- What may come about of itself, in the order in which it is tried. -/
noncomputable def State.candidates (s : State) : List Turn :=
  s.streamIds.flatMap waitEvents ++ ((s.streamIds.filter s.mayRetry).map fun who => .stream who 0 0) ++ s.heldTurns ++
    s.cmds.flatMap (fun c => commandEvents c.id) ++ s.endEvents ++ s.coreList.flatMap coreEvents ++ (List.range 4).flatMap s.missEvents ++
    [.event .timedActionFire, .event .xlinvDone, .event .keyRequestComplete, .event .opStepPlan, .event .opStepRowMoves, .event .opStepDispose,
     .event .opStepWays, .event .opStepRamp, .event .opStepCommit, .event .opStepUpRaise, .event .opStepUpSettled, .event .swapDone,
     .event .enqueueBufferDrain, .event .coordinatorSelect] ++ (List.range 4).flatMap dieEvents ++ s.queueEvents ++ s.snapEvents ++ s.linkEvents ++
    s.deviceEvents

/-- The state in which a turn starts: the focus alone changes. -/
def State.before (s : State) (t : Turn) : State :=
  match t with
  | .stream who _ _ => s.focus who
  | _ => s

/-- The first turn that changes more than the focus. -/
noncomputable def State.firstChange (s : State) : List Turn → Option State
  | [] => none
  | t :: r =>
    match s.runTurn t with
    | .next s1 => if s1 = s.before t then s.firstChange r else some s1
    | _ => s.firstChange r

/-- The cycles until the next stream can issue. -/
def State.idleCycles (s : State) : Nat :=
  let at_ := (s.everySquad.flatMap fun q => q.streams.filter fun e =>
    (e.2.unblocked || e.2.wait == .blocked) && decide (s.cycle < e.2.readyAt)).map fun e => e.2.readyAt - s.cycle
  (at_.min?).getD 1

/-- A pending stream whose quadrant exchanges it in at once (R186). -/
def State.dueExchange (s : State) : Option StreamId :=
  s.streamIds.find? fun who => match s.resident? who with
    | some e => s.exchanges e
    | none => false

/-- The focused stream while it is ready, then what is due, then an exchange, then another ready stream, then what comes about of
itself; else time passes. -/
noncomputable def State.defaultTurn (s : State) : Out :=
  if s.ready then s.owqGate (.stream s.me) (calm (s.grantsKept s.takeTurn))
  else match s.pending with
    | e :: r => { s with pending := r }.runTurn (.event e.event)
    | [] =>
      match s.dueExchange with
      | some who => s.runEvent (.streamExchange who)
      | none =>
        match s.streamIds.find? s.readyOf with
        | some who => s.runTurn (.stream who 0 0)
        | none =>
          match s.firstChange s.candidates with
          | some t => .next t
          | none => .next (s.tick s.idleCycles)

/-! ### A program from outside (DESIGN CHOICE, unsafe, log 14) -/

/-- Where `withFetchWord` places its line: virtual and physical. -/
def fetchVa : Nat := 0x10000
def fetchPa : Nat := 0x200000

/-- The line that holds an instruction in slot 0. -/
def wordLine (nbits w : Nat) : List W8 :=
  if tableJoined nbits w then makeLine [w % 2 ^ 96, w / 2 ^ 96] 1 0 1 else makeLine [w % 2 ^ 96] 1 0 0

/-- The translation of the page that holds the line. -/
def fetchEntry : TlbEntry :=
  { part := 0, global := false, size := 16, vpage := fetchVa / 2 ^ 16, ppage := fetchPa / 2 ^ 16, key := 0, cp := 0, c := false, p := false,
    x := true, w := true, r := true, d := true }

/-- A squad of one wave of partition 0 on core 0, with the PC at the line. -/
def fetchSquad (sid : Nat) : Squad :=
  { Squad.none with sid, place := .resident, inst := { Instance.none with allow := 2 ^ 40 }, left := 2 ^ 40 }

def State.install (s : State) (nbits w : Nat) : State :=
  let sid := s.sched.nextSquad
  let lap := (s.everySquad.flatMap fun q => q.streams.map fun e => e.2.lap + 1).foldl max 0
  let s1 := { s with
    squads := s.everySquad, sq := fetchSquad sid, wv := Wave.start 0 0 0 32, st := { Stream.start (BitVec.ofNat 64 fetchVa) with readyAt := s.cycle, lap },
    mem := Tab.putAll s.mem (fun _ => 0) ((wordLine nbits w).zipIdx.map fun (e : W8 × Nat) => (fetchPa + e.2, e.1)),
    bad := s.bad.filter fun x => x != sectorOf fetchPa, secKey := Tab.put s.secKey (fun _ => 0) (sectorOf fetchPa) 0,
    frozen := s.frozen.filter fun c => c != 0, agenda := [], owqWait := [], keyKills := [],
    admin := { s.admin with holdup := false, off := false }, sched := { s.sched with nextSquad := sid + 1 } }
  let s2 := s1.updCore 0 fun x => { x with halt := false, halted := false, icache := x.icache.filter fun e => !(e.1 == 0 && e.2.1 == fetchVa),
                                           returning := x.returning.filter fun e => e.1 != sid, l1 := [], slotAt := Tab.erase x.slotAt 0,
                                           tlb := x.tlb.filter fun e => !e.covers 0 fetchVa }
  let s3 := s2.updDie 0 fun x => { x with tlb := fetchEntry :: x.tlb.filter fun e => !e.covers 0 fetchVa, rdc := [] }
  (s3.setReg (Mmio.partition 0) (s3.part 0 0 ||| 1)).setReg (Mmio.partition 0 + 0x20) (s3.part 0 0x20 ||| 1)

end Sys2Proof.Machine
end

