-- ==== Sys2Proof/Machine/Step.lean ====
section
/-! DEFINITION. One step: the next turn of the agenda, or the turn that is taken without one (DESIGN CHOICE, unsafe, log 1). -/

namespace Sys2Proof.Machine

noncomputable def step (s : State) : Host.Outcome State Fault Refusal :=
  let s1 := s.carryKills
  tidied (match s1.agenda with
    | [] => s1.defaultTurn
    | t :: r => State.runTurn { s1 with agenda := r } t)

/-- `s` with an instruction in slot 0 of the line that the focused stream, a new wave on core 0, fetches next (DESIGN CHOICE, unsafe, log 14). -/
def State.withFetchWord (s : State) (nbits w : Nat) : State := s.install nbits w

end Sys2Proof.Machine
end

