-- ==== Sys2Proof/Safety.lean ====
section
/-! DEFINITION. What counts as a safe run, and the terms that claims use: what an instruction reads and writes, and what it
leaves as it was. -/

namespace Sys2Proof.Machine

/-! ### Safe states and steps -/

/-- The canonical form of a memory: addresses strictly rising, and no entry that holds zero, which is what an unlisted byte
reads as (DESIGN CHOICE, unsafe, log 3). -/
def Memory.wf (m : Tab W8) : Bool := Tab.wf m fun _ => 0

/-- Memory and the SCM media are in canonical form. -/
def State.memoryWf (s : State) : Bool := Memory.wf s.mem && Memory.wf s.media

/-- A step that ends in neither a fault nor a refusal. -/
def safeStep (s : State) : Prop := ∃ t, step s = .next t

/-! ### When an instruction executes -/

/-- The checks before an instruction's own let one that names the registers `n` pass: they are allocated, no source is under
its stall (R241), none is the target of an MRD still to be performed or a tracked result that has not landed (R239), and
duplicated issue agrees (R374). -/
abbrev State.clearOf (s : State) (n : Named) : Prop :=
  n.unallocated s.wv.gran = false ∧ s.stallUnder n = none ∧ s.awaitsRow n = false ∧ s.unlanded n = [] ∧
    (s.wv.shadow = true → s.upset = 0)

/-- The checks before an instruction's own let `i` pass. -/
abbrev State.clear (s : State) (i : Instr) : Prop := s.clearOf i.shape.named

/-! ### What is left as it was -/

/-- Nothing but the focused wave and stream differs, and no byte of memory reads otherwise. -/
def keepsRest (s t : State) : Prop := t = { s with wv := t.wv, st := t.st } ∧ ∀ a, t.byteAt a = s.byteAt a

/-- Scalar registers other than `ns` read as before. -/
def keepsScalars (s t : State) (ns : List Nat) : Prop := ∀ m, m ∉ ns → t.readS m = s.readS m

/-- Vector registers other than `ns` read as before. -/
def keepsVectors (s t : State) (ns : List Nat) : Prop := ∀ m l, l < 64 → m ∉ ns → t.readV m l = s.readV m l

/-- Mask registers other than `ns` read as before. -/
def keepsMasks (s t : State) (ns : List Nat) : Prop := ∀ m, m ∉ ns → t.readM m = s.readM m

/-- The wave is as before but for its register files, its writes in flight and its pending destinations. -/
def keepsWave (s t : State) : Prop :=
  t.wv = { s.wv with v := t.wv.v, s := t.wv.s, m := t.wv.m, inflight := t.wv.inflight, tracked := t.wv.tracked, flg := t.wv.flg,
                     lfsr := t.wv.lfsr }

/-- The stream has ended the instruction: it stands at `pc`, waits for nothing, and issues next after the STALL of the slot and
at least `cost` cycles (R239). All else of it is as before but for the distances of R240. -/
def retiresTo (s t : State) (h : Head) (pc : W64) (cost : Nat) : Prop :=
  t.st = { s.st with pc, wait := .none, readyAt := s.cycle + max (max 1 h.stall.toNat) cost,
                     issued := s.st.issued + max 1 h.stall.toNat, lap := 0, dist := t.st.dist }

/-- The stream has ended the instruction in sequence (R230). -/
def retires (s t : State) (h : Head) : Prop := retiresTo s t h s.st.npc 0

/-! ### What is written -/

/-- A write of latency `lat` to a scalar register: from the cycle in which it lands, after the earlier writes to that register,
the register reads as `v`, and until any write lands as before (R239, R240); s0 reads as zero (R227). -/
def wroteScalar (s t : State) (n : Nat) (v : W64) (lat : Nat) : Prop :=
  (∀ c, s.landAt (.sca n) lat ≤ c → State.readS { t with cycle := c } n = if n = 0 then 0 else v) ∧
    (0 < lat → t.readS n = s.readS n)

/-- A write of the bits `mask` of a mask register. -/
def wroteMask (s t : State) (n : Nat) (mask v : W64) (lat : Nat) : Prop :=
  (∀ c, s.landAt (.msk n) lat ≤ c →
      State.readM { t with cycle := c } n = (State.readM { s with cycle := c } n &&& ~~~mask) ||| (v &&& mask)) ∧
    (0 < lat → t.readM n = s.readM n)

/-- A write of the lanes `mask` of a vector register. -/
def wroteVector (s t : State) (n : Nat) (mask : W64) (f : Nat → W32) (lat : Nat) : Prop :=
  (∀ c l, l < 64 → s.landAt (.vec n) lat ≤ c →
      State.readV { t with cycle := c } n l = if mask.getLsbD l then f l else State.readV { s with cycle := c } n l) ∧
    (0 < lat → ∀ l, l < 64 → t.readV n l = s.readV n l)

/-- The rounding state of lane l has advanced by `adv l` draws (R209). -/
def advancesRounding (s t : State) (adv : Nat → Nat) : Prop := ∀ l, l < 64 → t.lfsr l = lfsrSteps (s.lfsr l) (adv l)

/-- A scalar instruction's whole effect: the result, the flags it raises, lane 0's rounding state, and everything else as before. -/
def scalarEffect (s t : State) (h : Head) (n : Nat) (v : W64) (lat : Nat) (flags : Flags) (adv : Nat) : Prop :=
  wroteScalar s t n v lat ∧ t.wv.flg = s.wv.flg ||| flags ∧ keepsScalars s t [n] ∧ keepsVectors s t [] ∧ keepsMasks s t [] ∧
    advancesRounding s t (fun l => if l = 0 then adv else 0) ∧ keepsWave s t ∧ retires s t h ∧ keepsRest s t

/-- The whole effect of an instruction that writes the bits `mask` of a mask register. -/
def maskEffect (s t : State) (h : Head) (n : Nat) (mask v : W64) (lat : Nat) (flags : Flags) : Prop :=
  wroteMask s t n mask v lat ∧ t.wv.flg = s.wv.flg ||| flags ∧ keepsMasks s t [n] ∧ keepsVectors s t [] ∧ keepsScalars s t [] ∧
    advancesRounding s t (fun _ => 0) ∧ keepsWave s t ∧ retires s t h ∧ keepsRest s t

/-- The whole effect of an instruction that writes lanes of `count` vector registers from `n`. -/
def lanesEffect (s t : State) (h : Head) (n count : Nat) (mask : W64) (g : Nat → Nat → W32) (lat : Nat) (flags : Flags)
    (adv : Nat → Nat) : Prop :=
  (∀ k, k < count → wroteVector s t (n + k) mask (g k) lat) ∧ t.wv.flg = s.wv.flg ||| flags ∧
    keepsVectors s t ((List.range count).map (n + ·)) ∧ keepsScalars s t [] ∧ keepsMasks s t [] ∧ advancesRounding s t adv ∧
    keepsWave s t ∧ retires s t h ∧ keepsRest s t

/-- The whole effect of a V instruction whose active lane l has the result bits and flags `res l` (R233, R269): the lanes of
ACTIVE are written, with ZERO those of EXEC, zero where not active; a source modifier adds 2 cycles (R239). -/
def vecEffect (s t : State) (f : VF) (count lat : Nat) (draws : Nat) (res : Nat → W64 × Flags) : Prop :=
  lanesEffect s t f.h f.dst.toNat count (if f.h.zero then s.st.exec else s.activeLanes f.h)
    (fun k l => ((if (s.activeLanes f.h).getLsbD l then (res l).1 else 0) >>> (32 * k)).setWidth 32)
    (lat + if f.modsel = 0 then 0 else 2)
    (laneFlags (s.activeLanes f.h) res)
    (fun l => if s.roundMode f.rnd = 6 ∧ (s.activeLanes f.h).getLsbD l = true then draws else 0)

/-! ### Accesses -/

/-- The state in which an instruction's tracked sources have landed (R239). -/
def State.landed (s : State) (i : Instr) : State := s.untrack i.shape.named.reads

/-- Every dirty line of the L2 lies in a block whose sectors are all under its key, so that its write-back changes no other line (R75,
R77). -/
abbrev State.oneKey (s : State) : Prop :=
  ∀ l, (s.l2Line l).dirty = true → ∀ x, x / 4 = l / 2 → s.secMaterial x = s.material (s.l2Line l).key

/-- The places of an instruction's lanes where every check of R416 lets them through and its requests to other dies have been executed (R385),
and none where one traps or waits. -/
def State.places (s : State) (sp : Space) (ls : List LaneVa) (align : Nat) (a : Acc) (serves : PageKind → Bool) : Option (List LaneLoc) :=
  match sp with
  | .global | .param =>
    match (addrTrap ls align).getD (s.translate ls a serves) with
    | .ok xs => if (s.farLines a xs).isEmpty then some (xs.map fun x => ⟨x.1, x.2.1, .mem (x.2.2.pa x.2.1) x.2.2⟩) else none
    | _ => none
  | .scratch | .cluster =>
    match s.spTrap (sp == .cluster) ls align with
    | some _ => none
    | none => some (ls.filterMap fun x => (s.spLoc (sp == .cluster) x.2.toNat).map fun l => ⟨x.1, x.2.toNat, l⟩)

/-- The TLB entry under a place of memory. -/
def LaneLoc.entry? (x : LaneLoc) : Option TlbEntry :=
  match x.loc with
  | .mem _ e => some e
  | .sp _ _ _ => none

/-- An access of a global space uses up the denials that the stream holds (R36), and its core's L1 TLB takes the entries (R29). -/
def State.undenied (s : State) (sp : Space) (xs : List LaneLoc) : State :=
  match sp with
  | .global | .param => { s with st := s.st.cleared }.keepTlb (xs.filterMap LaneLoc.entry?)
  | .scratch | .cluster => s

/-- Addresses of memory among the places. -/
def pasOf (xs : List LaneLoc) : List Nat := xs.filterMap LaneLoc.pa?

/-- The copies that a load's reads go past (R111, R118); scratchpad alone is cluster scope at most (R100). -/
def readsPast (xs : List LaneLoc) (o : Order) (sc : Scope) : Past := if xs.any fun x => (LaneLoc.pa? x).isSome then pastOf o sc else .nothing

/-- What an n-byte read needs of peers is here: every byte through a window, and in order sc the acknowledgement of the wave's stores
through windows (R118). -/
def State.delivered (s : State) (xs : List LaneLoc) (n : Nat) (o : Order) : Bool :=
  !(o == .sc && s.windowOwed) && match s.windowRead s.me s.sq.inst.part (s.windowRuns xs n) s.st.asked with
    | .here => true
    | .waits _ _ => false

/-- The state in which a read looks: its requests to peers answered, and performed before it the buffered reductions (R106, R310) and what
its core has on its way to the L2 of lines that it does not read in the L1 (R66, R307). -/
def State.fresh (s : State) (xs : List LaneLoc) (o : Order) (past : Past := .nothing) : State :=
  let s1 := if s.st.asked.isEmpty then s else { s with st := { s.st with asked := [] } }
  let s2 := (if o = .sc then s1.flushMine else s1).flushFor (pasOf xs)
  s2.landFor (pastL1 past xs ++ s2.otherThrough xs)

/-- The state in which a store is performed: a release has sent what the wave's die combines, and the reductions buffered for its lines
and the core's writes on their way to the L2 of them are performed (R106, R307, R310). -/
def State.flushed (s : State) (xs : List LaneLoc) (o : Order) : State :=
  ((if Order.releases o then s.flushMine else s).flushFor (pasOf xs)).landFor (pasOf xs)

/-- No place of an n-byte read is poisoned or violates its key's integrity (R80, R81). -/
def State.readable (s : State) (past : Past) (xs : List LaneLoc) (n : Nat) : Prop :=
  ∀ x ∈ xs, s.locBad past x.loc n = false ∧ s.locViolates x.loc = none

/-- The bytes that a lane's read delivers. -/
def State.laneBytes (s : State) (past : Past) (xs : List LaneLoc) (n l : Nat) : List W8 :=
  ((xs.find? fun x => x.lane == l).map fun x => s.locBytes past x.loc n).getD []

/-- A lane made of element codes, with the flags of all of them. -/
def packElems (t : ETy) (flags : Flags) (g : Nat → Nat × Flags) : W64 × Flags :=
  let es := (List.range t.elems).map g
  (BitVec.ofNat 64 (laneOf t (es.map Prod.fst)), es.foldl (fun a e => a ||| e.2) flags)

end Sys2Proof.Machine
end

