-- ==== Sys2Proof/Certificates/Slice0/Obligations.lean ====
section
/-! DEFINITION. The statements about the model. Each says what the machine does under conditions on the state and the operands
alone; the vocabulary is Safety's. -/

namespace Sys2Proof

open Machine

/-! ### Shapes of statements -/

namespace Claim

/-- A scalar integer instruction writes `g` of its operands a, b and of s[DST], and changes nothing else. -/
abbrev ScalarOp (mk : SF → Instr) (lat : Nat) (g : SF → W64 → W64 → W64 → W64) : Prop :=
  ∀ (f : SF) (s : State), s.clear (mk f) → ∃ t, exec (mk f) s = .next t ∧
    scalarEffect s t f.h f.dst.toNat (g f (s.sval f.a f.imm f.ext) (s.sval f.b f.imm f.ext) (s.readS f.dst.toNat)) lat 0 0

/-- A scalar float instruction writes a value and raises flags; in mode 6 it draws once where it rounds. -/
abbrev ScalarFloatOp (mk : SF → Instr) (lat : Nat) (rounds : Bool) (g : SF → State → W64 × Flags) : Prop :=
  ∀ (f : SF) (s : State), s.clear (mk f) → ∃ t, exec (mk f) s = .next t ∧
    scalarEffect s t f.h f.dst.toNat (g f s).1 lat (g f s).2 (if rounds = true ∧ s.sfMode f = 6 then 1 else 0)

/-- A V instruction writes `res` in its active lanes, in one register or in a pair, and draws `draws` times per lane in mode 6. -/
abbrev VectorOp (mk : VF → Instr) (regs : ETy → Nat) (lat : Nat) (draws : VF → Nat) (res : VF → State → Nat → W64 × Flags) : Prop :=
  ∀ (f : VF) (s : State), s.clear (mk f) → ∃ t, exec (mk f) s = .next t ∧ vecEffect s t f (regs f.ty) lat (draws f) (res f s)

/-- One register, or a pair for a 64-bit element (R200). -/
abbrev regsOf (t : ETy) : Nat := if t.wide then 2 else 1

/-- An elementwise V instruction: `op` gives the code and flags of an element from those of the sources. -/
abbrev ElementOp (mk : VF → Instr) (r : VRule) (lat : Nat) (op : VF → Nat → Nat → Nat → Nat × Flags) : Prop :=
  VectorOp mk regsOf lat (fun _ => 0) fun f s l =>
    let x := s.srcs r f (s.activeLanes f.h) l
    packElems f.ty x.flags fun k => op f (elemA f f.ty x k) (elemB f f.ty x k) (elemC f f.ty x k)

/-- An elementwise V instruction on integers: exact, then wrapped, or clamped where `sat` says so (R216). -/
abbrev IntegerOp (mk : VF → Instr) (r : VRule) (lat : Nat) (sat : VF → Bool) (op : VF → Int → Int → Int → Int) : Prop :=
  ElementOp mk r lat fun f a b c => narrowTo f.ty.signed (sat f) f.ty.width (op f (intOf f.ty a) (intOf f.ty b) (intOf f.ty c))

/-- An elementwise V instruction on the bits of its elements, whose width is the operation's first argument. -/
abbrev BitsOp (mk : VF → Instr) (r : VRule) (op : Nat → Nat → Nat → Nat) : Prop :=
  ElementOp mk r 2 fun f a b _ => (op f.ty.width a b % 2 ^ f.ty.width, 0)

/-- A V instruction that writes `res` to the active bits of a mask register (R271). -/
abbrev MaskOp (mk : VF → Instr) (lat : Nat) (res : VF → State → W64 × Flags) : Prop :=
  ∀ (f : VF) (s : State), s.clear (mk f) → ∃ t, exec (mk f) s = .next t ∧
    maskEffect s t f.h f.dst.toNat (if f.h.zero then s.st.exec else s.activeLanes f.h) ((res f s).1 &&& s.activeLanes f.h)
      (lat + if f.modsel = 0 then 0 else 2) (res f s).2

/-- The checks of an instruction that duplicated issue does not compare (R241, R374). -/
abbrev passes (s : State) (i : Instr) : Prop :=
  i.shape.named.unallocated s.wv.gran = false ∧ s.stallUnder i.shape.named = none ∧ s.awaitsRow i.shape.named = false ∧
    s.unlanded i.shape.named = []

end Claim

namespace Claim

/-- a c b for a condition of SCMP or SSEL (R245). -/
def holds (c : Cond) (a b : Int) : Bool :=
  match c with
  | .eq => a == b
  | .ne => a != b
  | .lt => decide (a < b)
  | .le => decide (a ≤ b)
  | .gt => decide (b < a)
  | .ge => decide (b ≤ a)

/-- The number of the vector register that B names. -/
def regB (f : VF) : Nat :=
  match f.b with
  | .vec n => n.toNat
  | _ => 0

/-- FRX of a vote: a member lies outside ACTIVE (R288). -/
def voteFlags (f : VF) (s : State) : Flags :=
  Flag.when (s.voteMembers f &&& ~~~s.activeLanes f.h != 0) Flag.frx

/-- The reduction of a segment of 2^SUB lanes, written to each of them (R220, R290). -/
def reduced (flt : Bool) (f : VF) (s : State) (l : Nat) : W64 × Flags :=
  let g := f.sub.toNat % 8
  match redTree (VF.nodeOp f flt) (s.redCell f flt (s.activeLanes f.h)) g (l - l % 2 ^ g) with
  | some c => s.redWrite flt c
  | none => (0, 0)

/-- The scan of a segment, inclusive, or exclusive with SUB[3] (R221, R291). -/
def scanned (flt : Bool) (f : VF) (s : State) (l : Nat) : W64 × Flags :=
  let n := 2 ^ (f.sub.toNat % 8)
  let xs := scanLevels (VF.nodeOp f flt) n (lanes.map (s.redCell f flt (s.activeLanes f.h))) (f.sub.toNat % 8) 0
  match (if f.sub.getLsbD 3 then (if l % n = 0 then none else xs.getD (l - 1) none) else xs.getD l none) with
  | some c => s.redWrite flt c
  | none => (BitVec.ofNat 64 (scanIdentity flt f.ty (VF.redOp f)), 0)

end Claim

end Sys2Proof

open Sys2Proof Sys2Proof.Machine Sys2Proof.Claim


/-- R227, R235, R236, R243: the 64-bit operand that each source of a scalar instruction names. -/
def Obligations.ScalarOperandValues : Prop :=
  ∀ (s : State) (imm : W32) (ext : Option Ext),
    s.sval (.sca 0) imm ext = 0 ∧
    (∀ n, s.sval (.sca n) imm ext = s.readS n.toNat) ∧
    (∀ k : W8, k.toNat < 0x40 → s.sval (.inl k) imm ext = BitVec.ofNat 64 k.toNat) ∧
    (∀ k : W8, 0x40 ≤ k.toNat → k.toNat < 0x60 → s.sval (.inl k) imm ext = 0 - BitVec.ofNat 64 (0x60 - k.toNat)) ∧
    (∀ i v, (i, v) ∈ [(0x60, 0x00000000), (0x61, 0x3F000000), (0x62, 0x3F800000), (0x63, 0x40000000), (0x64, 0x40800000), (0x65, 0xBF000000),
        (0x66, 0xBF800000), (0x67, 0xC0000000), (0x68, 0xC0800000), (0x69, 0x3F317218), (0x6A, 0x3FB8AA3B), (0x6B, 0x40490FDB),
        (0x6C, 0x3EA2F983), (0x6D, 0x43E00000), (0x6E, 0x47600000), (0x6F, 0x40C00000)] →
      s.sval (.inl (BitVec.ofNat 8 i)) imm ext = BitVec.ofNat 64 v) ∧
    s.sval (.inl 0x70) imm none = imm.signExtend 64 ∧
    (∀ e, s.sval (.inl 0x70) imm (some e) = e.lit64) ∧
    s.sval (.spc 1) imm ext = BitVec.ofNat 64 s.wv.widx ∧
    s.sval (.spc 3) imm ext = BitVec.ofNat 64 s.st.fid ∧
    s.sval (.spc 4) imm ext = BitVec.ofNat 64 (s.gtb.toNat % 2 ^ 32) ∧
    s.sval (.spc 5) imm ext = 0

/-! ### Scalar instructions (R243 to R251) -/

/-- R245: what each scalar integer instruction writes. Division is R246's, bit fields R247's. -/
def Obligations.ScalarIntegerTable : Prop :=
  ScalarOp .sadd 2 (fun _ a b _ => a + b) ∧
  ScalarOp .ssub 2 (fun _ a b _ => a - b) ∧
  ScalarOp .smul 4 (fun _ a b _ => a * b) ∧
  ScalarOp .smulhI 4 (fun _ a b _ => (a.signExtend 128 * b.signExtend 128).extractLsb' 64 64) ∧
  ScalarOp .smulhN 4 (fun _ a b _ => (a.zeroExtend 128 * b.zeroExtend 128).extractLsb' 64 64) ∧
  ScalarOp .sand 2 (fun _ a b _ => a &&& b) ∧
  ScalarOp .sor 2 (fun _ a b _ => a ||| b) ∧
  ScalarOp .sxor 2 (fun _ a b _ => a ^^^ b) ∧
  ScalarOp .sandn 2 (fun _ a b _ => a &&& ~~~b) ∧
  ScalarOp .sshl 2 (fun _ a b _ => a <<< (b.toNat % 64)) ∧
  ScalarOp .sshr 2 (fun _ a b _ => a >>> (b.toNat % 64)) ∧
  ScalarOp .ssra 2 (fun _ a b _ => a.sshiftRight (b.toNat % 64)) ∧
  ScalarOp .srot 2 (fun _ a b _ => a.rotateLeft (b.toNat % 64)) ∧
  ScalarOp .sminI 2 (fun _ a b _ => BitVec.ofInt 64 (min a.toInt b.toInt)) ∧
  ScalarOp .sminN 2 (fun _ a b _ => BitVec.ofNat 64 (min a.toNat b.toNat)) ∧
  ScalarOp .smaxI 2 (fun _ a b _ => BitVec.ofInt 64 (max a.toInt b.toInt)) ∧
  ScalarOp .smaxN 2 (fun _ a b _ => BitVec.ofNat 64 (max a.toNat b.toNat)) ∧
  ScalarOp .scmpI 2 (fun f a b _ => if holds f.cond a.toInt b.toInt then 1 else 0) ∧
  ScalarOp .scmpN 2 (fun f a b _ => if holds f.cond a.toNat b.toNat then 1 else 0) ∧
  ScalarOp .ssel 2 (fun f a b d => if holds f.cond d.toInt 0 then a else b) ∧
  ScalarOp .smov 2 (fun _ a _ _ => a) ∧
  ScalarOp .sli 2 (fun f _ _ _ => match f.ext with | some e => e.lit64 | none => 0) ∧
  ScalarOp .sclz 2 (fun _ a _ _ => a.clz) ∧
  ScalarOp .spopc 2 (fun _ a _ _ => BitVec.ofNat 64 ((List.range 64).countP fun i => a.getLsbD i)) ∧
  ScalarOp .saddr 2 (fun f a b _ => a + (b <<< f.sub.toNat)) ∧
  ScalarOp .ssext 2 (fun _ a b _ => (a <<< (63 - b.toNat % 64)).sshiftRight (63 - b.toNat % 64)) ∧
  ScalarOp .sabs 2 (fun _ a _ _ => if a.toInt < 0 then 0 - a else a)

/-- R246: division truncates toward zero, the remainder takes the dividend's sign, and neither traps. -/
def Obligations.ScalarDivisionTable : Prop :=
  ScalarOp .sdivI 20 (fun _ a b _ => if b = 0 then BitVec.allOnes 64 else
    if a = BitVec.intMin 64 ∧ b = BitVec.allOnes 64 then BitVec.intMin 64 else BitVec.ofInt 64 (a.toInt.tdiv b.toInt)) ∧
  ScalarOp .sdivN 20 (fun _ a b _ => if b = 0 then BitVec.allOnes 64 else BitVec.ofNat 64 (a.toNat / b.toNat)) ∧
  ScalarOp .sremI 20 (fun _ a b _ => if b = 0 then a else
    if a = BitVec.intMin 64 ∧ b = BitVec.allOnes 64 then 0 else BitVec.ofInt 64 (a.toInt - b.toInt * a.toInt.tdiv b.toInt)) ∧
  ScalarOp .sremN 20 (fun _ a b _ => if b = 0 then a else BitVec.ofNat 64 (a.toNat - b.toNat * (a.toNat / b.toNat)))

/-- R247: SBFX and SBFI, with the position in IMM32[5:0] and the width in IMM32[13:8]. -/
def Sys2Proof.Claim.ScalarBitFields : Prop :=
  ScalarOp .sbfxN 2 (fun f a _ _ => BitVec.ofNat 64 (a.toNat / 2 ^ (f.imm.toNat % 64) % 2 ^ (f.imm.toNat / 256 % 64))) ∧
  ScalarOp .sbfxI 2 (fun f a _ _ =>
    let w := f.imm.toNat / 256 % 64
    ((BitVec.ofNat 64 (a.toNat / 2 ^ (f.imm.toNat % 64)) <<< (64 - w)).sshiftRight (64 - w))) ∧
  ScalarOp .sbfi 2 (fun f a _ d =>
    let m : W64 := BitVec.ofNat 64 (2 ^ (f.imm.toNat / 256 % 64) - 1) <<< (f.imm.toNat % 64)
    (d &&& ~~~m) ||| ((a <<< (f.imm.toNat % 64)) &&& m))

/-- R248 to R251: what each scalar float instruction writes, the flags it raises and the cycles it takes. -/
def Sys2Proof.Claim.ScalarFloatTable : Prop :=
  ScalarFloatOp .sfadd 4 true (fun f s => s.sfRound f [s.sfSrc f.a f, s.sfSrc f.b f] ((s.sfSrc f.a f).add (s.sfMode f == 3) (s.sfSrc f.b f))) ∧
  ScalarFloatOp .sfmul 4 true (fun f s => s.sfRound f [s.sfSrc f.a f, s.sfSrc f.b f] ((s.sfSrc f.a f).mul (s.sfSrc f.b f))) ∧
  ScalarFloatOp .sffma 4 true (fun f s =>
    let d := fp32.read (fmtDaz s.st.fmt) ((s.readS f.dst.toNat).setWidth 32).toNat
    s.sfRound f [s.sfSrc f.a f, s.sfSrc f.b f, d] ((s.sfSrc f.a f).fma (s.sfMode f == 3) (s.sfSrc f.b f) d)) ∧
  ScalarFloatOp .sfdiv 20 true (fun f s => s.sfRound f [s.sfSrc f.a f, s.sfSrc f.b f] ((s.sfSrc f.a f).div (s.sfSrc f.b f))) ∧
  ScalarFloatOp .sfsqrt 12 true (fun f s => s.sfRound f [s.sfSrc f.a f] (s.sfSrc f.a f).sqrt) ∧
  ScalarFloatOp .sfmin 4 false (fun f s =>
    (BitVec.ofNat 64 (fp32.exact ((s.sfSrc f.a f).minmax false (f.sub.getLsbD 0) (s.sfSrc f.b f))), srcFlags [s.sfSrc f.a f, s.sfSrc f.b f])) ∧
  ScalarFloatOp .sfmax 4 false (fun f s =>
    (BitVec.ofNat 64 (fp32.exact ((s.sfSrc f.a f).minmax true (f.sub.getLsbD 0) (s.sfSrc f.b f))), srcFlags [s.sfSrc f.a f, s.sfSrc f.b f])) ∧
  ScalarFloatOp .sfcmp 5 false (fun f s =>
    let c := (fp32.decode (s.sfloat f.a f.imm f.ext).toNat).cmp (condCode f.cond) (fp32.decode (s.sfloat f.b f.imm f.ext).toNat)
    (if c.1 then 1 else 0, c.2)) ∧
  ScalarFloatOp .sfcvt 5 true (fun f s =>
    if f.sub.toNat < 16 then
      let x := (s.sfSrc f.a f).toInt (s.sfMode f) (s.draws 0 0) (f.sub.toNat / 8 == 0) 64
      (BitVec.ofInt 64 x.1, srcFlags [s.sfSrc f.a f] ||| x.2)
    else
      let a := s.sval f.a f.imm f.ext
      s.sfRound f [] (FVal.ofInt (if f.sub.toNat / 8 = 2 then a.toInt else a.toNat), 0))

/-- Scalar bit fields and every scalar float instruction: `ScalarBitFields`; `ScalarFloatTable`. -/
def Obligations.ScalarFieldsAndFloats : Prop :=
  Claim.ScalarBitFields ∧ Claim.ScalarFloatTable

/-! ### Vector integer instructions (R272 to R275) -/

/-- R272: the elementwise integer instructions. -/
def Sys2Proof.Claim.VectorIntegerTable : Prop :=
  IntegerOp .vadd (Rule.v2 ETy.allInts true) 2 (·.sat) (fun _ a b _ => a + b) ∧
  IntegerOp .vsub (Rule.v2 ETy.allInts true) 2 (·.sat) (fun _ a b _ => a - b) ∧
  IntegerOp .vmul (Rule.v2 ETy.smallInts true Lat.vmul) 4 (·.sat) (fun _ a b _ => a * b) ∧
  IntegerOp .vmulhI (Rule.v2 ETy.smallSigned false Lat.vmul) 4 (fun _ => false) (fun f a b _ => a * b / 2 ^ f.ty.width) ∧
  IntegerOp .vmulhN (Rule.v2 ETy.smallUnsigned false Lat.vmul) 4 (fun _ => false) (fun f a b _ => a * b / 2 ^ f.ty.width) ∧
  IntegerOp .vmad (Rule.v3 ETy.smallInts true Lat.vmul) 4 (·.sat) (fun _ a b c => a * b + c) ∧
  IntegerOp .vminI (Rule.v2 ETy.signedInts) 2 (fun _ => false) (fun _ a b _ => min a b) ∧
  IntegerOp .vminN (Rule.v2 ETy.unsignedInts) 2 (fun _ => false) (fun _ a b _ => min a b) ∧
  IntegerOp .vmaxI (Rule.v2 ETy.signedInts) 2 (fun _ => false) (fun _ a b _ => max a b) ∧
  IntegerOp .vmaxN (Rule.v2 ETy.unsignedInts) 2 (fun _ => false) (fun _ a b _ => max a b) ∧
  IntegerOp .vclampI (Rule.v3 ETy.smallSigned) 2 (fun _ => false) (fun _ a b c => min (max a b) c) ∧
  IntegerOp .vclampN (Rule.v3 ETy.smallUnsigned) 2 (fun _ => false) (fun _ a b c => min (max a b) c) ∧
  IntegerOp .vabsdI (Rule.v2 ETy.smallSigned) 2 (fun _ => false) (fun _ a b _ => max (a - b) (b - a)) ∧
  IntegerOp .vabsdN (Rule.v2 ETy.smallUnsigned) 2 (fun _ => false) (fun _ a b _ => max (a - b) (b - a)) ∧
  IntegerOp .vavgI (Rule.v2 ETy.smallSigned) 2 (fun _ => false) (fun _ a b _ => (a + b + 1) / 2) ∧
  IntegerOp .vavgN (Rule.v2 ETy.smallUnsigned) 2 (fun _ => false) (fun _ a b _ => (a + b + 1) / 2) ∧
  IntegerOp .vaddsI (Rule.v2 ETy.smallSigned) 2 (fun _ => true) (fun _ a b _ => a + b) ∧
  IntegerOp .vaddsN (Rule.v2 ETy.smallUnsigned) 2 (fun _ => true) (fun _ a b _ => a + b) ∧
  IntegerOp .vsubsI (Rule.v2 ETy.smallSigned) 2 (fun _ => true) (fun _ a b _ => a - b) ∧
  IntegerOp .vsubsN (Rule.v2 ETy.smallUnsigned) 2 (fun _ => true) (fun _ a b _ => a - b) ∧
  ElementOp .vrshrI (Rule.vShift ETy.smallSigned) 2 (fun f a b _ =>
    let k := b % f.ty.width
    (wrapTo f.ty.width (if k = 0 then intOf f.ty a else (intOf f.ty a + 2 ^ (k - 1)) / 2 ^ k), 0)) ∧
  ElementOp .vrshrN (Rule.vShift ETy.smallUnsigned) 2 (fun f a b _ =>
    let k := b % f.ty.width
    (wrapTo f.ty.width (if k = 0 then intOf f.ty a else (intOf f.ty a + 2 ^ (k - 1)) / 2 ^ k), 0)) ∧
  VectorOp .vmulwI (fun _ => 2) 4 (fun _ => 0) (fun f s l =>
    let x := s.srcs (Rule.vMulw [.i32]) f (s.activeLanes f.h) l
    (BitVec.ofInt 64 (intOf f.ty (elemA f f.ty x 0) * intOf f.ty (elemB f f.ty x 0)), x.flags)) ∧
  VectorOp .vmulwN (fun _ => 2) 4 (fun _ => 0) (fun f s l =>
    let x := s.srcs (Rule.vMulw [.n32]) f (s.activeLanes f.h) l
    (BitVec.ofInt 64 (intOf f.ty (elemA f f.ty x 0) * intOf f.ty (elemB f f.ty x 0)), x.flags))

/-- R272: the elementwise instructions on bits; the shift and rotate counts are b modulo w. -/
def Sys2Proof.Claim.VectorBitwiseTable : Prop :=
  BitsOp .vand (Rule.vBits2 ETy.allInts) (fun _ a b => a &&& b) ∧
  BitsOp .vor (Rule.vBits2 ETy.allInts) (fun _ a b => a ||| b) ∧
  BitsOp .vxor (Rule.vBits2 ETy.allInts) (fun _ a b => a ^^^ b) ∧
  BitsOp .vandn (Rule.vBits2 ETy.allInts) (fun w a b => a &&& (2 ^ w - 1 - b)) ∧
  BitsOp .vshl (Rule.vShift ETy.allInts) (fun w a b => (BitVec.ofNat w a <<< (b % w)).toNat) ∧
  BitsOp .vshr (Rule.vShift ETy.allInts) (fun w a b => a >>> (b % w)) ∧
  BitsOp .vsra (Rule.vShift ETy.allInts) (fun w a b => ((BitVec.ofNat w a).sshiftRight (b % w)).toNat) ∧
  BitsOp .vrot (Rule.vShift ETy.smallInts) (fun w a b => (BitVec.ofNat w a).rotateLeft (b % w) |>.toNat) ∧
  BitsOp .vclz (Rule.vBits1 ETy.smallInts) (fun w a _ => (BitVec.ofNat w a).clz.toNat) ∧
  BitsOp .vpopc (Rule.vBits1 ETy.smallInts) (fun w a _ => (List.range w).countP fun i => a.testBit i) ∧
  ElementOp .vshls (Rule.vShift ETy.smallInts) 2 (fun f a b _ =>
    narrowTo f.ty.signed true f.ty.width (intOf f.ty a * 2 ^ (b % f.ty.width)))

/-- c plus the exact products of n elements, as 32 bits of the type's signedness (R273). -/
def Sys2Proof.Claim.dot (r : VRule) (n : Nat) (f : VF) (s : State) (l : Nat) : W64 × Flags :=
  let x := s.srcs r f (s.activeLanes f.h) l
  let sum := ((List.range n).map fun k => intOf f.ty (elemA f f.ty x k) * intOf f.ty (elemB f f.ty x k)).sum
  let y := narrowTo f.ty.signed f.sat 32 (intOf (if f.ty.signed then .i32 else .n32) (elemC f (if f.ty.signed then .i32 else .n32) x 0) + sum)
  (BitVec.ofNat 64 y.1, x.flags ||| y.2)

/-- The elements of a, then those of b, each narrowed (R273). -/
def Sys2Proof.Claim.narrowed (r : VRule) (f : VF) (s : State) (l : Nat) : W64 × Flags :=
  let x := s.srcs r f (s.activeLanes f.h) l
  let t := Rule.narrowSrc f.ty
  let half := List.range (f.ty.elems / 2)
  let ys := (half.map (elemA f t x) ++ half.map (elemB f t x)).map fun e => narrowTo f.ty.signed f.sat f.ty.width (intOf t e)
  (BitVec.ofNat 64 (laneOf f.ty (ys.map Prod.fst)), ys.foldl (fun a y => a ||| y.2) x.flags)

/-- Element SUB of a, extended (R273). -/
def Sys2Proof.Claim.widened (r : VRule) (f : VF) (s : State) (l : Nat) : W64 × Flags :=
  let x := s.srcs r f (s.activeLanes f.h) l
  let e := intOf f.ty (elemA f f.ty x f.sub.toNat)
  (if f.ty.width = 32 then BitVec.ofInt 64 e else (BitVec.ofInt 32 e).setWidth 64, x.flags)

/-- R273: dot products, narrowing and widening. -/
def Sys2Proof.Claim.VectorDotAndWidth : Prop :=
  VectorOp .vdot2I regsOf 4 (fun _ => 0) (dot (Rule.vDot [.i16x2]) 2) ∧
  VectorOp .vdot2N regsOf 4 (fun _ => 0) (dot (Rule.vDot [.n16x2]) 2) ∧
  VectorOp .vdot4I regsOf 4 (fun _ => 0) (dot (Rule.vDot [.i8x4]) 4) ∧
  VectorOp .vdot4N regsOf 4 (fun _ => 0) (dot (Rule.vDot [.n8x4]) 4) ∧
  VectorOp .vnarrowI regsOf 5 (fun _ => 0) (narrowed (Rule.vNarrow [.i16x2, .i8x4])) ∧
  VectorOp .vnarrowN regsOf 5 (fun _ => 0) (narrowed (Rule.vNarrow [.n16x2, .n8x4])) ∧
  VectorOp .vwidenI (fun t => if t = .i32 ∨ t = .n32 then 2 else 1) 5 (fun _ => 0) (widened (Rule.vWiden [.i16x2, .i8x4, .i32])) ∧
  VectorOp .vwidenN (fun t => if t = .i32 ∨ t = .n32 then 2 else 1) 5 (fun _ => 0) (widened (Rule.vWiden [.n16x2, .n8x4, .n32]))

/-- R274 and R275: bit fields, comparison to a mask, selection, moves and table lookup. -/
def Sys2Proof.Claim.VectorFieldsAndMoves : Prop :=
  ElementOp .vbfxN (Rule.vBfx [.n32]) 2 (fun _ a b c => (a / 2 ^ (b % 32) % 2 ^ min c (32 - b % 32), 0)) ∧
  ElementOp .vbfxI (Rule.vBfx [.i32]) 2 (fun _ a b c =>
    let w := min c (32 - b % 32)
    (if w = 0 then 0 else (BitVec.ofInt 32 (BitVec.ofNat w (a / 2 ^ (b % 32))).toInt).toNat, 0)) ∧
  VectorOp .vbfi regsOf 2 (fun _ => 0) (fun f s l =>
    let x := s.srcs Rule.vBfi f (s.activeLanes f.h) l
    let pos := elemOf .n32 x.b 0 % 32
    let m : W32 := BitVec.ofNat 32 (2 ^ min (elemOf .n32 x.c 0) (32 - pos) - 1) <<< pos
    (((s.readV f.dst.toNat l &&& ~~~m) ||| ((x.a.setWidth 32 <<< pos) &&& m)).setWidth 64, x.flags)) ∧
  MaskOp .vcmpI 5 (fun f s =>
    let x (l : Nat) := s.srcs (Rule.vCmp [.i32, .i64]) f (s.activeLanes f.h) l
    (maskOf fun l => cmpInt f.sub.toNat (intOf f.ty (elemA f f.ty (x l) 0)) (intOf f.ty (elemB f f.ty (x l) 0)),
     laneFlags (s.activeLanes f.h) fun l => (0, (x l).flags))) ∧
  MaskOp .vcmpN 5 (fun f s =>
    let x (l : Nat) := s.srcs (Rule.vCmp [.n32, .n64]) f (s.activeLanes f.h) l
    (maskOf fun l => cmpInt f.sub.toNat (intOf f.ty (elemA f f.ty (x l) 0)) (intOf f.ty (elemB f f.ty (x l) 0)),
     laneFlags (s.activeLanes f.h) fun l => (0, (x l).flags))) ∧
  VectorOp .vsel regsOf 2 (fun _ => 0) (fun f s l =>
    let a := s.srcMod f (s.activeLanes f.h) 1 f.ty f.a l
    let b := s.srcMod f (s.activeLanes f.h) 2 f.ty f.b l
    (if (s.readM f.c.mask.toNat).getLsbD l then a.1 else b.1, a.2 ||| b.2)) ∧
  VectorOp .vmov regsOf 2 (fun _ => 0) (fun f s l => s.srcMod f (s.activeLanes f.h) 1 f.ty f.a l) ∧
  VectorOp .vlut regsOf 6 (fun _ => 0) (fun f s l =>
    let a := s.srcMod f (s.activeLanes f.h) 1 f.ty f.a l
    packElems f.ty a.2 fun k =>
      s.tableEntry f.ty (s.activeLanes f.h) (regB f) (elemOf f.ty a.1 k % (64 * f.ty.elems)))

/-- Vector integer, shift and bitwise instructions, per element, with frame: `VectorIntegerTable`; `VectorBitwiseTable`. -/
def Obligations.VectorIntegersAndBits : Prop :=
  Claim.VectorIntegerTable ∧ Claim.VectorBitwiseTable

/-- Vector dot products, narrowing, widening, fields, compares, moves: `VectorDotAndWidth`; `VectorFieldsAndMoves`. -/
def Obligations.VectorWidthsFieldsMoves : Prop :=
  Claim.VectorDotAndWidth ∧ Claim.VectorFieldsAndMoves

/-! ### Vector floating point (R276 to R285) -/

/-- An elementwise float instruction on sources read under DAZ (R276). -/
def Sys2Proof.Claim.floats (r : VRule) (op : FEnv → FVal → FVal → FVal → Nat × Flags) (f : VF) (s : State) (l : Nat) : W64 × Flags :=
  let x := s.srcs r f (s.activeLanes f.h) l
  packElems f.ty x.flags fun k =>
    let e := s.fenv f l k
    op e (f.ty.fmt.read e.daz (elemA f f.ty x k)) (f.ty.fmt.read e.daz (elemB f f.ty x k)) (f.ty.fmt.read e.daz (elemC f f.ty x k))

/-- An exact result rounded once to the element's format, with the flags of the sources `src`. -/
def Sys2Proof.Claim.rounded (f : VF) (e : FEnv) (src : List FVal) (x : FVal × Flags) : Nat × Flags :=
  ((e.round f.ty.fmt x).1, srcFlags src ||| (e.round f.ty.fmt x).2)

/-- A source selected as it is. -/
def Sys2Proof.Claim.picked (f : VF) (src : List FVal) (x : FVal) : Nat × Flags := (f.ty.fmt.exact x, srcFlags src)

/-- R276: float arithmetic. Every rounding instruction draws once per element of an active lane in mode 6 (R209). -/
def Sys2Proof.Claim.VectorFloatArithmetic : Prop :=
  VectorOp .vfadd regsOf 4 (·.ty.elems) (fun f => floats Rule.vf2 (fun e a b _ => rounded f e [a, b] (a.add e.rdn b)) f) ∧
  VectorOp .vfsub regsOf 4 (·.ty.elems) (fun f => floats Rule.vf2 (fun e a b _ => rounded f e [a, b] (a.add e.rdn b.negate)) f) ∧
  VectorOp .vfmul regsOf 4 (·.ty.elems) (fun f => floats Rule.vf2 (fun e a b _ => rounded f e [a, b] (a.mul b)) f) ∧
  VectorOp .vfma regsOf 4 (·.ty.elems) (fun f => floats Rule.vf3 (fun e a b c => rounded f e [a, b, c] (a.fma e.rdn b c)) f) ∧
  VectorOp .vflrp regsOf 4 (·.ty.elems) (fun f => floats Rule.vf3 (fun e a b c =>
    let d := b.add e.rdn a.negate
    let p := c.mul d.1
    let t := a.add e.rdn p.1
    rounded f e [a, b, c] (t.1, d.2 ||| p.2 ||| t.2)) f) ∧
  VectorOp .vfmin regsOf 4 (fun _ => 0) (fun f => floats Rule.vfMin (fun _ a b _ => picked f [a, b] (a.minmax false false b)) f) ∧
  VectorOp .vfminNum regsOf 4 (fun _ => 0) (fun f => floats Rule.vfMin (fun _ a b _ => picked f [a, b] (a.minmax false true b)) f) ∧
  VectorOp .vfmax regsOf 4 (fun _ => 0) (fun f => floats Rule.vfMin (fun _ a b _ => picked f [a, b] (a.minmax true false b)) f) ∧
  VectorOp .vfmaxNum regsOf 4 (fun _ => 0) (fun f => floats Rule.vfMin (fun _ a b _ => picked f [a, b] (a.minmax true true b)) f) ∧
  VectorOp .vfclamp regsOf 4 (fun _ => 0)
    (fun f => floats Rule.vfClamp (fun _ a b c => picked f [a, b, c] ((a.minmax true false b).minmax false false c)) f) ∧
  VectorOp .vfamax regsOf 4 (fun _ => 0) (fun f => floats Rule.vfMin (fun _ a b _ => picked f [a, b] (a.abs.minmax true false b.abs)) f) ∧
  ElementOp .vfsign Rule.vfSign 4 (fun f a b _ =>
    (a % 2 ^ (f.ty.width - 1) + b / 2 ^ (f.ty.width - 1) % 2 * 2 ^ (f.ty.width - 1), 0)) ∧
  VectorOp .vfrnd regsOf 4 (·.ty.elems) (fun f => floats Rule.vfRnd (fun e a _ _ =>
    match a with
    | .fin n m x => (f.ty.fmt.exact (.fin n (roundInt e.mode e.draw n m x).1.natAbs 0), Flag.when (roundInt e.mode e.draw n m x).2 Flag.inx)
    | a => picked f [a] a) f) ∧
  VectorOp .vfscale regsOf 4 (fun _ => 1) (fun f s l =>
    let x := s.srcs Rule.vfScale f (s.activeLanes f.h) l
    let e := s.fenv f l 0
    let a := fp32.read e.daz (elemA f .f32 x 0)
    let y := e.round fp32 (match a with
      | .fin n m k => .fin n m (k + max (-1000) (min 1000 (intOf .i32 (elemB f .i32 x 0))))
      | a => a, 0)
    (BitVec.ofNat 64 y.1, x.flags ||| srcFlags [a] ||| y.2)) ∧
  VectorOp .vfdot2 regsOf 4 (fun _ => 1) (fun f s l =>
    let x := s.srcs Rule.vfDot2 f (s.activeLanes f.h) l
    let e := s.fenv f l 0
    let a (k : Nat) := f.ty.fmt.read e.daz (elemA f f.ty x k)
    let b (k : Nat) := f.ty.fmt.read e.daz (elemB f f.ty x k)
    let c := fp32.read e.daz (elemC f .f32 x 0)
    let p0 := (a 0).mul (b 0)
    let p1 := (a 1).mul (b 1)
    let q := p0.1.add e.rdn p1.1
    let t := q.1.add e.rdn c
    let y := e.round fp32 (t.1, p0.2 ||| p1.2 ||| q.2 ||| t.2)
    (BitVec.ofNat 64 y.1, x.flags ||| srcFlags [a 0, a 1, b 0, b 1, c] ||| y.2))

/-- R277: comparison to a mask, without DAZ and without NF, and the class of a value as one bit. -/
def Sys2Proof.Claim.VectorFloatCompare : Prop :=
  MaskOp .vfcmp 5 (fun f s =>
    let x (l : Nat) := s.srcs Rule.vfCmp f (s.activeLanes f.h) l
    let c (l : Nat) := (f.ty.fmt.decode (elemA f f.ty (x l) 0)).cmp f.sub.toNat (f.ty.fmt.decode (elemB f f.ty (x l) 0))
    (maskOf fun l => (c l).1, laneFlags (s.activeLanes f.h) fun l => (0, (x l).flags ||| (c l).2))) ∧
  VectorOp .vfclass regsOf 5 (fun _ => 0) (fun f s l =>
    let x := s.srcs Rule.vfClass f (s.activeLanes f.h) l
    (BitVec.ofNat 64 (2 ^ classOf f.ty.fmt (elemOf f.ty x.a 0)), x.flags))

/-- A faithful function of one FP32 source (R278). -/
def Sys2Proof.Claim.faithful (fn : FFun) (f : VF) (s : State) (l : Nat) : W64 × Flags :=
  let x := s.srcs Rule.vfFaithful f (s.activeLanes f.h) l
  let y := fn.apply (fmtDaz s.st.fmt) (fmtFtz s.st.fmt) (BitVec.ofNat 32 (elemA f .f32 x 0))
  (BitVec.ofNat 64 y.1, x.flags ||| y.2)

/-- R278: division and roots, correctly rounded, and the faithful functions, whose choice of neighbour is the model's free
function (log 7). -/
def Sys2Proof.Claim.VectorSpecialFunctions : Prop :=
  VectorOp .vfrcp regsOf 12 (·.ty.elems) (fun f => floats Rule.vfRoot (fun e a _ _ =>
    ((e.round fp32 ((FVal.fin false 1 0).div a)).1, srcFlags [a] ||| (e.round fp32 ((FVal.fin false 1 0).div a)).2)) f) ∧
  VectorOp .vfrsq regsOf 12 (·.ty.elems) (fun f => floats Rule.vfRoot (fun e a _ _ =>
    ((e.round fp32 a.rsqrt).1, srcFlags [a] ||| (e.round fp32 a.rsqrt).2)) f) ∧
  VectorOp .vfsqrt regsOf 12 (·.ty.elems) (fun f => floats Rule.vfRoot (fun e a _ _ =>
    ((e.round fp32 a.sqrt).1, srcFlags [a] ||| (e.round fp32 a.sqrt).2)) f) ∧
  VectorOp .vfdiv regsOf 20 (·.ty.elems) (fun f => floats Rule.vfDiv (fun e a b _ => rounded f e [a, b] (a.div b)) f) ∧
  VectorOp .vfexp2 regsOf 12 (fun _ => 0) (faithful .exp2) ∧
  VectorOp .vflog2 regsOf 12 (fun _ => 0) (faithful .log2) ∧
  VectorOp .vftanh regsOf 12 (fun _ => 0) (faithful .tanh) ∧
  VectorOp .vferf regsOf 12 (fun _ => 0) (faithful .erf) ∧
  VectorOp .vfsigm regsOf 12 (fun _ => 0) (faithful .sigm) ∧
  VectorOp .vfsin regsOf 12 (fun _ => 0) (faithful .sin) ∧
  VectorOp .vfcos regsOf 12 (fun _ => 0) (faithful .cos)

/-- Conversion of an FP32 value, times B where `scaled`, to element SUB of the destination's lane (R281). -/
def Sys2Proof.Claim.converted (scaled : Bool) (r : VRule) (f : VF) (s : State) (l : Nat) : W64 × Flags :=
  let x := s.srcs r f (s.activeLanes f.h) l
  let e := s.fenv f l 0
  let a := fp32.read e.daz (elemA f .f32 x 0)
  let b := fp32.read e.daz (elemB f .f32 x 0)
  let p := if scaled then b.mul a else (a, 0)
  let y := f.ty.fmt.convert e.mode e.draw e.sat e.ftz p.1
  (setElem f.ty ((s.readV f.dst.toNat l).setWidth 64) f.sub.toNat y.1,
    x.flags ||| srcFlags (if scaled then [a, b] else [a]) ||| p.2 ||| y.2)

/-- An integer element rounded to FP32, and an FP32 value rounded to an integer (R282). -/
def Sys2Proof.Claim.intToFloat (r : VRule) (f : VF) (s : State) (l : Nat) : W64 × Flags :=
  let x := s.srcs r f (s.activeLanes f.h) l
  let y := (s.fenv f l 0).round fp32 (.ofInt (intOf f.ty (elemA f f.ty x 0)), 0)
  (BitVec.ofNat 64 y.1, x.flags ||| y.2)
def Sys2Proof.Claim.floatToInt (r : VRule) (f : VF) (s : State) (l : Nat) : W64 × Flags :=
  let x := s.srcs r f (s.activeLanes f.h) l
  let e := s.fenv f l 0
  let a := fp32.read e.daz (elemA f .f32 x 0)
  let y := a.toInt e.mode e.draw f.ty.signed f.ty.width
  (BitVec.ofInt 64 y.1, x.flags ||| srcFlags [a] ||| y.2)

/-- R280 to R282: conversions; only VFCVTW is exact and draws nothing. -/
def Sys2Proof.Claim.VectorConversions : Prop :=
  VectorOp .vfcvtw regsOf 5 (fun _ => 0) (fun f s l =>
    let x := s.srcs Rule.vfCvtw f (s.activeLanes f.h) l
    let v := f.ty.fmt.read (fmtDaz s.st.fmt) (elemA f f.ty x f.sub.toNat)
    (BitVec.ofNat 64 (fp32.exact v), x.flags ||| srcFlags [v])) ∧
  VectorOp .vfcvtn regsOf 5 (fun _ => 1) (converted false Rule.vfCvtn) ∧
  VectorOp .vfcvts regsOf 5 (fun _ => 1) (converted true Rule.vfCvts) ∧
  VectorOp .vicvtI (fun _ => 1) 5 (fun _ => 1) (intToFloat (Rule.vICvt [.i32, .i64])) ∧
  VectorOp .vicvtN (fun _ => 1) 5 (fun _ => 1) (intToFloat (Rule.vICvt [.n32, .n64])) ∧
  VectorOp .vfcvtiI regsOf 5 (fun _ => 1) (floatToInt (Rule.vFCvti [.i32, .i64])) ∧
  VectorOp .vfcvtiN regsOf 5 (fun _ => 1) (floatToInt (Rule.vFCvti [.n32, .n64]))

/-- R283: packing 64 FP32 values into eight blocks of FP4 with their scales, and unpacking. -/
def Sys2Proof.Claim.VectorBlockPacking : Prop :=
  VectorOp .vfpack4 regsOf 8 (fun _ => 0) (fun f s l =>
    let act := s.activeLanes f.h
    let lane (i : Nat) : W64 × Flags := if act.getLsbD i then s.srcMod f act 1 .f32 f.a i else (0, 0)
    let val (i : Nat) : FVal := fp32.read (fmtDaz s.st.fmt) (signMod .f32 f.nega f.absa (elemOf .f32 (lane i).1 0))
    let block (b : Nat) : Block := packBlock ((List.range 8).map fun i => val (8 * b + i))
    let scales := (List.range 8).map fun b => (block b).scale
    ((if l < 8 then BitVec.ofNat 64 (block l).word
      else if l = 8 then BitVec.ofNat 64 (laneOf .n8x4 (scales.take 4))
      else if l = 9 then BitVec.ofNat 64 (laneOf .n8x4 (scales.drop 4)) else 0),
     (List.range 8).foldl (fun a b => a ||| (block b).flags) (lanes.foldl (fun a i => a ||| (lane i).2) 0))) ∧
  VectorOp .vfunpk4 regsOf 5 (fun _ => 0) (fun f s l =>
    let act := s.activeLanes f.h
    let rd (k : Nat) : W64 × Flags := if act.getLsbD k then s.srcMod f act 1 .i32 f.a k else (0, Flag.frx)
    let c := elemOf .n8x4 (rd (8 + l / 32)).1 (l / 8 % 4)
    let flags := (rd (l / 8)).2 ||| (rd (8 + l / 32)).2
    if c = 0xFF then (0x7FC00000, flags ||| Flag.nf)
    else (BitVec.ofNat 64 (fp32.exact ((e2m1.decode (elemOf .e2m1x8 (rd (l / 8)).1 (l % 8))).mul (e3m5 c)).1), flags))

/-- Vector float arithmetic, comparison and special functions: `VectorFloatArithmetic`; `VectorFloatCompare`; `VectorSpecialFunctions`. -/
def Obligations.VectorFloats : Prop :=
  Claim.VectorFloatArithmetic ∧ Claim.VectorFloatCompare ∧ Claim.VectorSpecialFunctions

/-- Vector conversions and FP4 block packing: `VectorConversions`; `VectorBlockPacking`. -/
def Obligations.VectorConversionsAndBlocks : Prop :=
  Claim.VectorConversions ∧ Claim.VectorBlockPacking

/-! ### Masks and lanes (R286 to R294) -/

/-- R286 to R288: mask operations, counts and votes. -/
def Sys2Proof.Claim.MaskInstructions : Prop :=
  MaskOp .mand 2 (fun f s => (s.readM f.a.mask.toNat &&& s.readM f.b.mask.toNat, 0)) ∧
  MaskOp .mor 2 (fun f s => (s.readM f.a.mask.toNat ||| s.readM f.b.mask.toNat, 0)) ∧
  MaskOp .mxor 2 (fun f s => (s.readM f.a.mask.toNat ^^^ s.readM f.b.mask.toNat, 0)) ∧
  MaskOp .mandn 2 (fun f s => (s.readM f.a.mask.toNat &&& ~~~s.readM f.b.mask.toNat, 0)) ∧
  MaskOp .mnot 2 (fun f s => (~~~s.readM f.a.mask.toNat, 0)) ∧
  MaskOp .mmov 2 (fun f s => (s.readM f.a.mask.toNat, 0)) ∧
  MaskOp .mshift 2 (fun f s =>
    let a := s.readM f.a.mask.toNat
    let b := (s.vscalar f f.b).toInt
    (if 64 ≤ b.natAbs then 0 else if 0 ≤ b then a <<< b.toNat else a >>> (-b).toNat, 0)) ∧
  MaskOp .mset 2 (fun f s => (s.vscalar f f.a, 0)) ∧
  VectorOp .mpopc regsOf 3 (fun _ => 0) (fun f s _ =>
    (BitVec.ofNat 64 ((List.range 64).countP fun i => (s.readM f.a.mask.toNat).getLsbD i), 0)) ∧
  VectorOp .mfirst regsOf 3 (fun _ => 0) (fun f s _ =>
    (BitVec.ofNat 64 (((List.range 64).find? fun i => (s.readM f.a.mask.toNat).getLsbD i).getD 64), 0)) ∧
  VectorOp .mlast regsOf 3 (fun _ => 0) (fun f s _ =>
    (if s.readM f.a.mask.toNat = 0 then 64 else 63 - (s.readM f.a.mask.toNat).clz, 0)) ∧
  VectorOp .mget regsOf 3 (fun _ => 0) (fun f s l => (if (s.readM f.a.mask.toNat).getLsbD l then 1 else 0, 0)) ∧
  MaskOp .voteAny 2 (fun f s => (maskOf fun _ => lanes.any fun k =>
    (s.voteMembers f).getLsbD k && (s.activeLanes f.h).getLsbD k && s.voteLane f k != 0, voteFlags f s)) ∧
  MaskOp .voteAll 2 (fun f s => (maskOf fun _ => lanes.all fun k =>
    !(s.voteMembers f).getLsbD k || ((s.activeLanes f.h).getLsbD k && s.voteLane f k != 0), voteFlags f s)) ∧
  MaskOp .voteEq 2 (fun f s => (maskOf fun _ => lanes.all fun k =>
    !(s.voteMembers f).getLsbD k ||
      ((s.activeLanes f.h).getLsbD k && s.voteLane f k == s.voteLane f (lowBit 64 (s.voteMembers f).toNat)), voteFlags f s)) ∧
  MaskOp .voteBallot 2 (fun f s => (maskOf fun l => (s.voteMembers f).getLsbD l && s.voteLane f l != 0, voteFlags f s))

/-- R289, R292: lanes that move within a segment of 2^SUB lanes, and elements. -/
def Sys2Proof.Claim.LaneMoves : Prop :=
  VectorOp .shflIdx regsOf 6 (fun _ => 0) (fun f s l => s.laneRead f (s.activeLanes f.h) (l - l % 2 ^ (f.sub.toNat % 8) + s.laneB f l % 2 ^ (f.sub.toNat % 8))) ∧
  VectorOp .shflXor regsOf 6 (fun _ => 0) (fun f s l =>
    s.laneRead f (s.activeLanes f.h) (l - l % 2 ^ (f.sub.toNat % 8) + (l % 2 ^ (f.sub.toNat % 8) ^^^ s.laneB f l) % 2 ^ (f.sub.toNat % 8))) ∧
  VectorOp .vbcast regsOf 6 (fun _ => 0) (fun f s l => s.laneRead f (s.activeLanes f.h) (l - l % 2 ^ (f.sub.toNat % 8) + s.laneB f l % 2 ^ (f.sub.toNat % 8))) ∧
  VectorOp .vrev regsOf 6 (fun _ => 0) (fun f s l =>
    s.laneRead f (s.activeLanes f.h) (l - l % 2 ^ (f.sub.toNat % 8) + (2 ^ (f.sub.toNat % 8) - 1 - l % 2 ^ (f.sub.toNat % 8)))) ∧
  VectorOp .vext regsOf 6 (fun _ => 0) (fun f s l =>
    ((BitVec.ofInt 32 (intOf f.ty (elemOf f.ty (s.srcLane f.ty f.ext f.a l) f.sub.toNat))).setWidth 64, 0)) ∧
  VectorOp .vins regsOf 6 (fun _ => 0) (fun f s l =>
    (setElem f.ty (s.srcLane f.ty f.ext f.a l) f.sub.toNat (elemOf f.ty (s.srcLane f.ty f.ext f.b l) 0), 0))

/-- R290, R291, R220, R221: reductions over the tree of a segment, and scans level by level. -/
def Sys2Proof.Claim.ReductionsAndScans : Prop :=
  VectorOp .vredInt regsOf 10 (fun _ => 0) (reduced false) ∧
  VectorOp .vredFloat regsOf 10 (fun _ => 0) (reduced true) ∧
  VectorOp .vscanInt regsOf 12 (fun _ => 0) (scanned false) ∧
  VectorOp .vscanFloat regsOf 12 (fun _ => 0) (scanned true)

/-- R293, R294: compaction, and the item and offset of a position of a ragged set, written as a pair. -/
def Sys2Proof.Claim.CompactAndRagged : Prop :=
  VectorOp .vcompact regsOf 12 (fun _ => 0) (fun f s l =>
    let n := 2 ^ (f.sub.toNat % 8)
    let selected := ((List.range n).map (l - l % n + ·)).filter fun k =>
      (s.activeLanes f.h).getLsbD k && (s.readM f.b.mask.toNat).getLsbD k
    (match selected[l % n]? with
     | some k => (s.readV (VF.vecA f) k).setWidth 64
     | none => 0, 0)) ∧
  VectorOp .vragg (fun _ => 2) 12 (fun _ => 0) (fun f s l =>
    let n := 2 ^ (f.sub.toNat % 8)
    let b := l - l % n
    let cnt := (List.range n).map fun j => if (s.activeLanes f.h).getLsbD (b + j) then (s.readV (VF.vecA f) (b + j)).toNat else 0
    (match raggedAt (s.laneB f l + (l - b)) cnt 0 0 none with
     | some (j, off) => BitVec.ofNat 64 (j + 2 ^ 32 * off)
     | none => 0xFFFFFFFF, 0))

/-- Mask instructions, votes and moves across lanes: `MaskInstructions`; `LaneMoves`. -/
def Obligations.MasksAndLaneMoves : Prop :=
  Claim.MaskInstructions ∧ Claim.LaneMoves

/-- Reductions, scans, VCOMPACT and VRAGG: `ReductionsAndScans`; `CompactAndRagged`. -/
def Obligations.SegmentsAndCompaction : Prop :=
  Claim.ReductionsAndScans ∧ Claim.CompactAndRagged

/-! ### Loads, stores and cache control (R296 to R303) -/

/-- A vector load: where its checks pass, no peer's answer is awaited and what it reads is sound, its registers take the bytes of its
lanes' places, after the buffered reductions to those lines have gone home (R118, R299, R310). -/
abbrev Sys2Proof.Claim.LoadOp (mk : MF → Instr) (sp : MF → Space) (addr : State → MF → Nat → W64) : Prop :=
  ∀ (f : MF) (s : State) (xs : List LaneLoc), s.clear (mk f) →
    let s0 := s.landed (mk f)
    let n := f.width.bytes
    s0.places (sp f) (s0.laneVas f.h (addr s0 f)) n .read servesVector = some xs →
    let ys := xs.map (·.policy f.cpol)
    (s0.undenied (sp f) xs).delivered ys n f.order = true →
    let s1 := (s0.undenied (sp f) xs).fresh ys f.order (readsPast ys f.order f.scope)
    let past := readsPast ys f.order f.scope
    s1.readable past ys n →
    exec (mk f) s = .next (((s1.afterLoad past (keepsL1 f.cpol) ys).loadVec f.h (Reg.num f.data) f.width.regs
      fun l j => loadReg f.width (f.sub.getLsbD 0) (s1.laneBytes past ys n l) j).retire f.h)

/-- R297, R300: vector loads, each from the address that its form gives. -/
def Sys2Proof.Claim.VectorLoads : Prop :=
  LoadOp .vldGlobal (fun _ => .global) (fun s f l =>
    s.readS f.base.toNat + (s.indexAt f.index l <<< f.shift.toNat) + MF.offset f) ∧
  LoadOp .vldScratch (fun _ => .scratch) (fun s f l =>
    s.readS f.base.toNat + (s.indexAt f.index l <<< f.shift.toNat) + MF.offset f) ∧
  LoadOp .vldCluster (fun _ => .cluster) (fun s f l =>
    s.readS f.base.toNat + (s.indexAt f.index l <<< f.shift.toNat) + MF.offset f) ∧
  LoadOp .vldb (·.space) (fun s f l => s.readS f.base.toNat + MF.offset f + BitVec.ofNat 64 (l * f.width.bytes)) ∧
  LoadOp .vldx (·.space) (fun s f l => s.readS f.base.toNat + MF.offset f + BitVec.ofNat 64 l * s.indexAt f.index l)

/-- What VLD writes: for `count` registers from `d`, the lanes that R233 says take their data at once as pending results, and
every other register, flag and byte of memory stays. A tracked scalar result of a known latency lands that much later, and is pending
until then (R239). -/
def Sys2Proof.Claim.LoadedRegisters : Prop :=
  (∀ (s : State) (h : Head) (n : Nat) (v : W64) (lat : Nat), n ≠ 0 →
    let t := (s.writeTracked n v lat).retire h
    wroteScalar s t n v lat ∧ (RegId.sca n, s.st.fid, s.landAt (.sca n) lat) ∈ t.wv.tracked ∧
    keepsScalars s t [n] ∧ keepsVectors s t [] ∧ keepsMasks s t [] ∧ t.wv.flg = s.wv.flg ∧ keepsWave s t ∧ retires s t h ∧ keepsRest s t) ∧
  ∀ (s : State) (h : Head) (d count : Nat) (val : Nat → Nat → W32),
    let t := (s.loadVec h d count val).retire h
    (∀ j, j < count → wroteVector s t (d + j) (if h.zero then s.st.exec else s.activeLanes h)
      (fun l => if (s.activeLanes h).getLsbD l then val l j else 0) 0) ∧
    (∀ j, j < count → ∃ land, (RegId.vec (d + j), s.st.fid, land) ∈ t.wv.tracked) ∧
    keepsVectors s t ((List.range count).map (d + ·)) ∧ keepsScalars s t [] ∧ keepsMasks s t [] ∧ t.wv.flg = s.wv.flg ∧
    keepsWave s t ∧ retires s t h ∧ keepsRest s t

/-- A scalar load (R301): one access for the stream, checked at every lane of EXEC. -/
abbrev Sys2Proof.Claim.ScalarLoadOp (mk : MF → Instr) (sp : MF → Space) : Prop :=
  ∀ (f : MF) (s : State) (x : LaneLoc) (ys : List LaneLoc), s.clear (mk f) →
    let s0 := s.landed (mk f)
    let n := f.width.bytes
    s0.places (sp f) (s0.uniform (s0.readS f.base.toNat + (s0.indexAt f.index 0 <<< f.shift.toNat) + MF.offset f)) n .read
      (servesScalar f.width) = some (x :: ys) →
    let s1 := s0.undenied (sp f) (x :: ys)
    s1.isMmio x = false →
    let y := x.policy f.cpol
    s1.delivered [y] n f.order = true →
    let s2 := s1.fresh [y] f.order (readsPast [y] f.order f.scope)
    let past := readsPast [y] f.order f.scope
    s2.readable past [y] n →
    exec (mk f) s = .next (((((s2.afterLoad past (keepsL1 f.cpol) [y]).writeS (Reg.num f.data)
      (loadScalar f.width (f.sub.getLsbD 0) (s2.locBytes past y.loc n))).track (.sca (Reg.num f.data)))).retire f.h)

/-- R301: SLD from memory, scratchpad and the parameter space. -/
def Sys2Proof.Claim.ScalarLoads : Prop :=
  ScalarLoadOp .sldGlobal (·.space) ∧ ScalarLoadOp .sldParam (fun _ => .param)

/-- A vector store: a release has waited for peers' acknowledgements and first sends the wave's buffered reductions; a store outside the
footprint, or into another squad's stripe, pins; then the bytes land in ascending lane order (R105, R118, R158, R302). -/
abbrev Sys2Proof.Claim.StoreOp (mk : MF → Instr) (sp : MF → Space) (addr : State → MF → Nat → W64) : Prop :=
  ∀ (f : MF) (s : State) (xs : List LaneLoc), s.clear (mk f) →
    let s0 := s.landed (mk f)
    let n := f.width.bytes
    s0.places (sp f) (s0.laneVas f.h (addr s0 f)) n .write servesVector = some xs →
    let ys := xs.map (·.policy f.cpol)
    let s1 := s0.undenied (sp f) xs
    (Order.releases f.order = true → s1.windowOwed = false) →
    let s2 := s1.flushed ys f.order
    s2.mergeViolations ys n = [] →
    exec (mk f) s = .next (((if s2.storePins ys n then s2.pin else s2).storeLanes ys
      (s1.storeData f.width (Reg.num f.data))).retire f.h)

/-- R300, R302: vector stores, each to the address that its form gives. -/
def Sys2Proof.Claim.VectorStores : Prop :=
  StoreOp .vstGlobal (fun _ => .global) (fun s f l =>
    s.readS f.base.toNat + (s.indexAt f.index l <<< f.shift.toNat) + MF.offset f) ∧
  StoreOp .vstScratch (fun _ => .scratch) (fun s f l =>
    s.readS f.base.toNat + (s.indexAt f.index l <<< f.shift.toNat) + MF.offset f) ∧
  StoreOp .vstCluster (fun _ => .cluster) (fun s f l =>
    s.readS f.base.toNat + (s.indexAt f.index l <<< f.shift.toNat) + MF.offset f) ∧
  StoreOp .vstx (·.space) (fun s f l => s.readS f.base.toNat + MF.offset f + BitVec.ofNat 64 l * s.indexAt f.index l)

/-- R301 and R303: SST, prefetch, write-back and invalidation. -/
def Sys2Proof.Claim.ScalarStoreAndCacheControl : Prop :=
  (∀ (f : MF) (s : State) (x : LaneLoc) (ys : List LaneLoc), s.clear (.sst f) →
    let s0 := s.landed (.sst f)
    let n := f.width.bytes
    s0.places f.space (s0.uniform (s0.readS f.base.toNat + (s0.indexAt f.index 0 <<< f.shift.toNat) + MF.offset f)) n .write
      (servesScalar f.width) = some (x :: ys) →
    let s1 := s0.undenied f.space (x :: ys)
    s1.isMmio x = false →
    let y := x.policy f.cpol
    (Order.releases f.order = true → s1.windowOwed = false) →
    let s2 := s1.flushed [y] f.order
    s2.mergeViolations [y] n = [] →
    exec (.sst f) s = .next (((if s2.storePins [y] n then s2.pin else s2).storeLanes [y]
      fun _ => leBytes n (s1.readS (Reg.num f.data)).toNat).retire f.h)) ∧
  (∀ (f : MF) (s : State), s.clear (.pref f) →
    let s0 := s.landed (.pref f)
    let ls := s0.laneVas f.h (s0.addrAt f)
    (∀ x ∈ ls, noncanon x.2 = false) →
    exec (.pref f) s = .next ((ls.foldl (fun s x => s.prefetch f x.2.toNat) s0).retire f.h)) ∧
  (∀ (f : MF) (s : State) (xs : List LaneLoc), s.clear (.cwb f) →
    let s0 := s.landed (.cwb f)
    s0.places .global (s0.laneVas f.h (s0.addrAt f)) 1 .read servesVector = some xs →
    let s1 := s0.undenied .global xs
    exec (.cwb f) s = .next (((linesOf xs).foldl (fun s l => s.cleanLine l.1 l.2) s1).retire f.h)) ∧
  (∀ (f : MF) (s : State) (xs : List LaneLoc), s.clear (.cinv f) →
    let s0 := s.landed (.cinv f)
    s0.places .global (s0.laneVas f.h (s0.addrAt f)) 1 .read servesVector = some xs →
    exec (.cinv f) s = .next (((pasOf xs).foldl (fun s pa => s.dropCopy s.sq.core pa) (s0.undenied .global xs)).retire f.h))

/-! ### Atomics and reductions (R304 to R310) -/

/-- An atomic whose checks pass and whose sectors are sound: it comes after what its core has on its way to the L2 of lines that it meets
at home (R307); each lane in ascending order meets the lanes before it (R305); `op` gives what a lane stores. -/
abbrev Sys2Proof.Claim.AtomicOp (mk : AF → Instr) (k : Elem) (ofail : AF → Order) (op : AF → State → Nat → W64 → Option Nat)
    (put : State → AF → (Nat → Option W64) → State) (one : Bool) : Prop :=
  ∀ (f : AF) (s : State) (ys xs : List LaneLoc), s.clear (mk f) →
    let s0 := s.landed (mk f)
    let addr (l : Nat) : W64 := s0.readS f.base.toNat + (s0.indexAt f.index l <<< f.shift.toNat) + f.off.signExtend 64
    s0.places .global (if one then s0.uniform (addr 0) else s0.laneVas f.h addr) k.bytes .atomic servesAtomic = some ys →
    xs = (if one then ys.take 1 else ys) →
    let s1 := s0.undenied .global ys
    let o := rmwOrder f.ords (ofail f)
    (Order.releases o = true → s1.windowOwed = false) →
    let s2 := if Order.releases o then s1.flushMine else s1
    let s2' := (s2.flushFor (pasOf xs)).landFor (s2.rmwHome (Scope.narrow f.scope) xs ++ s2.otherThrough xs)
    s2'.violations xs = [] → s2'.rmwHurt xs = [] →
    let s3 := s2'.pin
    let r := s3.rmwAll k s3.step16 (Scope.narrow f.scope) (op f s3) xs
    let wrote := r.1.any fun e => match e.2 with
      | some v => (op f s3 e.1 v).isSome
      | none => false
    let failed := r.1.any fun e => match e.2 with
      | some v => (op f s3 e.1 v).isNone
      | none => false
    let s4 := if anyAcquire f.ords (ofail f) f.scope wrote failed then r.2.selfInvalidate s3.sq.core else r.2
    exec (mk f) s = .next ((put s4 f fun l => (r.1.find? fun e => e.1 == l).bind (·.2)).retire f.h)

/-- R305, R306: atomics and compares. A compare stores only where the old value equals CMP. -/
def Sys2Proof.Claim.AtomicInstructions : Prop :=
  AtomicOp .atomI32 .i32 (fun _ => .rlx) (fun f s l old => some (Elem.apply .i32 f.aop f.unsignedT old.toNat (s.atomVal .i32 false f.val l).toNat))
    (fun s f old => s.putOld f .i32 old) false ∧
  AtomicOp .atomI64 .i64 (fun _ => .rlx) (fun f s l old => some (Elem.apply .i64 f.aop f.unsignedT old.toNat (s.atomVal .i64 false f.val l).toNat))
    (fun s f old => s.putOld f .i64 old) false ∧
  AtomicOp .atomF32 .f32 (fun _ => .rlx) (fun f s l old => some (Elem.apply .f32 f.aop f.unsignedT old.toNat (s.atomVal .f32 false f.val l).toNat))
    (fun s f old => s.putOld f .f32 old) false ∧
  AtomicOp .cas32 .i32 (·.ordf) (fun f s l old => if old.toNat = (s.atomVal .i32 false f.cmp l).toNat % 2 ^ 32
      then some ((s.atomVal .i32 false f.val l).toNat % 2 ^ 32) else none)
    (fun s f old => s.putOld f .i32 old) false ∧
  AtomicOp .cas64 .i64 (·.ordf) (fun f s l old => if old.toNat = (s.atomVal .i64 false f.cmp l).toNat % 2 ^ 64
      then some ((s.atomVal .i64 false f.val l).toNat % 2 ^ 64) else none)
    (fun s f old => s.putOld f .i64 old) false ∧
  AtomicOp .satom .i64 (fun _ => .rlx) (fun f s l old => some (Elem.apply .i64 f.aop f.unsignedT old.toNat (s.atomVal .i64 true f.val l).toNat))
    (fun s f old => s.putOldS f old) true ∧
  AtomicOp .scas .i64 (·.ordf) (fun f s l old => if old.toNat = (s.atomVal .i64 true f.cmp l).toNat % 2 ^ 64
      then some ((s.atomVal .i64 true f.val l).toNat % 2 ^ 64) else none)
    (fun s f old => s.putOldS f old) true

/-- A memory-side reduction whose checks pass (R309): counted, pinned, applied lane by lane, and acknowledged where it names a
destination. -/
abbrev Sys2Proof.Claim.ReductionOp (mk : AF → Instr) (k : Elem) : Prop :=
  ∀ (f : AF) (s : State) (xs : List LaneLoc), s.clear (mk f) →
    let s0 := s.landed (mk f)
    s0.places .global (s0.laneVas f.h fun l =>
      s0.readS f.base.toNat + (s0.indexAt f.index l <<< f.shift.toNat) + f.off.signExtend 64) k.bytes .atomic servesAtomic = some xs →
    let s1 := s0.undenied .global xs
    (Order.releases f.ords = true → s1.windowOwed = false) →
    let s2 := if Order.releases f.ords then s1.flushMine else s1
    let s3 := (s2.countRed (pasOf xs)).pin
    let r := s3.redAll f k s3.step16 xs
    exec (mk f) s = .next ((r.2.putAck f r.1).retire f.h)

/-- R309: RED. -/
def Sys2Proof.Claim.ReductionInstructions : Prop :=
  ReductionOp .redI32 .i32 ∧ ReductionOp .redI64 .i64 ∧ ReductionOp .redF32 .f32 ∧ ReductionOp .redBf16x2 .bf16x2

/-- Vector and scalar loads: what each destination reads, and the frame: `VectorLoads`; `LoadedRegisters`; `ScalarLoads`. -/
def Obligations.LoadsDeliverMemory : Prop :=
  Claim.VectorLoads ∧ Claim.LoadedRegisters ∧ Claim.ScalarLoads

/-- Vector and scalar stores, PREF, CWB and CINV: `VectorStores`; `ScalarStoreAndCacheControl`. -/
def Obligations.StoresWriteMemory : Prop :=
  Claim.VectorStores ∧ Claim.ScalarStoreAndCacheControl

/-- ATOM, CAS, SATOM, SCAS and RED: `AtomicInstructions`; `ReductionInstructions`. -/
def Obligations.AtomicsAndReductions : Prop :=
  Claim.AtomicInstructions ∧ Claim.ReductionInstructions

/-! ### VADAM (R284, R285) -/

/-- R284, R285: VADAM reads its block from the scratchpad at s[B], which its active lanes name, with the gradient in A, and writes the
three results of each active lane that has them; a block with a parameter that is not finite raises NF and nothing is written. Where the
block's bytes are not poisoned it always completes. -/
def Obligations.AdamStep : Prop :=
  (∀ (f : VF) (s : State) (xs : List LaneLoc), s.clear (.vadam f) →
    let s0 := s.landed (.vadam f)
    s0.places .scratch (s0.laneVas f.h fun _ => s0.sval f.b 0 none) 32 .read servesVector = some xs →
    let s1 := s0.fresh [] .rlx
    (∀ x ∈ xs.head?, s1.locBad .nothing x.loc 32 = false) →
    let daz := fmtDaz s1.st.fmt
    let b := AdamBlock.ofBytes daz ((xs.head?.map fun x => s1.locBytes .nothing x.loc 32).getD [])
    let reg (k l : Nat) : FVal := fp32.read daz (s1.readV (f.dst.toNat + k) l).toNat
    let grad (l : Nat) : W64 × Flags := s1.srcMod f (s1.activeLanes f.h) 1 .f32 f.a l
    exec (.vadam f) s = .next (if b.finite then
        s1.adamResult f fun l =>
          let r := adamLane b (s1.fenv f l 0) (reg 0 l) (reg 1 l) (reg 2 l) (fp32.read daz ((grad l).1.toNat % 2 ^ 32))
          { r with flags := r.flags ||| (grad l).2 }
      else (s1.orFlags Flag.nf).retire f.h)) ∧
  (∀ (b : AdamBlock) (e : FEnv) (w m v g : FVal), ¬(w.isFin ∧ m.isFin ∧ v.isFin ∧ g.isFin) →
    adamLane b e w m v g = { out := none, flags := Flag.nf, final := false })

/-! ### Control (R252 to R261) -/

/-- R231, R252 to R257: a taken transfer whose target is a LAND slot goes there, and takes at least 6 cycles; CALL and JMP
write the next PC to their link, LOOP its counter. One that is not taken goes on in sequence. -/
def Sys2Proof.Claim.Transfers : Prop :=
  (∀ (f : BF) (s : State), passes s (.bra f) →
    let s0 := s.landed (.bra f)
    (bcond f.cond (s.readS f.creg.toNat) = false → exec (.bra f) s = .next (s0.retire f.h)) ∧
    (bcond f.cond (s.readS f.creg.toNat) = true → s0.landing (BF.target f s.st.pc) = .lands →
      exec (.bra f) s = .next (({ s0 with st := s0.st.cleared }).jump f.h (BF.target f s.st.pc)))) ∧
  (∀ (f : BF) (s : State), passes s (.jmp f) →
    let s0 := s.landed (.jmp f)
    s0.landing (s.readS f.creg.toNat) = .lands →
    exec (.jmp f) s = .next ((({ s0 with st := s0.st.cleared }).writeS f.link.toNat s.st.npc).jump f.h
      (s.readS f.creg.toNat))) ∧
  (∀ (f : BF) (s : State), passes s (.ret f) →
    let s0 := s.landed (.ret f)
    s0.landing (s.readS f.creg.toNat) = .lands →
    exec (.ret f) s = .next (({ s0 with st := s0.st.cleared }).jump f.h (s.readS f.creg.toNat))) ∧
  (∀ (f : BF) (s : State), passes s (.call f) →
    let s0 := s.landed (.call f)
    s0.landing (BF.target f s.st.pc) = .lands →
    exec (.call f) s = .next ((({ s0 with st := s0.st.cleared }).writeS f.link.toNat s.st.npc).jump f.h
      (BF.target f s.st.pc))) ∧
  (∀ (f : BF) (s : State), passes s (.loop f) →
    let s0 := s.landed (.loop f)
    let v := s.readS f.creg.toNat - 1
    (v = 0 → exec (.loop f) s = .next ((s0.writeS f.creg.toNat 0).retire f.h)) ∧
    (v ≠ 0 → s0.landing (BF.target f s.st.pc) = .lands →
      exec (.loop f) s = .next ((({ s0 with st := s0.st.cleared }).writeS f.creg.toNat v).jump f.h (BF.target f s.st.pc)))) ∧
  (∀ (f : BF) (s : State), passes s (.nop f) → exec (.nop f) s = .next ((s.landed (.nop f)).retire f.h))

/-- R231: where a transfer's target is a valid PC that is no LAND slot, or no valid PC, the branch takes BADLAND at its own PC
with the target in TADDR, and no link is written. -/
def Sys2Proof.Claim.BadTargetsTrap : Prop :=
  ∀ (mk : BF → Instr) (tgt : BF → State → W64),
    (mk, tgt) = (Instr.call, fun f s => BF.target f s.st.pc) ∨ (mk, tgt) = (Instr.jmp, fun f s => s.readS f.creg.toNat) →
    ∀ (f : BF) (s : State), passes s (mk f) →
      let s0 := s.landed (mk f)
      let t := tgt f s
      let s1 : State := { s0 with st := s0.st.cleared }
      (s0.landing t = .noLand → exec (mk f) s =
        .next (s1.trap { code := Cause.badland, tpc := s.st.pc, addr := t, mask := s.st.exec, info0 := 0, info1 := 0, info2 := BitVec.allOnes 64 })) ∧
      (s0.landing t = .misaligned → exec (mk f) s =
        .next (s1.trap { code := Cause.badland, tpc := s.st.pc, addr := t, mask := s.st.exec, info0 := 0, info1 := BitVec.allOnes 64, info2 := 0 }))

/-- R164, R165: BRV with no lane, every lane, or some lanes of EXEC in its branch mask. A divergent branch runs the larger side
first, the taken one among equals; the other becomes a fragment, or is deferred on the stack over its JOIN entry with the distances that then remain (R240). -/
def Sys2Proof.Claim.DivergentBranch : Prop :=
  ∀ (f : BF) (s : State), passes s (.brv f) →
    let s0 := s.landed (.brv f)
    let m := s.readM f.msrc.toNat
    let t := s.st.exec &&& (if f.minv then ~~~m else m)
    let taken := BF.target f s.st.pc
    let s1 : State := { s0 with st := s0.st.cleared }
    (t = 0 → exec (.brv f) s = .next (s0.retire f.h)) ∧
    (t ≠ 0 → s0.landing taken = .lands →
      (t = s.st.exec → exec (.brv f) s = .next (s1.jump f.h taken)) ∧
      (t ≠ s.st.exec →
        let other := s.st.exec &&& ~~~t
        let big := decide (popMask other ≤ popMask t)
        let now : W64 × W64 := if big then (t, taken) else (other, s.st.npc)
        let later : W64 × W64 := if big then (other, s.st.npc) else (t, taken)
        let join : StackEntry :=
          { sibling := false, pc := 0, mask := s.st.exec, recon := BF.recon f s.st.pc, fmt := s.st.fmt, token := f.token, frags := [], dist := [] }
        let frees := if f.detach || decide (popMask later.1 ≤ s.wv.detthr.toNat) then s.freeFids else []
        (∀ fid r, frees = fid :: r → 1 ≤ s.stackFree → ∃ u, exec (.brv f) s = .next u ∧
          u.st.pc = now.2 ∧ u.st.wait = .none ∧
          u.st.readyAt = s.cycle + max (max 1 f.h.stall.toNat) 14 ∧ u.st.exec = now.1 ∧
          u.st.stack = { join with frags := [fid] } :: s.st.stack ∧
          (∃ x, u.wv.frags = s.wv.frags ++ [x] ∧ x.fid = fid ∧ x.pc = later.2 ∧ x.exec = later.1 ∧ x.token = f.token ∧ x.fmt = s.st.fmt ∧
            x.stack = [] ∧ x.wait = .none ∧ x.readyAt = u.st.readyAt)) ∧
        (frees = [] → 2 ≤ s.stackFree → ∃ u, exec (.brv f) s = .next u ∧
          u.st.pc = now.2 ∧ u.st.wait = .none ∧
          u.st.readyAt = s.cycle + max (max 1 f.h.stall.toNat) 8 ∧ u.st.exec = now.1 ∧
          u.st.stack = { join with sibling := true, pc := later.2, mask := later.1, dist := (s1.jump f.h now.2 8).st.remaining } ::
            join :: s.st.stack ∧ u.wv.frags = s.wv.frags)))

/-- R255: JMPV whose lanes share one target jumps there; with several, it runs the largest group and places the others. -/
def Sys2Proof.Claim.VectorJump : Prop :=
  ∀ (f : BF) (s : State) (g : W64 × W64) (rest : List (W64 × W64)), passes s (.jmpv f) →
    let s0 := s.landed (.jmpv f)
    let c := 2 * f.creg.toNat
    let ts : List LaneVa := (lanes.filter fun l => s.st.exec.getLsbD l).map fun l =>
      (l, (s.readV c l).setWidth 64 ||| ((s.readV (c + 1) l).setWidth 64 <<< 32))
    (∀ x ∈ ts, s0.landing x.2 = .lands) →
    orderGroups (groupsOf ts) = g :: rest →
    let s1 : State := { s0 with st := s0.st.cleared }
    let placed := placeGroups f.detach s.wv.detthr.toNat rest.reverse s.freeFids
    (rest = [] → exec (.jmpv f) s = .next (s1.jump f.h g.2)) ∧
    (rest ≠ [] → 1 + placed.2.length ≤ s.stackFree → ∃ u, exec (.jmpv f) s = .next u ∧ u.st.pc = g.2 ∧ u.st.exec = g.1 ∧
      u.st.readyAt = s.cycle + max (max 1 f.h.stall.toNat) (8 + 4 * rest.length) ∧
      u.st.stack.drop (1 + placed.2.length) = s.st.stack ∧
      (u.st.stack.take placed.2.length).map (fun e => (e.sibling, e.pc, e.mask)) = (placed.2.map fun x => (true, x.2, x.1)).reverse ∧
      u.wv.frags.map (fun x => (x.fid, x.pc, x.exec)) =
        s.wv.frags.map (fun x => (x.fid, x.pc, x.exec)) ++ placed.1.map fun x => (x.1, x.2.2, x.2.1))

/-- R166, R258: RJOIN pops the entry of its token: a SIBLING entry's lanes run, with its distances (R240), a JOIN entry waits for its fragments and then
restores its lanes, with the distances that its fragments brought; a fragment with an empty stack and that token arrives; otherwise it goes on. -/
def Sys2Proof.Claim.Merging : Prop :=
  ∀ (f : BF) (s : State), passes s (.rjoin f) →
    let s0 := s.landed (.rjoin f)
    (s.st.stack = [] → ¬(s.st.fid ≠ 0 ∧ s.st.token = f.token) → exec (.rjoin f) s = .next (s0.retire f.h)) ∧
    (s.st.stack = [] → s.st.fid ≠ 0 → s.st.token = f.token → exec (.rjoin f) s = .next s0.arrive) ∧
    (∀ e r, s.st.stack = e :: r → e.token ≠ f.token → exec (.rjoin f) s = .next (s0.retire f.h)) ∧
    (∀ e r, s.st.stack = e :: r → e.token = f.token → e.sibling = true → ∃ u, exec (.rjoin f) s = .next u ∧
      u.wv = s0.wv ∧ u.st = { (s0.jump f.h e.pc).st with exec := e.mask &&& ~~~s.wv.exited, fmt := e.fmt, stack := r, dist := (s0.jump f.h e.pc).st.inherited e.dist }) ∧
    (∀ e r, s.st.stack = e :: r → e.token = f.token → e.sibling = false → e.frags ≠ [] →
      exec (.rjoin f) s = .next (s0.hold .blocked)) ∧
    (∀ e r, s.st.stack = e :: r → e.token = f.token → e.sibling = false → e.frags = [] → e.mask &&& ~~~s.wv.exited ≠ 0 →
      ∃ u, exec (.rjoin f) s = .next u ∧
        u.wv = s0.wv ∧ u.st = { (s0.retire f.h).st with exec := e.mask &&& ~~~s.wv.exited, fmt := e.fmt, stack := r, dist := (s0.retire f.h).st.inherited e.dist })

/-- R168, R257, R259 to R261: DETACH turns the topmost SIBLING entry into a fragment and says so in its link; EXIT retires the
lanes that execute; TEND ends the wave; YIELD exchanges in the oldest ready pending stream of its quadrant, if there is one; NAP waits for
at most 1,048,575 cycles. -/
def Sys2Proof.Claim.LeavingAndWaiting : Prop :=
  (∀ (f : BF) (s : State), passes s (.detach f) →
    let s0 := s.landed (.detach f)
    (∀ e r fid fs, s.st.stack = e :: r → e.sibling = true → s.freeFids = fid :: fs → ∃ u, exec (.detach f) s = .next u ∧
      wroteScalar s u f.link.toNat 1 0 ∧ u.st.stack = recordFragment fid r ∧ u.st.pc = s.st.npc ∧
      u.wv.frags.map (fun x => (x.fid, x.pc, x.exec)) = s.wv.frags.map (fun x => (x.fid, x.pc, x.exec)) ++ [(fid, e.pc, e.mask)]) ∧
    ((∀ e ∈ s.st.stack.head?, e.sibling = false) ∨ s.freeFids = [] →
      exec (.detach f) s = .next ((s0.writeS f.link.toNat 0).retire f.h))) ∧
  (∀ (f : BF) (s : State), passes s (.exit f) → exec (.exit f) s = .next (((s.landed (.exit f)).retire f.h).exitLanes).drained) ∧
  (∀ (s : State), s.exitLanes.st.exec = 0 ∧ s.exitLanes.wv.exited = s.wv.exited ||| s.st.exec ∧
    s.exitLanes.st.stack = s.st.stack.map (fun e => { e with mask := e.mask &&& ~~~s.st.exec }) ∧ s.exitLanes.st.trap.hmode = false) ∧
  (∀ (f : BF) (s : State), passes s (.tend f) → exec (.tend f) s = .next (s.landed (.tend f)).endWave) ∧
  (∀ (s : State), s.endWave.wv.ended = true ∧ s.endWave.wv.frags = [] ∧ s.endWave.st.wait = .ended ∧
    (s.sq.waves.all (fun x => x.ended) = true → (Due.instanceEnd s.sq.sid) ∈ s.endWave.pending)) ∧
  (∀ (f : BF) (s : State), passes s (.yield f) → s.hasSibling = false →
    exec (.yield f) s = .next (match (s.landed (.yield f)).oldestPending s.sq.core s.wv.quad with
      | none => (s.landed (.yield f)).retire f.h
      | some e => ((s.landed (.yield f)).retire f.h).exchange e)) ∧
  (∀ (f : BF) (s : State), passes s (.nap f) → s.hasSibling = false →
    let n := min (s.readS f.creg.toNat).toNat 1048575
    exec (.nap f) s = .next (if n = 0 then (s.landed (.nap f)).retire f.h else ((s.landed (.nap f)).retire f.h).hold (.nap n)))

/-- BRA, JMP, CALL, RET, LOOP, and BADLAND at a target that is no landing: `Transfers`; `BadTargetsTrap`. -/
def Obligations.BranchTransfers : Prop :=
  Claim.Transfers ∧ Claim.BadTargetsTrap

/-- BRV and JMPV: who runs first, who is pushed or detached: `DivergentBranch`; `VectorJump`. -/
def Obligations.DivergentTransfers : Prop :=
  Claim.DivergentBranch ∧ Claim.VectorJump

/-- RJOIN, DETACH, EXIT, TEND, YIELD, NAP and NOP: `Merging`; `LeavingAndWaiting`. -/
def Obligations.MergingAndLeaving : Prop :=
  Claim.Merging ∧ Claim.LeavingAndWaiting

/-! ### System instructions and control registers (R262 to R268) -/

/-- R262 to R264: XRD reads a control register. XWR, XSET and XCLR return its old value and store the new one where it may be
written; else they take PROT with the reason R263 gives, and write nothing. The value lands 4 cycles on, 12 for GTIME and LAPLEN,
and of FLG once every earlier write of the wave has landed; its readers wait for it (R239). -/
def Sys2Proof.Claim.ControlRegisterAccess : Prop :=
  (∀ (f : QF) (s : State), passes s (.xrd f) → exec (.xrd f) s =
    .next (((s.landed (.xrd f)).writeTracked f.dst.toNat ((s.landed (.xrd f)).readX f.xreg.toNat) (s.xLat f.xreg.toNat)).retire f.h)) ∧
  (∀ (mk : QF → Instr) (g : W64 → W64 → W64),
    (mk, g) = (Instr.xwr, fun _ a => a) ∨ (mk, g) = (Instr.xset, fun old a => old ||| a) ∨
      (mk, g) = (Instr.xclr, fun old a => old &&& ~~~a) →
    ∀ (f : QF) (s : State), passes s (mk f) →
      let s0 := s.landed (mk f)
      let a := s0.sval f.a 0 none
      let old := s0.readX f.xreg.toNat
      (∀ s1, s0.writeX f.xreg.toNat a (g old a) = .ok s1 →
        exec (mk f) s = .next ((s1.writeTracked f.dst.toNat old (s.xLat f.xreg.toNat)).retire f.h)) ∧
      (∀ r, s0.writeX f.xreg.toNat a (g old a) = .prot r → exec (mk f) s =
        .next (s0.trap { code := Cause.prot, tpc := s.st.pc, addr := 0, mask := 0, info0 := BitVec.ofNat 64 r, info1 := 0, info2 := 0 }))) ∧
  (∀ s : State, s.xLat 0x040 = 12 ∧ s.xLat 0x041 = 12 ∧ (∀ e ∈ s.wv.inflight, e.land + 4 ≤ s.cycle + s.xLat 0x001) ∧
    ∀ n, n ∉ [0x001, 0x040, 0x041] → s.xLat n = 4) ∧
  (∀ (s : State) (n : Nat) (v : W64) (lat : Nat), n ≠ 0 →
    let t := s.writeTracked n v lat
    t.wv.tracked.head? = some (.sca n, s.st.fid, s.landAt (.sca n) lat) ∧ s.cycle + lat ≤ s.landAt (.sca n) lat ∧
    ∀ c, s.landAt (.sca n) lat ≤ c → State.readS { t with cycle := c } n = v)

/-- R263: which control registers a write reaches: FMT, FLG, SBCHK, DETTHR and SNAPST's SEL at any time; TPC, TEXEC, TFMT and
DLEFT in handler mode; no other. -/
def Sys2Proof.Claim.WritableControlRegisters : Prop :=
  ∀ (s : State) (n : Nat) (a v : W64),
    (∀ s1, s.writeX n a v = .ok s1 → n ∈ [0x000, 0x001, 0x031, 0x038, 0x039, 0x042, 0x050, 0x052, 0x061] ∧
      (n ∈ [0x031, 0x038, 0x039, 0x042] → s.st.trap.hmode = true)) ∧
    s.writeX 0x000 a v = .ok (s.setFmt v) ∧
    s.writeX 0x001 a v = .ok { s with wv := { s.wv with flg := v.setWidth 6 } } ∧
    s.writeX 0x050 a v = .ok { s with wv := { s.wv with sbchk := v.getLsbD 0 } } ∧
    s.writeX 0x052 a v = .ok { s with wv := { s.wv with detthr := if 33 ≤ v.toNat % 64 then 32 else v.setWidth 6 } } ∧
    (s.st.trap.hmode = true →
      s.writeX 0x038 a v = .ok { s with st := { s.st with trap := { s.st.trap with exec := v } } } ∧
      s.writeX 0x039 a v = .ok { s with st := { s.st with trap := { s.st.trap with fmt := fmtWrite v } } } ∧
      s.writeX 0x042 a v = .ok { s with sq := { s.sq with left := v.toNat % 2 ^ 48 } } ∧
      (pcValid (v &&& 0x7FFFFFFFFFFFFF) = true →
        s.writeX 0x031 a v = .ok { s with st := { s.st with trap := { s.st.trap with pc := v &&& 0x7FFFFFFFFFFFFF } } })) ∧
    (s.st.trap.hmode = false → (∀ n' ∈ [0x031, 0x038, 0x039], s.writeX n' a v = .prot 0xA) ∧ s.writeX 0x042 a v = .prot 9)

/-- R210, R265 to R268: SETFMT, GETFMT, TIME and WAITT; FENCEI, which waits for and sends what a release does before it empties the
instruction cache. -/
def Sys2Proof.Claim.FormatTimeAndFencei : Prop :=
  (∀ (f : QF) (s : State), passes s (.setfmt f) → exec (.setfmt f) s =
    let seed : W32 := if f.code.getLsbD 15 then (s.sval f.a 0 none).setWidth 32 else (s.st.fmt >>> 32).setWidth 32
    .next (((s.landed (.setfmt f)).setFmt ((seed.setWidth 64 <<< 32) ||| (f.code.setWidth 64 &&& 0x703))).retire f.h)) ∧
  (∀ (s : State) (v : W64), (s.setFmt v).st = { s.st with fmt := fmtWrite v } ∧
    ∀ l, l < 64 → (s.setFmt v).lfsr l = if s.st.exec.getLsbD l then seedOf (fmtWrite v) l else s.lfsr l) ∧
  (∀ (f : QF) (s : State), passes s (.getfmt f) → exec (.getfmt f) s =
    .next (((s.landed (.getfmt f)).writeS f.dst.toNat s.st.fmt 2).retire f.h)) ∧
  (∀ (f : QF) (s : State), passes s (.time f) → exec (.time f) s =
    .next (((s.landed (.time f)).writeTracked f.dst.toNat s.gtb 12).retire f.h)) ∧
  (∀ (f : QF) (s : State), passes s (.waitt f) →
    let s0 := s.landed (.waitt f)
    let t := s.sval f.a 0 none
    (t.toNat ≤ s.gtb.toNat → exec (.waitt f) s = .next (s0.retire f.h)) ∧
    (s.gtb.toNat < t.toNat → s0.timersUsed s.sq.core < 16 → exec (.waitt f) s = .next ((s0.retire f.h).hold (.timed t))) ∧
    (s.gtb.toNat < t.toNat → 16 ≤ s0.timersUsed s.sq.core → exec (.waitt f) s = .next (s0.hold .blocked))) ∧
  (∀ (f : QF) (s : State), passes s (.fencei f) →
    (s.windowOwed = true → exec (.fencei f) s = .next ((s.landed (.fencei f)).hold .blocked)) ∧
    (s.windowOwed = false →
      let s0 := (s.landed (.fencei f)).flushMine
      ∃ t, exec (.fencei f) s = .next t ∧
        (t.core s0.sq.core).icache = [] ∧ (∀ c, c ≠ s0.sq.core → t.core c = s0.core c) ∧ t.st.pc = s0.st.npc ∧ t.st.line = none ∧
        t.wv = s0.wv ∧ t.mem = s0.mem ∧ t.dies = s0.dies))

/-- R262, R268, R364: TRAP takes SWTRAP with the PC after it; BKPT stops the wave where its partition has BKPT stops on, else it
goes on; SVC calls the supervisor and waits; ERRACK acknowledges in handler mode, and RTE returns from it; outside it both take
PROT 0xA. -/
def Sys2Proof.Claim.SupervisorInstructions : Prop :=
  (∀ (f : QF) (s : State), passes s (.trap f) → exec (.trap f) s = .next ((s.landed (.trap f)).trap
    { code := 0x12, tpc := s.st.npc, addr := 0, mask := s.st.exec, info0 := f.code.setWidth 64, info1 := s.sval f.a 0 none, info2 := 0 })) ∧
  (∀ (f : QF) (s : State), passes s (.bkpt f) →
    let s1 := (s.landed (.bkpt f)).retire f.h
    ((s.part s.sq.inst.part 0).getLsbD 8 = false → exec (.bkpt f) s = .next s1) ∧
    ((s.part s.sq.inst.part 0).getLsbD 8 = true →
      exec (.bkpt f) s = .next ({ s1 with wv := { s1.wv with bkpt := some f.code } }.note (.breakpoint s.me f.code)))) ∧
  (∀ (f : QF) (s : State), passes s (.svc f) → ∃ t, exec (.svc f) s = .next t ∧ t.st.pc = s.st.npc ∧ t.st.wait = .svc f.dst ∧
    (t.die (dieOfCore s.sq.core)).svc = (s.die (dieOfCore s.sq.core)).svc ++
      [{ who := s.me, code := f.code, arg := s.sval f.a 0 none, path := s.sq.inst.path, reply := none }]) ∧
  (∀ (f : QF) (s : State), passes s (.errack f) →
    let s0 := s.landed (.errack f)
    (s.st.trap.hmode = true → exec (.errack f) s = .next
      ((({ s0 with st := { s0.st with trap := { s0.st.trap with ack := true } } }).writeS f.dst.toNat (if s.st.trap.pend then 1 else 0)).retire f.h)) ∧
    (s.st.trap.hmode = false → exec (.errack f) s =
      .next (s0.trap { code := Cause.prot, tpc := s.st.pc, addr := 0, mask := 0, info0 := 0xA, info1 := 0, info2 := 0 }))) ∧
  (∀ (f : QF) (s : State), passes s (.rte f) →
    (s.st.trap.hmode = false → exec (.rte f) s = .next ((s.landed (.rte f)).trap
      { code := Cause.prot, tpc := s.st.pc, addr := 0, mask := 0, info0 := 0xA, info1 := 0, info2 := 0 })) ∧
    (s.st.trap.hmode = true → s.st.trap.exec &&& ~~~s.st.trap.hexit ≠ 0 → s.st.trap.pend = false → s.sq.overtime = none →
      ∃ t, exec (.rte f) s = .next t ∧ t.wv = (s.landed (.rte f)).wv ∧
        t.sq = (if s.st.trap.ofTime then { s.sq with overdue := false } else s.sq) ∧ t.mem = s.mem ∧
        t.st.pc = s.st.trap.pc ∧ t.st.exec = s.st.trap.exec &&& ~~~s.st.trap.hexit ∧ t.st.fmt = s.st.trap.fmt ∧
        t.st.trap = { s.st.trap with hmode := false, under := .none } ∧ t.st.wait = s.st.trap.under ∧ t.st.stack = s.st.stack))

/-! ### Traps (R363, R364, R366) -/

/-- R363, R366: outside handler mode a trap saves its record, EXEC and FMT, sets HMODE, resets FMT and goes to the region's
handler; no register, no byte of memory and no other stream changes. A barrier, NAP, WAITT or SVC at which the stream waits goes on
after the return (R159). In handler mode the stream freezes where it stands and a DOUBLE record is made. -/
def Sys2Proof.Claim.TrapEntry : Prop :=
  ∀ (s : State) (a : TrapArgs),
    (s.st.trap.hmode = false →
      let t := s.trap a
      t = { s with st := t.st } ∧ t.st.pc = s.sq.inst.region.handler ∧ t.st.exec = s.st.exec ∧ t.st.fmt = fmtReset ∧
      t.st.stack = s.st.stack ∧ t.st.wait = .none ∧ s.cycle + 20 ≤ t.st.readyAt ∧
      (∀ e ∈ s.wv.inflight, e.land + 20 ≤ t.st.readyAt) ∧
      t.st.trap = { s.st.trap with cause := BitVec.ofNat 64 a.code, pc := a.tpc, addr := a.addr, mask := a.mask, info0 := a.info0,
                                   info1 := a.info1, info2 := a.info2, exec := s.st.exec, fmt := s.st.fmt, hmode := true, ack := false,
                                   hexit := 0, under := Wait.kept s.st.wait }) ∧
    (s.st.trap.hmode = true →
      let t := s.trap a
      t.st.wait = .frozen ∧ t.st.pc = s.st.pc ∧ t.st.trap = s.st.trap ∧ t.wv = s.wv ∧ t.mem = s.mem ∧
      t.records = s.records ++ [{ kind := .double, who := s.me, pc := s.st.pc, addr := a.addr, mask := a.mask,
                                  info := BitVec.ofNat 64 a.code, gtb := s.gtb, written := false, op := false, under := s.st.wait }])

/-- R367: an asynchronous error enters the handler with bit 11 of TCAUSE; in handler mode it pends, and a second one is a
double fault. -/
def Sys2Proof.Claim.AsynchronousErrors : Prop :=
  ∀ (s : State) (code : Nat) (info : W64), code < 256 →
    (s.st.trap.hmode = false → (s.asyncError code info).st.trap.cause = BitVec.ofNat 64 (code + 2048) ∧
      (s.asyncError code info).st.trap.pc = s.st.pc ∧ (s.asyncError code info).st.pc = s.sq.inst.region.handler ∧
      (s.asyncError code info).st.trap.info0 = info) ∧
    (s.st.trap.hmode = true → s.st.trap.pend = false →
      s.asyncError code info = { s with st := { s.st with trap := { s.st.trap with pend := true, pcause := BitVec.ofNat 8 code, pinfo := info } } }) ∧
    (s.st.trap.hmode = true → s.st.trap.pend = true → (s.asyncError code info).st.wait = .frozen)

/-- R241: an instruction that names a register the wave does not have takes ILLREG, whatever else would stop it. Every
constructor of an instruction format is meant; events name no register. -/
def Sys2Proof.Claim.UnallocatedRegisterTraps : Prop :=
  ∀ (i : Instr) (s : State), i.shape.named.unallocated s.wv.gran = true →
    exec i s = .next (s.trap { code := 0x02, tpc := s.st.pc, addr := 0, mask := 0, info0 := 0, info1 := 0, info2 := 0 })

/-- R239, R241: a source read before its stall has passed takes STALLUNDER with the register's number; an instruction that
names the target of an MRD still to be performed waits, and so does a reader of a tracked result, until it has landed. -/
def Sys2Proof.Claim.StallUnderTraps : Prop :=
  ∀ (i : Instr) (s : State), i.shape.named.unallocated s.wv.gran = false →
    (∀ r, s.stallUnder i.shape.named = some r → exec i s =
      .next (s.trap { code := 0x05, tpc := s.st.pc, addr := BitVec.ofNat 64 r.number, mask := 0, info0 := 0, info1 := 0, info2 := 0 })) ∧
    (s.stallUnder i.shape.named = none → s.awaitsRow i.shape.named = true → exec i s = .next (s.hold .blocked)) ∧
    (s.stallUnder i.shape.named = none → s.awaitsRow i.shape.named = false → s.unlanded i.shape.named ≠ [] →
      ∃ t, exec i s = .next t ∧ t = { s with st := { s.st with wait := .blocked, lap := 0, readyAt := t.st.readyAt } } ∧
        ∀ e ∈ s.wv.tracked, e.1 ∈ i.shape.named.reads → e.2.2 ≤ max s.cycle t.st.readyAt)

/-- R374: where rotated duplicate issue disagrees, an instruction of the formats it repeats is a DUPMIS consumption. -/
def Sys2Proof.Claim.DuplicateMismatchConsumes : Prop :=
  ∀ (i : Instr) (s : State), (∃ f, i = .sadd f) ∨ (∃ f, i = .vadd f) ∨ (∃ f, i = .vldGlobal f) ∨ (∃ f, i = .atomI32 f) →
    i.shape.named.unallocated s.wv.gran = false → s.stallUnder i.shape.named = none → s.awaitsRow i.shape.named = false →
    s.unlanded i.shape.named = [] → s.wv.shadow = true → s.upset ≠ 0 → exec i s = .next ((s.landed i).consume .dupmis 0 s.upset 0)

/-- XRD, XWR, XSET, XCLR, and which registers they reach: `ControlRegisterAccess`; `WritableControlRegisters`. -/
def Obligations.ControlRegisters : Prop :=
  Claim.ControlRegisterAccess ∧ Claim.WritableControlRegisters

/-- SETFMT, GETFMT, TIME, WAITT, FENCEI, TRAP, RTE, BKPT, ERRACK and SVC: `FormatTimeAndFencei`; `SupervisorInstructions`. -/
def Obligations.SystemInstructions : Prop :=
  Claim.FormatTimeAndFencei ∧ Claim.SupervisorInstructions

/-- What taking a trap saves and where it goes; asynchronous errors: `TrapEntry`; `AsynchronousErrors`. -/
def Obligations.TrapsAndErrors : Prop :=
  Claim.TrapEntry ∧ Claim.AsynchronousErrors

/-- ILLREG, STALLUNDER and the comparison of duplicated issue: `UnallocatedRegisterTraps`; `StallUnderTraps`; `DuplicateMismatchConsumes`. -/
def Obligations.ChecksBeforeIssue : Prop :=
  Claim.UnallocatedRegisterTraps ∧ Claim.StallUnderTraps ∧ Claim.DuplicateMismatchConsumes

/-! ### Fences, barriers, waiting (R311 to R314) -/

/-- BASE + OFF of an instruction that names one word. -/
abbrev Sys2Proof.Claim.wordOf (s : State) (f : MF) : W64 := s.readS f.base.toNat + MF.offset f

/-- R169, R312: a barrier instruction of a wave that is whole, at a sound barrier word at `off` of `t`; its release, if it is one, waits
for no store through a window, and has sent the buffered reductions (R118, R126). -/
abbrev Sys2Proof.Claim.atBarrier (s s0 : State) (i : Instr) (f : MF) (x : LaneLoc) (t : Sp) (off : Nat) (own : Bool) : Prop :=
  s.clear i ∧ (Order.releases f.order = true → s.windowOwed = false) ∧
    s0 = (if Order.releases f.order then (s.landed i).flushMine else s.landed i) ∧
    (∃ ys, (s.landed i).places f.space (s.uniform (wordOf s f)) 8 .write servesVector = some (x :: ys)) ∧ x.loc = .sp t off own ∧
    (f.space = .scratch ∨ f.space = .cluster) ∧ s.st.exec = ~~~s.wv.exited ∧ s.st.fid = 0 ∧ s.wv.frags = [] ∧
    s.locBad .nothing x.loc 8 = false

/-- R169: an arrival counts; the one that makes ARRIVED reach EXPECTED sets it to 0 and steps GEN. -/
def Sys2Proof.Claim.BarrierArrival : Prop :=
  ∀ (v : W64),
    let w := (barArrive v).1
    w.extractLsb' 0 16 = v.extractLsb' 0 16 ∧ w.extractLsb' 48 16 = v.extractLsb' 48 16 ∧
    ((v.extractLsb' 0 16).toNat ≤ (v.extractLsb' 16 16).toNat + 1 →
      (barArrive v).2 = true ∧ w.extractLsb' 16 16 = 0 ∧ w.extractLsb' 32 16 = v.extractLsb' 32 16 + 1) ∧
    ((v.extractLsb' 16 16).toNat + 1 < (v.extractLsb' 0 16).toNat →
      (barArrive v).2 = false ∧ w.extractLsb' 16 16 = v.extractLsb' 16 16 + 1 ∧ w.extractLsb' 32 16 = v.extractLsb' 32 16)

/-- R118, R126: passing a barrier in an order that acquires, at package scope and wider, drops the core's clean copies. -/
abbrev Sys2Proof.Claim.passed (s : State) (f : MF) : State := if readsHome f.order f.scope then s.selfInvalidate s.sq.core else s

/-- R126, R312: BAR arrives and waits for the generation; BARA arrives and returns GEN; BARW waits while GEN is the one it names. A
wait that is an acquire is one when it ends. -/
def Sys2Proof.Claim.Barriers : Prop :=
  (∀ (f : MF) (s s0 : State) (x : LaneLoc) (t : Sp) (off : Nat) (own : Bool), atBarrier s s0 (.bar f) f x t off own →
    let old := word64 (s0.spBytes t off 8)
    let s1 := ((if own then s0 else s0.pin).spWriteAt t off (bytes64 (barArrive old).1)).retire f.h
    exec (.bar f) s = .next (if (barArrive old).2 then passed s1 f
      else s1.hold (.barrier (s.spPlace f.space x.va).1 (s.spPlace f.space x.va).2 (barGen old) (readsHome f.order f.scope)))) ∧
  (∀ (f : MF) (s s0 : State) (x : LaneLoc) (t : Sp) (off : Nat) (own : Bool), atBarrier s s0 (.bara f) f x t off own →
    let old := word64 (s0.spBytes t off 8)
    let s1 := (if own then s0 else s0.pin).spWriteAt t off (bytes64 (barArrive old).1)
    exec (.bara f) s = .next (((s1.writeS (Reg.num f.data) ((barGen old).setWidth 64)).track (.sca (Reg.num f.data))).retire f.h)) ∧
  (∀ (f : MF) (s s0 : State) (x : LaneLoc) (t : Sp) (off : Nat) (own : Bool), atBarrier s s0 (.barw f) f x t off own →
    s.hasSibling = false →
    let g := barGen (word64 (s0.spBytes t off 8))
    exec (.barw f) s = .next (if g = (s.readS (Reg.num f.data)).setWidth 16
      then (s0.retire f.h).hold (.barrier (s.spPlace f.space x.va).1 (s.spPlace f.space x.va).2 g (readsHome f.order f.scope))
      else passed (s0.retire f.h) f)) ∧
  (∀ (f : MF) (s : State) (x : LaneLoc) (ys : List LaneLoc), s.clear (.bar f) → (f.space = .scratch ∨ f.space = .cluster) →
    (s.landed (.bar f)).places f.space ((s.landed (.bar f)).uniform (wordOf s f)) 8 .write servesVector = some (x :: ys) →
    s.st.exec ≠ ~~~s.wv.exited →
    exec (.bar f) s = .next ((s.landed (.bar f)).trap
      { code := 0x06, tpc := s.st.pc, addr := wordOf s f, mask := s.st.exec, info0 := 0, info1 := 0, info2 := 0 }))

/-- R106, R107, R113, R118, R311: FENCE sends the buffered reductions where it releases and forgets the core's clean copies where
it acquires from package scope up; XFENCE first waits for the path's commands of its class, and one that names core first has the
wave's stores seen by its second class. A release waits for the stores through
windows. -/
def Sys2Proof.Claim.Fences : Prop :=
  (∀ (f : MF) (s : State), s.clear (.fence f) →
    let s0 := s.landed (.fence f)
    let s1 := if Order.releases f.order then s0.flushMine else s0
    (Order.releases f.order = true → s.windowOwed = true → exec (.fence f) s = .next (s0.hold .blocked)) ∧
    ((Order.releases f.order = true → s.windowOwed = false) → exec (.fence f) s = .next ((passed s1 f).retire f.h))) ∧
  (∀ (f : MF) (s : State), s.clear (.xfence f) →
    let s0 := s.landed (.xfence f)
    let seen := s0.seenBy (f.off.toNat % 16) (f.off.toNat / 16 % 16)
    let s1 := if Order.releases f.order then seen.flushMine else seen
    (s0.classBusy (f.off.toNat % 16) = true → exec (.xfence f) s = .next (s0.hold .blocked)) ∧
    (s0.classBusy (f.off.toNat % 16) = false → (Order.releases f.order = true → s.windowOwed = false) →
      exec (.xfence f) s = .next ((passed s1 f).retire f.h))) ∧
  (∀ (s : State) (b : Nat), ∀ l ∈ ((s.seenBy 0 b).core s.sq.core).lags, waveOf l.who = waveOf s.me → b ∉ l.classes) ∧
  (∀ (s : State) (c : Command), c ∈ s.cmds → waveOf c.who = waveOf s.me → c.who.fid = s.st.fid →
    (opClass c.op ∈ [1, 3, 4] → s.classBusy (opClass c.op) = true)) ∧
  (∀ s : State, s.classBusy 2 = (s.core s.sq.core).mq.any fun m => waveOf m.who == waveOf s.me)

/-- WAITA (R313): the word is tested; where the test holds it is written to the destination, else the stream waits on it,
and a word of memory is read at its home again. -/
abbrev Sys2Proof.Claim.WaitOp (mk : MF → Instr) (n : Nat) : Prop :=
  ∀ (f : MF) (s : State) (x : LaneLoc) (ys : List LaneLoc), s.clear (mk f) →
    let s0 := s.landed (mk f)
    s0.places f.space (s0.uniform (wordOf s f)) n .read servesWait = some (x :: ys) →
    let s' := s0.undenied f.space (x :: ys)
    s'.delivered [x] n f.order = true →
    let s1 := s'.fresh [x] f.order (readsPast [x] f.order f.scope)
    let past := readsPast [x] f.order f.scope
    s1.readable past [x] n → s.hasSibling = false →
    let s2 := s1.afterLoad past true [x]
    let v := leNat (s1.locBytes past x.loc n)
    (waitTest f.sub.toNat v ((s.sval f.index 0 none).toNat % 2 ^ (8 * n)) = true →
      exec (mk f) s = .next (((s2.writeS (Reg.num f.data) (BitVec.ofNat 64 v)).track (.sca (Reg.num f.data))).retire f.h)) ∧
    (waitTest f.sub.toNat v ((s.sval f.index 0 none).toNat % 2 ^ (8 * n)) = false →
      exec (mk f) s = .next ((s2.dropWaited (s.waitOn f x)).hold (s.waitOn f x)))

/-- R313, R314: waiting on a word of memory or scratchpad, and waking the streams that wait on it. -/
def Sys2Proof.Claim.WaitAndWake : Prop :=
  WaitOp .waita32 4 ∧ WaitOp .waita64 8 ∧
  (∀ (f : MF) (s : State), s.clear (.wakea f) →
    let s0 := s.landed (.wakea f)
    ((f.space = .scratch ∨ f.space = .cluster) → ∀ x ys,
      s0.places f.space (s0.uniform (wordOf s f)) f.width.bytes .read servesVector = some (x :: ys) →
      exec (.wakea f) s = .next ((s0.wakeWhere (wakesScratch (s0.spPlace f.space x.va).1 (s0.spPlace f.space x.va).2)).retire f.h)) ∧
    ((f.space = .global ∨ f.space = .param) → noncanon (wordOf s f) = false → ∀ e s1,
      s0.prefetchEntry (wordOf s f).toNat = some (e, s1) → e.r = true → servesWait (s1.pageKind e (wordOf s f).toNat) = true →
      (wordOf s f).toNat % f.width.bytes = 0 →
      exec (.wakea f) s = .next ((s1.wakeWhere (wakesMem (e.pa (wordOf s f).toNat))).retire f.h)))

/-! ### Persistence (R315 to R319) -/

/-- R29, R315, R316, R319: PFLUSH pushes every dirty line of its range in pages with P = 1, those before a page that misses before it
parks, PFLUSHV those of its lanes; PBAR goes on
once every push of the stream has reached its scope; PSTAT reads a die's OWQSTAT. -/
def Sys2Proof.Claim.PersistInstructions : Prop :=
  (∀ (f : MF) (s : State), s.clear (.pflush f) →
    let s0 := s.landed (.pflush f)
    let a := wordOf s f
    let n := (s.sval f.index 0 none).toNat - 1
    noncanon a = false → a.toNat + n < 2 ^ 55 →
    let r := s0.pagePrefix ((pagesOf a.toNat n).drop s.st.flushed)
    let s1 := (r.1.foldl (fun s p => if p.2.p then (linesIn a.toNat n p.1 p.2).foldl (fun s pa => s.pushLine pa) s else s) s0).pin
    (r.2 = none → exec (.pflush f) s = .next (({ s1 with st := s1.st.cleared }).retire f.h)) ∧
    (∀ p need, r.2 = some (p, .miss need) → r.1 ≠ [] → ∃ t, exec (.pflush f) s = .next t ∧
      t = { s1.park need .read false (kindsOf servesVector) with st := t.st } ∧ t.st.flushed = s1.st.flushed + r.1.length)) ∧
  (∀ (f : MF) (s : State) (xs : List LaneLoc), s.clear (.pflushv f) →
    let s0 := s.landed (.pflushv f)
    s0.places .global (s0.laneVas f.h (s0.addrAt f)) 1 .read servesVector = some xs →
    let s1 := s0.undenied .global xs
    exec (.pflushv f) s = .next (((linesOf xs).foldl (fun s l => if l.2.p then s.pushLine l.1 else s) s1.pin).retire f.h)) ∧
  (∀ (f : MF) (s : State), s.clear (.pbar f) →
    let s0 := (s.landed (.pbar f)).pin
    exec (.pbar f) s = .next (if s0.reached f.sub.toNat then s0.retire f.h else s0.hold (.pbar f.sub.toNat (max 1 f.h.stall.toNat)))) ∧
  (∀ (f : MF) (s : State), s.clear (.pstat f) →
    let s0 := s.landed (.pstat f)
    exec (.pstat f) s = .next ((s0.writeTracked (Reg.num f.data)
      (s0.owqstat f.sub.toNat ||| if s.st.pushes.all s0.atMedia then 0 else 0x400000)
      (if f.sub.toNat = dieOfCore s.sq.core then 190 else 430)).retire f.h))

/-- R134, R135, R317: STEPSET waits for the path's commands, macro-operations and stores through windows, acquires, answers 3 out of the window,
and else increments the holder's step and answers 0. R136, R318: SNAP of an eligible set starts a capture and answers 0, and answers
its refusal otherwise, with nothing captured. -/
def Sys2Proof.Claim.StepAndSnap : Prop :=
  (∀ (f : MF) (s : State), s.clear (.stepset f) →
    let s0 := (s.landed (.stepset f)).pin
    ((s0.anyBusy || s0.windowOwed) = true → exec (.stepset f) s = .next (s0.hold .blocked)) ∧
    let s1 := s0.flushMine.selfInvalidate s0.sq.core
    ((s0.anyBusy || s0.windowOwed) = false → s1.outOfWindow (s0.step16 + 1) = true → exec (.stepset f) s = .next (s1.putStatus f 3)) ∧
    ((s0.anyBusy || s0.windowOwed) = false → s1.outOfWindow (s0.step16 + 1) = false →
      exec (.stepset f) s = .next ((s1.putStep (s0.step16 + 1)).putStatus f 0))) ∧
  (∀ (f : MF) (s : State), s.clear (.snap f) →
    let s0 := (s.landed (.snap f)).pin
    let q := (s.readS f.base.toNat).toNat
    let n : W16 := (s.sval f.index 0 none).setWidth 16
    (s0.snapRefusal q n ≠ 0 → exec (.snap f) s = .next (s0.putStatus f (s0.snapRefusal q n))) ∧
    (s0.snapRefusal q n = 0 → exec (.snap f) s = .next (((s0.setSnap q
      { s0.snap q with state := 1, cseq := (s0.snap q).cseq + 1, cstep := n, cause := 0, walked := [], poisoned := [], sent := [],
                       awaits := [], parityFailed := false }).recordCapture q).putStatus f 0)))

/-- BAR, BARA and BARW: arrivals, phases and waits: `BarrierArrival`; `Barriers`. -/
def Obligations.BarrierInstructions : Prop :=
  Claim.BarrierArrival ∧ Claim.Barriers

/-- FENCE, XFENCE, WAITA and WAKEA: `Fences`; `WaitAndWake`. -/
def Obligations.FencesAndWaits : Prop :=
  Claim.Fences ∧ Claim.WaitAndWake

/-- PFLUSH, PFLUSHV, PBAR, PSTAT, STEPSET and SNAP: `PersistInstructions`; `StepAndSnap`. -/
def Obligations.PersistenceInstructions : Prop :=
  Claim.PersistInstructions ∧ Claim.StepAndSnap

/-! ### The matrix engine (R188, R323 to R333) -/

/-- A macro-operation's issue: with the baton granted, sound operands and a place in the queue it is enqueued; without the baton
and not in the FIFO it takes NOBATON; in the FIFO it waits (R188, R325, R327). -/
abbrev Sys2Proof.Claim.MacroIssue (mk : XF → Instr) (op : Nat) : Prop :=
  ∀ (f : XF) (s : State), passes s (mk f) →
    let s0 := s.landed (mk f)
    let x := s.core s.sq.core
    (x.baton = some s.myWave → x.grantAt ≤ s.cycle → s0.opFault op f.imm (s0.dvals f) = none → x.queued < 16 → ∃ t,
      exec (mk f) s = .next t ∧ retires s0 t f.h ∧ t.wv = s0.wv ∧
      (t.core s.sq.core).mq = x.mq ++ [{ id := s.nextCmd, who := s.me, op, imm := f.imm, d := s.dvals f, step := 0, chunk := 0, running := false,
                                         suspended := false, pc := s.st.pc, lanes := [], mask := s.st.exec, cons := none, pass := false }] ∧
      (∀ c, c ≠ s.sq.core → t.core c = s.core c) ∧ t = { s0 with st := t.st, cores := t.cores, nextCmd := s.nextCmd + 1 }) ∧
    (x.baton ≠ some s.myWave → x.fifo.contains s.myWave = false → exec (mk f) s = .next (s0.trap
      { code := 0x07, tpc := s.st.pc, addr := 0, mask := 0, info0 := 0, info1 := 0, info2 := 0 })) ∧
    (x.baton ≠ some s.myWave → x.fifo.contains s.myWave = true → exec (mk f) s = .next (s0.hold .blocked)) ∧
    (∀ e, x.baton = some s.myWave → x.grantAt ≤ s.cycle → s0.opFault op f.imm (s0.dvals f) = some e → exec (mk f) s = .next (s0.trap
      { code := e.1, tpc := s.st.pc, addr := e.2.1, mask := s.st.exec, info0 := e.2.2.1, info1 := e.2.2.2, info2 := 0 }))

/-- R325 to R331: the issue of every macro-operation. -/
def Sys2Proof.Claim.MacroOperationIssue : Prop :=
  MacroIssue .mmaFp8 0x120 ∧ MacroIssue .mmaBf16 0x121 ∧ MacroIssue .mmaF16 0x121 ∧ MacroIssue .mmaInt8 0x122 ∧
  MacroIssue .mmas 0x123 ∧ MacroIssue .mzero 0x124 ∧ MacroIssue .mld 0x125 ∧ MacroIssue .mst 0x126 ∧ MacroIssue .mstBand 0x127 ∧
  MacroIssue .mscl 0x12A

/-- R188, R324: BATON.TAKE takes a free baton or joins the FIFO once; BATON.PASS hands it to the head of the FIFO, or leaves the
FIFO; BATON.QUERY tells whether the wave holds it, waits, is owed it, and its place. After 4,096 cycles with waiters the baton passes at
the holder's step boundary. -/
def Sys2Proof.Claim.Baton : Prop :=
  (∀ (f : XF) (s : State), passes s (.batonTake f) → ∃ t, exec (.batonTake f) s = .next t ∧
    retires (s.landed (.batonTake f)) t f.h ∧ (∀ c, c ≠ s.sq.core → t.core c = s.core c) ∧
    t.core s.sq.core =
      let x := s.core s.sq.core
      if x.baton = none then { x with baton := some s.myWave, hold := 0, grantAt := s.cycle + 2 }
      else if x.baton = some s.myWave ∨ s.myWave ∈ x.fifo then x else { x with fifo := x.fifo ++ [s.myWave] }) ∧
  (∀ (f : XF) (s : State), passes s (.batonPass f) → ∃ t, exec (.batonPass f) s = .next t ∧
    retires (s.landed (.batonPass f)) t f.h ∧ (∀ c, c ≠ s.sq.core → t.core c = s.core c) ∧
    (let x := s.core s.sq.core
     (x.baton = some s.myWave → (t.core s.sq.core).baton = x.fifo.head? ∧ (t.core s.sq.core).fifo = x.fifo.tail) ∧
     (x.baton ≠ some s.myWave → (t.core s.sq.core).baton = x.baton ∧ (t.core s.sq.core).fifo = (x.fifo.filter fun y => decide (y ≠ s.myWave)) ∧
       s.myWave ∉ (t.core s.sq.core).returning))) ∧
  (∀ (f : XF) (s : State), passes s (.batonQuery f) →
    let x := s.core s.sq.core
    let pos := fifoPos s.myWave x.fifo
    let v := (if x.baton = some s.myWave then 1 else 0) + (if pos ≠ 0 then 2 else 0) + (if x.returning.contains s.myWave then 4 else 0) + 256 * pos
    exec (.batonQuery f) s = .next (((s.landed (.batonQuery f)).output f 0 (BitVec.ofNat 64 v) 4).retire f.h)) ∧
  (∀ (c : BitVec 8) (s : State) (w y : WaveId) (r : List WaveId), (s.core c.toNat).baton = some w → (s.core c.toNat).fifo = y :: r →
    4096 ≤ (s.core c.toNat).hold →
    (∀ m ∈ (s.core c.toNat).mq, waveOf m.who = w → m.running = true → m.chunk = 0 ∧ m.cons = none) → ∃ t, exec (.batonForcedPass c) s = .next t ∧
      (t.core c.toNat).baton = some y ∧ (t.core c.toNat).fifo = r ++ [w] ∧ (t.core c.toNat).hold = 0 ∧ w ∈ (t.core c.toNat).returning ∧
      (∀ k, k ≠ c.toNat → t.core k = s.core k) ∧ t.mem = s.mem ∧ t.wv = s.wv ∧ t.st = s.st)

/-- R323, R332, R333: tiles are taken whole and zeroed, released once nothing queued uses them; a row moves between a tile and
a vector register; MWAIT waits for the path's macro-operations, MSTEP for the one that was the oldest unfinished as it issued. -/
def Sys2Proof.Claim.TilesRowsAndWaits : Prop :=
  (∀ (f : XF) (s : State), passes s (.macq f) →
    let s0 := s.landed (.macq f)
    let m := f.imm.toNat % 256
    let x := s.core s.sq.core
    (x.macqWait = [] → x.grantable s.myWave m = true → exec (.macq f) s = .next (((s0.updCore s.sq.core fun x =>
      { (x.grantTiles s.myWave m) with macqWait := x.macqWait.filter fun e => e.who != s.me }).output f 0 (BitVec.ofNat 64 m) 8).retire f.h)) ∧
    (x.grantable s.myWave m = false → f.imm.getLsbD 8 = false → exec (.macq f) s = .next ((s0.output f 0 0 4).retire f.h)) ∧
    (x.grantable s.myWave m = false → f.imm.getLsbD 8 = true → x.macqWait = [] → exec (.macq f) s = .next
      ((s0.updCore s.sq.core fun x => { x with macqWait := [{ who := s.me, mask := m, since := s.cycle }] }).hold .blocked))) ∧
  (∀ (f : XF) (s : State), passes s (.mrel f) →
    let mine (t : Nat) : Bool := (tilesOf (f.imm.toNat % 256)).contains t
    (∀ e ∈ (s.core s.sq.core).mq, waveOf e.who = s.myWave → mine e.tile = false) → exec (.mrel f) s = .next
      (((s.landed (.mrel f)).updCore s.sq.core fun x => x.freeTiles s.cycle fun e => decide (e.2 = s.myWave) && mine e.1).retire f.h)) ∧
  (∀ (f : XF) (s : State), passes s (.mrd f) → s.ownsTile (f.imm.toNat / 256 % 8) = true → (s.core s.sq.core).mq = [] →
    let key (l : Nat) : Nat := tileKey (f.imm.toNat / 256 % 8) (f.imm.toNat / 2 ^ 11 % 128) (64 * (f.imm.toNat / 2 ^ 18 % 2) + l)
    (∀ l, l < 64 → s.st.exec.getLsbD l = true → key l ∉ (s.core s.sq.core).tilePoison) →
    exec (.mrd f) s = .next (((s.landed (.mrd f)).writeVTracked (f.imm.toNat % 256) s.st.exec (fun l => (s.core s.sq.core).tiles.get0 (key l))
      8).retire f.h)) ∧
  (∀ (f : XF) (s : State), passes s (.mwr f) → s.ownsTile (f.imm.toNat / 256 % 8) = true → (s.core s.sq.core).mq = [] →
    let key (l : Nat) : Nat := tileKey (f.imm.toNat / 256 % 8) (f.imm.toNat / 2 ^ 11 % 128) (64 * (f.imm.toNat / 2 ^ 18 % 2) + l)
    ∃ t, exec (.mwr f) s = .next t ∧ retires (s.landed (.mwr f)) t f.h ∧ t.mem = s.mem ∧ t.wv = (s.landed (.mwr f)).wv ∧
      (∀ l, l < 64 → (t.core s.sq.core).tiles.get0 (key l) =
        if s.st.exec.getLsbD l then s.readV (f.imm.toNat % 256) l else (s.core s.sq.core).tiles.get0 (key l)) ∧
      (∀ k, (∀ l, l < 64 → k ≠ key l) → (t.core s.sq.core).tiles.get0 k = (s.core s.sq.core).tiles.get0 k)) ∧
  (∀ (f : XF) (s : State), passes s (.mwait f) →
    let busy := (s.core s.sq.core).mq.any fun e =>
      s.issuedHere e.who e.id && (f.imm.toNat % 256 == 0 || (tilesOf (f.imm.toNat % 256)).contains e.tile)
    (busy = true → exec (.mwait f) s = .next ((s.landed (.mwait f)).hold .blocked)) ∧
    (busy = false → s.windowOwed = false → exec (.mwait f) s = .next ((s.landed (.mwait f)).flushMine.retire f.h))) ∧
  (∀ (f : XF) (s : State), passes s (.mstep f) →
    let mine := (s.core s.sq.core).mq.find? fun e => s.issuedHere e.who e.id && e.isMacro && (s.st.flushed == 0 || e.id + 1 == s.st.flushed)
    let at_ (n : Nat) : State := { s.landed (.mstep f) with st := { (s.landed (.mstep f)).st with flushed := n } }
    ((∀ e ∈ mine, f.imm.toNat % 4096 ≤ e.step) → exec (.mstep f) s = .next ((at_ 0).retire f.h)) ∧
    (∀ e, mine = some e → e.step < f.imm.toNat % 4096 → exec (.mstep f) s = .next ((at_ (e.id + 1)).hold .blocked)))

/-- R217, R328, R329: a step of the macro-operation that the engine runs, with its sources sound and its sums agreeing, computes
the remaining chunks of the step, or the rows of a tile operation, and counts the step. -/
def Sys2Proof.Claim.MacroOperationStep : Prop :=
  ∀ (c : BitVec 8) (s : State) (m : MacroOp), (s.core c.toNat).current s.cycle = some m → m.pass = false →
    s.frozen.contains (clusterOfCore c.toNat) = false → s.opsPaused = false → (∀ o ∈ m.stepReads, s.spBad (.core c.toNat) o = false) →
    exec (.macroOpStep c none) s = .next
      ((if m.op ≤ 0x123 then s.mmaChunks c.toNat m m.chunk (mmaLen m.op m.imm m.step / mmaChunk m.op - m.chunk) else s.tileStep c.toNat m).stepDone
        c.toNat m)

/-- R217, R218: an INT8 chunk adds every product modulo 2^32; a chunk of floats adds the exact sum of its products with one
rounding to nearest even. -/
def Obligations.ChunkArithmetic : Prop :=
  (∀ (imm acc : W32) (a b sa sb : List Nat), chunkElem 0x122 imm acc a b sa sb =
    acc + BitVec.ofInt 32 (((a.zip b).map fun x => int8Of (imm.getLsbD 18) x.1 * int8Of (imm.getLsbD 20) x.2).sum)) ∧
  (∀ (imm acc : W32) (a b : List Nat), a.length = b.length →
    chunkElem 0x120 imm acc a b (a.map fun _ => 0) (b.map fun _ => 0) =
      let x := (((a.zip b).map fun p => (((mmaFmt 0x120 imm false).decode p.1).mul ((mmaFmt 0x120 imm true).decode p.2)).1).foldl
        (fun u v => (u.add false v).1) FVal.zero)
      BitVec.ofNat 32 (fp32.write 1 0 false false ((fp32.decode acc.toNat).add false x).1).1)

/-- Issue of macro-operations under the baton, and its passing: `MacroOperationIssue`; `Baton`. -/
def Obligations.MacroOperationsAndBaton : Prop :=
  Claim.MacroOperationIssue ∧ Claim.Baton

/-- MACQ, MREL, MRD, MWAIT, MSTEP, and the engine's steps: `TilesRowsAndWaits`; `MacroOperationStep`. -/
def Obligations.TilesAndMacroSteps : Prop :=
  Claim.TilesRowsAndWaits ∧ Claim.MacroOperationStep

/-! ### Copies, gathers (R334 to R344) -/

/-- A copy command that is accepted at its issue: it enters the engine with its record, its squad pinned where its destination
asks for it, and the stream goes on. `ok` says what else the instruction checks, and what block it brings; `t` is the state once
the record has been read. -/
abbrev Sys2Proof.Claim.CopyIssue (mk : XF → Instr) (op : Nat) (cluster : Bool) (ok : XF → State → List W64 → Prop) : Prop :=
  ∀ (f : XF) (s t : State) (block : List W64) (bs : List W8), passes s (mk f) →
    let s0 := s.landed (mk f)
    s0.wordFault (dval (s.dvals f) 3) 8 cluster = none → ok f s0 block →
    let c : Command := { s0.newCommand op (s.dvals f) f.imm .queued with
      block, denied := s.st.deny.any fun x => x.page == pageOf (dval (s.dvals f) 2).toNat, asked := s.st.asked }
    s0.accept? c = .accepted t bs →
    let s1 := t.addCommand c
    exec (mk f) s = .next ((({ s1 with st := { s1.st.cleared with asked := [] } }).enterCopy c bs).retire f.h)

/-- R334 to R342: the issue of the copies; CPYAT's is armed, or queued where its time has passed. -/
def Sys2Proof.Claim.CopyCommandsIssue : Prop :=
  CopyIssue .cpy 0x140 true (fun _ _ b => b = []) ∧
  CopyIssue .cpyf 0x141 true (fun f s b => followBlock f s = .ok b) ∧
  CopyIssue .cpym 0x142 false (fun f s b => b = [] ∧ s.readS (dreg f 4) ≠ 0 ∧ s.readS (dreg f 4) >>> 4 = 0) ∧
  CopyIssue .cpyz 0x144 true (fun _ _ b => b = []) ∧ CopyIssue .cpyk 0x145 true (fun _ _ b => b = []) ∧
  CopyIssue .cpyp 0x146 true (fun _ _ b => b = []) ∧ CopyIssue .cfill 0x147 true (fun _ _ b => b = []) ∧
  (∀ (f : XF) (s : State), passes s (.cpyat f) →
    let s0 := s.landed (.cpyat f)
    let t := dval (s.dvals f) 4
    s0.wordFault (dval (s.dvals f) 3) 8 true = none → s0.timersUsed s.sq.core < 16 →
    let c := s0.newCommand 0x143 (s.dvals f) f.imm .armed
    (s.gtb.toNat < t.toNat → exec (.cpyat f) s = .next (((s0.addCommand c).updCore s.sq.core fun x =>
      { x with timers := x.timers ++ [{ cmd := s.nextCmd, time := t }] }).retire f.h)) ∧
    (t.toNat ≤ s.gtb.toNat → exec (.cpyat f) s = .next (((s0.addCommand c).putCommand { c with phase := .queued }).retire f.h)))

/-- R334, R321, R417: a copy whose word is malformed takes PROT 6, misaligned MISALIGN, in no stripe of the squad PROT 8; one
that cannot be accepted yet waits, and one that is refused ends with its status in its word. Of an accepted one the squad is pinned where
the destination or the completion word asks for it (R158). -/
def Sys2Proof.Claim.CopyCommandRefusals : Prop :=
  ∀ (f : XF) (s : State), passes s (.cpy f) →
    let s0 := s.landed (.cpy f)
    let v := dval (s.dvals f) 3
    let c : Command := { s0.newCommand 0x140 (s.dvals f) f.imm .queued with
      denied := s.st.deny.any fun x => x.page == pageOf (dval (s.dvals f) 2).toNat, asked := s.st.asked }
    let trap (code : Nat) (reason : W64) : State :=
      s0.trap { code, tpc := s.st.pc, addr := v, mask := s.st.exec, info0 := reason, info1 := 0, info2 := 0 }
    (s0.wordFault v 8 true = some .form → exec (.cpy f) s = .next (trap 0x0A 6)) ∧
    (s0.wordFault v 8 true = some .misaligned → exec (.cpy f) s = .next (trap 0x0B 0)) ∧
    (s0.wordFault v 8 true = some .unowned → exec (.cpy f) s = .next (trap 0x0A 8)) ∧
    (s0.wordFault v 8 true = none → s0.accept? c = .full → exec (.cpy f) s = .next (s0.hold .blocked)) ∧
    (∀ t st, s0.wordFault v 8 true = none → s0.accept? c = .ends t st ∨ (s0.accept? c = .spoiled t ∧ st = Status.poison) →
      let s1 := t.addCommand c
      exec (.cpy f) s = .next ((({ s1 with st := { s1.st.cleared with asked := [] } }).finish c st).retire f.h)) ∧
    (∀ (t : State) (bs : List W8), t.sq.sid = c.who.sid → (t.enterCopy c bs).sq.inst.pinned =
      (t.sq.inst.pinned || (match t.squad? c.who.sid with
        | some q => t.acceptPins c q.inst bs
        | none => false))) ∧
    (∀ (t : State) (i : Instance) (bs : List W8), t.wordPins c = true → t.acceptPins c i bs = true)

/-- R116, R190, R338 to R343: COPY_COMPLETE admits a running command's units within the lap's budget, then moves its elements
and writes its word, or leaves CPYF to its follow-on,
which is enqueued once every earlier copy of the stream has ended; CCNL ends the squad's commands of a word with CANCEL, a TENQ
that still waits to enter its ring among them (R358), and CQRY tells where one stands. The word comes after the peers have acknowledged what the command has stored through their windows (R118). -/
def Sys2Proof.Claim.CopyCommandsEnd : Prop :=
  (∀ (k : Nat) (s : State) (c : Command), s.command? k = some c → opClass c.op = 1 → c.phase = .running → c.op ≠ 0x142 →
    let l := Layout.ofBytes c.layout
    let ms := l.moves (dval c.d 0) (dval c.d 1)
    c.denied = false → s.copyMisses c l ms = [] → s.copyRefused c l ms = false → s.notPersistent c l ms = false →
    let r0 := s.allotCommand ((s.squadRegion c.who.sid).copies c.part) c l.bytes
    let s0 := r0.1
    let c0 := r0.2
    (c0.sent < l.bytes → exec (.copyComplete k) s = .next s0) ∧
    (c0.sent = l.bytes → s0.engAsk c0 (copyReads c0 l ms) = none →
    let r := (s0.engTouch c0 (copySpans c0 l ms)).perform c0 l ms
    exec (.copyComplete k) s = .next (if c.op = 0x141 ∧ r.2.1 = Status.ok then r.1.putCommand { c0 with phase := .following }
      else r.1.finish c0 r.2.1 r.2.2))) ∧
  (∀ (k : Nat) (s : State) (c : Command) (q : Squad), s.command? k = some c → c.phase = .following →
    (∀ e ∈ s.cmds, waveOf e.who = waveOf c.who → opClass e.op = 1 → c.id ≤ e.id) → s.squad? c.who.sid = some q → q.place = .resident →
    (s.core q.core).queued < 16 →
    exec (.cpyfFollowonEnter k) s = .next ((s.enqueueOp q.core
      { id := c.id, who := c.who, op := bits (dval c.block 0) 63 32, imm := (dval c.block 0).setWidth 32, d := (c.block.drop 1).take 6, step := 0,
        chunk := 0, running := false, suspended := false, pc := 0, lanes := [], mask := 0, cons := none, pass := false }).finish c Status.ok)) ∧
  (∀ (f : XF) (s : State), passes s (.ccnl f) →
    let s0 := s.landed (.ccnl f)
    let v := s.readS (dreg f 0)
    s0.wordFault v 8 true = none →
    exec (.ccnl f) s = .next ((((s.cmds.filter fun c => c.who.sid == s.sq.sid && c.key == v).foldl (fun s c => s.cancel c) s0).cancelDelayed
      s.sq.sid v).retire f.h)) ∧
  (∀ (f : XF) (s : State), passes s (.cqry f) →
    let s0 := s.landed (.cqry f)
    let v := s.readS (dreg f 1)
    s0.wordFault v 8 true = none →
    let mine := s.cmds.filter fun c => c.who.sid == s.sq.sid
    let held := s.delayed s.sq.sid
    let code := match (mine.filter fun c => c.key == v).getLast? with
      | some c => match c.phase with
        | .armed | .queued => 1
        | .running | .following | .draining _ _ => 2
        | .waiting _ | .accepting _ => 3
      | none => if held.any fun e => e.key == some v then 1 else if s.doneWords.contains (s.sq.sid, v) then 4 else 0
    exec (.cqry f) s = .next ((s0.output f 0 (BitVec.ofNat 64 (code + 2 ^ 32 * ((mine.length + held.length) % 2 ^ 16))) 20).retire f.h)) ∧
  (∀ (s : State) (c : Command) (st : Nat) (x : W32), s.windowBusy c.id = true →
    s.finish c st x = s.putCommand { c with phase := .draining st x })

/-- A gather's issue: a command whose operands break the limits ends with BADARG, one of no rows with OK, another runs; SCTR
pins, and GTHR does not, wherever its completion word lies (R158, R344). -/
abbrev Sys2Proof.Claim.GatherIssue (mk : XF → Instr) (op : Nat) : Prop :=
  ∀ (f : XF) (s : State), passes s (mk f) →
    let s0 := s.landed (mk f)
    let d := s.dvals f
    let c := s0.newCommand op d f.imm .running
    (dval d 1).toNat < 2 ^ 20 → (dval d 1).toNat % 8 = 0 → s.sq.stripes.contains (stripeOf (dval d 1).toNat) = true →
    (dval d 2).toNat < 2 ^ 20 → (dval d 2).toNat % (if (gatherArgs c).idx64 then 8 else 4) = 0 →
    s.sq.stripes.contains (stripeOf (dval d 2).toNat) = true → s0.wordFault (dval d 3) 8 true = none →
    let s1 := (if op = 0x14C then s0.pin else s0).addCommand c
    exec (mk f) s = .next (if gatherBad c then (s1.finish c Status.badarg).retire f.h
      else if (gatherArgs c).count = 0 then (s1.finish c Status.ok).retire f.h else s1.retire f.h)

/-- R344: GTHR with 32-bit and 64-bit indices, SCTR, and their completion. -/
def Sys2Proof.Claim.GatherCommands : Prop :=
  GatherIssue .gthrX32 0x14A ∧ GatherIssue .gthrX64 0x14B ∧ GatherIssue .sctr 0x14C ∧
  (∀ (k : Nat) (s : State) (c : Command), s.command? k = some c → c.op = 0x14A ∨ c.op = 0x14B → c.phase.isDraining = false → c.denied = false →
    let n := (gatherArgs c).rowBytes
    let rows := s.gatherRows c
    (∀ x ∈ rows, ∀ v ∈ span x.1 n, s.engByte c 0 .read v ≠ .miss ∧ s.engByte c 0 .read v ≠ .refused) →
    (∀ x ∈ rows, ∀ o ∈ span x.2 n, (s.cmdSp c false o).isSome = true) → s.indexUnowned c = false → s.badIndex c = false →
    s.engAsk c (rows.flatMap fun x => span x.1 n) = none →
    let r := s.gatherMove c rows
    exec (.gatherComplete k) s = .next (r.1.finish c (if r.2 then Status.poison else Status.ok)))

/-! ### Collectives, NVMe, the fabric (R345 to R352) -/

/-- A collective's issue in a valid group that this package belongs to, with sound operands: it is numbered on its group and
runs, or is armed for its time (R345, R346, R192). -/
abbrev Sys2Proof.Claim.CollIssue (mk : XF → Instr) (op : Nat) : Prop :=
  ∀ (f : XF) (s : State), passes s (mk f) →
    let s0 := s.landed (mk f)
    let d := s.dvals f
    let late := op == 0x151 && decide (s.gtb.toNat < (dval d 4).toNat)
    let c := s0.newCommand op d f.imm (if late then .armed else .running)
    let g := (dval d 0).toNat
    s0.wordFault (dval d 3) 8 true = none → (late = true → s0.collArmed (dieOfCore s.sq.core) < 64) → g < 4096 →
    (s0.group g).valid = true → (s0.rankIn g).isSome = true →
    (collBad c (s0.group g).count = true →
      exec (mk f) s = .next (((s0.pin.addCommand c).finish c Status.badarg).retire f.h)) ∧
    (collBad c (s0.group g).count = false →
      let k := Tab.getD s.fab.issued (fun _ => 0) g
      let s1 := s0.pin
      exec (mk f) s = .next ((({ s1 with fab := { s1.fab with issued := Tab.put s1.fab.issued (fun _ => 0) g (k + 1) } }).addCommand
        { c with block := [BitVec.ofNat 64 k] }).retire f.h))

/-- R345 to R347: the issue of the collectives, and the end: once this member's stream is sent and every
other's is here and agrees, the destination is written, poisoned where a member's bytes were (R322); on a group that this package has left it ends with MEMBER. -/
def Obligations.Collectives : Prop :=
  CollIssue .collAllreduce 0x14D ∧ CollIssue .collReducescatter 0x14E ∧ CollIssue .collAllgather 0x14F ∧ CollIssue .collBcast 0x150 ∧
  CollIssue .collat 0x151 ∧
  (∀ (k : Nat) (s : State) (c : Command) (rank : Nat), s.command? k = some c → opClass c.op = 4 → c.phase = .running →
    let g := collGroup c
    let n := (s.group g).count
    s.rankIn g = some rank → (s.members g).any (·.2) = false → c.denied = false → c.layout ≠ [] → c.sent = c.layout.length →
    (∀ v ∈ collSource c n rank, s.engByte c 0 .read v ≠ .miss ∧ s.engByte c 0 .read v ≠ .refused) →
    (∀ v ∈ collDest c n, s.engByte c 0 .write v ≠ .miss ∧ s.engByte c 0 .write v ≠ .refused) →
    (∀ m ∈ s.peersIn g, let x := s.collIn m g (collNumber c)
      x.status = 0 ∧ x.whole = true ∧ x.bytes.take 8 = bytes64 (collArgs c).word) →
    exec (.collectiveComplete k) s = .next ((s.putCommand c).collEnd c (s.group g) rank ((s.members g).map fun m =>
      if m.1 = s.pkg then c.layout.drop 8 else (s.collIn m.1 g (collNumber c)).bytes.drop 8)
      ((s.members g).map fun m => (((if m.1 = s.pkg then collOwnBad c
        else (s.collIn m.1 g (collNumber c)).bad.flatMap fun u => (List.range 64).map (64 * u + ·)).filter (8 ≤ ·)).map (· - 8))))) ∧
  (∀ (k : Nat) (s : State) (c : Command), s.command? k = some c → opClass c.op = 4 → c.phase.isDraining = false →
    s.rankIn (collGroup c) = none →
    exec (.collectiveComplete k) s = .next (s.finish c Status.member))

/-- R348, R349, R383: NVSUB takes its transfer from the budgets in units of up to 4 KiB, writes the page list where it needs
one and its entry at the tail of a queue pair that is the partition's, moves the tail and answers its
command identifier; a full queue, an unknown opcode or a range out of bounds is answered and enters nothing. NVDB posts the
doorbell; NVCQ, whose fences release and acquire (R115), takes the entry at the head whose phase is the expected one, or answers
0. A pair that is not the partition's, or not enabled, is PROT 0xD. -/
def Obligations.NvmeQueues : Prop :=
  (∀ (f : XF) (s : State), passes s (.nvsub f) →
    let s0 := (s.landed (.nvsub f)).pin
    let d := s.dvals f
    let q := (dval d 0).toNat
    let x := s.qpDesc q
    let z := s.qp q
    let op := f.imm.toNat % 256
    let psdt := f.imm.toNat / 2 ^ 14 % 4
    let data := op = 0x01 ∨ op = 0x02
    let len := ((dval d 3).toNat % 2 ^ 16 + 1) * x.block
    let off := (dval d 2).toNat
    let range := data ∧ (x.winSize < off + len ∨ (psdt = 0 ∧ 513 < memPages (x.winBase + off) len))
    let full := (z.tail + 1) % x.sqSize = z.sqHead
    let known := op = 0x00 ∨ op = 0x01 ∨ op = 0x02 ∨ op = 0x08
    let mine := s.sq.inst.region.nvme s.sq.inst.part
    q < 1024 → x.en = true → x.part = s.sq.inst.part →
    (full ∨ ¬ known ∨ range → exec (.nvsub f) s = .next ((s0.output f 5 (BitVec.ofNat 64
      (z.tail + (if full then 2 ^ 31 else 0) + (if known then 0 else 2 ^ 30) + (if range then 2 ^ 29 else 0))) 200).retire f.h)) ∧
    (¬ full → known → ¬ range → ∀ (t : State) (n : Nat),
      let total := if data then len else 0
      s0.nvAllot mine total (total / 4096 + 1) s.st.flushed = (t, n) →
      (n < total → exec (.nvsub f) s = .next { t.hold .blocked with st := { (t.hold .blocked).st with flushed := n } }) ∧
      (total ≤ n →
        let t0 := { t with st := { t.st with flushed := 0 } }
        let u := t0.bar2Under x.part
        let list := x.prpArea + 4096 * z.tail
        let p := if data then nvPointer (psdt == 1) (x.winBase + off) len list else (0, 0, [])
        let t1 := if p.2.2 = [] then t0 else t0.writeAt u list (p.2.2.flatMap fun a => leBytes 8 a)
        exec (.nvsub f) s = .next ((((t1.writeAt u (x.sqBase + 64 * z.tail)
          (nvEntry op psdt z.tail ((dval d 4).toNat % 2 ^ 32) (p.1, p.2.1) (if op = 0 then 0 else dval d 1) (if op = 0 then 0 else dval d 3))).setQp q
            { z with tail := (z.tail + 1) % x.sqSize }).output f 5 (BitVec.ofNat 64 z.tail) 200).retire f.h)))) ∧
  (∀ (f : XF) (s : State), passes s (.nvdb f) →
    let q := (s.readS (dreg f 0)).toNat
    let x := s.qpDesc q
    q < 1024 → x.en = true → x.part = s.sq.inst.part →
    exec (.nvdb f) s = .next (({ (s.landed (.nvdb f)).pin with
      hostOut := s.hostOut ++ [HostOut.posted x.sqDb (BitVec.ofNat 32 (s.qp q).tail)] }).retire f.h)) ∧
  (∀ (f : XF) (s : State), passes s (.nvdb f) →
    let q := (s.readS (dreg f 0)).toNat
    1024 ≤ q ∨ (s.qpDesc (q % 1024)).en = false ∨ (s.qpDesc (q % 1024)).part ≠ s.sq.inst.part →
    exec (.nvdb f) s = .next ((s.landed (.nvdb f)).trap
      { code := 0x0A, tpc := s.st.pc, addr := s.readS (dreg f 0), mask := s.st.exec, info0 := 0xD, info1 := 0, info2 := 0 })) ∧
  (∀ (f : XF) (s : State), passes s (.nvcq f) →
    let s0 := (s.landed (.nvcq f)).pin.flushMine
    let q := (s.readS (dreg f 2)).toNat
    let x := s.qpDesc q
    let z := s0.qp q
    let pa := x.cqBase + 16 * z.head
    let key := s0.bar2Key x.part
    let dw (i : Nat) : W32 := BitVec.ofNat 32 (leNat ((((List.range 16).map fun i => s0.readHome key (pa + i)).drop (4 * i)).take 4))
    let t := s0.touch key 0 false false [lineOf pa]
    q < 1024 → x.en = true → x.part = s.sq.inst.part →
    (s.windowOwed = true → exec (.nvcq f) s = .next ((s.landed (.nvcq f)).pin.hold .blocked)) ∧
    (s.windowOwed = false → t.isBad pa = false → t.violates key pa = false →
    ((dw 3).getLsbD 16 = z.phase →
      let head := (z.head + 1) % x.cqSize
      let s1 := ((t.setQp q { z with head, phase := if head = 0 then !z.phase else z.phase, sqHead := (dw 2).toNat % 2 ^ 16 }).post
        x.cqDb head).selfInvalidate s.sq.core
      exec (.nvcq f) s = .next (((s1.output f 0 ((dw 3).setWidth 64 ||| 0x100000000) 200).output f 1 ((dw 0).setWidth 64) 200).retire f.h)) ∧
    ((dw 3).getLsbD 16 ≠ z.phase → f.imm.getLsbD 0 = false →
      exec (.nvcq f) s = .next ((((t.selfInvalidate s.sq.core).output f 0 0 200).output f 1 0 200).retire f.h)) ∧
    ((dw 3).getLsbD 16 ≠ z.phase → f.imm.getLsbD 0 = true →
      exec (.nvcq f) s = .next ((t.selfInvalidate s.sq.core).hold .blocked))))

/-- A fabric operation with sound operands: it pins, is in its flow, and sends what it may (R350, R351). `ok` says what its own
operands must meet. -/
abbrev Sys2Proof.Claim.FabricIssue (mk : XF → Instr) (op align : Nat) (ok : XF → State → Command → Prop) : Prop :=
  ∀ (f : XF) (s : State), passes s (mk f) →
    let s0 := s.landed (mk f)
    let c := s0.newCommand op (s.dvals f) f.imm .running
    let a := fabArgs c
    let s1 := s0.pin.addCommand c
    s0.wordFault (dval c.d 3) align true = none → ok f s0 c →
    (a.bad = true → exec (mk f) s = .next ((s1.finish c Status.badarg).retire f.h)) ∧
    (a.bad = false → s.isDown a.pkg = true → exec (mk f) s = .next ((s1.finish c Status.down).retire f.h)) ∧
    (a.bad = false → s.isDown a.pkg = false → exec (mk f) s = .next ((s1.fabStep c.id).retire f.h))

/-- R350 to R352: the issue of FPUT, FPUTA, FGET, FATOM and FCAS; FFENCE waits for the operations that it names. -/
def Obligations.FabricOperations : Prop :=
  FabricIssue .fput 0x155 8 (fun _ _ c => (fabArgs c).space = 0 ∧ 0 < fabCount c) ∧
  FabricIssue .fputa 0x156 8 (fun _ _ c => (fabArgs c).space = 0 ∧ 0 < fabCount c ∧ (dval c.d 5).toNat % 8 = 0) ∧
  FabricIssue .fget 0x157 8 (fun _ _ c => (fabArgs c).space = 0 ∧ 0 < fabCount c) ∧
  FabricIssue .fget 0x157 8 (fun _ s c => (fabArgs c).space = 1 ∧ 0 < fabCount c ∧ dval c.d 1 >>> 20 = 0 ∧
    ∀ i, i < fabCount c → (s.ownSp s.sq.sid ((dval c.d 1).toNat + i)).isSome = true) ∧
  FabricIssue .fatomInt 0x158 16 (fun _ _ c => (fabArgs c).space = 0 ∧ dval c.d 4 >>> 31 = 0 ∧ (dval c.d 0).toNat % fatomWidth c = 0) ∧
  FabricIssue .fatomF32 0x159 16 (fun _ _ c => (fabArgs c).space = 0 ∧ dval c.d 4 >>> 31 = 0 ∧ (dval c.d 0).toNat % fatomWidth c = 0) ∧
  FabricIssue .fcas 0x15A 16 (fun _ _ c => (fabArgs c).space = 0 ∧ dval c.d 4 >>> 31 = 0 ∧ (dval c.d 0).toNat % fatomWidth c = 0) ∧
  (∀ (f : XF) (s : State), passes s (.ffence f) →
    let s0 := (s.landed (.ffence f)).pin
    let v := s.readS (dreg f 0)
    (s.fabOwed v = true → exec (.ffence f) s = .next (s0.hold .blocked)) ∧
    (s.fabOwed v = false → s.windowOwed = false → exec (.ffence f) s = .next (s0.flushMine.retire f.h)))

/-- Copy commands: issue, refusal, CCNL and CQRY: `CopyCommandsIssue`; `CopyCommandRefusals`. -/
def Obligations.CopyCommands : Prop :=
  Claim.CopyCommandsIssue ∧ Claim.CopyCommandRefusals

/-- What a copy has written at its end; gathers and scatters: `CopyCommandsEnd`; `GatherCommands`. -/
def Obligations.CommandEndsAndGathers : Prop :=
  Claim.CopyCommandsEnd ∧ Claim.GatherCommands

/-! ### Task instructions (R353 to R358) -/

/-- A launch packet's operand in own scratchpad, sound, with its completion word. -/
abbrev Sys2Proof.Claim.packetAt (s0 : State) (v word : W64) : Prop :=
  v.toNat < 2 ^ 20 ∧ v.toNat % 64 = 0 ∧ s0.sq.stripes.contains (stripeOf v.toNat) = true ∧
    (∀ i, i < 64 → s0.spBad (.core s0.sq.core) (v.toNat + i) = false) ∧ s0.wordFault word 8 true = none

/-- R353, R358: TENQ pins, sends the stream's buffered reductions and enqueues its packet, holds it in the open batch of its
queue, or waits for the hub; TRENQ sends it to the handle's package, charged to the region's transmission (R190). -/
def Sys2Proof.Claim.Enqueuing : Prop :=
  (∀ (f : XF) (s : State), passes s (.tenq f) → s.windowOwed = false →
    let d := s.dvals f
    packetAt (s.landed (.tenq f)) (dval d 1) (dval d 2) →
    let s0 := (s.landed (.tenq f)).pin.flushMine
    let e := s0.newEnqueue (dval d 0) ((s.landed (.tenq f)).spBytes (.core s.sq.core) (dval d 1).toNat 64) (some (dval d 2, f.imm))
    (handlePkg (dval d 0) ≠ s0.pkg → exec (.tenq f) s = .next ((s0.enqWord e Status.noq).retire f.h)) ∧
    (handlePkg (dval d 0) = s0.pkg → s0.st.batch = none →
      (∀ s1, s0.tryEnqueue e = some s1 → exec (.tenq f) s = .next (s1.retire f.h)) ∧
      (s0.tryEnqueue e = none → exec (.tenq f) s = .next (s0.hold .blocked))) ∧
    (∀ b, handlePkg (dval d 0) = s0.pkg → s0.st.batch = some b →
      (handleQueue b.handle = handleQueue (dval d 0) → b.refused = false →
        (b.held.length < 64 →
          exec (.tenq f) s = .next (({ s0 with st := { s0.st with batch := some { b with held := b.held ++ [e] } } }).retire f.h)) ∧
        (∀ s1, 64 ≤ b.held.length → s0.publish b.held = some s1 →
          exec (.tenq f) s = .next (({ s1 with st := { s1.st with batch := some { b with held := [e] } } }).retire f.h)) ∧
        (64 ≤ b.held.length → s0.publish b.held = none → exec (.tenq f) s = .next (s0.hold .blocked))) ∧
      (handleQueue b.handle ≠ handleQueue (dval d 0) ∨ b.refused = true →
        (∀ s1, s0.tryEnqueue e = some s1 → exec (.tenq f) s = .next (s1.retire f.h)) ∧
        (s0.tryEnqueue e = none → exec (.tenq f) s = .next (s0.hold .blocked))))) ∧
  (∀ (f : XF) (s : State), passes s (.trenq f) → s.windowOwed = false →
    let d := s.dvals f
    packetAt (s.landed (.trenq f)) (dval d 1) (dval d 2) →
    let s0 := (s.landed (.trenq f)).pin.flushMine
    let c := s0.newCommand 0x161 [dval d 0, dval d 1, 0, dval d 2, 0, 0] f.imm .running
    handlePkg (dval d 0) < 256 →
    (s0.isDown (handlePkg (dval d 0)) = true → exec (.trenq f) s = .next (((s0.addCommand c).finish c Status.down).retire f.h)) ∧
    (s0.isDown (handlePkg (dval d 0)) = false → s0.windowOpen (handlePkg (dval d 0)) (s0.domainOf c.part) 0 = true →
      s0.mayStart (s0.transmits c) = true →
      exec (.trenq f) s = .next ((((s0.addCommand c).sendData .enq (Packet.make (handlePkg (dval d 0)) (s0.domainOf c.part) 0 1 false true
        (dval d 0) 0 c.id ((s.landed (.trenq f)).spBytes (.core s.sq.core) (dval d 1).toNat 64))).spend (s0.transmits c) 64).retire f.h))) ∧
  (∀ (f : XF) (s : State), passes s (.gopen f) →
    let h := s.readS (dreg f 0)
    let s0 := (s.landed (.gopen f)).pin
    (∀ s1, s0.publish ((s.st.batch.map (·.held)).getD []) = some s1 → exec (.gopen f) s = .next
      (({ s1 with st := { s1.st with batch := some { handle := h, refused := handlePkg h != s.pkg, held := [] } } }).retire f.h)) ∧
    (s0.publish ((s.st.batch.map (·.held)).getD []) = none → exec (.gopen f) s = .next (s0.hold .blocked))) ∧
  (∀ (f : XF) (s : State), passes s (.gclose f) →
    let s0 := s.landed (.gclose f)
    let v := s.readS (dreg f 0)
    s0.wordFault v 8 true = none →
    (∀ s1, s0.publish ((s.st.batch.map (·.held)).getD []) = some s1 →
      let s2 : State := { s1 with st := { s1.st with batch := none } }
      let e (h : W64) := s2.newEnqueue h [] (some (v, f.imm))
      (s.st.batch = none → exec (.gclose f) s = .next ((s2.enqWord (e 0) Status.ok).retire f.h)) ∧
      (∀ b, s.st.batch = some b →
        (b.refused = true → exec (.gclose f) s = .next ((s2.enqWord (e 0) Status.noq).retire f.h)) ∧
        (∀ s3, b.refused = false → s2.tryEnqueue (e b.handle) = some s3 → exec (.gclose f) s = .next (s3.retire f.h)) ∧
        (b.refused = false → s2.tryEnqueue (e b.handle) = none → exec (.gclose f) s = .next (s0.hold .blocked)))) ∧
    (s0.publish ((s.st.batch.map (·.held)).getD []) = none → exec (.gclose f) s = .next (s0.hold .blocked)))

/-- R155, R354: TSET sets a tile full, empty or neither after the stream's reductions; TWAIT goes on when the bit it names is
set; TSTAT reads the bits, or PINNED and HMODE; TARG reads an argument; PIN pins; TSPLIT queues the far half of its instance. -/
def Sys2Proof.Claim.TilesAndArguments : Prop :=
  (∀ (f : XF) (s : State), passes s (.tset f) → s.windowOwed = false → f.imm = 0 ∨ f.imm = 1 ∨ f.imm = 2 →
    let v := s.readS (dreg f 0)
    ∃ t, exec (.tset f) s = .next t ∧
      t.tileBits (v.extractLsb' 16 2).toNat (v.extractLsb' 0 16).toNat = (decide (f.imm = 0), decide (f.imm = 1)) ∧
      (∀ d k, d < 4 → k < 65536 → (d, k) ≠ ((v.extractLsb' 16 2).toNat, (v.extractLsb' 0 16).toNat) →
        t.tileBits d k = (s.landed (.tset f)).pin.flushMine.tileBits d k) ∧
      retires (s.landed (.tset f)).pin.flushMine t f.h ∧ t.mem = (s.landed (.tset f)).pin.flushMine.mem) ∧
  (∀ (f : XF) (s : State), passes s (.twait f) →
    let v := s.readS (dreg f 0)
    let b := s.tileBits (v.extractLsb' 16 2).toNat (v.extractLsb' 0 16).toNat
    ((if f.imm.getLsbD 0 then b.2 else b.1) = true →
      exec (.twait f) s = .next (((s.landed (.twait f)).selfInvalidate s.sq.core).retire f.h)) ∧
    ((if f.imm.getLsbD 0 then b.2 else b.1) = false → exec (.twait f) s = .next ((s.landed (.twait f)).hold .blocked))) ∧
  (∀ (f : XF) (s : State), passes s (.tstat f) →
    let v := s.readS (dreg f 1)
    let b := if f.imm.getLsbD 0 then s.tileBits (v.extractLsb' 16 2).toNat (v.extractLsb' 0 16).toNat else (s.sq.inst.pinned, s.st.trap.hmode)
    exec (.tstat f) s = .next (((s.landed (.tstat f)).output f 0 (BitVec.ofNat 64 ((if b.1 then 1 else 0) + if b.2 then 2 else 0))
      (if f.imm.getLsbD 0 = false then 4 else if (v.extractLsb' 16 2).toNat = dieOfCore s.sq.core then 190 else 430)).retire f.h)) ∧
  (∀ (f : XF) (s : State) (x : LaneLoc) (ys : List LaneLoc), passes s (.targ f) →
    let s0 := s.landed (.targ f)
    s0.places .param (s0.uniform (s.sq.inst.args + 8 * f.imm.setWidth 64)) 8 .read (servesScalar .b64) = some (x :: ys) →
    let s' := s0.undenied .param (x :: ys)
    s'.isMmio x = false → s'.delivered [x] 8 .rlx = true →
    let past := readsPast [x] .rlx .wave
    let s1 := s'.fresh [x] .rlx past
    s1.readable past [x] 8 →
    exec (.targ f) s = .next (((s1.afterLoad past true [x]).output f 0 (word64 (s1.locBytes past x.loc 8)) 0).retire f.h)) ∧
  (∀ (f : XF) (s : State), passes s (.pin f) → exec (.pin f) s = .next ((s.landed (.pin f)).pin.retire f.h)) ∧
  (∀ (f : XF) (s : State), passes s (.tsplit f) →
    let s0 := s.landed (.tsplit f)
    let i := s.sq.splitInst
    (i.splitAxis = none ∨ 27 ≤ i.depth → exec (.tsplit f) s = .next ((s0.output f 0 (BitVec.allOnes 64) 40).retire f.h)) ∧
    (∀ ax s1, i.splitAxis = some ax → i.depth < 27 → (s0.countNode i.node (.die i.die) 1).queueHalf? (i.half ax true) = some s1 →
      exec (.tsplit f) s = .next ((({ s1 with sq := { s1.sq with
        splits := s1.sq.splits ++ [({ lands := s.cycle + 40, axis := ax, mid := i.mid ax } : Split)] } }).output
        f 0 (BitVec.ofNat 64 (ax + 2 ^ 32 * i.mid ax)) 40).retire f.h)))

/-- R355, R356: RGROW adds granules, or answers, or acts as exhaustion does, where it cannot; RSHRINK gives them back, keeping
one; SPALLOC takes a run of free stripes, zeroed; SPFREE gives its stripes back once nothing of the squad uses them. -/
def Sys2Proof.Claim.RegistersAndStripes : Prop :=
  (∀ (f : XF) (s : State), passes s (.rgrow f) →
    let s0 := s.landed (.rgrow f)
    let n := f.imm.toNat % 64
    (s0.growFault n = 0 → ∃ t, exec (.rgrow f) s = .next t ∧ t.wv.gran = s.wv.gran + n ∧ t.st.pc = s.st.npc ∧ t.mem = s.mem ∧
      (∀ m l, l < 64 → m < 8 * s.wv.gran → t.wv.v.get0 (64 * m + l) = s.wv.v.get0 (64 * m + l)) ∧
      (∀ m l, l < 64 → 8 * s.wv.gran ≤ m → t.wv.v.get0 (64 * m + l) = 0)) ∧
    (s0.growFault n ≠ 0 → f.imm.getLsbD 8 = true →
      exec (.rgrow f) s = .next ((s0.output f 0 (BitVec.ofNat 64 (s0.growFault n)) 4).retire f.h)) ∧
    (s0.growFault n ≠ 0 → f.imm.getLsbD 8 = false → exec (.rgrow f) s = .next (s0.exhaust .registers n))) ∧
  (∀ (f : XF) (s : State), passes s (.rshrink f) →
    let s0 := s.landed (.rshrink f)
    let g := s.wv.gran - min (f.imm.toNat % 64) (s.wv.gran - 1)
    (s0.pendingAbove (8 * g) = false → exec (.rshrink f) s = .next
      (({ s0 with wv := { s0.wv with gran := g, v := Tab.keep s0.wv.v fun k => decide (k < 512 * g) } }).retire f.h)) ∧
    (s0.pendingAbove (8 * g) = true → exec (.rshrink f) s = .next (s0.hold .blocked))) ∧
  (∀ (f : XF) (s : State), passes s (.spalloc f) →
    let s0 := s.landed (.spalloc f)
    let n := f.imm.toNat % 64
    (∀ b, s0.freeRun s.sq.core n = some b → s0.budgetRoom s.sq.inst 0 n none = true → ∃ t, exec (.spalloc f) s = .next t ∧
      t.sq.stripes = s.sq.stripes ++ (List.range n).map (b + ·) ∧ wroteScalar s t (dreg f 0) (BitVec.ofNat 64 (32768 * b)) (32 * n + 4) ∧
      t.st.pc = s.st.npc ∧ t.mem = s.mem) ∧
    (s0.freeRun s.sq.core n = none → f.imm.getLsbD 8 = true →
      exec (.spalloc f) s = .next ((s0.output f 0 (BitVec.allOnes 64) 4).retire f.h)) ∧
    (s0.freeRun s.sq.core n = none → f.imm.getLsbD 8 = false → exec (.spalloc f) s = .next (s0.exhaust .scratchpad n))) ∧
  (∀ (f : XF) (s : State), passes s (.spfree f) →
    let s0 := s.landed (.spfree f)
    let v := s.readS (dreg f 0)
    let ks := (List.range (f.imm.toNat % 64)).map fun i => stripeOf v.toNat + i
    v.toNat < 2 ^ 20 → v.toNat % 32768 = 0 → (∀ k ∈ ks, s.sq.stripes.contains k = true) →
    (∀ c ∈ s.cmds, c.who.sid = s.sq.sid → c.touches ks = false ∧ c.followTouches ks = false) →
    (∀ e ∈ s.delayed s.sq.sid, e.touches s.sq.core ks = false) →
    (∀ m ∈ (s.core s.sq.core).mq, m.who.sid = s.sq.sid → m.touches ks = false) →
    exec (.spfree f) s = .next (({ s0 with sq := { s0.sq with stripes := s.sq.stripes.filter fun k => !ks.contains k } }).retire f.h))

/-- Enqueuing, task trees, arguments, register and scratchpad growth, groups: `Enqueuing`; `TilesAndArguments`; `RegistersAndStripes`. -/
def Obligations.TaskInstructions : Prop :=
  Claim.Enqueuing ∧ Claim.TilesAndArguments ∧ Claim.RegistersAndStripes

/-! ### Translation, keys and device registers (R10, R23 to R37) -/

/-- R10: a write of a register that only the supervisor writes, made by another, changes nothing but the log of dropped
accesses. -/
def Sys2Proof.Claim.SupervisorOnlyWrites : Prop :=
  ∀ (s : State) (v : W64),
    (∀ pa, exec (.mmioRegisterWrite pa v false) s = .next (s.drop pa.toNat)) ∧
    (∀ p off, exec (.partitionDescriptorWrite p off v false) s = .next (s.drop (Mmio.partition p.toNat + off.toNat))) ∧
    (∀ mk ∈ [Instr.keyLoad, .keyErase, .keyReload], exec (mk v false) s = .next (s.drop Mmio.keyctl)) ∧
    (∀ mk ∈ [Instr.xlinvPartition, .xlinvPage, .xlinvPartitionAll, .xlinvKey, .xlinvAll], exec (mk v false) s = .next (s.drop Mmio.xlinv)) ∧
    (∀ mk ∈ [Instr.faultFix, .faultDeny], exec (mk v false) s = .next (s.drop Mmio.xlresp)) ∧
    (∀ mk ∈ [Instr.postRederr, .postPosted], exec (mk v false) s = .next (s.drop Mmio.errpost)) ∧
    exec (.opStepRequest v false) s = .next (s.drop Mmio.opctl) ∧
    (∀ mk ∈ [Instr.frzResume, .frzReplay, .frzKill, .frzFalsestart, .frzPark, .frzRelease], ∀ who,
      exec (mk who false) s = .next (s.drop Mmio.frzdec)) ∧
    (∀ d, exec (.xlrbaseWrite d v false) s = .next (s.drop (Mmio.xlrbase d.toNat)) ∧
      exec (.xlrtailWrite d v false) s = .next (s.drop (Mmio.xlrtail d.toNat)) ∧
      exec (.crbaseWrite d v false) s = .next (s.drop (Mmio.crbase d.toNat)) ∧
      exec (.crtailWrite d v false) s = .next (s.drop (Mmio.crtail d.toNat))) ∧
    (∀ c, exec (.coreHalt c v false) s = .next (s.drop (Mmio.core c.toNat + 0x4A48)) ∧
      exec (.coreRelease c v false) s = .next (s.drop (Mmio.core c.toNat + 0x4A48)) ∧
      exec (.rrtExchange c v false) s = .next (s.drop (Mmio.core c.toNat + 0x4A40)) ∧
      exec (.rrtExchangeMove c v false) s = .next (s.drop (Mmio.core c.toNat + 0x4A40)))

/-- R10, R191, R395, R375: a supervisor's write of a plain device register stores it where its reserved bits are zero and its
value is allowed, and is logged and ignored elsewhere; a descriptor's word is stored where its partition's entries keep their
rules (R23); no other register, and no byte of memory, changes. -/
def Sys2Proof.Claim.DeviceRegisterWrites : Prop :=
  ∀ (s : State) (v : W64),
    exec (.mmioRegisterWrite (BitVec.ofNat 64 Mmio.lapcfg) v true) s =
      .next (if v.toNat < 32 ∧ 8 ≤ v.toNat ∧ v.toNat ≤ 16 then s.setReg Mmio.lapcfg v else s.ignore Mmio.lapcfg) ∧
    exec (.mmioRegisterWrite (BitVec.ofNat 64 Mmio.keyblob) v true) s =
      .next (if v &&& 0xFFF0000000000FFF = 0 then s.setReg Mmio.keyblob v else s.ignore Mmio.keyblob) ∧
    exec (.mmioRegisterWrite (BitVec.ofNat 64 Mmio.errinfo) v true) s = .next (s.setReg Mmio.errinfo v) ∧
    (∀ (p : BitVec 4) (off : BitVec 12), off.toNat % 8 = 0 → clearOf v (descriptorMask off.toNat) = true →
      (off = 0x18 → v.toNat ≤ 1024) →
      let s1 := s.setReg (Mmio.partition p.toNat + off.toNat) v
      exec (.partitionDescriptorWrite p off v true) s =
        .next (if s1.descriptorOk p.toNat then s1 else s.ignore (Mmio.partition p.toNat + off.toNat))) ∧
    (∀ d : BitVec 2, let old := s.reg (Mmio.xlrbase d.toNat)
      v &&& 0xFFF000000003FFFE = 0 → (old.getLsbD 0 = true → bits v 51 18 = bits old 51 18) →
      exec (.xlrbaseWrite d v true) s = .next ((s.setReg (Mmio.xlrbase d.toNat) v).dueRecords d.toNat)) ∧
    (∀ d : BitVec 2, v.toNat < 2 ^ 32 →
      ringHeld (s.reg (Mmio.xlrhead d.toNat)) v ≤ ringHeld (s.reg (Mmio.xlrhead d.toNat)) (s.reg (Mmio.xlrtail d.toNat)) →
      exec (.xlrtailWrite d v true) s = .next ((s.setReg (Mmio.xlrtail d.toNat) v).dueRecords d.toNat)) ∧
    (∀ d : BitVec 2, let old := s.reg (Mmio.crbase d.toNat)
      v &&& 0xFFF000000007FFFE = 0 → (old.getLsbD 0 = true → bits v 51 19 = bits old 51 19) →
      exec (.crbaseWrite d v true) s = .next (s.setReg (Mmio.crbase d.toNat) v)) ∧
    (∀ d : BitVec 2, v.toNat < 2 ^ 32 →
      ringHeld (s.reg (Mmio.crhead d.toNat)) v ≤ ringHeld (s.reg (Mmio.crhead d.toNat)) (s.reg (Mmio.crtail d.toNat)) →
      exec (.crtailWrite d v true) s = .next (s.setReg (Mmio.crtail d.toNat) v))

/-- R26, R27, R29, R31, R32: a miss that has one of the die's 4,096 entries is walked while a walker is free; a leaf fills the die's
entry and satisfies the misses of its page; a fault is written to the die's ring, with its header advanced, and opens a record. A later
miss of the package on a page whose record is open enters no table. -/
def Sys2Proof.Claim.PageWalks : Prop :=
  ∀ (d : BitVec 2) (p : BitVec 4) (g : BitVec 39) (s : State) (m : Miss), s.missAt d.toNat p.toNat g.toNat = some m →
    (m.walking = false → m.fault = none → ((s.die d.toNat).misses.filter (·.walking)).length < 96 →
      exec (.walkStart d p g) s = .next ((s.updMiss d.toNat p.toNat g.toNat fun m => { m with walking := true }).due
        (.walkComplete d.toNat p.toNat g.toNat))) ∧
    (m.walking = true →
      (∀ a e level ns, s.walk (s.die d.toNat).nodes m.part m.va = .leaf a e level ns → exec (.walkComplete d p g) s = .next
        (s.walkLeaf d.toNat m a e level ns)) ∧
      (∀ f, s.walk (s.die d.toNat).nodes m.part m.va = .fault f → exec (.walkComplete d p g) s = .next
        ((s.updMiss d.toNat m.part m.page fun m => { m with walking := false, fault := some f }).due (.faultRecord d.toNat m.part m.page)))) ∧
    (∀ f, m.fault = some f → m.recorded = false → (s.faults.all fun o => !(o.part == m.part && o.page == m.page)) = true →
      let base := s.reg (Mmio.xlrbase d.toNat)
      let head := s.reg (Mmio.xlrhead d.toNat)
      base.getLsbD 0 = true → ringHeld head (s.reg (Mmio.xlrtail d.toNat)) < 8192 →
      let s1 := (s.writeAt Under.device (bits base 51 18 * 2 ^ 18 + 32 * (bits head 31 0 % 8192))
        (leBytes 8 m.va ++ bytes64 (s.recordInfo m f) ++ bytes64 f.entry ++ bytes64 s.gtb)).setReg (Mmio.xlrhead d.toNat)
          (BitVec.ofNat 64 ((bits head 31 0 + 1) % 2 ^ 32))
      let s2 : State := { s1 with faults := s1.faults ++ [{ part := m.part, page := m.page, info := s.recordInfo m f, entry := f.entry }] }
      exec (.faultRecordWrite d p g) s = .next (s2.updMiss d.toNat m.part m.page
          fun m => { m with recorded := true })) ∧
    (∀ (k : Nat) (a : Acc) (path : Nat) (who : W32), s.recordOpen m.part m.page = true → s.miss k m.part m.va a path who =
      if pageOf m.va = m.page then s else s.miss k m.part m.va a path who)

/-- R33, R35 to R37: FIX and DENY close the open record of their page; after FIX those that wait on it look it up again and its walk
starts anew, after DENY they go on with the denial; a parked stream whose leaf has come goes on once no other of its pages is missing
(R30). A response without an open record is counted only. -/
def Sys2Proof.Claim.FaultResponses : Prop :=
  ∀ (s : State) (v : W64), v &&& 0xFF80000000000FFC = 0 →
    (∀ o, (s.faults.find? fun o => o.part == bits v 15 12 && o.page == bits v 54 16) = some o →
      let s0 : State := { s with faults := s.faults.filter fun x => !(x.part == o.part && x.page == o.page) }
      let s1 := s0.dropMisses o.part o.page
      (bits v 1 0 = 1 → exec (.faultFix v true) s = .next
        (((if s1.fixed.contains (o.part, o.page) then s1 else { s1 with fixed := s1.fixed ++ [(o.part, o.page)] }).relook o.part o.page).resumeFabric)) ∧
      (bits v 1 0 = 2 → exec (.faultDeny v true) s = .next (
        let hit (p : Nat) : Bool := p == o.page
        let waits (t : Stream) : Bool := t.pend.any hit || (match t.wait with
          | .accept pages => pages.any hit
          | _ => false)
        let on (w : Wait) : Wait := match w with
          | .parked _ _ _ _ => .none
          | _ => .blocked
        let s2 := s1.mapStreams fun q _ t => if q.part = o.part ∧ q.place = .resident ∧ waits t
          then { t with deny := t.deny ++ [{ page := o.page, info := o.info, entry := o.entry }], pend := t.pend.filter fun p => !hit p, wait := on t.wait }
          else t
        let mark (c : Command) : Command := match c.phase with
          | .waiting pages => if c.part = o.part ∧ pages.any hit then { c with denied := true, phase := .running } else c
          | .accepting pages => if c.part = o.part ∧ pages.any hit then { c with denied := true, phase := .queued } else c
          | _ => c
        ({ s2 with cmds := (s2.cmds.map mark).map fun (c : Command) => if c.part = o.part then c.wake hit none false else c }).resumeFabric))) ∧
    ((∀ o ∈ s.faults, ¬(o.part = bits v 15 12 ∧ o.page = bits v 54 16)) → bits v 1 0 = 1 →
      exec (.faultFix v true) s = .next (s.note (.noRecord (bits v 15 12) (bits v 54 16)))) ∧
    (∀ (hit : Nat → Bool) (x : Stream) (need : List (Nat × Nat)) (fetch : Bool) (a : Acc) (ks : List PageKind) (ro : Bool),
      x.wait = .parked need fetch a ks → x.pend.any hit = true →
      ((∀ p ∈ x.pend, hit p = true) → (x.wake hit ro false).wait = .none) ∧
      ((∃ p ∈ x.pend, hit p = false) → (x.wake hit ro false).wait = x.wait ∧ (x.wake hit ro false).pend = x.pend.filter fun p => !hit p))

/-- R33, R34: an invalidation of a scope drops from every die and core the entries that it names, and no other, and sets BUSY; while
BUSY is set a write is held; BUSY clears once no access through a window is outstanding, when what the dies combine is performed, and
the next held write is performed. -/
def Sys2Proof.Claim.Invalidations : Prop :=
  (∀ (s : State) (v : W64) (mk : W64 → Bool → Instr) (scope : Nat),
    (mk, scope) ∈ [(Instr.xlinvPartition, 0), (.xlinvPage, 1), (.xlinvPartitionAll, 2), (.xlinvKey, 3), (.xlinvAll, 4)] →
    v &&& 0xFF80000000000FF8 = 0 → bits v 2 0 = scope → (scope = 3 → bits v 54 28 = 0) →
    (s.xlinvBusy = true → exec (mk v true) s = .next { s with xlinvHeld := s.xlinvHeld ++ [v] }) ∧
    (s.xlinvBusy = false → ∃ t, exec (mk v true) s = .next t ∧ t.xlinvBusy = true ∧ t.mem = s.mem ∧ t.wv = s.wv ∧ t.st = s.st ∧
      (∀ d, (t.die d).tlb = (s.die d).tlb.filter fun e => !xlinvNames v e) ∧
      ∀ c, (t.core c).tlb = (s.core c).tlb.filter fun e => !xlinvNames v e)) ∧
  (∀ (v : W64) (e : TlbEntry),
    (bits v 2 0 = 0 → xlinvNames v e = (decide (e.part = bits v 15 12) && !e.global)) ∧
    (bits v 2 0 = 2 → xlinvNames v e = decide (e.part = bits v 15 12)) ∧
    (bits v 2 0 = 3 → xlinvNames v e = decide (e.key = bits v 27 16)) ∧ (bits v 2 0 = 4 → xlinvNames v e = true)) ∧
  (∀ (s : State), s.xlinvBusy = true →
    let s1 := ({ s.flushAll with xlinvBusy := false }).setReg Mmio.xlinvst 0
    (s.fab.window ≠ [] → exec .xlinvDone s = .next s) ∧
    (s.fab.window = [] → s.xlinvHeld = [] → exec .xlinvDone s = .next s1) ∧
    (∀ v r, s.fab.window = [] → s.xlinvHeld = v :: r → exec .xlinvDone s = .next (({ s1 with xlinvHeld := r }).invalidate v)))

/-- R24, R25: a key request with GO is noted and BUSY set; it ends with the slot loaded under its blob's material, or emptied
once nothing under it is dirty, or with the status of its failure. -/
def Sys2Proof.Claim.KeyRequests : Prop :=
  (∀ (s : State) (v : W64) (mk : W64 → Bool → Instr) (op : Nat),
    (mk, op) ∈ [(Instr.keyLoad, 0), (.keyErase, 1), (.keyReload, 2)] → v &&& 0xFFF0000000FFFFFC = 0 → bits v 34 32 = op →
    v.getLsbD 1 = true → (s.reg Mmio.keyctl).getLsbD 0 = false → ∃ t, exec (mk v true) s = .next t ∧
      t.admin.keyReq = some v ∧ (t.reg Mmio.keyctl).getLsbD 0 = true ∧ t.keys = s.keys ∧ t.mem = s.mem) ∧
  (∀ (s : State) (v : W64), s.admin.keyReq = some v →
    let k := bits v 51 40
    (k = 0 → exec .keyRequestComplete s = .next (s.keyDone 1)) ∧
    (k ≠ 0 → bits v 34 32 = 0 → (s.key k).state ≠ .empty → exec .keyRequestComplete s = .next (s.keyDone 2)) ∧
    (k ≠ 0 → bits v 34 32 = 0 → (s.key k).state = .empty → v.getLsbD 35 = false → ∀ b, s.keyBlob (bits v 39 36) = some b →
      exec .keyRequestComplete s = .next (if Config.keyUnwraps (bits v 39 36) k b then ((s.setKey k
        { state := .loaded, owner := bits v 39 36, integ := false, gen := Config.keyMaterial k b }).keyDone 0)
        else s.keyDone 3)) ∧
    (k ≠ 0 → bits v 34 32 = 0 → (s.key k).state = .empty → v.getLsbD 35 = false → s.keyBlob (bits v 39 36) = none →
      exec .keyRequestComplete s = .next (s.keyDone 3)) ∧
    (k ≠ 0 → bits v 34 32 = 1 → (s.key k).state ≠ .empty → (s.purgeKey k).owqUnder k = false →
      exec .keyRequestComplete s = .next (((s.purgeKey k).setKey k KeySlot.empty).keyDone 0)))

/-- Writes of device registers: supervisor only, reserved bits, allowed values: `SupervisorOnlyWrites`; `DeviceRegisterWrites`. -/
def Obligations.DeviceRegisterWrites : Prop :=
  Claim.SupervisorOnlyWrites ∧ Claim.DeviceRegisterWrites

/-- Page walks, fault records and their responses: `PageWalks`; `FaultResponses`. -/
def Obligations.TranslationWalks : Prop :=
  Claim.PageWalks ∧ Claim.FaultResponses

/-- Invalidation of translations, and key requests: `Invalidations`; `KeyRequests`. -/
def Obligations.InvalidationsAndKeys : Prop :=
  Claim.Invalidations ∧ Claim.KeyRequests

/-! ### Cores and operating points (R48 to R61, R411) -/

/-- R49, R54, R69: a supervisor's viability write only clears bits, at its point and at every lower-voltage one for a row, where the
field mask of the lifetime area is cleared too, and leaves every other table as it is; an RRT exchange of a halted core swaps two
entries, and with MOVE the rows' contents. -/
def Sys2Proof.Claim.ViabilityAndRemap : Prop :=
  (∀ (c : BitVec 8) (idx : BitVec 11) (v : W64) (s : State), c.toNat < 192 → idx.toNat < 1280 → v.toNat < 2 ^ 34 →
    ∃ t, exec (.rvtWrite c idx v true) s = .next t ∧
      (∀ p b, p < 5 → b < 256 → (t.core c.toNat).rows p b =
        if b = idx.toNat % 256 ∧ idx.toNat / 256 ≤ p then (s.core c.toNat).rows p b &&& v else (s.core c.toNat).rows p b) ∧
      (let mask (s : State) (p b : Nat) : W64 := Tab.getD s.admin.fieldRows (fun _ => BitVec.allOnes 64) (1280 * c.toNat + 256 * p + b)
       ∀ p b, p < 5 → b < 256 → mask t p b =
        if b = idx.toNat % 256 ∧ idx.toNat / 256 ≤ p then mask s p b &&& v else mask s p b) ∧
      (∀ k, k ≠ c.toNat → t.core k = s.core k) ∧ t.mem = s.mem ∧ t.wv = s.wv ∧ t.st = s.st) ∧
  (∀ (u i : BitVec 8) (v : W64) (s : State), u.toNat < 4 → i.toNat < 160 → v.toNat < 2 ^ 16 →
    ∃ t, exec (.wayViabilityWrite true u i v true) s = .next t ∧
      (∀ j, Tab.getD (t.die u.toNat).l2ways l2Full j =
        if j = i.toNat then Tab.getD (s.die u.toNat).l2ways l2Full j &&& v else Tab.getD (s.die u.toNat).l2ways l2Full j) ∧
      (∀ d, d ≠ u.toNat → (t.die d).l2ways = (s.die d).l2ways) ∧ ((∀ k, (s.l2Line k).dirty = false) → t.mem = s.mem)) ∧
  (∀ (u i : BitVec 8) (v : W64) (s : State), u.toNat < 192 → i.toNat < 5 → v.toNat < 2 ^ 8 →
    ∃ t, exec (.wayViabilityWrite false u i v true) s = .next t ∧
      (∀ j, Tab.getD (t.core u.toNat).l1ways l1Full j =
        if j = i.toNat then Tab.getD (s.core u.toNat).l1ways l1Full j &&& v else Tab.getD (s.core u.toNat).l1ways l1Full j) ∧
      (∀ k, k ≠ u.toNat → (t.core k).l1ways = (s.core k).l1ways) ∧ ((∀ k, (s.l2Line k).dirty = false) → t.mem = s.mem)) ∧
  (∀ (c : BitVec 8) (v : W64) (s : State), c.toNat < 192 → (s.core c.toNat).halted = true → v &&& 0xFFFFFFFFFEC0C000 = 0 →
    bits v 13 8 ≤ 33 → bits v 21 16 ≤ 33 → bits v 13 8 ≠ bits v 21 16 →
    let x := s.core c.toNat
    (v.getLsbD 24 = false → exec (.rrtExchange c v true) s =
      .next (s.setCore c.toNat (x.swapSlots (bits v 7 0) (bits v 13 8) (bits v 21 16)))) ∧
    (v.getLsbD 24 = true → exec (.rrtExchangeMove c v true) s = .next (s.setCore c.toNat
      ((x.swapRows (bits v 7 0) (x.rowAt (bits v 7 0) (bits v 13 8)) (x.rowAt (bits v 7 0) (bits v 21 16))).swapSlots
        (bits v 7 0) (bits v 13 8) (bits v 21 16))))) ∧
  (∀ (x : Core) (b j k : Nat), j < 34 → k < 34 → ∀ b' i, i < 34 → (x.swapSlots b j k).rowAt b' i =
    if b' = b ∧ i = k then x.rowAt b j else if b' = b ∧ i = j then x.rowAt b k else x.rowAt b' i)

/-- R54: a halt stops the core's dispatch and saves its squads; it is halted once none is resident; a release lets it go on. -/
def Sys2Proof.Claim.CoreHalting : Prop :=
  ∀ (c : BitVec 8) (v : W64) (s : State), c.toNat < 192 → v.toNat < 4 →
    (v.getLsbD 0 = true → exec (.coreHalt c v true) s =
      .next ((s.updCore c.toNat fun x => { x.discardProof with halt := true }).saveAll c.toNat)) ∧
    (v.getLsbD 0 = false → exec (.coreRelease c v true) s =
      .next (s.updCore c.toNat fun x => { x with halt := false, halted := false })) ∧
    ((s.core c.toNat).halt = true → (s.saveAll c.toNat).residents c.toNat = [] → exec (.coreHalted c) s =
      .next ((s.saveAll c.toNat).updCore c.toNat fun x => { x with halted := true }))

/-- R55 to R61: the stages of a step of the operating point, each at its place: downward the plan, the row moves, the disposal
of doomed stripes, the ways, the ramp (which a refit has not) and the commit; upward the raise and the end. A request is held while one
goes on. -/
def Sys2Proof.Claim.OperatingPointSteps : Prop :=
  (∀ (v : W64) (s : State), v &&& 0xFFFFFFFFFFFFFF68 = 0 → bits v 2 0 ≤ 4 →
    exec (.opStepRequest v true) s = .next (if v.getLsbD 4 then (s.putOpctl (bits v 2 0)).requestStep (bits v 2 0) else s.putOpctl (bits v 2 0))) ∧
  (∀ (t : Nat) (s : State),
    (s.power.stepping = true → s.requestStep t = ({ s with power := { s.power with heldGo := some t } }).putOpctl t) ∧
    (s.power.stepping = false → (s.requestStep t).power =
      { s.power with target := t, stepping := true, stage := 0, up := decide (t < s.power.point), moves := [] })) ∧
  (∀ (s : State), s.power.stepping = true → s.power.up = false →
    (s.power.stage = 0 → exec .opStepPlan s = .next ((s.coreList.foldl (fun s c => s.planCore c) s).finishStage 1)) ∧
    (s.power.stage = 1 → exec .opStepRowMoves s = .next (((s.power.moves.foldl (fun s m => s.moveRow m.1 m.2.1 m.2.2.1 m.2.2.2) s).setPower
      fun p => { p with moves := [] }).finishStage 2)) ∧
    (s.power.stage = 2 → s.doomedSquads = [] → exec .opStepDispose s = .next (s.finishStage 3)) ∧
    (s.power.stage = 3 → ∃ t, exec .opStepWays s = .next t ∧ t.power = { s.power with stage := 4 }) ∧
    (s.power.stage = 4 → s.power.target ≠ s.power.point → exec .opStepRamp s = .next (s.finishStage 5)) ∧
    (s.power.stage = 5 ∨ (s.power.stage = 4 ∧ s.power.target = s.power.point) → exec .opStepCommit s = .next s.endStep)) ∧
  (∀ (s : State), s.power.stepping = true → s.power.up = true →
    (s.power.stage = 0 → exec .opStepUpRaise s =
      .next ((s.coreList.foldl (fun s c => s.updCore c fun x => { x with next := x.capAt s.power.target }) s).finishStage 2)) ∧
    (s.power.stage = 2 → exec .opStepUpSettled s = .next s.endStep)) ∧
  (∀ (s : State), s.power.heldGo = none → s.sched.swapHeld = none → s.endStep.power =
    { s.power with point := s.power.target, stepping := false, stage := 0, up := false, heldGo := none })

/-- R411: a power sample is stored in MEAS; the third in a row above the limit asks for the next lower point, or at the lowest
is reported; a hundred in a row more than 100 below it ask for the next higher one, down to the bound. -/
def Sys2Proof.Claim.PowerLimit : Prop :=
  ∀ (meas : BitVec 16) (s : State),
    let cap := bits (s.reg Mmio.pwrcap) 15 0
    let verdict := if cap < meas.toNat then 1 else if meas.toNat + 100 < cap then 2 else 0
    let s1 := s.setReg Mmio.pwrcap (setBits (s.reg Mmio.pwrcap) 63 48 meas.toNat)
    let l := (verdict :: s.power.samples).take 100
    let put (l : List Nat) : State := { s1 with power := { s1.power with samples := l } }
    (l.take 3 = [1, 1, 1] → s.power.point ≠ 4 → exec (.powerSample meas) s = .next ((put []).requestStep (s.power.point + 1))) ∧
    (l.take 3 = [1, 1, 1] → s.power.point = 4 → exec (.powerSample meas) s =
      .next (({ put [] with hostOut := s.hostOut ++ [HostOut.power meas.toNat] } : State).note (.notice 411 (BitVec.ofNat 64 meas.toNat)))) ∧
    (l.take 3 ≠ [1, 1, 1] → l.length = 100 → (∀ x ∈ l, x = 2) → s.power.bound < s.power.point →
      exec (.powerSample meas) s = .next ((put []).requestStep (s.power.point - 1))) ∧
    (l.take 3 ≠ [1, 1, 1] → l.length < 100 → exec (.powerSample meas) s = .next (put l))

/-! ### Errors and decisions (R367, R370 to R377) -/

/-- R364, R367: a supervisor's ERRPOST of its code reaches the lowest live stream of the wave that WHO names, and is logged
where there is none; a pending error is entered between instructions outside handler mode. -/
def Sys2Proof.Claim.PostedErrors : Prop :=
  (∀ (v : W64) (s : State) (mk : W64 → Bool → Instr) (code : Nat), (mk, code) ∈ [(Instr.postRederr, 0x13), (.postPosted, 0x14)] →
    v.toNat < 2 ^ 40 → bits v 39 32 = code →
    (∀ q w f, s.waveByCode (v.setWidth 32) = some (q, w) → w.lowest = some f → exec (mk v true) s = .next
      (s.at { sid := q.sid, widx := w.widx, fid := f } fun s => s.postError code (s.reg Mmio.errinfo))) ∧
    (s.waveByCode (v.setWidth 32) = none → exec (mk v true) s = .next (s.note (.lateError (v.setWidth 32) (BitVec.ofNat 8 code))))) ∧
  (∀ (s : State) (code : Nat) (info : W64), s.st.trap.pend = false →
    s.postError code info = { s with st := { s.st with trap := { s.st.trap with pend := true, pcause := BitVec.ofNat 8 code, pinfo := info } } }) ∧
  (∀ (who : StreamId) (s : State), exec (.asyncTrapEntry who) s = .next (s.at who fun s =>
    if s.st.trap.pend ∧ !s.st.trap.hmode ∧ !s.st.skip ∧ (s.st.wait = .none ∨ s.st.wait = .blocked) ∧ s.sq.place = .resident then s.enterPending else s)) ∧
  (∀ (s : State), s.enterPending.st.trap.pend = false ∧ s.enterPending.st.trap.hmode = true ∧ s.enterPending.st.trap.pc = s.st.pc ∧
    s.enterPending.st.pc = s.sq.inst.region.handler)

/-- R370, R371: the oldest consumption record of a die is written to its ring while that has room, and its header advances. -/
def Sys2Proof.Claim.ConsumptionRecords : Prop :=
  ∀ (d : BitVec 2) (s : State) (c : Consumption) (q : Squad) (w : Wave) (x : Stream),
    (s.records.find? fun c => s.consDie c == some d.toNat) = some c → s.streamOf c.who = some (q, w, x) →
    let base := s.reg (Mmio.crbase d.toNat)
    let head := s.reg (Mmio.crhead d.toNat)
    base.getLsbD 0 = true → ringHeld head (s.reg (Mmio.crtail d.toNat)) < 4096 → c.kind ≠ .dupmis → c.kind ≠ .mtxsum →
    exec (.consumptionRecordWrite d) s = .next (((({ s with records := s.records.erase c }).writeAt Under.device
      (bits base 51 19 * 2 ^ 19 + 128 * (bits head 31 0 % 4096)) (consBytes q w x c)).setReg (Mmio.crhead d.toNat)
        (BitVec.ofNat 64 ((bits head 31 0 + 1) % 2 ^ 32))).bump 8 (c.kind.code - 1))

/-- R57, R372, R373: a decision on a wave whose cluster is frozen is kept until the release; on one that is parked, frozen alone, or
of a saved squad that has no core left or that waits for this wave's own decision, it takes effect at once; a release with every record written carries out what was decided, and
RESUME for the rest. -/
def Sys2Proof.Claim.FreezeDecisions : Prop :=
  (∀ (who : W32) (s : State) (mk : W32 → Bool → Instr) (act : Nat),
    (mk, act) ∈ [(Instr.frzResume, 0), (.frzReplay, 1), (.frzKill, 2), (.frzFalsestart, 3), (.frzPark, 4)] →
    (s.waveByCode who = none → exec (mk who true) s = .next (s.ignore Mmio.frzdec)) ∧
    (∀ q w, s.waveByCode who = some (q, w) →
      (q.place = .parked ∨ w.frozenAlone = true ∨ s.standsFrozen q w = true ∨ q.unplaced act = true ∨ q.stillConsumes w = true → exec (mk who true) s = .next
        (({ s with decisions := s.decisions.filter fun e => e.1 != waveCode q.core w.quad w.slot }).takeDecision q w act)) ∧
      (q.place = .resident → w.frozenAlone = false → s.frozen.contains (clusterOfCore q.core) = true →
        let code := waveCode q.core w.quad w.slot
        exec (mk who true) s = .next { s with decisions := (s.decisions.filter fun e => e.1 != code) ++ [(code, act)] }))) ∧
  (∀ (s : State) (q : Squad) (w : Wave),
    s.takeDecision q w 2 = s.kill q ∧ (s.mustDie q w = true → s.takeDecision q w 0 = s.kill q ∧ s.takeDecision q w 1 = s.kill q) ∧
    (s.mustDie q w = false → s.takeDecision q w 0 = s.continueWave q w 0 ∧ s.takeDecision q w 1 = s.continueWave q w 1) ∧
    (q.inst.pinned = false → q.splitInst.splittable = true → s.takeDecision q w 3 = s.falseStart q .consumption) ∧
    (q.inst.pinned = true → s.takeDecision q w 3 = (s.parkSquad q (waveCode q.core w.quad w.slot)).note (.pinnedFalseStart q.sid)) ∧
    s.takeDecision q w 4 = s.parkSquad q (waveCode q.core w.quad w.slot)) ∧
  (∀ (who : W32) (s : State), s.frozen.contains (codeCluster who) = true →
    (s.records.any fun c => ((s.squad? c.who.sid).map fun q => clusterOfCore q.core == codeCluster who).getD false) = false →
    exec (.frzRelease who true) s = .next (s.release (codeCluster who)))

/-- R183, R190, R376, R377: a proof kernel runs on an idle core while its budget lasts, and is held beyond it; an output whose digest is
the expected one changes nothing else, another is a failure of its target. -/
def Sys2Proof.Claim.ProofKernels : Prop :=
  (∀ (c : BitVec 8) (k : Nat) (s : State), c.toNat < 192 → (s.admin.kernels.any fun x => x.id == k) = true → s.residents c.toNat = [] →
    (s.core c.toNat).halt = false → (s.core c.toNat).proof = none → s.canPlaceOn c.toNat = false →
    s.mayStart (.proof (dieOfCore c.toNat)) = true →
    exec (.proofKernelDispatch c k) s = .next (s.updCore c.toNat fun x => { x with proof := some k, proofDue := x.proofDue.filter fun j => j != k })) ∧
  (∀ (c : BitVec 8) (bs : List W8) (k : Nat) (s : State), (s.core c.toNat).proof = some k →
    let s1 := s.updCore c.toNat fun x => { x with proof := none }
    (s.mayStart (.proof (dieOfCore c.toNat)) = false → exec (.proofKernelResult c bs) s = .next s) ∧
    (s.mayStart (.proof (dieOfCore c.toNat)) = true →
    (sha256 bs = Config.proofDigest k s.power.point → exec (.proofKernelResult c bs) s = .next s1) ∧
    (sha256 bs ≠ Config.proofDigest k s.power.point → exec (.proofKernelResult c bs) s = .next (s1.failTarget c.toNat (Config.proofTarget k)))))

/-- Viability tables, remapping, and halting of cores: `ViabilityAndRemap`; `CoreHalting`. -/
def Obligations.CoresAndViability : Prop :=
  Claim.ViabilityAndRemap ∧ Claim.CoreHalting

/-- Steps of the operating point, and the power cap: `OperatingPointSteps`; `PowerLimit`. -/
def Obligations.OperatingPoints : Prop :=
  Claim.OperatingPointSteps ∧ Claim.PowerLimit

/-- Posted errors and consumption records: `PostedErrors`; `ConsumptionRecords`. -/
def Obligations.ErrorsAndRecords : Prop :=
  Claim.PostedErrors ∧ Claim.ConsumptionRecords

/-- Decisions on frozen clusters, and proof kernels: `FreezeDecisions`; `ProofKernels`. -/
def Obligations.FreezesAndProofs : Prop :=
  Claim.FreezeDecisions ∧ Claim.ProofKernels

/-! ### Squads and streams (R120, R155, R159 to R161, R180 to R198, R239, R310) -/

/-- R180, R182, R156: the waiting entries are tried in order; before each a saved squad of its level or a higher one is restored, if
some core can take it; else the first entry that some core can take starts there; an entry of age 65,536 reserves a core. -/
def Sys2Proof.Claim.Placement : Prop :=
  (∀ (d : BitVec 2) (s : State),
    let es := s.waitingEntries d.toNat
    let passed (es : List PoolEntry) : Prop := ∀ e ∈ es, s.restoreLevel d.toNat e.inst.region.prio = none ∧ s.placeFor e.inst d.toNat = none
    (∀ pre e post s1, es = pre ++ e :: post → passed pre → s.restoreLevel d.toNat e.inst.region.prio = some s1 →
      exec (.placeInstance d) s = .next s1) ∧
    (∀ pre e post c ws b, es = pre ++ e :: post → passed pre → s.restoreLevel d.toNat e.inst.region.prio = none →
      s.placeFor e.inst d.toNat = some (c, ws, b) → exec (.placeInstance d) s = .next ((s.takeEntry d.toNat e).start e.inst c ws b)) ∧
    (passed es → exec (.placeInstance d) s = .next ((s.restoreLevel d.toNat 0).getD s))) ∧
  (∀ (d : BitVec 2) (s : State) (e : PoolEntry) (r : List PoolEntry) (c : Nat), s.waitingEntries d.toNat = e :: r →
    (∀ i, i < 48 → (s.core (48 * d.toNat + i)).reserved ≠ some e.inst.key) → e.since + 65536 ≤ s.cycle →
    (s.coreOrder e.inst d.toNat).find? (s.couldFit e.inst) = some c →
    exec (.dispatchAgeReserve d) s = .next (s.updCore c fun x => { x with reserved := some e.inst.key }))

/-- R120, R155, R159 to R161, R170, R179: an instance that has ended, its stores through windows too, leaves its core and its node,
whose counter it leaves at its core; a false start of a resident squad that has exhausted something, of a splittable instance, aborts it
and queues its halves, counted at their die before the parent leaves (R162); one whose allowance is used up takes its exhaustion in its
first stream, once that has formed its next PC. -/
def Sys2Proof.Claim.InstancesEnd : Prop :=
  (∀ (k : Nat) (s : State) (q : Squad), s.squad? k = some q → q.waves.all (·.ended) = true → (∀ c ∈ s.cmds, c.who.sid ≠ k) →
    (∀ m ∈ (s.core q.core).mq, m.who.sid ≠ k) → (∀ w ∈ s.fab.window, w.store = true → w.who.sid ≠ k) →
    exec (.instanceEnd k) s = .next
      (((((s.flushSquad q).leaveCore q).removeSquad k).charge q).leaveNode q.inst.node (.core q.core) q.core)) ∧
  (∀ (k : Nat) (cause : Exhausted) (s : State) (q : Squad) (ax : Nat), s.squad? k = some q → q.exhausted = some cause →
    q.place = .resident → q.inst.pinned = false →
    let i := q.splitInst
    i.splittable = true → i.splitAxis = some ax →
    let s0 := s.updSquad k fun q => { q with exhausted := none }
    let s1 := (((s0.countNode i.node (.die i.die) 2).abort q).countFalseStart i).bump 5 (Exhausted.bin cause)
    exec (.falseStart k cause) s = .next (((s1.updNode i.node fun n => { n with count := n.count.sub (.core q.core) 1 }).queueHalf
      (i.half ax false)).queueHalf (i.half ax true))) ∧
  (∀ (k : Nat) (cause : Exhausted) (s : State) (q : Squad), s.squad? k = some q → q.exhausted ≠ some cause ∨ q.place ≠ .resident →
    exec (.falseStart k cause) s = .next s) ∧
  (∀ (k : Nat) (s : State) (q : Squad) (x : StreamId), s.squad? k = some q → q.left = 0 → q.place = .resident → q.firstStream = some x →
    exec (.allowanceExpired k) s = .next (s.at x fun s =>
      if s.st.trap.hmode = false ∧ s.sq.splitInst.pinned = false ∧ s.sq.splitInst.splittable = true
      then ({ s with sq := { s.sq with exhausted := some .time } } : State).due (.falseStart s.sq.sid .time)
      else if s.st.skip = true then { s with sq := { s.sq with overtime := some x.widx, overdue := true } }
      else { s.exhaust .time 0 with sq := { (s.exhaust .time 0).sq with overtime := some x.widx } })) ∧
  (∀ (k : Nat) (s : State) (q : Squad), s.squad? k = some q → q.left ≠ 0 → exec (.allowanceExpired k) s = .next s)

/-- R193 to R198: a squad that may be saved is saved in shadow SRAM, in its die's save area where that lacks room, and else waits, the
supervisor told; one that is saved is restored on a core of its die that can take it; a swap of two partitions of one core set saves
OUT at once, and ends when nothing of it is resident. -/
def Sys2Proof.Claim.SavesAndSwaps : Prop :=
  (∀ (k : Nat) (s : State) (q : Squad), s.squad? k = some q → s.saveable q = true → s.parkWaits q = false →
    let sram := s.savedBytes (dieOfCore q.core) Place.inSram + s.imageSize q
    let hbm := s.savedBytes (dieOfCore q.core) Place.inHbm + s.imageSize q
    (sram ≤ 33554432 → exec (.squadSave k true) s = .next (s.save q .shadowSram)) ∧
    (33554432 < sram → hbm ≤ (s.die (dieOfCore q.core)).saveSize → exec (.squadSave k true) s = .next (s.save q .hbmArea)) ∧
    (33554432 < sram → (s.die (dieOfCore q.core)).saveSize < hbm → exec (.squadSave k true) s = .next
      (if q.told then s else (s.updSquad q.sid fun q => { q with told := true }).note (.unplaced q.sid)))) ∧
  (∀ (k : Nat) (c : BitVec 8) (s : State) (q : Squad) (ws : List (Nat × Nat × Nat)), s.squad? k = some q → s.restorable q = true →
    s.restoreFit q c.toNat = some ws → exec (.squadRestore k c) s = .next (s.restore q c.toNat ws)) ∧
  (∀ (v : W64) (s : State), v.toNat < 512 → v.getLsbD 8 = true → s.sched.swap = none → s.power.stepping = false →
    bits v 3 0 ≠ bits v 7 4 → s.part (bits v 3 0) 0x20 = s.part (bits v 7 4) 0x20 →
    exec (.partitionSwap v true) s = .next ((({ s with sched := { s.sched with swap := some (bits v 3 0, bits v 7 4) } }).setReg Mmio.swapctl
      ((v &&& 0xFF) ||| 0x80000000)).swapSaves (bits v 3 0))) ∧
  (∀ (v : W64) (s : State), v.toNat < 512 → v.getLsbD 8 = true → s.sched.swap ≠ none ∨ s.power.stepping = true →
    exec (.partitionSwap v true) s = .next { s with sched := { s.sched with swapHeld := some v } }) ∧
  (∀ (s : State) (o i : Nat), s.sched.swap = some (o, i) →
    let s1 := s.swapSaves o
    (∀ q ∈ s1.everySquad, q.part = o → q.place ≠ .resident) →
    let s2 := (s1.setQueues o 1 2).setQueues i 2 1
    let back := s2.everySquad.filter fun q => q.part == i && (q.place == .shadowSram || q.place == .hbmArea)
    let s3 := back.foldl (fun s q => (s.restoreAnywhere q).getD s) s2
    exec .swapDone s = .next ((({ s3 with sched := { s3.sched with
      swap := none, swappedOut := addNats (dropNats s3.sched.swappedOut [i]) [o] } }).setReg Mmio.swapctl
      (s3.reg Mmio.swapctl &&& 0xFF)).nextSwap))

/-- R94, R126, R239, R260, R312, R313: each wait ends on its own event, in the stream that it names: a barrier's when its generation
has changed, as an acquire where it was one, WAITA's on a write or a poll, which read the word anew, NAP's at its time, PBAR's when its pushes have reached their scope; a response
delivers the oldest tracked result that has landed. -/
def Sys2Proof.Claim.WaitsEnd : Prop :=
  ∀ (who : StreamId) (s : State),
    exec (.barrierWake who) s = .next (s.at who fun s => match s.st.wait with
      | .barrier c off gen acq => match s.stripeOwner s.sq.part c (off / 32768) with
        | some r => if barGen (word64 (s.spBytes r.2 off 8)) = gen then s
            else
              let s1 := if acq then s.selfInvalidate s.sq.core else s
              { s1 with st := { s1.st with wait := .none, readyAt := max s1.st.readyAt (s1.cycle + 14) } }
        | none => s
      | _ => s) ∧
    exec (.waitaResume who) s = .next (s.at who fun s => if Wait.isWaita s.st.wait
      then
        let t := s.dropWaited s.st.wait
        { t with st := { t.st with wait := .blocked, readyAt := max t.st.readyAt (t.cycle + 30) } }
      else s) ∧
    (∀ pa, s.has who = true → (s.focus who).st.wait = .waitMem pa → exec (.waitaPoll who) s = .next
      (let s1 := (s.focus who).dropCopy (s.focus who).sq.core pa
       let s2 : State := { s1 with st := { s1.st with wait := .blocked, readyAt := max s1.st.readyAt s1.cycle } }
       s2.focusIn s2.everySquad s.me)) ∧
    exec (.napEnd who) s = .next (s.at who fun s => if s.st.wait = .nap 0
      then { s with st := { s.st with wait := .none, readyAt := max s.st.readyAt s.cycle } } else s) ∧
    exec (.memoryResponseReturn who) s = .next (s.at who fun s => match (s.wv.tracked.filter fun e => e.2.1 == s.st.fid && decide (e.2.2 ≤ s.cycle)).getLast? with
      | some e => { s with wv := { s.wv with tracked := s.wv.tracked.filter fun y => decide (y ≠ e) } }
      | none => s) ∧
    exec (.pbarComplete who) s = .next (s.at who fun s => match s.st.wait with
      | .pbar scope stall => if s.reached scope then
          { s with st := { s.st with wait := .none, pc := s.st.npc, readyAt := s.cycle + max 1 stall, issued := s.st.issued + max 1 stall } } else s
      | _ => s)

/-- R186, R190 to R192, R310: an unblocked pending stream enters a quadrant's active set where there is room, or in the place of
another where its counter has reached 64 and is above those of the active ready streams, or where it is the oldest and one of them has
long to wait; a lap boundary carries over what exceeds each
budget; timed actions fire at their time; a combined line is sent; a window starts the hot lines anew. -/
def Sys2Proof.Claim.TimeAndWindows : Prop :=
  (∀ (who : StreamId) (s : State) (e : Resident), s.resident? who = some e → e.strm.active = false → s.unblockedNow e = true →
    (s.activeCount e.sq.core e.wv.quad < 8 ∨ (64 ≤ e.strm.lap ∧ ∀ a ∈ s.quadStreams e.sq.core e.wv.quad, a.isActive = true →
      s.residentReady a = true → a.strm.lap < e.strm.lap) ∨
      ((∃ o, s.oldestPending e.sq.core e.wv.quad = some o ∧ o.who = e.who) ∧
        ∃ a ∈ s.quadStreams e.sq.core e.wv.quad, a.isActive = true ∧ s.longWait a = true)) →
    let out := s.evictee e.sq.core e.wv.quad
    exec (.streamExchange who) s = .next (s.mapStreams fun q w x =>
      if { sid := q.sid, widx := w.widx, fid := x.fid } = who then { x with active := true, readyAt := max x.readyAt (s.cycle + 2) }
      else if some { sid := q.sid, widx := w.widx, fid := x.fid } = out then { x with active := false } else x)) ∧
  (∀ (s : State) (c quad : Nat), s.activeCount c quad < 8 → s.evictee c quad = none) ∧
  (∀ (s : State), (s.gtb.toNat / 2 ^ s.lapLog = s.lap → exec .lapBoundary s = .next s) ∧
    (s.gtb.toNat / 2 ^ s.lapLog ≠ s.lap → s.cmds = [] → s.fab.windowWait = [] → ∃ t, exec .lapBoundary s = .next t ∧
      t.spent = (s.spent.map fun e => (e.1, match s.budget e.1 with
        | some b => e.2 - b * (s.gtb.toNat / 2 ^ s.lapLog - s.lap)
        | none => 0)).filter (fun e => e.2 != 0) ∧
      t.lapLog = bits (s.reg Mmio.lapcfg) 4 0 ∧ t.lap = s.gtb.toNat / 2 ^ t.lapLog ∧ t.wv = s.wv ∧ t.st = s.st ∧ t.mem = s.mem)) ∧
  (∀ (s : State), (∀ c ∈ s.cmds, c.lost = false) → ∃ t, exec .timedActionFire s = .next t ∧ t.mem = s.mem ∧ t.mmio = s.mmio ∧
    (∀ k, (t.core k).timers = (s.core k).timers.filter fun x => decide (s.gtb.toNat < x.time.toNat)) ∧
    t.cmds.map (fun c => (c.id, c.phase)) = s.cmds.map fun c => (c.id,
      if c.phase = .armed then
        if (s.cores.any fun e => e.2.timers.any fun x => x.cmd == c.id && decide (x.time.toNat ≤ s.gtb.toNat)) = true then .queued
        else if c.op = 0x151 ∧ (dval c.d 4).toNat ≤ s.gtb.toNat then .running else .armed
      else c.phase)) ∧
  (∀ (d : BitVec 2) (pa : W64) (s : State), exec (.redCombineFlush d pa) s = .next (s.flushRed d.toNat fun l => l.line == lineOf pa.toNat)) ∧
  (∀ (d : BitVec 2) (s : State), ∃ t, exec (.contentionWindow d) s = .next t ∧
    (t.die d.toNat).redHot = ((s.die d.toNat).redCount.filter fun e => 16 ≤ e.2).map (·.1) ∧ (t.die d.toNat).redCount = [] ∧
    (∀ k, k ≠ d.toNat → t.die k = s.die k) ∧ t.mem = s.mem ∧ t.wv = s.wv ∧ t.st = s.st)

/-- Placement of squads, and the end of instances: `Placement`; `InstancesEnd`. -/
def Obligations.PlacementAndEnds : Prop :=
  Claim.Placement ∧ Claim.InstancesEnd

/-- Saving and swapping squads, ends of waits, laps and windows: `SavesAndSwaps`; `WaitsEnd`; `TimeAndWindows`. -/
def Obligations.SwapsWaitsAndTime : Prop :=
  Claim.SavesAndSwaps ∧ Claim.WaitsEnd ∧ Claim.TimeAndWindows

/-! ### Memory, the host port, launching (R66, R79 to R84, R89, R90, R119, R149 to R181, R379 to R383) -/

/-- R78, R80 to R84: an error of one symbol is corrected and counted, one of two poisons both sectors of the pair, with its record;
a tag that cannot be evaluated poisons its sector, one that does not match fails its key; a clean read leaves everything alone. That the
records of a scrub name path core, and what a scrub does about an uncorrectable error, are the model's choice (log 103). -/
def Sys2Proof.Claim.SectorReadsAndScrubbing : Prop :=
  (∀ (pa : W64) (tag : TagResult) (c : BitVec 4) (s : State), (homeDie pa.toNat).isSome = true → (s.l2Line (lineOf pa.toNat)).dirty = false →
    let a := pa.toNat
    let k := s.secKey.getD (fun _ => 0) (sectorOf a) % 4096
    let read (n : Nat) : Host.Outcome State Fault Refusal := exec (.memctlSectorRead pa ⟨n, c⟩ tag false) s
    (((s.key k).integ = false ∨ s.zeroBlock a = true) → read 0 = .next s ∧ read 1 = .next (s.countCorrected a c.toNat)) ∧
    (read 2 = .next (s.mediaError [2 * lineOf a, 2 * lineOf a + 1] a c.toNat)) ∧
    ((s.key k).integ = true → s.zeroBlock a = false →
      (tag = .agrees → read 0 = .next s ∧ read 1 = .next (s.countCorrected a c.toNat)) ∧
      (tag = .unevaluable → read 0 = .next (s.mediaError [sectorOf a] a c.toNat) ∧
        read 1 = .next ((s.countCorrected a c.toNat).mediaError [sectorOf a] a c.toNat)) ∧
      (tag = .mismatch → ∃ t, read 0 = .next t ∧ t.core = (s.keyFails k a c.toNat).core ∧ t.key = (s.keyFails k a c.toNat).key ∧
        t.log = (s.keyFails k a c.toNat).log)) ∧
    (isScm a = false → ∀ n, exec (.memctlSectorRead pa ⟨n, c⟩ tag true) s =
      .next (s.mediaError ((List.range 4).map (a / 256 * 4 + ·)) a c.toNat))) ∧
  (∀ (pa : W64) (s : State) (d : Nat), homeDie pa.toNat = some d →
    (isScm pa.toNat = false → exec (.scrubLine pa 0) s = .next s ∧ exec (.scrubLine pa 1) s = .next (s.countCorrected pa.toNat PathCode.core) ∧
      ((s.l2Line (lineOf pa.toNat)).dirty = false → exec (.scrubLine pa 2) s =
        .next (s.mediaError [2 * lineOf pa.toNat, 2 * lineOf pa.toNat + 1] pa.toNat PathCode.core))) ∧
    (isScm pa.toNat = true →
      (s.mayStart (.owqDrain d) = false → ∀ n, exec (.scrubLine pa n) s = .next s) ∧
      (s.mayStart (.owqDrain d) = true → exec (.scrubLine pa 0) s = .next (s.spend (.owqDrain d) 128))))

/-- R66, R89, R90: an eviction sends a dirty line out, a P line into its home's OWQ, and empties its place; the drain writes an OWQ's
oldest entry to the media within its budget, in the order in which they entered. -/
def Sys2Proof.Claim.EvictionAndDrain : Prop :=
  (∀ (pa : W64) (s : State),
    let l := lineOf pa.toNat
    ((s.l2Line l).held = false → exec (.l2Eviction pa) s = .next s) ∧
    ((s.l2Line l).held = true → ∃ t, exec (.l2Eviction pa) s = .next t ∧ t.l2Line l = L2Line.absent ∧
      t = ((s.evictLine l).invalidateL1 l none).setL2 l L2Line.absent ∧
      ((s.l2Line l).dirty = true → (s.l2Line l).p = false → s.evictLine l = s.writeBack l) ∧
      (∀ d, (s.l2Line l).dirty = true → (s.l2Line l).p = true → homeDie (128 * l) = some d →
        s.evictLine l = (s.acceptLine d l).cleanL2 l))) ∧
  (∀ (d : BitVec 2) (bad : Bool) (s : State) (e : OwqEntry) (r : List OwqEntry), (s.die d.toNat).owq = e :: r →
    (s.admin.holdup = false → s.mayStart (.owqDrain d.toNat) = false →
      exec (.owqDrainEntry d bad) s = .next (s.updDie d.toNat fun x => { x with owqHeld := true })) ∧
    (s.admin.holdup = false → s.mayStart (.owqDrain d.toNat) = true → exec (.owqDrainEntry d bad) s =
      .next (((s.spend (.owqDrain d.toNat) 128).updDie d.toNat fun x => { x with owq := r, owqDrained := e.seq, owqHeld := false }).drainEntry e bad)) ∧
    (s.admin.holdup = true → exec (.owqDrainEntry d bad) s =
      .next ((s.updDie d.toNat fun x => { x with owq := r, owqDrained := e.seq, owqHeld := false }).drainEntry e bad)))

/-- R119, R379, R382, R383: the host's accesses to device memory, the snoop of a host line, and a queue pair's descriptor. -/
def Sys2Proof.Claim.HostPort : Prop :=
  (∀ (p : BitVec 4) (off : BitVec 39) (n : Nat) (req : BitVec 16) (s : State),
    (s.vfBound p.toNat = false → exec (.hostBar2Read p off n req) s =
      .next { s with hostOut := s.hostOut ++ [HostOut.completion (List.replicate n 0xFF)] }) ∧
    (s.vfBound p.toNat = true → s.bar2Serves p.toNat off.toNat n = false → exec (.hostBar2Read p off n req) s =
      .next (({ s with hostOut := s.hostOut ++ [HostOut.unsupported] } : State).note (.notice 382 (BitVec.ofNat 64 (2 ^ 40 * p.toNat + off.toNat))))) ∧
    (s.vfBound p.toNat = true → s.bar2Serves p.toNat off.toNat n = true →
      (s.isDrive p.toNat req.toNat = false → s.mayStart .hostDma = false → exec (.hostBar2Read p off n req) s = .next s) ∧
      (s.isDrive p.toNat req.toNat = true ∨ s.mayStart .hostDma = true →
        let s0 := if s.isDrive p.toNat req.toNat then s else s.spend .hostDma n
        let s1 := s0.touch (s.bar2Key p.toNat) 0 false false (linesAt off.toNat n)
        ((∃ i, i < n ∧ s.isBad (off.toNat + i) = true) → exec (.hostBar2Read p off n req) s =
          .next (({ s1 with hostOut := s1.hostOut ++ [HostOut.aborted] } : State).memoryRecord MemCause.media off.toNat (s.bar2Key p.toNat)
            (if s.isDrive p.toNat req.toNat then PathCode.nvme else PathCode.host))) ∧
        ((∀ i, i < n → s.isBad (off.toNat + i) = false ∧ s.violates (s.bar2Key p.toNat) (off.toNat + i) = false) →
          exec (.hostBar2Read p off n req) s = .next { s1 with hostOut := s1.hostOut ++
            [HostOut.completion ((List.range n).map fun i => s.readHome (s.bar2Key p.toNat) (off.toNat + i))] })))) ∧
  (∀ (p : BitVec 4) (off : BitVec 39) (bs : List W8) (req : BitVec 16) (s : State),
    (s.vfBound p.toNat = false → exec (.hostBar2Write p off bs req) s = .next s) ∧
    (s.vfBound p.toNat = true → s.bar2Serves p.toNat off.toNat bs.length = true →
      s.isDrive p.toNat req.toNat = true ∨ s.mayStart .hostDma = true →
      (∀ i, i < bs.length → s.violates (s.bar2Key p.toNat) (off.toNat + i) = true →
        sectorOf (off.toNat + i) ∈ coveredSectors ((List.range bs.length).map (off.toNat + ·))) →
      exec (.hostBar2Write p off bs req) s = .next ((if s.isDrive p.toNat req.toNat then s else s.spend .hostDma bs.length).writeAt
        (s.bar2Under p.toNat) off.toNat bs))) ∧
  (∀ (pa : W64) (s : State), backing s.pkg pa.toNat = .host → ∃ t, exec (.cxlSnoop pa) s = .next t ∧
    (∀ d, (t.die d).rdc = (s.die d).rdc.filter fun c => c.line != lineOf pa.toNat) ∧
    (∀ c, (t.core c).l1 = (s.core c).l1.filter fun c => c.line != lineOf pa.toNat) ∧ t.mem = s.mem ∧ t.wv = s.wv ∧ t.st = s.st) ∧
  (∀ (pa : W64) (n : Nat) (s : State), s.cxl = true → 0 < n →
    (within s.admin.cxlWindow.1 s.admin.cxlWindow.2 pa.toNat n = false → exec (.hostCxlMemAccess pa none n) s =
      .next { s with hostOut := s.hostOut ++ [HostOut.unsupported] }) ∧
    (within s.admin.cxlWindow.1 s.admin.cxlWindow.2 pa.toNat n = true →
      (∀ i, i < n → s.isBad (pa.toNat + i) = false ∧ s.violates 0 (pa.toNat + i) = false) →
      let s1 := s.touch 0 0 false false (linesAt pa.toNat n)
      exec (.hostCxlMemAccess pa none n) s = .next { s1 with
        hostOut := s1.hostOut ++ [HostOut.completion ((List.range n).map fun i => s.readHome 0 (pa.toNat + i))],
        hostLines := addNats s1.hostLines (linesAt pa.toNat n) })) ∧
  (∀ (pa : W64) (bs : List W8) (n : Nat) (s : State), s.cxl = true → bs ≠ [] → within s.admin.cxlWindow.1 s.admin.cxlWindow.2 pa.toNat bs.length = true →
    let s1 := ({ s with hostLines := dropNats s.hostLines (linesAt pa.toNat bs.length) } : State).writeAt Under.device pa.toNat bs
    exec (.hostCxlMemAccess pa (some bs) n) s = .next { s1 with hostLines := addNats s1.hostLines (linesAt pa.toNat bs.length) }) ∧
  (∀ (q : BitVec 10) (off : BitVec 6) (v : W64) (s : State), off.toNat % 8 = 0 → off ≠ 0 → clearOf v (nvmeMask off.toNat) = true →
    (off = 0x18 → bits v 11 0 ≠ 0 ∧ bits v 27 16 ≠ 0) → (s.reg (Mmio.nvme q.toNat)).getLsbD 4 = false →
    exec (.nvmeQueuePairWrite q off v true) s = .next (s.setReg (Mmio.nvme q.toNat + off.toNat) v)) ∧
  (∀ (q : BitVec 10) (v : W64) (s : State), clearOf v (nvmeMask 0) = true → v.getLsbD 4 = true →
    (s.reg (Mmio.nvme q.toNat)).getLsbD 4 = false →
    exec (.nvmeQueuePairWrite q 0 v true) s = .next ((s.setReg (Mmio.nvme q.toNat) v).setQp q.toNat Qp.reset)) ∧
  (∀ (q : BitVec 10) (off : BitVec 6) (v : W64) (s : State), exec (.nvmeQueuePairWrite q off v false) s =
    .next (s.drop (Mmio.nvme q.toNat + off.toNat)))

/-- R174, R381: a doorbell in range moves its queue's WRIDX, or brings the packet of the index that it takes; any other is
dropped with its record; a packet that waits in the hub is enqueued in its turn. -/
def Sys2Proof.Claim.Doorbells : Prop :=
  ∀ (p : BitVec 4) (q : BitVec 10) (s : State),
    (∀ v x, s.vfBound p.toNat = true → s.queue? p.toNat q.toNat = some x → x.usable = true → v.toNat < 2 ^ 32 →
      (v.toNat + 2 ^ 32 - x.rd) % 2 ^ 32 ≤ x.slots → (v.toNat + 2 ^ 32 - x.wr) % 2 ^ 32 < 2 ^ 31 →
      exec (.doorbellWridx p q v) s = .next (s.putWr p.toNat x v.toNat)) ∧
    (∀ v, s.vfBound p.toNat = false → exec (.doorbellWridx p q v) s = .next s) ∧
    (∀ v, s.vfBound p.toNat = true → s.queue? p.toNat q.toNat = none → exec (.doorbellWridx p q v) s = .next (s.hostError 381 p.toNat q.toNat)) ∧
    (∀ pkt x, s.vfBound p.toNat = true → s.queue? p.toNat q.toNat = some x → x.usable = true → pkt.length = 64 →
      exec (.doorbellInline p q pkt) s = .next (({ s with sched := { s.sched with
        inlines := s.sched.inlines ++ [(p.toNat, q.toNat, x.wr, pkt)] } }).putWr p.toNat x (x.wr + 1))) ∧
    (s.sched.enq = [] → exec .enqueueBufferDrain s = .next s) ∧
    (∀ e r st s1, s.sched.enq = e :: r → s.enqueue e.part e.handle e.packet = .done st s1 →
      exec .enqueueBufferDrain s = .next (({ s1 with sched := { s1.sched with enq := r } }).enqDone e st))

/-- R155, R175 to R181: a packet of an ACTIVE queue is consumed, with what is left of one admitted first; the coordinator moves
the next instance of the highest level into its die's pool, in the pieces that it is pre-split into (the pieces that find no entry there
enter as halves do: the model's choice, log 111); spilled entries return to it. -/
def Sys2Proof.Claim.LaunchingAndSelection : Prop :=
  (∀ (p : BitVec 4) (q : BitVec 10) (s : State) (x : QueueDesc), s.queue? p.toNat q.toNat = some x → x.state = 1 → x.size < 13 →
    let s1 := s.reserveNodes
    (∀ a, (s1.sched.admitting.find? fun a => a.part == p.toNat && a.queue == q.toNat) = some a → exec (.launchPacketConsume p q) s =
      .next (({ s1 with sched := { s1.sched with admitting := s1.sched.admitting.filter fun b => b.launch != a.launch } }).acceptItem a a.records)) ∧
    (∀ pkt, (∀ a ∈ s1.sched.admitting, ¬(a.part = p.toNat ∧ a.queue = q.toNat)) → x.held ≠ 0 → s1.sched.inlines = [] →
      s1.deviceRead p.toNat (x.ring + 64 * (x.rd % x.slots)) 64 = some pkt →
      exec (.launchPacketConsume p q) s = .next ((s1.putRd p.toNat x (x.rd + 1)).consumePacket p.toNat q.toNat pkt))) ∧
  (∀ (s : State), s.eligible = [] → exec .coordinatorSelect s = .next s.dropCredit) ∧
  (∀ (s s1 : State) (f : FlowId) (n : Node), s.eligible ≠ [] →
    let top := (s.eligible.map fun n => n.root.region.prio).foldl max 0
    s.serveLevel (flowsOf (s.eligible.filter fun n => n.root.region.prio == top)) top = some (f, s1) →
    (s.eligible.find? fun n => flowOf n.root == f) = some n →
    let l := s.fitted n.root
    let d := n.root.die
    (s.die d).openUsed < poolSize - poolKept → (s.die d).spill = [] → (s.die d).late = [] →
    exec .coordinatorSelect s = .next ((l.foldl (fun s i => s.enterPiece d i)
      (((s1.updNode n.id fun x => { x with waiting := false }).moveCount n.id .package (.die d)).notePresplit n.id d l.length)).dropCredit)) ∧
  (∀ (s : State) (d : Nat) (i : Instance),
    ((s.die d).openUsed < poolSize - poolKept → (s.die d).spill = [] → (s.die d).late = [] → s.enterPiece d i = s.updDie d fun x =>
      { x with pool := x.pool ++ [{ inst := i, since := s.cycle, kept := false }] }) ∧
    (poolSize - poolKept ≤ (s.die d).openUsed ∨ (s.die d).spill ≠ [] ∨ (s.die d).late ≠ [] → s.enterPiece d i = s.queueHalf i)) ∧
  (∀ (d : BitVec 2) (s : State),
    let x := s.die d.toNat
    (∀ e i, x.spill = [e] → x.late = [] → s.fitted e.inst = [i] → x.keptUsed < poolKept ∨ x.openUsed < poolSize - poolKept → ∃ t, exec (.spillRefill d) s = .next t ∧
      (t.die d.toNat).spill = [] ∧ (t.die d.toNat).pool = x.pool ++ [{ e with inst := i, kept := decide (x.keptUsed < poolKept) }]) ∧
    (poolKept ≤ x.keptUsed → poolSize - poolKept ≤ x.openUsed → x.late = [] → exec (.spillRefill d) s = .next s) ∧
    (∀ i r s1, x.spill = [] → x.late = i :: r → (s.updDie d.toNat fun x => { x with late := r }).queueHalf? i = some s1 →
      exec (.spillRefill d) s = .next s1))

/-- Media errors, scrubbing, eviction and the OWQ's drain: `SectorReadsAndScrubbing`; `EvictionAndDrain`. -/
def Obligations.MemoryDeviceEvents : Prop :=
  Claim.SectorReadsAndScrubbing ∧ Claim.EvictionAndDrain

/-- The host port, doorbells, launching and selection: `HostPort`; `Doorbells`; `LaunchingAndSelection`. -/
def Obligations.HostAndLaunching : Prop :=
  Claim.HostPort ∧ Claim.Doorbells ∧ Claim.LaunchingAndSelection

/-! ### Services: mailboxes, service calls, the loss of input power, the boot (R96 to R98, R267, R376, R408 to R414) -/

/-- R408 to R412, R414: a request of an open mailbox of the physical function that has none in progress is carried out and answered with
OK, or with its failure; a device that has failed to boot creates no partition; the layouts of arguments and responses are the model's (log 18). -/
def Sys2Proof.Claim.MailboxRequests : Prop :=
  ∀ (s : State) (tag : BitVec 16) (args : List W8), s.boxOpen 0 = true → (s.box 0).busy = false → args.length ≤ 2040 → s.admin.failed ≠ some 1 →
    (∃ data, exec (.mailboxGetinfo 0 tag args) s = .next (s.respondBox 0 tag BoxStatus.ok data)) ∧
    (args.length = 32 → exec (.mailboxAttest 0 tag args) s =
      .next (s.respondBox 0 tag BoxStatus.ok (s.attestation 0 args ++ Config.identitySign (s.attestation 0 args) ++ Config.identityCertificate))) ∧
    (∀ n : W8, n.toNat ≤ 4 → args = [n] → ∃ t, exec (.mailboxSetop 0 tag args) s = .next t ∧
      t = (((s.setPower fun p => { p with bound := n.toNat }).requestStep n.toNat).respondBox 0 tag BoxStatus.ok [])) ∧
    (∀ s1, s.putCap (leNat (args.take 2)) = some s1 → exec (.mailboxSetcap 0 tag args) s = .next (s1.respondBox 0 tag BoxStatus.ok [])) ∧
    (s.putCap (leNat (args.take 2)) = none →
      exec (.mailboxSetcap 0 tag args) s = .next ((s.ignore Mmio.pwrcap).respondBox 0 tag BoxStatus.badcmd [])) ∧
    (∀ k : W8, 1 ≤ k.toNat → k.toNat ≤ 8 → args = [k] → exec (.mailboxHist 0 tag args) s = .next (s.respondBox 0 tag BoxStatus.ok
      (leBytes 4 k.toNat ++ leBytes 4 (sectionBins k.toNat) ++
        ((List.range (sectionBins k.toNat)).map fun i => Tab.getD s.admin.histWritten (fun _ => 0) (65536 * k.toNat + i)).flatMap (leBytes 8)))) ∧
    (∀ p : W8, ∀ rest, 16 ≤ p.toNat → args = p :: rest →
      exec (.partcfg 0 tag args) s = .next (s.respondBox 0 tag BoxStatus.badcmd [])) ∧
    (∀ p : W8, ∀ rest, s.admin.failed = none → p.toNat < 16 → args = p :: rest → ∃ t, exec (.partcfg 0 tag args) s = .next t ∧
      t.admin.bound = addNats s.admin.bound [p.toNat]) ∧
    (s.admin.failed.isSome = true → exec (.partcfg 0 tag args) s = .next (s.respondBox 0 tag BoxStatus.badcmd []))

/-- R376, R409: the inactive slot takes staged bytes; it becomes the active one, and the counter rises to its security version,
only where its image's signature verifies under its key, the key's digest is the fused one and its version is not below the counter; a proof kernel is loaded under the same test. -/
def Sys2Proof.Claim.FirmwareImages : Prop :=
  ∀ (s : State) (tag : BitVec 16) (args : List W8), s.boxOpen 0 = true → (s.box 0).busy = false → args.length ≤ 2040 →
    (∃ t, exec (.fwstage 0 tag args) s = .next t ∧ t.admin.active = s.admin.active ∧ t.admin.counter = s.admin.counter ∧
      t.admin.slots = s.admin.slots.set (1 - s.admin.active) (((s.admin.slots.getD (1 - s.admin.active) []).take (leNat (args.take 4))) ++
        List.replicate (leNat (args.take 4) - ((s.admin.slots.getD (1 - s.admin.active) []).take (leNat (args.take 4))).length) 0 ++
          args.drop 8)) ∧
    (let img := s.admin.slots.getD (1 - s.admin.active) []
     exec (.fwcommit 0 tag args) s = .next (
       if s.admin.staged = true ∧ s.accepts img = true then
         (s.setAdmin fun a => { a with active := 1 - a.active, staged := false, counter := Config.imageVersion img }).respondBox 0 tag BoxStatus.ok []
       else s.respondBox 0 tag BoxStatus.verify [])) ∧
    (s.admin.failed ≠ some 1 → ∃ t, exec (.proofload 0 tag args) s = .next t ∧ t.admin.kernels =
      if s.accepts (args.drop 4) = true then
        (s.admin.kernels.filter fun k => k.id != leNat (args.take 4)) ++ [{ id := leNat (args.take 4), image := args.drop 4 }]
      else s.admin.kernels) ∧
    (∀ image, s.accepts image = true ↔ Config.signatureVerifies (Config.imageKey image) (sha256 (Config.imageBody image)) (Config.imageSignature image) = true ∧
      sha256 (Config.imageKey image) = Config.fusedKeyHash ∧ s.admin.counter ≤ Config.imageVersion image)

/-- R267, R413: the oldest unanswered call of a die whose code is one of a service's has its reply computed; SVC_REPLY answers the
die's oldest call, and DST of its stream, which waits for it, is written; a code without a service is answered with all ones. -/
def Sys2Proof.Claim.ServiceCalls : Prop :=
  ∀ (d : BitVec 2) (s : State),
    (∀ c, ((s.die d.toNat).svc.find? fun c => c.reply.isNone) = some c →
      let answer (t : State) (v : W64) : State := t.updDie d.toNat fun x =>
        { x with svc := x.svc.map fun e => if e.who = c.who ∧ e.reply = none then { e with reply := some v } else e }
      let part := ((s.squad? c.who.sid).map (·.part)).getD 0
      (∀ bs, c.code = 1 → c.arg.toNat < 2 ^ 55 → s.deviceRead part c.arg.toNat 64 = some bs →
        exec (.svcHostLog d) s = .next (answer (s.setAdmin fun a => { a with hostLog := a.hostLog ++ [(part, bs)] }) 0)) ∧
      (c.code = 2 → exec (.svcMailboxEvent d) s = .next (answer (s.setAdmin fun a =>
        { a with boxes := Tab.upd a.boxes (fun _ => Mailbox.reset) (part + 1) fun b => { b with events := b.events ++ [c.arg] } }) 0)) ∧
      (c.code = 3 → c.arg.toNat ≤ 4 → exec (.svcRequestOp d) s =
        .next (answer (s.requestStep (max s.power.bound c.arg.toNat)) (BitVec.ofNat 64 (max s.power.bound c.arg.toNat)))) ∧
      (c.code = 3 → 4 < c.arg.toNat → exec (.svcRequestOp d) s = .next (answer s (BitVec.allOnes 64))) ∧
      (c.code = 4 → 1 ≤ c.arg.toNat → c.arg.toNat ≤ 8 → exec (.svcReadCounter d) s =
        .next (answer s (BitVec.ofNat 64 ((List.range (sectionBins c.arg.toNat)).map fun i =>
          Tab.getD s.admin.histWritten (fun _ => 0) (65536 * c.arg.toNat + i)).sum)))) ∧
    (∀ c rest v, (s.die d.toNat).svc = c :: rest →
      (1 ≤ c.code.toNat ∧ c.code.toNat ≤ 4 ∧ c.reply = some v) ∨ ((c.code = 0 ∨ 4 < c.code.toNat) ∧ v = BitVec.allOnes 64) →
      exec (.svcReply d) s = .next ((s.updDie d.toNat fun x => { x with svc := rest }).at c.who fun s => match s.st.wait, s.st.trap.under with
        | .svc dst, _ => (s.writeS dst.toNat v).hold .none
        | _, .svc dst => { (s.writeS dst.toNat v) with st := { s.st with trap := { s.st.trap with under := .none } } }
        | _, _ => s))

/-- R96, R97, R414: each second the telemetry sections are written to the lifetime area of each die, those of droop and temperature grown by free
amounts (log 78), and each SCM stack's wear is logged (log 117); when input power is lost every core halts,
captures under way are spoiled for power, and no squad, command or page request goes on; the rails go off with HBM, caches and
registers, and SCM's bytes alone are kept, the metadata caches written back (log 122); then the sections (log 79), each die's drain record and the hub's shutdown record are written, and the device
resets with what the media hold. -/
def Sys2Proof.Claim.LossOfPower : Prop :=
  ∀ (s : State),
    (s.admin.telemetryAt + 10 ^ 9 ≤ s.gtb.toNat →
      exec .telemetryWrite s = .next (((List.range 4).flatMap fun d => (List.range 9).map fun k => (d, k + 1)).foldl
        (fun s e => s.putRecord (sectionAt e.1 e.2) (s.sectionBytes e.2))
        (s.logWear.sense.setAdmin fun a => { a with histWritten := a.hist, telemetryAt := s.gtb.toNat }))) ∧
    (s.gtb.toNat < s.admin.telemetryAt + 10 ^ 9 → exec .telemetryWrite s = .next s) ∧
    (s.admin.holdup = false → ∃ t, exec .inputPowerLoss s = .next t ∧ t.admin.holdup = true ∧ t.admin.lossAt = s.gtb.toNat ∧
      t.admin.histWritten = s.admin.hist ∧ t.cmds = [] ∧ t.recovery = none ∧ t.power.stepping = false ∧ t.mem = s.mem ∧ t.media = s.media ∧
      (∀ c, c < 192 → (t.core c).halt = true) ∧
      t.snaps = s.snaps.map fun e => (e.1, if e.2.state = 1 ∨ e.2.state = 2 then
        { e.2 with state := 4, cause := BitVec.ofNat 8 SpoilCause.power } else e.2)) ∧
    (s.admin.holdup = true → s.admin.off = false → ∃ t, exec .holdupRailsOff s = .next t ∧ t.admin.off = true ∧ t.squads = [] ∧
      t.l2 = [] ∧ t.mem = (s.mem.keep isScm) ∧ t.media = (s.metaFlush.media.keep isScm) ∧ t.mediaKeys = (s.mediaKeys.keep fun x => isScm (64 * x)) ∧
      (∀ d, (t.die d).owq = (s.die d).owq)) ∧
    (s.admin.holdup = true → s.admin.off = true → exec .drainRecordWrite s = .next
      (((List.range 4).foldl (fun s d => s.storeRecord (drainRecordAt d)
        (DrainRec.bytes { drained := (s.die d).owqDrained, accepted := (s.die d).owqLast, done := true })) s.storeSections).storeRecord
          shutdownRecordAt s.shutdownBytes)) ∧
    (s.admin.off = true → (∀ d, d < 4 → (s.readDrain d).done = true) → ∃ t, exec .fullReset s = .next t ∧ t.mem = s.metaFlush.media ∧ t.media = s.metaFlush.media ∧
      t.secKey = s.mediaKeys ∧ t.bad = s.mediaBad ∧ t.tags = s.mediaTags ∧
      t.admin.stage = 0 ∧ t.admin.holdup = false ∧ t.admin.off = false ∧ t.admin.slots = s.admin.slots ∧ t.admin.counter = s.admin.counter ∧
      t.admin.config = s.admin.config ∧ t.squads = [] ∧ t.mmio = State.reset.mmio)

/-- R408, R97: each boot stage runs after the one before it; where it fails the boot stops with its number. Stage 1 is the
verification of the active image, stage 2 sets OP1 and releases the cores, stage 3 the links and every byte of HBM, stage 4 judges the
drain and capture records, stage 5 the ports, stage 6 the partitions of the stored configuration. -/
def Sys2Proof.Claim.BootStages : Prop :=
  ∀ (s : State), s.admin.failed = none → s.admin.off = false →
    (s.admin.stage = 0 → exec .bootVerify s = .next (s.setAdmin fun a =>
      if s.accepts (a.slots.getD a.active []) = true then { a with stage := 1 } else { a with failed := some 1 })) ∧
    (∀ (mk : Bool → Instr) (n : Nat), (mk, n) ∈ [(Instr.bootReleaseCores, 2), (Instr.bootTrainLinks, 3),
        (Instr.bootReadRecords [], 4), (Instr.bootTrainPorts, 5)] → s.admin.stage + 1 = n →
      exec (mk false) s = .next (s.setAdmin fun a => { a with failed := some n })) ∧
    (s.admin.stage = 1 → ∃ t, exec (.bootReleaseCores true) s = .next t ∧ t.admin.stage = 2 ∧ t.power.point = 1 ∧ t.power.target = 1 ∧
      t.mem = s.mem) ∧
    (s.admin.stage = 2 → ∃ t, exec (.bootTrainLinks true) s = .next t ∧ t.admin.stage = 3 ∧ t.links = [] ∧ t.mem = s.mem.keep outsideHbm) ∧
    (∀ confirmed, s.admin.stage = 3 → ∃ t, exec (.bootReadRecords confirmed true) s = .next t ∧ t.admin.stage = 4 ∧
      t.admin.suspect = !((List.range 4).all fun d => (s.readDrain d).done && (s.readDrain d).drained == (s.readDrain d).accepted)) ∧
    (s.admin.stage = 4 → ∃ t, exec (.bootTrainPorts true) s = .next t ∧ t.admin.stage = 5 ∧ t.fab.synced = some s.gtb.toNat ∧
      t.fab.freeRun = false ∧ t.mem = s.mem) ∧
    (s.admin.stage = 5 → ∃ t, exec .bootCreatePartitions s = .next t ∧ t.admin.stage = 6 ∧
      t.admin.bound = addNats s.admin.bound (distinct (s.admin.config.map (·.1))) ∧ t.mem = s.mem)

/-- Mailboxes, firmware images and service calls: `MailboxRequests`; `FirmwareImages`; `ServiceCalls`. -/
def Obligations.MailboxesAndServices : Prop :=
  Claim.MailboxRequests ∧ Claim.FirmwareImages ∧ Claim.ServiceCalls

/-- Loss of input power, and the stages of the boot: `LossOfPower`; `BootStages`. -/
def Obligations.PowerLossAndBoot : Prop :=
  Claim.LossOfPower ∧ Claim.BootStages

/-! ### Snapshots, packets, recovery and die links (R139 to R148, R384 to R398) -/

/-- R139 to R142: the walk captures the open lines of its units within its budget, after what the combining buffers hold; a write's copy
captures its line in every set whose walk may capture it; the capture is DEVELOPED when every die has walked, FIXED when its log has
drained (no stripe here), and SPOILED by the supervisor's abort; DEVELOPED and FIXED are written to the capture records, whose CRC holds. -/
def Sys2Proof.Claim.CaptureStates : Prop :=
  (∀ (die : BitVec 2) (set : BitVec 6) (s : State),
    let q := set.toNat
    let d := die.toNat
    (s.snap q).state = 1 → d ∉ (s.snap q).walked → s.walkMay q = true →
    let s1 := s.flushAll.walkUnits q d true (List.range ((s.rsize q d + 4095) / 4096))
    (s1.walkDone q d = true → exec (.captureWalkStart die set) s = .next (s1.setSnap q { s1.snap q with walked := (s1.snap q).walked ++ [d] })) ∧
    (s1.walkDone q d = false → exec (.captureWalkStart die set) s = .next s1)) ∧
  (∀ (s : State) (q d u : Nat), s.mayStart (.snapWalk d) = true → s.unitOpen q d u ≠ [] →
    s.walkUnits q d true [u] = ((s.unitOpen q d u).foldl (fun s j => s.walkLine q d j) s).spend (.snapWalk d) (128 * (s.unitOpen q d u).length)) ∧
  (∀ (pa : W64) (s : State) (q : Nat) (c : SnapSet), s.snaps = [(q, c)] → c.state = 1 → s.walkMay q = true →
    exec (.copyOnWrite pa) s = .next (((s.cowSets (lineOf pa.toNat) (c.cstep + 1)).filter fun x => x.1 == q).foldl
      (fun s x => s.capture x.1 x.2.1 x.2.2) s)) ∧
  (∀ (set : BitVec 6) (s : State), let q := set.toNat
    let c := s.snap q
    let developed := (s.setSnap q { c with state := 2, lstep := c.cstep, walkedOnce := true }).recordCapture q
    (c.state = 1 → (∀ d, d < 4 → d ∈ c.walked) →
      (c.parityFailed = false → exec (.captureDeveloped set) s = .next developed) ∧
      (c.parityFailed = true → exec (.captureDeveloped set) s = .next (developed.spoil q SpoilCause.parity))) ∧
    (c.state = 2 → (∀ e ∈ c.awaits, e.2 ≤ (s.die e.1).owqDrained) → (s.snapDesc q).code = 0 → exec (.captureFixed set) s =
      .next ((s.setSnap q { c with state := 3, fstep := c.cstep, fvalid := true, fslot := c.cseq % 2, fpar := c.cseq % 2 }).recordCapture q)) ∧
    (c.state = 1 ∨ c.state = 2 → exec (.captureAbort set true) s = .next (s.setSnap q { c with state := 4, cause := 3 })) ∧
    exec (.captureAbort set false) s = .next (s.drop (Mmio.snapSet q))) ∧
  (∀ r : CaptureRec, r.bytes.length = 64 ∧ sealHolds r.bytes = true)

/-- R144: a captured data unit leaves once for the holders of its stripe's parity, in a packet of class 3, and is counted as
sent. -/
def Sys2Proof.Claim.ParityUnits : Prop :=
  ∀ (set : BitVec 6) (unit : Nat) (s : State),
    let q := set.toNat
    let x := s.snapDesc q
    x.code = 1 → unit < s.dataUnits q → unit ∉ (s.snap q).sent → s.restriping q = false → (s.snap q).state = 1 ∨ (s.snap q).state = 2 →
    s.unitReady q unit = true → s.mayStart (s.parityCharge q) = true →
    let pkg := (s.memberEntry ((s.group x.group).pool + x.pHolder (x.stripe x.member unit))).1
    let dom := (s.group x.group).domain
    s.windowOpen pkg dom 0 = true →
    exec (.parityUnitSend set unit) s = .next (((s.sendData .coll (Packet.make pkg dom 0 3 false true
      (parityAddr x.group x.member unit (((s.setsOfGroup x.group).idxOf? q).getD 0)) 0 (s.snap q).cseq
      (s.unitBytes q (s.snap q).cseq unit))).spend (s.parityCharge q) x.unit).setSnap q
        { s.snap q with sent := addNats (s.snap q).sent [unit] })

/-- R145, R389, R393: an arriving data packet with a bad header is counted, one of or for a package that is DOWN is dropped, and one
for another package goes on; a packet trimmed, dead, performed, or outside the window is not performed; one in turn is performed with
the held packets that it lets through; one early and ordered is held, as far as the reorder memory allows. -/
def Sys2Proof.Claim.DataPackets : Prop :=
  ∀ (k : PacketKind) (mk : Packet → Instr) (p : Packet) (s : State),
    (k, mk) ∈ [(PacketKind.put, Instr.putPacket), (.puta, .putaPacket), (.getreq, .getreqPacket), (.getrsp, .getrspPacket),
      (.atom, .atomPacket), (.atomrsp, .atomrspPacket), (.coll, .collPacket), (.enq, .enqPacket)] →
    (badHeader p = true → exec (mk p) s = .next (s.countPort p.port.toNat 8)) ∧
    (badHeader p = false → s.fenced p = true → exec (mk p) s = .next s) ∧
    (badHeader p = false → s.fenced p = false → p.dst.toNat ≠ s.pkg → exec (mk p) s = .next (s.emit k p)) ∧
    (badHeader p = false → s.fenced p = false → p.dst.toNat = s.pkg →
      let t := s.rxOf p
      let h : HeldPacket := { kind := k, packet := p, steps := s.holderSteps }
      (p.trim = true → exec (mk p) s = .next (s.trimmedIn { p with type := BitVec.ofNat 8 k.code })) ∧
      (p.trim = false → t.inDead p.psn.toNat = true → exec (mk p) s = .next s) ∧
      (p.trim = false → t.inDead p.psn.toNat = false → t.performed p.psn.toNat = true →
        exec (mk p) s = .next ((s.pacerArrived p).again k p)) ∧
      (p.trim = false → t.performed p.psn.toNat = false → psnDiff p.psn.toNat t.next < flowWindow → (∀ e ∈ t.held, e.packet.psn ≠ p.psn) →
        (t.ready k p = true → exec (mk p) s = .next ((((s.pacerArrived p).performNow h).drainHeld p [] flowWindow).fabPump)) ∧
        (t.ready k p = false → (s.pacerArrived p).heldBytes + p.payload.length ≤ reorderBytes →
          exec (mk p) s = .next ((s.pacerArrived p).updRx p fun t => { t with held := t.held ++ [h] })) ∧
        (t.ready k p = false → reorderBytes < (s.pacerArrived p).heldBytes + p.payload.length →
          exec (mk p) s = .next (((s.pacerArrived p).countTrim p.port.toNat p.cls.toNat).recordHole { p with trims := p.trims + 1 })))) ∧
    (badHeader p = false ↔ (PacketKind.ofCode p.type.toNat).isSome = true ∧ (p.cls.toNat < 4 ∨ 6 < p.cls.toNat) ∧ p.len.toNat ≤ 64 ∧ p.reserved = 0)

/-- R391 to R393: a trimmed header records a hole; an ACK frees its packet and ends its operation; a re-request leaves the pacer at its
spacing and has its packet sent again with the trims that it names; a packet whose timer runs out counts one trim; an ABORT drops what
is held and passes the dead packets; a port whose class is over its threshold counts the packet by its class and passes its header on
alone, and so does one that has lost the payload. -/
def Sys2Proof.Claim.TrimsAndRetransmissions : Prop :=
  (∀ (p : Packet) (s : State) (port : BitVec 4), badHeader p = false →
    let k := (PacketKind.ofCode p.type.toNat).getD .put
    let counted := (s.countPort port.toNat p.cls.toNat).bump 6 (4 * port.toNat + p.cls.toNat)
    (3 < p.cls.toNat → exec (.switchTrim port p) s = .next s ∧ exec (.uncorrectableFecCodeword port p) s = .next s) ∧
    (p.cls.toNat ≤ 3 →
      (s.overTrim port.toNat p.cls.toNat = true → exec (.switchTrim port p) s = .next (counted.enqueueAt port.toNat k (Packet.trimmed p))) ∧
      (s.overTrim port.toNat p.cls.toNat = false → exec (.switchTrim port p) s = .next s) ∧
      (p.dst.toNat ≠ s.pkg → exec (.uncorrectableFecCodeword port p) s = .next (counted.emit k (Packet.trimmed p))) ∧
      (p.dst.toNat = s.pkg → exec (.uncorrectableFecCodeword port p) s = .next (counted.trimmedIn (Packet.trimmed p))))) ∧
  ∀ (p : Packet) (s : State), badHeader p = false → s.fenced p = false → p.dst.toNat = s.pkg →
    let src := p.src.toNat
    let dom := p.domain.toNat
    let flow := p.flow.toNat
    let t := s.rxOf p
    (t.inDead p.psn.toNat = false → t.performed p.psn.toNat = false → exec (.trimmedHeaderReceive p) s = .next (s.recordHole p)) ∧
    (t.inDead p.psn.toNat = false → t.performed p.psn.toNat = true → exec (.trimmedHeaderReceive p) s =
      .next (s.again ((PacketKind.ofCode p.type.toNat).getD .put) p)) ∧
    (p.aux = 256 → p.last = false → exec (.ackPacket p) s = .next (((s.freePacket src dom flow p.psn.toNat).answerReads).fabPump)) ∧
    (p.last = true → p.aux.toNat < 256 → exec (.ackPacket p) s = .next (((s.opEnds p p.aux.toNat).answerReads).fabPump)) ∧
    exec (.rereqPacket p) s = .next (s.retransmit src dom flow p.psn.toNat p.trims.toNat) ∧
    (∀ k q, ((s.txFlow src dom flow).kept.find? fun e => e.2.psn == p.psn) = some (k, q) →
      exec (.fabricRetxTimeout p.src p.domain p.flow p.psn) s = .next (s.retransmit src dom flow p.psn.toNat (q.trims.toNat + 1))) ∧
    (∃ u, exec (.abortPacket p) s = .next u ∧ (u.rxOf p).held = [] ∧ (u.rxOf p).holes = [] ∧
      (u.rxOf p).dead = t.dead ++ [(p.psn.toNat, p.aux.toNat)] ∧ u.mem = s.mem) ∧
    (∀ h r, (s.pacer src).waiting = h :: r → (∀ x, (s.pacer src).last = some x → x + 64 ≤ s.gtb.toNat) → (s.pacer src).out.length < 15 →
      (s.pacer src).count < 16 → ∃ u, exec (.rereqSend p.src) s = .next u ∧
        (u.pacer src).waiting = r ∧ (u.pacer src).out = (s.pacer src).out ++ [h] ∧ (u.pacer src).last = some s.gtb.toNat ∧ u.mem = s.mem)

/-- R145, R397, R398: heartbeats leave every 4,000 ns and are noted as they arrive; the fifth missing detects a failed member, as does
a FATAL packet that is not known; the packets of the followed domain that come from the neighbour towards its source steer the rate by at
most 100 ppm, leave at every port every 1,000 ns, and their loss leaves the package free-running. -/
def Obligations.HeartbeatsAndTime : Prop :=
  ∀ (s : State),
    (s.fab.heartbeatAt + 4000 ≤ s.gtb.toNat →
      let s1 := s.peers.foldl (fun s m => s.sendHeader .heartbeat (Packet.make m 0 0 7 false true 0 0 0 [])) s
      exec .heartbeatSend s = .next { s1 with fab := { s1.fab with heartbeatAt := s.gtb.toNat } }) ∧
    (∀ p : Packet, badHeader p = false → s.fenced p = false → p.dst.toNat = s.pkg →
      exec (.heartbeatPacket p) s = .next { s with fab := { s.fab with
        heard := (s.fab.heard.filter fun e => e.1 != p.src.toNat) ++ [(p.src.toNat, s.gtb.toNat)] } } ∧
      (s.knowsLost (p.addr.toNat % 256) = false →
        exec (.fatalPacket p) s = .next ((s.spreadFatal (p.addr.toNat % 256)).detect (p.addr.toNat % 256))) ∧
      (s.knowsLost (p.addr.toNat % 256) = true → exec (.fatalPacket p) s = .next s) ∧
      (∀ l m, s.timeList = some l → s.timeSource = some m → m ≠ s.pkg →
        (p.domain.toNat = l.1 → p.src = Config.upstream s.pkg m → ∃ t, exec (.timesyncPacket p) s = .next t ∧
          t.fab.synced = some s.gtb.toNat ∧ t.fab.freeRun = false ∧ -100 ≤ t.fab.rate ∧ t.fab.rate ≤ 100 ∧ t.mem = s.mem) ∧
        (p.domain.toNat ≠ l.1 ∨ p.src ≠ Config.upstream s.pkg m → exec (.timesyncPacket p) s = .next s))) ∧
    (∀ pkg : W8, (∀ e ∈ s.fab.heard, e.1 = pkg.toNat → e.2 + 20000 ≤ s.gtb.toNat) → 20000 ≤ s.gtb.toNat → pkg.toNat ≠ s.pkg →
      s.sharesGroup pkg.toNat = true → s.knowsLost pkg.toNat = false →
      exec (.heartbeatMiss pkg) s = .next ((s.spreadFatal pkg.toNat).detect pkg.toNat)) ∧
    (s.fab.timesyncAt + 1000 ≤ s.gtb.toNat →
      let p := { Packet.make s.pkg ((s.timeList.map (·.1)).getD 0) 0 7 false true (BitVec.ofNat 64 s.gtb.toNat) 0 0 [] with
        src := BitVec.ofNat 8 s.pkg, type := 0x12 }
      let s1 := (List.range 16).foldl (fun s port => s.enqueueAt port .timesync p) s
      exec .timesyncSend s = .next { s1 with fab := { s1.fab with timesyncAt := s.gtb.toNat } }) ∧
    (s.fab.freeRun = false → s.timeSource ≠ some s.pkg → s.timeSource = none ∨ (∃ x, s.fab.synced = some x ∧ x + 100000 ≤ s.gtb.toNat) →
      exec .timesyncLoss s = .next (({ s with fab := { s.fab with freeRun := true, rate := 0 } }).note (.notice 397 0)))

/-- R145 to R148: each stage of a recovery follows the one before it; the fence marks the lost packages DOWN and their sets RECOVERING; the
abort ends what names them; a job that cannot be rebuilt goes on to the report; a set resumes FIXED under its new parity, or, where it goes
on unprotected, as it stood before the fence, SPOILED by MEMBER where its capture was in progress (R141); the report ends the recovery. -/
def Obligations.RecoveryStages : Prop :=
  (∀ (pkg : W8) (s : State), pkg.toNat ≠ s.pkg → s.isDown pkg.toNat = false → s.recovery = none → s.sharesGroup pkg.toNat = true →
    exec (.recoveryDetect pkg) s = .next ((s.spreadFatal pkg.toNat).detect pkg.toNat)) ∧
  (∀ (s : State) (r : Recovery), s.recovery = some r →
    (r.stage = 1 → ∃ t x, exec .recoveryFence s = .next t ∧ t.recovery = some x ∧ x.stage = 2 ∧ x.lost = r.lost ∧ t.mem = s.mem ∧
      ∀ p ∈ r.lost, t.isDown p = true) ∧
    (r.stage = 2 → exec .recoveryAbort s = .next ((r.inProgress.foldl (fun s q =>
      s.setSnap q { s.snap q with state := 5, cause := BitVec.ofNat 8 SpoilCause.member }) (s.endWith r.lost)).toStage r 3)) ∧
    (r.stage = 3 → ∃ t x, exec .recoveryTrees s = .next t ∧ t.recovery = some x ∧ x.stage = 4 ∧ x.lost = r.lost ∧ t.mem = s.mem) ∧
    (∀ us, r.stage = 4 → r.failed = true → exec (.recoveryRebuild us) s = .next ((s.adopt r us).toStage { r with failed := true } 7)) ∧
    (∀ us, r.stage = 4 → r.failed = false → s.recoverySets r = [] → ∃ t x, exec (.recoveryRebuild us) s = .next t ∧
      t.recovery = some x ∧ x.stage = 5 ∧ t.mem = s.mem) ∧
    (∀ us, let all := (s.recoverySets r).flatMap fun q => s.rebuiltUnits us r q
      r.stage = 4 → r.failed = false → (∀ q ∈ s.recoverySets r, (s.snap q).fvalid = true) →
      (∀ b ∈ all, ∃ u, b.content = .unit u) → ∃ x, exec (.recoveryRebuild us) s =
        .next ((all.foldl (fun s b => s.writeRebuilt b) s).toStage x 5) ∧ x.lost = r.lost ∧ x.ranks = r.ranks) ∧
    (r.stage = 5 → ∃ t x, exec .recoveryRestripe s = .next t ∧ t.recovery = some x ∧ x.stage = 6 ∧ x.lost = r.lost ∧ t.mem = s.mem) ∧
    (r.stage = 6 → (∀ q, q < 64 → (s.snap q).state ≠ 5) → exec .recoveryResume s = .next (s.toStage r 7)) ∧
    (∀ q : BitVec 6, r.stage = 6 → (s.snap q.toNat).state = 5 → (∀ x, x < 64 → x ≠ q.toNat → (s.snap x).state ≠ 5) → s.restriped q.toNat = true →
      exec .recoveryResume s = .next (((s.afterStripe r q.toNat).toStage r 7).resumeSet r q.toNat)) ∧
    (∀ q, ((s.snapDesc q).code ≠ 0 → s.afterStripe r q = s.setCapture q fun c => { c with state := 3, fpar := 1 - c.fpar }) ∧
      ((s.snapDesc q).code = 0 → q ∈ r.inProgress → s.afterStripe r q =
        s.setSnap q { s.snap q with state := 4, cause := BitVec.ofNat 8 SpoilCause.member }) ∧
      ((s.snapDesc q).code = 0 → q ∉ r.inProgress → s.afterStripe r q =
        s.setSnap q { s.snap q with state := ((r.was.find? fun e => e.1 == q).map (·.2)).getD 3 })) ∧
    (r.stage = 7 → ∃ t, exec .recoveryReport s = .next t ∧ t.recovery = none ∧ t.mem = s.mem ∧ t.wv = s.wv ∧ t.st = s.st))

/-- R385 to R387, R405: a good DATA flit in sequence is executed once and acknowledged, a duplicate changes nothing but the count of flits to
acknowledge; a good flit of a reserved KIND or field fails the module; a bad CRC discards and is counted, its receiver owing a NAK, and the
eighth in a window retrains the module, or fails one at x32; the NAK that is owed, a timeout and the end of a retrain make the sender
resend. -/
def Obligations.DieLinks : Prop :=
  ∀ (m : BitVec 6) (fwd : Bool) (s : State),
    let x := s.mod m.toNat
    let k := linkKey m.toNat fwd
    let back := linkKey m.toNat !fwd
    m.toNat < 40 → x.failed = false →
    (x.training = none →
      (∀ f : Flit, (s.link k).maySend (s.link back) f = false → exec (.flitReceive m fwd f) s = .next s) ∧
      (∀ f : Flit, flitGood f = true → (s.link k).maySend (s.link back) f = true → 3 < f.kind.toNat ∨ f.reserved ≠ 0 →
        ∃ t, exec (.flitReceive m fwd f) s = .next t ∧ (t.mod m.toNat).failed = true ∧ t.mem = s.mem) ∧
      (∀ f : Flit, flitGood f = true → (s.link k).maySend (s.link back) f = true → f.kind = 0 → f.reserved = 0 →
        ∃ t, exec (.flitReceive m fwd f) s = .next t ∧ t.mem = s.mem ∧
        (f.seq = (s.link k).accepted + 1 → (t.link k).accepted = f.seq ∧ (t.link k).executed = (s.link k).executed + 1) ∧
        (f.seq ≠ (s.link k).accepted + 1 → (t.link k).accepted = (s.link k).accepted ∧ (t.link k).executed = (s.link k).executed) ∧
        (t.link back).held = (s.link back).held.filter fun x => !seqUpTo f.ackseq x.seq) ∧
      (∀ f : Flit, flitGood f = false → (s.link k).maySend (s.link back) f = true → ∃ t, exec (.flitReceive m fwd f) s = .next t ∧
        (t.link k).discarding = true ∧ (t.link k).executed = (s.link k).executed ∧ (t.mod m.toNat).crcFail = (x.crcFail + 1) % 2 ^ 24 ∧
        t.mem = s.mem ∧ ((s.link k).discarding = false → (x.recent.filter fun t => s.gtb.toNat ≤ t + 1000000).length < 7 →
          (t.link k).nak = true)) ∧
      ((s.link k).nak = true → exec (.nakReceive m fwd (s.link k).accepted) s =
        .next ((s.setLink k { s.link k with nak := false, unacked := 0 }).nak m.toNat k (s.link k).accepted)) ∧
      (∀ n, (s.link k).nak = false ∨ n ≠ (s.link k).accepted → exec (.nakReceive m fwd n) s = .next s) ∧
      (∀ f r, (s.link k).held = f :: r → (s.link k).progress + 64 ≤ s.gtb.toNat →
        exec (.replayTimeout m fwd) s = .next (s.replayFrom m.toNat k f.seq)) ∧
      (x.half = true → (s.link k).held = [] → (s.link back).held = [] → (s.link k).waiting = [] → (s.link back).waiting = [] →
        exec (.moduleIdleRetrain m true) s = .next (s.setMod m.toNat { x with training := some s.gtb.toNat, recent := [], wide := true })) ∧
      exec (.moduleIdleRetrain m false) s = .next s) ∧
    (∀ c, x.training = some c → c + 2000 ≤ s.gtb.toNat → ∃ t, exec (.retrainEnd m) s = .next t ∧ (t.mod m.toNat).training = none ∧
      (t.mod m.toNat).half = !x.wide ∧ (t.mod m.toNat).retrain = (x.retrain + 1) % 2 ^ 8 ∧ (t.link k).discarding = false ∧
      (t.link k).held = ((s.link k).held.filter fun f => !seqUpTo (s.link k).accepted f.seq) ∧ t.mem = s.mem)

/-- Captures of snapshot sets and their parity: `CaptureStates`; `ParityUnits`. -/
def Obligations.SnapshotEvents : Prop :=
  Claim.CaptureStates ∧ Claim.ParityUnits

/-- Arrival of packets, trims, re-requests and aborts: `DataPackets`; `TrimsAndRetransmissions`. -/
def Obligations.FabricPackets : Prop :=
  Claim.DataPackets ∧ Claim.TrimsAndRetransmissions

/-! ### The whole machine -/

/-- R15, R77, R134: a write leaves every byte that it does not name as it was and the bytes that it names as given, where no key changes
and no capture copies; an unlisted byte reads as zero, which is the model's choice (log 3). -/
def Obligations.MemoryWrites : Prop :=
  (∀ (s : State) (u : Under) (pa : Nat) (bs : List W8), (∀ e ∈ s.snaps, e.2.state ≠ 1) → s.oneKey →
    (∀ i x, i < bs.length → x / 4 = (pa + i) / 256 → s.secMaterial x = s.material u.key) →
    ∀ a, (s.writeAt u pa bs).byteAt a = if pa ≤ a ∧ a < pa + bs.length then bs.getD (a - pa) 0 else s.byteAt a) ∧
  (∀ (s : State) (u : Under) (ws : List (Nat × W8)), s.memoryWf = true → (s.writeAll u ws).memoryWf = true) ∧
  (∀ (n v : Nat), leNat (leBytes n v) = v % 256 ^ n ∧ (leBytes n v).length = n)

/-- R105, R302: the frame of a store: every byte of memory outside its lanes' places reads as before, a byte of a place that no later
lane covers reads as that lane's data, and the stream's registers stay; where no place lies in a peer window, no key changes and no
capture copies. Through peer windows, where another package holds the bytes (R17), nothing here changes. -/
def Obligations.StoreFrame : Prop :=
  (∀ (s : State) (xs : List LaneLoc) (data : Nat → List W8),
    (∀ x ∈ xs, ∀ pa e, x.loc = .mem pa e → ∀ i, i < (data x.lane).length → (s.peerAt (pa + i)).isSome = true) →
    (s.storeLanes xs data).mem = s.mem ∧ (s.storeLanes xs data).wv = s.wv ∧ (s.storeLanes xs data).st = s.st) ∧
  ∀ (s : State) (xs : List LaneLoc) (data : Nat → List W8), (∀ e ∈ s.snaps, e.2.state ≠ 1) → s.oneKey →
    (∀ x ∈ xs, ∀ pa e, x.loc = .mem pa e → ∀ i, i < (data x.lane).length → s.peerAt (pa + i) = none ∧
      ∀ y, y / 4 = (pa + i) / 256 → s.secMaterial y = s.material e.key) →
    let t := s.storeLanes xs data
    (∀ a, (∀ x ∈ xs, ∀ pa e, x.loc = .mem pa e → a < pa ∨ pa + (data x.lane).length ≤ a) → t.byteAt a = s.byteAt a) ∧
    (∀ pre x post pa e i, xs = pre ++ x :: post → x.loc = .mem pa e → i < (data x.lane).length →
      (∀ y ∈ post, ∀ pb e', y.loc = .mem pb e' → pa + i < pb ∨ pb + (data y.lane).length ≤ pa + i) →
      t.byteAt (pa + i) = (data x.lane).getD i 0) ∧
    t.wv = s.wv ∧ t.st = s.st

/-- Every step keeps memory and the SCM media in canonical form, so that equal memories are equal data. -/
def Obligations.EveryStepKeepsMemoryForm : Prop :=
  ∀ (s t : State), s.memoryWf = true → step s = .next t → t.memoryWf = true

/-- R51, R191, R411, R408: what reset leaves: no squad runs, memory lists nothing, every device register reads at its reset value,
OP1, and the boot before its first stage. The values for which the rules give none are the model's (log 4). -/
def Obligations.ResetState : Prop :=
  State.reset.memoryWf = true ∧ State.reset.mem = [] ∧ State.reset.squads = [] ∧ State.reset.st.wait = .ended ∧ State.reset.agenda = [] ∧
    State.reset.power.point = 1 ∧ State.reset.admin.stage = 0 ∧ State.reset.admin.failed = none ∧ State.reset.cycle = 0 ∧
    State.reset.reg Mmio.lapcfg = 10 ∧ State.reset.reg Mmio.opctl = 1 ∧ State.reset.reg Mmio.pwrcap = 2300 ∧
    (∀ q, q < 64 → State.reset.reg (Mmio.snapSet q) = 0x5100) ∧ (∀ p, p < 16 → State.reset.reg (Mmio.trimcfg p) = 0x0000111100040000) ∧
    (∀ c, (State.reset.core c).halt = true ∧ (State.reset.core c).tiles = [] ∧ (State.reset.core c).scratch = []) ∧
    (∀ k, State.reset.key k = KeySlot.empty) ∧ ∀ a, State.reset.byteAt a = 0

/-- R228 to R241: decoding inverts encoding: the words of every legal instruction of the stream, with every operand at every value
that its fields hold, decode to it. -/
def Obligations.DecodeAfterEncode : Prop :=
  (∀ (i : Instr), i.shape ≠ .event → ∃ w, encode i = some w) ∧
  (∀ (i : Instr) (w : Nat), i.legal = true → encode i = some w → decodeWords w i.ext.isSome = .ok i)

/-- R232, R238, R241, R242: what decodes is legal and is the encoding of what it decodes to: no bit of a slot is dropped, and no two
slots name one instruction. -/
def Obligations.EncodeAfterDecode : Prop :=
  ∀ (w : Nat) (ext : Option Ext) (i : Instr), w < 2 ^ 96 → decodeSlot w ext = .ok i →
    i.legal = true ∧ i.ext = ext ∧ encodeSlot i = some w

/-- Words written out from the spec's encodings and worked examples decode to the instructions that they stand for. -/
def Obligations.SpecWordsDecode : Prop :=
  let h : Head := { stall := 0, pred := 0, pneg := false, zero := false }
  let b : BF :=
    { h, creg := 0, cond := .always, tslot := 0, ldelta := 0, rslot := 0, rld := 0, msrc := 0, minv := false, detach := false, token := 0, link := 0 }
  decodeTableWord 96 0x4D = some (.nop b) ∧
  decodeTableWord 96 0x001430010000000400000041 = some (.brv { b with ldelta := 1, rld := 2, msrc := 3, token := 5 }) ∧
  decodeTableWord 96 0x000000000000000800000040 = some (.bra { b with ldelta := 2 }) ∧
  decodeTableWord 96 0x001400000000000000000046 = some (.rjoin { b with token := 5 }) ∧
  decodeTableWord 96 0x00A22000000C0200404468A6 = some (.vfma
    { h := { stall := 4, pred := 3, pneg := true, zero := false }, dst := 4, a := .vec 1, b := .vec 2, c := .vec 3, modsel := 0, mod := 0, ty := .f32,
      rnd := 2, sat := false, nega := false, negb := true, negc := false, absa := true, absb := false, sub := 0, ext := none }) ∧
  decodeTableWord 96 0x000000000000116291700116 = some (.snap
    { h, data := .sca 23, base := 20, index := .sca 22, shift := 0, off := 0, width := .b8, space := .global, order := .rlx, scope := .wave, cpol := 0,
      sub := 0, ext := none }) ∧
  decodeTableWord 96 0x428000020028004032800504 = some (.satom
    { h := { h with stall := 2 }, dst := some (.sca 40), val := .inl 1, cmp := .vec 0, base := 20, index := .inl 0, shift := 0, off := 0, ords := .rlx,
      ordf := .rlx, scope := .pkg, aop := .add, unsignedT := true }) ∧
  decodeTableWord 96 0x0000000080182E58A9400141 = some (.cpyf { h, d0 := 20, d1 := 21, d2 := 22, d3 := 23, d4 := 24, d5 := 0, imm := 2 })

/-- R89, R176, R179, R186, R187, R230, R241: a step issues the instruction of the slot at the program counter: where the line's slot
decodes, the step is the instruction's meaning with the next program counter at hand, and under SHADOW the two issue slots of R374;
where it does not, ILLOP; a pair's members are performed together; an event on the agenda is performed as it stands there, and then the
instruction whose request a die link has accepted with it. Around the meaning stand the quadrant's slot, which an instruction that only
waits gives back, the hold of a full OWQ, which lets through whatever enters none, and the reservations and credits that every step brings
up to date. The order of turns is the model's choice (log 1). -/
def Obligations.StepRunsDecodedInstruction : Prop :=
  (∀ (s t : State) (bytes : List W8), s.keyKills = [] → s.agenda = [] → s.ready = true → s.st.wait = .none →
    (s.st.trap.pend && !s.st.trap.hmode) = false →
    (s.sq.overdue = true → s.sq.overtime = some s.wv.widx → s.st.trap.hmode = true) → s.takeSlot.fetch = .line t bytes →
    let k := pcSlot t.st.pc
    let t1 : State := { t with st := { t.st with npc := pcNext t.st.pc (lineWord bytes), wait := .none } }
    let stepsTo (o : Host.Outcome State Fault Refusal) : Prop := step s = tidied (s.owqGate (.stream s.me) (calm (s.grantsKept (s.slotKept o))))
    (∀ i, linePair (lineWord bytes) k = false → decodeSlot (slotAt bytes k).1 (slotAt bytes k).2 = .ok i →
      stepsTo (t1.spaced (twice i.shape) (exec i t1))) ∧
    (∀ e, linePair (lineWord bytes) k = false → decodeSlot (slotAt bytes k).1 (slotAt bytes k).2 = .error e → stepsTo (illop t1)) ∧
    (linePair (lineWord bytes) k = true → stepsTo (t1.performPair (slotAt bytes k) (slotAt bytes (k + 1))))) ∧
  (∀ (s t : State) (w : Waiter), (∀ d, d < 4 → (t.die d).owqLast = (s.die d).owqLast) → tidied (s.owqGate w (calm (.next t))) =
    .next { t with upset := 0, owqWait := t.owqWait.filter fun e => e.1 != w }.reserveNodes.dropCredit) ∧
  (∀ (s : State) (e : TlbEntry) (l va : Nat), pcValid s.st.pc = true → s.st.line = none → s.st.entering = false → s.st.skip = false →
    s.translate [(0, pcLine s.st.pc)] .exec (fun k => k == .memory) = .ok [(l, va, e)] →
    ((s.core s.sq.core).icache.all fun x => !(x.1 == s.sq.inst.part && x.2.1 == (pcLine s.st.pc).toNat)) = true →
    let u := s.clearDeny.keepTlb [e]
    s.oneKey → u.codeEntry (pcLine s.st.pc).toNat = some e →
    let bytes := u.freshLine (pcLine s.st.pc).toNat e
    u.viewBad s.sq.core e.key e.cp .l1 (e.pa (pcLine s.st.pc).toNat) = false → u.violates e.key (e.pa (pcLine s.st.pc).toNat) = false →
    lineParityOk bytes = true → lineFaults (lineWord bytes) = 0 → ∃ t, s.fetch = .line t bytes ∧ t.st.pc = s.st.pc ∧ t.wv = s.wv ∧ t.mem = s.mem) ∧
  (∀ (s : State) (i : Instr) (r : List Turn), s.keyKills = [] → s.agenda = .event i :: r → i.shape = .event → s.admin.holdup = false →
    let s1 : State := { s with agenda := r }
    step s = tidied (s1.owqGate (.turn (.event i)) (match exec i s1 with
      | .next u => u.performGranted s.granted
      | x => x))) ∧
  (∀ (s : State) (who : StreamId) (n : Nat) (x : W64) (r : List Turn), s.keyKills = [] → s.agenda = .stream who n x :: r →
    (State.has { s with agenda := r } who = false → step s = .fault (.noSuchStream who)) ∧
    (State.has { s with agenda := r } who = true → let s1 := State.focus { s with agenda := r } who
      let m := (s1.st.readyAt - s1.cycle) + n
      let s2 := if m = 0 then s1 else s1.tick m
      let s3 : State := { s2 with upset := x }
      step s = tidied (s2.owqGate (.stream who) (calm (s3.grantsKept s3.takeTurn)))))

/-- R216: a result wraps modulo 2^w, or is clamped to the range of its type, which sets FLG.SAT where it changes it. -/
def Obligations.IntegerNarrowing : Prop :=
  ∀ (signed : Bool) (w : Nat) (x : Int), 0 < w →
    let lo : Int := if signed then -(2 ^ (w - 1) : Nat) else 0
    let hi : Int := if signed then (2 ^ (w - 1) : Nat) - 1 else (2 ^ w : Nat) - 1
    (((narrowTo signed false w x).1 : Int) = x % (2 ^ w : Nat) ∧ (narrowTo signed false w x).2 = 0) ∧
    (lo ≤ x → x ≤ hi → narrowTo signed true w x = narrowTo signed false w x) ∧
    (x < lo → ((narrowTo signed true w x).1 : Int) = lo % (2 ^ w : Nat) ∧ (narrowTo signed true w x).2 = Flag.sat) ∧
    (hi < x → ((narrowTo signed true w x).1 : Int) = hi % (2 ^ w : Nat) ∧ (narrowTo signed true w x).2 = Flag.sat)
end

