-- ==== Sys2Proof/Laws/Tab.lean ====
section
/-! SUPPORT. Sparse tables: reads after writes, and the canonical form that every operation keeps. -/

namespace Sys2Proof

variable {α : Type}

theorem Tab.getD_erase (t : Tab α) (d : Nat → α) (k j : Nat) :
    Tab.getD (Tab.erase t k) d j = if j = k then d j else Tab.getD t d j := by
  induction t with
  | nil => simp [Tab.erase, Tab.getD]
  | cons e r ih => obtain ⟨k', v⟩ := e; grind [Tab.erase, Tab.getD]

theorem Tab.getD_insert (t : Tab α) (d : Nat → α) (k j : Nat) (v : α) :
    Tab.getD (Tab.insert t k v) d j = if j = k then v else Tab.getD t d j := by
  induction t with
  | nil => grind [Tab.insert, Tab.getD]
  | cons e r ih => obtain ⟨k', v'⟩ := e; grind [Tab.insert, Tab.getD]

/-- A read after a write. -/
theorem Tab.getD_put [DecidableEq α] (t : Tab α) (d : Nat → α) (k j : Nat) (v : α) :
    Tab.getD (Tab.put t d k v) d j = if j = k then v else Tab.getD t d j := by
  unfold Tab.put
  split
  · rw [Tab.getD_erase]; grind
  · rw [Tab.getD_insert]

theorem Tab.get0_put0 {n : Nat} (t : Tab (BitVec n)) (k j : Nat) (v : BitVec n) :
    (t.put0 k v).get0 j = if j = k then v else t.get0 j := Tab.getD_put ..

/-! ### The canonical form -/

theorem Tab.sortedFrom_mono {t : Tab α} {lo lo' : Nat} (h : lo' ≤ lo) (ht : Tab.sortedFrom t lo = true) :
    Tab.sortedFrom t lo' = true := by
  cases t with
  | nil => rfl
  | cons e r => grind [Tab.sortedFrom]

theorem Tab.sortedFrom_erase {t : Tab α} {lo : Nat} (k : Nat) (ht : Tab.sortedFrom t lo = true) :
    Tab.sortedFrom (Tab.erase t k) lo = true := by
  induction t generalizing lo with
  | nil => rfl
  | cons e r ih =>
    obtain ⟨k', v⟩ := e
    simp only [Tab.sortedFrom, Bool.and_eq_true, decide_eq_true_eq] at ht
    by_cases hk : k = k'
    · subst hk
      simpa [Tab.erase] using Tab.sortedFrom_mono (by omega : lo ≤ k + 1) (ih ht.2)
    · simp [Tab.erase, hk, Tab.sortedFrom, ht.1, ih ht.2]

theorem Tab.sortedFrom_insert {t : Tab α} {lo k : Nat} (v : α) (hk : lo ≤ k) (ht : Tab.sortedFrom t lo = true) :
    Tab.sortedFrom (Tab.insert t k v) lo = true := by
  induction t generalizing lo with
  | nil => simp [Tab.insert, Tab.sortedFrom, hk]
  | cons e r ih =>
    obtain ⟨k', v'⟩ := e
    simp only [Tab.sortedFrom, Bool.and_eq_true, decide_eq_true_eq] at ht
    unfold Tab.insert
    split
    · simp only [Tab.sortedFrom, Bool.and_eq_true, decide_eq_true_eq]; exact ⟨hk, by omega, ht.2⟩
    · split
      · simp only [Tab.sortedFrom, Bool.and_eq_true, decide_eq_true_eq]; subst k; exact ⟨hk, ht.2⟩
      · simp only [Tab.sortedFrom, Bool.and_eq_true, decide_eq_true_eq]; exact ⟨ht.1, ih (by omega) ht.2⟩

theorem Tab.mem_erase {t : Tab α} {k : Nat} {e : Nat × α} (h : e ∈ Tab.erase t k) : e ∈ t := by
  induction t with
  | nil => simp [Tab.erase] at h
  | cons x r ih => obtain ⟨k', v⟩ := x; grind [Tab.erase]

theorem Tab.mem_insert {t : Tab α} {k : Nat} {v : α} {e : Nat × α} (h : e ∈ Tab.insert t k v) : e = (k, v) ∨ e ∈ t := by
  induction t with
  | nil => simpa [Tab.insert] using h
  | cons x r ih => obtain ⟨k', v'⟩ := x; grind [Tab.insert]

/-- A write keeps the canonical form. -/
theorem Tab.wf_put [DecidableEq α] {t : Tab α} {d : Nat → α} (k : Nat) (v : α) (ht : Tab.wf t d = true) :
    Tab.wf (Tab.put t d k v) d = true := by
  simp only [Tab.wf, Bool.and_eq_true, List.all_eq_true, decide_eq_true_eq] at ht ⊢
  unfold Tab.put
  split
  · exact ⟨Tab.sortedFrom_erase k ht.1, fun e he => ht.2 e (Tab.mem_erase he)⟩
  · refine ⟨Tab.sortedFrom_insert v (Nat.zero_le k) ht.1, fun e he => ?_⟩
    obtain rfl | he := Tab.mem_insert he
    · assumption
    · exact ht.2 e he

/-- A row of writes keeps the canonical form. -/
theorem Tab.wf_putAll [DecidableEq α] {t : Tab α} {d : Nat → α} (ws : List (Nat × α)) (ht : Tab.wf t d = true) :
    Tab.wf (Tab.putAll t d ws) d = true := by
  induction ws generalizing t with
  | nil => exact ht
  | cons w r ih => exact ih (Tab.wf_put w.1 w.2 ht)

theorem Tab.wf_upd [DecidableEq α] {t : Tab α} {d : Nat → α} (k : Nat) (f : α → α) (ht : Tab.wf t d = true) :
    Tab.wf (Tab.upd t d k f) d = true := Tab.wf_put _ _ ht

theorem Tab.sortedFrom_keep {t : Tab α} {lo : Nat} (p : Nat → Bool) (ht : Tab.sortedFrom t lo = true) :
    Tab.sortedFrom (Tab.keep t p) lo = true := by
  induction t generalizing lo with
  | nil => rfl
  | cons e r ih =>
    simp only [Tab.sortedFrom, Bool.and_eq_true, decide_eq_true_eq] at ht
    by_cases h : p e.1 = true
    · simpa [Tab.keep, h, Tab.sortedFrom, ht.1] using ih ht.2
    · simpa [Tab.keep, h] using Tab.sortedFrom_mono (by omega : lo ≤ e.1 + 1) (ih ht.2)

/-- Dropping keys keeps the canonical form. -/
theorem Tab.wf_keep [DecidableEq α] {t : Tab α} {d : Nat → α} (p : Nat → Bool) (ht : Tab.wf t d = true) :
    Tab.wf (Tab.keep t p) d = true := by
  simp only [Tab.wf, Bool.and_eq_true, List.all_eq_true, decide_eq_true_eq] at ht ⊢
  exact ⟨Tab.sortedFrom_keep p ht.1, fun e he => ht.2 e (List.mem_of_mem_filter he)⟩

/-- A table in canonical form holds no entry for a key that reads as its default. -/
theorem Tab.getD_of_lt [DecidableEq α] {t : Tab α} {d : Nat → α} {lo k : Nat} (h : Tab.sortedFrom t lo = true) (hk : k < lo) :
    Tab.getD t d k = d k := by
  induction t generalizing lo with
  | nil => rfl
  | cons e r ih =>
    simp only [Tab.sortedFrom, Bool.and_eq_true, decide_eq_true_eq] at h
    have : k ≠ e.1 := by omega
    simpa [Tab.getD, this] using ih h.2 (by omega)

end Sys2Proof
end

