-- ==== Sys2Proof/Laws/Registers.lean ====
section
/-! SUPPORT. Register reads after register writes, writes in flight included (R239, R240). -/

namespace Sys2Proof.Machine

/-! ### Landing times -/

/-- The cycle from which every write in flight to a register has landed, and at least `a`. -/
theorem landFold_ge (l : List InFlight) (r : RegId) (a : Nat) :
    a ≤ l.foldl (fun a e => if e.reg = r then max a e.land else a) a := by
  induction l generalizing a with
  | nil => exact Nat.le_refl a
  | cons e l ih => exact Nat.le_trans (by beta_reduce; split <;> omega) (ih _)

theorem landFold_mem (l : List InFlight) (r : RegId) (a : Nat) (e : InFlight) (h : e ∈ l) (hr : e.reg = r) :
    e.land ≤ l.foldl (fun a e => if e.reg = r then max a e.land else a) a := by
  induction l generalizing a with
  | nil => simp at h
  | cons x l ih =>
    simp only [List.foldl_cons]
    obtain rfl | h := List.mem_cons.1 h
    · exact Nat.le_trans (by simp [hr]) (landFold_ge l r _)
    · exact ih _ h

theorem State.landAt_ge (s : State) (r : RegId) (lat : Nat) : s.cycle + lat ≤ s.landAt r lat := landFold_ge _ _ _

theorem State.landAt_mem (s : State) (r : RegId) (lat : Nat) (e : InFlight) (h : e ∈ s.wv.inflight) (hr : e.reg = r) :
    e.land ≤ s.landAt r lat := landFold_mem _ _ _ _ h hr

/-! ### Undoing what is still in flight -/

/-- No write in flight to `r` changes a value once all have landed. -/
theorem undo_landed (l : List InFlight) (c : Nat) (r : RegId) (v : W64) (h : ∀ e ∈ l, e.reg = r → e.land ≤ c) :
    l.foldr (fun e a => e.undo c r a) v = v := by
  induction l with
  | nil => rfl
  | cons e l ih =>
    have he := h e (by simp)
    rw [List.foldr_cons, ih fun x hx => h x (by simp [hx])]
    unfold InFlight.undo
    split <;> grind

theorem undoLane_landed (l : List InFlight) (c : Nat) (r : RegId) (k : Nat) (v : W32) (h : ∀ e ∈ l, e.reg = r → e.land ≤ c) :
    l.foldr (fun e a => e.undoLane c r k a) v = v := by
  induction l with
  | nil => rfl
  | cons e l ih =>
    have he := h e (by simp)
    rw [List.foldr_cons, ih fun x hx => h x (by simp [hx])]
    unfold InFlight.undoLane
    split <;> grind

theorem InFlight.undo_other (e : InFlight) (c : Nat) (r : RegId) (v : W64) (h : e.reg ≠ r) : e.undo c r v = v := by
  simp [InFlight.undo, h]

theorem InFlight.undoLane_other (e : InFlight) (c : Nat) (r : RegId) (k : Nat) (v : W32) (h : e.reg ≠ r) :
    e.undoLane c r k v = v := by
  simp [InFlight.undoLane, h]

/-! ### What a write puts in flight -/

theorem State.flight_rest (s : State) (r : RegId) (m : W64) (o : List W64) (lat : Nat) :
    s.flight r m o lat = { s with wv := { s.wv with inflight := (s.flight r m o lat).wv.inflight },
                                  st := { s.st with dist := (s.flight r m o lat).st.dist } } := by
  unfold State.flight; split <;> rfl

theorem State.flight_inflight (s : State) (r : RegId) (m : W64) (o : List W64) (lat : Nat) :
    (s.flight r m o lat).wv.inflight =
      s.wv.inflight ++ if lat = 0 then [] else [{ reg := r, lanes := m, old := o, land := s.landAt r lat }] := by
  unfold State.flight; split <;> simp

theorem State.writeS_rest (s : State) (n : Nat) (v : W64) (lat : Nat) :
    s.writeS n v lat = { s with wv := { s.wv with s := (s.writeS n v lat).wv.s, inflight := (s.writeS n v lat).wv.inflight },
                                st := { s.st with dist := (s.writeS n v lat).st.dist } } := by
  unfold State.writeS State.flight; split <;> (try split) <;> rfl

theorem State.writeM_rest (s : State) (n : Nat) (k v : W64) (lat : Nat) :
    s.writeM n k v lat = { s with wv := { s.wv with m := (s.writeM n k v lat).wv.m, inflight := (s.writeM n k v lat).wv.inflight },
                                  st := { s.st with dist := (s.writeM n k v lat).st.dist } } := by
  unfold State.writeM State.flight; simp only; split <;> rfl

theorem State.writeV_rest (s : State) (n : Nat) (k : W64) (f : Nat → W32) (lat : Nat) :
    s.writeV n k f lat = { s with wv := { s.wv with v := (s.writeV n k f lat).wv.v, inflight := (s.writeV n k f lat).wv.inflight },
                                  st := { s.st with dist := (s.writeV n k f lat).st.dist } } := by
  unfold State.writeV State.flight; simp only; split <;> rfl

theorem State.writeS_inflight (s : State) (n : Nat) (v : W64) (lat : Nat) :
    (s.writeS n v lat).wv.inflight = s.wv.inflight ++
      if n = 0 ∨ lat = 0 then [] else [{ reg := .sca n, lanes := BitVec.allOnes 64, old := [s.wv.s.get0 n], land := s.landAt (.sca n) lat }] := by
  unfold State.writeS State.flight; split <;> (try split) <;> simp_all

theorem State.writeM_inflight (s : State) (n : Nat) (k v : W64) (lat : Nat) :
    (s.writeM n k v lat).wv.inflight = s.wv.inflight ++
      if lat = 0 then [] else [{ reg := .msk n, lanes := k, old := [s.wv.m.get0 n], land := s.landAt (.msk n) lat }] := by
  unfold State.writeM State.flight; simp only; split <;> simp_all

theorem State.writeV_inflight (s : State) (n : Nat) (k : W64) (f : Nat → W32) (lat : Nat) :
    (s.writeV n k f lat).wv.inflight = s.wv.inflight ++
      if lat = 0 then [] else
        [{ reg := .vec n, lanes := k, old := lanes.map fun l => (s.wv.v.get0 (64 * n + l)).setWidth 64, land := s.landAt (.vec n) lat }] := by
  unfold State.writeV State.flight; simp only; split <;> simp_all

theorem State.writeS_s (s : State) (n m : Nat) (v : W64) (lat : Nat) :
    (s.writeS n v lat).wv.s.get0 m = if m = n ∧ n ≠ 0 then v else s.wv.s.get0 m := by
  unfold State.writeS State.flight; split <;> (try split) <;> simp_all [Tab.get0_put0]

theorem State.writeM_m (s : State) (n m : Nat) (k v : W64) (lat : Nat) :
    (s.writeM n k v lat).wv.m.get0 m = if m = n then (s.wv.m.get0 n &&& ~~~k) ||| (v &&& k) else s.wv.m.get0 m := by
  unfold State.writeM State.flight; simp only; split <;> simp [Tab.get0_put0]

theorem putLanes_get (t : Tab W32) (n : Nat) (k : W64) (f : Nat → W32) (ls : List Nat) (m l : Nat) (hl : l < 64)
    (hs : ∀ x ∈ ls, x < 64) :
    (putLanes t n k f ls).get0 (64 * m + l) =
      if m = n ∧ l ∈ ls ∧ k.getLsbD l = true then f l else t.get0 (64 * m + l) := by
  induction ls generalizing t with
  | nil => simp [putLanes]
  | cons x r ih =>
    have hx := hs x (by simp)
    rw [putLanes, ih _ fun y hy => hs y (by simp [hy])]
    by_cases hm : m = n
    · subst hm
      by_cases hlx : l = x
      · subst hlx; by_cases hk : k.getLsbD l = true <;> simp [hk, Tab.get0_put0]
      · have : 64 * m + l ≠ 64 * m + x := by omega
        by_cases hk : k.getLsbD x = true <;> simp [hk, Tab.get0_put0, hlx]
    · have : 64 * m + l ≠ 64 * n + x := by omega
      by_cases hk : k.getLsbD x = true <;> simp [hk, Tab.get0_put0, hm, this]

theorem mem_lanes (l : Nat) : l ∈ lanes ↔ l < 64 := List.mem_range

theorem State.writeV_v (s : State) (n m l : Nat) (k : W64) (f : Nat → W32) (lat : Nat) (hl : l < 64) :
    (s.writeV n k f lat).wv.v.get0 (64 * m + l) = if m = n ∧ k.getLsbD l = true then f l else s.wv.v.get0 (64 * m + l) := by
  have h := putLanes_get s.wv.v n k f lanes m l hl fun x hx => (mem_lanes x).1 hx
  simp only [mem_lanes, hl, true_and] at h
  unfold State.writeV State.flight; simp only; split <;> exact h

/-! ### Reads after writes -/

theorem State.readS_eq (s : State) (c n : Nat) :
    State.readS { s with cycle := c } n =
      if n = 0 then 0 else s.wv.inflight.foldr (fun e a => e.undo c (.sca n) a) (s.wv.s.get0 n) := rfl

theorem State.readS_writeS_landed (s : State) (n : Nat) (v : W64) (lat c : Nat) (h : s.landAt (.sca n) lat ≤ c) :
    State.readS { s.writeS n v lat with cycle := c } n = if n = 0 then 0 else v := by
  rw [State.readS_eq]
  split
  · rfl
  · rename_i hn
    rw [undo_landed, State.writeS_s]
    · simp [hn]
    · intro e he hr
      rw [State.writeS_inflight, List.mem_append] at he
      obtain he | he := he
      · exact Nat.le_trans (s.landAt_mem _ lat e he hr) h
      · split at he
        · simp at he
        · simp only [List.mem_singleton] at he; subst he; exact h

theorem State.readS_writeS_other (s : State) (n m : Nat) (v : W64) (lat : Nat) (h : m ≠ n) :
    (s.writeS n v lat).readS m = s.readS m := by
  have hc : (s.writeS n v lat).cycle = s.cycle := by rw [State.writeS_rest]
  have hi : ∀ x : W64, ((if n = 0 ∨ lat = 0 then ([] : List InFlight) else
      [{ reg := .sca n, lanes := BitVec.allOnes 64, old := [s.wv.s.get0 n], land := s.landAt (.sca n) lat }]).foldr
        (fun e a => e.undo s.cycle (.sca m) a) x) = x := by
    intro x; split
    · rfl
    · exact InFlight.undo_other _ _ _ _ (by simp; omega)
  unfold State.readS
  rw [State.writeS_inflight, List.foldr_append, hc, State.writeS_s]
  simp only [hi, h, false_and, if_false]

theorem State.readS_writeS_now (s : State) (n : Nat) (v : W64) (lat : Nat) (h : 0 < lat) :
    (s.writeS n v lat).readS n = s.readS n := by
  have hc : (s.writeS n v lat).cycle = s.cycle := by rw [State.writeS_rest]
  unfold State.readS
  split
  · rfl
  · rename_i hn
    have hl := s.landAt_ge (.sca n) lat
    have h0 : lat ≠ 0 := by omega
    rw [State.writeS_inflight, List.foldr_append, hc, State.writeS_s]
    simp only [hn, h0, or_self, if_false, List.foldr_cons, List.foldr_nil]
    have hlt : s.cycle < s.landAt (.sca n) lat := by omega
    congr 1
    simp only [InFlight.undo, hlt, and_self, if_true, List.headD_cons, BitVec.not_allOnes, BitVec.and_zero, BitVec.zero_or,
      BitVec.and_allOnes]

theorem State.readM_writeM_landed (s : State) (n : Nat) (k v : W64) (lat c : Nat) (h : s.landAt (.msk n) lat ≤ c) :
    State.readM { s.writeM n k v lat with cycle := c } n =
      (State.readM { s with cycle := c } n &&& ~~~k) ||| (v &&& k) := by
  have hs : ∀ e ∈ s.wv.inflight, e.reg = .msk n → e.land ≤ c := fun e he hr => Nat.le_trans (s.landAt_mem _ lat e he hr) h
  have hr : State.readM { s with cycle := c } n = s.wv.m.get0 n := undo_landed _ _ _ _ hs
  rw [hr]
  refine (undo_landed _ _ _ _ ?_).trans (by rw [State.writeM_m]; simp)
  intro e he hr
  simp only [State.writeM_inflight, List.mem_append] at he
  obtain he | he := he
  · exact hs e he hr
  · split at he
    · simp at he
    · simp only [List.mem_singleton] at he; subst he; exact h

theorem State.readM_writeM_other (s : State) (n m : Nat) (k v : W64) (lat : Nat) (h : m ≠ n) :
    (s.writeM n k v lat).readM m = s.readM m := by
  have hc : (s.writeM n k v lat).cycle = s.cycle := by rw [State.writeM_rest]
  unfold State.readM
  rw [State.writeM_inflight, List.foldr_append, hc, State.writeM_m]
  simp only [h, if_false]
  congr 1
  split
  · rfl
  · exact InFlight.undo_other _ _ _ _ (by simp; omega)

theorem State.readM_writeM_now (s : State) (n : Nat) (k v : W64) (lat : Nat) (h : 0 < lat) :
    (s.writeM n k v lat).readM n = s.readM n := by
  have hc : (s.writeM n k v lat).cycle = s.cycle := by rw [State.writeM_rest]
  have hl := s.landAt_ge (.msk n) lat
  have h0 : lat ≠ 0 := by omega
  have hlt : s.cycle < s.landAt (.msk n) lat := by omega
  unfold State.readM
  rw [State.writeM_inflight, List.foldr_append, hc, State.writeM_m]
  simp only [h0, if_false, if_true, List.foldr_cons, List.foldr_nil]
  congr 1
  simp only [InFlight.undo, hlt, and_self, if_true, List.headD_cons]
  ext i hi
  simp only [BitVec.getElem_or, BitVec.getElem_and, BitVec.getElem_not]
  cases k[i] <;> simp

theorem State.readV_writeV_landed (s : State) (n l : Nat) (k : W64) (f : Nat → W32) (lat c : Nat) (hl : l < 64)
    (h : s.landAt (.vec n) lat ≤ c) :
    State.readV { s.writeV n k f lat with cycle := c } n l =
      if k.getLsbD l = true then f l else State.readV { s with cycle := c } n l := by
  have hs : ∀ e ∈ s.wv.inflight, e.reg = .vec n → e.land ≤ c := fun e he hr => Nat.le_trans (s.landAt_mem _ lat e he hr) h
  have hr : State.readV { s with cycle := c } n l = s.wv.v.get0 (64 * n + l) := undoLane_landed _ _ _ _ _ hs
  rw [hr]
  refine (undoLane_landed _ _ _ _ _ ?_).trans (by rw [State.writeV_v _ _ _ _ _ _ _ hl]; simp)
  intro e he hr
  simp only [State.writeV_inflight, List.mem_append] at he
  obtain he | he := he
  · exact hs e he hr
  · split at he
    · simp at he
    · simp only [List.mem_singleton] at he; subst he; exact h

theorem State.readV_writeV_other (s : State) (n m l : Nat) (k : W64) (f : Nat → W32) (lat : Nat) (hl : l < 64) (h : m ≠ n) :
    (s.writeV n k f lat).readV m l = s.readV m l := by
  have hc : (s.writeV n k f lat).cycle = s.cycle := by rw [State.writeV_rest]
  unfold State.readV
  rw [State.writeV_inflight, List.foldr_append, hc, State.writeV_v _ _ _ _ _ _ _ hl]
  simp only [h, false_and, if_false]
  congr 1
  split
  · rfl
  · exact InFlight.undoLane_other _ _ _ _ _ (by simp; omega)

theorem State.readV_writeV_now (s : State) (n l : Nat) (k : W64) (f : Nat → W32) (lat : Nat) (hl : l < 64) (h : 0 < lat) :
    (s.writeV n k f lat).readV n l = s.readV n l := by
  have hc : (s.writeV n k f lat).cycle = s.cycle := by rw [State.writeV_rest]
  have hg := s.landAt_ge (.vec n) lat
  have h0 : lat ≠ 0 := by omega
  have hlt : s.cycle < s.landAt (.vec n) lat := by omega
  unfold State.readV
  rw [State.writeV_inflight, List.foldr_append, hc, State.writeV_v _ _ _ _ _ _ _ hl]
  simp only [h0, if_false, true_and, List.foldr_cons, List.foldr_nil]
  congr 1
  by_cases hk : k.getLsbD l = true
  · simp [InFlight.undoLane, hlt, hk, lanes, List.getD_eq_getElem?_getD, hl]
  · simp [InFlight.undoLane, hk]

/-! ### Files do not meet -/

theorem regs_of_write {p : Prop} [Decidable p] {x : InFlight} {r : RegId} (h : x.reg ≠ r) : ∀ e ∈ (if p then [] else [x]), e.reg ≠ r := by
  intro e he
  split at he
  · cases he
  · rw [List.mem_singleton.1 he]; exact h

theorem undo_append_other (l x : List InFlight) (c : Nat) (r : RegId) (v : W64) (h : ∀ e ∈ x, e.reg ≠ r) :
    (l ++ x).foldr (fun e a => e.undo c r a) v = l.foldr (fun e a => e.undo c r a) v := by
  rw [List.foldr_append]
  congr 1
  induction x with
  | nil => rfl
  | cons e x ih =>
    rw [List.foldr_cons, ih fun y hy => h y (by simp [hy])]
    exact InFlight.undo_other _ _ _ _ (h e (by simp))

theorem undoLane_append_other (l x : List InFlight) (c : Nat) (r : RegId) (k : Nat) (v : W32) (h : ∀ e ∈ x, e.reg ≠ r) :
    (l ++ x).foldr (fun e a => e.undoLane c r k a) v = l.foldr (fun e a => e.undoLane c r k a) v := by
  rw [List.foldr_append]
  congr 1
  induction x with
  | nil => rfl
  | cons e x ih =>
    rw [List.foldr_cons, ih fun y hy => h y (by simp [hy])]
    exact InFlight.undoLane_other _ _ _ _ _ (h e (by simp))

/-! ### Tracked results (R239) -/

/-- What a tracked scalar write changes. -/
theorem State.writeTracked_rest (s : State) (n : Nat) (v : W64) (lat : Nat) (hn : n ≠ 0) :
    s.writeTracked n v lat =
      { s with wv := { s.wv with
          s := s.wv.s.put0 n v,
          inflight := s.wv.inflight ++ [{ reg := .sca n, lanes := BitVec.allOnes 64, old := [s.wv.s.get0 n], land := s.landAt (.sca n) lat }],
          tracked := (.sca n, s.st.fid, s.landAt (.sca n) lat) :: s.wv.tracked.filter fun e => decide (e.1 ≠ .sca n) } } := by
  unfold State.writeTracked
  rw [if_neg hn]
  rfl

theorem State.readS_writeTracked_landed (s : State) (n : Nat) (v : W64) (lat c : Nat) (hn : n ≠ 0) (h : s.landAt (.sca n) lat ≤ c) :
    State.readS { s.writeTracked n v lat with cycle := c } n = v := by
  rw [State.readS_eq, State.writeTracked_rest _ _ _ _ hn, if_neg hn, undo_landed]
  · simp [Tab.get0_put0]
  · intro e he hr
    rcases List.mem_append.1 he with he | he
    · exact Nat.le_trans (s.landAt_mem _ lat e he hr) h
    · rw [List.mem_singleton.1 he]; exact h

theorem State.readS_writeTracked_now (s : State) (n : Nat) (v : W64) (lat : Nat) (h : 0 < lat) :
    (s.writeTracked n v lat).readS n = s.readS n := by
  by_cases hn : n = 0
  · subst hn; rfl
  rw [State.writeTracked_rest _ _ _ _ hn]
  unfold State.readS
  have hl := s.landAt_ge (.sca n) lat
  have hlt : s.cycle < s.landAt (.sca n) lat := by omega
  simp only [hn, if_false, List.foldr_append, List.foldr_cons, List.foldr_nil, InFlight.undo, hlt, and_self, if_true, List.headD_cons,
    BitVec.not_allOnes, BitVec.and_zero, BitVec.zero_or, BitVec.and_allOnes]

theorem State.readS_writeTracked_other (s : State) (n m : Nat) (v : W64) (lat : Nat) (h : m ≠ n) :
    (s.writeTracked n v lat).readS m = s.readS m := by
  by_cases hn : n = 0
  · subst hn; rfl
  rw [State.writeTracked_rest _ _ _ _ hn]
  unfold State.readS
  have h0 : (s.wv.s.put0 n v).get0 m = s.wv.s.get0 m := by simp [Tab.get0_put0, h]
  rw [undo_append_other _ _ _ _ _ (by intro e he; rw [List.mem_singleton.1 he]; simp; omega)]
  simp only [h0]

@[simp] theorem State.readM_writeTracked (s : State) (n m : Nat) (v : W64) (lat : Nat) : (s.writeTracked n v lat).readM m = s.readM m := by
  by_cases hn : n = 0
  · subst hn; rfl
  rw [State.writeTracked_rest _ _ _ _ hn]
  unfold State.readM
  exact undo_append_other _ _ _ _ _ (by intro e he; rw [List.mem_singleton.1 he]; simp)

@[simp] theorem State.readV_writeTracked (s : State) (n m l : Nat) (v : W64) (lat : Nat) : (s.writeTracked n v lat).readV m l = s.readV m l := by
  by_cases hn : n = 0
  · subst hn; rfl
  rw [State.writeTracked_rest _ _ _ _ hn]
  unfold State.readV
  exact undoLane_append_other _ _ _ _ _ _ (by intro e he; rw [List.mem_singleton.1 he]; simp)

@[simp] theorem State.readM_writeS (s : State) (n m : Nat) (v : W64) (lat : Nat) :
    (s.writeS n v lat).readM m = s.readM m := by
  have h := s.writeS_rest n v lat
  have hi := s.writeS_inflight n v lat
  rw [h]
  unfold State.readM
  simp only [hi]
  exact undo_append_other _ _ _ _ _ (regs_of_write fun h => by cases h)

@[simp] theorem State.readV_writeS (s : State) (n m l : Nat) (v : W64) (lat : Nat) :
    (s.writeS n v lat).readV m l = s.readV m l := by
  have h := s.writeS_rest n v lat
  have hi := s.writeS_inflight n v lat
  rw [h]
  unfold State.readV
  simp only [hi]
  exact undoLane_append_other _ _ _ _ _ _ (regs_of_write fun h => by cases h)

@[simp] theorem State.readS_writeM (s : State) (n m : Nat) (k v : W64) (lat : Nat) :
    (s.writeM n k v lat).readS m = s.readS m := by
  have h := s.writeM_rest n k v lat
  have hi := s.writeM_inflight n k v lat
  rw [h]
  unfold State.readS
  split; · rfl
  simp only [hi]
  exact undo_append_other _ _ _ _ _ (regs_of_write fun h => by cases h)

@[simp] theorem State.readV_writeM (s : State) (n m l : Nat) (k v : W64) (lat : Nat) :
    (s.writeM n k v lat).readV m l = s.readV m l := by
  have h := s.writeM_rest n k v lat
  have hi := s.writeM_inflight n k v lat
  rw [h]
  unfold State.readV
  simp only [hi]
  exact undoLane_append_other _ _ _ _ _ _ (regs_of_write fun h => by cases h)

@[simp] theorem State.readS_writeV (s : State) (n m : Nat) (k : W64) (f : Nat → W32) (lat : Nat) :
    (s.writeV n k f lat).readS m = s.readS m := by
  have h := s.writeV_rest n k f lat
  have hi := s.writeV_inflight n k f lat
  rw [h]
  unfold State.readS
  split; · rfl
  simp only [hi]
  exact undo_append_other _ _ _ _ _ (regs_of_write fun h => by cases h)

@[simp] theorem State.readM_writeV (s : State) (n m : Nat) (k : W64) (f : Nat → W32) (lat : Nat) :
    (s.writeV n k f lat).readM m = s.readM m := by
  have h := s.writeV_rest n k f lat
  have hi := s.writeV_inflight n k f lat
  rw [h]
  unfold State.readM
  simp only [hi]
  exact undo_append_other _ _ _ _ _ (regs_of_write fun h => by cases h)

/-! ### Runs of vector registers -/

theorem State.readV_writeV_other_at (s : State) (n m l c : Nat) (k : W64) (f : Nat → W32) (lat : Nat) (hl : l < 64) (h : m ≠ n) :
    State.readV { s.writeV n k f lat with cycle := c } m l = State.readV { s with cycle := c } m l := by
  unfold State.readV
  simp only [State.writeV_inflight]
  rw [undoLane_append_other _ _ _ _ _ _ (regs_of_write fun e => h (RegId.vec.inj e).symm), State.writeV_v _ _ _ _ _ _ _ hl]
  simp [h]

theorem State.landAt_writeV_other (s : State) (n m : Nat) (k : W64) (f : Nat → W32) (lat lat' : Nat) (h : m ≠ n) :
    (s.writeV n k f lat).landAt (.vec m) lat' = s.landAt (.vec m) lat' := by
  have hc : (s.writeV n k f lat).cycle = s.cycle := by rw [State.writeV_rest]
  unfold State.landAt
  rw [State.writeV_inflight, hc, List.foldl_append]
  split
  · rfl
  · simp only [List.foldl_cons, List.foldl_nil]
    rw [if_neg fun e => h (RegId.vec.inj e).symm]

/-- Writes of `count` registers from `n`, in order. -/
def State.writeRun (s : State) (n count : Nat) (k : W64) (g : Nat → Nat → W32) (lat : Nat) : State :=
  (List.range count).foldl (fun t i => t.writeV (n + i) k (g i) lat) s

theorem State.writeRun_succ (s : State) (n count : Nat) (k : W64) (g : Nat → Nat → W32) (lat : Nat) :
    s.writeRun n (count + 1) k g lat = (s.writeRun n count k g lat).writeV (n + count) k (g count) lat := by
  simp [State.writeRun, List.range_succ]

theorem State.writeRun_rest (s : State) (n count : Nat) (k : W64) (g : Nat → Nat → W32) (lat : Nat) :
    s.writeRun n count k g lat =
      { s with wv := { s.wv with v := (s.writeRun n count k g lat).wv.v, inflight := (s.writeRun n count k g lat).wv.inflight },
               st := { s.st with dist := (s.writeRun n count k g lat).st.dist } } := by
  induction count with
  | zero => rfl
  | succ c ih => rw [State.writeRun_succ, State.writeV_rest, ih]

theorem State.writeRun_readS (s : State) (n count : Nat) (k : W64) (g : Nat → Nat → W32) (lat m : Nat) :
    (s.writeRun n count k g lat).readS m = s.readS m := by
  induction count with
  | zero => rfl
  | succ c ih => rw [State.writeRun_succ, State.readS_writeV, ih]

theorem State.writeRun_readM (s : State) (n count : Nat) (k : W64) (g : Nat → Nat → W32) (lat m : Nat) :
    (s.writeRun n count k g lat).readM m = s.readM m := by
  induction count with
  | zero => rfl
  | succ c ih => rw [State.writeRun_succ, State.readM_writeV, ih]

theorem State.writeRun_readV_other (s : State) (n count : Nat) (k : W64) (g : Nat → Nat → W32) (lat m l c : Nat) (hl : l < 64)
    (h : ∀ i, i < count → m ≠ n + i) :
    State.readV { s.writeRun n count k g lat with cycle := c } m l = State.readV { s with cycle := c } m l := by
  induction count with
  | zero => rfl
  | succ d ih =>
    rw [State.writeRun_succ, State.readV_writeV_other_at _ _ _ _ _ _ _ _ hl (h d (by omega)), ih fun i hi => h i (by omega)]

theorem State.writeRun_landAt_other (s : State) (n count : Nat) (k : W64) (g : Nat → Nat → W32) (lat lat' m : Nat)
    (h : ∀ i, i < count → m ≠ n + i) : (s.writeRun n count k g lat).landAt (.vec m) lat' = s.landAt (.vec m) lat' := by
  induction count with
  | zero => rfl
  | succ d ih => rw [State.writeRun_succ, State.landAt_writeV_other _ _ _ _ _ _ _ (h d (by omega)), ih fun i hi => h i (by omega)]

theorem State.cycle_self (s t : State) (h : t.cycle = s.cycle) : ({ t with cycle := s.cycle } : State) = t := by rw [← h]

theorem State.writeRun_cycle (s : State) (n count : Nat) (k : W64) (g : Nat → Nat → W32) (lat : Nat) :
    (s.writeRun n count k g lat).cycle = s.cycle := by rw [State.writeRun_rest]

theorem State.writeRun_landed (s : State) (n count : Nat) (k : W64) (g : Nat → Nat → W32) (lat i l c : Nat) (hi : i < count)
    (hl : l < 64) (h : s.landAt (.vec (n + i)) lat ≤ c) :
    State.readV { s.writeRun n count k g lat with cycle := c } (n + i) l =
      if k.getLsbD l = true then g i l else State.readV { s with cycle := c } (n + i) l := by
  induction count with
  | zero => omega
  | succ d ih =>
    rw [State.writeRun_succ]
    by_cases hd : i = d
    · subst hd
      rw [State.readV_writeV_landed _ _ _ _ _ _ _ hl (by rwa [State.writeRun_landAt_other _ _ _ _ _ _ _ _ fun j hj => by omega]),
        State.writeRun_readV_other _ _ _ _ _ _ _ _ _ hl fun j hj => by omega]
    · rw [State.readV_writeV_other_at _ _ _ _ _ _ _ _ hl (by omega), ih (by omega)]

theorem State.writeRun_now (s : State) (n count : Nat) (k : W64) (g : Nat → Nat → W32) (lat i l : Nat) (hi : i < count)
    (hl : l < 64) (h : 0 < lat) : (s.writeRun n count k g lat).readV (n + i) l = s.readV (n + i) l := by
  induction count with
  | zero => omega
  | succ d ih =>
    rw [State.writeRun_succ]
    by_cases hd : i = d
    · subst hd
      rw [State.readV_writeV_now _ _ _ _ _ _ hl h]
      have := State.writeRun_readV_other s n i k g lat (n + i) l s.cycle hl fun j hj => by omega
      rwa [State.cycle_self _ _ (State.writeRun_cycle ..)] at this
    · rw [State.readV_writeV_other _ _ _ _ _ _ _ hl (by omega), ih (by omega)]

theorem State.writeRun_issued (s : State) (n count : Nat) (k : W64) (g : Nat → Nat → W32) (lat : Nat) :
    (s.writeRun n count k g lat).st.issued = s.st.issued := by rw [State.writeRun_rest]

theorem State.writeRun_lfsr (s : State) (n count : Nat) (k : W64) (g : Nat → Nat → W32) (lat l : Nat) :
    (s.writeRun n count k g lat).lfsr l = s.lfsr l := by rw [State.writeRun_rest]; rfl

end Sys2Proof.Machine
end

