-- ==== Sys2Proof/Laws/Issue.lean ====
section
/-! SUPPORT. What the checks before an instruction's own do, and the effect of the instructions that write one register. -/

namespace Sys2Proof.Machine

/-- Past the checks the instruction runs with its tracked sources landed (R239, R241). -/
theorem checked_clear {n : Named} {s : State} (h : s.clearOf n) (k : State → Out) : checked n s k = k (s.untrack n.reads) := by
  obtain ⟨h1, h2, h3, h4, -⟩ := h
  simp [checked, h1, h2, h3, h4]

theorem guarded_clear {n : Named} {s : State} (h : s.clearOf n) (k : State → Out) : guarded n s k = k (s.untrack n.reads) := by
  rw [guarded, checked_clear h]
  have h4 := h.2.2.2.2
  cases hs : s.wv.shadow
  · simp [State.untrack, hs]
  · simp [State.untrack, hs, h4 hs]

theorem State.untrack_rest (s : State) (rs : List RegId) :
    s.untrack rs = { s with wv := { s.wv with tracked := (s.untrack rs).wv.tracked } } := rfl

@[simp] theorem State.untrack_readS (s : State) (rs : List RegId) (n : Nat) : (s.untrack rs).readS n = s.readS n := rfl
@[simp] theorem State.untrack_readM (s : State) (rs : List RegId) (n : Nat) : (s.untrack rs).readM n = s.readM n := rfl
@[simp] theorem State.untrack_readV (s : State) (rs : List RegId) (n l : Nat) : (s.untrack rs).readV n l = s.readV n l := rfl
@[simp] theorem State.untrack_sval (s : State) (rs : List RegId) (x : Src) (i : W32) (e : Option Ext) :
    (s.untrack rs).sval x i e = s.sval x i e := rfl
@[simp] theorem State.untrack_landAt (s : State) (rs : List RegId) (r : RegId) (n : Nat) : (s.untrack rs).landAt r n = s.landAt r n := rfl
@[simp] theorem State.untrack_activeLanes (s : State) (rs : List RegId) (h : Head) : (s.untrack rs).activeLanes h = s.activeLanes h := rfl

/-- An instruction's end leaves the registers, the flags and everything outside the stream. -/
theorem State.retireTo_rest (s : State) (h : Head) (pc : W64) (cost : Nat) :
    s.retireTo h pc cost = { s with st := (s.retireTo h pc cost).st } := rfl

@[simp] theorem State.retireTo_readS (s : State) (h : Head) (pc : W64) (cost n : Nat) : (s.retireTo h pc cost).readS n = s.readS n := rfl
@[simp] theorem State.retireTo_readM (s : State) (h : Head) (pc : W64) (cost n : Nat) : (s.retireTo h pc cost).readM n = s.readM n := rfl
@[simp] theorem State.retireTo_readV (s : State) (h : Head) (pc : W64) (cost n l : Nat) :
    (s.retireTo h pc cost).readV n l = s.readV n l := rfl
@[simp] theorem State.retire_readS (s : State) (h : Head) (cost n : Nat) : (s.retire h cost).readS n = s.readS n := rfl
@[simp] theorem State.retire_readM (s : State) (h : Head) (cost n : Nat) : (s.retire h cost).readM n = s.readM n := rfl
@[simp] theorem State.retire_readV (s : State) (h : Head) (cost n l : Nat) : (s.retire h cost).readV n l = s.readV n l := rfl
@[simp] theorem State.orFlags_readS (s : State) (f : Flags) (n : Nat) : (s.orFlags f).readS n = s.readS n := rfl
@[simp] theorem State.orFlags_readM (s : State) (f : Flags) (n : Nat) : (s.orFlags f).readM n = s.readM n := rfl
@[simp] theorem State.orFlags_readV (s : State) (f : Flags) (n l : Nat) : (s.orFlags f).readV n l = s.readV n l := rfl

@[simp] theorem State.orFlags_zero (s : State) : s.orFlags 0 = s := by
  have : s.wv.flg ||| 0 = s.wv.flg := BitVec.or_zero
  unfold State.orFlags; rw [this]

@[simp] theorem State.retire_lfsr (s : State) (h : Head) (cost l : Nat) : (s.retire h cost).lfsr l = s.lfsr l := rfl
@[simp] theorem State.orFlags_lfsr (s : State) (f : Flags) (l : Nat) : (s.orFlags f).lfsr l = s.lfsr l := rfl
@[simp] theorem State.untrack_lfsr (s : State) (rs : List RegId) (l : Nat) : (s.untrack rs).lfsr l = s.lfsr l := rfl
@[simp] theorem State.writeS_lfsr (s : State) (n : Nat) (v : W64) (lat l : Nat) : (s.writeS n v lat).lfsr l = s.lfsr l := by
  rw [State.writeS_rest]; rfl
@[simp] theorem State.writeM_lfsr (s : State) (n : Nat) (k v : W64) (lat l : Nat) : (s.writeM n k v lat).lfsr l = s.lfsr l := by
  rw [State.writeM_rest]; rfl
@[simp] theorem State.writeV_lfsr (s : State) (n : Nat) (k : W64) (f : Nat → W32) (lat l : Nat) :
    (s.writeV n k f lat).lfsr l = s.lfsr l := by
  rw [State.writeV_rest]; rfl
theorem State.setLfsr_lfsr (s : State) (k l : Nat) (x : W32) : (s.setLfsr k x).lfsr l = if l = k then x else s.lfsr l :=
  Tab.getD_put ..
theorem State.setLfsr_rest (s : State) (k : Nat) (x : W32) :
    s.setLfsr k x = { s with wv := { s.wv with lfsr := (s.setLfsr k x).wv.lfsr } } := rfl

/-- The whole effect of writing one scalar register and going on. -/
theorem scalarEffect_write (s : State) (rs : List RegId) (h : Head) (n : Nat) (v : W64) (lat : Nat) (fl : Flags) :
    scalarEffect s ((((s.untrack rs).writeS n v lat).orFlags fl).retire h) h n v lat fl 0 := by
  have hw := (s.untrack rs).writeS_rest n v lat
  refine ⟨⟨fun c hc => (s.untrack rs).readS_writeS_landed n v lat c hc, fun hl => (s.untrack rs).readS_writeS_now n v lat hl⟩, ?_,
    fun m hm => (s.untrack rs).readS_writeS_other n m v lat (by simpa using hm), fun m l _ _ => (s.untrack rs).readV_writeS n m l v lat,
    fun m _ => (s.untrack rs).readM_writeS n m v lat, fun l _ => ?_, ?_, ?_, ?_, fun a => ?_⟩
  case refine_2 => simp [lfsrSteps]
  all_goals (simp only [keepsWave, retires, retiresTo, State.retire, State.retireTo, State.orFlags]; rw [hw]; rfl)

/-- The same where a stochastic rounding advances lane 0's state (R249). -/
theorem scalarEffect_draw (s : State) (rs : List RegId) (h : Head) (n : Nat) (v : W64) (lat : Nat) (fl : Flags) :
    scalarEffect s (((((s.untrack rs).writeS n v lat).orFlags fl).setLfsr 0 (lfsrStep (s.lfsr 0))).retire h) h n v lat fl 1 := by
  have hw := (s.untrack rs).writeS_rest n v lat
  refine ⟨⟨fun c hc => (s.untrack rs).readS_writeS_landed n v lat c hc, fun hl => (s.untrack rs).readS_writeS_now n v lat hl⟩, ?_,
    fun m hm => (s.untrack rs).readS_writeS_other n m v lat (by simpa using hm), fun m l _ _ => (s.untrack rs).readV_writeS n m l v lat,
    fun m _ => (s.untrack rs).readM_writeS n m v lat, fun l _ => ?_, ?_, ?_, ?_, fun a => ?_⟩
  case refine_2 => by_cases hl : l = 0 <;> simp [State.setLfsr_lfsr, lfsrSteps, hl]
  all_goals
    simp only [keepsWave, retires, retiresTo, State.retire, State.retireTo, State.orFlags, State.setLfsr]; rw [hw]; rfl

/-- The whole effect of writing one mask register and going on. -/
theorem maskEffect_write (s : State) (rs : List RegId) (h : Head) (n : Nat) (k v : W64) (lat : Nat) (fl : Flags) :
    maskEffect s ((((s.untrack rs).writeM n k v lat).orFlags fl).retire h) h n k v lat fl := by
  have hw := (s.untrack rs).writeM_rest n k v lat
  refine ⟨⟨fun c hc => (s.untrack rs).readM_writeM_landed n k v lat c hc, fun hl => (s.untrack rs).readM_writeM_now n k v lat hl⟩, ?_,
    fun m hm => (s.untrack rs).readM_writeM_other n m k v lat (by simpa using hm), fun m l _ _ => (s.untrack rs).readV_writeM n m l k v lat,
    fun m _ => (s.untrack rs).readS_writeM n m k v lat, fun l _ => ?_, ?_, ?_, ?_, fun a => ?_⟩
  case refine_2 => simp [lfsrSteps]
  all_goals (simp only [keepsWave, retires, retiresTo, State.retire, State.retireTo, State.orFlags]; rw [hw]; rfl)

/-- The rounding states of the lanes in a list advance, each by `n` draws. -/
theorem advanceList_lfsr (act : W64) (n : Nat) (ls : List Nat) (hn : ls.Nodup) (s : State) (l : Nat) :
    (ls.foldl (fun s k => if act.getLsbD k then s.setLfsr k (lfsrSteps (s.lfsr k) n) else s) s).lfsr l =
      if l ∈ ls ∧ act.getLsbD l = true then lfsrSteps (s.lfsr l) n else s.lfsr l := by
  induction ls generalizing s with
  | nil => simp
  | cons x r ih =>
    obtain ⟨hx, hr⟩ := List.nodup_cons.1 hn
    rw [List.foldl_cons, ih hr]
    by_cases ha : act.getLsbD x = true
    · by_cases hl : l = x
      · subst hl; simp [ha, hx, State.setLfsr_lfsr]
      · simp [ha, hl, State.setLfsr_lfsr]
    · by_cases hl : l = x
      · subst hl; simp [ha]
      · simp [ha, hl]

/-- The state with another table of rounding states. -/
def State.withLfsr (s : State) (x : Tab W32) : State := { s with wv := { s.wv with lfsr := x } }

theorem State.setLfsr_eq (s : State) (k : Nat) (x : W32) :
    s.setLfsr k x = s.withLfsr (Tab.put s.wv.lfsr (seedOf fmtReset) k x) := rfl
theorem State.withLfsr_withLfsr (s : State) (x y : Tab W32) : (s.withLfsr x).withLfsr y = s.withLfsr y := rfl

theorem advanceList_only (act : W64) (n : Nat) (ls : List Nat) (s : State) :
    ∃ x, ls.foldl (fun s k => if act.getLsbD k then s.setLfsr k (lfsrSteps (s.lfsr k) n) else s) s = s.withLfsr x := by
  induction ls generalizing s with
  | nil => exact ⟨s.wv.lfsr, rfl⟩
  | cons x r ih =>
    rw [List.foldl_cons]
    by_cases h : act.getLsbD x = true
    · rw [if_pos h]
      obtain ⟨y, hy⟩ := ih (s.setLfsr x (lfsrSteps (s.lfsr x) n))
      exact ⟨y, by rw [hy, State.setLfsr_eq, State.withLfsr_withLfsr]⟩
    · rw [if_neg h]; exact ih s

theorem State.advance_lfsr (s : State) (mode : Nat) (act : W64) (n l : Nat) (hl : l < 64) :
    (s.advance mode act n).lfsr l = lfsrSteps (s.lfsr l) (if mode = 6 ∧ act.getLsbD l = true then n else 0) := by
  unfold State.advance
  by_cases hm : mode = 6
  · have h := advanceList_lfsr act n lanes List.nodup_range s l
    simp only [mem_lanes, hl, true_and] at h
    rw [if_pos hm, h]
    simp only [hm, true_and]
    split <;> rfl
  · simp [hm, lfsrSteps]

theorem State.advance_rest (s : State) (mode : Nat) (act : W64) (n : Nat) :
    s.advance mode act n = { s with wv := { s.wv with lfsr := (s.advance mode act n).wv.lfsr } } := by
  unfold State.advance
  by_cases hm : mode = 6
  · rw [if_pos hm]
    obtain ⟨x, hx⟩ := advanceList_only act n lanes s
    rw [hx, State.withLfsr]
  · rw [if_neg hm]

/-- The whole effect of writing a run of vector registers, going on, and advancing rounding states. -/
theorem lanesEffect_write (s : State) (rs : List RegId) (h : Head) (n count : Nat) (k : W64) (g : Nat → Nat → W32) (lat : Nat) (fl : Flags)
    (mode : Nat) (act : W64) (draws : Nat) :
    lanesEffect s (((((s.untrack rs).writeRun n count k g lat).orFlags fl).retire h).advance mode act draws) h n count k g lat fl
      (fun l => if mode = 6 ∧ act.getLsbD l = true then draws else 0) := by
  have hw := (s.untrack rs).writeRun_rest n count k g lat
  have ha := ((((s.untrack rs).writeRun n count k g lat).orFlags fl).retire h).advance_rest mode act draws
  have hl := fun l hl => ((((s.untrack rs).writeRun n count k g lat).orFlags fl).retire h).advance_lfsr mode act draws l hl
  refine ⟨fun i hi => ⟨fun c l hl hc => ?_, fun hp l hl => ?_⟩, ?_, fun m l hl hm => ?_, fun m _ => ?_, fun m _ => ?_, fun l hh => ?_,
    ?_, ?_, ?_, fun a => ?_⟩
  · rw [ha]; exact (s.untrack rs).writeRun_landed n count k g lat i l c hi hl hc
  · rw [ha]; exact (s.untrack rs).writeRun_now n count k g lat i l hi hl hp
  · rw [ha]; simp only [State.retire, State.retireTo, State.orFlags]; rw [hw]; rfl
  · rw [ha]
    have hm' : ∀ i, i < count → m ≠ n + i := fun i hi e => hm (List.mem_map.2 ⟨i, List.mem_range.2 hi, e.symm⟩)
    have := (s.untrack rs).writeRun_readV_other n count k g lat m l s.cycle hl hm'
    rw [State.cycle_self _ _ (by exact State.writeRun_cycle ..)] at this
    exact this
  · rw [ha]; exact (s.untrack rs).writeRun_readS n count k g lat m
  · rw [ha]; exact (s.untrack rs).writeRun_readM n count k g lat m
  · rw [hl l hh]; simp [State.writeRun_lfsr]
  all_goals
    rw [ha]; simp only [keepsWave, retires, retiresTo, State.retire, State.retireTo, State.orFlags]; rw [hw]; rfl

theorem State.vecResult_eq (s : State) (r : VRule) (f : VF) (res : Nat → LaneRes) (hr : r.regs f.ty = 1 ∨ r.regs f.ty = 2) :
    s.vecResult r f res =
      ((s.writeRun f.dst.toNat (r.regs f.ty) (s.written f.h)
          (fun k l => ((if (s.activeLanes f.h).getLsbD l then (res l).1 else 0) >>> (32 * k)).setWidth 32) (f.latency r)).orFlags
        (laneFlags (s.activeLanes f.h) res)).retire f.h := by
  obtain h | h := hr
  · simp [State.vecResult, State.writeRun, h]
  · simp [State.vecResult, State.writeRun, h, List.range_succ]

/-! ### Families -/

/-- The effect of an instruction whose lanes are independent, where it draws nothing. -/
theorem runVec_effect {r : VRule} {f : VF} {s : State} (h : s.clearOf (f.named r)) (hr : r.regs f.ty = 1 ∨ r.regs f.ty = 2)
    (res : State → W64 → Nat → LaneRes) :
    ∃ t, runVec r f s res = .next t ∧
      vecEffect s t f (r.regs f.ty) r.lat 0 (res (s.untrack (f.named r).reads) (s.activeLanes f.h)) := by
  refine ⟨_, by rw [runVec, guarded_clear h], ?_⟩
  rw [State.vecResult_eq _ _ _ _ hr]
  have h0 : (fun l => if s.roundMode f.rnd = 6 ∧ (s.activeLanes f.h).getLsbD l = true then 0 else 0) =
      fun l => if 0 = 6 ∧ (s.activeLanes f.h).getLsbD l = true then 0 else 0 := by funext l; simp
  unfold vecEffect
  rw [h0]
  exact lanesEffect_write s (f.named r).reads f.h f.dst.toNat (r.regs f.ty) _ _ _ _ 0 (s.activeLanes f.h) 0

/-- The effect of an instruction whose lanes are independent and which draws `n` times in each active lane in mode 6 (R209). -/
theorem advanced_effect {r : VRule} {f : VF} {s : State} (h : s.clearOf (f.named r)) (hr : r.regs f.ty = 1 ∨ r.regs f.ty = 2) (n : Nat)
    (res : State → W64 → Nat → LaneRes) :
    ∃ t, advanced n f s (runVec r f s res) = .next t ∧
      vecEffect s t f (r.regs f.ty) r.lat n (res (s.untrack (f.named r).reads) (s.activeLanes f.h)) := by
  refine ⟨_, by
    rw [runVec, guarded_clear h, State.vecResult_eq _ _ _ _ hr]
    unfold advanced
    simp only
    rw [if_neg]
    have hi : ∀ x : State, x.st.issued = s.st.issued → ∀ fl, ((x.orFlags fl).retire f.h).st.issued ≠ s.st.issued := by
      intro x hx fl
      simp only [State.retire, State.retireTo, State.orFlags, hx, stallOf]
      omega
    exact hi _ ((s.untrack (f.named r).reads).writeRun_issued _ _ _ _ _) _, ?_⟩
  exact lanesEffect_write s (f.named r).reads f.h f.dst.toNat (r.regs f.ty) _ _ _ _ _ _ _


/-- The effect of a scalar integer instruction (R243, R245). -/
theorem runS_effect {r : SRule} {f : SF} {s : State} (h : s.clearOf (f.named r)) (g : W64 → W64 → W64 → W64) :
    ∃ t, runS r f s g = .next t ∧
      scalarEffect s t f.h f.dst.toNat (g (s.sval f.a f.imm f.ext) (s.sval f.b f.imm f.ext) (s.readS f.dst.toNat)) r.lat 0 0 := by
  refine ⟨_, by rw [runS, guarded_clear h], ?_⟩
  have := scalarEffect_write s (f.named r).reads f.h f.dst.toNat (g (s.sval f.a f.imm f.ext) (s.sval f.b f.imm f.ext) (s.readS f.dst.toNat)) r.lat 0
  rwa [State.orFlags_zero] at this

/-- The effect of a scalar float instruction (R248). -/
theorem runSF_effect {r : SRule} {f : SF} {s : State} (h : s.clearOf (f.named r)) (mode : Nat) (g : State → SFRes) :
    ∃ t, runSF r f s mode g = .next t ∧
      scalarEffect s t f.h f.dst.toNat (g (s.untrack (f.named r).reads)).1 r.lat (g (s.untrack (f.named r).reads)).2
        (if mode = 6 then 1 else 0) := by
  refine ⟨_, by rw [runSF, guarded_clear h], ?_⟩
  by_cases hm : mode = 6
  · simp only [hm, if_true, State.untrack_lfsr]
    exact scalarEffect_draw s _ f.h _ _ _ _
  · simp only [hm, if_false]
    exact scalarEffect_write s _ f.h _ _ _ _

/-- The effect of writing a mask result (R271). -/
theorem maskResult_effect (s : State) (rs : List RegId) (r : VRule) (f : VF) (bits : W64) (fl : Flags) :
    maskEffect s ((s.untrack rs).maskResult r f bits fl) f.h f.dst.toNat (s.written f.h) (bits &&& s.activeLanes f.h) (f.latency r) fl :=
  maskEffect_write s rs f.h f.dst.toNat (s.written f.h) (bits &&& s.activeLanes f.h) (f.latency r) fl

end Sys2Proof.Machine
end

