-- ==== Sys2Proof/Laws/Access.lean ====
section
/-! SUPPORT. Accesses whose checks pass: what the shared operations hand on. -/

namespace Sys2Proof.Machine

/-- The cache policy changes neither a lane nor its address. -/
@[simp] theorem LaneLoc.policy_lane (x : LaneLoc) (pol : BitVec 3) : (x.policy pol).lane = x.lane := by
  unfold LaneLoc.policy; split <;> rfl
@[simp] theorem LaneLoc.policy_va (x : LaneLoc) (pol : BitVec 3) : (x.policy pol).va = x.va := by
  unfold LaneLoc.policy; split <;> rfl

theorem entries_of_lanes (ys : List (Nat × Nat × TlbEntry)) :
    (ys.map fun x => LaneLoc.mk x.1 x.2.1 (.mem (x.2.2.pa x.2.1) x.2.2)).filterMap LaneLoc.entry? = ys.map fun x => x.2.2 := by
  induction ys with
  | nil => rfl
  | cons y r ih => simp [LaneLoc.entry?, ih]

/-- An access whose checks pass goes on with its places. -/
theorem withPlaces_some {s : State} {sp : Space} {ls : List LaneVa} {align : Nat} {a : Acc} {serves : PageKind → Bool}
    {xs : List LaneLoc} (h : s.places sp ls align a serves = some xs) (k : State → List LaneLoc → Out) :
    withPlaces s sp ls align a serves k = k (s.undenied sp xs) xs := by
  unfold State.places at h
  cases sp <;> simp only [withPlaces, withLanes, State.undenied] at h ⊢
  all_goals split at h <;> simp_all
  all_goals (obtain ⟨-, rfl⟩ := h; rw [entries_of_lanes])

theorem withOne_some {s : State} {sp : Space} {a : W64} {align : Nat} {acc : Acc} {serves : PageKind → Bool}
    {xs : List LaneLoc} (h : s.places sp (s.uniform a) align acc serves = some xs) (k : State → List LaneLoc → Out) :
    withOne s sp a align acc serves k = k (s.undenied sp xs) (xs.take 1) := withPlaces_some h _

/-- Nothing is on its way to lines that are not named. -/
theorem landFor_nil (s : State) : s.landFor [] = s := by
  simp [State.landFor, State.flushThrough]

/-- A read that needs nothing more of peers goes on, its requests forgotten. -/
theorem withWindow_delivered {s : State} {xs : List LaneLoc} {n : Nat} {o : Order} (h : s.delivered xs n o = true) (k : State → Out) :
    withWindow s xs n o k = k (if s.st.asked.isEmpty then s else { s with st := { s.st with asked := [] } }) := by
  unfold State.delivered at h
  simp only [Bool.and_eq_true, Bool.not_eq_true', Bool.and_eq_false_iff, beq_eq_false_iff_ne] at h
  have h1 : ¬(o = .sc ∧ s.windowOwed = true) := by rintro ⟨a, b⟩; rcases h.1 with c | c <;> simp_all
  unfold withWindow
  rw [if_neg h1]
  split at h
  · rename_i he; rw [he]
  · simp at h

/-- A read of sound places hands on their bytes. -/
theorem withData_readable {s : State} {xs : List LaneLoc} {n : Nat} {o : Order} {sc : Scope} {l1 : Bool} (hd : s.delivered xs n o = true)
    (h : (s.fresh xs o (readsPast xs o sc)).readable (readsPast xs o sc) xs n) (k : State → (Nat → List W8) → Out) :
    withData s xs n o sc l1 k =
      k ((s.fresh xs o (readsPast xs o sc)).afterLoad (readsPast xs o sc) l1 xs)
        ((s.fresh xs o (readsPast xs o sc)).laneBytes (readsPast xs o sc) xs n) := by
  have h1 : xs.filter (fun x => (s.fresh xs o (readsPast xs o sc)).locBad (readsPast xs o sc) x.loc n) = [] := by
    simp only [List.filter_eq_nil_iff]; intro x hx; simp [(h x hx).1]
  have h2 : (s.fresh xs o (readsPast xs o sc)).violations xs = [] := by
    unfold State.violations
    simp only [List.filterMap_eq_nil_iff]; intro x hx; simp [(h x hx).2]
  unfold withData
  rw [withWindow_delivered hd]
  simp only [readsPast, pasOf, State.fresh] at h1 h2 ⊢
  rw [h1, h2]
  rfl

/-- A release with no store through a window unacknowledged goes on, its wave's reductions sent. -/
theorem releasing_free {s : State} {o : Order} (h : Order.releases o = true → s.windowOwed = false) (k : State → Out) :
    releasing s o k = k (if Order.releases o then s.flushMine else s) := by
  unfold releasing
  cases ho : Order.releases o
  · simp
  · simp [h ho]

/-- A store that merges into no violated sector is performed. -/
theorem performStore_sound {s : State} {xs : List LaneLoc} {n : Nat} {o : Order} (hw : Order.releases o = true → s.windowOwed = false)
    (h : (s.flushed xs o).mergeViolations xs n = []) (data : Nat → List W8) (k : State → Out) :
    performStore s xs n o data k =
      k ((if (s.flushed xs o).storePins xs n then (s.flushed xs o).pin else s.flushed xs o).storeLanes xs data) := by
  unfold performStore
  rw [releasing_free hw]
  simp only [State.flushed, pasOf] at h ⊢
  rw [h]
  rfl

end Sys2Proof.Machine
end

