-- ==== Sys2Proof/Laws/Encoding.lean ====
section
/-! SUPPORT. Packing and parsing of the formats: parsing what was packed gives it back. -/

namespace Sys2Proof

theorem unpack_pack (l : List (Nat × Nat)) : unpack (l.map (·.1)) (pack l) = l.map fun e => e.2 % 2 ^ e.1 := by
  induction l with
  | nil => rfl
  | cons e r ih =>
    obtain ⟨n, v⟩ := e
    have hn : 0 < 2 ^ n := Nat.two_pow_pos n
    simp only [List.map_cons, pack, unpack]
    congr 1
    · rw [Nat.add_mul_mod_self_left, Nat.mod_mod]
    · rw [Nat.add_mul_div_left _ _ hn, Nat.div_eq_of_lt (Nat.mod_lt _ hn), Nat.zero_add, ih]

theorem pack_lt (l : List (Nat × Nat)) : pack l < 2 ^ (l.map (·.1)).sum := by
  induction l with
  | nil => simp [pack]
  | cons e r ih =>
    obtain ⟨n, v⟩ := e
    have hv : v % 2 ^ n < 2 ^ n := Nat.mod_lt _ (Nat.two_pow_pos n)
    simp only [List.map_cons, pack, List.sum_cons, Nat.pow_add]
    calc v % 2 ^ n + 2 ^ n * pack r < 2 ^ n + 2 ^ n * pack r := by omega
      _ = 2 ^ n * (pack r + 1) := by ring
      _ ≤ 2 ^ n * 2 ^ (r.map (·.1)).sum := Nat.mul_le_mul_left _ ih

@[simp] theorem Src.ofCode_code (x : Src) : Src.ofCode (x.code % 2 ^ 10) = some x := by
  cases x <;> rename_i n <;> revert n <;> decide

@[simp] theorem Reg.ofCode_code (x : Reg) : Reg.ofCode (x.code % 2 ^ 9) = some x := by
  cases x <;> rename_i n <;> revert n <;> decide

@[simp] theorem dstOfCode_code (x : Option Reg) : dstOfCode (dstCode x % 2 ^ 9) = some x := by
  cases x with
  | none => rfl
  | some r =>
    have : r.code % 2 ^ 9 ≠ 0x1FF := by
      cases r <;> rename_i n <;> have := n.isLt <;> simp only [Reg.code] <;> omega
    simp only [dstOfCode, dstCode, if_neg this, Reg.ofCode_code, Option.map_some]

@[simp] theorem Cond.ofCode_code (x : Cond) : Cond.ofCode (x.code % 2 ^ 4) = some x := by cases x <;> rfl
@[simp] theorem BCond.ofCode_code (x : BCond) : BCond.ofCode (x.code % 2 ^ 4) = some x := by cases x <;> rfl
@[simp] theorem ETy.ofCode_code (x : ETy) : ETy.ofCode (x.code % 2 ^ 6) = some x := by cases x <;> rfl
@[simp] theorem Space.ofCode_code (x : Space) : Space.ofCode (x.code % 2 ^ 3) = some x := by cases x <;> rfl
@[simp] theorem Width.ofCode_code (x : Width) : Width.ofCode (x.code % 2 ^ 3) = some x := by cases x <;> rfl
@[simp] theorem Order.ofCode_code (x : Order) : Order.ofCode (x.code % 2 ^ 3) = some x := by cases x <;> rfl
@[simp] theorem Scope.ofCode_code (x : Scope) : Scope.ofCode (x.code % 2 ^ 3) = some x := by cases x <;> rfl
@[simp] theorem Aop.ofCode_code (x : Aop) : Aop.ofCode (x.code % 2 ^ 4) = some x := by cases x <;> rfl
@[simp] theorem bit_eq_one (b : Bool) : (bit b % 2 ^ 1 == 1) = b := by cases b <;> rfl
theorem bit_lt_two (b : Bool) : bit b % 2 ^ 2 < 2 := by cases b <;> decide
@[simp] theorem bit_eq_one' (b : Bool) : (bit b % 2 ^ 2 == 1) = b := by cases b <;> rfl
theorem ofNat_toNat_mod {n : Nat} (x : BitVec n) : BitVec.ofNat n (x.toNat % 2 ^ n) = x := by simp

theorem SF.parse_pack (op : Nat) (f : SF) : SF.parse (f.pack op) f.ext = some f := by
  have h := unpack_pack (f.h.fields op ++ [(7, f.dst.toNat), (1, 0), (10, f.a.code), (10, f.b.code), (32, f.imm.toNat),
    (4, f.cond.code), (5, f.sub.toNat), (7, 0)])
  simp only [Head.fields, List.cons_append, List.nil_append, List.map_cons, List.map_nil] at h
  unfold SF.parse SF.pack
  simp only [widthsS, Head.fields, List.cons_append, List.nil_append]
  rw [h]
  simp only [Src.ofCode_code, Cond.ofCode_code, Head.ofFields, bit_eq_one, ofNat_toNat_mod]
  simp

theorem VF.parse_pack (op : Nat) (f : VF) : VF.parse (f.pack op) f.ext = some f := by
  have h := unpack_pack (f.h.fields op ++ [(10, f.dst.toNat), (10, f.a.code), (10, f.b.code), (10, f.c.code),
    (2, f.modsel.toNat), (12, f.mod.toNat), (6, f.ty.code), (3, f.rnd.toNat), (1, bit f.sat), (1, bit f.nega),
    (1, bit f.negb), (1, bit f.negc), (1, bit f.absa), (1, bit f.absb), (5, f.sub.toNat), (2, 0)])
  simp only [Head.fields, List.cons_append, List.nil_append, List.map_cons, List.map_nil] at h
  unfold VF.parse VF.pack
  simp only [widthsV, Head.fields, List.cons_append, List.nil_append]
  rw [h]
  have hd : f.dst.toNat % 2 ^ 10 = f.dst.toNat := Nat.mod_eq_of_lt (by have := f.dst.isLt; omega)
  simp only [Src.ofCode_code, ETy.ofCode_code, Head.ofFields, bit_eq_one, ofNat_toNat_mod, hd]
  simp [f.dst.isLt]

theorem BF.parse_pack (op : Nat) (f : BF) : BF.parse (f.pack op) = some f := by
  have h := unpack_pack (f.h.fields op ++ [(7, f.creg.toNat), (4, f.cond.code), (3, f.tslot.toNat), (26, f.ldelta.toNat),
    (3, f.rslot.toNat), (13, f.rld.toNat), (4, f.msrc.toNat), (1, bit f.minv), (1, bit f.detach), (6, f.token.toNat),
    (7, f.link.toNat), (1, 0)])
  simp only [Head.fields, List.cons_append, List.nil_append, List.map_cons, List.map_nil] at h
  unfold BF.parse BF.pack
  simp only [widthsB, Head.fields, List.cons_append, List.nil_append]
  rw [h]
  simp only [BCond.ofCode_code, Head.ofFields, bit_eq_one, ofNat_toNat_mod]
  simp

theorem MF.parse_pack (op : Nat) (f : MF) : MF.parse (f.pack op) f.ext = some f := by
  have h := unpack_pack (f.h.fields op ++ [(9, f.data.code), (7, f.base.toNat), (10, f.index.code), (3, f.shift.toNat),
    (24, f.off.toNat), (3, f.width.code), (3, f.space.code), (3, f.order.code), (3, f.scope.code), (3, f.cpol.toNat),
    (5, f.sub.toNat), (3, 0)])
  simp only [Head.fields, List.cons_append, List.nil_append, List.map_cons, List.map_nil] at h
  unfold MF.parse MF.pack
  simp only [widthsM, Head.fields, List.cons_append, List.nil_append]
  rw [h]
  simp only [Src.ofCode_code, Reg.ofCode_code, Width.ofCode_code, Space.ofCode_code, Order.ofCode_code, Scope.ofCode_code, Head.ofFields,
    bit_eq_one, ofNat_toNat_mod]
  simp

theorem AF.parse_pack (op : Nat) (f : AF) : AF.parse (f.pack op) = some f := by
  have h := unpack_pack (f.h.fields op ++ [(9, dstCode f.dst), (10, f.val.code), (10, f.cmp.code), (7, f.base.toNat),
    (10, f.index.code), (3, f.shift.toNat), (12, f.off.toNat), (3, f.ords.code), (3, f.ordf.code), (3, f.scope.code),
    (4, f.aop.code), (2, bit f.unsignedT)])
  simp only [Head.fields, List.cons_append, List.nil_append, List.map_cons, List.map_nil] at h
  unfold AF.parse AF.pack
  simp only [widthsA, Head.fields, List.cons_append, List.nil_append]
  rw [h]
  simp only [Src.ofCode_code, dstOfCode_code, Order.ofCode_code, Scope.ofCode_code, Aop.ofCode_code, Head.ofFields,
    bit_eq_one, bit_eq_one', ofNat_toNat_mod, bit_lt_two, if_true]

theorem XF.parse_pack (op : Nat) (f : XF) : XF.parse (f.pack op) = some f := by
  have h := unpack_pack (f.h.fields op ++ [(7, f.d0.toNat), (7, f.d1.toNat), (7, f.d2.toNat), (7, f.d3.toNat),
    (7, f.d4.toNat), (7, f.d5.toNat), (32, f.imm.toNat), (2, 0)])
  simp only [Head.fields, List.cons_append, List.nil_append, List.map_cons, List.map_nil] at h
  unfold XF.parse XF.pack
  simp only [widthsX, Head.fields, List.cons_append, List.nil_append]
  rw [h]
  simp only [Head.ofFields, bit_eq_one, ofNat_toNat_mod]
  simp

theorem QF.parse_pack (op : Nat) (f : QF) : QF.parse (f.pack op) = some f := by
  have h := unpack_pack (f.h.fields op ++ [(7, f.dst.toNat), (1, 0), (10, f.a.code), (12, f.xreg.toNat), (16, f.code.toNat),
    (30, 0)])
  simp only [Head.fields, List.cons_append, List.nil_append, List.map_cons, List.map_nil] at h
  unfold QF.parse QF.pack
  simp only [widthsQ, Head.fields, List.cons_append, List.nil_append]
  rw [h]
  simp only [Src.ofCode_code, Head.ofFields, bit_eq_one, ofNat_toNat_mod]
  simp

theorem pack_opcode (h : Head) (op : Nat) (l : List (Nat × Nat)) (ho : op < 512) : pack (h.fields op ++ l) % 512 = op := by
  simp only [Head.fields, List.cons_append, pack]
  omega

theorem SF.pack_slot (op : Nat) (f : SF) (ho : op < 512) : f.pack op < 2 ^ 96 ∧ f.pack op % 512 = op := by
  unfold SF.pack
  refine ⟨?_, pack_opcode f.h op _ ho⟩
  simp only [Head.fields, List.cons_append, List.nil_append]
  exact lt_of_lt_of_eq (pack_lt _) (by simp only [List.map_cons, List.map_nil, List.sum_cons, List.sum_nil]; rfl)

theorem VF.pack_slot (op : Nat) (f : VF) (ho : op < 512) : f.pack op < 2 ^ 96 ∧ f.pack op % 512 = op := by
  unfold VF.pack
  refine ⟨?_, pack_opcode f.h op _ ho⟩
  simp only [Head.fields, List.cons_append, List.nil_append]
  exact lt_of_lt_of_eq (pack_lt _) (by simp only [List.map_cons, List.map_nil, List.sum_cons, List.sum_nil]; rfl)

theorem BF.pack_slot (op : Nat) (f : BF) (ho : op < 512) : f.pack op < 2 ^ 96 ∧ f.pack op % 512 = op := by
  unfold BF.pack
  refine ⟨?_, pack_opcode f.h op _ ho⟩
  simp only [Head.fields, List.cons_append, List.nil_append]
  exact lt_of_lt_of_eq (pack_lt _) (by simp only [List.map_cons, List.map_nil, List.sum_cons, List.sum_nil]; rfl)

theorem MF.pack_slot (op : Nat) (f : MF) (ho : op < 512) : f.pack op < 2 ^ 96 ∧ f.pack op % 512 = op := by
  unfold MF.pack
  refine ⟨?_, pack_opcode f.h op _ ho⟩
  simp only [Head.fields, List.cons_append, List.nil_append]
  exact lt_of_lt_of_eq (pack_lt _) (by simp only [List.map_cons, List.map_nil, List.sum_cons, List.sum_nil]; rfl)

theorem AF.pack_slot (op : Nat) (f : AF) (ho : op < 512) : f.pack op < 2 ^ 96 ∧ f.pack op % 512 = op := by
  unfold AF.pack
  refine ⟨?_, pack_opcode f.h op _ ho⟩
  simp only [Head.fields, List.cons_append, List.nil_append]
  exact lt_of_lt_of_eq (pack_lt _) (by simp only [List.map_cons, List.map_nil, List.sum_cons, List.sum_nil]; rfl)

theorem XF.pack_slot (op : Nat) (f : XF) (ho : op < 512) : f.pack op < 2 ^ 96 ∧ f.pack op % 512 = op := by
  unfold XF.pack
  refine ⟨?_, pack_opcode f.h op _ ho⟩
  simp only [Head.fields, List.cons_append, List.nil_append]
  exact lt_of_lt_of_eq (pack_lt _) (by simp only [List.map_cons, List.map_nil, List.sum_cons, List.sum_nil]; rfl)

theorem QF.pack_slot (op : Nat) (f : QF) (ho : op < 512) : f.pack op < 2 ^ 96 ∧ f.pack op % 512 = op := by
  unfold QF.pack
  refine ⟨?_, pack_opcode f.h op _ ho⟩
  simp only [Head.fields, List.cons_append, List.nil_append]
  exact lt_of_lt_of_eq (pack_lt _) (by simp only [List.map_cons, List.map_nil, List.sum_cons, List.sum_nil]; rfl)

end Sys2Proof
end

