-- ==== Sys2Proof/Laws/Memory.lean ====
section
/-! SUPPORT. What caches, OWQs and media do among themselves leaves alone: coherent memory, keys, tags, snapshot sets, registers, and the
stream in focus. -/

namespace Sys2Proof.Machine

/-- The machine is the same but for its caches, OWQs, media, poison and clocks of use. -/
def Quiet (s t : State) : Prop :=
  t.mem = s.mem ∧ t.secKey = s.secKey ∧ t.keys = s.keys ∧ t.tags = s.tags ∧ t.snaps = s.snaps ∧ t.mmio = s.mmio ∧ t.sq = s.sq ∧ t.wv = s.wv ∧
    t.st = s.st ∧ t.pkg = s.pkg ∧ t.cycle = s.cycle

theorem Quiet.refl (s : State) : Quiet s s := ⟨rfl, rfl, rfl, rfl, rfl, rfl, rfl, rfl, rfl, rfl, rfl⟩

theorem Quiet.trans {s t u : State} (h : Quiet s t) (g : Quiet t u) : Quiet s u := by
  unfold Quiet at *
  simp_all

theorem Quiet.foldl {α : Type} (f : State → α → State) (h : ∀ s a, Quiet s (f s a)) (l : List α) (s : State) : Quiet s (l.foldl f s) := by
  induction l generalizing s with
  | nil => exact .refl s
  | cons a r ih => exact (h s a).trans (ih _)

/-- Besides, no line of the L2 has become dirty or changed its key. -/
def Calm (s t : State) : Prop :=
  Quiet s t ∧ ∀ l, (t.l2Line l).dirty = true → (s.l2Line l).dirty = true ∧ (t.l2Line l).key = (s.l2Line l).key

theorem Calm.refl (s : State) : Calm s s := ⟨.refl s, fun _ h => ⟨h, rfl⟩⟩

theorem Calm.trans {s t u : State} (h : Calm s t) (g : Calm t u) : Calm s u :=
  ⟨h.1.trans g.1, fun l d => ⟨(h.2 l (g.2 l d).1).1, (g.2 l d).2.trans (h.2 l (g.2 l d).1).2⟩⟩

theorem Calm.foldl {α : Type} (f : State → α → State) (h : ∀ s a, Calm s (f s a)) (l : List α) (s : State) : Calm s (l.foldl f s) := by
  induction l generalizing s with
  | nil => exact .refl s
  | cons a r ih => exact (h s a).trans (ih _)

/-- The keys of dirty lines stay those of their blocks. -/
theorem Calm.oneKey {s t : State} (h : Calm s t) (o : s.oneKey) : t.oneKey := by
  intro l d x hx
  obtain ⟨d', k⟩ := h.2 l d
  have e := o l d' x hx
  obtain ⟨-, h1, h2, -⟩ := h.1
  simpa only [State.secMaterial, State.material, State.key, h1, h2, k] using e

theorem calm_of_l2 {s t : State} (h : Quiet s t) (g : t.l2 = s.l2) : Calm s t :=
  ⟨h, fun l d => by simp only [State.l2Line, g] at d ⊢; exact ⟨d, trivial⟩⟩

theorem calm_updCore (s : State) (c : Nat) (f : Core → Core) : Calm s (s.updCore c f) := calm_of_l2 (.refl _) rfl
theorem calm_updDie (s : State) (d : Nat) (f : Die → Die) : Calm s (s.updDie d f) := calm_of_l2 (.refl _) rfl

/-- A line's entry changes, and is dirty only where it was, under the same key. -/
theorem calm_setL2 (s : State) (line : Nat) (v : L2Line) (h : v.dirty = true → (s.l2Line line).dirty = true ∧ v.key = (s.l2Line line).key) :
    Calm s (s.setL2 line v) := by
  refine ⟨.refl _, fun l d => ?_⟩
  simp only [State.l2Line, State.setL2, Tab.getD_put] at d h ⊢
  split at d
  · rename_i e; subst e; simpa using h d
  · rename_i e; simp [e, d]

theorem calm_cleanL2 (s : State) (line : Nat) : Calm s (s.cleanL2 line) := calm_setL2 _ _ _ (by simp)

/-! ### The metadata caches, the OWQs and the stacks -/

/-- Only the dies' queues and caches, the stacks and the counts of their writes change. -/
def Stacks (s t : State) : Prop :=
  t = { s with dies := t.dies, media := t.media, mediaTags := t.mediaTags, mediaBad := t.mediaBad, mediaKeys := t.mediaKeys, admin := t.admin }

theorem Stacks.refl (s : State) : Stacks s s := rfl

theorem Stacks.trans {s t u : State} (h : Stacks s t) (g : Stacks t u) : Stacks s u := by
  unfold Stacks at *
  rw [g, h]

theorem Stacks.foldl {α : Type} (f : State → α → State) (h : ∀ s a, Stacks s (f s a)) (l : List α) (s : State) : Stacks s (l.foldl f s) := by
  induction l generalizing s with
  | nil => exact .refl s
  | cons a r ih => exact (h s a).trans (ih _)

theorem Stacks.calm {s t : State} (h : Stacks s t) : Calm s t := by
  unfold Stacks at h
  rw [h]
  exact calm_of_l2 (.refl _) rfl

theorem stacks_updDie (s : State) (d : Nat) (f : Die → Die) : Stacks s (s.updDie d f) := rfl

theorem stacks_metaUse (s : State) (pa : Nat) : Stacks s (s.metaUse pa) := by
  unfold State.metaUse
  split
  · exact .refl s
  · dsimp only
    split <;> rfl

theorem stacks_metaStore (s : State) (pa : Nat) (bs : List W8) : Stacks s (s.metaStore pa bs) := by
  unfold State.metaStore
  split
  · exact .refl s
  · exact (stacks_metaUse ..).trans (stacks_updDie ..)

theorem stacks_putTag (s : State) (sec : Nat) (t : Option W32) : Stacks s (s.putTag sec t) := by
  unfold State.putTag
  split
  · exact stacks_metaStore ..
  · exact .refl s

theorem stacks_storeTags (s : State) (l : List (Nat × List W8)) : Stacks s (s.storeTags l) := Stacks.foldl _ (fun t _ => stacks_putTag t ..) _ _

theorem stacks_storeLine (s : State) (line : Nat) : Stacks s (s.storeLine line) :=
  Stacks.trans (t := s.putStored line) rfl (stacks_storeTags ..)

theorem stacks_drainEntry (s : State) (e : OwqEntry) : Stacks s (s.drainEntry e false) := by
  unfold State.drainEntry
  dsimp only
  rw [if_neg (by simp)]
  refine Stacks.trans ?_ (Stacks.foldl _ (fun t _ => stacks_putTag t ..) _ _)
  unfold State.countWear
  split <;> rfl

theorem stacks_drainOldest (s : State) (d : Nat) : Stacks s (s.drainOldest d false) := by
  unfold State.drainOldest
  split
  · exact .refl s
  · exact (stacks_updDie ..).trans (stacks_drainEntry ..)

/-- An entry that an OWQ accepts, and what a full queue drains for it. -/
theorem stacks_accept (s : State) (d line : Nat) (bytes : List W8) (mask : BitVec 128) (tag : W16) (bad : List Nat) :
    Stacks s (s.accept d line bytes mask tag bad) := by
  unfold State.accept
  dsimp only
  refine Stacks.trans ?_ (stacks_updDie ..)
  split
  · exact stacks_drainOldest ..
  · exact .refl s

theorem stacks_metaFor (s : State) (line key : Nat) : Stacks s (s.metaFor line key) := by
  unfold State.metaFor
  dsimp only
  split <;> split <;> first
    | exact (stacks_metaUse ..).trans (stacks_metaUse ..)
    | exact stacks_metaUse ..
    | (split <;> first | exact (stacks_metaUse ..).trans (stacks_metaUse ..) | exact stacks_metaUse .. | exact .refl s)
    | exact .refl s

theorem calm_putStored (s : State) (line : Nat) : Calm s (s.putStored line) := calm_of_l2 (.refl _) rfl
theorem calm_setBlockState (s : State) (pa v : Nat) : Calm s (s.setBlockState pa v) := (stacks_metaStore ..).calm
theorem calm_storeTags (s : State) (l : List (Nat × List W8)) : Calm s (s.storeTags l) := (stacks_storeTags ..).calm
theorem calm_storeLine (s : State) (line : Nat) : Calm s (s.storeLine line) := (stacks_storeLine ..).calm
theorem calm_taint (s : State) (secs : List Nat) : Calm s (s.taint secs) := calm_of_l2 (.refl _) rfl

/-- A sector that is under a key already stays as it is. -/
theorem rekey_own {s : State} {key sec : Nat} (h : s.secMaterial sec = s.material key) : s.rekey key sec = s := by
  have h' : s.secKey.getD (fun _ => 0) sec = s.material key := h
  have e : sectorOf (64 * sec) = sec := by unfold sectorOf; omega
  simp [State.rekey, State.rekeyed, e, h']

/-- A block whose sectors are all under its written line's key is stored without a change of memory. -/
theorem calm_storeBlock (s : State) (c : Bool) (line : Nat) (h : ∀ x, x / 4 = line / 2 → s.secMaterial x = s.material (s.l2Line line).key) :
    Calm s (s.storeBlock c line) := by
  have o : ∀ k, k < 2 → (2 * otherLine line + k) / 4 = line / 2 := by
    intro k hk
    unfold otherLine
    split <;> omega
  have g : s.rekeyOther line = s := by
    unfold State.rekeyOther
    rw [rekey_own (h (2 * otherLine line) (o 0 (by omega))), rekey_own (h _ (o 1 (by omega))), ite_self]
  unfold State.storeBlock
  dsimp only
  rw [g]
  refine Calm.trans ?_ ((((calm_putStored _ _).trans (calm_putStored _ _)).trans (calm_setBlockState ..)).trans
    ((calm_storeTags _ _).trans ((calm_cleanL2 _ _).trans (calm_cleanL2 _ _))))
  split
  · exact calm_taint ..
  · exact .refl s

/-- A write-back leaves coherent memory as it is, where the line's block is under its key. -/
theorem calm_writeBack (s : State) (line : Nat) (h : ∀ x, x / 4 = line / 2 → s.secMaterial x = s.material (s.l2Line line).key) :
    Calm s (s.writeBack line) := by
  unfold State.writeBack
  split
  · split
    · exact calm_storeBlock _ _ _ h
    · exact (calm_storeLine ..).trans (calm_cleanL2 ..)
  · exact (calm_storeLine ..).trans (calm_cleanL2 ..)
  · exact calm_cleanL2 ..

theorem calm_evictLine (s : State) (line : Nat) (o : s.oneKey) : Calm s (s.evictLine line) := by
  unfold State.evictLine
  dsimp only
  split
  · exact .refl s
  · split
    · split
      · exact (stacks_accept ..).calm.trans (calm_cleanL2 ..)
      · exact .refl s
    · rename_i hd _
      exact calm_writeBack _ _ (o line (by simpa using hd))

theorem calm_invalidateL1 (s : State) (line : Nat) (but : Option Nat) : Calm s (s.invalidateL1 line but) :=
  Calm.foldl _ (fun t _ => calm_updCore t ..) _ _

theorem calm_evictOut (s : State) (line : Nat) (o : s.oneKey) : Calm s (s.evictOut line) :=
  ((calm_evictLine _ _ o).trans (calm_invalidateL1 ..)).trans (calm_setL2 _ _ _ (by simp [L2Line.absent]))

theorem calm_switchKey (s : State) (line key : Nat) (o : s.oneKey) : Calm s (s.switchKey line key) := by
  unfold State.switchKey
  dsimp only
  split
  · exact calm_evictOut _ _ o
  · exact .refl s

theorem calm_l2Alloc (s : State) (d line key : Nat) (lru c p : Bool) (o : s.oneKey) : Calm s (s.l2Alloc d line key lru c p) := by
  unfold State.l2Alloc
  dsimp only
  have u : Calm s (s.updDie d fun y => { y with l2clock := (s.die d).l2clock + 1 }) := calm_updDie ..
  split
  · exact u.trans (calm_setL2 _ _ _ fun h => ⟨h, rfl⟩)
  · split
    · exact u.trans ((stacks_metaFor ..).calm)
    · have v := u.trans (stacks_metaFor _ line key).calm
      split
      · exact v.trans (calm_setL2 _ _ _ (by simp))
      · split
        · exact v.trans ((calm_evictOut _ _ (v.oneKey o)).trans (calm_setL2 _ _ _ (by simp)))
        · exact v

theorem calm_l2Use (s : State) (line key cp : Nat) (c p lru : Bool) (o : s.oneKey) : Calm s (s.l2Use line key cp c p lru) := by
  unfold State.l2Use
  split
  · exact .refl s
  · have k := calm_switchKey s line key o
    dsimp only
    split
    · exact k.trans ((stacks_metaFor ..).calm)
    · have both (d : Nat) (b : Bool) :
          Calm s ((if b then (s.switchKey line key).l2Alloc d (otherLine line) key lru c p else s.switchKey line key).l2Alloc d line key lru c p) := by
        split
        · have w := k.trans (calm_l2Alloc _ d (otherLine line) key lru c p (k.oneKey o))
          exact w.trans (calm_l2Alloc _ _ _ _ _ _ _ (w.oneKey o))
        · exact k.trans (calm_l2Alloc _ _ _ _ _ _ _ (k.oneKey o))
      exact both _ _

/-- The books of a write leave coherent memory as they find it, where the block that it lies in is under its key. -/
theorem quiet_bookLine (s : State) (u : Under) (ws : List (Nat × W8)) (line : Nat) (h : u.p = false) (o : s.oneKey)
    (k : ∀ x, x / 4 = line / 2 → s.secMaterial x = s.material u.key) : Quiet s (s.bookLine u ws line) ∧ (s.bookLine u ws line).oneKey := by
  have dirty (t : State) (ct : Calm s t) (v : L2Line) (hv : v.key = u.key) : Quiet t (t.setL2 line v) ∧ (t.setL2 line v).oneKey := by
    refine ⟨.refl _, fun l d x hx => ?_⟩
    by_cases e : l = line
    · subst e
      have w : ((t.setL2 l v).l2Line l).key = u.key := by simp [State.l2Line, State.setL2, Tab.getD_put, hv]
      obtain ⟨-, h1, h2, -⟩ := ct.1
      rw [w]
      have := k x hx
      simpa only [State.secMaterial, State.material, State.key, h1, h2, State.setL2] using this
    · have w : (t.setL2 line v).l2Line l = t.l2Line l := by simp [State.l2Line, State.setL2, Tab.getD_put, e]
      rw [w] at d ⊢
      exact ct.oneKey o l d x hx
  unfold State.bookLine
  simp only [h]
  split
  · exact ⟨.refl s, o⟩
  · have c0 := calm_invalidateL1 s line u.core
    split
    · have c1 := c0.trans (calm_l2Use _ line u.key u.cp u.c false (u.last || u.cp == 1) (c0.oneKey o))
      have r := dirty _ c1 { ((s.invalidateL1 line u.core).l2Use line u.key u.cp u.c false (u.last || u.cp == 1)).l2Line line with
        dirty := true, c := u.c, p := false, key := u.key } rfl
      exact ⟨c1.1.trans r.1, r.2⟩
    · have r := dirty _ c0 { (s.invalidateL1 line u.core).l2Line line with dirty := true, c := u.c, p := false, key := u.key } rfl
      have w := calm_writeBack _ line (fun x hx => r.2 line (by simp [State.l2Line, State.setL2, Tab.getD_put]) x hx)
      exact ⟨(c0.1.trans r.1).trans w.1, w.oneKey r.2⟩

theorem calm_keepL1 (s : State) (core : Nat) (last : Bool) (x : CacheLine) : Calm s (s.keepL1 core last x) := calm_updCore ..

theorem calm_dropL1 (s : State) (core line : Nat) : Calm s (s.dropL1 core line) := by
  unfold State.dropL1
  split
  · exact calm_updCore ..
  · exact .refl s

/-- A load's fill leaves coherent memory as it is. -/
theorem calm_fillLine (s : State) (core key cp : Nat) (l1 c p : Bool) (pa : Nat) (last : Bool) (o : s.oneKey) :
    Calm s (s.fillLine core key cp l1 c p pa last) := by
  unfold State.fillLine
  dsimp only
  have keep (t : State) (b : Prop) [Decidable b] (x : CacheLine) : Calm t (if b then t.keepL1 core last x else t) := by
    split
    · exact calm_keepL1 ..
    · exact .refl t
  have drop : Calm s (if cp = 1 then s.dropL1 core (lineOf pa) else s) := by
    split
    · exact calm_dropL1 ..
    · exact .refl s
  split
  · split
    · exact calm_keepL1 ..
    · exact .refl s
  · split
    · exact calm_l2Use _ _ _ _ _ _ _ o
    · split
      · split
        · exact (drop.trans (calm_updDie ..)).trans (keep ..)
        · exact ((drop.trans (calm_l2Use _ _ _ _ _ _ _ (drop.oneKey o))).trans (calm_updDie ..)).trans (keep ..)
      · split
        · exact (calm_l2Use _ _ _ _ _ _ _ o).trans (keep ..)
        · exact .refl s

theorem quiet_selfInvalidate (s : State) (core : Nat) : Quiet s (s.selfInvalidate core) := by
  unfold State.selfInvalidate
  dsimp only
  refine Quiet.trans ?_ (Quiet.foldl _ (fun t _ => ?_) _ _)
  · split <;> exact .refl s
  · split <;> exact .refl t

theorem quiet_dropCopy (s : State) (core pa : Nat) : Quiet s (s.dropCopy core pa) := by
  unfold State.dropCopy
  dsimp only
  split <;> split <;> exact .refl s

theorem quiet_updCopies (s : State) (core : Nat) (ws : List (Nat × W8)) : Quiet s (s.updCopies core ws) := by
  unfold State.updCopies
  dsimp only
  split <;> split <;> exact .refl s

end Sys2Proof.Machine
end

