-- ==== Sys2Proof/Laws/PerInstr.lean ====
section
/-! SUPPORT. One lemma per instruction: its slot fits in 96 bits, its opcode is assigned, and a legal one parses back. -/

namespace Sys2Proof.Laws.Wf

/-- An instruction's slot is 96 bits with an assigned opcode, and from it a legal instruction is parsed again. -/
def Statement (i : Instr) : Prop :=
  ∀ w, encodeSlot i = some w → w < 2 ^ 96 ∧ (fmtOf (w % 512)).isSome = true ∧ (i.legal = true → parseSlot w i.ext = .ok i)

theorem of_s {i : Instr} {op : Nat} {r : SRule} {f : SF} (hs : i.shape = .s op r f) (ho : op < 512) (hf : fmtOf op = some .s)
    (hb : i.legal = true → buildS op f = some i) : Statement i := by
  intro w h
  simp only [encodeSlot, hs, Option.some.injEq] at h
  obtain ⟨hw, hm⟩ := SF.pack_slot op f ho
  rw [h] at hw hm
  refine ⟨hw, by rw [hm, hf]; rfl, fun hl => ?_⟩
  have he : i.ext = f.ext := by simp only [Instr.ext, hs]
  unfold parseSlot
  simp only [hm, hf, he]
  rw [← h, SF.parse_pack, Option.bind_some, hb hl]

theorem of_v {i : Instr} {op : Nat} {r : VRule} {f : VF} (hs : i.shape = .v op r f) (ho : op < 512) (hf : fmtOf op = some .v)
    (hb : i.legal = true → buildV op f = some i) : Statement i := by
  intro w h
  simp only [encodeSlot, hs, Option.some.injEq] at h
  obtain ⟨hw, hm⟩ := VF.pack_slot op f ho
  rw [h] at hw hm
  refine ⟨hw, by rw [hm, hf]; rfl, fun hl => ?_⟩
  have he : i.ext = f.ext := by simp only [Instr.ext, hs]
  unfold parseSlot
  simp only [hm, hf, he]
  rw [← h, VF.parse_pack, Option.bind_some, hb hl]

theorem of_b {i : Instr} {op : Nat} {r : BRule} {f : BF} (hs : i.shape = .b op r f) (ho : op < 512) (hf : fmtOf op = some .b)
    (hb : i.legal = true → buildB op f = some i) : Statement i := by
  intro w h
  simp only [encodeSlot, hs, Option.some.injEq] at h
  obtain ⟨hw, hm⟩ := BF.pack_slot op f ho
  rw [h] at hw hm
  refine ⟨hw, by rw [hm, hf]; rfl, fun hl => ?_⟩
  unfold parseSlot
  simp only [hm, hf]
  rw [← h, BF.parse_pack, Option.bind_some, hb hl]

theorem of_q {i : Instr} {op : Nat} {r : QRule} {f : QF} (hs : i.shape = .q op r f) (ho : op < 512) (hf : fmtOf op = some .q)
    (hb : i.legal = true → buildQ op f = some i) : Statement i := by
  intro w h
  simp only [encodeSlot, hs, Option.some.injEq] at h
  obtain ⟨hw, hm⟩ := QF.pack_slot op f ho
  rw [h] at hw hm
  refine ⟨hw, by rw [hm, hf]; rfl, fun hl => ?_⟩
  unfold parseSlot
  simp only [hm, hf]
  rw [← h, QF.parse_pack, Option.bind_some, hb hl]

theorem of_m {i : Instr} {op : Nat} {r : MRule} {f : MF} (hs : i.shape = .m op r f) (ho : op < 512) (hf : fmtOf op = some .m)
    (hb : i.legal = true → buildM op f = some i) : Statement i := by
  intro w h
  simp only [encodeSlot, hs, Option.some.injEq] at h
  obtain ⟨hw, hm⟩ := MF.pack_slot op f ho
  rw [h] at hw hm
  refine ⟨hw, by rw [hm, hf]; rfl, fun hl => ?_⟩
  have he : i.ext = f.ext := by simp only [Instr.ext, hs]
  unfold parseSlot
  simp only [hm, hf, he]
  rw [← h, MF.parse_pack, Option.bind_some, hb hl]

theorem of_a {i : Instr} {op : Nat} {r : ARule} {f : AF} (hs : i.shape = .a op r f) (ho : op < 512) (hf : fmtOf op = some .a)
    (hb : i.legal = true → buildA op f = some i) : Statement i := by
  intro w h
  simp only [encodeSlot, hs, Option.some.injEq] at h
  obtain ⟨hw, hm⟩ := AF.pack_slot op f ho
  rw [h] at hw hm
  refine ⟨hw, by rw [hm, hf]; rfl, fun hl => ?_⟩
  unfold parseSlot
  simp only [hm, hf]
  rw [← h, AF.parse_pack, Option.bind_some, hb hl]

theorem of_x {i : Instr} {op : Nat} {r : XRule} {f : XF} (hs : i.shape = .x op r f) (ho : op < 512) (hf : fmtOf op = some .x)
    (hb : i.legal = true → buildX op f = some i) : Statement i := by
  intro w h
  simp only [encodeSlot, hs, Option.some.injEq] at h
  obtain ⟨hw, hm⟩ := XF.pack_slot op f ho
  rw [h] at hw hm
  refine ⟨hw, by rw [hm, hf]; rfl, fun hl => ?_⟩
  unfold parseSlot
  simp only [hm, hf]
  rw [← h, XF.parse_pack, Option.bind_some, hb hl]

theorem of_event {i : Instr} (hs : i.shape = .event) : Statement i := by
  intro w h
  simp [encodeSlot, hs] at h

theorem sadd (f : SF) : Statement (.sadd f) := of_s rfl (by decide) rfl fun _ => rfl
theorem ssub (f : SF) : Statement (.ssub f) := of_s rfl (by decide) rfl fun _ => rfl
theorem smul (f : SF) : Statement (.smul f) := of_s rfl (by decide) rfl fun _ => rfl
theorem smulhI (f : SF) : Statement (.smulhI f) := of_s rfl (by decide) rfl fun _ => rfl
theorem smulhN (f : SF) : Statement (.smulhN f) := of_s rfl (by decide) rfl fun _ => rfl
theorem sdivI (f : SF) : Statement (.sdivI f) := of_s rfl (by decide) rfl fun _ => rfl
theorem sdivN (f : SF) : Statement (.sdivN f) := of_s rfl (by decide) rfl fun _ => rfl
theorem sremI (f : SF) : Statement (.sremI f) := of_s rfl (by decide) rfl fun _ => rfl
theorem sremN (f : SF) : Statement (.sremN f) := of_s rfl (by decide) rfl fun _ => rfl
theorem sand (f : SF) : Statement (.sand f) := of_s rfl (by decide) rfl fun _ => rfl
theorem sor (f : SF) : Statement (.sor f) := of_s rfl (by decide) rfl fun _ => rfl
theorem sxor (f : SF) : Statement (.sxor f) := of_s rfl (by decide) rfl fun _ => rfl
theorem sandn (f : SF) : Statement (.sandn f) := of_s rfl (by decide) rfl fun _ => rfl
theorem sshl (f : SF) : Statement (.sshl f) := of_s rfl (by decide) rfl fun _ => rfl
theorem sshr (f : SF) : Statement (.sshr f) := of_s rfl (by decide) rfl fun _ => rfl
theorem ssra (f : SF) : Statement (.ssra f) := of_s rfl (by decide) rfl fun _ => rfl
theorem srot (f : SF) : Statement (.srot f) := of_s rfl (by decide) rfl fun _ => rfl
theorem sminI (f : SF) : Statement (.sminI f) := of_s rfl (by decide) rfl fun _ => rfl
theorem sminN (f : SF) : Statement (.sminN f) := of_s rfl (by decide) rfl fun _ => rfl
theorem smaxI (f : SF) : Statement (.smaxI f) := of_s rfl (by decide) rfl fun _ => rfl
theorem smaxN (f : SF) : Statement (.smaxN f) := of_s rfl (by decide) rfl fun _ => rfl
theorem scmpI (f : SF) : Statement (.scmpI f) := of_s rfl (by decide) rfl fun _ => rfl
theorem scmpN (f : SF) : Statement (.scmpN f) := of_s rfl (by decide) rfl fun _ => rfl
theorem ssel (f : SF) : Statement (.ssel f) := of_s rfl (by decide) rfl fun _ => rfl
theorem smov (f : SF) : Statement (.smov f) := of_s rfl (by decide) rfl fun _ => rfl
theorem sli (f : SF) : Statement (.sli f) := of_s rfl (by decide) rfl fun _ => rfl
theorem sclz (f : SF) : Statement (.sclz f) := of_s rfl (by decide) rfl fun _ => rfl
theorem spopc (f : SF) : Statement (.spopc f) := of_s rfl (by decide) rfl fun _ => rfl
theorem sbfxI (f : SF) : Statement (.sbfxI f) := of_s rfl (by decide) rfl fun _ => rfl
theorem sbfxN (f : SF) : Statement (.sbfxN f) := of_s rfl (by decide) rfl fun _ => rfl
theorem sbfi (f : SF) : Statement (.sbfi f) := of_s rfl (by decide) rfl fun _ => rfl
theorem saddr (f : SF) : Statement (.saddr f) := of_s rfl (by decide) rfl fun _ => rfl
theorem ssext (f : SF) : Statement (.ssext f) := of_s rfl (by decide) rfl fun _ => rfl
theorem sabs (f : SF) : Statement (.sabs f) := of_s rfl (by decide) rfl fun _ => rfl
theorem sfadd (f : SF) : Statement (.sfadd f) := of_s rfl (by decide) rfl fun _ => rfl
theorem sfmul (f : SF) : Statement (.sfmul f) := of_s rfl (by decide) rfl fun _ => rfl
theorem sffma (f : SF) : Statement (.sffma f) := of_s rfl (by decide) rfl fun _ => rfl
theorem sfdiv (f : SF) : Statement (.sfdiv f) := of_s rfl (by decide) rfl fun _ => rfl
theorem sfsqrt (f : SF) : Statement (.sfsqrt f) := of_s rfl (by decide) rfl fun _ => rfl
theorem sfmin (f : SF) : Statement (.sfmin f) := of_s rfl (by decide) rfl fun _ => rfl
theorem sfmax (f : SF) : Statement (.sfmax f) := of_s rfl (by decide) rfl fun _ => rfl
theorem sfcmp (f : SF) : Statement (.sfcmp f) := of_s rfl (by decide) rfl fun _ => rfl
theorem sfcvt (f : SF) : Statement (.sfcvt f) := of_s rfl (by decide) rfl fun _ => rfl
theorem bra (f : BF) : Statement (.bra f) := of_b rfl (by decide) rfl fun _ => rfl
theorem brv (f : BF) : Statement (.brv f) := of_b rfl (by decide) rfl fun _ => rfl
theorem jmp (f : BF) : Statement (.jmp f) := of_b rfl (by decide) rfl fun _ => rfl
theorem jmpv (f : BF) : Statement (.jmpv f) := of_b rfl (by decide) rfl fun _ => rfl
theorem call (f : BF) : Statement (.call f) := of_b rfl (by decide) rfl fun _ => rfl
theorem ret (f : BF) : Statement (.ret f) := of_b rfl (by decide) rfl fun _ => rfl
theorem rjoin (f : BF) : Statement (.rjoin f) := of_b rfl (by decide) rfl fun _ => rfl
theorem detach (f : BF) : Statement (.detach f) := of_b rfl (by decide) rfl fun _ => rfl
theorem loop (f : BF) : Statement (.loop f) := of_b rfl (by decide) rfl fun _ => rfl
theorem exit (f : BF) : Statement (.exit f) := of_b rfl (by decide) rfl fun _ => rfl
theorem tend (f : BF) : Statement (.tend f) := of_b rfl (by decide) rfl fun _ => rfl
theorem yield (f : BF) : Statement (.yield f) := of_b rfl (by decide) rfl fun _ => rfl
theorem nap (f : BF) : Statement (.nap f) := of_b rfl (by decide) rfl fun _ => rfl
theorem nop (f : BF) : Statement (.nop f) := of_b rfl (by decide) rfl fun _ => rfl
theorem trap (f : QF) : Statement (.trap f) := of_q rfl (by decide) rfl fun _ => rfl
theorem rte (f : QF) : Statement (.rte f) := of_q rfl (by decide) rfl fun _ => rfl
theorem xrd (f : QF) : Statement (.xrd f) := of_q rfl (by decide) rfl fun _ => rfl
theorem xwr (f : QF) : Statement (.xwr f) := of_q rfl (by decide) rfl fun _ => rfl
theorem xset (f : QF) : Statement (.xset f) := of_q rfl (by decide) rfl fun _ => rfl
theorem xclr (f : QF) : Statement (.xclr f) := of_q rfl (by decide) rfl fun _ => rfl
theorem setfmt (f : QF) : Statement (.setfmt f) := of_q rfl (by decide) rfl fun _ => rfl
theorem getfmt (f : QF) : Statement (.getfmt f) := of_q rfl (by decide) rfl fun _ => rfl
theorem time (f : QF) : Statement (.time f) := of_q rfl (by decide) rfl fun _ => rfl
theorem waitt (f : QF) : Statement (.waitt f) := of_q rfl (by decide) rfl fun _ => rfl
theorem bkpt (f : QF) : Statement (.bkpt f) := of_q rfl (by decide) rfl fun _ => rfl
theorem errack (f : QF) : Statement (.errack f) := of_q rfl (by decide) rfl fun _ => rfl
theorem svc (f : QF) : Statement (.svc f) := of_q rfl (by decide) rfl fun _ => rfl
theorem fencei (f : QF) : Statement (.fencei f) := of_q rfl (by decide) rfl fun _ => rfl
theorem vadd (f : VF) : Statement (.vadd f) := of_v rfl (by decide) rfl fun _ => rfl
theorem vsub (f : VF) : Statement (.vsub f) := of_v rfl (by decide) rfl fun _ => rfl
theorem vmul (f : VF) : Statement (.vmul f) := of_v rfl (by decide) rfl fun _ => rfl
theorem vmulhI (f : VF) : Statement (.vmulhI f) := of_v rfl (by decide) rfl fun _ => rfl
theorem vmulhN (f : VF) : Statement (.vmulhN f) := of_v rfl (by decide) rfl fun _ => rfl
theorem vmulwI (f : VF) : Statement (.vmulwI f) := of_v rfl (by decide) rfl fun _ => rfl
theorem vmulwN (f : VF) : Statement (.vmulwN f) := of_v rfl (by decide) rfl fun _ => rfl
theorem vmad (f : VF) : Statement (.vmad f) := of_v rfl (by decide) rfl fun _ => rfl
theorem vand (f : VF) : Statement (.vand f) := of_v rfl (by decide) rfl fun _ => rfl
theorem vor (f : VF) : Statement (.vor f) := of_v rfl (by decide) rfl fun _ => rfl
theorem vxor (f : VF) : Statement (.vxor f) := of_v rfl (by decide) rfl fun _ => rfl
theorem vandn (f : VF) : Statement (.vandn f) := of_v rfl (by decide) rfl fun _ => rfl
theorem vshl (f : VF) : Statement (.vshl f) := of_v rfl (by decide) rfl fun _ => rfl
theorem vshls (f : VF) : Statement (.vshls f) := of_v rfl (by decide) rfl fun _ => rfl
theorem vshr (f : VF) : Statement (.vshr f) := of_v rfl (by decide) rfl fun _ => rfl
theorem vsra (f : VF) : Statement (.vsra f) := of_v rfl (by decide) rfl fun _ => rfl
theorem vrot (f : VF) : Statement (.vrot f) := of_v rfl (by decide) rfl fun _ => rfl
theorem vminI (f : VF) : Statement (.vminI f) := of_v rfl (by decide) rfl fun _ => rfl
theorem vminN (f : VF) : Statement (.vminN f) := of_v rfl (by decide) rfl fun _ => rfl
theorem vmaxI (f : VF) : Statement (.vmaxI f) := of_v rfl (by decide) rfl fun _ => rfl
theorem vmaxN (f : VF) : Statement (.vmaxN f) := of_v rfl (by decide) rfl fun _ => rfl
theorem vclampI (f : VF) : Statement (.vclampI f) := of_v rfl (by decide) rfl fun _ => rfl
theorem vclampN (f : VF) : Statement (.vclampN f) := of_v rfl (by decide) rfl fun _ => rfl
theorem vabsdI (f : VF) : Statement (.vabsdI f) := of_v rfl (by decide) rfl fun _ => rfl
theorem vabsdN (f : VF) : Statement (.vabsdN f) := of_v rfl (by decide) rfl fun _ => rfl
theorem vavgI (f : VF) : Statement (.vavgI f) := of_v rfl (by decide) rfl fun _ => rfl
theorem vavgN (f : VF) : Statement (.vavgN f) := of_v rfl (by decide) rfl fun _ => rfl
theorem vaddsI (f : VF) : Statement (.vaddsI f) := of_v rfl (by decide) rfl fun _ => rfl
theorem vaddsN (f : VF) : Statement (.vaddsN f) := of_v rfl (by decide) rfl fun _ => rfl
theorem vsubsI (f : VF) : Statement (.vsubsI f) := of_v rfl (by decide) rfl fun _ => rfl
theorem vsubsN (f : VF) : Statement (.vsubsN f) := of_v rfl (by decide) rfl fun _ => rfl
theorem vdot2I (f : VF) : Statement (.vdot2I f) := of_v rfl (by decide) rfl fun _ => rfl
theorem vdot2N (f : VF) : Statement (.vdot2N f) := of_v rfl (by decide) rfl fun _ => rfl
theorem vdot4I (f : VF) : Statement (.vdot4I f) := of_v rfl (by decide) rfl fun _ => rfl
theorem vdot4N (f : VF) : Statement (.vdot4N f) := of_v rfl (by decide) rfl fun _ => rfl
theorem vrshrI (f : VF) : Statement (.vrshrI f) := of_v rfl (by decide) rfl fun _ => rfl
theorem vrshrN (f : VF) : Statement (.vrshrN f) := of_v rfl (by decide) rfl fun _ => rfl
theorem vnarrowI (f : VF) : Statement (.vnarrowI f) := of_v rfl (by decide) rfl fun _ => rfl
theorem vnarrowN (f : VF) : Statement (.vnarrowN f) := of_v rfl (by decide) rfl fun _ => rfl
theorem vwidenI (f : VF) : Statement (.vwidenI f) := of_v rfl (by decide) rfl fun _ => rfl
theorem vwidenN (f : VF) : Statement (.vwidenN f) := of_v rfl (by decide) rfl fun _ => rfl
theorem vclz (f : VF) : Statement (.vclz f) := of_v rfl (by decide) rfl fun _ => rfl
theorem vpopc (f : VF) : Statement (.vpopc f) := of_v rfl (by decide) rfl fun _ => rfl
theorem vbfxI (f : VF) : Statement (.vbfxI f) := of_v rfl (by decide) rfl fun _ => rfl
theorem vbfxN (f : VF) : Statement (.vbfxN f) := of_v rfl (by decide) rfl fun _ => rfl
theorem vbfi (f : VF) : Statement (.vbfi f) := of_v rfl (by decide) rfl fun _ => rfl
theorem vcmpI (f : VF) : Statement (.vcmpI f) := of_v rfl (by decide) rfl fun _ => rfl
theorem vcmpN (f : VF) : Statement (.vcmpN f) := of_v rfl (by decide) rfl fun _ => rfl
theorem vsel (f : VF) : Statement (.vsel f) := of_v rfl (by decide) rfl fun _ => rfl
theorem vmov (f : VF) : Statement (.vmov f) := of_v rfl (by decide) rfl fun _ => rfl
theorem vlut (f : VF) : Statement (.vlut f) := of_v rfl (by decide) rfl fun _ => rfl
theorem vfadd (f : VF) : Statement (.vfadd f) := of_v rfl (by decide) rfl fun _ => rfl
theorem vfsub (f : VF) : Statement (.vfsub f) := of_v rfl (by decide) rfl fun _ => rfl
theorem vfmul (f : VF) : Statement (.vfmul f) := of_v rfl (by decide) rfl fun _ => rfl
theorem vfma (f : VF) : Statement (.vfma f) := of_v rfl (by decide) rfl fun _ => rfl
theorem vfmin (f : VF) : Statement (.vfmin f) := of_v rfl (by decide) rfl fun _ => rfl
theorem vfminNum (f : VF) : Statement (.vfminNum f) := of_v rfl (by decide) rfl fun _ => rfl
theorem vfmax (f : VF) : Statement (.vfmax f) := of_v rfl (by decide) rfl fun _ => rfl
theorem vfmaxNum (f : VF) : Statement (.vfmaxNum f) := of_v rfl (by decide) rfl fun _ => rfl
theorem vfclamp (f : VF) : Statement (.vfclamp f) := of_v rfl (by decide) rfl fun _ => rfl
theorem vfamax (f : VF) : Statement (.vfamax f) := of_v rfl (by decide) rfl fun _ => rfl
theorem vfsign (f : VF) : Statement (.vfsign f) := of_v rfl (by decide) rfl fun _ => rfl
theorem vflrp (f : VF) : Statement (.vflrp f) := of_v rfl (by decide) rfl fun _ => rfl
theorem vfcmp (f : VF) : Statement (.vfcmp f) := of_v rfl (by decide) rfl fun _ => rfl
theorem vfclass (f : VF) : Statement (.vfclass f) := of_v rfl (by decide) rfl fun _ => rfl
theorem vfrcp (f : VF) : Statement (.vfrcp f) := of_v rfl (by decide) rfl fun _ => rfl
theorem vfrsq (f : VF) : Statement (.vfrsq f) := of_v rfl (by decide) rfl fun _ => rfl
theorem vfsqrt (f : VF) : Statement (.vfsqrt f) := of_v rfl (by decide) rfl fun _ => rfl
theorem vfdiv (f : VF) : Statement (.vfdiv f) := of_v rfl (by decide) rfl fun _ => rfl
theorem vfexp2 (f : VF) : Statement (.vfexp2 f) := of_v rfl (by decide) rfl fun _ => rfl
theorem vflog2 (f : VF) : Statement (.vflog2 f) := of_v rfl (by decide) rfl fun _ => rfl
theorem vftanh (f : VF) : Statement (.vftanh f) := of_v rfl (by decide) rfl fun _ => rfl
theorem vferf (f : VF) : Statement (.vferf f) := of_v rfl (by decide) rfl fun _ => rfl
theorem vfsigm (f : VF) : Statement (.vfsigm f) := of_v rfl (by decide) rfl fun _ => rfl
theorem vfsin (f : VF) : Statement (.vfsin f) := of_v rfl (by decide) rfl fun _ => rfl
theorem vfcos (f : VF) : Statement (.vfcos f) := of_v rfl (by decide) rfl fun _ => rfl
theorem vfrnd (f : VF) : Statement (.vfrnd f) := of_v rfl (by decide) rfl fun _ => rfl
theorem vfscale (f : VF) : Statement (.vfscale f) := of_v rfl (by decide) rfl fun _ => rfl
theorem vfdot2 (f : VF) : Statement (.vfdot2 f) := of_v rfl (by decide) rfl fun _ => rfl
theorem vfcvtw (f : VF) : Statement (.vfcvtw f) := of_v rfl (by decide) rfl fun _ => rfl
theorem vfcvtn (f : VF) : Statement (.vfcvtn f) := of_v rfl (by decide) rfl fun _ => rfl
theorem vfcvts (f : VF) : Statement (.vfcvts f) := of_v rfl (by decide) rfl fun _ => rfl
theorem vicvtI (f : VF) : Statement (.vicvtI f) := of_v rfl (by decide) rfl fun _ => rfl
theorem vicvtN (f : VF) : Statement (.vicvtN f) := of_v rfl (by decide) rfl fun _ => rfl
theorem vfcvtiI (f : VF) : Statement (.vfcvtiI f) := of_v rfl (by decide) rfl fun _ => rfl
theorem vfcvtiN (f : VF) : Statement (.vfcvtiN f) := of_v rfl (by decide) rfl fun _ => rfl
theorem vfpack4 (f : VF) : Statement (.vfpack4 f) := of_v rfl (by decide) rfl fun _ => rfl
theorem vfunpk4 (f : VF) : Statement (.vfunpk4 f) := of_v rfl (by decide) rfl fun _ => rfl
theorem vadam (f : VF) : Statement (.vadam f) := of_v rfl (by decide) rfl fun _ => rfl
theorem mand (f : VF) : Statement (.mand f) := of_v rfl (by decide) rfl fun _ => rfl
theorem mor (f : VF) : Statement (.mor f) := of_v rfl (by decide) rfl fun _ => rfl
theorem mxor (f : VF) : Statement (.mxor f) := of_v rfl (by decide) rfl fun _ => rfl
theorem mandn (f : VF) : Statement (.mandn f) := of_v rfl (by decide) rfl fun _ => rfl
theorem mnot (f : VF) : Statement (.mnot f) := of_v rfl (by decide) rfl fun _ => rfl
theorem mmov (f : VF) : Statement (.mmov f) := of_v rfl (by decide) rfl fun _ => rfl
theorem mshift (f : VF) : Statement (.mshift f) := of_v rfl (by decide) rfl fun _ => rfl
theorem mpopc (f : VF) : Statement (.mpopc f) := of_v rfl (by decide) rfl fun _ => rfl
theorem mfirst (f : VF) : Statement (.mfirst f) := of_v rfl (by decide) rfl fun _ => rfl
theorem mlast (f : VF) : Statement (.mlast f) := of_v rfl (by decide) rfl fun _ => rfl
theorem mset (f : VF) : Statement (.mset f) := of_v rfl (by decide) rfl fun _ => rfl
theorem mget (f : VF) : Statement (.mget f) := of_v rfl (by decide) rfl fun _ => rfl
theorem voteAny (f : VF) : Statement (.voteAny f) := of_v rfl (by decide) rfl fun _ => rfl
theorem voteAll (f : VF) : Statement (.voteAll f) := of_v rfl (by decide) rfl fun _ => rfl
theorem voteEq (f : VF) : Statement (.voteEq f) := of_v rfl (by decide) rfl fun _ => rfl
theorem voteBallot (f : VF) : Statement (.voteBallot f) := of_v rfl (by decide) rfl fun _ => rfl
theorem shflIdx (f : VF) : Statement (.shflIdx f) := of_v rfl (by decide) rfl fun _ => rfl
theorem shflXor (f : VF) : Statement (.shflXor f) := of_v rfl (by decide) rfl fun _ => rfl
theorem vredInt (f : VF) : Statement (.vredInt f) := of_v rfl (by decide) rfl fun _ => rfl
theorem vredFloat (f : VF) : Statement (.vredFloat f) := of_v rfl (by decide) rfl fun _ => rfl
theorem vscanInt (f : VF) : Statement (.vscanInt f) := of_v rfl (by decide) rfl fun _ => rfl
theorem vscanFloat (f : VF) : Statement (.vscanFloat f) := of_v rfl (by decide) rfl fun _ => rfl
theorem vbcast (f : VF) : Statement (.vbcast f) := of_v rfl (by decide) rfl fun _ => rfl
theorem vext (f : VF) : Statement (.vext f) := of_v rfl (by decide) rfl fun _ => rfl
theorem vins (f : VF) : Statement (.vins f) := of_v rfl (by decide) rfl fun _ => rfl
theorem vrev (f : VF) : Statement (.vrev f) := of_v rfl (by decide) rfl fun _ => rfl
theorem vcompact (f : VF) : Statement (.vcompact f) := of_v rfl (by decide) rfl fun _ => rfl
theorem vragg (f : VF) : Statement (.vragg f) := of_v rfl (by decide) rfl fun _ => rfl
theorem vldGlobal (f : MF) : Statement (.vldGlobal f) := of_m rfl (by decide) rfl fun _ => rfl
theorem vldScratch (f : MF) : Statement (.vldScratch f) := of_m rfl (by decide) rfl fun _ => rfl
theorem vldCluster (f : MF) : Statement (.vldCluster f) := of_m rfl (by decide) rfl fun _ => rfl
theorem vstGlobal (f : MF) : Statement (.vstGlobal f) := of_m rfl (by decide) rfl fun _ => rfl
theorem vstScratch (f : MF) : Statement (.vstScratch f) := of_m rfl (by decide) rfl fun _ => rfl
theorem vstCluster (f : MF) : Statement (.vstCluster f) := of_m rfl (by decide) rfl fun _ => rfl
theorem vldb (f : MF) : Statement (.vldb f) := of_m rfl (by decide) rfl fun _ => rfl
theorem vldx (f : MF) : Statement (.vldx f) := of_m rfl (by decide) rfl fun _ => rfl
theorem vstx (f : MF) : Statement (.vstx f) := of_m rfl (by decide) rfl fun _ => rfl
theorem sldGlobal (f : MF) : Statement (.sldGlobal f) := of_m rfl (by decide) rfl fun _ => rfl
theorem sldParam (f : MF) : Statement (.sldParam f) := of_m rfl (by decide) rfl fun _ => rfl
theorem sst (f : MF) : Statement (.sst f) := of_m rfl (by decide) rfl fun _ => rfl
theorem pref (f : MF) : Statement (.pref f) := of_m rfl (by decide) rfl fun _ => rfl
theorem cwb (f : MF) : Statement (.cwb f) := of_m rfl (by decide) rfl fun _ => rfl
theorem cinv (f : MF) : Statement (.cinv f) := of_m rfl (by decide) rfl fun _ => rfl
theorem atomI32 (f : AF) : Statement (.atomI32 f) := of_a rfl (by decide) rfl fun _ => rfl
theorem atomI64 (f : AF) : Statement (.atomI64 f) := of_a rfl (by decide) rfl fun _ => rfl
theorem atomF32 (f : AF) : Statement (.atomF32 f) := of_a rfl (by decide) rfl fun _ => rfl
theorem cas32 (f : AF) : Statement (.cas32 f) := of_a rfl (by decide) rfl fun _ => rfl
theorem cas64 (f : AF) : Statement (.cas64 f) := of_a rfl (by decide) rfl fun _ => rfl
theorem satom (f : AF) : Statement (.satom f) := of_a rfl (by decide) rfl fun _ => rfl
theorem scas (f : AF) : Statement (.scas f) := of_a rfl (by decide) rfl fun _ => rfl
theorem redI32 (f : AF) : Statement (.redI32 f) := of_a rfl (by decide) rfl fun _ => rfl
theorem redI64 (f : AF) : Statement (.redI64 f) := of_a rfl (by decide) rfl fun _ => rfl
theorem redF32 (f : AF) : Statement (.redF32 f) := of_a rfl (by decide) rfl fun _ => rfl
theorem redBf16x2 (f : AF) : Statement (.redBf16x2 f) := of_a rfl (by decide) rfl fun _ => rfl
theorem fence (f : MF) : Statement (.fence f) := of_m rfl (by decide) rfl fun _ => rfl
theorem xfence (f : MF) : Statement (.xfence f) := of_m rfl (by decide) rfl fun _ => rfl
theorem bar (f : MF) : Statement (.bar f) := of_m rfl (by decide) rfl fun _ => rfl
theorem bara (f : MF) : Statement (.bara f) := of_m rfl (by decide) rfl fun _ => rfl
theorem barw (f : MF) : Statement (.barw f) := of_m rfl (by decide) rfl fun _ => rfl
theorem waita32 (f : MF) : Statement (.waita32 f) := of_m rfl (by decide) rfl fun _ => rfl
theorem waita64 (f : MF) : Statement (.waita64 f) := of_m rfl (by decide) rfl fun _ => rfl
theorem wakea (f : MF) : Statement (.wakea f) := of_m rfl (by decide) rfl fun _ => rfl
theorem pflush (f : MF) : Statement (.pflush f) := of_m rfl (by decide) rfl fun _ => rfl
theorem pflushv (f : MF) : Statement (.pflushv f) := of_m rfl (by decide) rfl fun _ => rfl
theorem pbar (f : MF) : Statement (.pbar f) := of_m rfl (by decide) rfl fun _ => rfl
theorem stepset (f : MF) : Statement (.stepset f) := of_m rfl (by decide) rfl fun _ => rfl
theorem snap (f : MF) : Statement (.snap f) := of_m rfl (by decide) rfl fun _ => rfl
theorem pstat (f : MF) : Statement (.pstat f) := of_m rfl (by decide) rfl fun _ => rfl
theorem mmaFp8 (f : XF) : Statement (.mmaFp8 f) := of_x rfl (by decide) rfl fun _ => rfl
theorem mmaBf16 (f : XF) : Statement (.mmaBf16 f) := of_x rfl (by decide) rfl fun h => by
  have h1 : Rule.fmtA f.imm = 0 := by
    simp only [Instr.legal, Instr.shape, Shape.legal, XF.legal, Rule.mma16, Bool.and_eq_true, beq_iff_eq] at h
    tauto
  simp [buildX, h1]
theorem mmaF16 (f : XF) : Statement (.mmaF16 f) := of_x rfl (by decide) rfl fun h => by
  have h1 : Rule.fmtA f.imm = 1 := by
    simp only [Instr.legal, Instr.shape, Shape.legal, XF.legal, Rule.mma16, Bool.and_eq_true, beq_iff_eq] at h
    tauto
  simp [buildX, h1]
theorem mmaInt8 (f : XF) : Statement (.mmaInt8 f) := of_x rfl (by decide) rfl fun _ => rfl
theorem mmas (f : XF) : Statement (.mmas f) := of_x rfl (by decide) rfl fun _ => rfl
theorem mzero (f : XF) : Statement (.mzero f) := of_x rfl (by decide) rfl fun _ => rfl
theorem mld (f : XF) : Statement (.mld f) := of_x rfl (by decide) rfl fun _ => rfl
theorem mst (f : XF) : Statement (.mst f) := of_x rfl (by decide) rfl fun _ => rfl
theorem mstBand (f : XF) : Statement (.mstBand f) := of_x rfl (by decide) rfl fun _ => rfl
theorem mrd (f : XF) : Statement (.mrd f) := of_x rfl (by decide) rfl fun _ => rfl
theorem mwr (f : XF) : Statement (.mwr f) := of_x rfl (by decide) rfl fun _ => rfl
theorem mscl (f : XF) : Statement (.mscl f) := of_x rfl (by decide) rfl fun _ => rfl
theorem batonTake (f : XF) : Statement (.batonTake f) := of_x rfl (by decide) rfl fun _ => rfl
theorem batonPass (f : XF) : Statement (.batonPass f) := of_x rfl (by decide) rfl fun _ => rfl
theorem batonQuery (f : XF) : Statement (.batonQuery f) := of_x rfl (by decide) rfl fun _ => rfl
theorem mwait (f : XF) : Statement (.mwait f) := of_x rfl (by decide) rfl fun _ => rfl
theorem macq (f : XF) : Statement (.macq f) := of_x rfl (by decide) rfl fun _ => rfl
theorem mrel (f : XF) : Statement (.mrel f) := of_x rfl (by decide) rfl fun _ => rfl
theorem mstep (f : XF) : Statement (.mstep f) := of_x rfl (by decide) rfl fun _ => rfl
theorem cpy (f : XF) : Statement (.cpy f) := of_x rfl (by decide) rfl fun _ => rfl
theorem cpyf (f : XF) : Statement (.cpyf f) := of_x rfl (by decide) rfl fun _ => rfl
theorem cpym (f : XF) : Statement (.cpym f) := of_x rfl (by decide) rfl fun _ => rfl
theorem cpyat (f : XF) : Statement (.cpyat f) := of_x rfl (by decide) rfl fun _ => rfl
theorem cpyz (f : XF) : Statement (.cpyz f) := of_x rfl (by decide) rfl fun _ => rfl
theorem cpyk (f : XF) : Statement (.cpyk f) := of_x rfl (by decide) rfl fun _ => rfl
theorem cpyp (f : XF) : Statement (.cpyp f) := of_x rfl (by decide) rfl fun _ => rfl
theorem cfill (f : XF) : Statement (.cfill f) := of_x rfl (by decide) rfl fun _ => rfl
theorem ccnl (f : XF) : Statement (.ccnl f) := of_x rfl (by decide) rfl fun _ => rfl
theorem cqry (f : XF) : Statement (.cqry f) := of_x rfl (by decide) rfl fun _ => rfl
theorem gthrX32 (f : XF) : Statement (.gthrX32 f) := of_x rfl (by decide) rfl fun _ => rfl
theorem gthrX64 (f : XF) : Statement (.gthrX64 f) := of_x rfl (by decide) rfl fun _ => rfl
theorem sctr (f : XF) : Statement (.sctr f) := of_x rfl (by decide) rfl fun _ => rfl
theorem collAllreduce (f : XF) : Statement (.collAllreduce f) := of_x rfl (by decide) rfl fun _ => rfl
theorem collReducescatter (f : XF) : Statement (.collReducescatter f) := of_x rfl (by decide) rfl fun _ => rfl
theorem collAllgather (f : XF) : Statement (.collAllgather f) := of_x rfl (by decide) rfl fun _ => rfl
theorem collBcast (f : XF) : Statement (.collBcast f) := of_x rfl (by decide) rfl fun _ => rfl
theorem collat (f : XF) : Statement (.collat f) := of_x rfl (by decide) rfl fun _ => rfl
theorem nvsub (f : XF) : Statement (.nvsub f) := of_x rfl (by decide) rfl fun _ => rfl
theorem nvdb (f : XF) : Statement (.nvdb f) := of_x rfl (by decide) rfl fun _ => rfl
theorem nvcq (f : XF) : Statement (.nvcq f) := of_x rfl (by decide) rfl fun _ => rfl
theorem fput (f : XF) : Statement (.fput f) := of_x rfl (by decide) rfl fun _ => rfl
theorem fputa (f : XF) : Statement (.fputa f) := of_x rfl (by decide) rfl fun _ => rfl
theorem fget (f : XF) : Statement (.fget f) := of_x rfl (by decide) rfl fun _ => rfl
theorem fatomInt (f : XF) : Statement (.fatomInt f) := of_x rfl (by decide) rfl fun _ => rfl
theorem fatomF32 (f : XF) : Statement (.fatomF32 f) := of_x rfl (by decide) rfl fun _ => rfl
theorem fcas (f : XF) : Statement (.fcas f) := of_x rfl (by decide) rfl fun _ => rfl
theorem ffence (f : XF) : Statement (.ffence f) := of_x rfl (by decide) rfl fun _ => rfl
theorem tenq (f : XF) : Statement (.tenq f) := of_x rfl (by decide) rfl fun _ => rfl
theorem trenq (f : XF) : Statement (.trenq f) := of_x rfl (by decide) rfl fun _ => rfl
theorem tset (f : XF) : Statement (.tset f) := of_x rfl (by decide) rfl fun _ => rfl
theorem tstat (f : XF) : Statement (.tstat f) := of_x rfl (by decide) rfl fun _ => rfl
theorem twait (f : XF) : Statement (.twait f) := of_x rfl (by decide) rfl fun _ => rfl
theorem targ (f : XF) : Statement (.targ f) := of_x rfl (by decide) rfl fun _ => rfl
theorem rgrow (f : XF) : Statement (.rgrow f) := of_x rfl (by decide) rfl fun _ => rfl
theorem rshrink (f : XF) : Statement (.rshrink f) := of_x rfl (by decide) rfl fun _ => rfl
theorem spalloc (f : XF) : Statement (.spalloc f) := of_x rfl (by decide) rfl fun _ => rfl
theorem spfree (f : XF) : Statement (.spfree f) := of_x rfl (by decide) rfl fun _ => rfl
theorem pin (f : XF) : Statement (.pin f) := of_x rfl (by decide) rfl fun _ => rfl
theorem tsplit (f : XF) : Statement (.tsplit f) := of_x rfl (by decide) rfl fun _ => rfl
theorem gopen (f : XF) : Statement (.gopen f) := of_x rfl (by decide) rfl fun _ => rfl
theorem gclose (f : XF) : Statement (.gclose f) := of_x rfl (by decide) rfl fun _ => rfl
theorem mmioRegisterWrite : ∀ pa v sup, Statement (.mmioRegisterWrite pa v sup) := fun _ _ _ => of_event rfl
theorem partitionDescriptorWrite : ∀ p off v sup, Statement (.partitionDescriptorWrite p off v sup) := fun _ _ _ _ => of_event rfl
theorem keyLoad : ∀ v sup, Statement (.keyLoad v sup) := fun _ _ => of_event rfl
theorem keyErase : ∀ v sup, Statement (.keyErase v sup) := fun _ _ => of_event rfl
theorem keyReload : ∀ v sup, Statement (.keyReload v sup) := fun _ _ => of_event rfl
theorem xlrbaseWrite : ∀ die v sup, Statement (.xlrbaseWrite die v sup) := fun _ _ _ => of_event rfl
theorem xlrtailWrite : ∀ die v sup, Statement (.xlrtailWrite die v sup) := fun _ _ _ => of_event rfl
theorem faultFix : ∀ v sup, Statement (.faultFix v sup) := fun _ _ => of_event rfl
theorem faultDeny : ∀ v sup, Statement (.faultDeny v sup) := fun _ _ => of_event rfl
theorem xlinvPartition : ∀ v sup, Statement (.xlinvPartition v sup) := fun _ _ => of_event rfl
theorem xlinvPage : ∀ v sup, Statement (.xlinvPage v sup) := fun _ _ => of_event rfl
theorem xlinvPartitionAll : ∀ v sup, Statement (.xlinvPartitionAll v sup) := fun _ _ => of_event rfl
theorem xlinvKey : ∀ v sup, Statement (.xlinvKey v sup) := fun _ _ => of_event rfl
theorem xlinvAll : ∀ v sup, Statement (.xlinvAll v sup) := fun _ _ => of_event rfl
theorem xlinvDone : Statement .xlinvDone := of_event rfl
theorem walkStart : ∀ die part page, Statement (.walkStart die part page) := fun _ _ _ => of_event rfl
theorem walkComplete : ∀ die part page, Statement (.walkComplete die part page) := fun _ _ _ => of_event rfl
theorem faultRecordWrite : ∀ die part page, Statement (.faultRecordWrite die part page) := fun _ _ _ => of_event rfl
theorem rrtExchange : ∀ core v sup, Statement (.rrtExchange core v sup) := fun _ _ _ => of_event rfl
theorem rrtExchangeMove : ∀ core v sup, Statement (.rrtExchangeMove core v sup) := fun _ _ _ => of_event rfl
theorem coreHalt : ∀ core v sup, Statement (.coreHalt core v sup) := fun _ _ _ => of_event rfl
theorem coreHalted : ∀ core, Statement (.coreHalted core) := fun _ => of_event rfl
theorem coreRelease : ∀ core v sup, Statement (.coreRelease core v sup) := fun _ _ _ => of_event rfl
theorem rvtWrite : ∀ core idx v sup, Statement (.rvtWrite core idx v sup) := fun _ _ _ _ => of_event rfl
theorem wayViabilityWrite : ∀ l2 unit idx v sup, Statement (.wayViabilityWrite l2 unit idx v sup) := fun _ _ _ _ _ => of_event rfl
theorem opStepRequest : ∀ v sup, Statement (.opStepRequest v sup) := fun _ _ => of_event rfl
theorem opStepPlan : Statement .opStepPlan := of_event rfl
theorem opStepRowMoves : Statement .opStepRowMoves := of_event rfl
theorem opStepDispose : Statement .opStepDispose := of_event rfl
theorem opStepWays : Statement .opStepWays := of_event rfl
theorem opStepRamp : Statement .opStepRamp := of_event rfl
theorem opStepCommit : Statement .opStepCommit := of_event rfl
theorem opStepUpRaise : Statement .opStepUpRaise := of_event rfl
theorem opStepUpSettled : Statement .opStepUpSettled := of_event rfl
theorem partitionSwap : ∀ v sup, Statement (.partitionSwap v sup) := fun _ _ => of_event rfl
theorem swapDone : Statement .swapDone := of_event rfl
theorem postRederr : ∀ v sup, Statement (.postRederr v sup) := fun _ _ => of_event rfl
theorem postPosted : ∀ v sup, Statement (.postPosted v sup) := fun _ _ => of_event rfl
theorem asyncTrapEntry : ∀ who, Statement (.asyncTrapEntry who) := fun _ => of_event rfl
theorem frzResume : ∀ who sup, Statement (.frzResume who sup) := fun _ _ => of_event rfl
theorem frzReplay : ∀ who sup, Statement (.frzReplay who sup) := fun _ _ => of_event rfl
theorem frzKill : ∀ who sup, Statement (.frzKill who sup) := fun _ _ => of_event rfl
theorem frzFalsestart : ∀ who sup, Statement (.frzFalsestart who sup) := fun _ _ => of_event rfl
theorem frzPark : ∀ who sup, Statement (.frzPark who sup) := fun _ _ => of_event rfl
theorem frzRelease : ∀ who sup, Statement (.frzRelease who sup) := fun _ _ => of_event rfl
theorem crbaseWrite : ∀ die v sup, Statement (.crbaseWrite die v sup) := fun _ _ _ => of_event rfl
theorem crtailWrite : ∀ die v sup, Statement (.crtailWrite die v sup) := fun _ _ _ => of_event rfl
theorem consumptionRecordWrite : ∀ die, Statement (.consumptionRecordWrite die) := fun _ => of_event rfl
theorem nvmeQueuePairWrite : ∀ qp off v sup, Statement (.nvmeQueuePairWrite qp off v sup) := fun _ _ _ _ => of_event rfl
theorem doorbellWridx : ∀ part q v, Statement (.doorbellWridx part q v) := fun _ _ _ => of_event rfl
theorem doorbellInline : ∀ part q pkt, Statement (.doorbellInline part q pkt) := fun _ _ _ => of_event rfl
theorem hostBar2Read : ∀ part off n req, Statement (.hostBar2Read part off n req) := fun _ _ _ _ => of_event rfl
theorem hostBar2Write : ∀ part off bytes req, Statement (.hostBar2Write part off bytes req) := fun _ _ _ _ => of_event rfl
theorem cxlSnoop : ∀ pa, Statement (.cxlSnoop pa) := fun _ => of_event rfl
theorem mailboxGetinfo : ∀ fn tag args, Statement (.mailboxGetinfo fn tag args) := fun _ _ _ => of_event rfl
theorem mailboxAttest : ∀ fn tag args, Statement (.mailboxAttest fn tag args) := fun _ _ _ => of_event rfl
theorem mailboxSetop : ∀ fn tag args, Statement (.mailboxSetop fn tag args) := fun _ _ _ => of_event rfl
theorem mailboxSetcap : ∀ fn tag args, Statement (.mailboxSetcap fn tag args) := fun _ _ _ => of_event rfl
theorem mailboxHist : ∀ fn tag args, Statement (.mailboxHist fn tag args) := fun _ _ _ => of_event rfl
theorem fwstage : ∀ fn tag args, Statement (.fwstage fn tag args) := fun _ _ _ => of_event rfl
theorem fwcommit : ∀ fn tag args, Statement (.fwcommit fn tag args) := fun _ _ _ => of_event rfl
theorem proofload : ∀ fn tag args, Statement (.proofload fn tag args) := fun _ _ _ => of_event rfl
theorem partcfg : ∀ fn tag args, Statement (.partcfg fn tag args) := fun _ _ _ => of_event rfl
theorem svcHostLog : ∀ die, Statement (.svcHostLog die) := fun _ => of_event rfl
theorem svcMailboxEvent : ∀ die, Statement (.svcMailboxEvent die) := fun _ => of_event rfl
theorem svcRequestOp : ∀ die, Statement (.svcRequestOp die) := fun _ => of_event rfl
theorem svcReadCounter : ∀ die, Statement (.svcReadCounter die) := fun _ => of_event rfl
theorem svcReply : ∀ die, Statement (.svcReply die) := fun _ => of_event rfl
theorem inputPowerLoss : Statement .inputPowerLoss := of_event rfl
theorem holdupRailsOff : Statement .holdupRailsOff := of_event rfl
theorem drainRecordWrite : Statement .drainRecordWrite := of_event rfl
theorem fullReset : Statement .fullReset := of_event rfl
theorem bootVerify : Statement .bootVerify := of_event rfl
theorem bootReleaseCores : ∀ ok, Statement (.bootReleaseCores ok) := fun _ => of_event rfl
theorem bootTrainLinks : ∀ ok, Statement (.bootTrainLinks ok) := fun _ => of_event rfl
theorem bootReadRecords : ∀ confirmed ok, Statement (.bootReadRecords confirmed ok) := fun _ _ => of_event rfl
theorem bootTrainPorts : ∀ ok, Statement (.bootTrainPorts ok) := fun _ => of_event rfl
theorem bootCreatePartitions : Statement .bootCreatePartitions := of_event rfl
theorem memctlSectorRead : ∀ pa read tag stateBad, Statement (.memctlSectorRead pa read tag stateBad) := fun _ _ _ _ => of_event rfl
theorem l2Eviction : ∀ pa, Statement (.l2Eviction pa) := fun _ => of_event rfl
theorem owqDrainEntry : ∀ die mediaError, Statement (.owqDrainEntry die mediaError) := fun _ _ => of_event rfl
theorem scrubLine : ∀ pa symbols, Statement (.scrubLine pa symbols) := fun _ _ => of_event rfl
theorem pbarComplete : ∀ who, Statement (.pbarComplete who) := fun _ => of_event rfl
theorem lapBoundary : Statement .lapBoundary := of_event rfl
theorem timedActionFire : Statement .timedActionFire := of_event rfl
theorem launchPacketConsume : ∀ part q, Statement (.launchPacketConsume part q) := fun _ _ => of_event rfl
theorem enqueueBufferDrain : Statement .enqueueBufferDrain := of_event rfl
theorem coordinatorSelect : Statement .coordinatorSelect := of_event rfl
theorem placeInstance : ∀ die, Statement (.placeInstance die) := fun _ => of_event rfl
theorem dispatchAgeReserve : ∀ die, Statement (.dispatchAgeReserve die) := fun _ => of_event rfl
theorem spillRefill : ∀ die, Statement (.spillRefill die) := fun _ => of_event rfl
theorem allowanceExpired : ∀ sid, Statement (.allowanceExpired sid) := fun _ => of_event rfl
theorem falseStart : ∀ sid cause, Statement (.falseStart sid cause) := fun _ _ => of_event rfl
theorem instanceEnd : ∀ sid, Statement (.instanceEnd sid) := fun _ => of_event rfl
theorem squadSave : ∀ sid asked, Statement (.squadSave sid asked) := fun _ _ => of_event rfl
theorem squadRestore : ∀ sid core, Statement (.squadRestore sid core) := fun _ _ => of_event rfl
theorem streamExchange : ∀ who, Statement (.streamExchange who) := fun _ => of_event rfl
theorem batonForcedPass : ∀ core, Statement (.batonForcedPass core) := fun _ => of_event rfl
theorem macroOpStep : ∀ core mismatch, Statement (.macroOpStep core mismatch) := fun _ _ => of_event rfl
theorem cpyfFollowonEnter : ∀ cmd, Statement (.cpyfFollowonEnter cmd) := fun _ => of_event rfl
theorem copyComplete : ∀ cmd, Statement (.copyComplete cmd) := fun _ => of_event rfl
theorem gatherComplete : ∀ cmd, Statement (.gatherComplete cmd) := fun _ => of_event rfl
theorem collectiveComplete : ∀ cmd, Statement (.collectiveComplete cmd) := fun _ => of_event rfl
theorem barrierWake : ∀ who, Statement (.barrierWake who) := fun _ => of_event rfl
theorem waitaResume : ∀ who, Statement (.waitaResume who) := fun _ => of_event rfl
theorem waitaPoll : ∀ who, Statement (.waitaPoll who) := fun _ => of_event rfl
theorem redCombineFlush : ∀ die pa, Statement (.redCombineFlush die pa) := fun _ _ => of_event rfl
theorem contentionWindow : ∀ die, Statement (.contentionWindow die) := fun _ => of_event rfl
theorem proofKernelDispatch : ∀ core kernel, Statement (.proofKernelDispatch core kernel) := fun _ _ => of_event rfl
theorem proofKernelResult : ∀ core digest, Statement (.proofKernelResult core digest) := fun _ _ => of_event rfl
theorem captureWalkStart : ∀ die set, Statement (.captureWalkStart die set) := fun _ _ => of_event rfl
theorem copyOnWrite : ∀ pa, Statement (.copyOnWrite pa) := fun _ => of_event rfl
theorem captureDeveloped : ∀ set, Statement (.captureDeveloped set) := fun _ => of_event rfl
theorem captureFixed : ∀ set, Statement (.captureFixed set) := fun _ => of_event rfl
theorem captureAbort : ∀ set sup, Statement (.captureAbort set sup) := fun _ _ => of_event rfl
theorem parityUnitSend : ∀ set unit, Statement (.parityUnitSend set unit) := fun _ _ => of_event rfl
theorem heartbeatSend : Statement .heartbeatSend := of_event rfl
theorem heartbeatMiss : ∀ pkg, Statement (.heartbeatMiss pkg) := fun _ => of_event rfl
theorem recoveryDetect : ∀ pkg, Statement (.recoveryDetect pkg) := fun _ => of_event rfl
theorem recoveryFence : Statement .recoveryFence := of_event rfl
theorem recoveryAbort : Statement .recoveryAbort := of_event rfl
theorem recoveryTrees : Statement .recoveryTrees := of_event rfl
theorem recoveryRebuild : ∀ units, Statement (.recoveryRebuild units) := fun _ => of_event rfl
theorem recoveryRestripe : Statement .recoveryRestripe := of_event rfl
theorem recoveryResume : Statement .recoveryResume := of_event rfl
theorem recoveryReport : Statement .recoveryReport := of_event rfl
theorem flitReceive : ∀ m fwd flit, Statement (.flitReceive m fwd flit) := fun _ _ _ => of_event rfl
theorem nakReceive : ∀ m fwd n, Statement (.nakReceive m fwd n) := fun _ _ _ => of_event rfl
theorem replayTimeout : ∀ m fwd, Statement (.replayTimeout m fwd) := fun _ _ => of_event rfl
theorem retrainEnd : ∀ m, Statement (.retrainEnd m) := fun _ => of_event rfl
theorem switchTrim : ∀ port p, Statement (.switchTrim port p) := fun _ _ => of_event rfl
theorem putPacket : ∀ p, Statement (.putPacket p) := fun _ => of_event rfl
theorem putaPacket : ∀ p, Statement (.putaPacket p) := fun _ => of_event rfl
theorem getreqPacket : ∀ p, Statement (.getreqPacket p) := fun _ => of_event rfl
theorem getrspPacket : ∀ p, Statement (.getrspPacket p) := fun _ => of_event rfl
theorem atomPacket : ∀ p, Statement (.atomPacket p) := fun _ => of_event rfl
theorem atomrspPacket : ∀ p, Statement (.atomrspPacket p) := fun _ => of_event rfl
theorem ackPacket : ∀ p, Statement (.ackPacket p) := fun _ => of_event rfl
theorem collPacket : ∀ p, Statement (.collPacket p) := fun _ => of_event rfl
theorem enqPacket : ∀ p, Statement (.enqPacket p) := fun _ => of_event rfl
theorem rereqPacket : ∀ p, Statement (.rereqPacket p) := fun _ => of_event rfl
theorem heartbeatPacket : ∀ p, Statement (.heartbeatPacket p) := fun _ => of_event rfl
theorem timesyncPacket : ∀ p, Statement (.timesyncPacket p) := fun _ => of_event rfl
theorem fatalPacket : ∀ p, Statement (.fatalPacket p) := fun _ => of_event rfl
theorem abortPacket : ∀ p, Statement (.abortPacket p) := fun _ => of_event rfl
theorem trimmedHeaderReceive : ∀ p, Statement (.trimmedHeaderReceive p) := fun _ => of_event rfl
theorem rereqSend : ∀ src, Statement (.rereqSend src) := fun _ => of_event rfl
theorem fabricRetxTimeout : ∀ dst domain flow psn, Statement (.fabricRetxTimeout dst domain flow psn) := fun _ _ _ _ => of_event rfl
theorem timesyncSend : Statement .timesyncSend := of_event rfl
theorem timesyncLoss : Statement .timesyncLoss := of_event rfl
theorem powerSample : ∀ meas, Statement (.powerSample meas) := fun _ => of_event rfl
theorem telemetryWrite : Statement .telemetryWrite := of_event rfl
theorem keyRequestComplete : Statement .keyRequestComplete := of_event rfl
theorem napEnd : ∀ who, Statement (.napEnd who) := fun _ => of_event rfl
theorem memoryResponseReturn : ∀ who, Statement (.memoryResponseReturn who) := fun _ => of_event rfl
theorem hostCxlMemAccess : ∀ pa write n, Statement (.hostCxlMemAccess pa write n) := fun _ _ _ => of_event rfl
theorem moduleIdleRetrain : ∀ m sup, Statement (.moduleIdleRetrain m sup) := fun _ _ => of_event rfl
theorem uncorrectableFecCodeword : ∀ port p, Statement (.uncorrectableFecCodeword port p) := fun _ _ => of_event rfl

end Sys2Proof.Laws.Wf
end

