-- ==== Sys2Proof/Laws/State.lean ====
section
/-! SUPPORT. What each update of State leaves as it was, one lemma per field, and what its own field reads afterwards. -/

namespace Sys2Proof.Machine

/-! `State.setReg` -/
@[simp] theorem State.setReg_sq (s : State) (pa : Nat) (v : W64) : (s.setReg pa v).sq = s.sq := by unfold State.setReg; rfl
@[simp] theorem State.setReg_wv (s : State) (pa : Nat) (v : W64) : (s.setReg pa v).wv = s.wv := by unfold State.setReg; rfl
@[simp] theorem State.setReg_st (s : State) (pa : Nat) (v : W64) : (s.setReg pa v).st = s.st := by unfold State.setReg; rfl
@[simp] theorem State.setReg_squads (s : State) (pa : Nat) (v : W64) : (s.setReg pa v).squads = s.squads := by unfold State.setReg; rfl
@[simp] theorem State.setReg_cores (s : State) (pa : Nat) (v : W64) : (s.setReg pa v).cores = s.cores := by unfold State.setReg; rfl
@[simp] theorem State.setReg_dies (s : State) (pa : Nat) (v : W64) : (s.setReg pa v).dies = s.dies := by unfold State.setReg; rfl
@[simp] theorem State.setReg_mem (s : State) (pa : Nat) (v : W64) : (s.setReg pa v).mem = s.mem := by unfold State.setReg; rfl
@[simp] theorem State.setReg_bad (s : State) (pa : Nat) (v : W64) : (s.setReg pa v).bad = s.bad := by unfold State.setReg; rfl
@[simp] theorem State.setReg_secKey (s : State) (pa : Nat) (v : W64) : (s.setReg pa v).secKey = s.secKey := by unfold State.setReg; rfl
@[simp] theorem State.setReg_l2 (s : State) (pa : Nat) (v : W64) : (s.setReg pa v).l2 = s.l2 := by unfold State.setReg; rfl
@[simp] theorem State.setReg_tags (s : State) (pa : Nat) (v : W64) : (s.setReg pa v).tags = s.tags := by unfold State.setReg; rfl
@[simp] theorem State.setReg_media (s : State) (pa : Nat) (v : W64) : (s.setReg pa v).media = s.media := by unfold State.setReg; rfl
@[simp] theorem State.setReg_mediaTags (s : State) (pa : Nat) (v : W64) : (s.setReg pa v).mediaTags = s.mediaTags := by unfold State.setReg; rfl
@[simp] theorem State.setReg_mediaBad (s : State) (pa : Nat) (v : W64) : (s.setReg pa v).mediaBad = s.mediaBad := by unfold State.setReg; rfl
@[simp] theorem State.setReg_mediaKeys (s : State) (pa : Nat) (v : W64) : (s.setReg pa v).mediaKeys = s.mediaKeys := by unfold State.setReg; rfl
@[simp] theorem State.setReg_owqWait (s : State) (pa : Nat) (v : W64) : (s.setReg pa v).owqWait = s.owqWait := by unfold State.setReg; rfl
@[simp] theorem State.setReg_keyKills (s : State) (pa : Nat) (v : W64) : (s.setReg pa v).keyKills = s.keyKills := by unfold State.setReg; rfl
@[simp] theorem State.setReg_cxl (s : State) (pa : Nat) (v : W64) : (s.setReg pa v).cxl = s.cxl := by unfold State.setReg; rfl
@[simp] theorem State.setReg_pkg (s : State) (pa : Nat) (v : W64) : (s.setReg pa v).pkg = s.pkg := by unfold State.setReg; rfl
@[simp] theorem State.setReg_snaps (s : State) (pa : Nat) (v : W64) : (s.setReg pa v).snaps = s.snaps := by unfold State.setReg; rfl
@[simp] theorem State.setReg_keys (s : State) (pa : Nat) (v : W64) : (s.setReg pa v).keys = s.keys := by unfold State.setReg; rfl
@[simp] theorem State.setReg_faults (s : State) (pa : Nat) (v : W64) : (s.setReg pa v).faults = s.faults := by unfold State.setReg; rfl
@[simp] theorem State.setReg_fixed (s : State) (pa : Nat) (v : W64) : (s.setReg pa v).fixed = s.fixed := by unfold State.setReg; rfl
@[simp] theorem State.setReg_xlinvBusy (s : State) (pa : Nat) (v : W64) : (s.setReg pa v).xlinvBusy = s.xlinvBusy := by unfold State.setReg; rfl
@[simp] theorem State.setReg_xlinvHeld (s : State) (pa : Nat) (v : W64) : (s.setReg pa v).xlinvHeld = s.xlinvHeld := by unfold State.setReg; rfl
@[simp] theorem State.setReg_cmds (s : State) (pa : Nat) (v : W64) : (s.setReg pa v).cmds = s.cmds := by unfold State.setReg; rfl
@[simp] theorem State.setReg_nextCmd (s : State) (pa : Nat) (v : W64) : (s.setReg pa v).nextCmd = s.nextCmd := by unfold State.setReg; rfl
@[simp] theorem State.setReg_doneWords (s : State) (pa : Nat) (v : W64) : (s.setReg pa v).doneWords = s.doneWords := by unfold State.setReg; rfl
@[simp] theorem State.setReg_tileState (s : State) (pa : Nat) (v : W64) : (s.setReg pa v).tileState = s.tileState := by unfold State.setReg; rfl
@[simp] theorem State.setReg_spent (s : State) (pa : Nat) (v : W64) : (s.setReg pa v).spent = s.spent := by unfold State.setReg; rfl
@[simp] theorem State.setReg_frozen (s : State) (pa : Nat) (v : W64) : (s.setReg pa v).frozen = s.frozen := by unfold State.setReg; rfl
@[simp] theorem State.setReg_records (s : State) (pa : Nat) (v : W64) : (s.setReg pa v).records = s.records := by unfold State.setReg; rfl
@[simp] theorem State.setReg_decisions (s : State) (pa : Nat) (v : W64) : (s.setReg pa v).decisions = s.decisions := by unfold State.setReg; rfl
@[simp] theorem State.setReg_power (s : State) (pa : Nat) (v : W64) : (s.setReg pa v).power = s.power := by unfold State.setReg; rfl
@[simp] theorem State.setReg_sched (s : State) (pa : Nat) (v : W64) : (s.setReg pa v).sched = s.sched := by unfold State.setReg; rfl
@[simp] theorem State.setReg_qps (s : State) (pa : Nat) (v : W64) : (s.setReg pa v).qps = s.qps := by unfold State.setReg; rfl
@[simp] theorem State.setReg_hostOut (s : State) (pa : Nat) (v : W64) : (s.setReg pa v).hostOut = s.hostOut := by unfold State.setReg; rfl
@[simp] theorem State.setReg_hostLines (s : State) (pa : Nat) (v : W64) : (s.setReg pa v).hostLines = s.hostLines := by unfold State.setReg; rfl
@[simp] theorem State.setReg_links (s : State) (pa : Nat) (v : W64) : (s.setReg pa v).links = s.links := by unfold State.setReg; rfl
@[simp] theorem State.setReg_modules (s : State) (pa : Nat) (v : W64) : (s.setReg pa v).modules = s.modules := by unfold State.setReg; rfl
@[simp] theorem State.setReg_fab (s : State) (pa : Nat) (v : W64) : (s.setReg pa v).fab = s.fab := by unfold State.setReg; rfl
@[simp] theorem State.setReg_recovery (s : State) (pa : Nat) (v : W64) : (s.setReg pa v).recovery = s.recovery := by unfold State.setReg; rfl
@[simp] theorem State.setReg_admin (s : State) (pa : Nat) (v : W64) : (s.setReg pa v).admin = s.admin := by unfold State.setReg; rfl
@[simp] theorem State.setReg_log (s : State) (pa : Nat) (v : W64) : (s.setReg pa v).log = s.log := by unfold State.setReg; rfl
@[simp] theorem State.setReg_agenda (s : State) (pa : Nat) (v : W64) : (s.setReg pa v).agenda = s.agenda := by unfold State.setReg; rfl
@[simp] theorem State.setReg_pending (s : State) (pa : Nat) (v : W64) : (s.setReg pa v).pending = s.pending := by unfold State.setReg; rfl
@[simp] theorem State.setReg_free (s : State) (pa : Nat) (v : W64) : (s.setReg pa v).free = s.free := by unfold State.setReg; rfl
@[simp] theorem State.setReg_upset (s : State) (pa : Nat) (v : W64) : (s.setReg pa v).upset = s.upset := by unfold State.setReg; rfl
@[simp] theorem State.setReg_cycle (s : State) (pa : Nat) (v : W64) : (s.setReg pa v).cycle = s.cycle := by unfold State.setReg; rfl
@[simp] theorem State.setReg_gtbAcc (s : State) (pa : Nat) (v : W64) : (s.setReg pa v).gtbAcc = s.gtbAcc := by unfold State.setReg; rfl
@[simp] theorem State.setReg_lapLog (s : State) (pa : Nat) (v : W64) : (s.setReg pa v).lapLog = s.lapLog := by unfold State.setReg; rfl
@[simp] theorem State.setReg_lap (s : State) (pa : Nat) (v : W64) : (s.setReg pa v).lap = s.lap := by unfold State.setReg; rfl

/-! `State.setCore` -/
@[simp] theorem State.setCore_sq (s : State) (c : Nat) (v : Core) : (s.setCore c v).sq = s.sq := rfl
@[simp] theorem State.setCore_wv (s : State) (c : Nat) (v : Core) : (s.setCore c v).wv = s.wv := rfl
@[simp] theorem State.setCore_st (s : State) (c : Nat) (v : Core) : (s.setCore c v).st = s.st := rfl
@[simp] theorem State.setCore_squads (s : State) (c : Nat) (v : Core) : (s.setCore c v).squads = s.squads := rfl
@[simp] theorem State.setCore_dies (s : State) (c : Nat) (v : Core) : (s.setCore c v).dies = s.dies := rfl
@[simp] theorem State.setCore_mem (s : State) (c : Nat) (v : Core) : (s.setCore c v).mem = s.mem := rfl
@[simp] theorem State.setCore_bad (s : State) (c : Nat) (v : Core) : (s.setCore c v).bad = s.bad := rfl
@[simp] theorem State.setCore_secKey (s : State) (c : Nat) (v : Core) : (s.setCore c v).secKey = s.secKey := rfl
@[simp] theorem State.setCore_l2 (s : State) (c : Nat) (v : Core) : (s.setCore c v).l2 = s.l2 := rfl
@[simp] theorem State.setCore_tags (s : State) (c : Nat) (v : Core) : (s.setCore c v).tags = s.tags := rfl
@[simp] theorem State.setCore_media (s : State) (c : Nat) (v : Core) : (s.setCore c v).media = s.media := rfl
@[simp] theorem State.setCore_mediaTags (s : State) (c : Nat) (v : Core) : (s.setCore c v).mediaTags = s.mediaTags := rfl
@[simp] theorem State.setCore_mediaBad (s : State) (c : Nat) (v : Core) : (s.setCore c v).mediaBad = s.mediaBad := rfl
@[simp] theorem State.setCore_mediaKeys (s : State) (c : Nat) (v : Core) : (s.setCore c v).mediaKeys = s.mediaKeys := rfl
@[simp] theorem State.setCore_owqWait (s : State) (c : Nat) (v : Core) : (s.setCore c v).owqWait = s.owqWait := rfl
@[simp] theorem State.setCore_keyKills (s : State) (c : Nat) (v : Core) : (s.setCore c v).keyKills = s.keyKills := rfl
@[simp] theorem State.setCore_cxl (s : State) (c : Nat) (v : Core) : (s.setCore c v).cxl = s.cxl := rfl
@[simp] theorem State.setCore_pkg (s : State) (c : Nat) (v : Core) : (s.setCore c v).pkg = s.pkg := rfl
@[simp] theorem State.setCore_snaps (s : State) (c : Nat) (v : Core) : (s.setCore c v).snaps = s.snaps := rfl
@[simp] theorem State.setCore_mmio (s : State) (c : Nat) (v : Core) : (s.setCore c v).mmio = s.mmio := rfl
@[simp] theorem State.setCore_keys (s : State) (c : Nat) (v : Core) : (s.setCore c v).keys = s.keys := rfl
@[simp] theorem State.setCore_faults (s : State) (c : Nat) (v : Core) : (s.setCore c v).faults = s.faults := rfl
@[simp] theorem State.setCore_fixed (s : State) (c : Nat) (v : Core) : (s.setCore c v).fixed = s.fixed := rfl
@[simp] theorem State.setCore_xlinvBusy (s : State) (c : Nat) (v : Core) : (s.setCore c v).xlinvBusy = s.xlinvBusy := rfl
@[simp] theorem State.setCore_xlinvHeld (s : State) (c : Nat) (v : Core) : (s.setCore c v).xlinvHeld = s.xlinvHeld := rfl
@[simp] theorem State.setCore_cmds (s : State) (c : Nat) (v : Core) : (s.setCore c v).cmds = s.cmds := rfl
@[simp] theorem State.setCore_nextCmd (s : State) (c : Nat) (v : Core) : (s.setCore c v).nextCmd = s.nextCmd := rfl
@[simp] theorem State.setCore_doneWords (s : State) (c : Nat) (v : Core) : (s.setCore c v).doneWords = s.doneWords := rfl
@[simp] theorem State.setCore_tileState (s : State) (c : Nat) (v : Core) : (s.setCore c v).tileState = s.tileState := rfl
@[simp] theorem State.setCore_spent (s : State) (c : Nat) (v : Core) : (s.setCore c v).spent = s.spent := rfl
@[simp] theorem State.setCore_frozen (s : State) (c : Nat) (v : Core) : (s.setCore c v).frozen = s.frozen := rfl
@[simp] theorem State.setCore_records (s : State) (c : Nat) (v : Core) : (s.setCore c v).records = s.records := rfl
@[simp] theorem State.setCore_decisions (s : State) (c : Nat) (v : Core) : (s.setCore c v).decisions = s.decisions := rfl
@[simp] theorem State.setCore_power (s : State) (c : Nat) (v : Core) : (s.setCore c v).power = s.power := rfl
@[simp] theorem State.setCore_sched (s : State) (c : Nat) (v : Core) : (s.setCore c v).sched = s.sched := rfl
@[simp] theorem State.setCore_qps (s : State) (c : Nat) (v : Core) : (s.setCore c v).qps = s.qps := rfl
@[simp] theorem State.setCore_hostOut (s : State) (c : Nat) (v : Core) : (s.setCore c v).hostOut = s.hostOut := rfl
@[simp] theorem State.setCore_hostLines (s : State) (c : Nat) (v : Core) : (s.setCore c v).hostLines = s.hostLines := rfl
@[simp] theorem State.setCore_links (s : State) (c : Nat) (v : Core) : (s.setCore c v).links = s.links := rfl
@[simp] theorem State.setCore_modules (s : State) (c : Nat) (v : Core) : (s.setCore c v).modules = s.modules := rfl
@[simp] theorem State.setCore_fab (s : State) (c : Nat) (v : Core) : (s.setCore c v).fab = s.fab := rfl
@[simp] theorem State.setCore_recovery (s : State) (c : Nat) (v : Core) : (s.setCore c v).recovery = s.recovery := rfl
@[simp] theorem State.setCore_admin (s : State) (c : Nat) (v : Core) : (s.setCore c v).admin = s.admin := rfl
@[simp] theorem State.setCore_log (s : State) (c : Nat) (v : Core) : (s.setCore c v).log = s.log := rfl
@[simp] theorem State.setCore_agenda (s : State) (c : Nat) (v : Core) : (s.setCore c v).agenda = s.agenda := rfl
@[simp] theorem State.setCore_pending (s : State) (c : Nat) (v : Core) : (s.setCore c v).pending = s.pending := rfl
@[simp] theorem State.setCore_free (s : State) (c : Nat) (v : Core) : (s.setCore c v).free = s.free := rfl
@[simp] theorem State.setCore_upset (s : State) (c : Nat) (v : Core) : (s.setCore c v).upset = s.upset := rfl
@[simp] theorem State.setCore_cycle (s : State) (c : Nat) (v : Core) : (s.setCore c v).cycle = s.cycle := rfl
@[simp] theorem State.setCore_gtbAcc (s : State) (c : Nat) (v : Core) : (s.setCore c v).gtbAcc = s.gtbAcc := rfl
@[simp] theorem State.setCore_lapLog (s : State) (c : Nat) (v : Core) : (s.setCore c v).lapLog = s.lapLog := rfl
@[simp] theorem State.setCore_lap (s : State) (c : Nat) (v : Core) : (s.setCore c v).lap = s.lap := rfl

/-! `State.updCore` -/
@[simp] theorem State.updCore_sq (s : State) (c : Nat) (f : Core → Core) : (s.updCore c f).sq = s.sq := rfl
@[simp] theorem State.updCore_wv (s : State) (c : Nat) (f : Core → Core) : (s.updCore c f).wv = s.wv := rfl
@[simp] theorem State.updCore_st (s : State) (c : Nat) (f : Core → Core) : (s.updCore c f).st = s.st := rfl
@[simp] theorem State.updCore_squads (s : State) (c : Nat) (f : Core → Core) : (s.updCore c f).squads = s.squads := rfl
@[simp] theorem State.updCore_dies (s : State) (c : Nat) (f : Core → Core) : (s.updCore c f).dies = s.dies := rfl
@[simp] theorem State.updCore_mem (s : State) (c : Nat) (f : Core → Core) : (s.updCore c f).mem = s.mem := rfl
@[simp] theorem State.updCore_bad (s : State) (c : Nat) (f : Core → Core) : (s.updCore c f).bad = s.bad := rfl
@[simp] theorem State.updCore_secKey (s : State) (c : Nat) (f : Core → Core) : (s.updCore c f).secKey = s.secKey := rfl
@[simp] theorem State.updCore_l2 (s : State) (c : Nat) (f : Core → Core) : (s.updCore c f).l2 = s.l2 := rfl
@[simp] theorem State.updCore_tags (s : State) (c : Nat) (f : Core → Core) : (s.updCore c f).tags = s.tags := rfl
@[simp] theorem State.updCore_media (s : State) (c : Nat) (f : Core → Core) : (s.updCore c f).media = s.media := rfl
@[simp] theorem State.updCore_mediaTags (s : State) (c : Nat) (f : Core → Core) : (s.updCore c f).mediaTags = s.mediaTags := rfl
@[simp] theorem State.updCore_mediaBad (s : State) (c : Nat) (f : Core → Core) : (s.updCore c f).mediaBad = s.mediaBad := rfl
@[simp] theorem State.updCore_mediaKeys (s : State) (c : Nat) (f : Core → Core) : (s.updCore c f).mediaKeys = s.mediaKeys := rfl
@[simp] theorem State.updCore_owqWait (s : State) (c : Nat) (f : Core → Core) : (s.updCore c f).owqWait = s.owqWait := rfl
@[simp] theorem State.updCore_keyKills (s : State) (c : Nat) (f : Core → Core) : (s.updCore c f).keyKills = s.keyKills := rfl
@[simp] theorem State.updCore_cxl (s : State) (c : Nat) (f : Core → Core) : (s.updCore c f).cxl = s.cxl := rfl
@[simp] theorem State.updCore_pkg (s : State) (c : Nat) (f : Core → Core) : (s.updCore c f).pkg = s.pkg := rfl
@[simp] theorem State.updCore_snaps (s : State) (c : Nat) (f : Core → Core) : (s.updCore c f).snaps = s.snaps := rfl
@[simp] theorem State.updCore_mmio (s : State) (c : Nat) (f : Core → Core) : (s.updCore c f).mmio = s.mmio := rfl
@[simp] theorem State.updCore_keys (s : State) (c : Nat) (f : Core → Core) : (s.updCore c f).keys = s.keys := rfl
@[simp] theorem State.updCore_faults (s : State) (c : Nat) (f : Core → Core) : (s.updCore c f).faults = s.faults := rfl
@[simp] theorem State.updCore_fixed (s : State) (c : Nat) (f : Core → Core) : (s.updCore c f).fixed = s.fixed := rfl
@[simp] theorem State.updCore_xlinvBusy (s : State) (c : Nat) (f : Core → Core) : (s.updCore c f).xlinvBusy = s.xlinvBusy := rfl
@[simp] theorem State.updCore_xlinvHeld (s : State) (c : Nat) (f : Core → Core) : (s.updCore c f).xlinvHeld = s.xlinvHeld := rfl
@[simp] theorem State.updCore_cmds (s : State) (c : Nat) (f : Core → Core) : (s.updCore c f).cmds = s.cmds := rfl
@[simp] theorem State.updCore_nextCmd (s : State) (c : Nat) (f : Core → Core) : (s.updCore c f).nextCmd = s.nextCmd := rfl
@[simp] theorem State.updCore_doneWords (s : State) (c : Nat) (f : Core → Core) : (s.updCore c f).doneWords = s.doneWords := rfl
@[simp] theorem State.updCore_tileState (s : State) (c : Nat) (f : Core → Core) : (s.updCore c f).tileState = s.tileState := rfl
@[simp] theorem State.updCore_spent (s : State) (c : Nat) (f : Core → Core) : (s.updCore c f).spent = s.spent := rfl
@[simp] theorem State.updCore_frozen (s : State) (c : Nat) (f : Core → Core) : (s.updCore c f).frozen = s.frozen := rfl
@[simp] theorem State.updCore_records (s : State) (c : Nat) (f : Core → Core) : (s.updCore c f).records = s.records := rfl
@[simp] theorem State.updCore_decisions (s : State) (c : Nat) (f : Core → Core) : (s.updCore c f).decisions = s.decisions := rfl
@[simp] theorem State.updCore_power (s : State) (c : Nat) (f : Core → Core) : (s.updCore c f).power = s.power := rfl
@[simp] theorem State.updCore_sched (s : State) (c : Nat) (f : Core → Core) : (s.updCore c f).sched = s.sched := rfl
@[simp] theorem State.updCore_qps (s : State) (c : Nat) (f : Core → Core) : (s.updCore c f).qps = s.qps := rfl
@[simp] theorem State.updCore_hostOut (s : State) (c : Nat) (f : Core → Core) : (s.updCore c f).hostOut = s.hostOut := rfl
@[simp] theorem State.updCore_hostLines (s : State) (c : Nat) (f : Core → Core) : (s.updCore c f).hostLines = s.hostLines := rfl
@[simp] theorem State.updCore_links (s : State) (c : Nat) (f : Core → Core) : (s.updCore c f).links = s.links := rfl
@[simp] theorem State.updCore_modules (s : State) (c : Nat) (f : Core → Core) : (s.updCore c f).modules = s.modules := rfl
@[simp] theorem State.updCore_fab (s : State) (c : Nat) (f : Core → Core) : (s.updCore c f).fab = s.fab := rfl
@[simp] theorem State.updCore_recovery (s : State) (c : Nat) (f : Core → Core) : (s.updCore c f).recovery = s.recovery := rfl
@[simp] theorem State.updCore_admin (s : State) (c : Nat) (f : Core → Core) : (s.updCore c f).admin = s.admin := rfl
@[simp] theorem State.updCore_log (s : State) (c : Nat) (f : Core → Core) : (s.updCore c f).log = s.log := rfl
@[simp] theorem State.updCore_agenda (s : State) (c : Nat) (f : Core → Core) : (s.updCore c f).agenda = s.agenda := rfl
@[simp] theorem State.updCore_pending (s : State) (c : Nat) (f : Core → Core) : (s.updCore c f).pending = s.pending := rfl
@[simp] theorem State.updCore_free (s : State) (c : Nat) (f : Core → Core) : (s.updCore c f).free = s.free := rfl
@[simp] theorem State.updCore_upset (s : State) (c : Nat) (f : Core → Core) : (s.updCore c f).upset = s.upset := rfl
@[simp] theorem State.updCore_cycle (s : State) (c : Nat) (f : Core → Core) : (s.updCore c f).cycle = s.cycle := rfl
@[simp] theorem State.updCore_gtbAcc (s : State) (c : Nat) (f : Core → Core) : (s.updCore c f).gtbAcc = s.gtbAcc := rfl
@[simp] theorem State.updCore_lapLog (s : State) (c : Nat) (f : Core → Core) : (s.updCore c f).lapLog = s.lapLog := rfl
@[simp] theorem State.updCore_lap (s : State) (c : Nat) (f : Core → Core) : (s.updCore c f).lap = s.lap := rfl

/-! `State.updDie` -/
@[simp] theorem State.updDie_sq (s : State) (d : Nat) (f : Die → Die) : (s.updDie d f).sq = s.sq := rfl
@[simp] theorem State.updDie_wv (s : State) (d : Nat) (f : Die → Die) : (s.updDie d f).wv = s.wv := rfl
@[simp] theorem State.updDie_st (s : State) (d : Nat) (f : Die → Die) : (s.updDie d f).st = s.st := rfl
@[simp] theorem State.updDie_squads (s : State) (d : Nat) (f : Die → Die) : (s.updDie d f).squads = s.squads := rfl
@[simp] theorem State.updDie_cores (s : State) (d : Nat) (f : Die → Die) : (s.updDie d f).cores = s.cores := rfl
@[simp] theorem State.updDie_mem (s : State) (d : Nat) (f : Die → Die) : (s.updDie d f).mem = s.mem := rfl
@[simp] theorem State.updDie_bad (s : State) (d : Nat) (f : Die → Die) : (s.updDie d f).bad = s.bad := rfl
@[simp] theorem State.updDie_secKey (s : State) (d : Nat) (f : Die → Die) : (s.updDie d f).secKey = s.secKey := rfl
@[simp] theorem State.updDie_l2 (s : State) (d : Nat) (f : Die → Die) : (s.updDie d f).l2 = s.l2 := rfl
@[simp] theorem State.updDie_tags (s : State) (d : Nat) (f : Die → Die) : (s.updDie d f).tags = s.tags := rfl
@[simp] theorem State.updDie_media (s : State) (d : Nat) (f : Die → Die) : (s.updDie d f).media = s.media := rfl
@[simp] theorem State.updDie_mediaTags (s : State) (d : Nat) (f : Die → Die) : (s.updDie d f).mediaTags = s.mediaTags := rfl
@[simp] theorem State.updDie_mediaBad (s : State) (d : Nat) (f : Die → Die) : (s.updDie d f).mediaBad = s.mediaBad := rfl
@[simp] theorem State.updDie_mediaKeys (s : State) (d : Nat) (f : Die → Die) : (s.updDie d f).mediaKeys = s.mediaKeys := rfl
@[simp] theorem State.updDie_owqWait (s : State) (d : Nat) (f : Die → Die) : (s.updDie d f).owqWait = s.owqWait := rfl
@[simp] theorem State.updDie_keyKills (s : State) (d : Nat) (f : Die → Die) : (s.updDie d f).keyKills = s.keyKills := rfl
@[simp] theorem State.updDie_cxl (s : State) (d : Nat) (f : Die → Die) : (s.updDie d f).cxl = s.cxl := rfl
@[simp] theorem State.updDie_pkg (s : State) (d : Nat) (f : Die → Die) : (s.updDie d f).pkg = s.pkg := rfl
@[simp] theorem State.updDie_snaps (s : State) (d : Nat) (f : Die → Die) : (s.updDie d f).snaps = s.snaps := rfl
@[simp] theorem State.updDie_mmio (s : State) (d : Nat) (f : Die → Die) : (s.updDie d f).mmio = s.mmio := rfl
@[simp] theorem State.updDie_keys (s : State) (d : Nat) (f : Die → Die) : (s.updDie d f).keys = s.keys := rfl
@[simp] theorem State.updDie_faults (s : State) (d : Nat) (f : Die → Die) : (s.updDie d f).faults = s.faults := rfl
@[simp] theorem State.updDie_fixed (s : State) (d : Nat) (f : Die → Die) : (s.updDie d f).fixed = s.fixed := rfl
@[simp] theorem State.updDie_xlinvBusy (s : State) (d : Nat) (f : Die → Die) : (s.updDie d f).xlinvBusy = s.xlinvBusy := rfl
@[simp] theorem State.updDie_xlinvHeld (s : State) (d : Nat) (f : Die → Die) : (s.updDie d f).xlinvHeld = s.xlinvHeld := rfl
@[simp] theorem State.updDie_cmds (s : State) (d : Nat) (f : Die → Die) : (s.updDie d f).cmds = s.cmds := rfl
@[simp] theorem State.updDie_nextCmd (s : State) (d : Nat) (f : Die → Die) : (s.updDie d f).nextCmd = s.nextCmd := rfl
@[simp] theorem State.updDie_doneWords (s : State) (d : Nat) (f : Die → Die) : (s.updDie d f).doneWords = s.doneWords := rfl
@[simp] theorem State.updDie_tileState (s : State) (d : Nat) (f : Die → Die) : (s.updDie d f).tileState = s.tileState := rfl
@[simp] theorem State.updDie_spent (s : State) (d : Nat) (f : Die → Die) : (s.updDie d f).spent = s.spent := rfl
@[simp] theorem State.updDie_frozen (s : State) (d : Nat) (f : Die → Die) : (s.updDie d f).frozen = s.frozen := rfl
@[simp] theorem State.updDie_records (s : State) (d : Nat) (f : Die → Die) : (s.updDie d f).records = s.records := rfl
@[simp] theorem State.updDie_decisions (s : State) (d : Nat) (f : Die → Die) : (s.updDie d f).decisions = s.decisions := rfl
@[simp] theorem State.updDie_power (s : State) (d : Nat) (f : Die → Die) : (s.updDie d f).power = s.power := rfl
@[simp] theorem State.updDie_sched (s : State) (d : Nat) (f : Die → Die) : (s.updDie d f).sched = s.sched := rfl
@[simp] theorem State.updDie_qps (s : State) (d : Nat) (f : Die → Die) : (s.updDie d f).qps = s.qps := rfl
@[simp] theorem State.updDie_hostOut (s : State) (d : Nat) (f : Die → Die) : (s.updDie d f).hostOut = s.hostOut := rfl
@[simp] theorem State.updDie_hostLines (s : State) (d : Nat) (f : Die → Die) : (s.updDie d f).hostLines = s.hostLines := rfl
@[simp] theorem State.updDie_links (s : State) (d : Nat) (f : Die → Die) : (s.updDie d f).links = s.links := rfl
@[simp] theorem State.updDie_modules (s : State) (d : Nat) (f : Die → Die) : (s.updDie d f).modules = s.modules := rfl
@[simp] theorem State.updDie_fab (s : State) (d : Nat) (f : Die → Die) : (s.updDie d f).fab = s.fab := rfl
@[simp] theorem State.updDie_recovery (s : State) (d : Nat) (f : Die → Die) : (s.updDie d f).recovery = s.recovery := rfl
@[simp] theorem State.updDie_admin (s : State) (d : Nat) (f : Die → Die) : (s.updDie d f).admin = s.admin := rfl
@[simp] theorem State.updDie_log (s : State) (d : Nat) (f : Die → Die) : (s.updDie d f).log = s.log := rfl
@[simp] theorem State.updDie_agenda (s : State) (d : Nat) (f : Die → Die) : (s.updDie d f).agenda = s.agenda := rfl
@[simp] theorem State.updDie_pending (s : State) (d : Nat) (f : Die → Die) : (s.updDie d f).pending = s.pending := rfl
@[simp] theorem State.updDie_free (s : State) (d : Nat) (f : Die → Die) : (s.updDie d f).free = s.free := rfl
@[simp] theorem State.updDie_upset (s : State) (d : Nat) (f : Die → Die) : (s.updDie d f).upset = s.upset := rfl
@[simp] theorem State.updDie_cycle (s : State) (d : Nat) (f : Die → Die) : (s.updDie d f).cycle = s.cycle := rfl
@[simp] theorem State.updDie_gtbAcc (s : State) (d : Nat) (f : Die → Die) : (s.updDie d f).gtbAcc = s.gtbAcc := rfl
@[simp] theorem State.updDie_lapLog (s : State) (d : Nat) (f : Die → Die) : (s.updDie d f).lapLog = s.lapLog := rfl
@[simp] theorem State.updDie_lap (s : State) (d : Nat) (f : Die → Die) : (s.updDie d f).lap = s.lap := rfl

/-! `State.setSnap` -/
@[simp] theorem State.setSnap_sq (s : State) (q : Nat) (v : SnapSet) : (s.setSnap q v).sq = s.sq := rfl
@[simp] theorem State.setSnap_wv (s : State) (q : Nat) (v : SnapSet) : (s.setSnap q v).wv = s.wv := rfl
@[simp] theorem State.setSnap_st (s : State) (q : Nat) (v : SnapSet) : (s.setSnap q v).st = s.st := rfl
@[simp] theorem State.setSnap_squads (s : State) (q : Nat) (v : SnapSet) : (s.setSnap q v).squads = s.squads := rfl
@[simp] theorem State.setSnap_cores (s : State) (q : Nat) (v : SnapSet) : (s.setSnap q v).cores = s.cores := rfl
@[simp] theorem State.setSnap_dies (s : State) (q : Nat) (v : SnapSet) : (s.setSnap q v).dies = s.dies := rfl
@[simp] theorem State.setSnap_mem (s : State) (q : Nat) (v : SnapSet) : (s.setSnap q v).mem = s.mem := rfl
@[simp] theorem State.setSnap_bad (s : State) (q : Nat) (v : SnapSet) : (s.setSnap q v).bad = s.bad := rfl
@[simp] theorem State.setSnap_secKey (s : State) (q : Nat) (v : SnapSet) : (s.setSnap q v).secKey = s.secKey := rfl
@[simp] theorem State.setSnap_l2 (s : State) (q : Nat) (v : SnapSet) : (s.setSnap q v).l2 = s.l2 := rfl
@[simp] theorem State.setSnap_tags (s : State) (q : Nat) (v : SnapSet) : (s.setSnap q v).tags = s.tags := rfl
@[simp] theorem State.setSnap_media (s : State) (q : Nat) (v : SnapSet) : (s.setSnap q v).media = s.media := rfl
@[simp] theorem State.setSnap_mediaTags (s : State) (q : Nat) (v : SnapSet) : (s.setSnap q v).mediaTags = s.mediaTags := rfl
@[simp] theorem State.setSnap_mediaBad (s : State) (q : Nat) (v : SnapSet) : (s.setSnap q v).mediaBad = s.mediaBad := rfl
@[simp] theorem State.setSnap_mediaKeys (s : State) (q : Nat) (v : SnapSet) : (s.setSnap q v).mediaKeys = s.mediaKeys := rfl
@[simp] theorem State.setSnap_owqWait (s : State) (q : Nat) (v : SnapSet) : (s.setSnap q v).owqWait = s.owqWait := rfl
@[simp] theorem State.setSnap_keyKills (s : State) (q : Nat) (v : SnapSet) : (s.setSnap q v).keyKills = s.keyKills := rfl
@[simp] theorem State.setSnap_cxl (s : State) (q : Nat) (v : SnapSet) : (s.setSnap q v).cxl = s.cxl := rfl
@[simp] theorem State.setSnap_pkg (s : State) (q : Nat) (v : SnapSet) : (s.setSnap q v).pkg = s.pkg := rfl
@[simp] theorem State.setSnap_mmio (s : State) (q : Nat) (v : SnapSet) : (s.setSnap q v).mmio = s.mmio := rfl
@[simp] theorem State.setSnap_keys (s : State) (q : Nat) (v : SnapSet) : (s.setSnap q v).keys = s.keys := rfl
@[simp] theorem State.setSnap_faults (s : State) (q : Nat) (v : SnapSet) : (s.setSnap q v).faults = s.faults := rfl
@[simp] theorem State.setSnap_fixed (s : State) (q : Nat) (v : SnapSet) : (s.setSnap q v).fixed = s.fixed := rfl
@[simp] theorem State.setSnap_xlinvBusy (s : State) (q : Nat) (v : SnapSet) : (s.setSnap q v).xlinvBusy = s.xlinvBusy := rfl
@[simp] theorem State.setSnap_xlinvHeld (s : State) (q : Nat) (v : SnapSet) : (s.setSnap q v).xlinvHeld = s.xlinvHeld := rfl
@[simp] theorem State.setSnap_cmds (s : State) (q : Nat) (v : SnapSet) : (s.setSnap q v).cmds = s.cmds := rfl
@[simp] theorem State.setSnap_nextCmd (s : State) (q : Nat) (v : SnapSet) : (s.setSnap q v).nextCmd = s.nextCmd := rfl
@[simp] theorem State.setSnap_doneWords (s : State) (q : Nat) (v : SnapSet) : (s.setSnap q v).doneWords = s.doneWords := rfl
@[simp] theorem State.setSnap_tileState (s : State) (q : Nat) (v : SnapSet) : (s.setSnap q v).tileState = s.tileState := rfl
@[simp] theorem State.setSnap_spent (s : State) (q : Nat) (v : SnapSet) : (s.setSnap q v).spent = s.spent := rfl
@[simp] theorem State.setSnap_frozen (s : State) (q : Nat) (v : SnapSet) : (s.setSnap q v).frozen = s.frozen := rfl
@[simp] theorem State.setSnap_records (s : State) (q : Nat) (v : SnapSet) : (s.setSnap q v).records = s.records := rfl
@[simp] theorem State.setSnap_decisions (s : State) (q : Nat) (v : SnapSet) : (s.setSnap q v).decisions = s.decisions := rfl
@[simp] theorem State.setSnap_power (s : State) (q : Nat) (v : SnapSet) : (s.setSnap q v).power = s.power := rfl
@[simp] theorem State.setSnap_sched (s : State) (q : Nat) (v : SnapSet) : (s.setSnap q v).sched = s.sched := rfl
@[simp] theorem State.setSnap_qps (s : State) (q : Nat) (v : SnapSet) : (s.setSnap q v).qps = s.qps := rfl
@[simp] theorem State.setSnap_hostOut (s : State) (q : Nat) (v : SnapSet) : (s.setSnap q v).hostOut = s.hostOut := rfl
@[simp] theorem State.setSnap_hostLines (s : State) (q : Nat) (v : SnapSet) : (s.setSnap q v).hostLines = s.hostLines := rfl
@[simp] theorem State.setSnap_links (s : State) (q : Nat) (v : SnapSet) : (s.setSnap q v).links = s.links := rfl
@[simp] theorem State.setSnap_modules (s : State) (q : Nat) (v : SnapSet) : (s.setSnap q v).modules = s.modules := rfl
@[simp] theorem State.setSnap_fab (s : State) (q : Nat) (v : SnapSet) : (s.setSnap q v).fab = s.fab := rfl
@[simp] theorem State.setSnap_recovery (s : State) (q : Nat) (v : SnapSet) : (s.setSnap q v).recovery = s.recovery := rfl
@[simp] theorem State.setSnap_admin (s : State) (q : Nat) (v : SnapSet) : (s.setSnap q v).admin = s.admin := rfl
@[simp] theorem State.setSnap_log (s : State) (q : Nat) (v : SnapSet) : (s.setSnap q v).log = s.log := rfl
@[simp] theorem State.setSnap_agenda (s : State) (q : Nat) (v : SnapSet) : (s.setSnap q v).agenda = s.agenda := rfl
@[simp] theorem State.setSnap_pending (s : State) (q : Nat) (v : SnapSet) : (s.setSnap q v).pending = s.pending := rfl
@[simp] theorem State.setSnap_free (s : State) (q : Nat) (v : SnapSet) : (s.setSnap q v).free = s.free := rfl
@[simp] theorem State.setSnap_upset (s : State) (q : Nat) (v : SnapSet) : (s.setSnap q v).upset = s.upset := rfl
@[simp] theorem State.setSnap_cycle (s : State) (q : Nat) (v : SnapSet) : (s.setSnap q v).cycle = s.cycle := rfl
@[simp] theorem State.setSnap_gtbAcc (s : State) (q : Nat) (v : SnapSet) : (s.setSnap q v).gtbAcc = s.gtbAcc := rfl
@[simp] theorem State.setSnap_lapLog (s : State) (q : Nat) (v : SnapSet) : (s.setSnap q v).lapLog = s.lapLog := rfl
@[simp] theorem State.setSnap_lap (s : State) (q : Nat) (v : SnapSet) : (s.setSnap q v).lap = s.lap := rfl

/-! `State.setKey` -/
@[simp] theorem State.setKey_sq (s : State) (k : Nat) (v : KeySlot) : (s.setKey k v).sq = s.sq := rfl
@[simp] theorem State.setKey_wv (s : State) (k : Nat) (v : KeySlot) : (s.setKey k v).wv = s.wv := rfl
@[simp] theorem State.setKey_st (s : State) (k : Nat) (v : KeySlot) : (s.setKey k v).st = s.st := rfl
@[simp] theorem State.setKey_squads (s : State) (k : Nat) (v : KeySlot) : (s.setKey k v).squads = s.squads := rfl
@[simp] theorem State.setKey_cores (s : State) (k : Nat) (v : KeySlot) : (s.setKey k v).cores = s.cores := rfl
@[simp] theorem State.setKey_dies (s : State) (k : Nat) (v : KeySlot) : (s.setKey k v).dies = s.dies := rfl
@[simp] theorem State.setKey_mem (s : State) (k : Nat) (v : KeySlot) : (s.setKey k v).mem = s.mem := rfl
@[simp] theorem State.setKey_bad (s : State) (k : Nat) (v : KeySlot) : (s.setKey k v).bad = s.bad := rfl
@[simp] theorem State.setKey_secKey (s : State) (k : Nat) (v : KeySlot) : (s.setKey k v).secKey = s.secKey := rfl
@[simp] theorem State.setKey_l2 (s : State) (k : Nat) (v : KeySlot) : (s.setKey k v).l2 = s.l2 := rfl
@[simp] theorem State.setKey_tags (s : State) (k : Nat) (v : KeySlot) : (s.setKey k v).tags = s.tags := rfl
@[simp] theorem State.setKey_media (s : State) (k : Nat) (v : KeySlot) : (s.setKey k v).media = s.media := rfl
@[simp] theorem State.setKey_mediaTags (s : State) (k : Nat) (v : KeySlot) : (s.setKey k v).mediaTags = s.mediaTags := rfl
@[simp] theorem State.setKey_mediaBad (s : State) (k : Nat) (v : KeySlot) : (s.setKey k v).mediaBad = s.mediaBad := rfl
@[simp] theorem State.setKey_mediaKeys (s : State) (k : Nat) (v : KeySlot) : (s.setKey k v).mediaKeys = s.mediaKeys := rfl
@[simp] theorem State.setKey_owqWait (s : State) (k : Nat) (v : KeySlot) : (s.setKey k v).owqWait = s.owqWait := rfl
@[simp] theorem State.setKey_keyKills (s : State) (k : Nat) (v : KeySlot) : (s.setKey k v).keyKills = s.keyKills := rfl
@[simp] theorem State.setKey_cxl (s : State) (k : Nat) (v : KeySlot) : (s.setKey k v).cxl = s.cxl := rfl
@[simp] theorem State.setKey_pkg (s : State) (k : Nat) (v : KeySlot) : (s.setKey k v).pkg = s.pkg := rfl
@[simp] theorem State.setKey_snaps (s : State) (k : Nat) (v : KeySlot) : (s.setKey k v).snaps = s.snaps := rfl
@[simp] theorem State.setKey_mmio (s : State) (k : Nat) (v : KeySlot) : (s.setKey k v).mmio = s.mmio := rfl
@[simp] theorem State.setKey_faults (s : State) (k : Nat) (v : KeySlot) : (s.setKey k v).faults = s.faults := rfl
@[simp] theorem State.setKey_fixed (s : State) (k : Nat) (v : KeySlot) : (s.setKey k v).fixed = s.fixed := rfl
@[simp] theorem State.setKey_xlinvBusy (s : State) (k : Nat) (v : KeySlot) : (s.setKey k v).xlinvBusy = s.xlinvBusy := rfl
@[simp] theorem State.setKey_xlinvHeld (s : State) (k : Nat) (v : KeySlot) : (s.setKey k v).xlinvHeld = s.xlinvHeld := rfl
@[simp] theorem State.setKey_cmds (s : State) (k : Nat) (v : KeySlot) : (s.setKey k v).cmds = s.cmds := rfl
@[simp] theorem State.setKey_nextCmd (s : State) (k : Nat) (v : KeySlot) : (s.setKey k v).nextCmd = s.nextCmd := rfl
@[simp] theorem State.setKey_doneWords (s : State) (k : Nat) (v : KeySlot) : (s.setKey k v).doneWords = s.doneWords := rfl
@[simp] theorem State.setKey_tileState (s : State) (k : Nat) (v : KeySlot) : (s.setKey k v).tileState = s.tileState := rfl
@[simp] theorem State.setKey_spent (s : State) (k : Nat) (v : KeySlot) : (s.setKey k v).spent = s.spent := rfl
@[simp] theorem State.setKey_frozen (s : State) (k : Nat) (v : KeySlot) : (s.setKey k v).frozen = s.frozen := rfl
@[simp] theorem State.setKey_records (s : State) (k : Nat) (v : KeySlot) : (s.setKey k v).records = s.records := rfl
@[simp] theorem State.setKey_decisions (s : State) (k : Nat) (v : KeySlot) : (s.setKey k v).decisions = s.decisions := rfl
@[simp] theorem State.setKey_power (s : State) (k : Nat) (v : KeySlot) : (s.setKey k v).power = s.power := rfl
@[simp] theorem State.setKey_sched (s : State) (k : Nat) (v : KeySlot) : (s.setKey k v).sched = s.sched := rfl
@[simp] theorem State.setKey_qps (s : State) (k : Nat) (v : KeySlot) : (s.setKey k v).qps = s.qps := rfl
@[simp] theorem State.setKey_hostOut (s : State) (k : Nat) (v : KeySlot) : (s.setKey k v).hostOut = s.hostOut := rfl
@[simp] theorem State.setKey_hostLines (s : State) (k : Nat) (v : KeySlot) : (s.setKey k v).hostLines = s.hostLines := rfl
@[simp] theorem State.setKey_links (s : State) (k : Nat) (v : KeySlot) : (s.setKey k v).links = s.links := rfl
@[simp] theorem State.setKey_modules (s : State) (k : Nat) (v : KeySlot) : (s.setKey k v).modules = s.modules := rfl
@[simp] theorem State.setKey_fab (s : State) (k : Nat) (v : KeySlot) : (s.setKey k v).fab = s.fab := rfl
@[simp] theorem State.setKey_recovery (s : State) (k : Nat) (v : KeySlot) : (s.setKey k v).recovery = s.recovery := rfl
@[simp] theorem State.setKey_admin (s : State) (k : Nat) (v : KeySlot) : (s.setKey k v).admin = s.admin := rfl
@[simp] theorem State.setKey_log (s : State) (k : Nat) (v : KeySlot) : (s.setKey k v).log = s.log := rfl
@[simp] theorem State.setKey_agenda (s : State) (k : Nat) (v : KeySlot) : (s.setKey k v).agenda = s.agenda := rfl
@[simp] theorem State.setKey_pending (s : State) (k : Nat) (v : KeySlot) : (s.setKey k v).pending = s.pending := rfl
@[simp] theorem State.setKey_free (s : State) (k : Nat) (v : KeySlot) : (s.setKey k v).free = s.free := rfl
@[simp] theorem State.setKey_upset (s : State) (k : Nat) (v : KeySlot) : (s.setKey k v).upset = s.upset := rfl
@[simp] theorem State.setKey_cycle (s : State) (k : Nat) (v : KeySlot) : (s.setKey k v).cycle = s.cycle := rfl
@[simp] theorem State.setKey_gtbAcc (s : State) (k : Nat) (v : KeySlot) : (s.setKey k v).gtbAcc = s.gtbAcc := rfl
@[simp] theorem State.setKey_lapLog (s : State) (k : Nat) (v : KeySlot) : (s.setKey k v).lapLog = s.lapLog := rfl
@[simp] theorem State.setKey_lap (s : State) (k : Nat) (v : KeySlot) : (s.setKey k v).lap = s.lap := rfl

/-! `State.setL2` -/
@[simp] theorem State.setL2_sq (s : State) (l : Nat) (v : L2Line) : (s.setL2 l v).sq = s.sq := rfl
@[simp] theorem State.setL2_wv (s : State) (l : Nat) (v : L2Line) : (s.setL2 l v).wv = s.wv := rfl
@[simp] theorem State.setL2_st (s : State) (l : Nat) (v : L2Line) : (s.setL2 l v).st = s.st := rfl
@[simp] theorem State.setL2_squads (s : State) (l : Nat) (v : L2Line) : (s.setL2 l v).squads = s.squads := rfl
@[simp] theorem State.setL2_cores (s : State) (l : Nat) (v : L2Line) : (s.setL2 l v).cores = s.cores := rfl
@[simp] theorem State.setL2_dies (s : State) (l : Nat) (v : L2Line) : (s.setL2 l v).dies = s.dies := rfl
@[simp] theorem State.setL2_mem (s : State) (l : Nat) (v : L2Line) : (s.setL2 l v).mem = s.mem := rfl
@[simp] theorem State.setL2_bad (s : State) (l : Nat) (v : L2Line) : (s.setL2 l v).bad = s.bad := rfl
@[simp] theorem State.setL2_secKey (s : State) (l : Nat) (v : L2Line) : (s.setL2 l v).secKey = s.secKey := rfl
@[simp] theorem State.setL2_tags (s : State) (l : Nat) (v : L2Line) : (s.setL2 l v).tags = s.tags := rfl
@[simp] theorem State.setL2_media (s : State) (l : Nat) (v : L2Line) : (s.setL2 l v).media = s.media := rfl
@[simp] theorem State.setL2_mediaTags (s : State) (l : Nat) (v : L2Line) : (s.setL2 l v).mediaTags = s.mediaTags := rfl
@[simp] theorem State.setL2_mediaBad (s : State) (l : Nat) (v : L2Line) : (s.setL2 l v).mediaBad = s.mediaBad := rfl
@[simp] theorem State.setL2_mediaKeys (s : State) (l : Nat) (v : L2Line) : (s.setL2 l v).mediaKeys = s.mediaKeys := rfl
@[simp] theorem State.setL2_owqWait (s : State) (l : Nat) (v : L2Line) : (s.setL2 l v).owqWait = s.owqWait := rfl
@[simp] theorem State.setL2_keyKills (s : State) (l : Nat) (v : L2Line) : (s.setL2 l v).keyKills = s.keyKills := rfl
@[simp] theorem State.setL2_cxl (s : State) (l : Nat) (v : L2Line) : (s.setL2 l v).cxl = s.cxl := rfl
@[simp] theorem State.setL2_pkg (s : State) (l : Nat) (v : L2Line) : (s.setL2 l v).pkg = s.pkg := rfl
@[simp] theorem State.setL2_snaps (s : State) (l : Nat) (v : L2Line) : (s.setL2 l v).snaps = s.snaps := rfl
@[simp] theorem State.setL2_mmio (s : State) (l : Nat) (v : L2Line) : (s.setL2 l v).mmio = s.mmio := rfl
@[simp] theorem State.setL2_keys (s : State) (l : Nat) (v : L2Line) : (s.setL2 l v).keys = s.keys := rfl
@[simp] theorem State.setL2_faults (s : State) (l : Nat) (v : L2Line) : (s.setL2 l v).faults = s.faults := rfl
@[simp] theorem State.setL2_fixed (s : State) (l : Nat) (v : L2Line) : (s.setL2 l v).fixed = s.fixed := rfl
@[simp] theorem State.setL2_xlinvBusy (s : State) (l : Nat) (v : L2Line) : (s.setL2 l v).xlinvBusy = s.xlinvBusy := rfl
@[simp] theorem State.setL2_xlinvHeld (s : State) (l : Nat) (v : L2Line) : (s.setL2 l v).xlinvHeld = s.xlinvHeld := rfl
@[simp] theorem State.setL2_cmds (s : State) (l : Nat) (v : L2Line) : (s.setL2 l v).cmds = s.cmds := rfl
@[simp] theorem State.setL2_nextCmd (s : State) (l : Nat) (v : L2Line) : (s.setL2 l v).nextCmd = s.nextCmd := rfl
@[simp] theorem State.setL2_doneWords (s : State) (l : Nat) (v : L2Line) : (s.setL2 l v).doneWords = s.doneWords := rfl
@[simp] theorem State.setL2_tileState (s : State) (l : Nat) (v : L2Line) : (s.setL2 l v).tileState = s.tileState := rfl
@[simp] theorem State.setL2_spent (s : State) (l : Nat) (v : L2Line) : (s.setL2 l v).spent = s.spent := rfl
@[simp] theorem State.setL2_frozen (s : State) (l : Nat) (v : L2Line) : (s.setL2 l v).frozen = s.frozen := rfl
@[simp] theorem State.setL2_records (s : State) (l : Nat) (v : L2Line) : (s.setL2 l v).records = s.records := rfl
@[simp] theorem State.setL2_decisions (s : State) (l : Nat) (v : L2Line) : (s.setL2 l v).decisions = s.decisions := rfl
@[simp] theorem State.setL2_power (s : State) (l : Nat) (v : L2Line) : (s.setL2 l v).power = s.power := rfl
@[simp] theorem State.setL2_sched (s : State) (l : Nat) (v : L2Line) : (s.setL2 l v).sched = s.sched := rfl
@[simp] theorem State.setL2_qps (s : State) (l : Nat) (v : L2Line) : (s.setL2 l v).qps = s.qps := rfl
@[simp] theorem State.setL2_hostOut (s : State) (l : Nat) (v : L2Line) : (s.setL2 l v).hostOut = s.hostOut := rfl
@[simp] theorem State.setL2_hostLines (s : State) (l : Nat) (v : L2Line) : (s.setL2 l v).hostLines = s.hostLines := rfl
@[simp] theorem State.setL2_links (s : State) (l : Nat) (v : L2Line) : (s.setL2 l v).links = s.links := rfl
@[simp] theorem State.setL2_modules (s : State) (l : Nat) (v : L2Line) : (s.setL2 l v).modules = s.modules := rfl
@[simp] theorem State.setL2_fab (s : State) (l : Nat) (v : L2Line) : (s.setL2 l v).fab = s.fab := rfl
@[simp] theorem State.setL2_recovery (s : State) (l : Nat) (v : L2Line) : (s.setL2 l v).recovery = s.recovery := rfl
@[simp] theorem State.setL2_admin (s : State) (l : Nat) (v : L2Line) : (s.setL2 l v).admin = s.admin := rfl
@[simp] theorem State.setL2_log (s : State) (l : Nat) (v : L2Line) : (s.setL2 l v).log = s.log := rfl
@[simp] theorem State.setL2_agenda (s : State) (l : Nat) (v : L2Line) : (s.setL2 l v).agenda = s.agenda := rfl
@[simp] theorem State.setL2_pending (s : State) (l : Nat) (v : L2Line) : (s.setL2 l v).pending = s.pending := rfl
@[simp] theorem State.setL2_free (s : State) (l : Nat) (v : L2Line) : (s.setL2 l v).free = s.free := rfl
@[simp] theorem State.setL2_upset (s : State) (l : Nat) (v : L2Line) : (s.setL2 l v).upset = s.upset := rfl
@[simp] theorem State.setL2_cycle (s : State) (l : Nat) (v : L2Line) : (s.setL2 l v).cycle = s.cycle := rfl
@[simp] theorem State.setL2_gtbAcc (s : State) (l : Nat) (v : L2Line) : (s.setL2 l v).gtbAcc = s.gtbAcc := rfl
@[simp] theorem State.setL2_lapLog (s : State) (l : Nat) (v : L2Line) : (s.setL2 l v).lapLog = s.lapLog := rfl
@[simp] theorem State.setL2_lap (s : State) (l : Nat) (v : L2Line) : (s.setL2 l v).lap = s.lap := rfl

/-! `State.note` -/
@[simp] theorem State.note_sq (s : State) (e : LogEntry) : (s.note e).sq = s.sq := rfl
@[simp] theorem State.note_wv (s : State) (e : LogEntry) : (s.note e).wv = s.wv := rfl
@[simp] theorem State.note_st (s : State) (e : LogEntry) : (s.note e).st = s.st := rfl
@[simp] theorem State.note_squads (s : State) (e : LogEntry) : (s.note e).squads = s.squads := rfl
@[simp] theorem State.note_cores (s : State) (e : LogEntry) : (s.note e).cores = s.cores := rfl
@[simp] theorem State.note_dies (s : State) (e : LogEntry) : (s.note e).dies = s.dies := rfl
@[simp] theorem State.note_mem (s : State) (e : LogEntry) : (s.note e).mem = s.mem := rfl
@[simp] theorem State.note_bad (s : State) (e : LogEntry) : (s.note e).bad = s.bad := rfl
@[simp] theorem State.note_secKey (s : State) (e : LogEntry) : (s.note e).secKey = s.secKey := rfl
@[simp] theorem State.note_l2 (s : State) (e : LogEntry) : (s.note e).l2 = s.l2 := rfl
@[simp] theorem State.note_tags (s : State) (e : LogEntry) : (s.note e).tags = s.tags := rfl
@[simp] theorem State.note_media (s : State) (e : LogEntry) : (s.note e).media = s.media := rfl
@[simp] theorem State.note_mediaTags (s : State) (e : LogEntry) : (s.note e).mediaTags = s.mediaTags := rfl
@[simp] theorem State.note_mediaBad (s : State) (e : LogEntry) : (s.note e).mediaBad = s.mediaBad := rfl
@[simp] theorem State.note_mediaKeys (s : State) (e : LogEntry) : (s.note e).mediaKeys = s.mediaKeys := rfl
@[simp] theorem State.note_owqWait (s : State) (e : LogEntry) : (s.note e).owqWait = s.owqWait := rfl
@[simp] theorem State.note_keyKills (s : State) (e : LogEntry) : (s.note e).keyKills = s.keyKills := rfl
@[simp] theorem State.note_cxl (s : State) (e : LogEntry) : (s.note e).cxl = s.cxl := rfl
@[simp] theorem State.note_pkg (s : State) (e : LogEntry) : (s.note e).pkg = s.pkg := rfl
@[simp] theorem State.note_snaps (s : State) (e : LogEntry) : (s.note e).snaps = s.snaps := rfl
@[simp] theorem State.note_mmio (s : State) (e : LogEntry) : (s.note e).mmio = s.mmio := rfl
@[simp] theorem State.note_keys (s : State) (e : LogEntry) : (s.note e).keys = s.keys := rfl
@[simp] theorem State.note_faults (s : State) (e : LogEntry) : (s.note e).faults = s.faults := rfl
@[simp] theorem State.note_fixed (s : State) (e : LogEntry) : (s.note e).fixed = s.fixed := rfl
@[simp] theorem State.note_xlinvBusy (s : State) (e : LogEntry) : (s.note e).xlinvBusy = s.xlinvBusy := rfl
@[simp] theorem State.note_xlinvHeld (s : State) (e : LogEntry) : (s.note e).xlinvHeld = s.xlinvHeld := rfl
@[simp] theorem State.note_cmds (s : State) (e : LogEntry) : (s.note e).cmds = s.cmds := rfl
@[simp] theorem State.note_nextCmd (s : State) (e : LogEntry) : (s.note e).nextCmd = s.nextCmd := rfl
@[simp] theorem State.note_doneWords (s : State) (e : LogEntry) : (s.note e).doneWords = s.doneWords := rfl
@[simp] theorem State.note_tileState (s : State) (e : LogEntry) : (s.note e).tileState = s.tileState := rfl
@[simp] theorem State.note_spent (s : State) (e : LogEntry) : (s.note e).spent = s.spent := rfl
@[simp] theorem State.note_frozen (s : State) (e : LogEntry) : (s.note e).frozen = s.frozen := rfl
@[simp] theorem State.note_records (s : State) (e : LogEntry) : (s.note e).records = s.records := rfl
@[simp] theorem State.note_decisions (s : State) (e : LogEntry) : (s.note e).decisions = s.decisions := rfl
@[simp] theorem State.note_power (s : State) (e : LogEntry) : (s.note e).power = s.power := rfl
@[simp] theorem State.note_sched (s : State) (e : LogEntry) : (s.note e).sched = s.sched := rfl
@[simp] theorem State.note_qps (s : State) (e : LogEntry) : (s.note e).qps = s.qps := rfl
@[simp] theorem State.note_hostOut (s : State) (e : LogEntry) : (s.note e).hostOut = s.hostOut := rfl
@[simp] theorem State.note_hostLines (s : State) (e : LogEntry) : (s.note e).hostLines = s.hostLines := rfl
@[simp] theorem State.note_links (s : State) (e : LogEntry) : (s.note e).links = s.links := rfl
@[simp] theorem State.note_modules (s : State) (e : LogEntry) : (s.note e).modules = s.modules := rfl
@[simp] theorem State.note_fab (s : State) (e : LogEntry) : (s.note e).fab = s.fab := rfl
@[simp] theorem State.note_recovery (s : State) (e : LogEntry) : (s.note e).recovery = s.recovery := rfl
@[simp] theorem State.note_admin (s : State) (e : LogEntry) : (s.note e).admin = s.admin := rfl
@[simp] theorem State.note_agenda (s : State) (e : LogEntry) : (s.note e).agenda = s.agenda := rfl
@[simp] theorem State.note_pending (s : State) (e : LogEntry) : (s.note e).pending = s.pending := rfl
@[simp] theorem State.note_free (s : State) (e : LogEntry) : (s.note e).free = s.free := rfl
@[simp] theorem State.note_upset (s : State) (e : LogEntry) : (s.note e).upset = s.upset := rfl
@[simp] theorem State.note_cycle (s : State) (e : LogEntry) : (s.note e).cycle = s.cycle := rfl
@[simp] theorem State.note_gtbAcc (s : State) (e : LogEntry) : (s.note e).gtbAcc = s.gtbAcc := rfl
@[simp] theorem State.note_lapLog (s : State) (e : LogEntry) : (s.note e).lapLog = s.lapLog := rfl
@[simp] theorem State.note_lap (s : State) (e : LogEntry) : (s.note e).lap = s.lap := rfl

/-! `State.hold` -/
@[simp] theorem State.hold_sq (s : State) (w : Wait) : (s.hold w).sq = s.sq := rfl
@[simp] theorem State.hold_wv (s : State) (w : Wait) : (s.hold w).wv = s.wv := rfl
@[simp] theorem State.hold_squads (s : State) (w : Wait) : (s.hold w).squads = s.squads := rfl
@[simp] theorem State.hold_cores (s : State) (w : Wait) : (s.hold w).cores = s.cores := rfl
@[simp] theorem State.hold_dies (s : State) (w : Wait) : (s.hold w).dies = s.dies := rfl
@[simp] theorem State.hold_mem (s : State) (w : Wait) : (s.hold w).mem = s.mem := rfl
@[simp] theorem State.hold_bad (s : State) (w : Wait) : (s.hold w).bad = s.bad := rfl
@[simp] theorem State.hold_secKey (s : State) (w : Wait) : (s.hold w).secKey = s.secKey := rfl
@[simp] theorem State.hold_l2 (s : State) (w : Wait) : (s.hold w).l2 = s.l2 := rfl
@[simp] theorem State.hold_tags (s : State) (w : Wait) : (s.hold w).tags = s.tags := rfl
@[simp] theorem State.hold_media (s : State) (w : Wait) : (s.hold w).media = s.media := rfl
@[simp] theorem State.hold_mediaTags (s : State) (w : Wait) : (s.hold w).mediaTags = s.mediaTags := rfl
@[simp] theorem State.hold_mediaBad (s : State) (w : Wait) : (s.hold w).mediaBad = s.mediaBad := rfl
@[simp] theorem State.hold_mediaKeys (s : State) (w : Wait) : (s.hold w).mediaKeys = s.mediaKeys := rfl
@[simp] theorem State.hold_owqWait (s : State) (w : Wait) : (s.hold w).owqWait = s.owqWait := rfl
@[simp] theorem State.hold_keyKills (s : State) (w : Wait) : (s.hold w).keyKills = s.keyKills := rfl
@[simp] theorem State.hold_cxl (s : State) (w : Wait) : (s.hold w).cxl = s.cxl := rfl
@[simp] theorem State.hold_pkg (s : State) (w : Wait) : (s.hold w).pkg = s.pkg := rfl
@[simp] theorem State.hold_snaps (s : State) (w : Wait) : (s.hold w).snaps = s.snaps := rfl
@[simp] theorem State.hold_mmio (s : State) (w : Wait) : (s.hold w).mmio = s.mmio := rfl
@[simp] theorem State.hold_keys (s : State) (w : Wait) : (s.hold w).keys = s.keys := rfl
@[simp] theorem State.hold_faults (s : State) (w : Wait) : (s.hold w).faults = s.faults := rfl
@[simp] theorem State.hold_fixed (s : State) (w : Wait) : (s.hold w).fixed = s.fixed := rfl
@[simp] theorem State.hold_xlinvBusy (s : State) (w : Wait) : (s.hold w).xlinvBusy = s.xlinvBusy := rfl
@[simp] theorem State.hold_xlinvHeld (s : State) (w : Wait) : (s.hold w).xlinvHeld = s.xlinvHeld := rfl
@[simp] theorem State.hold_cmds (s : State) (w : Wait) : (s.hold w).cmds = s.cmds := rfl
@[simp] theorem State.hold_nextCmd (s : State) (w : Wait) : (s.hold w).nextCmd = s.nextCmd := rfl
@[simp] theorem State.hold_doneWords (s : State) (w : Wait) : (s.hold w).doneWords = s.doneWords := rfl
@[simp] theorem State.hold_tileState (s : State) (w : Wait) : (s.hold w).tileState = s.tileState := rfl
@[simp] theorem State.hold_spent (s : State) (w : Wait) : (s.hold w).spent = s.spent := rfl
@[simp] theorem State.hold_frozen (s : State) (w : Wait) : (s.hold w).frozen = s.frozen := rfl
@[simp] theorem State.hold_records (s : State) (w : Wait) : (s.hold w).records = s.records := rfl
@[simp] theorem State.hold_decisions (s : State) (w : Wait) : (s.hold w).decisions = s.decisions := rfl
@[simp] theorem State.hold_power (s : State) (w : Wait) : (s.hold w).power = s.power := rfl
@[simp] theorem State.hold_sched (s : State) (w : Wait) : (s.hold w).sched = s.sched := rfl
@[simp] theorem State.hold_qps (s : State) (w : Wait) : (s.hold w).qps = s.qps := rfl
@[simp] theorem State.hold_hostOut (s : State) (w : Wait) : (s.hold w).hostOut = s.hostOut := rfl
@[simp] theorem State.hold_hostLines (s : State) (w : Wait) : (s.hold w).hostLines = s.hostLines := rfl
@[simp] theorem State.hold_links (s : State) (w : Wait) : (s.hold w).links = s.links := rfl
@[simp] theorem State.hold_modules (s : State) (w : Wait) : (s.hold w).modules = s.modules := rfl
@[simp] theorem State.hold_fab (s : State) (w : Wait) : (s.hold w).fab = s.fab := rfl
@[simp] theorem State.hold_recovery (s : State) (w : Wait) : (s.hold w).recovery = s.recovery := rfl
@[simp] theorem State.hold_admin (s : State) (w : Wait) : (s.hold w).admin = s.admin := rfl
@[simp] theorem State.hold_log (s : State) (w : Wait) : (s.hold w).log = s.log := rfl
@[simp] theorem State.hold_agenda (s : State) (w : Wait) : (s.hold w).agenda = s.agenda := rfl
@[simp] theorem State.hold_pending (s : State) (w : Wait) : (s.hold w).pending = s.pending := rfl
@[simp] theorem State.hold_free (s : State) (w : Wait) : (s.hold w).free = s.free := rfl
@[simp] theorem State.hold_upset (s : State) (w : Wait) : (s.hold w).upset = s.upset := rfl
@[simp] theorem State.hold_cycle (s : State) (w : Wait) : (s.hold w).cycle = s.cycle := rfl
@[simp] theorem State.hold_gtbAcc (s : State) (w : Wait) : (s.hold w).gtbAcc = s.gtbAcc := rfl
@[simp] theorem State.hold_lapLog (s : State) (w : Wait) : (s.hold w).lapLog = s.lapLog := rfl
@[simp] theorem State.hold_lap (s : State) (w : Wait) : (s.hold w).lap = s.lap := rfl

/-! `State.retireTo` -/
@[simp] theorem State.retireTo_sq (s : State) (h : Head) (pc : W64) (c : Nat) : (s.retireTo h pc c).sq = s.sq := rfl
@[simp] theorem State.retireTo_wv (s : State) (h : Head) (pc : W64) (c : Nat) : (s.retireTo h pc c).wv = s.wv := rfl
@[simp] theorem State.retireTo_squads (s : State) (h : Head) (pc : W64) (c : Nat) : (s.retireTo h pc c).squads = s.squads := rfl
@[simp] theorem State.retireTo_cores (s : State) (h : Head) (pc : W64) (c : Nat) : (s.retireTo h pc c).cores = s.cores := rfl
@[simp] theorem State.retireTo_dies (s : State) (h : Head) (pc : W64) (c : Nat) : (s.retireTo h pc c).dies = s.dies := rfl
@[simp] theorem State.retireTo_mem (s : State) (h : Head) (pc : W64) (c : Nat) : (s.retireTo h pc c).mem = s.mem := rfl
@[simp] theorem State.retireTo_bad (s : State) (h : Head) (pc : W64) (c : Nat) : (s.retireTo h pc c).bad = s.bad := rfl
@[simp] theorem State.retireTo_secKey (s : State) (h : Head) (pc : W64) (c : Nat) : (s.retireTo h pc c).secKey = s.secKey := rfl
@[simp] theorem State.retireTo_l2 (s : State) (h : Head) (pc : W64) (c : Nat) : (s.retireTo h pc c).l2 = s.l2 := rfl
@[simp] theorem State.retireTo_tags (s : State) (h : Head) (pc : W64) (c : Nat) : (s.retireTo h pc c).tags = s.tags := rfl
@[simp] theorem State.retireTo_media (s : State) (h : Head) (pc : W64) (c : Nat) : (s.retireTo h pc c).media = s.media := rfl
@[simp] theorem State.retireTo_mediaTags (s : State) (h : Head) (pc : W64) (c : Nat) : (s.retireTo h pc c).mediaTags = s.mediaTags := rfl
@[simp] theorem State.retireTo_mediaBad (s : State) (h : Head) (pc : W64) (c : Nat) : (s.retireTo h pc c).mediaBad = s.mediaBad := rfl
@[simp] theorem State.retireTo_mediaKeys (s : State) (h : Head) (pc : W64) (c : Nat) : (s.retireTo h pc c).mediaKeys = s.mediaKeys := rfl
@[simp] theorem State.retireTo_owqWait (s : State) (h : Head) (pc : W64) (c : Nat) : (s.retireTo h pc c).owqWait = s.owqWait := rfl
@[simp] theorem State.retireTo_keyKills (s : State) (h : Head) (pc : W64) (c : Nat) : (s.retireTo h pc c).keyKills = s.keyKills := rfl
@[simp] theorem State.retireTo_cxl (s : State) (h : Head) (pc : W64) (c : Nat) : (s.retireTo h pc c).cxl = s.cxl := rfl
@[simp] theorem State.retireTo_pkg (s : State) (h : Head) (pc : W64) (c : Nat) : (s.retireTo h pc c).pkg = s.pkg := rfl
@[simp] theorem State.retireTo_snaps (s : State) (h : Head) (pc : W64) (c : Nat) : (s.retireTo h pc c).snaps = s.snaps := rfl
@[simp] theorem State.retireTo_mmio (s : State) (h : Head) (pc : W64) (c : Nat) : (s.retireTo h pc c).mmio = s.mmio := rfl
@[simp] theorem State.retireTo_keys (s : State) (h : Head) (pc : W64) (c : Nat) : (s.retireTo h pc c).keys = s.keys := rfl
@[simp] theorem State.retireTo_faults (s : State) (h : Head) (pc : W64) (c : Nat) : (s.retireTo h pc c).faults = s.faults := rfl
@[simp] theorem State.retireTo_fixed (s : State) (h : Head) (pc : W64) (c : Nat) : (s.retireTo h pc c).fixed = s.fixed := rfl
@[simp] theorem State.retireTo_xlinvBusy (s : State) (h : Head) (pc : W64) (c : Nat) : (s.retireTo h pc c).xlinvBusy = s.xlinvBusy := rfl
@[simp] theorem State.retireTo_xlinvHeld (s : State) (h : Head) (pc : W64) (c : Nat) : (s.retireTo h pc c).xlinvHeld = s.xlinvHeld := rfl
@[simp] theorem State.retireTo_cmds (s : State) (h : Head) (pc : W64) (c : Nat) : (s.retireTo h pc c).cmds = s.cmds := rfl
@[simp] theorem State.retireTo_nextCmd (s : State) (h : Head) (pc : W64) (c : Nat) : (s.retireTo h pc c).nextCmd = s.nextCmd := rfl
@[simp] theorem State.retireTo_doneWords (s : State) (h : Head) (pc : W64) (c : Nat) : (s.retireTo h pc c).doneWords = s.doneWords := rfl
@[simp] theorem State.retireTo_tileState (s : State) (h : Head) (pc : W64) (c : Nat) : (s.retireTo h pc c).tileState = s.tileState := rfl
@[simp] theorem State.retireTo_spent (s : State) (h : Head) (pc : W64) (c : Nat) : (s.retireTo h pc c).spent = s.spent := rfl
@[simp] theorem State.retireTo_frozen (s : State) (h : Head) (pc : W64) (c : Nat) : (s.retireTo h pc c).frozen = s.frozen := rfl
@[simp] theorem State.retireTo_records (s : State) (h : Head) (pc : W64) (c : Nat) : (s.retireTo h pc c).records = s.records := rfl
@[simp] theorem State.retireTo_decisions (s : State) (h : Head) (pc : W64) (c : Nat) : (s.retireTo h pc c).decisions = s.decisions := rfl
@[simp] theorem State.retireTo_power (s : State) (h : Head) (pc : W64) (c : Nat) : (s.retireTo h pc c).power = s.power := rfl
@[simp] theorem State.retireTo_sched (s : State) (h : Head) (pc : W64) (c : Nat) : (s.retireTo h pc c).sched = s.sched := rfl
@[simp] theorem State.retireTo_qps (s : State) (h : Head) (pc : W64) (c : Nat) : (s.retireTo h pc c).qps = s.qps := rfl
@[simp] theorem State.retireTo_hostOut (s : State) (h : Head) (pc : W64) (c : Nat) : (s.retireTo h pc c).hostOut = s.hostOut := rfl
@[simp] theorem State.retireTo_hostLines (s : State) (h : Head) (pc : W64) (c : Nat) : (s.retireTo h pc c).hostLines = s.hostLines := rfl
@[simp] theorem State.retireTo_links (s : State) (h : Head) (pc : W64) (c : Nat) : (s.retireTo h pc c).links = s.links := rfl
@[simp] theorem State.retireTo_modules (s : State) (h : Head) (pc : W64) (c : Nat) : (s.retireTo h pc c).modules = s.modules := rfl
@[simp] theorem State.retireTo_fab (s : State) (h : Head) (pc : W64) (c : Nat) : (s.retireTo h pc c).fab = s.fab := rfl
@[simp] theorem State.retireTo_recovery (s : State) (h : Head) (pc : W64) (c : Nat) : (s.retireTo h pc c).recovery = s.recovery := rfl
@[simp] theorem State.retireTo_admin (s : State) (h : Head) (pc : W64) (c : Nat) : (s.retireTo h pc c).admin = s.admin := rfl
@[simp] theorem State.retireTo_log (s : State) (h : Head) (pc : W64) (c : Nat) : (s.retireTo h pc c).log = s.log := rfl
@[simp] theorem State.retireTo_agenda (s : State) (h : Head) (pc : W64) (c : Nat) : (s.retireTo h pc c).agenda = s.agenda := rfl
@[simp] theorem State.retireTo_pending (s : State) (h : Head) (pc : W64) (c : Nat) : (s.retireTo h pc c).pending = s.pending := rfl
@[simp] theorem State.retireTo_free (s : State) (h : Head) (pc : W64) (c : Nat) : (s.retireTo h pc c).free = s.free := rfl
@[simp] theorem State.retireTo_upset (s : State) (h : Head) (pc : W64) (c : Nat) : (s.retireTo h pc c).upset = s.upset := rfl
@[simp] theorem State.retireTo_cycle (s : State) (h : Head) (pc : W64) (c : Nat) : (s.retireTo h pc c).cycle = s.cycle := rfl
@[simp] theorem State.retireTo_gtbAcc (s : State) (h : Head) (pc : W64) (c : Nat) : (s.retireTo h pc c).gtbAcc = s.gtbAcc := rfl
@[simp] theorem State.retireTo_lapLog (s : State) (h : Head) (pc : W64) (c : Nat) : (s.retireTo h pc c).lapLog = s.lapLog := rfl
@[simp] theorem State.retireTo_lap (s : State) (h : Head) (pc : W64) (c : Nat) : (s.retireTo h pc c).lap = s.lap := rfl

/-! `State.orFlags` -/
@[simp] theorem State.orFlags_sq (s : State) (f : Flags) : (s.orFlags f).sq = s.sq := rfl
@[simp] theorem State.orFlags_st (s : State) (f : Flags) : (s.orFlags f).st = s.st := rfl
@[simp] theorem State.orFlags_squads (s : State) (f : Flags) : (s.orFlags f).squads = s.squads := rfl
@[simp] theorem State.orFlags_cores (s : State) (f : Flags) : (s.orFlags f).cores = s.cores := rfl
@[simp] theorem State.orFlags_dies (s : State) (f : Flags) : (s.orFlags f).dies = s.dies := rfl
@[simp] theorem State.orFlags_mem (s : State) (f : Flags) : (s.orFlags f).mem = s.mem := rfl
@[simp] theorem State.orFlags_bad (s : State) (f : Flags) : (s.orFlags f).bad = s.bad := rfl
@[simp] theorem State.orFlags_secKey (s : State) (f : Flags) : (s.orFlags f).secKey = s.secKey := rfl
@[simp] theorem State.orFlags_l2 (s : State) (f : Flags) : (s.orFlags f).l2 = s.l2 := rfl
@[simp] theorem State.orFlags_tags (s : State) (f : Flags) : (s.orFlags f).tags = s.tags := rfl
@[simp] theorem State.orFlags_media (s : State) (f : Flags) : (s.orFlags f).media = s.media := rfl
@[simp] theorem State.orFlags_mediaTags (s : State) (f : Flags) : (s.orFlags f).mediaTags = s.mediaTags := rfl
@[simp] theorem State.orFlags_mediaBad (s : State) (f : Flags) : (s.orFlags f).mediaBad = s.mediaBad := rfl
@[simp] theorem State.orFlags_mediaKeys (s : State) (f : Flags) : (s.orFlags f).mediaKeys = s.mediaKeys := rfl
@[simp] theorem State.orFlags_owqWait (s : State) (f : Flags) : (s.orFlags f).owqWait = s.owqWait := rfl
@[simp] theorem State.orFlags_keyKills (s : State) (f : Flags) : (s.orFlags f).keyKills = s.keyKills := rfl
@[simp] theorem State.orFlags_cxl (s : State) (f : Flags) : (s.orFlags f).cxl = s.cxl := rfl
@[simp] theorem State.orFlags_pkg (s : State) (f : Flags) : (s.orFlags f).pkg = s.pkg := rfl
@[simp] theorem State.orFlags_snaps (s : State) (f : Flags) : (s.orFlags f).snaps = s.snaps := rfl
@[simp] theorem State.orFlags_mmio (s : State) (f : Flags) : (s.orFlags f).mmio = s.mmio := rfl
@[simp] theorem State.orFlags_keys (s : State) (f : Flags) : (s.orFlags f).keys = s.keys := rfl
@[simp] theorem State.orFlags_faults (s : State) (f : Flags) : (s.orFlags f).faults = s.faults := rfl
@[simp] theorem State.orFlags_fixed (s : State) (f : Flags) : (s.orFlags f).fixed = s.fixed := rfl
@[simp] theorem State.orFlags_xlinvBusy (s : State) (f : Flags) : (s.orFlags f).xlinvBusy = s.xlinvBusy := rfl
@[simp] theorem State.orFlags_xlinvHeld (s : State) (f : Flags) : (s.orFlags f).xlinvHeld = s.xlinvHeld := rfl
@[simp] theorem State.orFlags_cmds (s : State) (f : Flags) : (s.orFlags f).cmds = s.cmds := rfl
@[simp] theorem State.orFlags_nextCmd (s : State) (f : Flags) : (s.orFlags f).nextCmd = s.nextCmd := rfl
@[simp] theorem State.orFlags_doneWords (s : State) (f : Flags) : (s.orFlags f).doneWords = s.doneWords := rfl
@[simp] theorem State.orFlags_tileState (s : State) (f : Flags) : (s.orFlags f).tileState = s.tileState := rfl
@[simp] theorem State.orFlags_spent (s : State) (f : Flags) : (s.orFlags f).spent = s.spent := rfl
@[simp] theorem State.orFlags_frozen (s : State) (f : Flags) : (s.orFlags f).frozen = s.frozen := rfl
@[simp] theorem State.orFlags_records (s : State) (f : Flags) : (s.orFlags f).records = s.records := rfl
@[simp] theorem State.orFlags_decisions (s : State) (f : Flags) : (s.orFlags f).decisions = s.decisions := rfl
@[simp] theorem State.orFlags_power (s : State) (f : Flags) : (s.orFlags f).power = s.power := rfl
@[simp] theorem State.orFlags_sched (s : State) (f : Flags) : (s.orFlags f).sched = s.sched := rfl
@[simp] theorem State.orFlags_qps (s : State) (f : Flags) : (s.orFlags f).qps = s.qps := rfl
@[simp] theorem State.orFlags_hostOut (s : State) (f : Flags) : (s.orFlags f).hostOut = s.hostOut := rfl
@[simp] theorem State.orFlags_hostLines (s : State) (f : Flags) : (s.orFlags f).hostLines = s.hostLines := rfl
@[simp] theorem State.orFlags_links (s : State) (f : Flags) : (s.orFlags f).links = s.links := rfl
@[simp] theorem State.orFlags_modules (s : State) (f : Flags) : (s.orFlags f).modules = s.modules := rfl
@[simp] theorem State.orFlags_fab (s : State) (f : Flags) : (s.orFlags f).fab = s.fab := rfl
@[simp] theorem State.orFlags_recovery (s : State) (f : Flags) : (s.orFlags f).recovery = s.recovery := rfl
@[simp] theorem State.orFlags_admin (s : State) (f : Flags) : (s.orFlags f).admin = s.admin := rfl
@[simp] theorem State.orFlags_log (s : State) (f : Flags) : (s.orFlags f).log = s.log := rfl
@[simp] theorem State.orFlags_agenda (s : State) (f : Flags) : (s.orFlags f).agenda = s.agenda := rfl
@[simp] theorem State.orFlags_pending (s : State) (f : Flags) : (s.orFlags f).pending = s.pending := rfl
@[simp] theorem State.orFlags_free (s : State) (f : Flags) : (s.orFlags f).free = s.free := rfl
@[simp] theorem State.orFlags_upset (s : State) (f : Flags) : (s.orFlags f).upset = s.upset := rfl
@[simp] theorem State.orFlags_cycle (s : State) (f : Flags) : (s.orFlags f).cycle = s.cycle := rfl
@[simp] theorem State.orFlags_gtbAcc (s : State) (f : Flags) : (s.orFlags f).gtbAcc = s.gtbAcc := rfl
@[simp] theorem State.orFlags_lapLog (s : State) (f : Flags) : (s.orFlags f).lapLog = s.lapLog := rfl
@[simp] theorem State.orFlags_lap (s : State) (f : Flags) : (s.orFlags f).lap = s.lap := rfl

/-! `State.setPower` -/
@[simp] theorem State.setPower_sq (s : State) (f : Power → Power) : (s.setPower f).sq = s.sq := rfl
@[simp] theorem State.setPower_wv (s : State) (f : Power → Power) : (s.setPower f).wv = s.wv := rfl
@[simp] theorem State.setPower_st (s : State) (f : Power → Power) : (s.setPower f).st = s.st := rfl
@[simp] theorem State.setPower_squads (s : State) (f : Power → Power) : (s.setPower f).squads = s.squads := rfl
@[simp] theorem State.setPower_cores (s : State) (f : Power → Power) : (s.setPower f).cores = s.cores := rfl
@[simp] theorem State.setPower_dies (s : State) (f : Power → Power) : (s.setPower f).dies = s.dies := rfl
@[simp] theorem State.setPower_mem (s : State) (f : Power → Power) : (s.setPower f).mem = s.mem := rfl
@[simp] theorem State.setPower_bad (s : State) (f : Power → Power) : (s.setPower f).bad = s.bad := rfl
@[simp] theorem State.setPower_secKey (s : State) (f : Power → Power) : (s.setPower f).secKey = s.secKey := rfl
@[simp] theorem State.setPower_l2 (s : State) (f : Power → Power) : (s.setPower f).l2 = s.l2 := rfl
@[simp] theorem State.setPower_tags (s : State) (f : Power → Power) : (s.setPower f).tags = s.tags := rfl
@[simp] theorem State.setPower_media (s : State) (f : Power → Power) : (s.setPower f).media = s.media := rfl
@[simp] theorem State.setPower_mediaTags (s : State) (f : Power → Power) : (s.setPower f).mediaTags = s.mediaTags := rfl
@[simp] theorem State.setPower_mediaBad (s : State) (f : Power → Power) : (s.setPower f).mediaBad = s.mediaBad := rfl
@[simp] theorem State.setPower_mediaKeys (s : State) (f : Power → Power) : (s.setPower f).mediaKeys = s.mediaKeys := rfl
@[simp] theorem State.setPower_owqWait (s : State) (f : Power → Power) : (s.setPower f).owqWait = s.owqWait := rfl
@[simp] theorem State.setPower_keyKills (s : State) (f : Power → Power) : (s.setPower f).keyKills = s.keyKills := rfl
@[simp] theorem State.setPower_cxl (s : State) (f : Power → Power) : (s.setPower f).cxl = s.cxl := rfl
@[simp] theorem State.setPower_pkg (s : State) (f : Power → Power) : (s.setPower f).pkg = s.pkg := rfl
@[simp] theorem State.setPower_snaps (s : State) (f : Power → Power) : (s.setPower f).snaps = s.snaps := rfl
@[simp] theorem State.setPower_mmio (s : State) (f : Power → Power) : (s.setPower f).mmio = s.mmio := rfl
@[simp] theorem State.setPower_keys (s : State) (f : Power → Power) : (s.setPower f).keys = s.keys := rfl
@[simp] theorem State.setPower_faults (s : State) (f : Power → Power) : (s.setPower f).faults = s.faults := rfl
@[simp] theorem State.setPower_fixed (s : State) (f : Power → Power) : (s.setPower f).fixed = s.fixed := rfl
@[simp] theorem State.setPower_xlinvBusy (s : State) (f : Power → Power) : (s.setPower f).xlinvBusy = s.xlinvBusy := rfl
@[simp] theorem State.setPower_xlinvHeld (s : State) (f : Power → Power) : (s.setPower f).xlinvHeld = s.xlinvHeld := rfl
@[simp] theorem State.setPower_cmds (s : State) (f : Power → Power) : (s.setPower f).cmds = s.cmds := rfl
@[simp] theorem State.setPower_nextCmd (s : State) (f : Power → Power) : (s.setPower f).nextCmd = s.nextCmd := rfl
@[simp] theorem State.setPower_doneWords (s : State) (f : Power → Power) : (s.setPower f).doneWords = s.doneWords := rfl
@[simp] theorem State.setPower_tileState (s : State) (f : Power → Power) : (s.setPower f).tileState = s.tileState := rfl
@[simp] theorem State.setPower_spent (s : State) (f : Power → Power) : (s.setPower f).spent = s.spent := rfl
@[simp] theorem State.setPower_frozen (s : State) (f : Power → Power) : (s.setPower f).frozen = s.frozen := rfl
@[simp] theorem State.setPower_records (s : State) (f : Power → Power) : (s.setPower f).records = s.records := rfl
@[simp] theorem State.setPower_decisions (s : State) (f : Power → Power) : (s.setPower f).decisions = s.decisions := rfl
@[simp] theorem State.setPower_sched (s : State) (f : Power → Power) : (s.setPower f).sched = s.sched := rfl
@[simp] theorem State.setPower_qps (s : State) (f : Power → Power) : (s.setPower f).qps = s.qps := rfl
@[simp] theorem State.setPower_hostOut (s : State) (f : Power → Power) : (s.setPower f).hostOut = s.hostOut := rfl
@[simp] theorem State.setPower_hostLines (s : State) (f : Power → Power) : (s.setPower f).hostLines = s.hostLines := rfl
@[simp] theorem State.setPower_links (s : State) (f : Power → Power) : (s.setPower f).links = s.links := rfl
@[simp] theorem State.setPower_modules (s : State) (f : Power → Power) : (s.setPower f).modules = s.modules := rfl
@[simp] theorem State.setPower_fab (s : State) (f : Power → Power) : (s.setPower f).fab = s.fab := rfl
@[simp] theorem State.setPower_recovery (s : State) (f : Power → Power) : (s.setPower f).recovery = s.recovery := rfl
@[simp] theorem State.setPower_admin (s : State) (f : Power → Power) : (s.setPower f).admin = s.admin := rfl
@[simp] theorem State.setPower_log (s : State) (f : Power → Power) : (s.setPower f).log = s.log := rfl
@[simp] theorem State.setPower_agenda (s : State) (f : Power → Power) : (s.setPower f).agenda = s.agenda := rfl
@[simp] theorem State.setPower_pending (s : State) (f : Power → Power) : (s.setPower f).pending = s.pending := rfl
@[simp] theorem State.setPower_free (s : State) (f : Power → Power) : (s.setPower f).free = s.free := rfl
@[simp] theorem State.setPower_upset (s : State) (f : Power → Power) : (s.setPower f).upset = s.upset := rfl
@[simp] theorem State.setPower_cycle (s : State) (f : Power → Power) : (s.setPower f).cycle = s.cycle := rfl
@[simp] theorem State.setPower_gtbAcc (s : State) (f : Power → Power) : (s.setPower f).gtbAcc = s.gtbAcc := rfl
@[simp] theorem State.setPower_lapLog (s : State) (f : Power → Power) : (s.setPower f).lapLog = s.lapLog := rfl
@[simp] theorem State.setPower_lap (s : State) (f : Power → Power) : (s.setPower f).lap = s.lap := rfl

/-! `State.setAdmin` -/
@[simp] theorem State.setAdmin_sq (s : State) (f : Admin → Admin) : (s.setAdmin f).sq = s.sq := rfl
@[simp] theorem State.setAdmin_wv (s : State) (f : Admin → Admin) : (s.setAdmin f).wv = s.wv := rfl
@[simp] theorem State.setAdmin_st (s : State) (f : Admin → Admin) : (s.setAdmin f).st = s.st := rfl
@[simp] theorem State.setAdmin_squads (s : State) (f : Admin → Admin) : (s.setAdmin f).squads = s.squads := rfl
@[simp] theorem State.setAdmin_cores (s : State) (f : Admin → Admin) : (s.setAdmin f).cores = s.cores := rfl
@[simp] theorem State.setAdmin_dies (s : State) (f : Admin → Admin) : (s.setAdmin f).dies = s.dies := rfl
@[simp] theorem State.setAdmin_mem (s : State) (f : Admin → Admin) : (s.setAdmin f).mem = s.mem := rfl
@[simp] theorem State.setAdmin_bad (s : State) (f : Admin → Admin) : (s.setAdmin f).bad = s.bad := rfl
@[simp] theorem State.setAdmin_secKey (s : State) (f : Admin → Admin) : (s.setAdmin f).secKey = s.secKey := rfl
@[simp] theorem State.setAdmin_l2 (s : State) (f : Admin → Admin) : (s.setAdmin f).l2 = s.l2 := rfl
@[simp] theorem State.setAdmin_tags (s : State) (f : Admin → Admin) : (s.setAdmin f).tags = s.tags := rfl
@[simp] theorem State.setAdmin_media (s : State) (f : Admin → Admin) : (s.setAdmin f).media = s.media := rfl
@[simp] theorem State.setAdmin_mediaTags (s : State) (f : Admin → Admin) : (s.setAdmin f).mediaTags = s.mediaTags := rfl
@[simp] theorem State.setAdmin_mediaBad (s : State) (f : Admin → Admin) : (s.setAdmin f).mediaBad = s.mediaBad := rfl
@[simp] theorem State.setAdmin_mediaKeys (s : State) (f : Admin → Admin) : (s.setAdmin f).mediaKeys = s.mediaKeys := rfl
@[simp] theorem State.setAdmin_owqWait (s : State) (f : Admin → Admin) : (s.setAdmin f).owqWait = s.owqWait := rfl
@[simp] theorem State.setAdmin_keyKills (s : State) (f : Admin → Admin) : (s.setAdmin f).keyKills = s.keyKills := rfl
@[simp] theorem State.setAdmin_cxl (s : State) (f : Admin → Admin) : (s.setAdmin f).cxl = s.cxl := rfl
@[simp] theorem State.setAdmin_pkg (s : State) (f : Admin → Admin) : (s.setAdmin f).pkg = s.pkg := rfl
@[simp] theorem State.setAdmin_snaps (s : State) (f : Admin → Admin) : (s.setAdmin f).snaps = s.snaps := rfl
@[simp] theorem State.setAdmin_mmio (s : State) (f : Admin → Admin) : (s.setAdmin f).mmio = s.mmio := rfl
@[simp] theorem State.setAdmin_keys (s : State) (f : Admin → Admin) : (s.setAdmin f).keys = s.keys := rfl
@[simp] theorem State.setAdmin_faults (s : State) (f : Admin → Admin) : (s.setAdmin f).faults = s.faults := rfl
@[simp] theorem State.setAdmin_fixed (s : State) (f : Admin → Admin) : (s.setAdmin f).fixed = s.fixed := rfl
@[simp] theorem State.setAdmin_xlinvBusy (s : State) (f : Admin → Admin) : (s.setAdmin f).xlinvBusy = s.xlinvBusy := rfl
@[simp] theorem State.setAdmin_xlinvHeld (s : State) (f : Admin → Admin) : (s.setAdmin f).xlinvHeld = s.xlinvHeld := rfl
@[simp] theorem State.setAdmin_cmds (s : State) (f : Admin → Admin) : (s.setAdmin f).cmds = s.cmds := rfl
@[simp] theorem State.setAdmin_nextCmd (s : State) (f : Admin → Admin) : (s.setAdmin f).nextCmd = s.nextCmd := rfl
@[simp] theorem State.setAdmin_doneWords (s : State) (f : Admin → Admin) : (s.setAdmin f).doneWords = s.doneWords := rfl
@[simp] theorem State.setAdmin_tileState (s : State) (f : Admin → Admin) : (s.setAdmin f).tileState = s.tileState := rfl
@[simp] theorem State.setAdmin_spent (s : State) (f : Admin → Admin) : (s.setAdmin f).spent = s.spent := rfl
@[simp] theorem State.setAdmin_frozen (s : State) (f : Admin → Admin) : (s.setAdmin f).frozen = s.frozen := rfl
@[simp] theorem State.setAdmin_records (s : State) (f : Admin → Admin) : (s.setAdmin f).records = s.records := rfl
@[simp] theorem State.setAdmin_decisions (s : State) (f : Admin → Admin) : (s.setAdmin f).decisions = s.decisions := rfl
@[simp] theorem State.setAdmin_power (s : State) (f : Admin → Admin) : (s.setAdmin f).power = s.power := rfl
@[simp] theorem State.setAdmin_sched (s : State) (f : Admin → Admin) : (s.setAdmin f).sched = s.sched := rfl
@[simp] theorem State.setAdmin_qps (s : State) (f : Admin → Admin) : (s.setAdmin f).qps = s.qps := rfl
@[simp] theorem State.setAdmin_hostOut (s : State) (f : Admin → Admin) : (s.setAdmin f).hostOut = s.hostOut := rfl
@[simp] theorem State.setAdmin_hostLines (s : State) (f : Admin → Admin) : (s.setAdmin f).hostLines = s.hostLines := rfl
@[simp] theorem State.setAdmin_links (s : State) (f : Admin → Admin) : (s.setAdmin f).links = s.links := rfl
@[simp] theorem State.setAdmin_modules (s : State) (f : Admin → Admin) : (s.setAdmin f).modules = s.modules := rfl
@[simp] theorem State.setAdmin_fab (s : State) (f : Admin → Admin) : (s.setAdmin f).fab = s.fab := rfl
@[simp] theorem State.setAdmin_recovery (s : State) (f : Admin → Admin) : (s.setAdmin f).recovery = s.recovery := rfl
@[simp] theorem State.setAdmin_log (s : State) (f : Admin → Admin) : (s.setAdmin f).log = s.log := rfl
@[simp] theorem State.setAdmin_agenda (s : State) (f : Admin → Admin) : (s.setAdmin f).agenda = s.agenda := rfl
@[simp] theorem State.setAdmin_pending (s : State) (f : Admin → Admin) : (s.setAdmin f).pending = s.pending := rfl
@[simp] theorem State.setAdmin_free (s : State) (f : Admin → Admin) : (s.setAdmin f).free = s.free := rfl
@[simp] theorem State.setAdmin_upset (s : State) (f : Admin → Admin) : (s.setAdmin f).upset = s.upset := rfl
@[simp] theorem State.setAdmin_cycle (s : State) (f : Admin → Admin) : (s.setAdmin f).cycle = s.cycle := rfl
@[simp] theorem State.setAdmin_gtbAcc (s : State) (f : Admin → Admin) : (s.setAdmin f).gtbAcc = s.gtbAcc := rfl
@[simp] theorem State.setAdmin_lapLog (s : State) (f : Admin → Admin) : (s.setAdmin f).lapLog = s.lapLog := rfl
@[simp] theorem State.setAdmin_lap (s : State) (f : Admin → Admin) : (s.setAdmin f).lap = s.lap := rfl

/-! `State.emit` -/
@[simp] theorem State.emit_sq (s : State) (k : PacketKind) (p : Packet) : (s.emit k p).sq = s.sq := by
  unfold State.emit State.emitAt; split <;> simp [State.enqueueAt, State.countTrim, State.countPort, State.bump]
@[simp] theorem State.emit_wv (s : State) (k : PacketKind) (p : Packet) : (s.emit k p).wv = s.wv := by
  unfold State.emit State.emitAt; split <;> simp [State.enqueueAt, State.countTrim, State.countPort, State.bump]
@[simp] theorem State.emit_st (s : State) (k : PacketKind) (p : Packet) : (s.emit k p).st = s.st := by
  unfold State.emit State.emitAt; split <;> simp [State.enqueueAt, State.countTrim, State.countPort, State.bump]
@[simp] theorem State.emit_squads (s : State) (k : PacketKind) (p : Packet) : (s.emit k p).squads = s.squads := by
  unfold State.emit State.emitAt; split <;> simp [State.enqueueAt, State.countTrim, State.countPort, State.bump]
@[simp] theorem State.emit_cores (s : State) (k : PacketKind) (p : Packet) : (s.emit k p).cores = s.cores := by
  unfold State.emit State.emitAt; split <;> simp [State.enqueueAt, State.countTrim, State.countPort, State.bump]
@[simp] theorem State.emit_dies (s : State) (k : PacketKind) (p : Packet) : (s.emit k p).dies = s.dies := by
  unfold State.emit State.emitAt; split <;> simp [State.enqueueAt, State.countTrim, State.countPort, State.bump]
@[simp] theorem State.emit_mem (s : State) (k : PacketKind) (p : Packet) : (s.emit k p).mem = s.mem := by
  unfold State.emit State.emitAt; split <;> simp [State.enqueueAt, State.countTrim, State.countPort, State.bump]
@[simp] theorem State.emit_bad (s : State) (k : PacketKind) (p : Packet) : (s.emit k p).bad = s.bad := by
  unfold State.emit State.emitAt; split <;> simp [State.enqueueAt, State.countTrim, State.countPort, State.bump]
@[simp] theorem State.emit_secKey (s : State) (k : PacketKind) (p : Packet) : (s.emit k p).secKey = s.secKey := by
  unfold State.emit State.emitAt; split <;> simp [State.enqueueAt, State.countTrim, State.countPort, State.bump]
@[simp] theorem State.emit_l2 (s : State) (k : PacketKind) (p : Packet) : (s.emit k p).l2 = s.l2 := by
  unfold State.emit State.emitAt; split <;> simp [State.enqueueAt, State.countTrim, State.countPort, State.bump]
@[simp] theorem State.emit_tags (s : State) (k : PacketKind) (p : Packet) : (s.emit k p).tags = s.tags := by
  unfold State.emit State.emitAt; split <;> simp [State.enqueueAt, State.countTrim, State.countPort, State.bump]
@[simp] theorem State.emit_media (s : State) (k : PacketKind) (p : Packet) : (s.emit k p).media = s.media := by
  unfold State.emit State.emitAt; split <;> simp [State.enqueueAt, State.countTrim, State.countPort, State.bump]
@[simp] theorem State.emit_mediaTags (s : State) (k : PacketKind) (p : Packet) : (s.emit k p).mediaTags = s.mediaTags := by
  unfold State.emit State.emitAt; split <;> simp [State.enqueueAt, State.countTrim, State.countPort, State.bump]
@[simp] theorem State.emit_mediaBad (s : State) (k : PacketKind) (p : Packet) : (s.emit k p).mediaBad = s.mediaBad := by
  unfold State.emit State.emitAt; split <;> simp [State.enqueueAt, State.countTrim, State.countPort, State.bump]
@[simp] theorem State.emit_mediaKeys (s : State) (k : PacketKind) (p : Packet) : (s.emit k p).mediaKeys = s.mediaKeys := by
  unfold State.emit State.emitAt; split <;> simp [State.enqueueAt, State.countTrim, State.countPort, State.bump]
@[simp] theorem State.emit_owqWait (s : State) (k : PacketKind) (p : Packet) : (s.emit k p).owqWait = s.owqWait := by
  unfold State.emit State.emitAt; split <;> simp [State.enqueueAt, State.countTrim, State.countPort, State.bump]
@[simp] theorem State.emit_keyKills (s : State) (k : PacketKind) (p : Packet) : (s.emit k p).keyKills = s.keyKills := by
  unfold State.emit State.emitAt; split <;> simp [State.enqueueAt, State.countTrim, State.countPort, State.bump]
@[simp] theorem State.emit_cxl (s : State) (k : PacketKind) (p : Packet) : (s.emit k p).cxl = s.cxl := by
  unfold State.emit State.emitAt; split <;> simp [State.enqueueAt, State.countTrim, State.countPort, State.bump]
@[simp] theorem State.emit_pkg (s : State) (k : PacketKind) (p : Packet) : (s.emit k p).pkg = s.pkg := by
  unfold State.emit State.emitAt; split <;> simp [State.enqueueAt, State.countTrim, State.countPort, State.bump]
@[simp] theorem State.emit_snaps (s : State) (k : PacketKind) (p : Packet) : (s.emit k p).snaps = s.snaps := by
  unfold State.emit State.emitAt; split <;> simp [State.enqueueAt, State.countTrim, State.countPort, State.bump]
@[simp] theorem State.emit_keys (s : State) (k : PacketKind) (p : Packet) : (s.emit k p).keys = s.keys := by
  unfold State.emit State.emitAt; split <;> simp [State.enqueueAt, State.countTrim, State.countPort, State.bump]
@[simp] theorem State.emit_faults (s : State) (k : PacketKind) (p : Packet) : (s.emit k p).faults = s.faults := by
  unfold State.emit State.emitAt; split <;> simp [State.enqueueAt, State.countTrim, State.countPort, State.bump]
@[simp] theorem State.emit_fixed (s : State) (k : PacketKind) (p : Packet) : (s.emit k p).fixed = s.fixed := by
  unfold State.emit State.emitAt; split <;> simp [State.enqueueAt, State.countTrim, State.countPort, State.bump]
@[simp] theorem State.emit_xlinvBusy (s : State) (k : PacketKind) (p : Packet) : (s.emit k p).xlinvBusy = s.xlinvBusy := by
  unfold State.emit State.emitAt; split <;> simp [State.enqueueAt, State.countTrim, State.countPort, State.bump]
@[simp] theorem State.emit_xlinvHeld (s : State) (k : PacketKind) (p : Packet) : (s.emit k p).xlinvHeld = s.xlinvHeld := by
  unfold State.emit State.emitAt; split <;> simp [State.enqueueAt, State.countTrim, State.countPort, State.bump]
@[simp] theorem State.emit_cmds (s : State) (k : PacketKind) (p : Packet) : (s.emit k p).cmds = s.cmds := by
  unfold State.emit State.emitAt; split <;> simp [State.enqueueAt, State.countTrim, State.countPort, State.bump]
@[simp] theorem State.emit_nextCmd (s : State) (k : PacketKind) (p : Packet) : (s.emit k p).nextCmd = s.nextCmd := by
  unfold State.emit State.emitAt; split <;> simp [State.enqueueAt, State.countTrim, State.countPort, State.bump]
@[simp] theorem State.emit_doneWords (s : State) (k : PacketKind) (p : Packet) : (s.emit k p).doneWords = s.doneWords := by
  unfold State.emit State.emitAt; split <;> simp [State.enqueueAt, State.countTrim, State.countPort, State.bump]
@[simp] theorem State.emit_tileState (s : State) (k : PacketKind) (p : Packet) : (s.emit k p).tileState = s.tileState := by
  unfold State.emit State.emitAt; split <;> simp [State.enqueueAt, State.countTrim, State.countPort, State.bump]
@[simp] theorem State.emit_spent (s : State) (k : PacketKind) (p : Packet) : (s.emit k p).spent = s.spent := by
  unfold State.emit State.emitAt; split <;> simp [State.enqueueAt, State.countTrim, State.countPort, State.bump]
@[simp] theorem State.emit_frozen (s : State) (k : PacketKind) (p : Packet) : (s.emit k p).frozen = s.frozen := by
  unfold State.emit State.emitAt; split <;> simp [State.enqueueAt, State.countTrim, State.countPort, State.bump]
@[simp] theorem State.emit_records (s : State) (k : PacketKind) (p : Packet) : (s.emit k p).records = s.records := by
  unfold State.emit State.emitAt; split <;> simp [State.enqueueAt, State.countTrim, State.countPort, State.bump]
@[simp] theorem State.emit_decisions (s : State) (k : PacketKind) (p : Packet) : (s.emit k p).decisions = s.decisions := by
  unfold State.emit State.emitAt; split <;> simp [State.enqueueAt, State.countTrim, State.countPort, State.bump]
@[simp] theorem State.emit_power (s : State) (k : PacketKind) (p : Packet) : (s.emit k p).power = s.power := by
  unfold State.emit State.emitAt; split <;> simp [State.enqueueAt, State.countTrim, State.countPort, State.bump]
@[simp] theorem State.emit_sched (s : State) (k : PacketKind) (p : Packet) : (s.emit k p).sched = s.sched := by
  unfold State.emit State.emitAt; split <;> simp [State.enqueueAt, State.countTrim, State.countPort, State.bump]
@[simp] theorem State.emit_qps (s : State) (k : PacketKind) (p : Packet) : (s.emit k p).qps = s.qps := by
  unfold State.emit State.emitAt; split <;> simp [State.enqueueAt, State.countTrim, State.countPort, State.bump]
@[simp] theorem State.emit_hostOut (s : State) (k : PacketKind) (p : Packet) : (s.emit k p).hostOut = s.hostOut := by
  unfold State.emit State.emitAt; split <;> simp [State.enqueueAt, State.countTrim, State.countPort, State.bump]
@[simp] theorem State.emit_hostLines (s : State) (k : PacketKind) (p : Packet) : (s.emit k p).hostLines = s.hostLines := by
  unfold State.emit State.emitAt; split <;> simp [State.enqueueAt, State.countTrim, State.countPort, State.bump]
@[simp] theorem State.emit_links (s : State) (k : PacketKind) (p : Packet) : (s.emit k p).links = s.links := by
  unfold State.emit State.emitAt; split <;> simp [State.enqueueAt, State.countTrim, State.countPort, State.bump]
@[simp] theorem State.emit_modules (s : State) (k : PacketKind) (p : Packet) : (s.emit k p).modules = s.modules := by
  unfold State.emit State.emitAt; split <;> simp [State.enqueueAt, State.countTrim, State.countPort, State.bump]
@[simp] theorem State.emit_recovery (s : State) (k : PacketKind) (p : Packet) : (s.emit k p).recovery = s.recovery := by
  unfold State.emit State.emitAt; split <;> simp [State.enqueueAt, State.countTrim, State.countPort, State.bump]
@[simp] theorem State.emit_log (s : State) (k : PacketKind) (p : Packet) : (s.emit k p).log = s.log := by
  unfold State.emit State.emitAt; split <;> simp [State.enqueueAt, State.countTrim, State.countPort, State.bump]
@[simp] theorem State.emit_agenda (s : State) (k : PacketKind) (p : Packet) : (s.emit k p).agenda = s.agenda := by
  unfold State.emit State.emitAt; split <;> simp [State.enqueueAt, State.countTrim, State.countPort, State.bump]
@[simp] theorem State.emit_pending (s : State) (k : PacketKind) (p : Packet) : (s.emit k p).pending = s.pending := by
  unfold State.emit State.emitAt; split <;> simp [State.enqueueAt, State.countTrim, State.countPort, State.bump]
@[simp] theorem State.emit_free (s : State) (k : PacketKind) (p : Packet) : (s.emit k p).free = s.free := by
  unfold State.emit State.emitAt; split <;> simp [State.enqueueAt, State.countTrim, State.countPort, State.bump]
@[simp] theorem State.emit_upset (s : State) (k : PacketKind) (p : Packet) : (s.emit k p).upset = s.upset := by
  unfold State.emit State.emitAt; split <;> simp [State.enqueueAt, State.countTrim, State.countPort, State.bump]
@[simp] theorem State.emit_cycle (s : State) (k : PacketKind) (p : Packet) : (s.emit k p).cycle = s.cycle := by
  unfold State.emit State.emitAt; split <;> simp [State.enqueueAt, State.countTrim, State.countPort, State.bump]
@[simp] theorem State.emit_gtbAcc (s : State) (k : PacketKind) (p : Packet) : (s.emit k p).gtbAcc = s.gtbAcc := by
  unfold State.emit State.emitAt; split <;> simp [State.enqueueAt, State.countTrim, State.countPort, State.bump]
@[simp] theorem State.emit_lapLog (s : State) (k : PacketKind) (p : Packet) : (s.emit k p).lapLog = s.lapLog := by
  unfold State.emit State.emitAt; split <;> simp [State.enqueueAt, State.countTrim, State.countPort, State.bump]
@[simp] theorem State.emit_lap (s : State) (k : PacketKind) (p : Packet) : (s.emit k p).lap = s.lap := by
  unfold State.emit State.emitAt; split <;> simp [State.enqueueAt, State.countTrim, State.countPort, State.bump]

/-! `State.setLink` -/
@[simp] theorem State.setLink_sq (s : State) (k : Nat) (d : LinkDir) : (s.setLink k d).sq = s.sq := rfl
@[simp] theorem State.setLink_wv (s : State) (k : Nat) (d : LinkDir) : (s.setLink k d).wv = s.wv := rfl
@[simp] theorem State.setLink_st (s : State) (k : Nat) (d : LinkDir) : (s.setLink k d).st = s.st := rfl
@[simp] theorem State.setLink_squads (s : State) (k : Nat) (d : LinkDir) : (s.setLink k d).squads = s.squads := rfl
@[simp] theorem State.setLink_cores (s : State) (k : Nat) (d : LinkDir) : (s.setLink k d).cores = s.cores := rfl
@[simp] theorem State.setLink_dies (s : State) (k : Nat) (d : LinkDir) : (s.setLink k d).dies = s.dies := rfl
@[simp] theorem State.setLink_mem (s : State) (k : Nat) (d : LinkDir) : (s.setLink k d).mem = s.mem := rfl
@[simp] theorem State.setLink_bad (s : State) (k : Nat) (d : LinkDir) : (s.setLink k d).bad = s.bad := rfl
@[simp] theorem State.setLink_secKey (s : State) (k : Nat) (d : LinkDir) : (s.setLink k d).secKey = s.secKey := rfl
@[simp] theorem State.setLink_l2 (s : State) (k : Nat) (d : LinkDir) : (s.setLink k d).l2 = s.l2 := rfl
@[simp] theorem State.setLink_tags (s : State) (k : Nat) (d : LinkDir) : (s.setLink k d).tags = s.tags := rfl
@[simp] theorem State.setLink_media (s : State) (k : Nat) (d : LinkDir) : (s.setLink k d).media = s.media := rfl
@[simp] theorem State.setLink_mediaTags (s : State) (k : Nat) (d : LinkDir) : (s.setLink k d).mediaTags = s.mediaTags := rfl
@[simp] theorem State.setLink_mediaBad (s : State) (k : Nat) (d : LinkDir) : (s.setLink k d).mediaBad = s.mediaBad := rfl
@[simp] theorem State.setLink_mediaKeys (s : State) (k : Nat) (d : LinkDir) : (s.setLink k d).mediaKeys = s.mediaKeys := rfl
@[simp] theorem State.setLink_owqWait (s : State) (k : Nat) (d : LinkDir) : (s.setLink k d).owqWait = s.owqWait := rfl
@[simp] theorem State.setLink_keyKills (s : State) (k : Nat) (d : LinkDir) : (s.setLink k d).keyKills = s.keyKills := rfl
@[simp] theorem State.setLink_cxl (s : State) (k : Nat) (d : LinkDir) : (s.setLink k d).cxl = s.cxl := rfl
@[simp] theorem State.setLink_pkg (s : State) (k : Nat) (d : LinkDir) : (s.setLink k d).pkg = s.pkg := rfl
@[simp] theorem State.setLink_snaps (s : State) (k : Nat) (d : LinkDir) : (s.setLink k d).snaps = s.snaps := rfl
@[simp] theorem State.setLink_mmio (s : State) (k : Nat) (d : LinkDir) : (s.setLink k d).mmio = s.mmio := rfl
@[simp] theorem State.setLink_keys (s : State) (k : Nat) (d : LinkDir) : (s.setLink k d).keys = s.keys := rfl
@[simp] theorem State.setLink_faults (s : State) (k : Nat) (d : LinkDir) : (s.setLink k d).faults = s.faults := rfl
@[simp] theorem State.setLink_fixed (s : State) (k : Nat) (d : LinkDir) : (s.setLink k d).fixed = s.fixed := rfl
@[simp] theorem State.setLink_xlinvBusy (s : State) (k : Nat) (d : LinkDir) : (s.setLink k d).xlinvBusy = s.xlinvBusy := rfl
@[simp] theorem State.setLink_xlinvHeld (s : State) (k : Nat) (d : LinkDir) : (s.setLink k d).xlinvHeld = s.xlinvHeld := rfl
@[simp] theorem State.setLink_cmds (s : State) (k : Nat) (d : LinkDir) : (s.setLink k d).cmds = s.cmds := rfl
@[simp] theorem State.setLink_nextCmd (s : State) (k : Nat) (d : LinkDir) : (s.setLink k d).nextCmd = s.nextCmd := rfl
@[simp] theorem State.setLink_doneWords (s : State) (k : Nat) (d : LinkDir) : (s.setLink k d).doneWords = s.doneWords := rfl
@[simp] theorem State.setLink_tileState (s : State) (k : Nat) (d : LinkDir) : (s.setLink k d).tileState = s.tileState := rfl
@[simp] theorem State.setLink_spent (s : State) (k : Nat) (d : LinkDir) : (s.setLink k d).spent = s.spent := rfl
@[simp] theorem State.setLink_frozen (s : State) (k : Nat) (d : LinkDir) : (s.setLink k d).frozen = s.frozen := rfl
@[simp] theorem State.setLink_records (s : State) (k : Nat) (d : LinkDir) : (s.setLink k d).records = s.records := rfl
@[simp] theorem State.setLink_decisions (s : State) (k : Nat) (d : LinkDir) : (s.setLink k d).decisions = s.decisions := rfl
@[simp] theorem State.setLink_power (s : State) (k : Nat) (d : LinkDir) : (s.setLink k d).power = s.power := rfl
@[simp] theorem State.setLink_sched (s : State) (k : Nat) (d : LinkDir) : (s.setLink k d).sched = s.sched := rfl
@[simp] theorem State.setLink_qps (s : State) (k : Nat) (d : LinkDir) : (s.setLink k d).qps = s.qps := rfl
@[simp] theorem State.setLink_hostOut (s : State) (k : Nat) (d : LinkDir) : (s.setLink k d).hostOut = s.hostOut := rfl
@[simp] theorem State.setLink_hostLines (s : State) (k : Nat) (d : LinkDir) : (s.setLink k d).hostLines = s.hostLines := rfl
@[simp] theorem State.setLink_modules (s : State) (k : Nat) (d : LinkDir) : (s.setLink k d).modules = s.modules := rfl
@[simp] theorem State.setLink_fab (s : State) (k : Nat) (d : LinkDir) : (s.setLink k d).fab = s.fab := rfl
@[simp] theorem State.setLink_recovery (s : State) (k : Nat) (d : LinkDir) : (s.setLink k d).recovery = s.recovery := rfl
@[simp] theorem State.setLink_admin (s : State) (k : Nat) (d : LinkDir) : (s.setLink k d).admin = s.admin := rfl
@[simp] theorem State.setLink_log (s : State) (k : Nat) (d : LinkDir) : (s.setLink k d).log = s.log := rfl
@[simp] theorem State.setLink_agenda (s : State) (k : Nat) (d : LinkDir) : (s.setLink k d).agenda = s.agenda := rfl
@[simp] theorem State.setLink_pending (s : State) (k : Nat) (d : LinkDir) : (s.setLink k d).pending = s.pending := rfl
@[simp] theorem State.setLink_free (s : State) (k : Nat) (d : LinkDir) : (s.setLink k d).free = s.free := rfl
@[simp] theorem State.setLink_upset (s : State) (k : Nat) (d : LinkDir) : (s.setLink k d).upset = s.upset := rfl
@[simp] theorem State.setLink_cycle (s : State) (k : Nat) (d : LinkDir) : (s.setLink k d).cycle = s.cycle := rfl
@[simp] theorem State.setLink_gtbAcc (s : State) (k : Nat) (d : LinkDir) : (s.setLink k d).gtbAcc = s.gtbAcc := rfl
@[simp] theorem State.setLink_lapLog (s : State) (k : Nat) (d : LinkDir) : (s.setLink k d).lapLog = s.lapLog := rfl
@[simp] theorem State.setLink_lap (s : State) (k : Nat) (d : LinkDir) : (s.setLink k d).lap = s.lap := rfl

/-! `State.setMod` -/
@[simp] theorem State.setMod_sq (s : State) (m : Nat) (x : LinkModule) : (s.setMod m x).sq = s.sq := rfl
@[simp] theorem State.setMod_wv (s : State) (m : Nat) (x : LinkModule) : (s.setMod m x).wv = s.wv := rfl
@[simp] theorem State.setMod_st (s : State) (m : Nat) (x : LinkModule) : (s.setMod m x).st = s.st := rfl
@[simp] theorem State.setMod_squads (s : State) (m : Nat) (x : LinkModule) : (s.setMod m x).squads = s.squads := rfl
@[simp] theorem State.setMod_cores (s : State) (m : Nat) (x : LinkModule) : (s.setMod m x).cores = s.cores := rfl
@[simp] theorem State.setMod_dies (s : State) (m : Nat) (x : LinkModule) : (s.setMod m x).dies = s.dies := rfl
@[simp] theorem State.setMod_mem (s : State) (m : Nat) (x : LinkModule) : (s.setMod m x).mem = s.mem := rfl
@[simp] theorem State.setMod_bad (s : State) (m : Nat) (x : LinkModule) : (s.setMod m x).bad = s.bad := rfl
@[simp] theorem State.setMod_secKey (s : State) (m : Nat) (x : LinkModule) : (s.setMod m x).secKey = s.secKey := rfl
@[simp] theorem State.setMod_l2 (s : State) (m : Nat) (x : LinkModule) : (s.setMod m x).l2 = s.l2 := rfl
@[simp] theorem State.setMod_tags (s : State) (m : Nat) (x : LinkModule) : (s.setMod m x).tags = s.tags := rfl
@[simp] theorem State.setMod_media (s : State) (m : Nat) (x : LinkModule) : (s.setMod m x).media = s.media := rfl
@[simp] theorem State.setMod_mediaTags (s : State) (m : Nat) (x : LinkModule) : (s.setMod m x).mediaTags = s.mediaTags := rfl
@[simp] theorem State.setMod_mediaBad (s : State) (m : Nat) (x : LinkModule) : (s.setMod m x).mediaBad = s.mediaBad := rfl
@[simp] theorem State.setMod_mediaKeys (s : State) (m : Nat) (x : LinkModule) : (s.setMod m x).mediaKeys = s.mediaKeys := rfl
@[simp] theorem State.setMod_owqWait (s : State) (m : Nat) (x : LinkModule) : (s.setMod m x).owqWait = s.owqWait := rfl
@[simp] theorem State.setMod_keyKills (s : State) (m : Nat) (x : LinkModule) : (s.setMod m x).keyKills = s.keyKills := rfl
@[simp] theorem State.setMod_cxl (s : State) (m : Nat) (x : LinkModule) : (s.setMod m x).cxl = s.cxl := rfl
@[simp] theorem State.setMod_pkg (s : State) (m : Nat) (x : LinkModule) : (s.setMod m x).pkg = s.pkg := rfl
@[simp] theorem State.setMod_snaps (s : State) (m : Nat) (x : LinkModule) : (s.setMod m x).snaps = s.snaps := rfl
@[simp] theorem State.setMod_mmio (s : State) (m : Nat) (x : LinkModule) : (s.setMod m x).mmio = s.mmio := rfl
@[simp] theorem State.setMod_keys (s : State) (m : Nat) (x : LinkModule) : (s.setMod m x).keys = s.keys := rfl
@[simp] theorem State.setMod_faults (s : State) (m : Nat) (x : LinkModule) : (s.setMod m x).faults = s.faults := rfl
@[simp] theorem State.setMod_fixed (s : State) (m : Nat) (x : LinkModule) : (s.setMod m x).fixed = s.fixed := rfl
@[simp] theorem State.setMod_xlinvBusy (s : State) (m : Nat) (x : LinkModule) : (s.setMod m x).xlinvBusy = s.xlinvBusy := rfl
@[simp] theorem State.setMod_xlinvHeld (s : State) (m : Nat) (x : LinkModule) : (s.setMod m x).xlinvHeld = s.xlinvHeld := rfl
@[simp] theorem State.setMod_cmds (s : State) (m : Nat) (x : LinkModule) : (s.setMod m x).cmds = s.cmds := rfl
@[simp] theorem State.setMod_nextCmd (s : State) (m : Nat) (x : LinkModule) : (s.setMod m x).nextCmd = s.nextCmd := rfl
@[simp] theorem State.setMod_doneWords (s : State) (m : Nat) (x : LinkModule) : (s.setMod m x).doneWords = s.doneWords := rfl
@[simp] theorem State.setMod_tileState (s : State) (m : Nat) (x : LinkModule) : (s.setMod m x).tileState = s.tileState := rfl
@[simp] theorem State.setMod_spent (s : State) (m : Nat) (x : LinkModule) : (s.setMod m x).spent = s.spent := rfl
@[simp] theorem State.setMod_frozen (s : State) (m : Nat) (x : LinkModule) : (s.setMod m x).frozen = s.frozen := rfl
@[simp] theorem State.setMod_records (s : State) (m : Nat) (x : LinkModule) : (s.setMod m x).records = s.records := rfl
@[simp] theorem State.setMod_decisions (s : State) (m : Nat) (x : LinkModule) : (s.setMod m x).decisions = s.decisions := rfl
@[simp] theorem State.setMod_power (s : State) (m : Nat) (x : LinkModule) : (s.setMod m x).power = s.power := rfl
@[simp] theorem State.setMod_sched (s : State) (m : Nat) (x : LinkModule) : (s.setMod m x).sched = s.sched := rfl
@[simp] theorem State.setMod_qps (s : State) (m : Nat) (x : LinkModule) : (s.setMod m x).qps = s.qps := rfl
@[simp] theorem State.setMod_hostOut (s : State) (m : Nat) (x : LinkModule) : (s.setMod m x).hostOut = s.hostOut := rfl
@[simp] theorem State.setMod_hostLines (s : State) (m : Nat) (x : LinkModule) : (s.setMod m x).hostLines = s.hostLines := rfl
@[simp] theorem State.setMod_links (s : State) (m : Nat) (x : LinkModule) : (s.setMod m x).links = s.links := rfl
@[simp] theorem State.setMod_fab (s : State) (m : Nat) (x : LinkModule) : (s.setMod m x).fab = s.fab := rfl
@[simp] theorem State.setMod_recovery (s : State) (m : Nat) (x : LinkModule) : (s.setMod m x).recovery = s.recovery := rfl
@[simp] theorem State.setMod_admin (s : State) (m : Nat) (x : LinkModule) : (s.setMod m x).admin = s.admin := rfl
@[simp] theorem State.setMod_log (s : State) (m : Nat) (x : LinkModule) : (s.setMod m x).log = s.log := rfl
@[simp] theorem State.setMod_agenda (s : State) (m : Nat) (x : LinkModule) : (s.setMod m x).agenda = s.agenda := rfl
@[simp] theorem State.setMod_pending (s : State) (m : Nat) (x : LinkModule) : (s.setMod m x).pending = s.pending := rfl
@[simp] theorem State.setMod_free (s : State) (m : Nat) (x : LinkModule) : (s.setMod m x).free = s.free := rfl
@[simp] theorem State.setMod_upset (s : State) (m : Nat) (x : LinkModule) : (s.setMod m x).upset = s.upset := rfl
@[simp] theorem State.setMod_cycle (s : State) (m : Nat) (x : LinkModule) : (s.setMod m x).cycle = s.cycle := rfl
@[simp] theorem State.setMod_gtbAcc (s : State) (m : Nat) (x : LinkModule) : (s.setMod m x).gtbAcc = s.gtbAcc := rfl
@[simp] theorem State.setMod_lapLog (s : State) (m : Nat) (x : LinkModule) : (s.setMod m x).lapLog = s.lapLog := rfl
@[simp] theorem State.setMod_lap (s : State) (m : Nat) (x : LinkModule) : (s.setMod m x).lap = s.lap := rfl

/-! `State.putTx` -/
@[simp] theorem State.putTx_sq (s : State) (t : TxFlow) : (s.putTx t).sq = s.sq := rfl
@[simp] theorem State.putTx_wv (s : State) (t : TxFlow) : (s.putTx t).wv = s.wv := rfl
@[simp] theorem State.putTx_st (s : State) (t : TxFlow) : (s.putTx t).st = s.st := rfl
@[simp] theorem State.putTx_squads (s : State) (t : TxFlow) : (s.putTx t).squads = s.squads := rfl
@[simp] theorem State.putTx_cores (s : State) (t : TxFlow) : (s.putTx t).cores = s.cores := rfl
@[simp] theorem State.putTx_dies (s : State) (t : TxFlow) : (s.putTx t).dies = s.dies := rfl
@[simp] theorem State.putTx_mem (s : State) (t : TxFlow) : (s.putTx t).mem = s.mem := rfl
@[simp] theorem State.putTx_bad (s : State) (t : TxFlow) : (s.putTx t).bad = s.bad := rfl
@[simp] theorem State.putTx_secKey (s : State) (t : TxFlow) : (s.putTx t).secKey = s.secKey := rfl
@[simp] theorem State.putTx_l2 (s : State) (t : TxFlow) : (s.putTx t).l2 = s.l2 := rfl
@[simp] theorem State.putTx_tags (s : State) (t : TxFlow) : (s.putTx t).tags = s.tags := rfl
@[simp] theorem State.putTx_media (s : State) (t : TxFlow) : (s.putTx t).media = s.media := rfl
@[simp] theorem State.putTx_mediaTags (s : State) (t : TxFlow) : (s.putTx t).mediaTags = s.mediaTags := rfl
@[simp] theorem State.putTx_mediaBad (s : State) (t : TxFlow) : (s.putTx t).mediaBad = s.mediaBad := rfl
@[simp] theorem State.putTx_mediaKeys (s : State) (t : TxFlow) : (s.putTx t).mediaKeys = s.mediaKeys := rfl
@[simp] theorem State.putTx_owqWait (s : State) (t : TxFlow) : (s.putTx t).owqWait = s.owqWait := rfl
@[simp] theorem State.putTx_keyKills (s : State) (t : TxFlow) : (s.putTx t).keyKills = s.keyKills := rfl
@[simp] theorem State.putTx_cxl (s : State) (t : TxFlow) : (s.putTx t).cxl = s.cxl := rfl
@[simp] theorem State.putTx_pkg (s : State) (t : TxFlow) : (s.putTx t).pkg = s.pkg := rfl
@[simp] theorem State.putTx_snaps (s : State) (t : TxFlow) : (s.putTx t).snaps = s.snaps := rfl
@[simp] theorem State.putTx_mmio (s : State) (t : TxFlow) : (s.putTx t).mmio = s.mmio := rfl
@[simp] theorem State.putTx_keys (s : State) (t : TxFlow) : (s.putTx t).keys = s.keys := rfl
@[simp] theorem State.putTx_faults (s : State) (t : TxFlow) : (s.putTx t).faults = s.faults := rfl
@[simp] theorem State.putTx_fixed (s : State) (t : TxFlow) : (s.putTx t).fixed = s.fixed := rfl
@[simp] theorem State.putTx_xlinvBusy (s : State) (t : TxFlow) : (s.putTx t).xlinvBusy = s.xlinvBusy := rfl
@[simp] theorem State.putTx_xlinvHeld (s : State) (t : TxFlow) : (s.putTx t).xlinvHeld = s.xlinvHeld := rfl
@[simp] theorem State.putTx_cmds (s : State) (t : TxFlow) : (s.putTx t).cmds = s.cmds := rfl
@[simp] theorem State.putTx_nextCmd (s : State) (t : TxFlow) : (s.putTx t).nextCmd = s.nextCmd := rfl
@[simp] theorem State.putTx_doneWords (s : State) (t : TxFlow) : (s.putTx t).doneWords = s.doneWords := rfl
@[simp] theorem State.putTx_tileState (s : State) (t : TxFlow) : (s.putTx t).tileState = s.tileState := rfl
@[simp] theorem State.putTx_spent (s : State) (t : TxFlow) : (s.putTx t).spent = s.spent := rfl
@[simp] theorem State.putTx_frozen (s : State) (t : TxFlow) : (s.putTx t).frozen = s.frozen := rfl
@[simp] theorem State.putTx_records (s : State) (t : TxFlow) : (s.putTx t).records = s.records := rfl
@[simp] theorem State.putTx_decisions (s : State) (t : TxFlow) : (s.putTx t).decisions = s.decisions := rfl
@[simp] theorem State.putTx_power (s : State) (t : TxFlow) : (s.putTx t).power = s.power := rfl
@[simp] theorem State.putTx_sched (s : State) (t : TxFlow) : (s.putTx t).sched = s.sched := rfl
@[simp] theorem State.putTx_qps (s : State) (t : TxFlow) : (s.putTx t).qps = s.qps := rfl
@[simp] theorem State.putTx_hostOut (s : State) (t : TxFlow) : (s.putTx t).hostOut = s.hostOut := rfl
@[simp] theorem State.putTx_hostLines (s : State) (t : TxFlow) : (s.putTx t).hostLines = s.hostLines := rfl
@[simp] theorem State.putTx_links (s : State) (t : TxFlow) : (s.putTx t).links = s.links := rfl
@[simp] theorem State.putTx_modules (s : State) (t : TxFlow) : (s.putTx t).modules = s.modules := rfl
@[simp] theorem State.putTx_recovery (s : State) (t : TxFlow) : (s.putTx t).recovery = s.recovery := rfl
@[simp] theorem State.putTx_admin (s : State) (t : TxFlow) : (s.putTx t).admin = s.admin := rfl
@[simp] theorem State.putTx_log (s : State) (t : TxFlow) : (s.putTx t).log = s.log := rfl
@[simp] theorem State.putTx_agenda (s : State) (t : TxFlow) : (s.putTx t).agenda = s.agenda := rfl
@[simp] theorem State.putTx_pending (s : State) (t : TxFlow) : (s.putTx t).pending = s.pending := rfl
@[simp] theorem State.putTx_free (s : State) (t : TxFlow) : (s.putTx t).free = s.free := rfl
@[simp] theorem State.putTx_upset (s : State) (t : TxFlow) : (s.putTx t).upset = s.upset := rfl
@[simp] theorem State.putTx_cycle (s : State) (t : TxFlow) : (s.putTx t).cycle = s.cycle := rfl
@[simp] theorem State.putTx_gtbAcc (s : State) (t : TxFlow) : (s.putTx t).gtbAcc = s.gtbAcc := rfl
@[simp] theorem State.putTx_lapLog (s : State) (t : TxFlow) : (s.putTx t).lapLog = s.lapLog := rfl
@[simp] theorem State.putTx_lap (s : State) (t : TxFlow) : (s.putTx t).lap = s.lap := rfl

/-! `State.putRx` -/
@[simp] theorem State.putRx_sq (s : State) (t : RxFlow) : (s.putRx t).sq = s.sq := rfl
@[simp] theorem State.putRx_wv (s : State) (t : RxFlow) : (s.putRx t).wv = s.wv := rfl
@[simp] theorem State.putRx_st (s : State) (t : RxFlow) : (s.putRx t).st = s.st := rfl
@[simp] theorem State.putRx_squads (s : State) (t : RxFlow) : (s.putRx t).squads = s.squads := rfl
@[simp] theorem State.putRx_cores (s : State) (t : RxFlow) : (s.putRx t).cores = s.cores := rfl
@[simp] theorem State.putRx_dies (s : State) (t : RxFlow) : (s.putRx t).dies = s.dies := rfl
@[simp] theorem State.putRx_mem (s : State) (t : RxFlow) : (s.putRx t).mem = s.mem := rfl
@[simp] theorem State.putRx_bad (s : State) (t : RxFlow) : (s.putRx t).bad = s.bad := rfl
@[simp] theorem State.putRx_secKey (s : State) (t : RxFlow) : (s.putRx t).secKey = s.secKey := rfl
@[simp] theorem State.putRx_l2 (s : State) (t : RxFlow) : (s.putRx t).l2 = s.l2 := rfl
@[simp] theorem State.putRx_tags (s : State) (t : RxFlow) : (s.putRx t).tags = s.tags := rfl
@[simp] theorem State.putRx_media (s : State) (t : RxFlow) : (s.putRx t).media = s.media := rfl
@[simp] theorem State.putRx_mediaTags (s : State) (t : RxFlow) : (s.putRx t).mediaTags = s.mediaTags := rfl
@[simp] theorem State.putRx_mediaBad (s : State) (t : RxFlow) : (s.putRx t).mediaBad = s.mediaBad := rfl
@[simp] theorem State.putRx_mediaKeys (s : State) (t : RxFlow) : (s.putRx t).mediaKeys = s.mediaKeys := rfl
@[simp] theorem State.putRx_owqWait (s : State) (t : RxFlow) : (s.putRx t).owqWait = s.owqWait := rfl
@[simp] theorem State.putRx_keyKills (s : State) (t : RxFlow) : (s.putRx t).keyKills = s.keyKills := rfl
@[simp] theorem State.putRx_cxl (s : State) (t : RxFlow) : (s.putRx t).cxl = s.cxl := rfl
@[simp] theorem State.putRx_pkg (s : State) (t : RxFlow) : (s.putRx t).pkg = s.pkg := rfl
@[simp] theorem State.putRx_snaps (s : State) (t : RxFlow) : (s.putRx t).snaps = s.snaps := rfl
@[simp] theorem State.putRx_mmio (s : State) (t : RxFlow) : (s.putRx t).mmio = s.mmio := rfl
@[simp] theorem State.putRx_keys (s : State) (t : RxFlow) : (s.putRx t).keys = s.keys := rfl
@[simp] theorem State.putRx_faults (s : State) (t : RxFlow) : (s.putRx t).faults = s.faults := rfl
@[simp] theorem State.putRx_fixed (s : State) (t : RxFlow) : (s.putRx t).fixed = s.fixed := rfl
@[simp] theorem State.putRx_xlinvBusy (s : State) (t : RxFlow) : (s.putRx t).xlinvBusy = s.xlinvBusy := rfl
@[simp] theorem State.putRx_xlinvHeld (s : State) (t : RxFlow) : (s.putRx t).xlinvHeld = s.xlinvHeld := rfl
@[simp] theorem State.putRx_cmds (s : State) (t : RxFlow) : (s.putRx t).cmds = s.cmds := rfl
@[simp] theorem State.putRx_nextCmd (s : State) (t : RxFlow) : (s.putRx t).nextCmd = s.nextCmd := rfl
@[simp] theorem State.putRx_doneWords (s : State) (t : RxFlow) : (s.putRx t).doneWords = s.doneWords := rfl
@[simp] theorem State.putRx_tileState (s : State) (t : RxFlow) : (s.putRx t).tileState = s.tileState := rfl
@[simp] theorem State.putRx_spent (s : State) (t : RxFlow) : (s.putRx t).spent = s.spent := rfl
@[simp] theorem State.putRx_frozen (s : State) (t : RxFlow) : (s.putRx t).frozen = s.frozen := rfl
@[simp] theorem State.putRx_records (s : State) (t : RxFlow) : (s.putRx t).records = s.records := rfl
@[simp] theorem State.putRx_decisions (s : State) (t : RxFlow) : (s.putRx t).decisions = s.decisions := rfl
@[simp] theorem State.putRx_power (s : State) (t : RxFlow) : (s.putRx t).power = s.power := rfl
@[simp] theorem State.putRx_sched (s : State) (t : RxFlow) : (s.putRx t).sched = s.sched := rfl
@[simp] theorem State.putRx_qps (s : State) (t : RxFlow) : (s.putRx t).qps = s.qps := rfl
@[simp] theorem State.putRx_hostOut (s : State) (t : RxFlow) : (s.putRx t).hostOut = s.hostOut := rfl
@[simp] theorem State.putRx_hostLines (s : State) (t : RxFlow) : (s.putRx t).hostLines = s.hostLines := rfl
@[simp] theorem State.putRx_links (s : State) (t : RxFlow) : (s.putRx t).links = s.links := rfl
@[simp] theorem State.putRx_modules (s : State) (t : RxFlow) : (s.putRx t).modules = s.modules := rfl
@[simp] theorem State.putRx_recovery (s : State) (t : RxFlow) : (s.putRx t).recovery = s.recovery := rfl
@[simp] theorem State.putRx_admin (s : State) (t : RxFlow) : (s.putRx t).admin = s.admin := rfl
@[simp] theorem State.putRx_log (s : State) (t : RxFlow) : (s.putRx t).log = s.log := rfl
@[simp] theorem State.putRx_agenda (s : State) (t : RxFlow) : (s.putRx t).agenda = s.agenda := rfl
@[simp] theorem State.putRx_pending (s : State) (t : RxFlow) : (s.putRx t).pending = s.pending := rfl
@[simp] theorem State.putRx_free (s : State) (t : RxFlow) : (s.putRx t).free = s.free := rfl
@[simp] theorem State.putRx_upset (s : State) (t : RxFlow) : (s.putRx t).upset = s.upset := rfl
@[simp] theorem State.putRx_cycle (s : State) (t : RxFlow) : (s.putRx t).cycle = s.cycle := rfl
@[simp] theorem State.putRx_gtbAcc (s : State) (t : RxFlow) : (s.putRx t).gtbAcc = s.gtbAcc := rfl
@[simp] theorem State.putRx_lapLog (s : State) (t : RxFlow) : (s.putRx t).lapLog = s.lapLog := rfl
@[simp] theorem State.putRx_lap (s : State) (t : RxFlow) : (s.putRx t).lap = s.lap := rfl

/-! What the changed field reads. -/

theorem State.reg_setReg (s : State) (pa x : Nat) (v : W64) :
    (s.setReg pa v).reg x = if x = pa then v else s.reg x := by
  simp only [State.reg, State.setReg, Tab.getD_put]
theorem State.core_setCore (s : State) (c x : Nat) (v : Core) :
    (s.setCore c v).core x = if x = c then v else s.core x := by
  simp only [State.core, State.setCore, Tab.getD_put]
theorem State.core_updCore (s : State) (c x : Nat) (f : Core → Core) :
    (s.updCore c f).core x = if x = c then f (s.core c) else s.core x := by
  simp only [State.core, State.updCore, State.setCore, Tab.getD_put]
theorem State.die_updDie (s : State) (d x : Nat) (f : Die → Die) :
    (s.updDie d f).die x = if x = d then f (s.die d) else s.die x := by
  simp only [State.die, State.updDie, Tab.getD_put]
theorem State.snap_setSnap (s : State) (q x : Nat) (v : SnapSet) :
    (s.setSnap q v).snap x = if x = q then v else s.snap x := by
  simp only [State.snap, State.setSnap, Tab.getD_put]
theorem State.key_setKey (s : State) (k x : Nat) (v : KeySlot) :
    (s.setKey k v).key x = if x = k then v else s.key x := by
  simp only [State.key, State.setKey, Tab.getD_put]
theorem State.l2Line_setL2 (s : State) (l x : Nat) (v : L2Line) :
    (s.setL2 l v).l2Line x = if x = l then v else s.l2Line x := by
  simp only [State.l2Line, State.setL2, Tab.getD_put]
theorem State.link_setLink (s : State) (k x : Nat) (d : LinkDir) :
    (s.setLink k d).link x = if x = k then d else s.link x := by
  simp only [State.link, State.setLink, Tab.getD_put]
theorem State.mod_setMod (s : State) (m x : Nat) (v : LinkModule) :
    (s.setMod m v).mod x = if x = m then v else s.mod x := by
  simp only [State.mod, State.setMod, Tab.getD_put]

end Sys2Proof.Machine
end

