-- ==== Sys2Proof/Tests/Slice0.lean ====
section
/-! SUPPORT. Tests: terms that the well-formedness checks refuse, words written out from the spec's encodings, single
instructions against the spec's examples, and, for each statement, states and operands that meet its hypotheses. -/

namespace Sys2Proof.Tests

open Machine Claim

-- One proof at a time: many kernel evaluations side by side run out of threads.
set_option Elab.async false

/-! ### Base terms: fields of zeros, and a machine with a new wave at its first instruction -/

def h0 : Head := { stall := 0, pred := 0, pneg := false, zero := false }
def fS : SF := { h := h0, dst := 1, a := .sca 2, b := .sca 3, imm := 0, cond := .eq, sub := 0, ext := none }
def fV : VF :=
  { h := h0, dst := 8, a := .vec 2, b := .vec 4, c := .vec 0, modsel := 0, mod := 0, ty := .i32, rnd := 0, sat := false, nega := false, negb := false,
    negc := false, absa := false, absb := false, sub := 0, ext := none }
def fB : BF :=
  { h := h0, creg := 0, cond := .always, tslot := 0, ldelta := 0, rslot := 0, rld := 0, msrc := 0, minv := false, detach := false, token := 0, link := 0 }
def fQ : QF := { h := h0, dst := 1, a := .vec 0, xreg := 0, code := 0 }
def fM : MF :=
  { h := h0, data := .vec 8, base := 5, index := .inl 0, shift := 0, off := 0, width := .b32, space := .global, order := .rlx, scope := .wave, cpol := 0,
    sub := 0, ext := none }
def fA : AF :=
  { h := h0, dst := some (.vec 8), val := .vec 2, cmp := .vec 0, base := 5, index := .inl 0, shift := 0, off := 0, ords := .rlx, ordf := .rlx,
    scope := .wave, aop := .add, unsignedT := false }
def fX : XF := { h := h0, d0 := 0, d1 := 0, d2 := 0, d3 := 0, d4 := 0, d5 := 0, imm := 0 }

/-- A wave at its first instruction, a NOP. -/
def base : State := State.reset.withFetchWord 96 0x4D

/-- One lane executes. -/
def one : State := { base with st := { base.st with exec := 1 } }

/-- One lane executes, s5 holds the address of the code's page, s6 one of the scratchpad. -/
def mem1 : State := (one.writeS 5 0x10000).writeS 6 0x100

/-- The value of a scalar register once the writes in flight have landed. -/
def sAfter (o : Out) (n : Nat) : Option W64 :=
  match o with
  | .next t => some (State.readS { t with cycle := t.cycle + 1000 } n)
  | _ => none

/-- The same for a lane of a vector register. -/
def vAfter (o : Out) (n l : Nat) : Option W32 :=
  match o with
  | .next t => some (State.readV { t with cycle := t.cycle + 1000 } n l)
  | _ => none

/-! ### Well-formedness: each check refuses a term that breaks it, and accepts the term that does not (R232 to R243) -/

theorem test_wf_scalar : (Instr.sadd fS).legal = true ∧ (Instr.sadd { fS with h := { h0 with pred := 1 } }).legal = false ∧
    (Instr.sadd { fS with a := .vec 2 }).legal = false ∧ (Instr.sadd { fS with b := .spc 2 }).legal = false ∧
    (Instr.sadd { fS with imm := 1 }).legal = false ∧ (Instr.sadd { fS with cond := .ne }).legal = false ∧
    (Instr.sadd { fS with sub := 1 }).legal = false ∧ (Instr.sadd { fS with a := .inl 0x60 }).legal = false ∧
    (Instr.sfadd { fS with a := .inl 0x60 }).legal = true ∧ (Instr.sli { fS with a := .vec 0, b := .vec 0 }).legal = false ∧
    (Instr.smov { fS with b := .sca 3 }).legal = false ∧ (Instr.sbfxN { fS with b := .vec 0, imm := 0x4040 }).legal = false ∧
    (Instr.sadd { fS with ext := some { lit64 := 0, ext32 := 1 } }).legal = false := by decide

theorem test_wf_vector : (Instr.vadd fV).legal = true ∧ (Instr.vadd { fV with h := { h0 with pred := 17 } }).legal = false ∧
    (Instr.vadd { fV with ty := .f32 }).legal = false ∧ (Instr.vadd { fV with ty := .i64, dst := 9 }).legal = false ∧
    (Instr.vadd { fV with ty := .i64, a := .vec 3 }).legal = false ∧ (Instr.vadd { fV with c := .vec 1 }).legal = false ∧
    (Instr.vadd { fV with a := .inl 0x73 }).legal = false ∧ (Instr.vadd { fV with a := .inl 0x70 }).legal = false ∧
    (Instr.vadd { fV with a := .inl 0x60 }).legal = false ∧ (Instr.vand { fV with nega := true }).legal = false ∧
    (Instr.vadd { fV with rnd := 1 }).legal = false ∧ (Instr.vfadd { fV with ty := .f32, rnd := 7 }).legal = false ∧
    (Instr.vand { fV with sat := true }).legal = false ∧ (Instr.vadd { fV with sub := 1 }).legal = false ∧
    (Instr.vadd { fV with mod := 1 }).legal = false ∧ (Instr.vadd { fV with modsel := 1, mod := 0 }).legal = false ∧
    (Instr.vadd { fV with modsel := 1, mod := 0x200 }).legal = true ∧ (Instr.mand { fV with dst := 16 }).legal = false ∧
    (Instr.mand { fV with a := .vec 16 }).legal = false := by decide

theorem test_wf_control : (Instr.nop fB).legal = true ∧ (Instr.nop { fB with creg := 1 }).legal = false ∧
    (Instr.nop { fB with token := 1 }).legal = false ∧ (Instr.nop { fB with detach := true }).legal = false ∧
    (Instr.nop { fB with link := 1 }).legal = false ∧ (Instr.nop { fB with msrc := 1 }).legal = false ∧
    (Instr.nop { fB with rld := 1 }).legal = false ∧ (Instr.bra { fB with tslot := 5 }).legal = false ∧
    (Instr.bra { fB with creg := 1 }).legal = false ∧ (Instr.bra { fB with creg := 1, cond := .zero }).legal = true ∧
    (Instr.xrd { fQ with xreg := 0x003 }).legal = false ∧ (Instr.xrd { fQ with xreg := 0x052 }).legal = true ∧
    (Instr.getfmt { fQ with code := 1 }).legal = false ∧ (Instr.getfmt { fQ with a := .sca 1 }).legal = false := by decide

theorem test_wf_memory : (Instr.vldGlobal fM).legal = true ∧ (Instr.vldGlobal { fM with h := { h0 with pred := 17 } }).legal = false ∧
    (Instr.vldGlobal { fM with data := .sca 1 }).legal = false ∧ (Instr.vldGlobal { fM with width := .b64, data := .vec 9 }).legal = false ∧
    (Instr.vldGlobal { fM with space := .scratch }).legal = false ∧ (Instr.vldGlobal { fM with index := .inl 0x60 }).legal = false ∧
    (Instr.vldGlobal { fM with cpol := 4 }).legal = false ∧ (Instr.sldGlobal fM).legal = false ∧
    (Instr.sldGlobal { fM with data := .sca 1 }).legal = true ∧ (Instr.vldGlobal { fM with ext := some { lit64 := 0, ext32 := 1 } }).legal = false ∧
    (Instr.vldGlobal { fM with order := .rel }).legal = false ∧ (Instr.vstGlobal { fM with order := .acq }).legal = false := by decide

theorem test_wf_atomic : (Instr.atomI32 fA).legal = true ∧ (Instr.atomI32 { fA with dst := some (.sca 1) }).legal = false ∧
    (Instr.atomI32 { fA with cmp := .vec 2 }).legal = false ∧ (Instr.atomI32 { fA with ordf := .acq }).legal = false ∧
    (Instr.cas32 { fA with cmp := .vec 2, aop := .min }).legal = false ∧ (Instr.atomI64 { fA with dst := some (.vec 9) }).legal = false ∧
    (Instr.atomI32 { fA with val := .inl 0x70 }).legal = false ∧ (Instr.satom { fA with dst := some (.sca 1) }).legal = false ∧
    (Instr.satom { fA with dst := some (.sca 1), val := .sca 2 }).legal = true ∧ (Instr.redI32 { fA with unsignedT := true, aop := .xchg }).legal = false := by
  decide

theorem test_wf_engine : (Instr.mzero fX).legal = true ∧ (Instr.mzero { fX with d1 := 1 }).legal = false ∧
    (Instr.mzero { fX with h := { h0 with zero := true } }).legal = false ∧ (Instr.batonTake { fX with imm := 1 }).legal = false ∧
    (Instr.mmaBf16 { fX with imm := 0x40000 }).legal = false := by decide

/-! ### Decoding: words written out bit by bit (R228, R233, R238, R242) -/

/-- S: SADD s1, s2, s3: OP 0x000, DST at 18+1, A 0x102, B 0x103. -/
theorem test_decode_sadd : decodeTableWord 96 (1 * 2 ^ 20 + 0x102 * 2 ^ 28 + 0x103 * 2 ^ 38) = some (.sadd fS) := by decide
/-- V: VADD.i32 v8, v2, v4: DST at 20, A at 30, B at 40. -/
theorem test_decode_vadd : decodeTableWord 96 (0x070 + 8 * 2 ^ 20 + 2 * 2 ^ 30 + 4 * 2 ^ 40) = some (.vadd fV) := by decide
/-- D: MAND m8, m2, m4 shares the V format. -/
theorem test_decode_mand : decodeTableWord 96 (0x0D0 + 8 * 2 ^ 20 + 2 * 2 ^ 30 + 4 * 2 ^ 40) = some (.mand fV) := by decide
/-- Q: XRD s1, SNAPST: OP 0x062, DST at 20, XREG at 38. -/
theorem test_decode_xrd : decodeTableWord 96 (0x062 + 1 * 2 ^ 20 + 0x061 * 2 ^ 38) = some (.xrd { fQ with xreg := 0x061 }) := by decide
/-- M: VLD v8, [s5] of 32 bits: OP 0x0F0, DATA at 20, BASE at 29, INDEX 0x200 at 36, WIDTH 2 at 73. -/
theorem test_decode_vld : decodeTableWord 96 (0x0F0 + 8 * 2 ^ 20 + 5 * 2 ^ 29 + 0x200 * 2 ^ 36 + 2 * 2 ^ 73) = some (.vldGlobal fM) := by decide
/-- A: ATOM.i32 v8, v2, [s5]: OP 0x0FF, DST at 20, VAL at 29, BASE at 49, INDEX at 56. -/
theorem test_decode_atom : decodeTableWord 96 (0x0FF + 8 * 2 ^ 20 + 2 * 2 ^ 29 + 5 * 2 ^ 49 + 0x200 * 2 ^ 56) = some (.atomI32 fA) := by decide
/-- X: BATON take: OP 0x12B. -/
theorem test_decode_baton : decodeTableWord 96 0x12B = some (.batonTake fX) := by decide
/-- R242: an opcode that no row assigns, and a reserved bit, are no instruction. -/
theorem test_decode_refuses : decodeTableWord 96 0x02B = none ∧ decodeTableWord 96 (0x04D + 2 ^ 95) = none ∧
    decodeTableWord 192 0x04D = none := by decide

/-! ### Single instructions against the spec's examples -/

/-- s2 and s3 hold two values. -/
def two (a b : W64) : State := (one.writeS 2 a).writeS 3 b

/-- R246's examples: sdiv.i of -7 by 2 gives -3, srem.i -1, sdiv.n of 0xFFFF_FFFF_FFFF_FFF9 by 2 gives 0x7FFF_FFFF_FFFF_FFFC. -/
theorem test_division : sAfter (exec (.sdivI fS) (two (-7) 2)) 1 = some (-3) ∧ sAfter (exec (.sremI fS) (two (-7) 2)) 1 = some (-1) ∧
    sAfter (exec (.sdivN fS) (two 0xFFFFFFFFFFFFFFF9 2)) 1 = some 0x7FFFFFFFFFFFFFFC ∧
    sAfter (exec (.sdivN fS) (two 5 0)) 1 = some 0xFFFFFFFFFFFFFFFF ∧ sAfter (exec (.sremI fS) (two 5 0)) 1 = some 5 := by decide +kernel

/-- R245: a product's high half, an arithmetic shift with its count modulo 64, a rotation, a sign extension. -/
theorem test_scalar_bits : sAfter (exec (.smulhI fS) (two (-1) 2)) 1 = some (-1) ∧ sAfter (exec (.smulhN fS) (two (-1) 2)) 1 = some 1 ∧
    sAfter (exec (.ssra fS) (two 0x8000000000000000 68)) 1 = some 0xF800000000000000 ∧
    sAfter (exec (.srot fS) (two 0x8000000000000001 4)) 1 = some 0x18 ∧ sAfter (exec (.ssext fS) (two 0x80 7)) 1 = some 0xFFFFFFFFFFFFFF80 ∧
    sAfter (exec (.sclz { fS with b := .vec 0 }) (two 0 0)) 1 = some 64 ∧ sAfter (exec (.sandn fS) (two 6 3)) 1 = some 4 := by decide +kernel

/-- R227: a write to s0 is discarded. -/
theorem test_s0 : sAfter (exec (.sadd { fS with dst := 0 }) (two 1 2)) 0 = some 0 ∧ sAfter (exec (.sadd { fS with dst := 0 }) (two 1 2)) 2 = some 1 := by
  decide +kernel

/-- R239: a result of two cycles is not there before they have passed. -/
theorem test_latency : (match exec (.sadd fS) (two 1 2) with
    | .next t => (t.readS 1, State.readS { t with cycle := t.cycle + 1 } 1, State.readS { t with cycle := t.cycle + 2 } 1)
    | _ => (9, 9, 9)) = (0, 0, 3) := by decide +kernel

/-- R248: 1.0 + 2.0 is 3.0, and 1.0 / 0.0 is infinity with DBZ's flag in FLG. -/
theorem test_scalar_float : sAfter (exec (.sfadd fS) (two 0x3F800000 0x40000000)) 1 = some 0x40400000 ∧
    sAfter (exec (.sfmul fS) (two 0x40400000 0x40000000)) 1 = some 0x40C00000 ∧
    sAfter (exec (.sfdiv fS) (two 0x3F800000 0)) 1 = some 0x7F800000 := by decide +kernel

/-- v2 and v4 hold two values in lane 0. -/
def lane (a b : W32) : State := (one.writeV 2 1 fun _ => a).writeV 4 1 fun _ => b

/-- R271: element sums wrap; VADDS clamps (R216). -/
theorem test_vector_sums : vAfter (exec (.vadd fV) (lane 0xFFFFFFFF 2)) 8 0 = some 1 ∧
    vAfter (exec (.vadd { fV with ty := .n8x4 }) (lane 0x01FF80FF 0x01018001)) 8 0 = some 0x02000000 ∧
    vAfter (exec (.vaddsI { fV with ty := .i16x2 }) (lane 0x7FFF8000 0x0001FFFF)) 8 0 = some 0x7FFF8000 ∧
    vAfter (exec (.vadd fV) (lane 1 2)) 8 1 = some 0 := by decide +kernel

/-- R273's example: vnarrow.i16x2 of 40,000 and -3 with SAT writes 0xFFFD_7FFF and sets FLG.SAT. -/
theorem test_narrow : vAfter (exec (.vnarrowI { fV with ty := .i16x2, sat := true }) (lane 40000 (-3))) 8 0 = some 0xFFFD7FFF ∧
    (match exec (.vnarrowI { fV with ty := .i16x2, sat := true }) (lane 40000 (-3)) with
     | .next t => t.wv.flg == Flag.sat
     | _ => false) = true := by decide +kernel

/-- R276: a fused multiply-add rounds once: (1 + 2^-12)^2 - (1 + 2^-11) = 2^-24. -/
theorem test_fma : vAfter (exec (.vfma { fV with ty := .f32, c := .vec 6 })
    ((((one.writeV 2 1 fun _ => 0x3F800800).writeV 4 1 fun _ => 0x3F800800).writeV 6 1 fun _ => 0xBF801000))) 8 0 = some 0x33800000 := by decide +kernel

/-- R271: mask logic in the active lanes alone. -/
theorem test_mask : (match exec (.mand { fV with dst := 3, a := .vec 1, b := .vec 2 })
      (({ base with st := { base.st with exec := 0xFF } }.writeM 1 0xFFF 0xF0F).writeM 2 0xFFF 0xFFF) with
    | .next t => some (State.readM { t with cycle := t.cycle + 100 } 3)
    | _ => none) = some 0x00F := by decide +kernel

/-- R363: a trap saves the next PC and its code, and goes to the handler. -/
theorem test_trap : (match exec (.trap { fQ with dst := 0, code := 0x1234 }) one with
    | .next t => (t.st.trap.cause, t.st.trap.info0, t.st.trap.hmode, t.st.pc)
    | _ => (0, 0, false, 1)) = (0x12, 0x1234, true, one.sq.inst.region.handler) := by decide +kernel

/-- R268's example: 64 lanes, m3 = 0xFF, DETTHR 8: the 56 lanes go on and the 8 become fragment 1 at the target. -/
def brv : BF := { fB with ldelta := 1, rld := 2, msrc := 3, token := 5 }
def detach8 : State :=
  let s := base.writeM 3 (BitVec.allOnes 64) 0xFF
  { s with wv := { s.wv with detthr := 8 }, st := { s.st with npc := 0x10001 } }

theorem test_branch_page : detach8.landing 0x10040 = .noLand := by decide +kernel

/-- The code's second line, with LAND on its first slot. -/
def landed8 : State := { detach8 with mem := Tab.putAll detach8.mem (fun _ => 0) ((makeLine [0x4D] 1 0 0).zipIdx.map fun (e : W8 × Nat) => (0x200040 + e.2, e.1)) }

theorem test_branch : (match exec (.brv brv) landed8 with
    | .next t => (t.st.exec == 0xFFFFFFFFFFFFFF00 && t.st.pc == 0x10001 && t.wv.frags.map (fun x => (x.fid, x.exec, x.pc)) == [(1, 0xFF, 0x10040)] &&
        t.st.stack.map (fun e => (e.mask, e.token, e.frags)) == [(BitVec.allOnes 64, 5, [1])])
    | _ => false) = true := by decide +kernel

/-- R302, R297: a store's bytes are what a load reads, little-endian. -/
theorem test_store_load : (match exec (.vstGlobal { fM with data := .vec 2, off := 0x100 }) ((mem1.writeV 2 1 fun _ => 0x12345678)) with
    | .next t => (t.byteAt 0x200100, t.byteAt 0x200103, t.byteAt 0x200104, vAfter (exec (.vldGlobal { fM with off := 0x100 }) t) 8 0)
    | _ => (0, 0, 0, none)) = (0x78, 0x12, 0, some 0x12345678) := by decide +kernel

/-- R305: an atomic addition answers the old value. -/
theorem test_atomic : (match exec (.atomI32 { fA with off := 0x80, scope := .pkg }) (mem1.writeV 2 1 fun _ => 5) with
    | .next t => (t.byteAt 0x200080, vAfter (exec (.atomI32 { fA with off := 0x80 }) t) 8 0)
    | _ => (0, none)) = (5, some 5) := by decide +kernel

/-- R186, R230: a step fetches, decodes and performs the instruction at the PC, and goes on to the next slot. -/
theorem test_step : (match step base with
    | .next t => (t.st.pc, t.st.wait == .none, t.wv.flg)
    | _ => (0, false, 1)) = (0x10001, true, 0) := by decide +kernel

/-- R232: a joined SLI takes both slots. -/
theorem test_step_joined : (match step (State.reset.withFetchWord 192 (0x019 + 1 * 2 ^ 20 + 2 ^ 96 * 0x123456789)) with
    | .next t => (t.st.pc, State.readS { t with cycle := t.cycle + 9 } 1)
    | _ => (0, 0)) = (0x10002, 0x123456789) := by decide +kernel

/-! ### States that meet the statements' hypotheses, one theorem for each statement that has some -/

theorem witness_ScalarOperandValues : (0x3F : W8).toNat < 0x40 ∧ 0x40 ≤ (0x40 : W8).toNat ∧ 0x40 ≤ (0x5F : W8).toNat ∧ (0x5F : W8).toNat < 0x60 ∧
    one.sval (.inl 0x3F) 0 none = 63 ∧ one.sval (.inl 0x40) 0 none = -32 ∧ one.sval (.inl 0x5F) 0 none = -1 := by decide +kernel
theorem witness_ScalarIntegerTable : ∀ mk ∈
    [Instr.sadd, .ssub, .smul, .smulhI, .smulhN, .sand, .sor, .sxor, .sandn, .sshl, .sshr, .ssra, .srot, .sminI, .sminN, .smaxI,
    .smaxN, .scmpI, .scmpN, .ssel, .smov, .sli, .sclz, .spopc, .saddr, .ssext, .sabs], base.clear (mk fS) := by decide +kernel
theorem witness_ScalarDivisionTable : ∀ mk ∈
    [Instr.sdivI, .sdivN, .sremI, .sremN], base.clear (mk fS) := by decide +kernel
theorem witness_ScalarBitFields : ∀ mk ∈
    [Instr.sbfxI, .sbfxN, .sbfi], base.clear (mk fS) := by decide +kernel
theorem witness_ScalarFloatTable : ∀ mk ∈
    [Instr.sfadd, .sfmul, .sffma, .sfdiv, .sfsqrt, .sfmin, .sfmax, .sfcmp, .sfcvt], base.clear (mk fS) := by decide +kernel
theorem witness_VectorIntegerTable : ∀ mk ∈
    [Instr.vadd, .vsub, .vmul, .vmulhI, .vmulhN, .vmad, .vminI, .vminN, .vmaxI, .vmaxN, .vclampI, .vclampN, .vabsdI, .vabsdN, .vavgI,
    .vavgN, .vaddsI, .vaddsN, .vsubsI, .vsubsN, .vrshrI, .vrshrN, .vmulwI, .vmulwN], base.clear (mk fV) := by decide +kernel
theorem witness_VectorBitwiseTable : ∀ mk ∈
    [Instr.vand, .vor, .vxor, .vandn, .vshl, .vshr, .vsra, .vrot, .vclz, .vpopc, .vshls], base.clear (mk fV) := by decide +kernel
theorem witness_VectorDotAndWidth : ∀ mk ∈
    [Instr.vdot2I, .vdot2N, .vdot4I, .vdot4N, .vnarrowI, .vnarrowN, .vwidenI, .vwidenN], base.clear (mk fV) := by decide +kernel
theorem witness_VectorFieldsAndMoves : ∀ mk ∈
    [Instr.vbfxN, .vbfxI, .vbfi, .vcmpI, .vcmpN, .vsel, .vmov, .vlut], base.clear (mk fV) := by decide +kernel
theorem witness_VectorFloatArithmetic : ∀ mk ∈
    [Instr.vfadd, .vfsub, .vfmul, .vfma, .vflrp, .vfmin, .vfminNum, .vfmax, .vfmaxNum, .vfclamp, .vfamax, .vfsign, .vfrnd, .vfscale,
    .vfdot2], base.clear (mk fV) := by decide +kernel
theorem witness_VectorFloatCompare : ∀ mk ∈
    [Instr.vfcmp, .vfclass], base.clear (mk fV) := by decide +kernel
theorem witness_VectorSpecialFunctions : ∀ mk ∈
    [Instr.vfrcp, .vfrsq, .vfsqrt, .vfdiv, .vfexp2, .vflog2, .vftanh, .vferf, .vfsigm, .vfsin, .vfcos], base.clear (mk fV) := by decide +kernel
theorem witness_VectorConversions : ∀ mk ∈
    [Instr.vfcvtw, .vfcvtn, .vfcvts, .vicvtI, .vicvtN, .vfcvtiI, .vfcvtiN], base.clear (mk fV) := by decide +kernel
theorem witness_VectorBlockPacking : ∀ mk ∈
    [Instr.vfpack4, .vfunpk4], base.clear (mk fV) := by decide +kernel
theorem witness_MaskInstructions : ∀ mk ∈
    [Instr.mand, .mor, .mxor, .mandn, .mnot, .mmov, .mshift, .mset, .mpopc, .mfirst, .mlast, .mget, .voteAny, .voteAll, .voteEq,
    .voteBallot], base.clear (mk fV) := by decide +kernel
theorem witness_LaneMoves : ∀ mk ∈
    [Instr.shflIdx, .shflXor, .vbcast, .vrev, .vext, .vins], base.clear (mk fV) := by decide +kernel
theorem witness_ReductionsAndScans : ∀ mk ∈
    [Instr.vredInt, .vredFloat, .vscanInt, .vscanFloat], base.clear (mk fV) := by decide +kernel
theorem witness_CompactAndRagged : ∀ mk ∈
    [Instr.vcompact, .vragg], base.clear (mk fV) := by decide +kernel

/-- The squad owns the first stripe of the scratchpad, and s5 holds an offset in it. -/
def sp1 : State := { one with sq := { one.sq with stripes := [0] } }.writeS 5 0x100

abbrev meetsLoad (mk : MF → Instr) (sp : MF → Space) (addr : State → MF → Nat → W64) (f : MF) (s : State) : Prop :=
  ∃ xs, s.clear (mk f) ∧ (s.landed (mk f)).places (sp f) ((s.landed (mk f)).laneVas f.h (addr (s.landed (mk f)) f)) f.width.bytes .read servesVector = some xs ∧
    (let ys := xs.map (·.policy f.cpol)
     let s1 := ((s.landed (mk f)).undenied (sp f) xs).fresh ys f.order (readsPast ys f.order f.scope)
     ((s.landed (mk f)).undenied (sp f) xs).delivered ys f.width.bytes f.order = true ∧ s1.readable (readsPast ys f.order f.scope) ys f.width.bytes)

/-- base + index·2^SHIFT + OFF, as the forms of VLD and VST give it. -/
abbrev flat (s : State) (f : MF) (l : Nat) : W64 := s.readS f.base.toNat + (s.indexAt f.index l <<< f.shift.toNat) + MF.offset f

theorem witness_VectorLoads :
    meetsLoad .vldGlobal (fun _ => .global) flat fM mem1 ∧
    meetsLoad .vldScratch (fun _ => .scratch) flat { fM with space := .scratch } sp1 ∧
    meetsLoad .vldCluster (fun _ => .cluster) flat { fM with space := .cluster } sp1 ∧
    meetsLoad .vldb (·.space) (fun s f l => s.readS f.base.toNat + MF.offset f + BitVec.ofNat 64 (l * f.width.bytes)) fM mem1 ∧
    meetsLoad .vldx (·.space) (fun s f l => s.readS f.base.toNat + MF.offset f + BitVec.ofNat 64 l * s.indexAt f.index l) fM mem1 := by
  refine ⟨⟨_, by decide +kernel, rfl, ?_⟩, ⟨_, by decide +kernel, rfl, ?_⟩, ⟨_, by decide +kernel, rfl, ?_⟩, ⟨_, by decide +kernel, rfl, ?_⟩,
    ⟨_, by decide +kernel, rfl, ?_⟩⟩ <;> (unfold State.readable; decide +kernel)

abbrev meetsScalarLoad (mk : MF → Instr) (sp : MF → Space) (f : MF) (s : State) : Prop :=
  ∃ x ys, s.clear (mk f) ∧ (s.landed (mk f)).places (sp f) ((s.landed (mk f)).uniform (flat (s.landed (mk f)) f 0)) f.width.bytes .read
      (servesScalar f.width) = some (x :: ys) ∧
    (let s1 := (s.landed (mk f)).undenied (sp f) (x :: ys)
     let y := x.policy f.cpol
     s1.isMmio x = false ∧ s1.delivered [y] f.width.bytes f.order = true ∧
       (s1.fresh [y] f.order (readsPast [y] f.order f.scope)).readable (readsPast [y] f.order f.scope) [y] f.width.bytes)

def fL : MF := { fM with data := .sca 1 }

theorem witness_ScalarLoads :
    meetsScalarLoad .sldGlobal (·.space) fL mem1 ∧ meetsScalarLoad .sldGlobal (·.space) { fL with space := .scratch } sp1 ∧
    meetsScalarLoad .sldParam (fun _ => .param) { fL with space := .param } mem1 := by
  refine ⟨⟨_, _, by decide +kernel, rfl, ?_⟩, ⟨_, _, by decide +kernel, rfl, ?_⟩,
    ⟨_, _, by decide +kernel, rfl, ?_⟩⟩ <;> (unfold State.readable; decide +kernel)

abbrev meetsStore (mk : MF → Instr) (sp : MF → Space) (addr : State → MF → Nat → W64) (f : MF) (s : State) : Prop :=
  ∃ xs, s.clear (mk f) ∧ (s.landed (mk f)).places (sp f) ((s.landed (mk f)).laneVas f.h (addr (s.landed (mk f)) f)) f.width.bytes .write servesVector = some xs ∧
    (let ys := xs.map (·.policy f.cpol)
     let s1 := (s.landed (mk f)).undenied (sp f) xs
     (Order.releases f.order = true → s1.windowOwed = false) ∧ (s1.flushed ys f.order).mergeViolations ys f.width.bytes = [])

theorem witness_VectorStores :
    meetsStore .vstGlobal (fun _ => .global) flat fM mem1 ∧
    meetsStore .vstGlobal (fun _ => .global) flat { fM with order := .rel } mem1 ∧
    meetsStore .vstScratch (fun _ => .scratch) flat { fM with space := .scratch } sp1 ∧
    meetsStore .vstCluster (fun _ => .cluster) flat { fM with space := .cluster } sp1 ∧
    meetsStore .vstx (·.space) (fun s f l => s.readS f.base.toNat + MF.offset f + BitVec.ofNat 64 l * s.indexAt f.index l) fM mem1 := by
  refine ⟨⟨_, by decide +kernel, rfl, ?_⟩, ⟨_, by decide +kernel, rfl, ?_⟩, ⟨_, by decide +kernel, rfl, ?_⟩, ⟨_, by decide +kernel, rfl, ?_⟩,
    ⟨_, by decide +kernel, rfl, ?_⟩⟩ <;> decide +kernel

theorem witness_ScalarStoreAndCacheControl :
    (∃ x ys, mem1.clear (.sst fL) ∧ (mem1.landed (.sst fL)).places .global ((mem1.landed (.sst fL)).uniform (flat (mem1.landed (.sst fL)) fL 0)) 4 .write
        (servesScalar .b32) = some (x :: ys) ∧
      (let s1 := (mem1.landed (.sst fL)).undenied .global (x :: ys)
       let y := x.policy fL.cpol
       s1.isMmio x = false ∧ (Order.releases fL.order = true → s1.windowOwed = false) ∧
         (s1.flushed [y] fL.order).mergeViolations [y] 4 = [])) ∧
    (mem1.clear (.pref fM) ∧ ∀ x ∈ (mem1.landed (.pref fM)).laneVas h0 ((mem1.landed (.pref fM)).addrAt fM), noncanon x.2 = false) ∧
    (∃ xs, mem1.clear (.cwb fM) ∧ (mem1.landed (.cwb fM)).places .global ((mem1.landed (.cwb fM)).laneVas h0 ((mem1.landed (.cwb fM)).addrAt fM)) 1 .read
        servesVector = some xs) ∧
    (∃ xs, mem1.clear (.cinv fM) ∧ (mem1.landed (.cinv fM)).places .global ((mem1.landed (.cinv fM)).laneVas h0 ((mem1.landed (.cinv fM)).addrAt fM)) 1 .read
        servesVector = some xs) := by
  refine ⟨⟨_, _, by decide +kernel, rfl, ?_⟩, by decide +kernel, ⟨_, by decide +kernel, rfl⟩, ⟨_, by decide +kernel, rfl⟩⟩
  decide +kernel

def fAdam : VF := { fV with b := .sca 5, a := .vec 2, ty := .f32 }

theorem witness_AdamStep :
    (∃ xs, sp1.clear (.vadam fAdam) ∧ (sp1.landed (.vadam fAdam)).places .scratch
        ((sp1.landed (.vadam fAdam)).laneVas fAdam.h fun _ => (sp1.landed (.vadam fAdam)).sval fAdam.b 0 none) 32 .read servesVector = some xs ∧
      ∀ x ∈ xs.head?, ((sp1.landed (.vadam fAdam)).fresh [] .rlx).locBad .nothing x.loc 32 = false) ∧
    ¬(FVal.isFin (fp32.decode 0x7F800000) ∧ True) := by
  refine ⟨⟨_, by decide +kernel, rfl, by decide +kernel⟩, by decide +kernel⟩

abbrev meetsAtomic (mk : AF → Instr) (k : Elem) (ofail : AF → Order) (op : AF → State → Nat → W64 → Option Nat) (one : Bool) (f : AF) (s : State) : Prop :=
  let s0 := s.landed (mk f)
  let addr (l : Nat) : W64 := s0.readS f.base.toNat + (s0.indexAt f.index l <<< f.shift.toNat) + f.off.signExtend 64
  ∃ ys, s.clear (mk f) ∧ s0.places .global (if one then s0.uniform (addr 0) else s0.laneVas f.h addr) k.bytes .atomic servesAtomic = some ys ∧
    (let xs := if one then ys.take 1 else ys
     let s1 := s0.undenied .global ys
     let o := rmwOrder f.ords (ofail f)
     let s2 := if Order.releases o then s1.flushMine else s1
     let s2' := (s2.flushFor (pasOf xs)).landFor (s2.rmwHome (Scope.narrow f.scope) xs ++ s2.otherThrough xs)
     let s3 := s2'.pin
     (Order.releases o = true → s1.windowOwed = false) ∧ s2'.violations xs = [] ∧ s2'.rmwHurt xs = [] ∧
       ∀ e ∈ (s3.rmwAll k s3.step16 (Scope.narrow f.scope) (op f s3) xs).1, e.2.isSome)

def fSA : AF := { fA with dst := some (.sca 1), val := .sca 2 }
def swaps (k : Elem) (sca : Bool) (f : AF) (s : State) (l : Nat) (old : W64) : Option Nat :=
  some (Elem.apply k f.aop f.unsignedT old.toNat (s.atomVal k sca f.val l).toNat)
def compares (k : Elem) (sca : Bool) (f : AF) (s : State) (l : Nat) (old : W64) : Option Nat :=
  if old.toNat = (s.atomVal k sca f.cmp l).toNat % 2 ^ (8 * k.bytes) then some ((s.atomVal k sca f.val l).toNat % 2 ^ (8 * k.bytes)) else none

theorem witness_AtomicInstructions :
    meetsAtomic .atomI32 .i32 (fun _ => .rlx) (swaps .i32 false) false fA mem1 ∧ meetsAtomic .atomI64 .i64 (fun _ => .rlx) (swaps .i64 false) false fA mem1 ∧
    meetsAtomic .atomF32 .f32 (fun _ => .rlx) (swaps .f32 false) false fA mem1 ∧ meetsAtomic .cas32 .i32 (·.ordf) (compares .i32 false) false { fA with cmp := .vec 4 } mem1 ∧
    meetsAtomic .cas64 .i64 (·.ordf) (compares .i64 false) false { fA with cmp := .vec 4 } mem1 ∧ meetsAtomic .satom .i64 (fun _ => .rlx) (swaps .i64 true) true fSA mem1 ∧
    meetsAtomic .scas .i64 (·.ordf) (compares .i64 true) true { fSA with cmp := .sca 3 } mem1 := by
  refine ⟨⟨_, by decide +kernel, rfl, ?_⟩, ⟨_, by decide +kernel, rfl, ?_⟩, ⟨_, by decide +kernel, rfl, ?_⟩, ⟨_, by decide +kernel, rfl, ?_⟩,
    ⟨_, by decide +kernel, rfl, ?_⟩, ⟨_, by decide +kernel, rfl, ?_⟩, ⟨_, by decide +kernel, rfl, ?_⟩⟩ <;> decide +kernel

abbrev meetsReduction (mk : AF → Instr) (k : Elem) (f : AF) (s : State) : Prop :=
  let s0 := s.landed (mk f)
  ∃ xs, s.clear (mk f) ∧ s0.places .global (s0.laneVas f.h fun l =>
      s0.readS f.base.toNat + (s0.indexAt f.index l <<< f.shift.toNat) + f.off.signExtend 64) k.bytes .atomic servesAtomic = some xs ∧
    (Order.releases f.ords = true → (s0.undenied .global xs).windowOwed = false)

theorem witness_ReductionInstructions : meetsReduction .redI32 .i32 fA mem1 ∧ meetsReduction .redI64 .i64 fA mem1 ∧
    meetsReduction .redF32 .f32 fA mem1 ∧ meetsReduction .redBf16x2 .bf16x2 fA mem1 := by
  refine ⟨⟨_, by decide +kernel, rfl, ?_⟩, ⟨_, by decide +kernel, rfl, ?_⟩, ⟨_, by decide +kernel, rfl, ?_⟩, ⟨_, by decide +kernel, rfl, ?_⟩⟩ <;>
    decide +kernel

/-- A second line of code with LAND on its first slot, of which s2 and lane 0 of v4, v5 name that slot; s3 holds one, s4 a PC that is none. -/
def land1 : State := (((landed8.writeS 2 0x10040).writeS 3 1).writeS 4 0x10045).writeV 4 1 fun _ => 0x10040
def fJ : BF := { fB with ldelta := 1, creg := 2 }

theorem witness_Transfers :
    (passes land1 (.bra fB) ∧ bcond .zero (land1.readS 2) = false ∧ bcond .zero (land1.readS 0) = true ∧ bcond .always 0 = true ∧
      (land1.landed (.bra fJ)).landing (BF.target fJ land1.st.pc) = .lands) ∧
    (passes land1 (.jmp fJ) ∧ (land1.landed (.jmp fJ)).landing (land1.readS 2) = .lands) ∧
    (passes land1 (.ret fJ) ∧ (land1.landed (.ret fJ)).landing (land1.readS 2) = .lands) ∧
    (passes land1 (.call fJ) ∧ (land1.landed (.call fJ)).landing (BF.target fJ land1.st.pc) = .lands) ∧
    (passes land1 (.loop { fJ with creg := 3 }) ∧ land1.readS 3 - 1 = 0) ∧
    (passes land1 (.loop fJ) ∧ land1.readS 2 - 1 ≠ 0 ∧ (land1.landed (.loop fJ)).landing (BF.target fJ land1.st.pc) = .lands) ∧
    passes land1 (.nop fB) := by decide +kernel

theorem witness_BadTargetsTrap :
    (passes land1 (.call { fJ with ldelta := 2 }) ∧ (land1.landed (.call { fJ with ldelta := 2 })).landing (BF.target { fJ with ldelta := 2 } land1.st.pc) = .noLand) ∧
    (passes land1 (.jmp { fJ with creg := 4 }) ∧ (land1.landed (.jmp { fJ with creg := 4 })).landing (land1.readS 4) = .misaligned) := by decide +kernel

/-- m3 = 0xFF of 64 lanes, as R268's example has it; DETTHR 0 leaves the smaller side on the stack. -/
theorem witness_DivergentBranch :
    (passes landed8 (.brv brv) ∧ (landed8.landed (.brv brv)).landing (BF.target brv landed8.st.pc) = .lands ∧ landed8.readM 3 ≠ landed8.st.exec) ∧
    landed8.readM 2 = 0 ∧ (~~~(landed8.readM 2)) = landed8.st.exec ∧
    ((∃ x r, landed8.freeFids = x :: r) ∧ popMask 0xFF ≤ landed8.wv.detthr.toNat ∧ 1 ≤ landed8.stackFree) ∧
    (2 ≤ landed8.stackFree ∧ ¬(popMask 0xFF ≤ (0 : Nat))) := by
  refine ⟨by decide +kernel, by decide +kernel, by decide +kernel, ⟨⟨_, _, rfl⟩, by decide +kernel⟩, by decide +kernel⟩

/-- Lanes 0 and 1 of v4 name two slots. -/
def jv : BF := { fB with creg := 2 }
def jv1 : State := ((State.writeV { landed8 with st := { landed8.st with exec := 1 } } 4 1 fun _ => 0x10040).writeV 5 1 fun _ => 0)
def jv2 : State :=
  let line : List (Nat × W8) := (makeLine [0x4D] 1 0 0).zipIdx.map fun (e : W8 × Nat) => (0x200080 + e.2, e.1)
  State.writeV { jv1 with st := { jv1.st with exec := 3 }, mem := Tab.putAll jv1.mem (fun _ => 0) line } 4 2 fun _ => 0x10080

theorem witness_VectorJump :
    (passes jv1 (.jmpv jv) ∧ (jv1.landed (.jmpv jv)).landing 0x10040 = .lands ∧ orderGroups (groupsOf [(0, 0x10040)]) = [(1, 0x10040)]) ∧
    (passes jv2 (.jmpv jv) ∧ (jv2.landed (.jmpv jv)).landing 0x10040 = .lands ∧ (jv2.landed (.jmpv jv)).landing 0x10080 = .lands ∧
      jv2.readV 4 0 = 0x10040 ∧ jv2.readV 4 1 = 0x10080 ∧
      (orderGroups (groupsOf [(0, 0x10040), (1, 0x10080)])).length = 2 ∧ 3 ≤ jv2.stackFree) := by decide +kernel

/-- A stream with one entry on its stack. -/
def stacked (e : StackEntry) (fid : Nat) : State := { landed8 with st := { landed8.st with stack := [e], fid, token := 5 } }
def join5 : StackEntry := { sibling := false, pc := 0, mask := 3, recon := 0x10040, fmt := fmtReset, token := 5, frags := [], dist := [] }
def fT : BF := { fB with token := 5 }

theorem witness_Merging :
    (passes landed8 (.rjoin fT) ∧ landed8.st.stack = [] ∧ landed8.st.fid = 0) ∧
    (passes (stacked join5 1) (.rjoin fT) ∧ (stacked join5 1).st.fid ≠ 0 ∧ (stacked join5 1).st.token = fT.token) ∧
    (passes (stacked join5 0) (.rjoin fB) ∧ join5.token ≠ fB.token) ∧
    (passes (stacked { join5 with sibling := true } 0) (.rjoin fT) ∧ join5.token = fT.token) ∧
    passes (stacked { join5 with frags := [1] } 0) (.rjoin fT) ∧
    join5.mask &&& ~~~(stacked join5 0).wv.exited ≠ 0 := by decide +kernel

theorem witness_LeavingAndWaiting :
    (passes (stacked { join5 with sibling := true } 0) (.detach fB) ∧ ∃ x r, (stacked { join5 with sibling := true } 0).freeFids = x :: r) ∧
    (passes landed8 (.detach fB) ∧ ∀ e ∈ landed8.st.stack.head?, e.sibling = false) ∧
    passes base (.exit fB) ∧ passes base (.tend fB) ∧
    (passes base (.yield fB) ∧ base.hasSibling = false ∧
      ∀ q ∈ (base.landed (.yield fB)).residents base.sq.core, ∀ e ∈ Squad.streams q, e.2.active = true) ∧
    (passes land1 (.nap { fB with creg := 3 }) ∧ land1.hasSibling = false ∧ land1.readS 3 ≠ 0 ∧ land1.readS 0 = 0) := by
  refine ⟨⟨by decide +kernel, ⟨_, _, rfl⟩⟩, ?_⟩
  decide +kernel

/-- A stream in its handler, which was entered at the PC 0x10001 with lane 0. -/
def handler : State :=
  { base with st := { base.st with trap := { base.st.trap with hmode := true, pc := 0x10001, exec := 1, fmt := fmtReset } } }

/-- FMT may be written at any time, TPC only in handler mode, SQID never. -/
theorem witness_ControlRegisterAccess :
    passes base (.xrd fQ) ∧
    (∀ mk ∈ [Instr.xwr, .xset, .xclr], passes base (mk fQ) ∧ passes base (mk { fQ with xreg := 0x031 })) ∧
    base.writeX 0x000 0 0 = .ok (base.setFmt 0) ∧ base.writeX 0x031 0 0 = .prot 0xA := by
  refine ⟨by decide +kernel, by decide +kernel, rfl, rfl⟩

theorem witness_WritableControlRegisters : handler.st.trap.hmode = true ∧ base.st.trap.hmode = false ∧
    pcValid (0x10004 &&& 0x7FFFFFFFFFFFFF) = true ∧ pcValid (0x10005 &&& 0x7FFFFFFFFFFFFF) = false := by decide +kernel

theorem witness_FormatTimeAndFencei :
    (∀ mk ∈ [Instr.setfmt, .getfmt, .time, .waitt, .fencei], passes one (mk fQ)) ∧
    one.st.exec.getLsbD 0 = true ∧ one.st.exec.getLsbD 63 = false ∧
    ((0 : W64).toNat ≤ one.gtb.toNat ∧ one.gtb.toNat < (two 5 0).readS 2 ∧ (one.landed (.waitt fQ)).timersUsed one.sq.core < 16) := by decide +kernel

def bkpts : State := one.setReg (Mmio.partition one.sq.inst.part) 0x100

/-- A core whose sixteen timers are taken. -/
def timers16 : State := one.updCore one.sq.core fun x => { x with timers := List.replicate 16 ({ cmd := 0, time := 0 } : Timer) }

theorem witness_timers : passes timers16 (.waitt fQ) ∧ 16 ≤ (timers16.landed (.waitt fQ)).timersUsed timers16.sq.core := by decide +kernel

theorem witness_SupervisorInstructions :
    (∀ mk ∈ [Instr.trap, .bkpt, .svc, .errack, .rte], passes one (mk fQ)) ∧ passes handler (.errack fQ) ∧
    (one.part one.sq.inst.part 0).getLsbD 8 = false ∧ (passes bkpts (.bkpt fQ) ∧ (bkpts.part bkpts.sq.inst.part 0).getLsbD 8 = true) ∧
    (passes handler (.rte fQ) ∧ handler.st.trap.hmode = true ∧ handler.st.trap.exec &&& ~~~handler.st.trap.hexit ≠ 0 ∧
      handler.st.trap.pend = false ∧ handler.sq.overtime = none) := by decide +kernel

theorem witness_TrapEntry : one.st.trap.hmode = false ∧ handler.st.trap.hmode = true := by decide +kernel

theorem witness_AsynchronousErrors : one.st.trap.hmode = false ∧ (handler.st.trap.hmode = true ∧ handler.st.trap.pend = false) ∧
    (handler.asyncError 0x10 0).st.trap.pend = true := by decide +kernel

/-- The wave of `base` has one granule of the largest registers that its base terms name; v200 is not among them. -/
theorem witness_UnallocatedRegisterTraps :
    (Instr.vadd { fV with dst := 0x1FE }).shape.named.unallocated { base with wv := { base.wv with gran := 1 } }.wv.gran = true := by decide +kernel

/-- s2 is under its stall; v8 awaits an MRD. -/
def fresh : State := { one with wv := { one.wv with sbchk := true }, st := { one.st with dist := [(.sca 2, one.st.issued + 1)] } }
def someMacro : MacroOp :=
  { id := 0, who := one.me, op := opMrd, imm := 8, d := [], step := 0, chunk := 0, pass := 0, running := false, suspended := false, pc := 0, lanes := [], mask := 0, cons := none }
def rowDue : State := one.updCore one.sq.core fun x => { x with mq := [someMacro] }

theorem witness_StallUnderTraps :
    ((Instr.sadd fS).shape.named.unallocated fresh.wv.gran = false ∧ fresh.stallUnder (Instr.sadd fS).shape.named = some (.sca 2)) ∧
    ((Instr.vadd fV).shape.named.unallocated rowDue.wv.gran = false ∧ rowDue.stallUnder (Instr.vadd fV).shape.named = none ∧
       rowDue.awaitsRow (Instr.vadd fV).shape.named = true) := by decide +kernel

def shadowed : State := { one with wv := { one.wv with shadow := true }, upset := 1 }

theorem witness_DuplicateMismatchConsumes :
    ∀ i ∈ [Instr.sadd fS, .vadd fV, .vldGlobal fM, .atomI32 fA], i.shape.named.unallocated shadowed.wv.gran = false ∧
      shadowed.stallUnder i.shape.named = none ∧ shadowed.awaitsRow i.shape.named = false ∧ shadowed.wv.shadow = true ∧ shadowed.upset ≠ 0 := by
  decide +kernel

/-- A word at [s5] of the first stripe; all lanes of the wave execute. -/
def bar1 : State := { sp1 with st := { sp1.st with exec := BitVec.allOnes 64 } }.writeS 1 1
def fW : MF := { fM with data := .sca 1, width := .b64, space := .scratch }
def barLoc : LaneLoc := ⟨0, 0x100, .sp (.core 0) 0x100 true⟩

theorem witness_BarrierArrival : (0x0002000100000002 : W64).extractLsb' 0 16 = 2 ∧
    ((0x00010002 : W64).extractLsb' 0 16).toNat ≤ ((0x00010002 : W64).extractLsb' 16 16).toNat + 1 ∧
    ((0x00000002 : W64).extractLsb' 16 16).toNat + 1 < ((0x00000002 : W64).extractLsb' 0 16).toNat := by decide

theorem witness_Barriers :
    atBarrier bar1 (bar1.landed (.bar fW)) (.bar fW) fW barLoc (.core 0) 0x100 true ∧
    atBarrier bar1 (bar1.landed (.bara fW)) (.bara fW) fW barLoc (.core 0) 0x100 true ∧
    (atBarrier bar1 (bar1.landed (.barw fW)) (.barw fW) fW barLoc (.core 0) 0x100 true ∧ bar1.hasSibling = false) ∧
    (sp1.clear (.bar fW) ∧ (∃ x ys, (sp1.landed (.bar fW)).places .scratch ((sp1.landed (.bar fW)).uniform (wordOf sp1 fW)) 8 .write servesVector =
      some (x :: ys)) ∧ sp1.st.exec ≠ ~~~sp1.wv.exited) := by
  refine ⟨⟨by decide +kernel, by decide +kernel, rfl, ⟨_, rfl⟩, rfl, by decide, by decide +kernel, rfl, rfl, by decide +kernel⟩,
    ⟨by decide +kernel, by decide +kernel, rfl, ⟨_, rfl⟩, rfl, by decide, by decide +kernel, rfl, rfl, by decide +kernel⟩,
    ⟨⟨by decide +kernel, by decide +kernel, rfl, ⟨_, rfl⟩, rfl, by decide, by decide +kernel, rfl, rfl, by decide +kernel⟩, by decide +kernel⟩,
    by decide +kernel, ⟨_, _, rfl⟩, by decide +kernel⟩

/-- A byte of the stream's that its engines may not see yet. -/
def lag1 : State := mem1.updCore 0 fun x => { x with lags := [{ who := mem1.me, key := 0, pa := 0x200000, byte := 0, classes := [1, 3], since := 0 }] }

/-- A macro-operation of the stream is queued: XFENCE of class 2 waits. -/
theorem witness_Fences : (∃ l ∈ ((lag1.seenBy 0 1).core lag1.sq.core).lags, waveOf l.who = waveOf lag1.me ∧ 3 ∈ l.classes) ∧ (mem1.clear (.fence fM) ∧ mem1.windowOwed = false) ∧
    (mem1.clear (.xfence { fM with off := 2 }) ∧ (mem1.landed (.xfence { fM with off := 2 })).classBusy 2 = false) ∧
    (rowDue.clear (.xfence { fM with off := 2, data := .sca 0 }) ∧
      (rowDue.landed (.xfence { fM with off := 2, data := .sca 0 })).classBusy 2 = true) := by decide +kernel

abbrev meetsWait (mk : MF → Instr) (n : Nat) (f : MF) (s : State) : Prop :=
  ∃ x ys, s.clear (mk f) ∧ (s.landed (mk f)).places f.space ((s.landed (mk f)).uniform (wordOf s f)) n .read servesWait = some (x :: ys) ∧
    (let s1 := (s.landed (mk f)).undenied f.space (x :: ys)
     s1.delivered [x] n f.order = true ∧ (s1.fresh [x] f.order (readsPast [x] f.order f.scope)).readable (readsPast [x] f.order f.scope) [x] n) ∧ s.hasSibling = false

theorem witness_WaitAndWake :
    meetsWait .waita32 4 { fW with width := .b32 } sp1 ∧ meetsWait .waita64 8 { fW with space := .global } mem1 ∧
    (waitTest 0 0 0 = true ∧ waitTest 1 0 0 = false) ∧
    (sp1.clear (.wakea fW) ∧ ∃ x ys, (sp1.landed (.wakea fW)).places .scratch ((sp1.landed (.wakea fW)).uniform (wordOf sp1 fW)) 8 .read servesVector =
      some (x :: ys)) ∧
    (mem1.clear (.wakea { fW with space := .global }) ∧ noncanon (wordOf mem1 { fW with space := .global }) = false ∧
      (∃ e s1, (mem1.landed (.wakea { fW with space := .global })).prefetchEntry 0x10000 = some (e, s1) ∧ e.r = true ∧
        servesWait (s1.pageKind e 0x10000) = true) ∧ (wordOf mem1 { fW with space := .global }).toNat = 0x10000) := by
  refine ⟨⟨_, _, by decide +kernel, rfl, by unfold State.readable; decide +kernel, by decide +kernel⟩,
    ⟨_, _, by decide +kernel, rfl, by unfold State.readable; decide +kernel, by decide +kernel⟩, by decide, ⟨by decide +kernel, ⟨_, _, rfl⟩⟩,
    by decide +kernel, by decide +kernel, ⟨_, _, rfl, by decide +kernel, by decide +kernel⟩, by decide +kernel⟩

theorem witness_PersistInstructions :
    (let f : MF := { fM with index := .inl 8 }
     mem1.clear (.pflush f) ∧ noncanon (wordOf mem1 f) = false ∧ (wordOf mem1 f).toNat + 7 < 2 ^ 55 ∧
      ((mem1.landed (.pflush f)).pagePrefix ((pagesOf (wordOf mem1 f).toNat 7).drop mem1.st.flushed)).2 = none) ∧
    (let s := mem1.writeS 3 0x10001
     let f : MF := { fM with index := .sca 3 }
     s.clear (.pflush f) ∧ noncanon (wordOf s f) = false ∧ (wordOf s f).toNat + 0x10000 < 2 ^ 55 ∧
      (let r := (s.landed (.pflush f)).pagePrefix ((pagesOf (wordOf s f).toNat 0x10000).drop s.st.flushed)
       r.1 ≠ [] ∧ r.2.isSome = true)) ∧
    (∃ xs, mem1.clear (.pflushv fM) ∧ (mem1.landed (.pflushv fM)).places .global ((mem1.landed (.pflushv fM)).laneVas h0
        ((mem1.landed (.pflushv fM)).addrAt fM)) 1 .read servesVector = some xs) ∧
    mem1.clear (.pbar fM) ∧ mem1.clear (.pstat fL) := by
  refine ⟨by decide +kernel, by decide +kernel, ⟨_, by decide +kernel, rfl⟩, by decide +kernel, by decide +kernel⟩

/-- Snapshot set 3 is bound to the instance's step holder; s7 names it. -/
def bound3 : State := (one.setReg (Mmio.snapSet 3) 0x5101).writeS 7 3
def ahead3 : State := bound3.setSnap 3 { SnapSet.none with walkedOnce := true, lstep := 0xC001 }

theorem witness_StepAndSnap :
    (let f : MF := fL
     (rowDue.clear (.stepset { f with data := .sca 0 }) ∧ ((rowDue.landed (.stepset { f with data := .sca 0 })).pin).anyBusy = true) ∧
     (ahead3.clear (.stepset f) ∧ (((ahead3.landed (.stepset f)).pin).anyBusy || ((ahead3.landed (.stepset f)).pin).windowOwed) = false ∧
       ((ahead3.landed (.stepset f)).pin.flushMine.selfInvalidate 0).outOfWindow (((ahead3.landed (.stepset f)).pin).step16 + 1) = true) ∧
     (bound3.clear (.stepset f) ∧ (((bound3.landed (.stepset f)).pin).anyBusy || ((bound3.landed (.stepset f)).pin).windowOwed) = false ∧
       ((bound3.landed (.stepset f)).pin.flushMine.selfInvalidate 0).outOfWindow (((bound3.landed (.stepset f)).pin).step16 + 1) = false)) ∧
    (let f : MF := { fL with base := 7 }
     bound3.clear (.snap f) ∧ ((bound3.landed (.snap f)).pin).snapRefusal (bound3.readS 7).toNat 0 = 0 ∧
       ((bound3.landed (.snap f)).pin).snapRefusal (bound3.readS 7).toNat 1 = 2) := by decide +kernel

/-- The squad owns its core's scratchpad, and the wave tile 0 and the baton; s2 and s4 hold row pitches of 128 and 512 bytes, s3 a tile pitch. -/
def eng1 : State :=
  let s : State := { one with sq := { one.sq with stripes := List.range 32 } }
  (((s.updCore s.sq.core fun x => { x with baton := some s.myWave, tileOwner := [(0, s.myWave)] }).writeS 2 (128 <<< 20)).writeS 3 16384).writeS 4 (512 <<< 20)
def fE : XF := { fX with d0 := 2, d1 := 3, d2 := 2, d3 := 3, d4 := 2, d5 := 2, imm := 0x40 }
def fT4 : XF := { fX with d0 := 4, d1 := 0 }
/-- The baton is another wave's, and this one waits for it or does not. -/
def elsewhere (queue : Bool) : State :=
  eng1.updCore eng1.sq.core fun x => { x with baton := none, fifo := if queue then [eng1.myWave] else [] }

theorem witness_MacroOperationIssue :
    (∀ e ∈ [(Instr.mmaFp8, 0x120, fE), (.mmaBf16, 0x121, fE), (.mmaF16, 0x121, fE), (.mmaInt8, 0x122, fE), (.mmas, 0x123, fE), (.mzero, 0x124, fX),
        (.mld, 0x125, fT4), (.mst, 0x126, fT4), (.mstBand, 0x127, fT4), (.mscl, 0x12A, fX)],
      passes eng1 (e.1 e.2.2) ∧ (eng1.core eng1.sq.core).baton = some eng1.myWave ∧ (eng1.core eng1.sq.core).grantAt ≤ eng1.cycle ∧
        (eng1.landed (e.1 e.2.2)).opFault e.2.1 e.2.2.imm ((eng1.landed (e.1 e.2.2)).dvals e.2.2) = none ∧ (eng1.core eng1.sq.core).queued < 16 ∧
        passes (elsewhere false) (e.1 e.2.2) ∧ passes (elsewhere true) (e.1 e.2.2)) ∧
    (∀ b, ((elsewhere b).core (elsewhere b).sq.core).baton ≠ some (elsewhere b).myWave ∧
      ((elsewhere b).core (elsewhere b).sq.core).fifo.contains (elsewhere b).myWave = b) ∧
    (eng1.opFault 0x120 1 (eng1.dvals fE)).isSome = true := by decide +kernel

theorem witness_Baton :
    (∀ mk ∈ [Instr.batonTake, .batonPass, .batonQuery], passes eng1 (mk fX) ∧ passes (elsewhere true) (mk fX)) ∧
    (let s : State := eng1.updCore 0 fun x => { x with fifo := [(eng1.myWave.1, eng1.myWave.2 + 1)], hold := 4096 }
     (∃ w, (s.core 0).baton = some w) ∧ (∃ y r, (s.core 0).fifo = y :: r) ∧ 4096 ≤ (s.core 0).hold) := by
  refine ⟨by decide +kernel, ⟨_, rfl⟩, ⟨_, _, rfl⟩, by decide +kernel⟩

/-- Tile 1 is another wave's. -/
def tile1 : State := eng1.updCore eng1.sq.core fun x => { x with tileOwner := x.tileOwner ++ [(1, (eng1.myWave.1, eng1.myWave.2 + 1))] }
/-- An operation of the stream on tile 0 is queued, at its step 0. -/
def queued1 : State := eng1.updCore eng1.sq.core fun x => { x with mq := [{ someMacro with who := eng1.me, op := 0x124, imm := 0 }] }

theorem witness_TilesRowsAndWaits :
    (passes eng1 (.macq { fX with imm := 1 }) ∧ (eng1.core eng1.sq.core).macqWait = [] ∧ (eng1.core eng1.sq.core).grantable eng1.myWave 1 = true) ∧
    (passes tile1 (.macq { fX with imm := 2 }) ∧ (tile1.core tile1.sq.core).grantable tile1.myWave 2 = false) ∧
    (passes tile1 (.macq { fX with imm := 0x102 }) ∧ (tile1.core tile1.sq.core).macqWait = []) ∧
    passes eng1 (.mrel { fX with imm := 1 }) ∧
    (passes eng1 (.mrd { fX with imm := 8 }) ∧ passes eng1 (.mwr { fX with imm := 8 }) ∧ eng1.ownsTile 0 = true ∧ (eng1.core eng1.sq.core).mq = [] ∧
      (eng1.core eng1.sq.core).tilePoison = []) ∧
    (passes eng1 (.mwait fX) ∧ (eng1.core eng1.sq.core).mq.any (fun e => eng1.issuedHere e.who e.id) = false ∧ eng1.windowOwed = false) ∧
    (passes queued1 (.mwait fX) ∧ (queued1.core queued1.sq.core).mq.any (fun e => queued1.issuedHere e.who e.id) = true) ∧
    (passes eng1 (.mstep fX) ∧ (eng1.core eng1.sq.core).mq.find? (fun e => eng1.issuedHere e.who e.id && e.isMacro && (eng1.st.flushed == 0 || e.id + 1 == eng1.st.flushed)) = none) ∧
    (passes queued1 (.mstep { fX with imm := 1 }) ∧
      ((queued1.core queued1.sq.core).mq.find? fun e =>
        queued1.issuedHere e.who e.id && e.isMacro && (queued1.st.flushed == 0 || e.id + 1 == queued1.st.flushed)).map (fun e => decide (e.step < 1)) = some true) := by
  decide +kernel

theorem witness_MacroOperationStep :
    ∃ m, (queued1.core 0).current queued1.cycle = some m ∧ m.pass = false ∧ queued1.frozen.contains (clusterOfCore 0) = false ∧ queued1.opsPaused = false ∧
      ∀ o ∈ m.stepReads, queued1.spBad (.core 0) o = false := by
  refine ⟨_, rfl, by decide +kernel, by decide +kernel, by decide +kernel, by decide +kernel⟩

theorem witness_ChunkArithmetic : [1, 2].length = [3, 4].length := rfl

/-- s8 = 0, s9 and s12 name two layout records of one byte, scratchpad to scratchpad and memory to memory; s10 names a completion word, s11 is
1, s14 names a follow-on block, s15 a time to come. -/
def cpy1 : State :=
  let put (s : State) (pa : Nat) (bs : List W8) : State :=
    { s with mem := Tab.putAll s.mem (fun _ => 0) (bs.zipIdx.map fun (e : W8 × Nat) => (pa + e.2, e.1)) }
  let s0 := put (put eng1 0x201000 (leBytes 8 0xA0 ++ leBytes 8 1)) 0x201040 (leBytes 8 0 ++ leBytes 8 1)
  let s1 := s0.spWriteAt (.core 0) 0x400 (leBytes 8 (0x120 * 2 ^ 32 + 0x40) ++ leBytes 8 (128 * 2 ^ 20) ++ leBytes 8 16384 ++ leBytes 8 (128 * 2 ^ 20) ++ leBytes 8 16384)
  ((((((s1.writeS 9 0x11000).writeS 10 0x100).writeS 11 1).writeS 12 0x11040).writeS 13 0x10000).writeS 14 0x400).writeS 15 1000000

def fC : XF := { fX with d0 := 8, d1 := 8, d2 := 9, d3 := 10, d4 := 0, d5 := 0 }

abbrev accepts (mk : XF → Instr) (op : Nat) (cluster : Bool) (block : List W64) (f : XF) (s : State) : Bool :=
  let s0 := s.landed (mk f)
  decide (passes s (mk f)) && s0.wordFault (dval (s.dvals f) 3) 8 cluster == none &&
    match s0.accept? { s0.newCommand op (s.dvals f) f.imm .queued with
      block, denied := s.st.deny.any fun x => x.page == pageOf (dval (s.dvals f) 2).toNat, asked := s.st.asked } with
    | .accepted _ _ => true
    | _ => false

def blockOf (s : State) : List W64 := (List.range 8).map fun k => word64 (s.spBytes (.core 0) (0x400 + 8 * k) 8)

theorem witness_CopyCommandsIssue :
    accepts .cpy 0x140 true [] fC cpy1 = true ∧ accepts .cpyf 0x141 true (blockOf cpy1) { fC with d4 := 14 } cpy1 = true ∧
    (match followBlock { fC with d4 := 14 } (cpy1.landed (.cpyf { fC with d4 := 14 })) with
      | .ok b => b == blockOf cpy1
      | .error _ => false) = true ∧
    (accepts .cpym 0x142 false [] { fC with d4 := 11 } cpy1 = true ∧ cpy1.readS 11 ≠ 0 ∧ cpy1.readS 11 >>> 4 = 0) ∧
    accepts .cpyz 0x144 true [] { fC with d4 := 8 } cpy1 = true ∧ accepts .cpyk 0x145 true [] fC cpy1 = true ∧
    accepts .cpyp 0x146 true [] { fC with d0 := 13, d1 := 13, d2 := 12 } cpy1 = true ∧ accepts .cfill 0x147 true [] fC cpy1 = true ∧
    (passes cpy1 (.cpyat { fC with d4 := 15 }) ∧ (cpy1.landed (.cpyat { fC with d4 := 15 })).wordFault 0x100 8 true = none ∧
      (cpy1.landed (.cpyat { fC with d4 := 15 })).timersUsed cpy1.sq.core < 16 ∧ cpy1.gtb.toNat < 1000000 ∧ (0 : Nat) ≤ cpy1.gtb.toNat) := by decide +kernel

theorem witness_CopyCommandRefusals :
    (passes cpy1 (.cpy fC) ∧ (cpy1.landed (.cpy fC)).wordFault 0x100 8 true = none ∧ (cpy1.landed (.cpy fC)).wordFault 0x800000 8 true = some .form ∧
      (cpy1.landed (.cpy fC)).wordFault 0x104 8 true = some .misaligned) ∧
    (passes sp1 (.cpy { fC with d3 := 5 }) ∧ (sp1.landed (.cpy fC)).wordFault 0x8000 8 true = some .unowned) ∧
    (match (cpy1.landed (.cpy fC)).accept? ((cpy1.landed (.cpy fC)).newCommand 0x140 [0, 0, 0x11004, 0x100, 0, 0] 0 .queued) with
      | .ends _ st => st == Status.layout
      | _ => false) = true ∧
    (let c := cpy1.newCommand 0x140 [0, 0, 0x11000, 0x100, 0, 0] 0 .running
     match ({ cpy1 with cmds := List.replicate 64 c } : State).accept? c with
      | .full => true
      | _ => false) = true := by decide +kernel

/-- A copy of one byte that runs, of the layout record at 0x11000. -/
def copyCmd : Command :=
  { cpy1.newCommand 0x140 [0, 8, 0x11000, 0x100, 0, 0] 0 .running with layout := leBytes 8 0xA0 ++ leBytes 8 1 ++ List.replicate 48 0 }
def copying : State := cpy1.addCommand copyCmd
/-- Its region may copy nothing. -/
def overBudget : State := { copying with sq := { copying.sq with inst := { copying.sq.inst with region := { copying.sq.inst.region with lapa := 0 } } } }
def followCmd : Command := { copyCmd with op := 0x141, phase := .following, block := blockOf cpy1 }
def following : State := cpy1.addCommand followCmd

theorem witness_CopyCommandsEnd :
    (overBudget.command? 0 = some copyCmd ∧ copying.command? 0 = some copyCmd ∧ opClass copyCmd.op = 1 ∧ copyCmd.phase = .running ∧ copyCmd.op ≠ 0x142 ∧ copyCmd.denied = false ∧
      (let l := Layout.ofBytes copyCmd.layout
       let ms := l.moves 0 8
       overBudget.copyMisses copyCmd l ms = [] ∧ overBudget.copyRefused copyCmd l ms = false ∧ overBudget.notPersistent copyCmd l ms = false ∧
       copying.copyMisses copyCmd l ms = [] ∧ copying.copyRefused copyCmd l ms = false ∧ copying.notPersistent copyCmd l ms = false ∧ l.dspace = 1) ∧
      (copying.allotCommand ((copying.squadRegion copyCmd.who.sid).copies copyCmd.part) copyCmd 1).2.sent = 1 ∧
      (copying.engAsk { copyCmd with sent := 1 } (copyReads { copyCmd with sent := 1 } (Layout.ofBytes copyCmd.layout)
        ((Layout.ofBytes copyCmd.layout).moves 0 8))).isNone = true ∧
      (overBudget.allotCommand ((overBudget.squadRegion copyCmd.who.sid).copies copyCmd.part) copyCmd 1).2.sent = 0) ∧
    (following.command? 0 = some followCmd ∧ followCmd.phase = .following ∧ (∀ e ∈ following.cmds, e.id = 0) ∧
      (following.squad? followCmd.who.sid).map (fun q => (q.place, decide ((following.core q.core).queued < 16))) = some (.resident, true)) ∧
    (passes copying (.ccnl { fX with d0 := 10 }) ∧ (copying.landed (.ccnl { fX with d0 := 10 })).wordFault (copying.readS 10) 8 true = none) ∧
    (passes copying (.cqry { fX with d0 := 1, d1 := 10 }) ∧ (copying.landed (.cqry { fX with d0 := 1, d1 := 10 })).wordFault (copying.readS 10) 8 true = none) ∧
    ({ copying with fab := { copying.fab with window := [{ opid := 0, who := copying.me, cmd := some 0, pkg := 1, pa := 0, n := 1, store := true }] } } : State).windowBusy
      copyCmd.id = true := by
  decide +kernel

/-- Two rows of eight bytes: s16 is D4, s17 D5; s18 of none, s19 of rows that break the limits. -/
def gat1 : State := (((cpy1.writeS 16 (8 + 8 * 2 ^ 24)).writeS 17 (2 + 8 * 2 ^ 32)).writeS 18 (8 * 2 ^ 32)).writeS 19 3
def fG : XF := { fX with d0 := 13, d1 := 8, d2 := 10, d3 := 10, d4 := 16, d5 := 17 }
def gatCmd : Command := gat1.newCommand 0x14A [0x10000, 0, 0x100, 0x100, 8 + 8 * 2 ^ 24, 2 + 8 * 2 ^ 32] 0 .running
def gathering : State := gat1.addCommand gatCmd

theorem witness_GatherCommands :
    (∀ e ∈ [(Instr.gthrX32, 0x14A), (.gthrX64, 0x14B), (.sctr, 0x14C)], passes gat1 (e.1 fG) ∧
      (gat1.landed (e.1 fG)).wordFault (dval (gat1.dvals fG) 3) 8 true = none ∧
      (let c (f : XF) := (gat1.landed (e.1 fG)).newCommand e.2 (gat1.dvals f) 0 .running
       gatherBad (c fG) = false ∧ (gatherArgs (c fG)).count = 2 ∧ (gatherArgs (c { fG with d5 := 18 })).count = 0 ∧
         gatherBad (c { fG with d4 := 19 }) = true)) ∧
    (dval (gat1.dvals fG) 1 = 0 ∧ dval (gat1.dvals fG) 2 = 0x100 ∧ gat1.sq.stripes.contains (stripeOf 0) = true) ∧
    (gathering.command? 0 = some gatCmd ∧ gatCmd.op = 0x14A ∧ gatCmd.denied = false ∧ gatCmd.phase.isDraining = false ∧
      (∀ x ∈ gathering.gatherRows gatCmd, ∀ v ∈ span x.1 8, gathering.engByte gatCmd 0 .read v ≠ .miss ∧ gathering.engByte gatCmd 0 .read v ≠ .refused) ∧
      (∀ x ∈ gathering.gatherRows gatCmd, ∀ o ∈ span x.2 8, (gathering.cmdSp gatCmd false o).isSome = true) ∧ gathering.indexUnowned gatCmd = false ∧ gathering.badIndex gatCmd = false ∧
      (gathering.engAsk gatCmd ((gathering.gatherRows gatCmd).flatMap fun x => span x.1 8)).isNone = true) := by
  decide +kernel

/-- Group 0 has this package alone; s20 asks for a sum of one element of i32, s21 is malformed, s22 a source, s23 a destination. -/
def grp1 : State :=
  ((((cpy1.setReg (Mmio.group 0) 1).writeS 20 (2 ^ 32)).writeS 21 5).writeS 22 0x10100).writeS 23 0x10200
def fR : XF := { fX with d0 := 8, d1 := 22, d2 := 23, d3 := 10, d4 := 8, d5 := 20 }
def collCmd : Command :=
  { grp1.newCommand 0x14D [0, 0x10100, 0x10200, 0x100, 0, 2 ^ 32] 0 .running with block := [0], layout := List.replicate 12 0, sent := 12 }
def coll1 : State := grp1.addCommand collCmd

theorem witness_Collectives :
    (∀ e ∈ [(Instr.collAllreduce, 0x14D), (.collReducescatter, 0x14E), (.collAllgather, 0x14F), (.collBcast, 0x150), (.collat, 0x151)],
      passes grp1 (e.1 fR) ∧ (grp1.landed (e.1 fR)).wordFault (dval (grp1.dvals fR) 3) 8 true = none ∧
      (grp1.landed (e.1 fR)).collArmed 0 < 64 ∧ ((grp1.landed (e.1 fR)).group 0).valid = true ∧ ((grp1.landed (e.1 fR)).rankIn 0).isSome = true ∧
      (let c (f : XF) := (grp1.landed (e.1 fR)).newCommand e.2 (grp1.dvals f) 0 .running
       collBad (c fR) 1 = false ∧ collBad (c { fR with d5 := 21 }) 1 = true)) ∧
    (coll1.command? 0 = some collCmd ∧ opClass collCmd.op = 4 ∧ collCmd.phase = .running ∧ coll1.rankIn 0 = some 0 ∧
      (coll1.members 0).any (·.2) = false ∧ collCmd.sent = collCmd.layout.length ∧ collCmd.denied = false ∧ collCmd.layout ≠ [] ∧ coll1.peersIn 0 = [] ∧
      (∀ v ∈ collSource collCmd 1 0, coll1.engByte collCmd 0 .read v ≠ .miss ∧ coll1.engByte collCmd 0 .read v ≠ .refused) ∧
      (∀ v ∈ collDest collCmd 1, coll1.engByte collCmd 0 .write v ≠ .miss ∧ coll1.engByte collCmd 0 .write v ≠ .refused)) ∧
    (let s : State := { coll1 with pkg := 9 }
     s.command? 0 = some collCmd ∧ s.rankIn (collGroup collCmd) = none ∧ collCmd.phase.isDraining = false) := by decide +kernel

/-- Queue pair 1 is the partition's, of one entry, or of four with a completion at its head. -/
def nv0 : State := cpy1.setReg (Mmio.nvme 1) 0x10
def nv1 : State :=
  let s := ((nv0.setReg (Mmio.nvme 1 + 8) 0x300000).setReg (Mmio.nvme 1 + 0x10) 0x301000).setReg (Mmio.nvme 1 + 0x18) 0x30003
  { s with mem := Tab.putAll s.mem (fun _ => 0) [(0x30100E, 1)] }
def fN : XF := { fX with d0 := 11, d1 := 8, d2 := 11, d3 := 8, d4 := 8, d5 := 1 }

/-- A store of the wave through a window is not acknowledged. -/
def owing : State :=
  { nv1 with fab := { nv1.fab with window := [{ opid := 0, who := nv1.me, cmd := none, pkg := 1, pa := 0, n := 1, store := true }] } }

theorem witness_NvmeQueues :
    (∀ s ∈ [nv0, nv1], passes s (.nvsub fN) ∧ (s.qpDesc 1).en = true ∧ (s.qpDesc 1).part = s.sq.inst.part ∧ s.readS 11 = 1) ∧
    ((nv0.qp 1).tail + 1) % (nv0.qpDesc 1).sqSize = (nv0.qp 1).sqHead ∧ ((nv1.qp 1).tail + 1) % (nv1.qpDesc 1).sqSize ≠ (nv1.qp 1).sqHead ∧
    passes nv1 (.nvdb fN) ∧ (passes cpy1 (.nvdb fN) ∧ (cpy1.qpDesc 1).en = false) ∧ passes nv0 (.nvcq fN) ∧
    (passes nv1 (.nvcq fN) ∧ nv1.isBad (nv1.qpDesc 1).cqBase = false) ∧
    (nv1.readHome (nv1.bar2Key 0) 0x30100E).getLsbD 0 = (nv1.qp 1).phase ∧ (nv0.readHome (nv0.bar2Key 0) 14).getLsbD 0 ≠ (nv0.qp 1).phase ∧
    (∀ s ∈ [nv0, nv1], s.windowOwed = false ∧
      (let t := (s.landed (.nvcq fN)).pin.flushMine.touch (s.bar2Key 0) 0 false false [lineOf (s.qpDesc 1).cqBase]
       t.isBad (s.qpDesc 1).cqBase = false ∧ t.violates (s.bar2Key 0) (s.qpDesc 1).cqBase = false)) ∧
    (owing.windowOwed = true ∧ passes owing (.nvcq fN) ∧ (owing.qpDesc 1).en = true) ∧
    (let s : State := (nv1.setReg (Mmio.nvme 1 + 0x30) (1 <<< 40)).landed (.nvsub fN)
     let poor : State := { s with sq := { s.sq with inst := { s.sq.inst with region := { s.sq.inst.region with lapb := 0 } } } }
     512 ≤ (s.qpDesc 1).winSize ∧ (s.pin.nvAllot (s.sq.inst.region.nvme 0) 512 1 0).2 = 512 ∧
       (poor.pin.nvAllot (poor.sq.inst.region.nvme 0) 512 1 0).2 = 0) := by
  decide +kernel

/-- s24 asks for package 1, s25 for it into scratchpad, s26 has a reserved bit; package 2 is DOWN. -/
def fab1 : State :=
  let s := ((cpy1.writeS 24 1).writeS 25 (1 + 2 ^ 32)).writeS 26 0x101
  { s with fab := { s.fab with down := [1] } }
def fab2 : State := { fab1 with fab := { fab1.fab with down := [] } }
/-- D0 is a remote address, D1 a local one, D2 the flow, D3 the word, D4 the count or the operand, D5 the place of FPUTA's add. -/
def fF : XF := { fX with d0 := 8, d1 := 13, d2 := 24, d3 := 10, d4 := 11, d5 := 8 }
def fF16 : XF := { fF with d3 := 10 }

theorem witness_FabricOperations :
    (∀ e ∈ [(Instr.fput, 0x155, 8), (.fputa, 0x156, 8), (.fget, 0x157, 8), (.fatomInt, 0x158, 16), (.fatomF32, 0x159, 16), (.fcas, 0x15A, 16)],
      passes fab1 (e.1 fF) ∧ passes fab2 (e.1 fF) ∧ (fab1.landed (e.1 fF)).wordFault (dval (fab1.dvals fF) 3) e.2.2 true = none ∧
      (let c (f : XF) := (fab1.landed (e.1 fF)).newCommand e.2.1 (fab1.dvals f) 0 .running
       (fabArgs (c fF)).space = 0 ∧ fabCount (c fF) = 1 ∧ (dval (c fF).d 5).toNat % 8 = 0 ∧ dval (c fF).d 4 >>> 31 = 0 ∧
         (dval (c fF).d 0).toNat % fatomWidth (c fF) = 0 ∧ (fabArgs (c fF)).bad = false ∧ (fabArgs (c { fF with d2 := 26 })).bad = true ∧
         fab1.isDown (fabArgs (c fF)).pkg = true ∧ fab2.isDown (fabArgs (c fF)).pkg = false)) ∧
    (let f : XF := { fF with d1 := 8, d2 := 25 }
     let c := (fab2.landed (.fget f)).newCommand 0x157 (fab2.dvals f) 0 .running
     passes fab2 (.fget f) ∧ (fabArgs c).space = 1 ∧ fabCount c = 1 ∧ dval c.d 1 >>> 20 = 0 ∧ (fab2.ownSp fab2.sq.sid 0).isSome = true) ∧
    (passes fab2 (.ffence { fX with d0 := 24 }) ∧ fab2.fabOwed 1 = false ∧
      (fab2.addCommand (fab2.newCommand 0x155 [0, 0, 1, 0x100, 1, 0] 0 .running)).fabOwed 1 = true) := by decide +kernel

/-- s27 and s28 are handles of queue 1 of this package and of package 1, s29 a packet's place; the queue does not exist. -/
def task1 : State := ((cpy1.writeS 27 (0x400)).writeS 28 (0x100000)).writeS 29 0x800
def fK : XF := { fX with d0 := 27, d1 := 29, d2 := 10 }
def batch (held : List Enqueue) (refused : Bool) : State := { task1 with st := { task1.st with batch := some { handle := 0x400, refused, held } } }
/-- The hub is full behind another packet for the same queue. -/
def hubFull : State :=
  let e := task1.newEnqueue (0x400) [] none
  { task1 with sched := { task1.sched with enq := List.replicate 256 e } }
def full64 : List Enqueue := List.replicate 64 (task1.newEnqueue (0x400) [] none)
def hubBatch (held : List Enqueue) : State := { hubFull with st := (batch held false).st }
def down1 : State := { task1 with fab := { task1.fab with down := [1] } }

theorem witness_Enqueuing :
    (∀ s ∈ [task1, batch [] false, hubFull, down1], ∀ mk ∈ [Instr.tenq, .trenq], s.windowOwed = false ∧ passes s (mk fK) ∧ passes s (mk { fK with d0 := 28 }) ∧
      (0x800 : W64).toNat < 2 ^ 20 ∧ (s.landed (mk fK)).sq.stripes.contains (stripeOf 0x800) = true ∧
      (∀ i, i < 64 → (s.landed (mk fK)).spBad (.core 0) (0x800 + i) = false) ∧ (s.landed (mk fK)).wordFault 0x100 8 true = none) ∧
    (handlePkg (0x400) = task1.pkg ∧ handlePkg (0x100000) = 1 ∧ task1.st.batch = none) ∧
    ((task1.pin.flushMine.tryEnqueue (task1.newEnqueue (0x400) [] none)).isSome = true ∧
      hubFull.pin.flushMine.tryEnqueue (hubFull.newEnqueue (0x400) [] none) = none) ∧
    ((batch [] false).st.batch = some { handle := 0x400, refused := false, held := [] }) ∧
    (down1.isDown 1 = true ∧ task1.isDown 1 = false ∧ task1.windowOpen 1 (task1.domainOf task1.sq.inst.part) 0 = true ∧
      task1.mayStart (task1.transmits (task1.newCommand 0x161 [] 0 .running)) = true) ∧
    (passes task1 (.gopen fK) ∧ (task1.pin.publish []).isSome = true ∧
      (let s : State := { hubFull with st := { hubFull.st with batch := some { handle := 0x400, refused := false, held := [hubFull.newEnqueue (0x400) [] none] } } }
       passes s (.gopen fK) ∧ passes s (.gclose { fK with d0 := 10 }) ∧
         s.pin.publish ((s.st.batch.map (·.held)).getD []) = none ∧ s.publish ((s.st.batch.map (·.held)).getD []) = none)) ∧
    (passes task1 (.gclose { fK with d0 := 10 }) ∧ (task1.publish []).isSome = true) ∧
    ((full64.length = 64 ∧ handleQueue 0x400 ≠ handleQueue 0x800) ∧ ((batch full64 false).pin.flushMine.publish full64).isSome = true ∧
      (hubBatch full64).pin.flushMine.publish full64 = none ∧ (batch [] true).st.batch.map (·.refused) = some true) ∧
    ((∀ s ∈ [batch [] false, batch [] true, hubBatch []], passes s (.gclose { fK with d0 := 10 }) ∧ (s.publish []).isSome = true ∧ s.st.batch.isSome = true) ∧
      ((batch [] false).tryEnqueue ((batch [] false).newEnqueue 0x400 [] (some (0x100, 0)))).isSome = true ∧
      (hubBatch []).tryEnqueue ((hubBatch []).newEnqueue 0x400 [] (some (0x100, 0))) = none) := by decide +kernel

/-- The instance may be split once on its first axis. -/
def splits : State :=
  { task1 with sq := { task1.sq with inst := { task1.sq.inst with lo := [0, 0, 0], hi := [8, 1, 1], grain := [1, 1, 1], split := [0], args := 0x10000, path := 0 } } }

theorem witness_TilesAndArguments :
    passes task1 (.tset { fX with d0 := 11, imm := 2 }) ∧
    (passes task1 (.twait { fX with d0 := 11 }) ∧ (task1.tileBits 0 1).1 = false ∧ (match exec (.tset { fX with d0 := 11 }) task1 with
      | .next t => decide (passes t (.twait { fX with d0 := 11 })) && (t.tileBits 0 1).1
      | _ => false) = true) ∧
    passes task1 (.tstat { fX with d0 := 1, d1 := 11 }) ∧
    (∃ x ys, passes splits (.targ { fX with d0 := 1 }) ∧ (splits.landed (.targ { fX with d0 := 1 })).places .param
        ((splits.landed (.targ { fX with d0 := 1 })).uniform (splits.sq.inst.args + 8 * (0 : W32).setWidth 64)) 8 .read (servesScalar .b64) = some (x :: ys) ∧
      (let s1 := (splits.landed (.targ { fX with d0 := 1 })).undenied .param (x :: ys)
       s1.isMmio x = false ∧ s1.delivered [x] 8 .rlx = true ∧ (s1.fresh [x] .rlx (readsPast [x] .rlx .wave)).readable (readsPast [x] .rlx .wave) [x] 8)) ∧
    passes task1 (.pin fX) ∧
    (passes task1 (.tsplit { fX with d0 := 1 }) ∧ task1.sq.splitInst.splitAxis = none) ∧
    (passes splits (.tsplit { fX with d0 := 1 }) ∧ splits.sq.splitInst.splitAxis = some 0 ∧ splits.sq.splitInst.depth < 27 ∧
      (((splits.landed (.tsplit { fX with d0 := 1 })).countNode splits.sq.splitInst.node (.die splits.sq.splitInst.die) 1).queueHalf? (splits.sq.splitInst.half 0 true)).isSome = true) := by
  refine ⟨by decide +kernel, by decide +kernel, by decide +kernel, ⟨_, _, by decide +kernel, rfl, by unfold State.readable; decide +kernel⟩,
    by decide +kernel, by decide +kernel, by decide +kernel⟩

/-- A wave of four granules; another whose v20 is to be written by an MRD. -/
def gran4 : State := { base with wv := { base.wv with gran := 4 } }
def rowDue4 : State := gran4.updCore gran4.sq.core fun x => { x with mq := [{ someMacro with who := gran4.me, imm := 20 }] }

theorem witness_RegistersAndStripes :
    (passes gran4 (.rgrow { fX with imm := 4 }) ∧ (gran4.landed (.rgrow { fX with imm := 4 })).growFault 4 = 0) ∧
    (passes base (.rgrow { fX with d0 := 1, imm := 0x104 }) ∧ passes base (.rgrow { fX with imm := 4 }) ∧ base.growFault 4 = 2) ∧
    (passes gran4 (.rshrink { fX with imm := 2 }) ∧ (gran4.landed (.rshrink { fX with imm := 2 })).pendingAbove 16 = false) ∧
    (passes rowDue4 (.rshrink { fX with imm := 2 }) ∧ (rowDue4.landed (.rshrink { fX with imm := 2 })).pendingAbove 16 = true) ∧
    (passes base (.spalloc { fX with d0 := 1, imm := 2 }) ∧ (base.landed (.spalloc { fX with d0 := 1, imm := 2 })).freeRun base.sq.core 2 = some 0 ∧
      (base.landed (.spalloc { fX with d0 := 1, imm := 2 })).budgetRoom base.sq.inst 0 2 none = true) ∧
    (passes task1 (.spalloc { fX with d0 := 1, imm := 0x101 }) ∧ passes task1 (.spalloc { fX with d0 := 1, imm := 1 }) ∧
      (task1.landed (.spalloc { fX with d0 := 1, imm := 1 })).freeRun task1.sq.core 1 = none) ∧
    (passes task1 (.spfree { fX with d0 := 8, imm := 1 }) ∧ task1.sq.stripes.contains (stripeOf 0) = true ∧ task1.cmds = [] ∧ task1.delayed task1.sq.sid = [] ∧
      (task1.core task1.sq.core).mq = []) := by decide +kernel

theorem witness_SupervisorOnlyWrites : Instr.keyLoad ∈ [Instr.keyLoad, .keyErase, .keyReload] ∧ Instr.postPosted ∈ [Instr.postRederr, .postPosted] := by
  constructor <;> simp

/-- LAPCFG takes 8 to 16, and no other value; the rest of the plain registers at zero. -/
theorem witness_DeviceRegisterWrites :
    (∀ v : W64, v = 8 ∨ v = 16 → v.toNat < 32 ∧ 8 ≤ v.toNat ∧ v.toNat ≤ 16) ∧ ¬(8 ≤ (7 : W64).toNat) ∧
    (clearOf 1 (descriptorMask 0) = true ∧ clearOf 1024 (descriptorMask 0x18) = true ∧ (1024 : W64).toNat ≤ 1024 ∧ clearOf 2 (descriptorMask 0) = false) ∧
    ((0x40001 : W64) &&& 0xFFF000000003FFFE = 0 ∧ (0x80001 : W64) &&& 0xFFF000000007FFFE = 0 ∧
      ringHeld (base.reg (Mmio.xlrhead 0)) 0 ≤ ringHeld (base.reg (Mmio.xlrhead 0)) (base.reg (Mmio.xlrtail 0)) ∧
      ringHeld (base.reg (Mmio.crhead 3)) 0 ≤ ringHeld (base.reg (Mmio.crhead 3)) (base.reg (Mmio.crtail 3))) := by
  refine ⟨?_, by decide +kernel⟩
  rintro v (rfl | rfl) <;> decide

/-- A miss of page 3 of partition 0 on die 0. -/
def someMiss : Miss :=
  { part := 0, page := 3, va := 0x30000, acc := .read, path := 0, who := 0, walking := false, fault := none, recorded := false }
def missing (m : Miss) : State := (State.reset.setReg (Mmio.xlrbase 0) 0x40001).updDie 0 fun x => { x with misses := [m] }
def faulted : Miss := { someMiss with fault := some { kind := WalkKind.notvalid, level := 1, entry := 0, key := 0 } }
/-- Tables of partition 0 at 0x400000 and 0x500000 that map its first 512 MiB, which it owns. -/
def tables : State :=
  let s := ((((missing { someMiss with walking := true }).setReg (Mmio.xlroot 0) 0x400001).setReg (Mmio.partition 0 + 0x28) 1).setReg
    (Mmio.partition 0 + 0x100) 0).setReg (Mmio.partition 0 + 0x108) 0x20000000
  { s with mem := Tab.putAll s.mem (fun _ => 0) [(0x400000, 1), (0x400002, 0x50), (0x500000, 3)] }

theorem witness_PageWalks :
    ((missing someMiss).missAt 0 0 3 = some someMiss ∧ (((missing someMiss).die 0).misses.filter (·.walking)).length < 96) ∧
    (tables.missAt 0 0 3 = some { someMiss with walking := true } ∧ (match tables.walk (tables.die 0).nodes 0 0x30000 with
      | .leaf a e level _ => decide (a = 0x500000 ∧ e = 3 ∧ level = 2)
      | _ => false) = true) ∧
    ((missing { someMiss with walking := true }).walk [] 0 0x30000 = .fault { kind := WalkKind.notvalid, level := 1, entry := 0, key := 0 }) ∧
    ((missing faulted).missAt 0 0 3 = some faulted ∧ (missing faulted).faults = [] ∧ ((missing faulted).reg (Mmio.xlrbase 0)).getLsbD 0 = true ∧
      ringHeld ((missing faulted).reg (Mmio.xlrhead 0)) ((missing faulted).reg (Mmio.xlrtail 0)) < 8192) := by decide +kernel

theorem witness_FaultResponses :
    (let s : State := { base with faults := [{ part := 0, page := 3, info := 0, entry := 0 }] }
     let v : W64 := 0x30001
     v &&& 0xFF80000000000FFC = 0 ∧ bits v 1 0 = 1 ∧ bits (v + 1) 1 0 = 2 ∧
       (s.faults.find? fun o => o.part == bits v 15 12 && o.page == bits v 54 16) = some { part := 0, page := 3, info := 0, entry := 0 }) ∧
    base.faults = [] ∧
    (let x (pend : List Nat) : Stream := { base.st with wait := .parked [] false .read [], pend }
     (x [3]).pend.any (· == 3) = true ∧ (∀ p ∈ (x [3]).pend, p = 3) ∧ ∃ p ∈ (x [3, 4]).pend, (p == 3) = false) := by decide +kernel

theorem witness_Invalidations :
    (∀ k, k < 5 → BitVec.ofNat 64 k &&& 0xFF80000000000FF8 = 0 ∧ bits (BitVec.ofNat 64 k) 2 0 = k ∧ bits (BitVec.ofNat 64 k) 54 28 = 0) ∧
    (base.xlinvBusy = false ∧ ({ base with xlinvBusy := true, xlinvHeld := [4] } : State).xlinvBusy = true ∧ base.fab.window = [] ∧ owing.fab.window ≠ []) := by decide +kernel

def keyed (v : W64) (slot : KeySlot) : State :=
  { base.setKey 5 slot with admin := { base.admin with keyReq := some v } }
def loaded5 : KeySlot := { state := .loaded, owner := 0, integ := false, gen := 1 }
/-- The blob at KEYBLOB lies in a range that partition 0 owns. -/
def blobbed : State :=
  ((((keyed 0x50000000002 KeySlot.empty).setReg (Mmio.partition 0 + 0x28) 1).setReg (Mmio.partition 0 + 0x100) 0).setReg (Mmio.partition 0 + 0x108)
    0x20000000).setReg Mmio.keyblob 0x300000

theorem witness_KeyRequests :
    (∀ op, op < 3 → (0x50000000002 + BitVec.ofNat 64 op * 0x100000000) &&& 0xFFF0000000FFFFFC = 0 ∧
      bits (0x50000000002 + BitVec.ofNat 64 op * 0x100000000) 34 32 = op) ∧
    (base.reg Mmio.keyctl).getLsbD 0 = false ∧ bits 0x2 51 40 = 0 ∧ bits 0x50000000002 51 40 = 5 ∧
    ((keyed 0x50000000002 loaded5).key 5).state ≠ .empty ∧
    (((keyed 0x50000000002 KeySlot.empty).key 5).state = .empty ∧ (0x50000000002 : W64).getLsbD 35 = false ∧
      (keyed 0x50000000002 KeySlot.empty).keyBlob 0 = none ∧ (blobbed.keyBlob 0).isSome = true ∧ (blobbed.key 5).state = .empty) ∧
    (bits 0x50100000002 34 32 = 1 ∧ ((keyed 0x50100000002 loaded5).purgeKey 5).owqUnder 5 = false ∧
      ((keyed 0x50100000002 loaded5).purgeKey 5).l2.any (fun e => e.2.dirty && e.2.key == 5) = false) := by decide +kernel

theorem witness_ViabilityAndRemap :
    ((191 : BitVec 8).toNat < 192 ∧ (1279 : BitVec 11).toNat < 1280 ∧ (0x3FFFFFFFF : W64).toNat < 2 ^ 34) ∧
    ((3 : BitVec 8).toNat < 4 ∧ (159 : BitVec 8).toNat < 160 ∧ (0xFFFF : W64).toNat < 2 ^ 16) ∧ ((4 : BitVec 8).toNat < 5 ∧ (0xFF : W64).toNat < 2 ^ 8) ∧
    ((State.reset.core 191).halted = true ∧ (0x0021007F : W64) &&& 0xFFFFFFFFFEC0C000 = 0 ∧ bits 0x0021007F 13 8 = 0 ∧ bits 0x0021007F 21 16 = 33 ∧
      (0x0121007F : W64) &&& 0xFFFFFFFFFEC0C000 = 0 ∧ (0x0121007F : W64).getLsbD 24 = true) := by decide +kernel

theorem witness_CoreHalting : ((1 : W64).toNat < 4 ∧ (1 : W64).getLsbD 0 = true ∧ (0 : W64).getLsbD 0 = false) ∧
    (State.reset.core 0).halt = true ∧ (State.reset.saveAll 0).residents 0 = [] := by decide +kernel

/-- A step to a point under way, at a stage. -/
def stepping (up : Bool) (stage target : Nat) : State :=
  { State.reset with power := { State.reset.power with stepping := true, up, stage, target } }

theorem witness_OperatingPointSteps :
    ((0x14 : W64) &&& 0xFFFFFFFFFFFFFF68 = 0 ∧ bits 0x14 2 0 = 4 ∧ (4 : W64) &&& 0xFFFFFFFFFFFFFF68 = 0) ∧ State.reset.power.stepping = false ∧
    (∀ k, k < 6 → (stepping false k 3).power.stage = k ∧ (stepping false k 3).power.up = false) ∧ (stepping false 2 3).doomedSquads = [] ∧
    (stepping false 4 3).power.target ≠ (stepping false 4 3).power.point ∧ (stepping true 0 0).power.up = true ∧ (stepping true 2 0).power.stage = 2 ∧
    ((stepping true 2 0).power.heldGo = none ∧ (stepping true 2 0).sched.swapHeld = none) := by decide +kernel

/-- A machine at a point whose power samples are these. -/
def sampled (point bound : Nat) (l : List Nat) : State :=
  { State.reset with power := { State.reset.power with point, bound, samples := l } }

theorem witness_PowerLimit :
    bits (State.reset.reg Mmio.pwrcap) 15 0 = 2300 ∧
    (((1 :: (sampled 1 0 [1, 1]).power.samples).take 100).take 3 = [1, 1, 1] ∧ (sampled 1 0 [1, 1]).power.point ≠ 4 ∧ (sampled 4 0 [1, 1]).power.point = 4) ∧
    (((2 :: (sampled 2 0 (List.replicate 99 2)).power.samples).take 100).length = 100 ∧
      (∀ x ∈ (2 :: (sampled 2 0 (List.replicate 99 2)).power.samples).take 100, x = 2) ∧ (sampled 2 0 []).power.bound < (sampled 2 0 []).power.point) ∧
    (((0 :: (sampled 1 0 []).power.samples).take 100).length < 100) := by decide +kernel

/-- The code of the wave of `base`, and a consumption of it that waits to be recorded. -/
def baseCode : W32 := waveCode base.sq.core base.wv.quad base.wv.slot
def someCons : Consumption :=
  { kind := .media, who := base.me, pc := 0x10000, addr := 0, mask := 1, info := 0, gtb := 0, written := false, op := false }
def consumed : State := { base.setReg (Mmio.crbase 0) 0x80001 with records := [someCons] }

theorem witness_PostedErrors :
    ((base.waveByCode baseCode).map (fun e => (e.1.sid, e.2.lowest)) = some (base.sq.sid, some 0) ∧
      State.reset.waveByCode 0 = none ∧ base.st.trap.pend = false) ∧
    (∀ k, k ∈ [0x13, 0x14] → (BitVec.ofNat 64 (k * 2 ^ 32)).toNat < 2 ^ 40 ∧ bits (BitVec.ofNat 64 (k * 2 ^ 32)) 39 32 = k) := by decide +kernel

theorem witness_ConsumptionRecords :
    (consumed.records.find? fun c => consumed.consDie c == some 0) = some someCons ∧ (consumed.streamOf someCons.who).isSome = true ∧
    (consumed.reg (Mmio.crbase 0)).getLsbD 0 = true ∧ ringHeld (consumed.reg (Mmio.crhead 0)) (consumed.reg (Mmio.crtail 0)) < 4096 ∧
    someCons.kind ≠ .dupmis ∧ someCons.kind ≠ .mtxsum := by decide +kernel

def frozenAll : State := { base with frozen := [0] }

theorem witness_FreezeDecisions :
    State.reset.waveByCode 0 = none ∧
    (∃ q w, frozenAll.waveByCode baseCode = some (q, w) ∧ q.place = .resident ∧ w.frozenAlone = false ∧ frozenAll.frozen.contains (clusterOfCore q.core) = true ∧
      frozenAll.mustDie q w = false ∧ q.inst.pinned = false) ∧
    (∃ q w, ({ base with wv := { base.wv with bkpt := some 0 } } : State).waveByCode baseCode = some (q, w) ∧ w.frozenAlone = true) ∧
    (let s : State := { base with st := { base.st with wait := .frozen } }
     (s.waveByCode baseCode).map (fun e => (s.standsFrozen e.1 e.2, e.2.frozenAlone)) = some (true, false)) ∧
    (let s : State := { base with sq := { base.sq with place := .shadowSram, told := true } }
     (s.waveByCode baseCode).map (fun e => (e.1.unplaced 2, e.1.unplaced 4, e.1.unplaced 0)) = some (true, true, false)) ∧
    (let s : State := { base with sq := { base.sq with place := .hbmArea }, st := { base.st with cons := some someCons } }
     (s.waveByCode baseCode).map (fun e => e.1.stillConsumes e.2) = some true) ∧
    splits.sq.splitInst.splittable = true ∧
    (let s : State := { base with st := { base.st with cons := some { someCons with kind := .integ } } }
     ∃ q w, s.waveByCode baseCode = some (q, w) ∧ s.mustDie q w = true) ∧
    (frozenAll.frozen.contains (codeCluster baseCode) = true ∧ frozenAll.records = []) := by
  refine ⟨by decide +kernel, ⟨_, _, rfl, by decide +kernel⟩, ⟨_, _, rfl, by decide +kernel⟩, by decide +kernel, by decide +kernel,
    by decide +kernel, by decide +kernel, ⟨_, _, rfl, by decide +kernel⟩, by decide +kernel⟩

/-- Core 0 runs or may run proof kernel 7. -/
def proofs (p : Option Nat) : State :=
  State.updCore { State.reset with admin := { State.reset.admin with kernels := [{ id := 7, image := [] }] } } 0 fun x => { x with halt := false, proof := p }

theorem witness_ProofKernels :
    ((proofs none).admin.kernels.any (fun x => x.id == 7) = true ∧ (proofs none).residents 0 = [] ∧ ((proofs none).core 0).halt = false ∧
      ((proofs none).core 0).proof = none ∧ (proofs none).canPlaceOn 0 = false ∧ (proofs none).mayStart (.proof 0) = true) ∧
    (((proofs (some 7)).core 0).proof = some 7 ∧ (proofs (some 7)).mayStart (.proof 0) = true ∧
      ((proofs (some 7)).setReg (Mmio.lapcfg + 0x58) 0).mayStart (.proof 0) = false) := by decide +kernel

/-- An instance that waits in die 0's pool; a squad that is saved. -/
def pooled : State := base.updDie 0 fun x => { x with pool := [{ inst := Instance.none, since := 0, kept := false }] }
def aged : State := { pooled with cycle := 65536 }
def saved : State := { base with sq := { base.sq with place := .shadowSram } }
def savedAndPooled : State := { pooled with sq := { pooled.sq with place := .shadowSram } }

theorem witness_Placement :
    ((saved.restoreLevel 0 0).isSome = true ∧ savedAndPooled.waitingEntries 0 ≠ [] ∧ (savedAndPooled.restoreLevel 0 0).isSome = true ∧
      base.waitingEntries 0 = []) ∧
    (pooled.restoreLevel 0 0 = none ∧ ((pooled.waitingEntries 0).findSome? fun e => (pooled.placeFor e.inst 0).map fun r => (e, r)).isSome = true) ∧
    ((∃ e r, aged.waitingEntries 0 = e :: r ∧ e.since + 65536 ≤ aged.cycle ∧ ∃ c, (aged.coreOrder e.inst 0).find? (aged.couldFit e.inst) = some c) ∧
      (∀ i, i < 48 → (aged.core i).reserved = none)) := by
  refine ⟨by decide +kernel, by decide +kernel, ⟨_, _, rfl, by decide +kernel, _, rfl⟩, by decide +kernel⟩

/-- The wave of `base` has ended, or its allowance is used up. -/
def over_ : State := { base with wv := { base.wv with ended := true } }
/-- One that may be split has exhausted its time. -/
def exhausted_ : State := { splits with sq := { splits.sq with exhausted := some .time } }
def spent_ : State := { base with sq := { base.sq with left := 0 } }

theorem witness_InstancesEnd :
    ((over_.squad? base.sq.sid).map (fun q => (q.waves.all (·.ended), (over_.core q.core).mq.isEmpty)) = some (true, true) ∧ over_.cmds = [] ∧ over_.fab.window = []) ∧
    ((exhausted_.squad? base.sq.sid).map (fun q => (q.exhausted, q.place, q.inst.pinned, q.splitInst.splittable, q.splitInst.splitAxis)) =
      some (some .time, .resident, false, true, some 0)) ∧ splits.sq.exhausted ≠ some .time ∧
    ((spent_.squad? base.sq.sid).map (fun q => (q.left, q.place, q.firstStream.isSome)) = some (0, .resident, true)) ∧
    (base.squad? base.sq.sid).map (fun q => decide (q.left ≠ 0)) = some true := by decide +kernel

/-- The shadow SRAM of die 0 holds the image of another squad, of 1,024 stripes; its save area has some size. -/
def crowded (size : Nat) : State :=
  { base with squads := [{ base.sq with sid := 77, place := .shadowSram, waves := [], stripes := List.range 1024 }] }.updDie 0 fun x => { x with saveSize := size }
def swapping : State := { base with sched := { base.sched with swap := some (3, 4) } }

theorem witness_SavesAndSwaps :
    ((base.squad? base.sq.sid).map (fun q => (base.saveable q, base.parkWaits q, decide (base.savedBytes (dieOfCore q.core) Place.inSram +
      base.imageSize q ≤ 33554432))) = some (true, false, true)) ∧
    (∀ size ∈ [0x4000000, 0], ((crowded size).squad? base.sq.sid).map (fun q => ((crowded size).saveable q, (crowded size).parkWaits q,
      decide (33554432 < (crowded size).savedBytes (dieOfCore q.core) Place.inSram + (crowded size).imageSize q),
      decide ((crowded size).savedBytes (dieOfCore q.core) Place.inHbm + (crowded size).imageSize q ≤ ((crowded size).die (dieOfCore q.core)).saveSize))) =
        some (true, false, true, size != 0)) ∧
    ((saved.squad? base.sq.sid).map (fun q => (saved.restorable q, (saved.restoreFit q 0).isSome)) = some (true, true)) ∧
    ((0x143 : W64).toNat < 512 ∧ (0x143 : W64).getLsbD 8 = true ∧ base.sched.swap = none ∧ base.power.stepping = false ∧
      bits 0x143 3 0 ≠ bits 0x143 7 4 ∧ base.part 3 0x20 = base.part 4 0x20) ∧
    (swapping.sched.swap ≠ none ∧ swapping.sched.swap = some (3, 4) ∧ ∀ q ∈ (swapping.swapSaves 3).everySquad, q.part ≠ 3) := by decide +kernel

theorem witness_WaitsEnd :
    (let s : State := { base with st := { base.st with wait := .waitMem 0x200000 } }
     s.has s.me = true ∧ (s.focus s.me).st.wait = .waitMem 0x200000) := by decide +kernel

theorem witness_TimeAndWindows :
    (let s : State := { base with st := { base.st with active := false, lap := 64 } }
     (s.resident? s.me).map (fun e => (e.strm.active, s.unblockedNow e, decide (s.activeCount e.sq.core e.wv.quad < 8), decide (64 ≤ e.strm.lap),
       (s.quadStreams e.sq.core e.wv.quad).all fun a => !a.strm.active || !s.residentReady a || decide (a.strm.lap < e.strm.lap)))
       = some (false, true, true, true, true)) ∧ base.activeCount 0 0 < 8 ∧
    (base.fab.windowWait = [] ∧ base.gtb.toNat / 2 ^ base.lapLog = base.lap ∧ ({ base with lap := 5 } : State).gtb.toNat / 2 ^ 10 ≠ 5 ∧ base.cmds = []) := by decide +kernel

/-- Memory and firmware that hold nothing of a line, a sector under an integrity key, a line of the SCM. -/
def guarded5 : State := { base.setKey 5 { loaded5 with integ := true } with secKey := [(0x8000, 5)] }

theorem witness_SectorReadsAndScrubbing :
    ((homeDie 0x200000).isSome = true ∧ (base.l2Line (lineOf 0x200000)).dirty = false ∧
      (base.key (base.secKey.getD (fun _ => 0) (sectorOf 0x200000) % 4096)).integ = false ∧
      (guarded5.key (guarded5.secKey.getD (fun _ => 0) (sectorOf 0x200000) % 4096)).integ = true ∧ guarded5.zeroBlock 0x200000 = false ∧
      isScm 0x200000 = false) ∧
    (homeDie 0x200000 = some 0 ∧ homeDie 0x10000000000 = some 0 ∧ isScm 0x10000000000 = true ∧
      (let s : State := (base.setReg (Mmio.lapcfg + 0x38) 0).spend (.owqDrain 0) 4096
       s.mayStart (.owqDrain 0) = false)) := by decide +kernel

def owq1 : State := base.updDie 0 fun x => { x with owq := [{ seq := 1, line := lineOf 0x10000000000, bytes := [], mask := 0, tag := 0, bad := [], keys := [], tags := [] }] }
/-- A dirty line held in L2, in plain memory and of a P page of the SCM. -/
def l2d : State := base.setL2 0 { L2Line.absent with held := true, dirty := true }
def l2p : State := base.setL2 (lineOf 0x10000000000) { L2Line.absent with held := true, dirty := true, p := true }
def heldUp : State := { owq1 with admin := { owq1.admin with holdup := true } }

theorem witness_EvictionAndDrain :
    (∃ e r, (owq1.die 0).owq = e :: r) ∧ owq1.admin.holdup = false ∧ heldUp.admin.holdup = true ∧ owq1.mayStart (.owqDrain 0) = true ∧
    ((base.l2Line 0).held = false ∧ (owq1.l2Line 0).dirty = false ∧ (l2d.l2Line 0).held = true ∧ (l2d.l2Line 0).dirty = true ∧
      (l2d.l2Line 0).p = false ∧ (l2p.l2Line (lineOf 0x10000000000)).dirty = true ∧ (l2p.l2Line (lineOf 0x10000000000)).p = true ∧
      homeDie (128 * lineOf 0x10000000000) = some 0) ∧
    ((owq1.setReg (Mmio.lapcfg + 0x38) 0).spend (.owqDrain 0) 4096).mayStart (.owqDrain 0) = false := by
  refine ⟨⟨_, _, rfl⟩, by decide +kernel⟩

/-- Tables map the first 512 MiB of partition 0, which is bound, valid and owns it; queue 0 at 0x20000 is ACTIVE with one packet. -/
def queues (wr ctl : W8) : State :=
  let s := ((tables.setReg (Mmio.partition 0) 1).setReg (Mmio.partition 0 + 0x10) 0x20000).setReg (Mmio.partition 0 + 0x18) 4
  { s with mem := Tab.putAll s.mem (fun _ => 0) [(0x500000, 0xF), (0x20002, 3), (0x20008, ctl), (0x20018, wr)], admin := { s.admin with bound := [0] },
           cxl := true }
def drives : State := (queues 1 1).setReg (Mmio.nvme 1) 0x70010

def windowed : State := { drives with admin := { drives.admin with cxlWindow := (0, 2 ^ 30) } }

theorem witness_HostPort :
    ((base.vfBound 0 = false ∧ drives.vfBound 0 = true) ∧ drives.bar2Serves 0 0x300000 8 = true ∧ drives.isDrive 0 7 = true ∧
      ∀ i, i < 8 → drives.isBad (0x300000 + i) = false ∧ drives.violates (drives.bar2Key 0) (0x300000 + i) = false) ∧
    backing 0 0x40000000000 = .host ∧ (drives.cxl = true ∧ within windowed.admin.cxlWindow.1 windowed.admin.cxlWindow.2 0x300000 8 = true ∧
      within drives.admin.cxlWindow.1 drives.admin.cxlWindow.2 0x300000 8 = false ∧ windowed.cxl = true ∧
      ∀ i, i < 8 → windowed.isBad (0x300000 + i) = false ∧ windowed.violates 0 (0x300000 + i) = false) ∧
    (drives.bar2Serves 1 0x300000 8 = false ∧ ((drives.setReg (Mmio.lapcfg + 8) 0).spend .hostDma 1).mayStart .hostDma = false) ∧
    (let s : State := { drives with bad := [sectorOf 0x300000] }
     s.bar2Serves 0 0x300000 8 = true ∧ s.isBad 0x300000 = true) ∧
    ((0x18 : BitVec 6).toNat % 8 = 0 ∧ clearOf 0x30003 (nvmeMask 0x18) = true ∧ bits 0x30003 11 0 ≠ 0 ∧ bits 0x30003 27 16 ≠ 0 ∧
      (base.reg (Mmio.nvme 2)).getLsbD 4 = false ∧ clearOf 0x10 (nvmeMask 0) = true ∧ (0x10 : W64).getLsbD 4 = true) := by decide +kernel

theorem witness_Doorbells :
    (let s := queues 1 1
     s.vfBound 0 = true ∧ (s.queue? 0 0).map (fun x => (x.usable, x.slots, x.rd, x.wr)) = some (true, 16, 0, 1) ∧ s.queue? 0 4 = none ∧ s.queue? 0 9 = none ∧
       ((16 : W64).toNat + 2 ^ 32 - 0) % 2 ^ 32 ≤ 16 ∧ ((16 : W64).toNat + 2 ^ 32 - 1) % 2 ^ 32 < 2 ^ 31 ∧ s.sched.enq = []) ∧
    (base.vfBound 0 = false ∧ (List.replicate 64 (0 : W8)).length = 64) ∧
    (let s := queues 1 1
     let e := s.newEnqueue 0 (List.replicate 64 0) none
     match s.enqueue e.part e.handle e.packet with
      | .done _ _ => true
      | .full => false) = true := by decide +kernel

/-- A node's root waits to be moved into die 0's pool. -/
def someNode : Node :=
  { id := 1, launch := 1, part := 0, queue := 0, root := Instance.none, waiting := true, count := EndCount.one, killed := false, shared := false }
def rooted : State := { base with sched := { base.sched with nodes := [someNode] } }

theorem witness_LaunchingAndSelection :
    (let s := queues 1 1
     (s.queue? 0 0).map (fun x => (x.state, x.size, x.held)) = some (1, 0, 1) ∧ s.reserveNodes.sched.admitting = [] ∧
       s.reserveNodes.sched.inlines = [] ∧ (s.reserveNodes.deviceRead 0 0x30000 64).isSome = true ∧
       (let a : Admitting := { launch := 1, part := 0, queue := 0, args := 0, records := [] }
        let t : State := { s with sched := { s.sched with admitting := [a] } }
        (t.reserveNodes.sched.admitting.find? fun a => a.part == 0 && a.queue == 0) = some a)) ∧
    base.eligible = [] ∧
    (rooted.eligible = [someNode] ∧ (rooted.serveLevel (flowsOf (rooted.eligible.filter fun n => n.root.region.prio == 0)) 0).map (·.1) = some (0, 0, 0) ∧
      flowOf someNode.root = (0, 0, 0) ∧ (rooted.die 0).openUsed < poolSize - poolKept ∧ (rooted.die 0).spill = [] ∧
      (rooted.die 0).late = []) ∧
    (let s := base.updDie 0 fun x => { x with spill := [{ inst := Instance.none, since := 0, kept := false }] }
     (s.die 0).keptUsed < poolKept ∧ (s.die 0).late = [] ∧ s.fitted Instance.none = [Instance.none]) ∧
    (let e (k : Bool) : PoolEntry := { inst := Instance.none, since := 0, kept := k }
     let s := base.updDie 0 fun x => { x with pool := List.replicate 64 (e true) ++ List.replicate 960 (e false) }
     poolKept ≤ (s.die 0).keptUsed ∧ poolSize - poolKept ≤ (s.die 0).openUsed ∧ (s.die 0).late = []) ∧
    (let s := base.updDie 0 fun x => { x with late := [Instance.none] }
     (s.die 0).spill = [] ∧ ((s.updDie 0 fun x => { x with late := [] }).queueHalf? Instance.none).isSome = true) := by decide +kernel

/-- The physical function's mailbox is open: the boot has reached its fifth stage. -/
def booted : State := { State.reset with admin := { State.reset.admin with stage := 5 } }

theorem witness_MailboxRequests :
    (booted.boxOpen 0 = true ∧ (booted.box 0).busy = false ∧ booted.admin.failed = none ∧ (List.replicate 32 (0 : W8)).length = 32 ∧ booted.admin.failed ≠ some 1) ∧ (4 : W8).toNat ≤ 4 ∧
    ((booted.putCap 2300).isSome = true ∧ booted.putCap 0 = none) ∧ (1 ≤ (8 : W8).toNat ∧ (8 : W8).toNat ≤ 8) ∧ 16 ≤ (16 : W8).toNat ∧ (15 : W8).toNat < 16 := by
  decide +kernel

theorem witness_FirmwareImages : booted.boxOpen 0 = true ∧ (booted.box 0).busy = false ∧ booted.admin.failed ≠ some 1 ∧ (List.replicate 2040 (0 : W8)).length ≤ 2040 := by decide +kernel

/-- A call of a code waits on die 0, from a stream whose partition's tables are `tables`. -/
def called (code : W16) (arg : W64) (reply : Option W64) : State :=
  (queues 1 1).updDie 0 fun x => { x with svc := [{ who := base.me, code, arg, path := 0, reply }] }

theorem witness_ServiceCalls :
    (∀ k, k < 5 → ((((called (BitVec.ofNat 16 k) 0 none).die 0).svc.find? fun c => c.reply.isNone).map (·.code)) = some (BitVec.ofNat 16 k)) ∧
    ((called 1 0x10000 none).deviceRead 0 0x10000 64).isSome = true ∧ (4 : W64).toNat ≤ 4 ∧ 4 < (5 : W64).toNat ∧
    ((((called 1 0 (some 0)).die 0).svc.map fun c => (c.code, c.reply)) = [(1, some 0)]) := by decide +kernel

/-- The rails are off; the drain records may have been written. -/
def powerOff (drained : Bool) : State :=
  { State.reset with admin := { State.reset.admin with holdup := true, off := true },
                     media := if drained then Tab.putAll [] (fun _ => 0) ((List.range 4).map fun d => (drainRecordAt d + 16, 1)) else [] }

theorem witness_LossOfPower :
    (State.reset.gtb.toNat < State.reset.admin.telemetryAt + 10 ^ 9 ∧ 10 ^ 9 ≤ ({ State.reset with gtbAcc := 10 ^ 9 * gtbUnit } : State).gtb.toNat) ∧
    State.reset.admin.holdup = false ∧ (heldUp.admin.holdup = true ∧ heldUp.admin.off = false) ∧
    ((powerOff false).admin.holdup = true ∧ (powerOff false).admin.off = true) ∧ (powerOff true).admin.off = true ∧
    (∀ d, d < 4 → ((powerOff true).readDrain d).done = true ∧ ((powerOff false).readDrain d).done = false) := by decide +kernel

theorem witness_BootStages : State.reset.admin.failed = none ∧ State.reset.admin.off = false ∧ State.reset.admin.stage = 0 ∧
    ∀ k, k < 6 → ({ State.reset with admin := { State.reset.admin with stage := k } } : State).admin.stage = k := by decide +kernel

/-- Set 3 captures one unit on die 0, with its contact sheet at 0x10000100000, in a group of this package; its step has passed. -/
def snapped (state : Nat) (walked : List Nat) (rsize : W64) : State :=
  let s := ((((State.reset.setReg (Mmio.snapSet 3) 0x5111).setReg (Mmio.snapSet 3 + 0x20) 0x10000000000).setReg (Mmio.snapSet 3 + 0x28) rsize).setReg
    (Mmio.snapSet 3 + 0xA0) 0x10000100000).setSnap 3 { SnapSet.none with state, cseq := 1, cstep := 0xFFFF, walked }
  s.setReg (Mmio.lapcfg + 0x18) 0xFFFFFFFF

theorem witness_CaptureStates :
    (∀ n, n ∈ [0, 4096] → ((snapped 1 [] (BitVec.ofNat 64 n)).snap 3).state = 1 ∧ 0 ∉ ((snapped 1 [] (BitVec.ofNat 64 n)).snap 3).walked ∧
      (snapped 1 [] (BitVec.ofNat 64 n)).walkMay 3 = true) ∧
    ((snapped 1 [] 0).walkDone 3 0 = true ∧ (snapped 1 [] 4096).walkDone 3 0 = false) ∧
    ((snapped 1 [] 4096).mayStart (.snapWalk 0) = true ∧ (snapped 1 [] 4096).unitOpen 3 0 0 ≠ []) ∧
    ((snapped 1 [] 4096).snaps.map (fun e => (e.1, e.2.state)) = [(3, 1)]) ∧
    (∀ d, d < 4 → d ∈ ((snapped 1 [0, 1, 2, 3] 0).snap 3).walked) ∧
    (((snapped 2 [] 0).snap 3).state = 2 ∧ ((snapped 2 [] 0).snap 3).awaits = [] ∧ (((snapped 2 [] 0).setReg (Mmio.snapSet 3) 0x5101).snapDesc 3).code = 0) ∧
    (∀ b, (((snapped 1 [0, 1, 2, 3] 0).setSnap 3 { (snapped 1 [0, 1, 2, 3] 0).snap 3 with parityFailed := b }).snap 3).parityFailed = b) := by
  decide +kernel

def parity1 : State := { snapped 1 [] 4096 with mem := [(0x10000100000, 1)] }

theorem witness_ParityUnits :
    (parity1.snapDesc 3).code = 1 ∧ 0 < parity1.dataUnits 3 ∧ 0 ∉ (parity1.snap 3).sent ∧ parity1.restriping 3 = false ∧ (parity1.snap 3).state = 1 ∧
    parity1.unitReady 3 0 = true ∧ parity1.mayStart (parity1.parityCharge 3) = true ∧ parity1.windowOpen 0 0 0 = true ∧
    (parity1.group 0).domain = 0 := by decide +kernel

/-- A packet of package 1 for this one. -/
def pkt (psn : W32) : Packet :=
  { trim := false, ordered := true, last := true, path := 0, cls := 0, src := 1, dst := 0, flow := 0, domain := 0, len := 0, psn, opid := 0, addr := 0,
    aux := 0, trims := 0, payload := [] }
def rx0 : RxFlow :=
  { src := 1, domain := 0, flow := 0, next := 3, done := [], held := [], holes := [], ops := [], atoms := [], dead := [], reads := [] }
def receiving (t : RxFlow) : State := { State.reset with fab := { State.reset.fab with rx := [t] } }

theorem witness_DataPackets :
    badHeader { pkt 0 with cls := 4 } = true ∧ badHeader { pkt 0 with len := 65 } = true ∧ badHeader { pkt 0 with type := 0 } = true ∧ badHeader { pkt 0 with reserved := 1 } = true ∧ badHeader (pkt 0) = false ∧ badHeader { pkt 0 with len := 64 } = false ∧
    ({ State.reset with fab := { State.reset.fab with down := [1] } } : State).fenced (pkt 0) = true ∧ State.reset.fenced (pkt 0) = false ∧
    ({ pkt 0 with dst := 2 }).dst.toNat ≠ State.reset.pkg ∧ State.reset.fenced { pkt 0 with dst := 2 } = false ∧ (pkt 0).dst.toNat = State.reset.pkg ∧
    ((receiving { rx0 with next := 9, dead := [(4, 9)] }).rxOf (pkt 4)).inDead 4 = true ∧ ((receiving rx0).rxOf (pkt 2)).performed 2 = true ∧
    (((receiving rx0).rxOf (pkt 3)).performed 3 = false ∧ ((receiving rx0).rxOf (pkt 3)).inDead 3 = false ∧ psnDiff 3 3 < flowWindow ∧
      ((receiving rx0).rxOf (pkt 3)).ready .put (pkt 3) = true) ∧
    (((receiving rx0).rxOf (pkt 5)).performed 5 = false ∧ psnDiff 5 3 < flowWindow ∧ ((receiving rx0).rxOf (pkt 5)).ready .put (pkt 5) = false ∧
      ((receiving rx0).pacerArrived (pkt 5)).heldBytes + (pkt 5).payload.length ≤ reorderBytes) := by decide +kernel

theorem witness_reorder : reorderBytes < ((receiving rx0).pacerArrived (pkt 5)).heldBytes + (List.replicate (reorderBytes + 1) (0 : W8)).length := by
  rw [List.length_replicate]
  omega

def txs : State :=
  { State.reset with fab := { State.reset.fab with
      tx := [{ dst := 1, domain := 0, flow := 0, psn := 1, kept := [(.put, { pkt 0 with src := 0, dst := 1 })] }],
      pacers := [{ src := 1, waiting := [{ domain := 0, flow := 0, psn := 5, trims := 0 }], out := [], count := 15, last := none }] } }

theorem witness_TrimsAndRetransmissions :
    (badHeader (pkt 3) = false ∧ (receiving rx0).fenced (pkt 3) = false ∧ (pkt 3).dst.toNat = (receiving rx0).pkg) ∧
    (((receiving rx0).rxOf (pkt 3)).inDead 3 = false ∧ ((receiving rx0).rxOf (pkt 3)).performed 3 = false ∧ ((receiving rx0).rxOf (pkt 2)).performed 2 = true) ∧
    (({ pkt 0 with aux := 256, last := false }).aux = 256 ∧ ({ pkt 0 with aux := 255 }).aux.toNat < 256) ∧
    (State.reset.overTrim 0 0 = false ∧ ({ State.reset.setReg (Mmio.trimcfg 0) 0x1000 with fab := { State.reset.fab with
      queue := [{ port := 0, kind := .put, packet := { pkt 0 with payload := List.replicate 4097 0 } }] } } : State).overTrim 0 0 = true) ∧
    (((txs.txFlow 1 0 0).kept.find? fun e => e.2.psn == (pkt 0).psn).isSome = true) ∧ (3 < (4 : BitVec 3).toNat ∧ (3 : BitVec 3).toNat ≤ 3) ∧
    ((txs.pacer 1).waiting = [{ domain := 0, flow := 0, psn := 5, trims := 0 }] ∧ (txs.pacer 1).last = none ∧ (txs.pacer 1).out.length < 15 ∧
      (txs.pacer 1).count < 16) := by decide +kernel

/-- 30,000 ns after reset, with a list of time sources. -/
def later (l : List Nat) : State :=
  { State.reset with gtbAcc := 200000 * 273000000, fab := { State.reset.fab with sources := if l.isEmpty then [] else [(0, l)], heard := [(1, 0)], synced := some 0 } }

/-- Group 0 holds this package and package 1. -/
def grouped : State :=
  ((later []).setReg (Mmio.group 0) 0x1000000000000001).setReg (Mmio.member 0) 0x10000

theorem witness_HeartbeatsAndTime :
    ((later []).fab.heartbeatAt + 4000 ≤ (later []).gtb.toNat ∧ (later []).fab.timesyncAt + 1000 ≤ (later []).gtb.toNat ∧
      (∀ e ∈ (later []).fab.heard, e.2 + 20000 ≤ (later []).gtb.toNat) ∧ 20000 ≤ (later []).gtb.toNat) ∧
    ((later [1]).timeSource = some 1 ∧ (later [1]).pkg = 0 ∧ (later []).timeSource = none ∧ (later [1]).fab.freeRun = false ∧ (later [1]).timeList = some (0, [1]) ∧ (pkt 0).domain.toNat = 0 ∧
      0 + 100000 ≤ (later [1]).gtb.toNat) ∧
    ((1 : W8).toNat ≠ grouped.pkg ∧ grouped.sharesGroup 1 = true ∧ grouped.knowsLost 1 = false ∧ (∀ e ∈ grouped.fab.heard, e.2 + 20000 ≤ grouped.gtb.toNat) ∧
      20000 ≤ grouped.gtb.toNat ∧ grouped.isDown 1 = false ∧ grouped.recovery = none) ∧
    ((later []).isDown 0 = false ∧ (later []).recovery = none ∧ ({ later [] with fab := { (later []).fab with down := [0] } } : State).isDown 0 = true) := by
  decide +kernel

/-- A recovery that has finished a stage, from the loss of package 1. -/
def recovering (stage : Nat) (failed : Bool) : State :=
  { (snapped 5 [] 0).setReg (Mmio.snapSet 3) 0x5101 with
    recovery := some { State.reset.freshRecovery [1] with stage, failed } }
/-- Packages 0 and 1 are the members of group 0. -/
def pair01 : State := (State.reset.setReg (Mmio.group 0) (1 + 2 ^ 60)).setReg (Mmio.member 0) (256 * 256)

theorem witness_RecoveryStages :
    (pair01.isDown 1 = false ∧ pair01.recovery = none ∧ pair01.sharesGroup 1 = true) ∧
    (∀ k, k < 8 → ((recovering k false).recovery.map fun r => (r.stage, r.failed)) = some (k, false)) ∧
    ((recovering 4 true).recovery.map fun r => r.failed) = some true ∧
    ((recovering 4 false).recovery.map fun r => (recovering 4 false).recoverySets r) = some [] ∧
    (∀ q, q < 64 → ({ recovering 6 false with snaps := [] } : State).snap q = SnapSet.none) ∧
    (((recovering 6 false).snap 3).state = 5 ∧ (∀ q, q < 64 → q ≠ 3 → ((recovering 6 false).snap q).state ≠ 5) ∧ (recovering 6 false).restriped 3 = true ∧
      ((recovering 6 false).snapDesc 3).code = 0) := by decide +kernel

/-- A flit with a given check value. -/
def flit (kind : BitVec 4) (seq : BitVec 12) (crc : W32) : Flit := { seq, ackseq := 0xFFF, kind, reserved := 0, payload := [], crc }

theorem flitGood_flit (kind : BitVec 4) (seq : BitVec 12) (c : W32) : flitGood (flit kind seq c) = (crc32c (flitBody (flit kind seq 0)) == c) := by
  simp only [flitGood, flitBody, flitHead, flit]

/-- Of every flit, one check value is good and the next is not. -/
theorem witness_flits (kind : BitVec 4) (seq : BitVec 12) : ∃ c, flitGood (flit kind seq c) = true ∧ flitGood (flit kind seq (c + 1)) = false := by
  have key : ∀ x : W32, ∃ c, (x == c) = true ∧ (x == c + 1) = false := fun x => ⟨x, by simp, by simp⟩
  obtain ⟨c, h1, h2⟩ := key (crc32c (flitBody (flit kind seq 0)))
  exact ⟨c, (flitGood_flit kind seq c).trans h1, (flitGood_flit kind seq (c + 1)).trans h2⟩

/-- Whether a sender may send a flit does not rest on its check value. -/
theorem maySend_flit (d back : LinkDir) (kind : BitVec 4) (seq : BitVec 12) (c : W32) :
    d.maySend back (flit kind seq c) = d.maySend back (flit kind seq 0) := rfl

def linkWith (x : LinkModule) (held : List Flit) : State :=
  { later [] with modules := [(0, x)], links := [(linkKey 0 true, { LinkDir.reset with held })] }

theorem witness_DieLinks :
    (State.reset.mod 39).failed = false ∧ (State.reset.mod 0).training = none ∧
    ((0 : BitVec 12) = (State.reset.link (linkKey 0 true)).accepted + 1 ∧
      (1 : BitVec 12) ≠ (State.reset.link (linkKey 0 true)).accepted + 1) ∧
    ((State.reset.link (linkKey 0 true)).maySend (State.reset.link (linkKey 0 false)) (flit 0 0 0) = true ∧
      (State.reset.link (linkKey 0 true)).maySend (State.reset.link (linkKey 0 false)) (flit 4 0 0) = true ∧
      (State.reset.link (linkKey 0 true)).maySend (State.reset.link (linkKey 0 false)) (flit 0 7 0) = false ∧
      (State.reset.link (linkKey 0 true)).nak = false ∧ (State.reset.link (linkKey 0 true)).discarding = false ∧
      ((State.reset.mod 0).recent.filter fun t => State.reset.gtb.toNat ≤ t + 1000000).length < 7 ∧
      (linkWith { LinkModule.reset with half := true } []).links.length = 1) ∧
    (((linkWith LinkModule.reset [flit 0 0 0]).link (linkKey 0 true)).held = [flit 0 0 0] ∧
      ((linkWith LinkModule.reset [flit 0 0 0]).link (linkKey 0 true)).progress + 64 ≤ (linkWith LinkModule.reset [flit 0 0 0]).gtb.toNat) ∧
    (((linkWith { LinkModule.reset with half := true } []).mod 0).half = true ∧
      ((linkWith { LinkModule.reset with half := true } []).link (linkKey 0 false)).held = [] ∧
      ((linkWith { LinkModule.reset with half := true } []).link (linkKey 0 true)).waiting = []) ∧
    (({ later [] with links := [(linkKey 0 true, { LinkDir.reset with nak := true })] } : State).link (linkKey 0 true)).nak = true ∧
    (((linkWith { LinkModule.reset with training := some 0 } []).mod 0).training = some 0 ∧
      0 + 2000 ≤ (linkWith { LinkModule.reset with training := some 0 } []).gtb.toNat) := by decide +kernel

theorem witness_MemoryWrites :
    base.snaps = [] ∧ base.l2 = [] ∧ base.secKey = [] ∧ base.material Under.device.key = 0 ∧ base.memoryWf = true := by decide +kernel

/-- No line is dirty, so none is under a key that its block is not. -/
theorem witness_oneKey : base.oneKey ∧ mem1.oneKey := by
  constructor <;> · intro l h; exact absurd h (by simp [State.l2Line, show base.l2 = [] by decide +kernel, show mem1.l2 = [] by decide +kernel, Tab.getD, L2Line.absent])

/-- The places that a store of one lane resolves to, all of them in memory under a key that does not change; an address of a peer
window. -/
theorem witness_StoreFrame :
    mem1.snaps = [] ∧ mem1.secKey = [] ∧ (match mem1.places .global [(0, 0x10100)] 4 .write servesVector with
      | some xs => xs.length == 1 && xs.all fun x => match x.loc with
        | .mem pa e => mem1.material e.key == 0 && (List.range 4).all fun i => (mem1.peerAt (pa + i)).isNone
        | _ => false
      | none => false) = true ∧ (mem1.peerAt 0x1010000000000).isSome = true := by decide +kernel

theorem witness_EveryStepKeepsMemoryForm : base.memoryWf = true ∧ (match step base with | .next _ => true | _ => false) = true := by decide +kernel

theorem witness_DecodeAfterEncode : (Instr.sadd fS).shape ≠ .event ∧ (Instr.sadd fS).legal = true ∧ (encode (.sadd fS)).isSome = true :=
  ⟨by (intro h; cases h), by decide +kernel, by decide +kernel⟩

theorem witness_EncodeAfterDecode : decodeSlot (1 * 2 ^ 20 + 0x102 * 2 ^ 28 + 0x103 * 2 ^ 38) none = .ok (.sadd fS) := by decide +kernel

/-- `base` runs its NOP; an agenda may name its stream, another, or an event. -/
theorem witness_StepRunsDecodedInstruction :
    (base.agenda = [] ∧ base.ready = true ∧ base.st.wait = .none ∧ (base.st.trap.pend && !base.st.trap.hmode) = false ∧ base.sq.overdue = false ∧
      (match base.fetch with | .line t bs => !linePair (lineWord bs) (pcSlot t.st.pc) | _ => false) = true) ∧
    (base.keyKills = [] ∧ (match base.takeSlot.fetch with | .line _ _ => true | _ => false) = true ∧
      (match base.translate [(0, pcLine base.st.pc)] .exec (fun k => k == .memory) with
        | .ok [(_, _, e)] =>
          let u := base.clearDeny.keepTlb [e]
          u.codeEntry (pcLine base.st.pc).toNat == some e && !u.viewBad base.sq.core e.key e.cp .l1 (e.pa (pcLine base.st.pc).toNat) &&
            !u.violates e.key (e.pa (pcLine base.st.pc).toNat) && lineParityOk (u.freshLine (pcLine base.st.pc).toNat e)
        | _ => false) = true) ∧
    (pcValid base.st.pc = true ∧ base.st.line = none ∧ base.st.entering = false ∧ base.st.skip = false ∧
      (match base.translate [(0, pcLine base.st.pc)] .exec (fun k => k == .memory) with | .ok [_] => true | _ => false) = true ∧
      (base.core base.sq.core).icache = [] ∧ (base.clearDeny.codeEntry (pcLine base.st.pc).toNat).isSome = true ∧
      lineParityOk (makeLine [0x4D] 1 0 0) = true ∧ lineFaults (lineWord (makeLine [0x4D] 1 0 0)) = 0) ∧ base.admin.holdup = false ∧
    (State.has base { base.me with sid := 99 } = false ∧ State.has base base.me = true ∧ (State.focus base base.me).st.readyAt ≤ base.cycle) := by
  decide +kernel

theorem witness_event : Instr.xlinvDone.shape = .event := rfl

theorem witness_IntegerNarrowing : (0 : Nat) < 8 ∧ (-(2 ^ (8 - 1) : Nat) : Int) ≤ -128 ∧ (127 : Int) ≤ (2 ^ (8 - 1) : Nat) - 1 ∧
    (-129 : Int) < -(2 ^ (8 - 1) : Nat) ∧ ((2 ^ 8 : Nat) - 1 : Int) < 256 := by decide

end Sys2Proof.Tests
end

section
/-! SUPPORT. Writes of device registers (R10, R23, R191, R371): who may write them, and which values they store. -/

namespace Sys2Proof.Machine

/-! ### Values that a register's mask allows -/

theorem clearOf_iff_and_not {v mask : W64} : clearOf v mask = true ↔ v &&& ~~~mask = 0 := by simp [clearOf]

theorem clearOf_iff_and_eq {v mask : W64} : clearOf v mask = true ↔ v &&& mask = v := by
  rw [clearOf_iff_and_not]
  constructor <;> intro h <;> ext i hi <;> simpa [hi] using congrArg (·.getLsbD i) h

/-- A register of `n` bits takes the values below `2 ^ n`. -/
theorem clearOf_ones_iff_lt {v : W64} {n : Nat} (hn : n ≤ 64) :
    clearOf v (BitVec.ofNat 64 (2 ^ n - 1)) = true ↔ v.toNat < 2 ^ n := by
  have hmask : 2 ^ n - 1 < 2 ^ 64 := by
    have := Nat.pow_le_pow_right (n := 2) (by decide) hn
    omega
  rw [clearOf_iff_and_eq, ← BitVec.toNat_inj, BitVec.toNat_and, BitVec.toNat_ofNat, Nat.mod_eq_of_lt hmask,
    Nat.and_two_pow_sub_one_eq_mod, Nat.mod_eq_iff_lt (Nat.two_pow_pos n).ne']

/-! ### Writes by requester and address -/

theorem supervised_true (pa : Nat) (s : State) (k : State → State) : supervised true pa s k = .next (k s) := rfl

theorem exec_partitionDescriptorWrite_true (p : BitVec 4) (off : BitVec 12) (v : W64) (s : State) :
    exec (.partitionDescriptorWrite p off v true) s = .next (s.writeDescriptor p.toNat off.toNat v) := by
  change execPartitionDescriptorWrite p off v true s = _
  rw [execPartitionDescriptorWrite, supervised_true]

theorem exec_mmioRegisterWrite_false (pa v : W64) (s : State) :
    exec (.mmioRegisterWrite pa v false) s = .next (s.drop pa.toNat) := by
  change execMmioRegisterWrite pa v false s = _
  rw [execMmioRegisterWrite, if_pos (.inl rfl)]

/-- A supervisor's write runs the register at its offset in the MMIO space. -/
theorem exec_mmioRegisterWrite_true {o : Nat} (ho : Mmio.base + o < 2 ^ 64) (v : W64) (s : State) :
    exec (.mmioRegisterWrite (BitVec.ofNat 64 (Mmio.base + o)) v true) s = s.writeMmio o v := by
  change execMmioRegisterWrite _ v true s = _
  have hpa : (BitVec.ofNat 64 (Mmio.base + o)).toNat = Mmio.base + o := Nat.mod_eq_of_lt ho
  rw [execMmioRegisterWrite, hpa, if_neg (by simp), Nat.add_sub_cancel_left]

theorem writeMmio_lapcfg (s : State) (v : W64) : s.writeMmio 0x50000 v = .next (s.writeLapcfg Mmio.lapcfg v) := rfl
theorem writeMmio_errinfo (s : State) (v : W64) : s.writeMmio 0x70010 v = .next (s.setReg Mmio.errinfo v) := rfl
theorem writeMmio_keyblob (s : State) (v : W64) :
    s.writeMmio 0x110008 v = .next (s.putReg Mmio.keyblob 0x000FFFFFFFFFF000 v) := rfl

/-! ### What each register stores -/

theorem writeLapcfg_lapcfg (s : State) (v : W64) :
    s.writeLapcfg Mmio.lapcfg v =
      if v.toNat < 32 ∧ 8 ≤ v.toNat ∧ v.toNat ≤ 16 then s.setReg Mmio.lapcfg v else s.ignore Mmio.lapcfg := by
  have hmask : clearOf v 0x1F = true ↔ v.toNat < 32 := clearOf_ones_iff_lt (n := 5) (by decide)
  rw [State.writeLapcfg, if_pos rfl, ← ite_not]
  refine if_congr ?_ rfl rfl
  rw [← hmask]
  grind

theorem putReg_keyblob (s : State) (v : W64) :
    s.putReg Mmio.keyblob 0x000FFFFFFFFFF000 v =
      if v &&& 0xFFF0000000000FFF = 0 then s.setReg Mmio.keyblob v else s.ignore Mmio.keyblob :=
  if_congr clearOf_iff_and_not rfl rfl

/-- A partition's word is stored where it is aligned and allowed, if the entries then keep their rules (R23). -/
theorem writeDescriptor_of_allowed (s : State) (p : Nat) {off : Nat} {v : W64} (halign : off % 8 = 0)
    (hmask : clearOf v (descriptorMask off) = true) (hmax : off = 0x18 → v.toNat ≤ 1024) :
    s.writeDescriptor p off v =
      if (s.setReg (Mmio.partition p + off) v).descriptorOk p then s.setReg (Mmio.partition p + off) v
      else s.ignore (Mmio.partition p + off) := by
  have hle : ¬(off = 0x18 ∧ 1024 < v.toNat) := fun h => absurd (hmax h.1) (by omega)
  cases hok : (s.setReg (Mmio.partition p + off) v).descriptorOk p <;>
    simp [State.writeDescriptor, halign, hmask, hle, hok]

/-- A ring's base is stored where its reserved bits are zero and an enabled ring stays in its place (R32, R371). -/
theorem ringBase_of_allowed {s : State} {pa lo : Nat} {v : W64}
    (hmask : v &&& ~~~BitVec.ofNat 64 (2 ^ 52 - 2 ^ lo + 1) = 0)
    (hplace : (s.reg pa).getLsbD 0 = true → bits v 51 lo = bits (s.reg pa) 51 lo) :
    s.ringBase pa lo v = some (s.setReg pa v) := by
  have hclear := clearOf_iff_and_not.mpr hmask
  refine if_neg ?_
  rintro (hreserved | ⟨henabled, hmoved⟩)
  · simp only [hclear, Bool.not_true, Bool.false_eq_true] at hreserved
  · exact hmoved (hplace henabled)

/-- A ring's tail is stored where it leaves no more records than before (R32, R371). -/
theorem ringTail_of_allowed {s : State} {pa headPa : Nat} {v : W64} (hlt : v.toNat < 2 ^ 32)
    (hheld : ringHeld (s.reg headPa) v ≤ ringHeld (s.reg headPa) (s.reg pa)) :
    s.ringTail pa headPa v = some (s.setReg pa v) := by
  have hclear : clearOf v 0xFFFFFFFF = true := (clearOf_ones_iff_lt (n := 32) (by decide)).mpr hlt
  refine if_neg ?_
  rintro (hreserved | hmore)
  · simp only [hclear, Bool.not_true, Bool.false_eq_true] at hreserved
  · exact absurd hheld (Nat.not_le.mpr hmore)

/-- A supervisor's write of a value that the register takes goes on from the stored value. -/
theorem orIgnore_eq_of_some {s s1 : State} {pa : Nat} (k : State → State) {r : Option State} (h : r = some s1) :
    Host.Outcome.next (s.orIgnore pa k r) = (.next (k s1) : Out) := by
  rw [h, State.orIgnore]

end Sys2Proof.Machine

namespace Sys2Proof.Claim

open Machine

/-- Each of these arms is `supervised`, which drops the write of another requester before it looks at the value; of
MMIO_REGISTER_WRITE the first branch does. -/
theorem supervisorOnlyWrites : SupervisorOnlyWrites := by
  intro s v
  refine ⟨fun pa => exec_mmioRegisterWrite_false pa v s, fun _ _ => rfl, ?keys, ?invalidations, ?responses, ?posts, rfl,
    ?decisions, fun _ => ⟨rfl, rfl, rfl, rfl⟩, fun _ => ⟨rfl, rfl, rfl, rfl⟩⟩
  all_goals simp only [List.forall_mem_cons]
  case keys => exact ⟨rfl, rfl, rfl, nofun⟩
  case invalidations => exact ⟨rfl, rfl, rfl, rfl, rfl, nofun⟩
  case responses | posts => exact ⟨rfl, rfl, nofun⟩
  case decisions => exact ⟨fun _ => rfl, fun _ => rfl, fun _ => rfl, fun _ => rfl, fun _ => rfl, fun _ => rfl, nofun⟩

/-- The register is found by its address; then its rule says what it stores. -/
theorem deviceRegisterWrites : Claim.DeviceRegisterWrites := by
  intro s v
  refine ⟨?lapcfg, ?keyblob, ?errinfo, ?descriptor, ?xlrbase, ?xlrtail, ?crbase, ?crtail⟩
  case lapcfg =>
    rw [← writeLapcfg_lapcfg]
    exact exec_mmioRegisterWrite_true (o := 0x50000) (by decide) v s
  case keyblob =>
    rw [← putReg_keyblob]
    exact exec_mmioRegisterWrite_true (o := 0x110008) (by decide) v s
  case errinfo =>
    exact exec_mmioRegisterWrite_true (o := 0x70010) (by decide) v s
  case descriptor =>
    intro p off halign hmask hmax
    have hmax' : off.toNat = 0x18 → v.toNat ≤ 1024 := fun h => hmax (by bv_omega)
    rw [exec_partitionDescriptorWrite_true, writeDescriptor_of_allowed s p.toNat halign hmask hmax']
  case xlrbase =>
    intro d _ hmask hplace
    exact orIgnore_eq_of_some (·.dueRecords d.toNat) (ringBase_of_allowed hmask hplace)
  case xlrtail =>
    intro d hlt hheld
    exact orIgnore_eq_of_some (·.dueRecords d.toNat) (ringTail_of_allowed hlt hheld)
  case crbase =>
    intro d _ hmask hplace
    exact orIgnore_eq_of_some id (ringBase_of_allowed hmask hplace)
  case crtail =>
    intro d hlt hheld
    exact orIgnore_eq_of_some id (ringTail_of_allowed hlt hheld)

end Sys2Proof.Claim

namespace Sys2Proof

/-- Settles O34: a write by another than the supervisor is dropped before its register is looked at; the supervisor's stores
the values that its register allows. -/
theorem deviceRegisterWrites : Obligations.DeviceRegisterWrites :=
  ⟨Claim.supervisorOnlyWrites, Claim.deviceRegisterWrites⟩

end Sys2Proof
end

section
/-! SUPPORT. Rows and ways of the tables of viability (R49, R51, R54, R69): what a write to several of them leaves, and what
the evictions that follow do not touch. -/

namespace Sys2Proof

/-- Keys written in turn, each with the value that a function gives it. -/
theorem Tab.getD_putAll_keys {α : Type} [DecidableEq α] (t : Tab α) (d g : Nat → α) (ks : List Nat) (j : Nat) :
    Tab.getD (Tab.putAll t d (ks.map fun k => (k, g k))) d j = if j ∈ ks then g j else Tab.getD t d j := by
  induction ks generalizing t with
  | nil => rfl
  | cons k ks ih =>
    rw [List.map_cons, Tab.putAll, ih, Tab.getD_put]
    by_cases hj : j = k <;> simp [hj]

/-- Words at a point and at every lower-voltage one: `n + 256 q + b` for the points `q` from `p` (R49). -/
theorem mem_lowerPoints_iff {n p b q b' : Nat} (hq : q < 5) (hb : b < 256) (hb' : b' < 256) :
    n + 256 * q + b' ∈ ((List.range 5).filter (p ≤ ·)).map (n + 256 * · + b) ↔ b' = b ∧ p ≤ q := by
  simp only [List.mem_map, List.mem_filter, List.mem_range, decide_eq_true_eq]
  constructor
  · rintro ⟨r, ⟨-, hr⟩, h⟩
    omega
  · rintro ⟨rfl, hp⟩
    exact ⟨q, ⟨hq, hp⟩, rfl⟩

namespace Machine

/-! ### The rows of the scratchpad -/

theorem rows_clearRows (x : Core) {p b q b' : Nat} (keep : W64) (hq : q < 5) (hb : b < 256) (hb' : b' < 256) :
    (x.clearRows p b keep).rows q b' = if b' = b ∧ p ≤ q then x.rows q b' &&& keep else x.rows q b' := by
  have hput := Tab.getD_putAll_keys x.rvt rvtFull (fun k => Tab.getD x.rvt rvtFull k &&& keep)
    (((List.range 5).filter (p ≤ ·)).map (0 + 256 * · + b)) (0 + 256 * q + b')
  simp only [mem_lowerPoints_iff hq hb hb', List.map_map, Function.comp_def] at hput
  simp only [Nat.zero_add] at hput
  simpa only [Core.rows, Core.clearRows] using hput

/-- The word of the lifetime area for bank b of core c at point q (R49). -/
def State.fieldMask (s : State) (c q b : Nat) : W64 :=
  Tab.getD s.admin.fieldRows (fun _ => BitVec.allOnes 64) (1280 * c + 256 * q + b)

theorem fieldMask_clearRows (s : State) (c : Nat) {p b q b' : Nat} (keep : W64) (hq : q < 5) (hb : b < 256) (hb' : b' < 256) :
    (s.clearRows c p b keep).fieldMask c q b' =
      if b' = b ∧ p ≤ q then s.fieldMask c q b' &&& keep else s.fieldMask c q b' := by
  have hput := Tab.getD_putAll_keys s.admin.fieldRows (fun _ => BitVec.allOnes 64)
    (fun k => Tab.getD s.admin.fieldRows (fun _ => BitVec.allOnes 64) k &&& keep)
    (((List.range 5).filter (p ≤ ·)).map (1280 * c + 256 * · + b)) (1280 * c + 256 * q + b')
  simp only [mem_lowerPoints_iff hq hb hb', List.map_map, Function.comp_def] at hput
  exact hput

theorem core_clearRows (s : State) (c p b k : Nat) (keep : W64) :
    (s.clearRows c p b keep).core k = if k = c then (s.core c).clearRows p b keep else s.core k := by
  rw [State.clearRows, State.core_updCore]
  rfl

theorem core_note (s : State) (e : LogEntry) (k : Nat) : (s.note e).core k = s.core k := rfl

/-- A quarantine is noted, or nothing is. -/
theorem quarantineCheck_cases (s : State) (c : Nat) :
    s.quarantineCheck c = s ∨
      ∃ ps : List Nat → List Nat, s.quarantineCheck c =
        (s.updCore c fun x => { x with quarantine := ps x.quarantine }).note (.notice 51 (BitVec.ofNat 64 c)) := by
  rw [State.quarantineCheck]
  split
  · exact .inl rfl
  · exact .inr ⟨(addNats · _), rfl⟩

theorem core_quarantineCheck_other (s : State) {c k : Nat} (hk : k ≠ c) : (s.quarantineCheck c).core k = s.core k := by
  obtain h | ⟨ps, h⟩ := quarantineCheck_cases s c <;> rw [h]
  rw [core_note, State.core_updCore, if_neg hk]

theorem rows_quarantineCheck (s : State) (c q b : Nat) : ((s.quarantineCheck c).core c).rows q b = (s.core c).rows q b := by
  obtain h | ⟨ps, h⟩ := quarantineCheck_cases s c <;> rw [h]
  rw [core_note, State.core_updCore, if_pos rfl]
  rfl

theorem quarantineCheck_rest (s : State) (c : Nat) :
    (s.quarantineCheck c).admin = s.admin ∧ (s.quarantineCheck c).mem = s.mem ∧ (s.quarantineCheck c).wv = s.wv ∧
      (s.quarantineCheck c).st = s.st := by
  obtain h | ⟨ps, h⟩ := quarantineCheck_cases s c <;> rw [h] <;> exact ⟨rfl, rfl, rfl, rfl⟩

/-- Two entries of a bank's remapping have changed places (R54). -/
theorem rowAt_swapSlots (x : Core) {b j k b' i : Nat} (hj : j < 34) (hk : k < 34) (hi : i < 34) :
    (x.swapSlots b j k).rowAt b' i =
      if b' = b ∧ i = k then x.rowAt b j else if b' = b ∧ i = j then x.rowAt b k else x.rowAt b' i := by
  have hkey : ∀ m, m < 34 → (34 * b' + i = 34 * b + m ↔ b' = b ∧ i = m) := by omega
  change Tab.getD (Tab.putAll x.rrt rrtIdentity _) rrtIdentity _ = _
  simp only [Tab.putAll, Tab.getD_put, hkey k hk, hkey j hj]
  rfl

/-! ### What evictions leave: the operating point, and the ways of every die and core -/

/-- The operating point and the tables of ways are as they were. -/
def KeepsWays (s t : State) : Prop :=
  t.power = s.power ∧ (∀ d, (t.die d).l2ways = (s.die d).l2ways) ∧ ∀ c, (t.core c).l1ways = (s.core c).l1ways

theorem KeepsWays.refl (s : State) : KeepsWays s s := ⟨rfl, fun _ => rfl, fun _ => rfl⟩

theorem KeepsWays.trans {s t u : State} (h : KeepsWays s t) (g : KeepsWays t u) : KeepsWays s u := by
  obtain ⟨hp, hd, hc⟩ := h
  obtain ⟨gp, gd, gc⟩ := g
  exact ⟨gp.trans hp, fun d => (gd d).trans (hd d), fun c => (gc c).trans (hc c)⟩

theorem KeepsWays.foldl {α : Type} {f : State → α → State} (h : ∀ s a, KeepsWays s (f s a)) (l : List α) (s : State) :
    KeepsWays s (l.foldl f s) := by
  induction l generalizing s with
  | nil => exact .refl s
  | cons a l ih => exact (h s a).trans (ih _)

theorem KeepsWays.ite {s t u : State} {p : Prop} [Decidable p] (ht : KeepsWays s t) (hu : KeepsWays s u) :
    KeepsWays s (if p then t else u) := by
  split
  · exact ht
  · exact hu

theorem keepsWays_of_eq {s t : State} (hp : t.power = s.power) (hd : t.dies = s.dies) (hc : t.cores = s.cores) :
    KeepsWays s t := by
  simp [KeepsWays, State.die, State.core, hp, hd, hc]

theorem keepsWays_updDie (s : State) (d : Nat) {f : Die → Die} (h : ∀ x, (f x).l2ways = x.l2ways) :
    KeepsWays s (s.updDie d f) := by
  refine ⟨rfl, fun e => ?_, fun _ => rfl⟩
  rw [State.die_updDie]
  split
  · next he => rw [h, he]
  · rfl

theorem keepsWays_updCore (s : State) (c : Nat) {f : Core → Core} (h : ∀ x, (f x).l1ways = x.l1ways) :
    KeepsWays s (s.updCore c f) := by
  refine ⟨rfl, fun _ => rfl, fun e => ?_⟩
  rw [State.core_updCore]
  split
  · next he => rw [h, he]
  · rfl

theorem keepsWays_metaUse (s : State) (pa : Nat) : KeepsWays s (s.metaUse pa) := by
  rw [State.metaUse]
  split
  · exact .refl s
  · dsimp only
    split
    · exact (keepsWays_of_eq (t := s.metaWriteBack _) rfl rfl rfl).trans (keepsWays_updDie _ _ fun _ => rfl)
    · exact keepsWays_updDie _ _ fun _ => rfl

theorem keepsWays_metaStore (s : State) (pa : Nat) (bs : List W8) : KeepsWays s (s.metaStore pa bs) := by
  rw [State.metaStore]
  split
  · exact .refl s
  · exact (keepsWays_metaUse s pa).trans (keepsWays_updDie _ _ fun _ => rfl)

theorem keepsWays_setBlockState (s : State) (pa v : Nat) : KeepsWays s (s.setBlockState pa v) := keepsWays_metaStore ..

theorem keepsWays_putTag (s : State) (sec : Nat) (t : Option W32) : KeepsWays s (s.putTag sec t) := by
  rw [State.putTag.eq_def]
  split
  · exact keepsWays_metaStore ..
  · exact .refl s

theorem keepsWays_storeTags (s : State) (l : List (Nat × List W8)) : KeepsWays s (s.storeTags l) :=
  .foldl (fun t _ => keepsWays_putTag t ..) l s

theorem keepsWays_putStored (s : State) (line : Nat) : KeepsWays s (s.putStored line) := keepsWays_of_eq rfl rfl rfl

theorem keepsWays_storeLine (s : State) (line : Nat) : KeepsWays s (s.storeLine line) :=
  (keepsWays_putStored s line).trans (keepsWays_storeTags ..)

theorem keepsWays_setL2 (s : State) (line : Nat) (v : L2Line) : KeepsWays s (s.setL2 line v) := keepsWays_of_eq rfl rfl rfl

theorem keepsWays_cleanL2 (s : State) (line : Nat) : KeepsWays s (s.cleanL2 line) := keepsWays_setL2 ..

theorem keepsWays_countWear (s : State) (line : Nat) : KeepsWays s (s.countWear line) := by
  rw [State.countWear]
  split <;> exact keepsWays_of_eq rfl rfl rfl

/-- An entry without a media error goes to the stack with its tags. -/
theorem keepsWays_drainEntry (s : State) (e : OwqEntry) : KeepsWays s (s.drainEntry e false) := by
  have hmedia := (keepsWays_of_eq (t := s.toMedia (128 * e.line) e.bytes e.mask) rfl rfl rfl).trans (keepsWays_countWear _ e.line)
  rw [State.drainEntry]
  dsimp only
  rw [if_neg (by decide)]
  exact hmedia.trans ((keepsWays_of_eq rfl rfl rfl).trans (.foldl (fun t _ => keepsWays_putTag t ..) _ _))

theorem keepsWays_drainOldest (s : State) (d : Nat) : KeepsWays s (s.drainOldest d false) := by
  rw [State.drainOldest]
  split
  · exact .refl s
  · refine KeepsWays.trans ?_ (keepsWays_drainEntry ..)
    exact keepsWays_updDie _ _ fun _ => rfl

theorem keepsWays_acceptLine (s : State) (d line : Nat) : KeepsWays s (s.acceptLine d line) :=
  (KeepsWays.ite (keepsWays_drainOldest s d) (.refl s)).trans (keepsWays_updDie _ _ fun _ => rfl)

theorem keepsWays_rekey (s : State) (key sec : Nat) : KeepsWays s (s.rekey key sec) := by
  have hmem : KeepsWays s (if s.rekeyed key (64 * sec) then
      { s with mem := Tab.putAll s.mem (fun _ => 0) ((s.sectorUnder key sec).zipIdx.map fun e => (64 * sec + e.2, e.1)) } else s) :=
    .ite (keepsWays_of_eq rfl rfl rfl) (.refl s)
  exact .ite hmem (hmem.trans (keepsWays_of_eq rfl rfl rfl))

theorem keepsWays_rekeyOther (s : State) (line : Nat) : KeepsWays s (s.rekeyOther line) :=
  .ite (.refl s) ((keepsWays_rekey ..).trans (keepsWays_rekey ..))

theorem keepsWays_storeBlock (s : State) (c : Bool) (line : Nat) : KeepsWays s (s.storeBlock c line) := by
  have hhurt (t : State) (hurt : Bool) (secs : List Nat) : KeepsWays t (if hurt then t.taint secs else t) :=
    .ite (keepsWays_of_eq rfl rfl rfl) (.refl t)
  have hput (t : State) (l m : Nat) : KeepsWays t ((t.putStored l).putStored m) :=
    (keepsWays_putStored ..).trans (keepsWays_putStored ..)
  rw [State.storeBlock]
  exact ((((keepsWays_rekeyOther s line).trans (hhurt ..)).trans (hput ..)).trans
    ((keepsWays_setBlockState ..).trans (keepsWays_storeTags ..))).trans ((keepsWays_cleanL2 ..).trans (keepsWays_cleanL2 ..))

theorem keepsWays_writeBack (s : State) (line : Nat) : KeepsWays s (s.writeBack line) := by
  have hline := (keepsWays_storeLine s line).trans (keepsWays_cleanL2 _ line)
  rw [State.writeBack]
  split
  · exact .ite (keepsWays_storeBlock ..) hline
  · exact hline
  · exact keepsWays_cleanL2 ..

theorem keepsWays_evictLine (s : State) (line : Nat) : KeepsWays s (s.evictLine line) := by
  refine .ite (.refl s) (.ite ?_ (keepsWays_writeBack s line))
  split
  · exact (keepsWays_acceptLine ..).trans (keepsWays_cleanL2 ..)
  · exact .refl s

theorem keepsWays_invalidateL1 (s : State) (line : Nat) (but : Option Nat) : KeepsWays s (s.invalidateL1 line but) := by
  refine KeepsWays.foldl (fun t c => ?_) _ s
  exact keepsWays_updCore t c fun _ => rfl

theorem keepsWays_evictOut (s : State) (line : Nat) : KeepsWays s (s.evictOut line) :=
  ((keepsWays_evictLine s line).trans (keepsWays_invalidateL1 ..)).trans (keepsWays_setL2 ..)

/-- The ways that fail are emptied, not changed (R56, R69). -/
theorem keepsWays_disableWays (s : State) (p : Nat) : KeepsWays s (s.disableWays p) := by
  have hout (l : List (Nat × L2Line)) : KeepsWays s (l.foldl (fun t e => t.evictOut e.1) s) :=
    .foldl (fun t e => keepsWays_evictOut t e.1) l s
  refine (hout _).trans (.foldl (fun t e => .ite (.refl t) ?_) _ _)
  exact keepsWays_updCore t e.1 fun _ => rfl

/-- `Calm.foldl` for updates that are calm where the keys of dirty lines are those of their blocks. -/
theorem calm_foldl_of_oneKey {α : Type} {f : State → α → State} (h : ∀ s a, s.oneKey → Calm s (f s a)) (l : List α) (s : State)
    (hs : s.oneKey) : Calm s (l.foldl f s) := by
  induction l generalizing s with
  | nil => exact .refl s
  | cons a l ih => exact (h s a hs).trans (ih _ ((h s a hs).oneKey hs))

theorem calm_disableWays (s : State) (p : Nat) (hs : s.oneKey) : Calm s (s.disableWays p) := by
  have hout (l : List (Nat × L2Line)) : Calm s (l.foldl (fun t e => t.evictOut e.1) s) :=
    calm_foldl_of_oneKey (fun t e => calm_evictOut t e.1) l s hs
  refine (hout _).trans (Calm.foldl _ (fun t e => ?_) _ _)
  dsimp only
  split
  · exact .refl t
  · exact calm_updCore ..

theorem oneKey_of_clean {s : State} (h : ∀ k, (s.l2Line k).dirty = false) : s.oneKey := by
  intro l hl
  simp [h l] at hl

/-! ### The instructions -/

theorem exec_rvtWrite_true {c : BitVec 8} {idx : BitVec 11} {v : W64} (s : State) (hc : c.toNat < 192) (hidx : idx.toNat < 1280)
    (hv : v.toNat < 2 ^ 34) :
    exec (.rvtWrite c idx v true) s =
      .next ((s.clearRows c.toNat (idx.toNat / 256) (idx.toNat % 256) v).quarantineCheck c.toNat) := by
  have hclear : clearOf v 0x3FFFFFFFF = true := (clearOf_ones_iff_lt (n := 34) (by decide)).mpr hv
  change execRvtWrite c idx v true s = _
  rw [execRvtWrite, supervised_true, hclear, if_neg (by simp; omega)]

theorem exec_wayViabilityWrite_l2 {u i : BitVec 8} {v : W64} (s : State) (hu : u.toNat < 4) (hi : i.toNat < 160)
    (hv : v.toNat < 2 ^ 16) :
    exec (.wayViabilityWrite true u i v true) s =
      .next ((s.updDie u.toNat fun x => { x with l2ways := Tab.upd x.l2ways l2Full i.toNat (· &&& v) }).disableWays s.wayPoint) := by
  have hclear : clearOf v 0xFFFF = true := (clearOf_ones_iff_lt (n := 16) (by decide)).mpr hv
  change execWayViabilityWrite true u i v true s = _
  rw [execWayViabilityWrite, if_pos rfl, supervised_true, hclear, if_neg (by simp; omega)]

theorem exec_wayViabilityWrite_l1 {u i : BitVec 8} {v : W64} (s : State) (hu : u.toNat < 192) (hi : i.toNat < 5)
    (hv : v.toNat < 2 ^ 8) :
    exec (.wayViabilityWrite false u i v true) s =
      .next ((s.updCore u.toNat fun x => { x with l1ways := Tab.upd x.l1ways l1Full i.toNat (· &&& v) }).disableWays s.wayPoint) := by
  have hclear : clearOf v 0xFF = true := (clearOf_ones_iff_lt (n := 8) (by decide)).mpr hv
  change execWayViabilityWrite false u i v true s = _
  rw [execWayViabilityWrite, if_neg (by decide), supervised_true, hclear, if_neg (by simp; omega)]

/-- A word of a table of ways loses the bits that the write clears. -/
theorem getD_upd_and (t : Tab W64) (d : Nat → W64) (i j : Nat) (v : W64) :
    Tab.getD (Tab.upd t d i (· &&& v)) d j = if j = i then Tab.getD t d j &&& v else Tab.getD t d j := by
  rw [Tab.upd, Tab.getD_put]
  split
  · next h => rw [h]
  · rfl

/-- RRTXCHG of a halted core, whose reserved bits are zero and whose slots differ (R54). -/
theorem rrtxchg_of_allowed (s : State) (c : Nat) {v : W64} (hhalted : (s.core c).halted = true)
    (hmask : v &&& 0xFFFFFFFFFEC0C000 = 0) (ha : bits v 13 8 ≤ 33) (hb : bits v 21 16 ≤ 33) (hab : bits v 13 8 ≠ bits v 21 16) :
    s.rrtxchg c v = s.setCore c (Core.swapSlots
      (if v.getLsbD 24 then (s.core c).swapRows (bits v 7 0) ((s.core c).rowAt (bits v 7 0) (bits v 13 8))
        ((s.core c).rowAt (bits v 7 0) (bits v 21 16)) else s.core c) (bits v 7 0) (bits v 13 8) (bits v 21 16)) := by
  have hclear : clearOf v 0x13F3FFF = true := clearOf_iff_and_not.mpr hmask
  rw [State.rrtxchg, hclear]
  dsimp only
  rw [if_neg (by simp [hhalted, hab]; omega)]

theorem exec_rrtExchange_true (c : BitVec 8) (v : W64) (s : State) (hc : c.toNat < 192) (hmove : v.getLsbD 24 = false) :
    exec (.rrtExchange c v true) s = .next (s.rrtxchg c.toNat v) := by
  change execRrtExchange c v true s = _
  rw [execRrtExchange, runRrt, supervised_true, if_pos ⟨hc, hmove⟩]

theorem exec_rrtExchangeMove_true (c : BitVec 8) (v : W64) (s : State) (hc : c.toNat < 192) (hmove : v.getLsbD 24 = true) :
    exec (.rrtExchangeMove c v true) s = .next (s.rrtxchg c.toNat v) := by
  change execRrtExchangeMove c v true s = _
  rw [execRrtExchangeMove, runRrt, supervised_true, if_pos ⟨hc, hmove⟩]

theorem corectl_of_lt (s : State) (c : Nat) {v : W64} (hv : v.toNat < 4) :
    s.corectl c v = if v.getLsbD 0 then s.haltCore c else s.updCore c fun x => { x with halt := false, halted := false } := by
  have hclear : clearOf v 3 = true := (clearOf_ones_iff_lt (n := 2) (by decide)).mpr hv
  rw [State.corectl, hclear, if_neg (by decide)]

theorem exec_coreHalt_true (c : BitVec 8) (v : W64) (s : State) (hc : c.toNat < 192) (hhalt : v.getLsbD 0 = true) :
    exec (.coreHalt c v true) s = .next (s.corectl c.toNat v) := by
  change execCoreHalt c v true s = _
  rw [execCoreHalt, runCorectl, supervised_true, if_pos ⟨hc, hhalt⟩]

theorem exec_coreRelease_true (c : BitVec 8) (v : W64) (s : State) (hc : c.toNat < 192) (hhalt : v.getLsbD 0 = false) :
    exec (.coreRelease c v true) s = .next (s.corectl c.toNat v) := by
  change execCoreRelease c v true s = _
  rw [execCoreRelease, runCorectl, supervised_true, if_pos ⟨hc, hhalt⟩]

end Machine
end Sys2Proof

namespace Sys2Proof.Claim

open Machine

/-- Each write is the update of its own table, then a check or evictions that keep the tables. -/
theorem viabilityAndRemap : ViabilityAndRemap := by
  refine ⟨?rows, ?l2ways, ?l1ways, ?exchange, fun x b j k hj hk b' i hi => rowAt_swapSlots x hj hk hi⟩
  case rows =>
    intro c idx v s hc hidx hv
    have hb : idx.toNat % 256 < 256 := Nat.mod_lt _ (by decide)
    refine ⟨_, exec_rvtWrite_true s hc hidx hv, fun p b hp hb' => ?_, ?_, fun k hk => ?_, ?_⟩
    · rw [rows_quarantineCheck, core_clearRows, if_pos rfl, rows_clearRows _ _ hp hb hb']
    · intro mask p b hp hb'
      have hmask := fieldMask_clearRows s c.toNat (p := idx.toNat / 256) v hp hb hb'
      obtain ⟨hadmin, -⟩ := quarantineCheck_rest (s.clearRows c.toNat (idx.toNat / 256) (idx.toNat % 256) v) c.toNat
      rw [State.fieldMask, ← hadmin] at hmask
      exact hmask
    · rw [core_quarantineCheck_other _ hk, core_clearRows, if_neg hk]
    · exact (quarantineCheck_rest ..).2
  case l2ways =>
    intro u i v s hu hi hv
    obtain ⟨-, hways, -⟩ := keepsWays_disableWays
      (s.updDie u.toNat fun x => { x with l2ways := Tab.upd x.l2ways l2Full i.toNat (· &&& v) }) s.wayPoint
    refine ⟨_, exec_wayViabilityWrite_l2 s hu hi hv, fun j => ?_, fun d hd => ?_, fun hclean => ?_⟩
    · rw [hways, State.die_updDie, if_pos rfl, getD_upd_and]
    · rw [hways, State.die_updDie, if_neg hd]
    · obtain ⟨⟨hmem, -⟩, -⟩ := calm_disableWays _ s.wayPoint ((calm_updDie s u.toNat _).oneKey (oneKey_of_clean hclean))
      exact hmem
  case l1ways =>
    intro u i v s hu hi hv
    obtain ⟨-, -, hways⟩ := keepsWays_disableWays
      (s.updCore u.toNat fun x => { x with l1ways := Tab.upd x.l1ways l1Full i.toNat (· &&& v) }) s.wayPoint
    refine ⟨_, exec_wayViabilityWrite_l1 s hu hi hv, fun j => ?_, fun k hk => ?_, fun hclean => ?_⟩
    · rw [hways, State.core_updCore, if_pos rfl, getD_upd_and]
    · rw [hways, State.core_updCore, if_neg hk]
    · obtain ⟨⟨hmem, -⟩, -⟩ := calm_disableWays _ s.wayPoint ((calm_updCore s u.toNat _).oneKey (oneKey_of_clean hclean))
      exact hmem
  case exchange =>
    intro c v s hc hhalted hmask ha hb hab
    have hxchg := rrtxchg_of_allowed s c.toNat hhalted hmask ha hb hab
    refine ⟨fun hmove => ?_, fun hmove => ?_⟩
    · rw [exec_rrtExchange_true c v s hc hmove, hxchg, hmove, if_neg (by decide)]
    · rw [exec_rrtExchangeMove_true c v s hc hmove, hxchg, hmove, if_pos rfl]

theorem coreHalting : CoreHalting := by
  intro c v s hc hv
  have hctl := corectl_of_lt s c.toNat hv
  refine ⟨fun hhalt => ?_, fun hrun => ?_, fun hhalt hnone => ?_⟩
  · rw [exec_coreHalt_true c v s hc hhalt, hctl, hhalt, if_pos rfl, State.haltCore]
  · rw [exec_coreRelease_true c v s hc hrun, hctl, hrun, if_neg (by decide)]
  · change execCoreHalted c s = _
    simp [execCoreHalted, hhalt, hnone]

end Sys2Proof.Claim

namespace Sys2Proof

/-- Settles O37: a write of viability clears bits of its own words, and the quarantine or the evictions that follow keep every
table; RRTXCHG and CORECTL are their rules on the values that they allow. -/
theorem coresAndViability : Obligations.CoresAndViability := ⟨Claim.viabilityAndRemap, Claim.coreHalting⟩

end Sys2Proof
end

section
/-! SUPPORT. Operating points and the power limit (R55 to R61, R411): what the stages of a step do at their places. -/

namespace Sys2Proof.Machine

/-! ### Requests -/

theorem opctl_of_allowed (s : State) {v : W64} (hmask : v &&& 0xFFFFFFFFFFFFFF68 = 0) (ht : bits v 2 0 ≤ 4) :
    s.opctl v = if v.getLsbD 4 then (s.putOpctl (bits v 2 0)).requestStep (bits v 2 0) else s.putOpctl (bits v 2 0) := by
  have hclear : clearOf v 0x97 = true := clearOf_iff_and_not.mpr hmask
  rw [State.opctl, hclear]
  exact if_neg (by simp; omega)

theorem exec_opStepRequest_true (v : W64) (s : State) : exec (.opStepRequest v true) s = .next (s.opctl v) := by
  change execOpStepRequest v true s = _
  rw [execOpStepRequest, supervised_true]

theorem requestStep_of_stepping {s : State} (t : Nat) (h : s.power.stepping = true) :
    s.requestStep t = (s.setPower fun p => { p with heldGo := some t }).putOpctl t := if_pos h

theorem requestStep_of_idle {s : State} (t : Nat) (h : s.power.stepping = false) : s.requestStep t = s.beginStep t :=
  if_neg (by simp [h])

/-! ### Stages -/

theorem atStage_iff {s : State} {up : Bool} {n : Nat} :
    s.atStage up n = true ↔ s.power.stepping = true ∧ s.power.up = up ∧ s.power.stage = n := by
  simp [State.atStage, and_assoc]

theorem exec_opStepPlan {s : State} (h : s.atStage false 0 = true) :
    exec .opStepPlan s = .next ((s.coreList.foldl (fun s c => s.planCore c) s).finishStage 1) := by
  change execOpStepPlan s = _
  rw [execOpStepPlan, h, if_neg (by decide)]

theorem exec_opStepRowMoves {s : State} (h : s.atStage false 1 = true) :
    exec .opStepRowMoves s = .next (((s.power.moves.foldl (fun s m => s.moveRow m.1 m.2.1 m.2.2.1 m.2.2.2) s).setPower
      fun p => { p with moves := [] }).finishStage 2) := by
  change execOpStepRowMoves s = _
  rw [execOpStepRowMoves, h, if_neg (by decide)]

/-- Without doomed squads the stage is over. -/
theorem exec_opStepDispose {s : State} (h : s.atStage false 2 = true) (hnone : s.doomedSquads = []) :
    exec .opStepDispose s = .next (s.finishStage 3) := by
  change execOpStepDispose s = _
  simp [execOpStepDispose, h, hnone]

theorem exec_opStepWays {s : State} (h : s.atStage false 3 = true) :
    exec .opStepWays s = .next ((s.finishStage 4).disableWays s.power.target) := by
  change execOpStepWays s = _
  rw [execOpStepWays, h, if_neg (by decide)]

theorem exec_opStepRamp {s : State} (h : s.atStage false 4 = true) (hpoint : s.power.target ≠ s.power.point) :
    exec .opStepRamp s = .next (s.finishStage 5) := by
  change execOpStepRamp s = _
  rw [execOpStepRamp, h, if_neg (by simp [hpoint])]

/-- The commit comes after the ramp, or in a refit in its place. -/
theorem exec_opStepCommit {s : State}
    (h : s.atStage false 5 = true ∨ (s.power.target = s.power.point ∧ s.atStage false 4 = true)) :
    exec .opStepCommit s = .next s.endStep := by
  change execOpStepCommit s = _
  exact if_pos (h.imp_right fun hrefit => ⟨beq_iff_eq.mpr hrefit.1, hrefit.2⟩)

theorem exec_opStepUpRaise {s : State} (h : s.atStage true 0 = true) :
    exec .opStepUpRaise s =
      .next ((s.coreList.foldl (fun s c => s.updCore c fun x => { x with next := x.capAt s.power.target }) s).finishStage 2) := by
  change execOpStepUpRaise s = _
  rw [execOpStepUpRaise, h, if_neg (by decide)]

theorem exec_opStepUpSettled {s : State} (h : s.atStage true 2 = true) : exec .opStepUpSettled s = .next s.endStep := by
  change execOpStepUpSettled s = _
  rw [execOpStepUpSettled, h, if_pos rfl]

/-! ### The end of a step -/

theorem foldl_updCore_rest (f : Core → Core) (l : List Nat) (s : State) :
    l.foldl (fun s c => s.updCore c f) s = { s with cores := (l.foldl (fun s c => s.updCore c f) s).cores } := by
  induction l generalizing s with
  | nil => rfl
  | cons c l ih => exact ih (s.updCore c f)

theorem nextSwap_of_none {s : State} (h : s.sched.swapHeld = none) : s.nextSwap = s := by rw [State.nextSwap, h]

/-- With no request and no swap held, the machine is at the target. -/
theorem power_endStep {s : State} (hgo : s.power.heldGo = none) (hswap : s.sched.swapHeld = none) :
    s.endStep.power = { s.power with point := s.power.target, stepping := false, stage := 0, up := false, heldGo := none } := by
  rw [State.endStep]
  simp only [hgo]
  rw [foldl_updCore_rest, nextSwap_of_none]
  · rfl
  · exact hswap

end Sys2Proof.Machine

namespace Sys2Proof.Claim

open Machine

theorem operatingPointSteps : OperatingPointSteps := by
  refine ⟨fun v s hmask ht => ?request, fun t s => ⟨?held, ?begun⟩, fun s hstep hup => ?down, fun s hstep hup => ?up,
    fun s => power_endStep⟩
  case request => rw [exec_opStepRequest_true, opctl_of_allowed s hmask ht]
  case held => exact requestStep_of_stepping t
  case begun =>
    intro hidle
    rw [requestStep_of_idle t hidle]
    rfl
  case down =>
    have hat {n : Nat} (h : s.power.stage = n) : s.atStage false n = true := atStage_iff.mpr ⟨hstep, hup, h⟩
    refine ⟨fun h => exec_opStepPlan (hat h), fun h => exec_opStepRowMoves (hat h), fun h => exec_opStepDispose (hat h),
      fun h => ⟨_, exec_opStepWays (hat h), (keepsWays_disableWays ..).1⟩, fun h => exec_opStepRamp (hat h), fun h => ?_⟩
    exact exec_opStepCommit (h.imp hat fun hrefit => ⟨hrefit.2, hat hrefit.1⟩)
  case up =>
    have hat {n : Nat} (h : s.power.stage = n) : s.atStage true n = true := atStage_iff.mpr ⟨hstep, hup, h⟩
    exact ⟨fun h => exec_opStepUpRaise (hat h), fun h => exec_opStepUpSettled (hat h)⟩

/-- The sample and those before it decide: above the limit three times, under it a hundred times, or neither. -/
theorem powerLimit : PowerLimit := by
  intro meas s cap verdict s1 l put
  have habove : (l.take 3 == [1, 1, 1]) = true ↔ l.take 3 = [1, 1, 1] := beq_iff_eq
  have hunder : (decide (l.length = 100) && l.all (· == 2)) = true ↔ l.length = 100 ∧ ∀ x ∈ l, x = 2 := by simp
  refine ⟨fun h hpt => ?_, fun h hpt => ?_, fun h hlen hall hbound => ?_, fun h hlen => ?_⟩ <;> change execPowerSample meas s = _
  · exact (if_pos (habove.mpr h)).trans (if_neg hpt)
  · exact (if_pos (habove.mpr h)).trans (if_pos hpt)
  · exact (if_neg (mt habove.mp h)).trans (if_pos ⟨hunder.mpr ⟨hlen, hall⟩, hbound⟩)
  · exact (if_neg (mt habove.mp h)).trans (if_neg fun hu => absurd (hunder.mp hu.1).1 hlen.ne)

end Sys2Proof.Claim

namespace Sys2Proof

/-- Settles O38: each stage is its event's only branch at its place, the ways' evictions keep the operating point, and a power
sample is one of four cases. -/
theorem operatingPoints : Obligations.OperatingPoints := ⟨Claim.operatingPointSteps, Claim.powerLimit⟩

end Sys2Proof
end

section
/-! SUPPORT. Decisions on waves of frozen clusters (R57, R372, R373) and proof kernels (R183, R190, R376, R377). -/

namespace Sys2Proof.Machine

/-! ### Decisions -/

/-- Each instruction that decides on a wave is FRZDEC with its own action. -/
theorem exec_deciding_true (who : W32) (s : State) :
    ∀ d ∈ ([(.frzResume, 0), (.frzReplay, 1), (.frzKill, 2), (.frzFalsestart, 3), (.frzPark, 4)] : List ((W32 → Bool → Instr) × Nat)),
      exec (d.1 who true) s = .next (s.frzdec who d.2) := by
  simp only [List.forall_mem_cons]
  exact ⟨rfl, rfl, rfl, rfl, rfl, nofun⟩

theorem frzdec_of_unknown {s : State} {who : W32} (act : Nat) (h : s.waveByCode who = none) :
    s.frzdec who act = s.ignore Mmio.frzdec := by
  rw [State.frzdec, h]

/-- Nothing of the wave's cluster has to be waited for. -/
theorem frzdec_at_once {s : State} {who : W32} {act : Nat} {q : Squad} {w : Wave} (h : s.waveByCode who = some (q, w))
    (hnow : q.place = .parked ∨ w.frozenAlone = true ∨ s.standsFrozen q w = true ∨ q.unplaced act = true ∨ q.stillConsumes w = true) :
    s.frzdec who act =
      State.takeDecision { s with decisions := s.decisions.filter fun e => e.1 != waveCode q.core w.quad w.slot } q w act := by
  rw [State.frzdec, h]
  exact if_pos hnow

/-- A resident wave of a frozen cluster, not frozen alone, keeps its decision for the release. -/
theorem frzdec_until_release {s : State} {who : W32} (act : Nat) {q : Squad} {w : Wave} (h : s.waveByCode who = some (q, w))
    (hplace : q.place = .resident) (halone : w.frozenAlone = false) (hfrozen : s.frozen.contains (clusterOfCore q.core) = true) :
    s.frzdec who act = { s with decisions :=
      (s.decisions.filter fun e => e.1 != waveCode q.core w.quad w.slot) ++ [(waveCode q.core w.quad w.slot, act)] } := by
  rw [State.frzdec, h]
  have hstands : s.standsFrozen q w = false := by simp only [State.standsFrozen, hfrozen, Bool.not_true, Bool.and_false, Bool.false_and]
  have hunplaced : q.unplaced act = false := by simp [Squad.unplaced, hplace]
  have hconsumes : q.stillConsumes w = false := by simp [Squad.stillConsumes, hplace]
  exact (if_neg (by simp [hplace, halone, hstands, hunplaced, hconsumes])).trans (if_pos ⟨hplace, hfrozen⟩)

theorem takeDecision_kill (s : State) (q : Squad) (w : Wave) : s.takeDecision q w Act.kill = s.kill q := if_pos (.inl rfl)

/-- RESUME and REPLAY. -/
theorem takeDecision_goOn (s : State) (q : Squad) (w : Wave) {act : Nat} (h : act = Act.resume ∨ act = Act.replay) :
    s.takeDecision q w act = if s.mustDie q w then s.kill q else s.continueWave q w act := by
  have hkill : act ≠ Act.kill := by
    obtain rfl | rfl := h <;> decide
  rw [State.takeDecision, if_pos h]
  simp [hkill, h]

/-- FALSESTART, of a pinned or unsplittable squad a PARK (R373). -/
theorem takeDecision_falseStart (s : State) (q : Squad) (w : Wave) :
    s.takeDecision q w Act.falseStart =
      if q.inst.pinned = false ∧ q.splitInst.splittable = true then s.falseStart q .consumption
      else (s.parkSquad q (waveCode q.core w.quad w.slot)).note (.pinnedFalseStart q.sid) := by
  simp [State.takeDecision, Act.falseStart, Act.kill, Act.resume, Act.replay]

theorem takeDecision_park (s : State) (q : Squad) (w : Wave) :
    s.takeDecision q w Act.park = s.parkSquad q (waveCode q.core w.quad w.slot) := rfl

theorem exec_frzRelease_true {who : W32} {s : State} (hfrozen : s.frozen.contains (codeCluster who) = true)
    (hwritten : (s.records.any fun c => ((s.squad? c.who.sid).map fun q => clusterOfCore q.core == codeCluster who).getD false) = false) :
    exec (.frzRelease who true) s = .next (s.release (codeCluster who)) := by
  change execFrzRelease who true s = _
  rw [execFrzRelease, supervised_true, hfrozen, hwritten, if_neg (by decide)]

/-! ### Proof kernels -/

theorem exec_proofKernelDispatch_idle {c : BitVec 8} {k : Nat} {s : State} (hc : c.toNat < 192)
    (hkernel : (s.admin.kernels.any fun x => x.id == k) = true) (hidle : s.residents c.toNat = [])
    (hhalt : (s.core c.toNat).halt = false) (hproof : (s.core c.toNat).proof = none) (hplace : s.canPlaceOn c.toNat = false)
    (hbudget : s.mayStart (.proof (dieOfCore c.toNat)) = true) :
    exec (.proofKernelDispatch c k) s =
      .next (s.updCore c.toNat fun x => { x with proof := some k, proofDue := x.proofDue.filter fun j => j != k }) := by
  change execProofKernelDispatch c k s = _
  simp only [execProofKernelDispatch]
  rw [if_neg]
  simp [hc, hkernel, hidle, hhalt, hproof, hplace, hbudget]

/-- The end of a kernel: held beyond its budget, else good or a failure by its digest. -/
theorem exec_proofKernelResult_some {c : BitVec 8} (bs : List W8) {k : Nat} {s : State} (h : (s.core c.toNat).proof = some k) :
    exec (.proofKernelResult c bs) s =
      let s1 := s.updCore c.toNat fun x => { x with proof := none }
      if s.mayStart (.proof (dieOfCore c.toNat)) = false then .next s
      else if sha256 bs = Config.proofDigest k s.power.point then .next s1
      else .next (s1.failTarget c.toNat (Config.proofTarget k)) := by
  change execProofKernelResult c bs s = _
  simp [execProofKernelResult, h]

end Sys2Proof.Machine

namespace Sys2Proof.Claim

open Machine

theorem freezeDecisions : FreezeDecisions := by
  refine ⟨fun who s mk act hmk => ?_, fun s q w => ?_, fun who s => exec_frzRelease_true⟩
  · rw [exec_deciding_true who s (mk, act) hmk]
    refine ⟨fun h => ?_, fun q w h => ⟨fun hnow => ?_, fun hplace halone hfrozen => ?_⟩⟩
    · rw [frzdec_of_unknown act h]
    · rw [frzdec_at_once h hnow]
    · rw [frzdec_until_release act h hplace halone hfrozen]
  · have hresume := takeDecision_goOn s q w (.inl rfl : Act.resume = Act.resume ∨ _)
    have hreplay := takeDecision_goOn s q w (.inr rfl : Act.replay = Act.resume ∨ _)
    have hfalse := takeDecision_falseStart s q w
    refine ⟨takeDecision_kill s q w, fun hdie => ?_, fun hlive => ?_, fun hpin hsplit => ?_, fun hpin => ?_, takeDecision_park s q w⟩
    · exact ⟨hresume.trans (if_pos hdie), hreplay.trans (if_pos hdie)⟩
    · exact ⟨hresume.trans (if_neg (by simp [hlive])), hreplay.trans (if_neg (by simp [hlive]))⟩
    · exact hfalse.trans (if_pos ⟨hpin, hsplit⟩)
    · exact hfalse.trans (if_neg (by simp [hpin]))

theorem proofKernels : ProofKernels := by
  refine ⟨fun c k s => exec_proofKernelDispatch_idle, fun c bs k s h => ?_⟩
  have hresult := exec_proofKernelResult_some bs h
  refine ⟨fun hheld => hresult.trans (if_pos hheld), fun hbudget => ?_⟩
  have hended := hresult.trans (if_neg (by simp [hbudget]))
  exact ⟨fun hgood => hended.trans (if_pos hgood), fun hbad => hended.trans (if_neg hbad)⟩

end Sys2Proof.Claim

namespace Sys2Proof

/-- Settles O40: a decision finds its wave and either takes effect or waits for the release, and each action has one effect; a
proof kernel starts where each of its conditions holds, and its digest decides. -/
theorem freezesAndProofs : Obligations.FreezesAndProofs := ⟨Claim.freezeDecisions, Claim.proofKernels⟩

end Sys2Proof
end

section
/-! SUPPORT. What the device registers read at reset (R55, R137, R191, R395, R411). -/

namespace Sys2Proof.Machine

theorem reg_reset (pa : Nat) : State.reset.reg pa = mmioReset pa := rfl

/-- SNAPSET of each of the 64 sets. -/
theorem mmioReset_snapSet {q : Nat} (hq : q < 64) : mmioReset (Mmio.snapSet q) = 0x5100 := by
  have hoff : Mmio.snapSet q - 0x30000000000 = 0x40000 + 256 * q := by
    simp only [Mmio.snapSet, Mmio.base]
    omega
  simp only [mmioReset, hoff]
  rw [if_neg (by omega), if_pos (by omega)]

/-- TRIMCFG of each of the 16 ports. -/
theorem mmioReset_trimcfg {p : Nat} (hp : p < 16) : mmioReset (Mmio.trimcfg p) = 0x0000111100040000 := by
  have hoff : Mmio.trimcfg p - 0x30000000000 = 0x90000 + 256 * p := by
    simp only [Mmio.trimcfg, Mmio.base]
    omega
  simp only [mmioReset, hoff]
  rw [if_neg (by omega), if_neg (by omega), if_neg (by omega), if_neg (by omega), if_pos (by omega)]

end Sys2Proof.Machine

namespace Sys2Proof

open Machine

/-- Settles O55: the tables of reset list nothing, so each entry reads as its default; a device register's is the branch of its
address. -/
theorem resetState : Obligations.ResetState := by
  refine ⟨rfl, rfl, rfl, rfl, rfl, rfl, rfl, rfl, rfl, rfl, rfl, rfl, fun q hq => ?_, fun p hp => ?_, fun c => ⟨rfl, rfl, rfl⟩,
    fun k => rfl, fun a => rfl⟩
  · rw [reg_reset, mmioReset_snapSet hq]
  · rw [reg_reset, mmioReset_trimcfg hp]

end Sys2Proof
end

section
/-! SUPPORT. Events of the memory controllers (R66, R78 to R84, R89, R90): a sector's read and scrub, an eviction, the OWQ's drain. -/

namespace Sys2Proof.Machine

/-! ### Sectors -/

/-- What a code that misses nothing has counted of `n` wrong symbols, one at most (R78, R84). -/
def State.eccPassed (s : State) (n a cls : Nat) : State := if n = 1 then s.countCorrected a cls else s

/-- What the tag then makes of a sector under a key with integrity (R80, R82). -/
def State.tagPassed (s : State) (tag : TagResult) (k a cls : Nat) : State :=
  match tag with
  | .agrees => s
  | .unevaluable => s.mediaError [sectorOf a] a cls
  | .mismatch =>
    let t := s.keyFails k a cls
    { t with secKey := Tab.put t.secKey (fun _ => 0) (sectorOf a) (brokenKey + k) }

section
variable {pa : W64} {s : State}

/-- A block state that cannot be read poisons its block (R76, R80). -/
theorem exec_memctlSectorRead_stateBad (r : SectorRead) (tag : TagResult) (hhome : (homeDie pa.toNat).isSome = true)
    (hclean : (s.l2Line (lineOf pa.toNat)).dirty = false) (hhbm : isScm pa.toNat = false) :
    exec (.memctlSectorRead pa r tag true) s =
      .next (s.mediaError ((List.range 4).map (pa.toNat / 256 * 4 + ·)) pa.toNat r.path.toNat) := by
  obtain ⟨d, hd⟩ := Option.isSome_iff_exists.mp hhome
  change execMemctlSectorRead pa r tag true s = _
  simp [execMemctlSectorRead, hd, hclean, hhbm]

theorem exec_memctlSectorRead_uncorrectable (c : BitVec 4) (tag : TagResult) (hhome : (homeDie pa.toNat).isSome = true)
    (hclean : (s.l2Line (lineOf pa.toNat)).dirty = false) :
    exec (.memctlSectorRead pa ⟨2, c⟩ tag false) s =
      .next (s.mediaError [2 * lineOf pa.toNat, 2 * lineOf pa.toNat + 1] pa.toNat c.toNat) := by
  obtain ⟨d, hd⟩ := Option.isSome_iff_exists.mp hhome
  change execMemctlSectorRead pa ⟨2, c⟩ tag false s = _
  simp [execMemctlSectorRead, hd, hclean, State.ecc]

/-- Past the code, no tag is compared of a sector without integrity, or of a block of zeros (R75, R79). -/
theorem exec_memctlSectorRead_untagged {n : Nat} (hn : n = 0 ∨ n = 1) (c : BitVec 4) (tag : TagResult)
    (hhome : (homeDie pa.toNat).isSome = true) (hclean : (s.l2Line (lineOf pa.toNat)).dirty = false)
    (huntagged : (s.key (s.secKey.getD (fun _ => 0) (sectorOf pa.toNat) % 4096)).integ = false ∨ s.zeroBlock pa.toNat = true) :
    exec (.memctlSectorRead pa ⟨n, c⟩ tag false) s = .next (s.eccPassed n pa.toNat c.toNat) := by
  obtain ⟨d, hd⟩ := Option.isSome_iff_exists.mp hhome
  change execMemctlSectorRead pa ⟨n, c⟩ tag false s = _
  obtain rfl | rfl := hn <;> simp [execMemctlSectorRead, hd, hclean, State.ecc, State.eccPassed, huntagged]

/-- Past the code, the tag decides on a sector that is stored under a key with integrity. -/
theorem exec_memctlSectorRead_tagged {n : Nat} (hn : n = 0 ∨ n = 1) (c : BitVec 4) (tag : TagResult)
    (hhome : (homeDie pa.toNat).isSome = true) (hclean : (s.l2Line (lineOf pa.toNat)).dirty = false)
    (hinteg : (s.key (s.secKey.getD (fun _ => 0) (sectorOf pa.toNat) % 4096)).integ = true) (hstored : s.zeroBlock pa.toNat = false) :
    exec (.memctlSectorRead pa ⟨n, c⟩ tag false) s = .next ((s.eccPassed n pa.toNat c.toNat).tagPassed tag
      (s.secKey.getD (fun _ => 0) (sectorOf pa.toNat) % 4096) pa.toNat c.toNat) := by
  obtain ⟨d, hd⟩ := Option.isSome_iff_exists.mp hhome
  change execMemctlSectorRead pa ⟨n, c⟩ tag false s = _
  obtain rfl | rfl := hn <;> cases tag <;>
    simp [execMemctlSectorRead, hd, hclean, State.ecc, State.eccPassed, State.tagPassed, hinteg, hstored]

/-! ### Scrubbing -/

/-- HBM is scrubbed at any time (R84). -/
theorem exec_scrubLine_hbm {n d : Nat} (hhome : homeDie pa.toNat = some d) (hhbm : isScm pa.toNat = false) (hn : n = 0 ∨ n = 1) :
    exec (.scrubLine pa n) s = .next (s.eccPassed n pa.toNat PathCode.core) := by
  change execScrubLine pa n s = _
  obtain rfl | rfl := hn <;> simp [execScrubLine, hhome, hhbm, State.ecc, State.eccPassed]

theorem exec_scrubLine_hbm_uncorrectable {d : Nat} (hhome : homeDie pa.toNat = some d) (hhbm : isScm pa.toNat = false)
    (hclean : (s.l2Line (lineOf pa.toNat)).dirty = false) :
    exec (.scrubLine pa 2) s =
      .next (s.mediaError [2 * lineOf pa.toNat, 2 * lineOf pa.toNat + 1] pa.toNat PathCode.core) := by
  change execScrubLine pa 2 s = _
  simp [execScrubLine, hhome, hhbm, hclean, State.ecc]

/-- A scrub of SCM waits for the drain's budget (R84, R190). -/
theorem exec_scrubLine_scm_held {d : Nat} (n : Nat) (hhome : homeDie pa.toNat = some d) (hscm : isScm pa.toNat = true)
    (hbudget : s.mayStart (.owqDrain d) = false) : exec (.scrubLine pa n) s = .next s := by
  change execScrubLine pa n s = _
  simp [execScrubLine, hhome, hscm, hbudget]

theorem exec_scrubLine_scm_clean {d : Nat} (hhome : homeDie pa.toNat = some d) (hscm : isScm pa.toNat = true)
    (hbudget : s.mayStart (.owqDrain d) = true) : exec (.scrubLine pa 0) s = .next (s.spend (.owqDrain d) 128) := by
  change execScrubLine pa 0 s = _
  simp [execScrubLine, hhome, hscm, hbudget, State.ecc]

end

/-! ### Evictions -/

theorem exec_l2Eviction (pa : W64) (s : State) :
    exec (.l2Eviction pa) s = .next (if (s.l2Line (lineOf pa.toNat)).held then s.evictOut (lineOf pa.toNat) else s) := rfl

theorem l2Line_evictOut (s : State) (line : Nat) : (s.evictOut line).l2Line line = L2Line.absent := by
  rw [State.evictOut, State.l2Line_setL2, if_pos rfl]

/-- A dirty line of another page than a P page is written back. -/
theorem evictLine_of_dirty {s : State} {line : Nat} (hdirty : (s.l2Line line).dirty = true) (hp : (s.l2Line line).p = false) :
    s.evictLine line = s.writeBack line := by
  simp [State.evictLine, hdirty, hp]

theorem evictLine_of_p {s : State} {line d : Nat} (hdirty : (s.l2Line line).dirty = true) (hp : (s.l2Line line).p = true)
    (hhome : homeDie (128 * line) = some d) : s.evictLine line = (s.acceptLine d line).cleanL2 line := by
  simp [State.evictLine, hdirty, hp, hhome]

/-! ### The drain of an OWQ -/

section
variable {s : State} {d : BitVec 2} {e : OwqEntry} {r : List OwqEntry}

theorem drainOldest_of_cons {d : Nat} (bad : Bool) (howq : (s.die d).owq = e :: r) :
    s.drainOldest d bad = (s.updDie d fun x => { x with owq := r, owqDrained := e.seq, owqHeld := false }).drainEntry e bad := by
  rw [State.drainOldest, howq]

theorem die_spend (s : State) (a : Spend) (n d : Nat) : (s.spend a n).die d = s.die d := by
  rw [State.spend]
  split <;> rfl

/-- The drain waits for its budget. -/
theorem exec_owqDrainEntry_held (bad : Bool) (howq : (s.die d.toNat).owq = e :: r) (hup : s.admin.holdup = false)
    (hbudget : s.mayStart (.owqDrain d.toNat) = false) :
    exec (.owqDrainEntry d bad) s = .next (s.updDie d.toNat fun x => { x with owqHeld := true }) := by
  change execOwqDrainEntry d bad s = _
  simp [execOwqDrainEntry, howq, hup, hbudget]

theorem exec_owqDrainEntry_spends (bad : Bool) (howq : (s.die d.toNat).owq = e :: r) (hup : s.admin.holdup = false)
    (hbudget : s.mayStart (.owqDrain d.toNat) = true) :
    exec (.owqDrainEntry d bad) s = .next ((s.spend (.owqDrain d.toNat) 128).drainOldest d.toNat bad) := by
  change execOwqDrainEntry d bad s = _
  simp [execOwqDrainEntry, howq, hup, hbudget]

/-- In the hold-up there is no budget (R96). -/
theorem exec_owqDrainEntry_holdup (bad : Bool) (howq : (s.die d.toNat).owq = e :: r) (hup : s.admin.holdup = true) :
    exec (.owqDrainEntry d bad) s = .next (s.drainOldest d.toNat bad) := by
  change execOwqDrainEntry d bad s = _
  simp [execOwqDrainEntry, howq, hup]

end

end Sys2Proof.Machine

namespace Sys2Proof.Claim

open Machine

theorem sectorReadsAndScrubbing : SectorReadsAndScrubbing := by
  refine ⟨fun pa tag c s hhome hclean => ⟨fun huntagged => ⟨?_, ?_⟩, ?_, fun hinteg hstored => ?tagged, fun hhbm n => ?_⟩,
    fun pa s d hhome => ⟨fun hhbm => ⟨?_, ?_, fun hclean => ?_⟩, fun hscm => ⟨fun hbudget n => ?_, fun hbudget => ?_⟩⟩⟩
  · exact exec_memctlSectorRead_untagged (.inl rfl) c tag hhome hclean huntagged
  · exact exec_memctlSectorRead_untagged (.inr rfl) c tag hhome hclean huntagged
  · exact exec_memctlSectorRead_uncorrectable c tag hhome hclean
  case tagged =>
    have hread {n : Nat} (hn : n = 0 ∨ n = 1) := exec_memctlSectorRead_tagged hn c tag hhome hclean hinteg hstored
    refine ⟨?_, ?_, ?_⟩
    · rintro rfl
      exact ⟨hread (.inl rfl), hread (.inr rfl)⟩
    · rintro rfl
      exact ⟨hread (.inl rfl), hread (.inr rfl)⟩
    · rintro rfl
      exact ⟨_, hread (.inl rfl), rfl, rfl, rfl⟩
  · exact exec_memctlSectorRead_stateBad _ tag hhome hclean hhbm
  · exact exec_scrubLine_hbm hhome hhbm (.inl rfl)
  · exact exec_scrubLine_hbm hhome hhbm (.inr rfl)
  · exact exec_scrubLine_hbm_uncorrectable hhome hhbm hclean
  · exact exec_scrubLine_scm_held n hhome hscm hbudget
  · exact exec_scrubLine_scm_clean hhome hscm hbudget

theorem evictionAndDrain : EvictionAndDrain := by
  refine ⟨fun pa s => ⟨fun hheld => ?_, fun hheld => ⟨_, ?_, l2Line_evictOut s _, rfl, evictLine_of_dirty, fun d => evictLine_of_p⟩⟩,
    fun d bad s e r howq => ⟨exec_owqDrainEntry_held bad howq, fun hup hbudget => ?_, fun hup => ?_⟩⟩
  · rw [exec_l2Eviction, hheld, if_neg (by decide)]
  · rw [exec_l2Eviction, hheld, if_pos rfl]
  · have howq' := (congrArg Die.owq (die_spend s (.owqDrain d.toNat) 128 d.toNat)).trans howq
    rw [exec_owqDrainEntry_spends bad howq hup hbudget, drainOldest_of_cons bad howq']
  · rw [exec_owqDrainEntry_holdup bad howq hup, drainOldest_of_cons bad howq]

end Sys2Proof.Claim

namespace Sys2Proof

/-- Settles O43: past the code a sector's read goes on to its tag, a scrub of SCM is charged to the drain, and an eviction and a drain
are the branch of their line or entry. -/
theorem memoryDeviceEvents : Obligations.MemoryDeviceEvents := ⟨Claim.sectorReadsAndScrubbing, Claim.evictionAndDrain⟩

end Sys2Proof
end

section
/-! SUPPORT. The loss of input power and the boot (R96, R97, R408, R414): what the stages leave of the state, and their order. -/

namespace Sys2Proof

theorem Tab.getD_of_unlisted {α : Type} {t : Tab α} (d : Nat → α) {k : Nat} (h : k ∉ t.map (·.1)) : Tab.getD t d k = d k := by
  induction t with
  | nil => rfl
  | cons e r ih =>
    obtain ⟨hk, hr⟩ := not_or.mp (mt List.mem_cons.mpr h)
    rw [Tab.getD, if_neg hk, ih hr]

namespace Machine

/-! ### Cores and dies changed in turn -/

/-- What an update brings about holds of a core that a list names, and stays true of one that it does not. -/
theorem core_foldl_updCore {P : Core → Prop} {f : Core → Core} (hf : ∀ x, P (f x)) {l : List Nat} {s : State} {c : Nat}
    (h : c ∈ l ∨ P (s.core c)) : P ((l.foldl (fun s c => s.updCore c f) s).core c) := by
  induction l generalizing s with
  | nil => simpa using h
  | cons a l ih =>
    refine ih ?_
    rw [State.core_updCore]
    by_cases hc : c = a
    · exact .inr (by rw [if_pos hc]; exact hf _)
    · rw [if_neg hc]
      exact h.imp_left fun hmem => (List.mem_cons.mp hmem).resolve_left hc

/-- So it holds of every core, where it holds of one at reset. -/
theorem core_foldl_coreList {P : Core → Prop} {f : Core → Core} (hf : ∀ x, P (f x)) (hreset : P Core.reset) (s : State) (c : Nat) :
    P ((s.coreList.foldl (fun s c => s.updCore c f) s).core c) := by
  refine core_foldl_updCore hf ?_
  by_cases hc : c ∈ s.coreList
  · exact .inl hc
  · refine .inr ?_
    rwa [State.core, Tab.getD_of_unlisted _ hc]

theorem foldl_updDie_rest (f : Die → Die) (l : List Nat) (s : State) :
    l.foldl (fun s d => s.updDie d f) s = { s with dies := (l.foldl (fun s d => s.updDie d f) s).dies } := by
  induction l generalizing s with
  | nil => rfl
  | cons d l ih => exact ih (s.updDie d f)

theorem owq_updDie (s : State) (d k : Nat) {f : Die → Die} (hf : ∀ x, (f x).owq = x.owq) :
    ((s.updDie d f).die k).owq = (s.die k).owq := by
  rw [State.die_updDie]
  split
  · next h => rw [hf, h]
  · rfl

theorem owq_foldl_updDie {f : Die → Die} (hf : ∀ x, (f x).owq = x.owq) (l : List Nat) (s : State) (k : Nat) :
    ((l.foldl (fun s d => s.updDie d f) s).die k).owq = (s.die k).owq := by
  induction l generalizing s with
  | nil => rfl
  | cons d l ih => rw [List.foldl_cons, ih, owq_updDie s d k hf]

/-! ### The metadata caches as they are written back (R76, R96) -/

/-- Only the dies and what the stacks hold have changed, and no OWQ. -/
def KeepsOwqs (s t : State) : Prop :=
  t = { s with dies := t.dies, media := t.media } ∧ ∀ d, (t.die d).owq = (s.die d).owq

theorem KeepsOwqs.refl (s : State) : KeepsOwqs s s := ⟨rfl, fun _ => rfl⟩

theorem KeepsOwqs.trans {s t u : State} (h : KeepsOwqs s t) (g : KeepsOwqs t u) : KeepsOwqs s u := by
  obtain ⟨hrest, howq⟩ := h
  obtain ⟨grest, gowq⟩ := g
  refine ⟨?_, fun d => (gowq d).trans (howq d)⟩
  rw [grest, hrest]

theorem KeepsOwqs.foldl {α : Type} {f : State → α → State} (h : ∀ s a, KeepsOwqs s (f s a)) (l : List α) (s : State) :
    KeepsOwqs s (l.foldl f s) := by
  induction l generalizing s with
  | nil => exact .refl s
  | cons a l ih => exact (h s a).trans (ih _)

theorem keepsOwqs_metaFlush (s : State) : KeepsOwqs s s.metaFlush := by
  refine .foldl (fun t e => ?_) s.dies s
  have hback : KeepsOwqs t (e.2.metaLines.foldl (fun s l => s.metaWriteBack l) t) :=
    .foldl (f := State.metaWriteBack) (fun _ _ => ⟨rfl, fun _ => rfl⟩) _ t
  exact hback.trans ⟨rfl, fun k => owq_updDie _ e.1 k fun _ => rfl⟩

/-! ### The lifetime area and the loss of input power -/

section
variable {s : State}

theorem exec_telemetryWrite_due (h : s.admin.telemetryAt + telemetryGap ≤ s.gtb.toNat) :
    exec .telemetryWrite s = .next (lifetimeSections.foldl (fun s e => s.putRecord (sectionAt e.1 e.2) (s.sectionBytes e.2))
      (s.logWear.sense.setAdmin fun a => { a with histWritten := a.hist, telemetryAt := s.gtb.toNat })) :=
  if_neg (Nat.not_lt.mpr h)

theorem exec_telemetryWrite_early (h : s.gtb.toNat < s.admin.telemetryAt + telemetryGap) : exec .telemetryWrite s = .next s :=
  if_pos h

theorem exec_drainRecordWrite_off (hup : s.admin.holdup = true) (hoff : s.admin.off = true) :
    exec .drainRecordWrite s = .next (((List.range 4).foldl (fun s d => s.storeRecord (drainRecordAt d)
      (DrainRec.bytes { drained := (s.die d).owqDrained, accepted := (s.die d).owqLast, done := true })) s.storeSections).storeRecord
        shutdownRecordAt s.shutdownBytes) := by
  change execDrainRecordWrite s = _
  rw [execDrainRecordWrite, hup, hoff, if_neg (by decide)]

end

/-! ### Stages of the boot -/

section
variable {n : Nat} {s : State}

theorem bootStage_passed (k : State → State) (hstage : s.admin.stage + 1 = n) (hfailed : s.admin.failed = none)
    (hoff : s.admin.off = false) : bootStage n true s k = .next ((k s).setAdmin fun a => { a with stage := n }) := by
  simp [bootStage, hstage, hfailed, hoff]

theorem bootStage_failed (k : State → State) (hstage : s.admin.stage + 1 = n) (hfailed : s.admin.failed = none)
    (hoff : s.admin.off = false) : bootStage n false s k = .next (s.setAdmin fun a => { a with failed := some n }) := by
  simp [bootStage, hstage, hfailed, hoff]

end

theorem power_quarantineCheck (s : State) (c : Nat) : (s.quarantineCheck c).power = s.power := by
  obtain h | ⟨ps, h⟩ := quarantineCheck_cases s c
  · rw [h]
  · rw [h]
    rfl

theorem foldl_bootCore_rest (l : List Nat) (s : State) :
    (l.foldl (fun s c => s.bootCore c) s).power = s.power ∧ (l.foldl (fun s c => s.bootCore c) s).mem = s.mem := by
  induction l generalizing s with
  | nil => exact ⟨rfl, rfl⟩
  | cons c l ih =>
    obtain ⟨hpower, hmem⟩ := ih (s.bootCore c)
    obtain ⟨-, hcheck, -⟩ := quarantineCheck_rest _ c
    exact ⟨hpower.trans (power_quarantineCheck ..), hmem.trans hcheck⟩

/-- The 192 cores are released at OP1. -/
def State.coresReleased (s : State) : State :=
  (List.range 192).foldl (fun s c => s.bootCore c) (s.setPower fun p => { p with point := 1, target := 1 })

theorem coresReleased_rest (s : State) :
    s.coresReleased.power = { s.power with point := 1, target := 1 } ∧ s.coresReleased.mem = s.mem := by
  obtain ⟨hpower, hmem⟩ := foldl_bootCore_rest (List.range 192) (s.setPower fun p => { p with point := 1, target := 1 })
  rw [State.coresReleased, hpower, hmem]
  exact ⟨rfl, rfl⟩

theorem writeDescriptor_rest (s : State) (p off : Nat) (v : W64) :
    (s.writeDescriptor p off v).admin = s.admin ∧ (s.writeDescriptor p off v).mem = s.mem := by
  rw [State.writeDescriptor]
  split <;> simp [State.ignore]

theorem applyConfig_rest (s : State) (l : List (Nat × Nat × W64)) :
    (s.applyConfig l).admin = s.admin ∧ (s.applyConfig l).mem = s.mem := by
  induction l generalizing s with
  | nil => exact ⟨rfl, rfl⟩
  | cons e l ih =>
    obtain ⟨hadmin, hmem⟩ := ih (s.writeDescriptor e.1 e.2.1 e.2.2)
    obtain ⟨gadmin, gmem⟩ := writeDescriptor_rest s e.1 e.2.1 e.2.2
    exact ⟨hadmin.trans gadmin, hmem.trans gmem⟩

/-! Each stage runs through `bootStage`, with what it leaves where it succeeds. -/

theorem exec_bootReleaseCores (ok : Bool) (s : State) :
    exec (.bootReleaseCores ok) s = bootStage 2 ok s State.coresReleased := rfl

theorem bootTrainLinks_stage (s : State) : ∃ k : State → State, (∀ ok, exec (.bootTrainLinks ok) s = bootStage 3 ok s k) ∧
    (k s).links = [] ∧ (k s).mem = s.mem.keep outsideHbm := by
  refine ⟨?k, fun ok => ?exec, ?left⟩
  case exec =>
    change execBootTrainLinks ok s = _
    rw [execBootTrainLinks]
  case left => exact ⟨rfl, rfl⟩

theorem bootReadRecords_stage (confirmed : List Nat) (s : State) :
    ∃ k : State → State, (∀ ok, exec (.bootReadRecords confirmed ok) s = bootStage 4 ok s k) ∧
      (k s).admin.suspect = !((List.range 4).all fun d => (s.readDrain d).done && (s.readDrain d).drained == (s.readDrain d).accepted) := by
  refine ⟨?k, fun ok => ?exec, ?left⟩
  case exec =>
    change execBootReadRecords confirmed ok s = _
    rw [execBootReadRecords]
  case left => rw [State.setAdmin]

theorem bootTrainPorts_stage (s : State) : ∃ k : State → State, (∀ ok, exec (.bootTrainPorts ok) s = bootStage 5 ok s k) ∧
    (k s).fab.synced = some s.gtb.toNat ∧ (k s).fab.freeRun = false ∧ (k s).mem = s.mem := by
  refine ⟨?k, fun ok => ?exec, ?left⟩
  case exec =>
    change execBootTrainPorts ok s = _
    rw [execBootTrainPorts]
  case left => exact ⟨rfl, rfl, rfl⟩

theorem bootCreatePartitions_stage (s : State) : ∃ k : State → State, exec .bootCreatePartitions s = bootStage 6 true s k ∧
    (k s).admin.bound = addNats s.admin.bound (distinct (s.admin.config.map (·.1))) ∧ (k s).mem = s.mem := by
  obtain ⟨hadmin, hmem⟩ := applyConfig_rest s s.admin.config
  refine ⟨?k, ?exec, ?left⟩
  case exec =>
    change execBootCreatePartitions s = _
    rw [execBootCreatePartitions]
  case left =>
    rw [State.setAdmin, hadmin]
    exact ⟨rfl, hmem⟩

end Machine
end Sys2Proof

namespace Sys2Proof.Claim

open Machine

theorem lossOfPower : LossOfPower := by
  refine fun s => ⟨exec_telemetryWrite_due, exec_telemetryWrite_early, fun hup => ?loss, fun hup hoff => ?rails,
    exec_drainRecordWrite_off, fun hoff hdone => ?reset⟩
  case loss =>
    refine ⟨?halted, ?exec, ?left⟩
    case exec =>
      change execInputPowerLoss s = _
      rw [execInputPowerLoss, hup, if_neg (by decide)]
    case left =>
      refine ⟨rfl, rfl, ?_, rfl, rfl, rfl, ?_, ?_, fun c _ => ?cores, ?_⟩
      case cores => exact core_foldl_coreList (P := fun x => x.halt = true) (fun _ => rfl) rfl s c
      all_goals
        rw [foldl_updCore_rest]
        rfl
  case rails =>
    obtain ⟨hrest, howq⟩ := keepsOwqs_metaFlush s
    refine ⟨?dark, ?exec, ?left⟩
    case exec =>
      change execHoldupRailsOff s = _
      rw [execHoldupRailsOff, hup, hoff, if_neg (by decide)]
    case left =>
      refine ⟨rfl, rfl, rfl, ?_, ?_, ?_, fun d => ?_⟩
      · have hmem : s.metaFlush.mem = s.mem := by rw [hrest]
        rw [foldl_updDie_rest, foldl_updCore_rest]
        exact congrArg (Tab.keep · isScm) hmem
      · rw [foldl_updDie_rest, foldl_updCore_rest]
        rfl
      · have hkeys : s.metaFlush.mediaKeys = s.mediaKeys := by rw [hrest]
        rw [foldl_updDie_rest, foldl_updCore_rest]
        exact congrArg (Tab.keep · fun x => isScm (64 * x)) hkeys
      · refine Eq.trans (owq_foldl_updDie ?_ _ _ d) ?_
        · exact fun _ => rfl
        · rw [foldl_updCore_rest]
          exact howq d
  case reset =>
    obtain ⟨hrest, -⟩ := keepsOwqs_metaFlush s
    have hall : ((List.range 4).all fun d => (s.readDrain d).done) = true := by simpa using hdone
    refine ⟨?fresh, ?exec, ?left⟩
    case exec =>
      change execFullReset s = _
      rw [execFullReset, hoff, hall, if_neg (by simp)]
    case left =>
      refine ⟨rfl, rfl, ?_, ?_, ?_, rfl, rfl, rfl, ?_, ?_, ?_, rfl, rfl⟩
      all_goals
        dsimp only
        rw [hrest]

theorem bootStages : BootStages := by
  intro s hfailed hoff
  obtain ⟨hpower, hcoresMem⟩ := coresReleased_rest s
  obtain ⟨links, hlinks, hnone, hlinksMem⟩ := bootTrainLinks_stage s
  obtain ⟨ports, hports, hsynced, hfree, hportsMem⟩ := bootTrainPorts_stage s
  obtain ⟨parts, hparts, hbound, hpartsMem⟩ := bootCreatePartitions_stage s
  have hpasses {n : Nat} (k : State → State) (h : s.admin.stage = n) :=
    bootStage_passed k (congrArg (· + 1) h) hfailed hoff
  have hfails {n : Nat} (k : State → State) (h : s.admin.stage + 1 = n) := bootStage_failed k h hfailed hoff
  refine ⟨fun h => ?verify, fun mk n hmk h => ?fails, fun h => ?cores,
    fun h => ⟨_, (hlinks true).trans (hpasses links h), rfl, hnone, hlinksMem⟩, fun confirmed h => ?records,
    fun h => ⟨_, (hports true).trans (hpasses ports h), rfl, hsynced, hfree, hportsMem⟩,
    fun h => ⟨_, hparts.trans (hpasses parts h), rfl, hbound, hpartsMem⟩⟩
  case verify =>
    change bootStage 1 (s.accepts (s.admin.slots.getD s.admin.active [])) s id = _
    rw [State.setAdmin]
    cases s.accepts (s.admin.slots.getD s.admin.active [])
    · exact hfails id (congrArg (· + 1) h)
    · exact hpasses id h
  case fails =>
    simp only [List.mem_cons, Prod.mk.injEq, List.not_mem_nil, or_false] at hmk
    obtain ⟨rfl, rfl⟩ | ⟨rfl, rfl⟩ | ⟨rfl, rfl⟩ | ⟨rfl, rfl⟩ := hmk
    · exact (exec_bootReleaseCores false s).trans (hfails _ h)
    · exact (hlinks false).trans (hfails links h)
    · obtain ⟨records, hrecords, -⟩ := bootReadRecords_stage [] s
      exact (hrecords false).trans (hfails records h)
    · exact (hports false).trans (hfails ports h)
  case cores =>
    refine ⟨_, (exec_bootReleaseCores true s).trans (hpasses _ h), rfl, ?_, ?_, ?_⟩
    · rw [State.setAdmin_power, hpower]
    · rw [State.setAdmin_power, hpower]
    · rw [State.setAdmin_mem, hcoresMem]
  case records =>
    obtain ⟨records, hrecords, hsuspect⟩ := bootReadRecords_stage confirmed s
    exact ⟨_, (hrecords true).trans (hpasses records h), rfl, hsuspect⟩

end Sys2Proof.Claim

namespace Sys2Proof

/-- Settles O46: the metadata caches' write-back keeps memory, keys and OWQs, so the rails and the reset leave what SCM and the media
hold; each stage of the boot is `bootStage` at its number. -/
theorem powerLossAndBoot : Obligations.PowerLossAndBoot := ⟨Claim.lossOfPower, Claim.bootStages⟩

end Sys2Proof
end

section
/-! SUPPORT. What stands around an instruction's meaning in a step (R89, R176, R179, R186, R187, R230): the choice of the turn, the
fetch, and the OWQs' hold. -/

namespace Sys2Proof.Machine

/-! ### The turn of a step -/

theorem carryKills_of_nil {s : State} (h : s.keyKills = []) : s.carryKills = s := by rw [State.carryKills, h]

/-- A ready stream that waits for nothing takes its quadrant's slot and issues (R186). -/
theorem takeTurn_of_ready {s : State} (hready : s.ready = true) (hwait : s.st.wait = .none) :
    s.takeTurn = s.slotKept s.takeSlot.issue := by
  simp only [State.ready, State.allowed, Bool.and_eq_true, decide_eq_true_eq] at hready
  obtain ⟨⟨⟨⟨hruns, hactive⟩, -⟩, hcycle⟩, hchosen⟩ := hready
  have hchosen : s.chosen = true := by simpa [hwait] using hchosen
  simp [State.takeTurn, hruns, hactive, hcycle, hwait, hchosen]

/-- With an empty agenda the focused stream has the turn while it is ready. -/
theorem step_of_ready {s : State} (hkills : s.keyKills = []) (hagenda : s.agenda = []) (hready : s.ready = true)
    (hwait : s.st.wait = .none) :
    step s = tidied (s.owqGate (.stream s.me) (calm (s.grantsKept (s.slotKept s.takeSlot.issue)))) := by
  rw [step, carryKills_of_nil hkills]
  simp only [hagenda]
  rw [State.defaultTurn, if_pos hready, takeTurn_of_ready hready hwait]

theorem step_of_agenda {s : State} {t : Turn} {r : List Turn} (hkills : s.keyKills = []) (hagenda : s.agenda = t :: r) :
    step s = tidied (State.runTurn { s with agenda := r } t) := by
  rw [step, carryKills_of_nil hkills]
  simp only [hagenda]

theorem runEvent_of_event {s : State} {i : Instr} (hshape : i.shape = .event) (hup : s.admin.holdup = false) :
    s.runEvent i = exec i s := by
  simp [State.runEvent, hshape, hup]

/-! ### Issue -/

/-- The line that a fetch delivers, at the slot that the program counter names. -/
theorem issue_of_line {s t : State} {bytes : List W8} (hpend : (s.st.trap.pend && !s.st.trap.hmode) = false)
    (htime : s.sq.overdue = true → s.sq.overtime = some s.wv.widx → s.st.trap.hmode = true) (hfetch : s.fetch = .line t bytes) :
    s.issue =
      let t1 : State := { t with st := { t.st with npc := pcNext t.st.pc (lineWord bytes), wait := .none } }
      let i := pcSlot t.st.pc
      if linePair (lineWord bytes) i then t1.performPair (slotAt bytes i) (slotAt bytes (i + 1))
      else t1.performSlot (slotAt bytes i) := by
  rw [State.issue, if_neg, if_neg, hfetch]
  · rintro ⟨hdue, hover, hmode, -⟩
    simp [htime hdue hover] at hmode
  · rintro ⟨hdue, hmode, -⟩
    simp [hdue, hmode] at hpend

theorem performSlot_ok {s : State} {w : Nat × Option Ext} {i : Instr} (h : decodeSlot w.1 w.2 = .ok i) :
    s.performSlot w = s.spaced (twice i.shape) (exec i s) := by
  rw [State.performSlot, h]

theorem performSlot_error {s : State} {w : Nat × Option Ext} {e : DecodeError} (h : decodeSlot w.1 w.2 = .error e) :
    s.performSlot w = illop s := by
  rw [State.performSlot, h]

/-! ### The hold of a full OWQ -/

/-- What enters no OWQ passes (R89). -/
theorem owqGate_of_same {s t : State} (w : Waiter) (h : ∀ d, d < 4 → (t.die d).owqLast = (s.die d).owqLast) :
    s.owqGate w (.next t) = .next { t with owqWait := t.owqWait.filter fun e => e.1 != w } := by
  have hgrew : s.owqGrew t = [] := by
    refine List.filter_eq_nil_iff.mpr fun d hd => ?_
    simp [h d (List.mem_range.mp hd)]
  simp [State.owqGate, State.owqPasses, hgrew]

/-! ### The fetch of a line that no instruction cache holds -/

theorem keepTlb_rest (s : State) (es : List TlbEntry) : s.keepTlb es = { s with cores := (s.keepTlb es).cores } := by
  rw [State.keepTlb]
  split <;> rfl

theorem calm_keepTlb (s : State) (es : List TlbEntry) : Calm s (s.keepTlb es) := by
  rw [keepTlb_rest]
  exact calm_of_l2 (.refl s) rfl

theorem icache_keepTlb (s : State) (es : List TlbEntry) (c : Nat) : ((s.keepTlb es).core c).icache = (s.core c).icache := by
  rw [State.keepTlb]
  split
  · rfl
  · rw [State.core_updCore]
    split
    · next hc => rw [hc]
    · rfl

/-- A fetch reads past the L1, so what the cores hold does not matter (R64). -/
theorem freshLine_keepTlb (s : State) (es : List TlbEntry) (va : Nat) (e : TlbEntry) :
    (s.clearDeny.keepTlb es).freshLine va e = s.freshLine va e := by
  rw [keepTlb_rest]
  rfl

theorem codeLine_of_uncached {s : State} {va : Nat} (e : TlbEntry)
    (h : ((s.core s.sq.core).icache.all fun x => !(x.1 == s.sq.inst.part && x.2.1 == va)) = true) :
    s.codeLine va e = s.freshLine va e := by
  have hnone : (s.core s.sq.core).icache.find? (fun x => x.1 == s.sq.inst.part && x.2.1 == va) = none := by
    refine List.find?_eq_none.mpr fun x hx => ?_
    have hmiss := List.all_eq_true.mp h x hx
    rwa [Bool.not_eq_true', ← Bool.not_eq_true] at hmiss
  rw [State.codeLine, hnone, State.freshLine]

theorem fetchLine_of_translated {s : State} {va l v : Nat} {e : TlbEntry}
    (h : s.translate [(0, BitVec.ofNat 64 va)] .exec (fun k => k == .memory) = .ok [(l, v, e)]) :
    s.fetchLine va = .line (s.clearDeny.keepTlb [e]) (s.codeLine va e) := by
  rw [State.fetchLine, h]

/-- A stream that has kept no line, and enters no handler, checks the line that it fetches (R229). -/
theorem fetch_of_fetchLine {s u : State} {bytes : List W8} (hpc : pcValid s.st.pc = true) (hline : s.st.line = none)
    (hfetch : s.fetchLine (pcLine s.st.pc).toNat = .line u bytes) (henter : u.st.entering = false) (hskip : u.st.skip = false) :
    s.fetch = u.checkLine (pcLine s.st.pc).toNat bytes := by
  have hsame : { u with st := { u.st with entering := false } } = u := by rw [← henter]
  rw [State.fetch]
  dsimp only
  rw [if_neg (by simp [hpc]), hline]
  dsimp only
  rw [hfetch]
  dsimp only
  rw [if_neg (by simp [hskip]), if_neg (by simp [State.entryFails, henter])]
  exact congrArg (State.checkLine · _ bytes) hsame

theorem checkLine_of_sound {u : State} {va : Nat} {bytes : List W8} {e : TlbEntry} (hentry : u.codeEntry va = some e)
    (hbad : u.viewBad u.sq.core e.key e.cp .l1 (e.pa va) = false) (hkey : u.violates e.key (e.pa va) = false)
    (hparity : lineParityOk bytes = true) (hfaults : lineFaults (lineWord bytes) = 0) :
    u.checkLine va bytes = .line (u.keepLine va bytes e) bytes := by
  simp [State.checkLine, hentry, hbad, hkey, hparity, hfaults]

/-- A line that is kept leaves the stream where it stands, and memory as it is. -/
theorem keepLine_rest {s : State} (hkeys : s.oneKey) (va : Nat) (bytes : List W8) (e : TlbEntry) :
    (s.keepLine va bytes e).st.pc = s.st.pc ∧ (s.keepLine va bytes e).wv = s.wv ∧ (s.keepLine va bytes e).mem = s.mem := by
  obtain ⟨⟨hmem, -, -, -, -, -, -, hwv, hst, -⟩, -⟩ := calm_fillLine s s.sq.core e.key e.cp false e.c e.p (e.pa va) false hkeys
  rw [State.keepLine]
  dsimp only
  split
  · exact ⟨rfl, rfl, rfl⟩
  · exact ⟨congrArg Stream.pc hst, hwv, hmem⟩

end Sys2Proof.Machine

namespace Sys2Proof

open Machine

/-- Settles O59: a ready stream issues from the line that its fetch delivers, and the slot of that line decides what is performed; a fetch
past the instruction caches checks the line of memory; the agenda's head is its turn, and what enters no OWQ passes the gate. -/
theorem stepRunsDecodedInstruction : Obligations.StepRunsDecodedInstruction := by
  refine ⟨fun s t bytes hkills hagenda hready hwait hpend htime hfetch => ?stream, fun s t w h => ?gate,
    fun s e l va hpc hline henter hskip htranslate huncached => ?fetch,
    fun s i r hkills hagenda hshape hup => ?event, fun s who n x r hkills hagenda => ?turn⟩
  case stream =>
    intro k t1 stepsTo
    have hstep : stepsTo s.takeSlot.issue := step_of_ready hkills hagenda hready hwait
    have hissue : s.takeSlot.issue =
        if linePair (lineWord bytes) k then t1.performPair (slotAt bytes k) (slotAt bytes (k + 1)) else t1.performSlot (slotAt bytes k) :=
      issue_of_line hpend htime hfetch
    rw [hissue] at hstep
    refine ⟨fun i hpair hok => ?_, fun e hpair herror => ?_, fun hpair => ?_⟩
    · rwa [if_neg (by simp [hpair]), performSlot_ok hok] at hstep
    · rwa [if_neg (by simp [hpair]), performSlot_error herror] at hstep
    · rwa [if_pos hpair] at hstep
  case gate => exact congrArg tidied (owqGate_of_same (t := { t with upset := 0 }) w h)
  case fetch =>
    intro u hkeys hentry bytes hbad hkey hparity hfaults
    have hcalm : Calm s.clearDeny u := calm_keepTlb ..
    have ⟨⟨humem, _, _, _, _, _, husq, huwv, hust, _⟩, _⟩ := hcalm
    have hread : s.fetchLine (pcLine s.st.pc).toNat = .line u bytes := by
      rw [fetchLine_of_translated (by simpa using htranslate), codeLine_of_uncached e huncached]
      exact congrArg (Fetched.line u) (freshLine_keepTlb ..).symm
    rw [← show u.sq = s.sq from husq] at hbad
    rw [fetch_of_fetchLine hpc hline hread ((congrArg Stream.entering hust).trans henter) ((congrArg Stream.skip hust).trans hskip),
      checkLine_of_sound hentry hbad hkey hparity hfaults]
    obtain ⟨kpc, kwv, kmem⟩ := keepLine_rest (hcalm.oneKey hkeys) (pcLine s.st.pc).toNat bytes e
    exact ⟨_, rfl, kpc.trans (congrArg Stream.pc hust :), kwv.trans huwv, kmem.trans humem⟩
  case event =>
    intro s1
    rw [step_of_agenda hkills hagenda, ← runEvent_of_event (s := s1) hshape hup]
    rfl
  case turn =>
    rw [step_of_agenda hkills hagenda, State.runTurn]
    refine ⟨fun hnone => ?_, fun hhas => ?_⟩
    · rw [hnone]
      rfl
    · rw [hhas]
      rfl

end Sys2Proof
end

section
/-! SUPPORT. Loads, stores and cache control (R296 to R303) past their checks: each instruction is its shared access, and the
access hands on the places, the bytes and the state that the rules of `Laws/Access` give. -/

namespace Sys2Proof.Machine

/-- Past its checks an instruction runs with its tracked sources landed (R239, R241). -/
theorem guarded_landed {i : Instr} {s : State} (h : s.clear i) (k : State → Out) : guarded i.shape.named s k = k (s.landed i) :=
  guarded_clear h k

/-! ### Loads -/

/-- The bytes of the only place of a scalar access. -/
theorem laneBytes_singleton (s : State) (past : Past) (x : LaneLoc) (n : Nat) :
    s.laneBytes past [x] n x.lane = s.locBytes past x.loc n := by
  simp [State.laneBytes]

/-! ### The registers of a load -/

/-- The state with another list of pending destinations. -/
def State.withTracked (s : State) (x : List (RegId × Nat × Nat)) : State := { s with wv := { s.wv with tracked := x } }

/-- Pending destinations are no part of what a lanes' effect says. -/
theorem lanesEffect_withTracked {s t : State} {h : Head} {n count : Nat} {mask : W64} {g : Nat → Nat → W32} {lat : Nat} {flags : Flags}
    {adv : Nat → Nat} (x : List (RegId × Nat × Nat)) (e : lanesEffect s t h n count mask g lat flags adv) :
    lanesEffect s (t.withTracked x) h n count mask g lat flags adv := by
  obtain ⟨hwrote, hflg, hvectors, hscalars, hmasks, hround, hwave, hretires, hrest, hbytes⟩ := e
  refine ⟨hwrote, hflg, hvectors, hscalars, hmasks, hround, ?_, hretires, ?_, hbytes⟩
  · exact congrArg (fun w : Wave => { w with tracked := x }) hwave
  · exact congrArg (fun u : State => u.withTracked x) hrest

/-- The tracked writes of a vector load are its writes, each of them pending. -/
theorem loadVec_eq_writeRun (s : State) (h : Head) (d n : Nat) (val : Nat → Nat → W32) :
    ∃ x, s.loadVec h d n val =
        (s.writeRun d n (s.written h) (fun j l => if (s.activeLanes h).getLsbD l then val l j else 0) 0).withTracked x ∧
      ∀ j, j < n → ∃ land, (RegId.vec (d + j), s.st.fid, land) ∈ x := by
  induction n with
  | zero => exact ⟨s.wv.tracked, rfl, fun j hj => absurd hj (Nat.not_lt_zero j)⟩
  | succ n ih =>
    obtain ⟨x, heq, hmem⟩ := ih
    have hfid : (s.loadVec h d n val).st.fid = s.st.fid := by rw [heq, State.writeRun_rest]; rfl
    have hstep : s.loadVec h d (n + 1) val = ((s.loadVec h d n val).writeV (d + n) (s.written h)
        fun l => if (s.activeLanes h).getLsbD l then val l n else 0).track (.vec (d + n)) := by
      simp [State.loadVec, List.range_succ]
    rw [hstep, heq, State.writeRun_succ]
    refine ⟨_, rfl, fun j hj => ?_⟩
    obtain rfl | hlt : j = n ∨ j < n := by omega
    · exact ⟨_, List.mem_cons.mpr (.inl (by rw [← hfid, heq, State.writeV_rest]))⟩
    · obtain ⟨land, hland⟩ := hmem j hlt
      exact ⟨land, List.mem_cons_of_mem _ (List.mem_filter.mpr ⟨hland, by simp; omega⟩)⟩

/-- What a vector load writes: its lanes' effect, every register of it pending. -/
theorem lanesEffect_loadVec (s : State) (h : Head) (d n : Nat) (val : Nat → Nat → W32) :
    lanesEffect s ((s.loadVec h d n val).retire h) h d n (s.written h)
        (fun j l => if (s.activeLanes h).getLsbD l then val l j else 0) 0 0 (fun _ => 0) ∧
      ∀ j, j < n → ∃ land, (RegId.vec (d + j), s.st.fid, land) ∈ ((s.loadVec h d n val).retire h).wv.tracked := by
  obtain ⟨x, heq, hmem⟩ := loadVec_eq_writeRun s h d n val
  have hself : s.untrack [] = s := by simp [State.untrack]
  have hwrite := lanesEffect_write s [] h d n (s.written h) (fun j l => if (s.activeLanes h).getLsbD l then val l j else 0) 0 0 0 0 0
  rw [hself, State.orFlags_zero] at hwrite
  rw [heq]
  have hround : (fun l => if 0 = 6 ∧ (0 : W64).getLsbD l = true then 0 else 0) = fun _ : Nat => 0 := by simp
  rw [hround] at hwrite
  exact ⟨lanesEffect_withTracked x hwrite, hmem⟩

/-- What a tracked scalar result of a known latency changes (R239). -/
theorem wroteTracked (s : State) (h : Head) {n : Nat} (v : W64) (lat : Nat) (hn : n ≠ 0) :
    let t := (s.writeTracked n v lat).retire h
    wroteScalar s t n v lat ∧ (RegId.sca n, s.st.fid, s.landAt (.sca n) lat) ∈ t.wv.tracked ∧
    keepsScalars s t [n] ∧ keepsVectors s t [] ∧ keepsMasks s t [] ∧ t.wv.flg = s.wv.flg ∧ keepsWave s t ∧ retires s t h ∧ keepsRest s t := by
  have hrest := s.writeTracked_rest n v lat hn
  have hlanded (c : Nat) (hc : s.landAt (.sca n) lat ≤ c) : State.readS { s.writeTracked n v lat with cycle := c } n = if n = 0 then 0 else v := by
    rw [if_neg hn, s.readS_writeTracked_landed n v lat c hn hc]
  refine ⟨⟨hlanded, s.readS_writeTracked_now n v lat⟩, ?_, fun m hm => s.readS_writeTracked_other n m v lat (by simpa using hm),
    fun m l _ _ => s.readV_writeTracked n m l v lat, fun m _ => s.readM_writeTracked n m v lat, ?_, ?_, ?_, ?_, fun a => ?_⟩
  all_goals (simp only [keepsWave, retires, retiresTo, State.retire, State.retireTo]; rw [hrest])
  · exact List.mem_cons_self
  all_goals rfl

/-! ### Stores -/

theorem exec_sst_of_sound {f : MF} {s : State} {x : LaneLoc} {ys : List LaneLoc} (hclear : s.clear (.sst f)) :
    let s0 := s.landed (.sst f)
    let s1 := s0.undenied f.space (x :: ys)
    let y := x.policy f.cpol
    let s2 := s1.flushed [y] f.order
    s0.places f.space (s0.uniform (s0.addrAt f 0)) f.width.bytes .write (servesScalar f.width) = some (x :: ys) →
    s1.isMmio x = false → (Order.releases f.order = true → s1.windowOwed = false) → s2.mergeViolations [y] f.width.bytes = [] →
    exec (.sst f) s = .next (((if s2.storePins [y] f.width.bytes then s2.pin else s2).storeLanes [y]
      fun _ => leBytes f.width.bytes (s1.readS (Reg.num f.data)).toNat).retire f.h) := by
  intro s0 s1 y s2 hplaces hmmio howed hmerge
  change execSst f s = _
  refine (guarded_landed hclear _).trans <| (withOne_some hplaces _).trans <| (if_neg ?_).trans <| performStore_sound howed hmerge _ _
  simpa using hmmio

/-! ### Cache control -/

theorem pick_eq_none {ls : List LaneVa} {p : LaneVa → Bool} (h : ∀ x ∈ ls, p x = false) : pick ls p = none := by
  have hfilter : ls.filter p = [] := by simpa using h
  rw [pick, hfilter]

theorem exec_pref_of_canonical {f : MF} {s : State} (hclear : s.clear (.pref f)) :
    let s0 := s.landed (.pref f)
    let ls := s0.laneVas f.h (s0.addrAt f)
    (∀ x ∈ ls, noncanon x.2 = false) →
    exec (.pref f) s = .next ((ls.foldl (fun s x => s.prefetch f x.2.toNat) s0).retire f.h) := by
  intro s0 ls hcanonical
  change execPref f s = _
  refine (guarded_landed hclear _).trans ?_
  dsimp only
  rw [pick_eq_none hcanonical]

theorem exec_cwb_of_places {f : MF} {s : State} {xs : List LaneLoc} (hclear : s.clear (.cwb f)) :
    let s0 := s.landed (.cwb f)
    s0.places .global (s0.laneVas f.h (s0.addrAt f)) 1 .read servesVector = some xs →
    exec (.cwb f) s = .next (((linesOf xs).foldl (fun s l => s.cleanLine l.1 l.2) (s0.undenied .global xs)).retire f.h) := by
  intro s0 hplaces
  change execCwb f s = _
  refine (guarded_landed hclear _).trans ?_
  exact withPlaces_some hplaces fun s xs => .next (((linesOf xs).foldl (fun s l => s.cleanLine l.1 l.2) s).retire f.h)

/-- The addresses of lanes that translate. -/
theorem pasOf_lanes (ys : List (Nat × Nat × TlbEntry)) :
    pasOf (ys.map fun x => LaneLoc.mk x.1 x.2.1 (.mem (x.2.2.pa x.2.1) x.2.2)) = ys.map fun x => x.2.2.pa x.2.1 := by
  induction ys with
  | nil => rfl
  | cons y ys ih => exact congrArg (y.2.2.pa y.2.1 :: ·) ih

theorem exec_cinv_of_places {f : MF} {s : State} {xs : List LaneLoc} (hclear : s.clear (.cinv f)) :
    let s0 := s.landed (.cinv f)
    s0.places .global (s0.laneVas f.h (s0.addrAt f)) 1 .read servesVector = some xs →
    exec (.cinv f) s =
      .next (((pasOf xs).foldl (fun s pa => s.dropCopy s.sq.core pa) (s0.undenied .global xs)).retire f.h) := by
  intro s0 hplaces
  have hdrop (s : State) (ys : List (Nat × Nat × TlbEntry)) :
      ys.foldl (fun s x => s.dropCopy s.sq.core (x.2.2.pa x.2.1)) s =
        (pasOf (ys.map fun x => LaneLoc.mk x.1 x.2.1 (.mem (x.2.2.pa x.2.1) x.2.2))).foldl (fun s pa => s.dropCopy s.sq.core pa) s := by
    rw [pasOf_lanes, List.foldl_map]
  change execCinv f s = _
  refine (guarded_landed hclear _).trans ?_
  simp only [hdrop]
  exact withPlaces_some hplaces fun s xs => .next (((pasOf xs).foldl (fun s pa => s.dropCopy s.sq.core pa) s).retire f.h)

end Sys2Proof.Machine

namespace Sys2Proof.Claim

open Machine

/-- A vector load whose lanes may all read delivers their bytes (R299). -/
theorem loadOp_of_runVld {mk : MF → Instr} {sp : MF → Space} {addr : State → MF → Nat → W64} (r : MRule)
    (hshape : ∀ f, (mk f).shape.named = f.named r) (hexec : ∀ f s, exec (mk f) s = runVld r (sp f) f s fun s l => addr s f l) :
    LoadOp mk sp addr := by
  intro f s xs hclear s0 n hplaces ys hdelivered s1 past hreadable
  rw [hexec, runVld, ← hshape, guarded_landed hclear]
  exact (withPlaces_some hplaces _).trans (withData_readable hdelivered hreadable _)

/-- A scalar load of memory or scratchpad that may be read delivers its bytes (R301). -/
theorem scalarLoadOp_of_runSld {mk : MF → Instr} {sp : MF → Space} (r : MRule) (hshape : ∀ f, (mk f).shape.named = f.named r)
    (hexec : ∀ f s, exec (mk f) s = runSld r (sp f) f s) : ScalarLoadOp mk sp := by
  intro f s x ys hclear s0 n hplaces s1 hmmio y hdelivered s2 past hreadable
  rw [hexec, runSld, ← hshape, guarded_landed hclear, ← laneBytes_singleton s2 past y, LaneLoc.policy_lane]
  refine (withOne_some hplaces _).trans <| (if_neg ?_).trans <| withData_readable hdelivered hreadable _
  simpa using hmmio

/-- A vector store whose checks pass is performed (R302). -/
theorem storeOp_of_runVst {mk : MF → Instr} {sp : MF → Space} {addr : State → MF → Nat → W64} (r : MRule)
    (hshape : ∀ f, (mk f).shape.named = f.named r) (hexec : ∀ f s, exec (mk f) s = runVst r (sp f) f s fun s l => addr s f l) :
    StoreOp mk sp addr := by
  intro f s xs hclear s0 n hplaces ys s1 howed s2 hmerge
  rw [hexec, runVst, ← hshape, guarded_landed hclear]
  exact (withPlaces_some hplaces _).trans (performStore_sound howed hmerge _ _)

theorem vectorLoads : VectorLoads :=
  ⟨loadOp_of_runVld (Rule.vld [.global] .any true) (fun _ => rfl) fun _ _ => rfl,
    loadOp_of_runVld (Rule.vld [.scratch] .any true) (fun _ => rfl) fun _ _ => rfl,
    loadOp_of_runVld (Rule.vld [.cluster] .any true) (fun _ => rfl) fun _ _ => rfl,
    loadOp_of_runVld (Rule.vld Rule.data3 .none false) (fun _ => rfl) fun _ _ => rfl,
    loadOp_of_runVld (Rule.vld Rule.data3 .sca false) (fun _ => rfl) fun _ _ => rfl⟩

theorem loadedRegisters : LoadedRegisters := by
  refine ⟨fun s h n v lat hn => wroteTracked s h v lat hn, fun s h d count val => ?_⟩
  obtain ⟨⟨hwrote, hflg, hvectors, hscalars, hmasks, -, hwave, hretires, hrest⟩, htracked⟩ := lanesEffect_loadVec s h d count val
  exact ⟨hwrote, htracked, hvectors, hscalars, hmasks, by simpa using hflg, hwave, hretires, hrest⟩

theorem scalarLoads : ScalarLoads :=
  ⟨scalarLoadOp_of_runSld (Rule.sld Rule.data3 [.rlx, .acq, .sc]) (fun _ => rfl) fun _ _ => rfl,
    scalarLoadOp_of_runSld (Rule.sld [.param] [.rlx]) (fun _ => rfl) fun _ _ => rfl⟩

theorem vectorStores : VectorStores :=
  ⟨storeOp_of_runVst (Rule.vst [.global] .any true) (fun _ => rfl) fun _ _ => rfl,
    storeOp_of_runVst (Rule.vst [.scratch] .any true) (fun _ => rfl) fun _ _ => rfl,
    storeOp_of_runVst (Rule.vst [.cluster] .any true) (fun _ => rfl) fun _ _ => rfl,
    storeOp_of_runVst (Rule.vst Rule.data3 .sca false) (fun _ => rfl) fun _ _ => rfl⟩

theorem scalarStoreAndCacheControl : ScalarStoreAndCacheControl :=
  ⟨fun _ _ _ _ hclear => exec_sst_of_sound hclear, fun _ _ hclear => exec_pref_of_canonical hclear,
    fun _ _ _ hclear => exec_cwb_of_places hclear, fun _ _ _ hclear => exec_cinv_of_places hclear⟩

end Sys2Proof.Claim

namespace Sys2Proof

/-- Settles O11: each load is the shared access with its own address, whose checks pass; what it writes is its run of registers, each
pending. -/
theorem loadsDeliverMemory : Obligations.LoadsDeliverMemory := ⟨Claim.vectorLoads, Claim.loadedRegisters, Claim.scalarLoads⟩

/-- Settles O12: each store is the shared access with its own address, and cache control visits the lines of its places in turn. -/
theorem storesWriteMemory : Obligations.StoresWriteMemory := ⟨Claim.vectorStores, Claim.scalarStoreAndCacheControl⟩

end Sys2Proof
end

section
/-! SUPPORT. Two states that two statements about every state speak of, and no run from reset reaches. Stream numbers are resolved by
the first squad of a number, and a stream that is found nowhere leaves the empty squad of reset in focus (`focusIn`). -/

namespace Sys2Proof.Machine

/-! ### A focus that no list holds -/

/-- A stream is in focus whose squad is discarded: `everySquad` leaves it out, so no change of squads finds it again. -/
def strayFocus : State := { State.reset with st := Stream.start 4 }

/-- A lane's place in the saved scratchpad of squad 5. -/
def imagePlace : LaneLoc := { lane := 0, va := 0, loc := .sp (.image 5) 0 true }

theorem strayFocus_wait : strayFocus.st.wait = .none := rfl

/-- Changing the images of squads loses the stream in focus. -/
theorem storeLanes_strayFocus_wait : (strayFocus.storeLanes [imagePlace] fun _ => [1]).st.wait = .ended := by decide

/-! ### Two squads under one number -/

/-- Squad 5, resident, with no wave. -/
def wavelessSquad : Squad := { Squad.none with sid := 5, place := .resident }

/-- Another squad of the same number, with a stream. -/
def twinSquad : Squad := { wavelessSquad with waves := [{ Wave.start 0 0 0 1 with frags := [Stream.start 0] }] }

/-- A CPYF of squad 5 whose copy is done and whose follow-on is to enter. -/
def followingCopy : Command :=
  { id := 1, op := 0x141, who := ⟨5, 0, 0⟩, part := 0, core := 0, code := 0, d := [], imm := 0, tag := 0, phase := .following, block := [],
    layout := [], denied := false, seen := [], tlb := [], asked := [], sent := 0 }

/-- An earlier copy of the stream that the empty squad of reset stands for. -/
def bareCopy : Command := { followingCopy with id := 0, who := ⟨0, 0, 0⟩ }

def twinSquads : State := { State.reset with squads := [wavelessSquad, twinSquad], cmds := [bareCopy, followingCopy] }

/-- The stream of `followingCopy` exists, in the second squad, and the focus on it, which looks in the first, is the empty squad. -/
theorem focus_twinSquads : twinSquads.has followingCopy.who = true ∧ (twinSquads.focus followingCopy.who).me = bareCopy.who := by decide

/-- So the follow-on waits for another stream's copy. -/
theorem exec_cpyfFollowonEnter_twinSquads : exec (.cpyfFollowonEnter 1) twinSquads = .next twinSquads := rfl

theorem squad?_twinSquads : twinSquads.squad? 5 = some wavelessSquad := by decide

/-- The only copy of the follow-on's wave is its own. -/
theorem earliest_followingCopy :
    ∀ e ∈ twinSquads.cmds, waveOf e.who = waveOf followingCopy.who → opClass e.op = 1 → followingCopy.id ≤ e.id := by decide

end Sys2Proof.Machine

namespace Sys2Proof

/-- Refutes O53: a store to the saved scratchpad of a squad goes through every squad, and where the squad in focus is discarded the
stream in focus is then lost. -/
theorem not_storeFrame : ¬ Obligations.StoreFrame := by
  intro ⟨hpeer, _⟩
  obtain ⟨-, -, hst⟩ := hpeer Machine.strayFocus [Machine.imagePlace] (fun _ => [1]) (by simp [Machine.imagePlace])
  have hwait := Machine.storeLanes_strayFocus_wait
  rw [hst, Machine.strayFocus_wait] at hwait
  exact Machine.Wait.noConfusion hwait

/-- Refutes O29: where two squads have one number, the follow-on of a CPYF waits for a copy of another wave, which the statement
does not count among the earlier ones; the statement would have it end here, and its command leave the list. -/
theorem not_commandEndsAndGathers : ¬ Obligations.CommandEndsAndGathers := by
  intro ⟨⟨_, hfollow, _⟩, _⟩
  have hentered := hfollow 1 Machine.twinSquads Machine.followingCopy Machine.wavelessSquad rfl rfl Machine.earliest_followingCopy
    Machine.squad?_twinSquads rfl (by decide)
  rw [Machine.exec_cpyfFollowonEnter_twinSquads] at hentered
  have hcmds := congrArg (fun o : Machine.Out => match o with | .next t => t.cmds.length | _ => 0) hentered
  revert hcmds
  decide

end Sys2Proof
end

section
/-! SUPPORT. Fences (R106, R107, R113, R311) and waits on a word (R313, R314). -/

namespace Sys2Proof.Machine

/-! ### Fences -/

/-- A release that owes the acknowledgement of a store through a window waits (R118). -/
theorem fenceAt_of_owed {s : State} {o : Order} (hreleases : Order.releases o = true) (howed : s.windowOwed = true) (sc : Scope) (h : Head) :
    fenceAt s o sc h = .next (s.hold .blocked) := by
  rw [fenceAt, releasing, if_pos hreleases, if_pos howed]

/-- A fence that owes nothing sends the buffered reductions where it releases, and drops the copies where it acquires. -/
theorem fenceAt_of_free {s : State} {o : Order} (howed : Order.releases o = true → s.windowOwed = false) (sc : Scope) (h : Head) :
    fenceAt s o sc h = .next (((if Order.releases o then s.flushMine else s).acquireAt o sc).retire h) :=
  releasing_free howed _

theorem exec_fence_of_clear {f : MF} {s : State} (hclear : s.clear (.fence f)) :
    exec (.fence f) s = fenceAt (s.landed (.fence f)) f.order f.scope f.h :=
  guarded_landed hclear fun s => fenceAt s f.order f.scope f.h

theorem exec_xfence_of_clear {f : MF} {s : State} (hclear : s.clear (.xfence f)) :
    let s0 := s.landed (.xfence f)
    exec (.xfence f) s = if s0.classBusy (f.off.toNat % 16) then .next (s0.hold .blocked)
      else fenceAt (s0.seenBy (f.off.toNat % 16) (f.off.toNat / 16 % 16)) f.order f.scope f.h := by
  change execXfence f s = _
  exact guarded_landed hclear _

/-- What other classes see of a wave's stores is no matter of windows. -/
theorem State.windowOwed_seenBy (s : State) (a b : Nat) : (s.seenBy a b).windowOwed = s.windowOwed := by
  rw [State.seenBy]
  exact (apply_ite State.windowOwed _ _ _).trans (ite_self _)

/-- After an XFENCE from core, no store of the wave lags behind for its second class (R113). -/
theorem State.notMem_lags_seenBy (s : State) (b : Nat) :
    ∀ l ∈ ((s.seenBy 0 b).core s.sq.core).lags, waveOf l.who = waveOf s.me → b ∉ l.classes := by
  intro l hl hwave
  by_cases hempty : (s.core s.sq.core).lags = []
  · simp [State.seenBy, hempty] at hl
  · have hcond : ¬ ((0 : Nat) ≠ 0 ∨ (s.core s.sq.core).lags.isEmpty = true) := by simpa using hempty
    rw [State.seenBy, if_neg hcond, State.core_setCore, if_pos rfl] at hl
    obtain ⟨⟨m, -, rfl⟩, -⟩ := by simpa only [List.mem_filter, List.mem_map] using hl
    by_cases hm : waveOf m.who = waveOf s.me
    · simp [hm]
    · exact absurd (by simp only [hm] at hwave; exact hwave) hm

/-- A command of the stream's own number that is still listed keeps its class busy. -/
theorem State.classBusy_of_mem {s : State} {c : Command} (hmem : c ∈ s.cmds) (hwave : waveOf c.who = waveOf s.me)
    (hfid : c.who.fid = s.st.fid) (hclass : opClass c.op ∈ [1, 3, 4]) : s.classBusy (opClass c.op) = true := by
  have hmine : s.issuedHere c.who c.id = true := by simp [State.issuedHere, hwave, hfid]
  have hbusy : (s.cmds.any fun e => s.issuedHere e.who e.id && opClass e.op == opClass c.op) = true :=
    List.any_eq_true.mpr ⟨c, hmem, by simp [hmine]⟩
  have hcls : opClass c.op = 1 ∨ opClass c.op = 3 ∨ opClass c.op = 4 := by simpa using hclass
  have hne : opClass c.op ≠ 2 := by omega
  rw [State.classBusy, if_neg hne, if_pos hcls, hbusy]

/-! ### What an access leaves in place -/

/-- An access takes translations into the cores, and may use up the denials that the stream holds. -/
theorem State.undenied_eq (s : State) (sp : Space) (xs : List LaneLoc) :
    ∃ x c, (x = s.st ∨ x = s.st.cleared) ∧ s.undenied sp xs = { s with st := x, cores := c } := by
  have hglobal (es : List TlbEntry) :
      ∃ x c, (x = s.st ∨ x = s.st.cleared) ∧ { s with st := s.st.cleared }.keepTlb es = { s with st := x, cores := c } :=
    ⟨_, _, .inr rfl, keepTlb_rest _ es⟩
  cases sp with
  | global | param => exact hglobal _
  | scratch | cluster => exact ⟨_, _, .inl rfl, rfl⟩

theorem State.undenied_sval (s : State) (sp : Space) (xs : List LaneLoc) (x : Src) (i : W32) (e : Option Ext) :
    (s.undenied sp xs).sval x i e = s.sval x i e := by
  obtain ⟨_, _, rfl | rfl, h⟩ := s.undenied_eq sp xs <;> rw [h] <;> rfl

theorem State.undenied_hasSibling (s : State) (sp : Space) (xs : List LaneLoc) : (s.undenied sp xs).hasSibling = s.hasSibling := by
  obtain ⟨_, _, rfl | rfl, h⟩ := s.undenied_eq sp xs <;> rw [h] <;> rfl

theorem State.undenied_waitOn (s : State) (sp : Space) (xs : List LaneLoc) (f : MF) (x : LaneLoc) :
    (s.undenied sp xs).waitOn f x = s.waitOn f x := by
  obtain ⟨_, _, rfl | rfl, h⟩ := s.undenied_eq sp xs <;> rw [h] <;> rfl

end Sys2Proof.Machine

namespace Sys2Proof.Claim

open Machine

theorem fences : Fences := by
  refine ⟨fun f s hclear => ⟨fun hreleases howed => ?_, fun howed => ?_⟩, fun f s hclear => ⟨fun hbusy => ?_, fun hbusy howed => ?_⟩,
    State.notMem_lags_seenBy, fun s c hmem hwave hfid => State.classBusy_of_mem hmem hwave hfid, fun s => rfl⟩
  · rw [exec_fence_of_clear hclear]
    exact fenceAt_of_owed (s := s.landed (.fence f)) hreleases howed _ _
  · rw [exec_fence_of_clear hclear]
    exact fenceAt_of_free (s := s.landed (.fence f)) howed _ _
  · exact (exec_xfence_of_clear hclear).trans (if_pos hbusy)
  · refine ((exec_xfence_of_clear hclear).trans (if_neg (Bool.eq_false_iff.mp hbusy))).trans (fenceAt_of_free (fun hreleases => ?_) _ _)
    exact (State.windowOwed_seenBy _ _ _).trans (howed hreleases)

/-- WAITA whose word may be read tests it (R313). -/
theorem waitOp_of_runWaita {mk : MF → Instr} (w : Width) (hshape : ∀ f, (mk f).shape.named = f.named (Rule.waita w))
    (hexec : ∀ f s, exec (mk f) s = runWaita w f s) : WaitOp mk w.bytes := by
  intro f s x ys hclear s0 hplaces s' hdelivered s1 past hreadable hsibling s2 v
  have hval : s'.sval f.index 0 none = s.sval f.index 0 none := State.undenied_sval s0 f.space (x :: ys) _ _ _
  have hwait : s'.waitOn f x = s.waitOn f x := State.undenied_waitOn s0 f.space (x :: ys) f x
  have halone : s'.hasSibling = false := (State.undenied_hasSibling s0 f.space (x :: ys)).trans hsibling
  have hrun : exec (mk f) s = .next
      (if waitTest f.sub.toNat v ((s.sval f.index 0 none).toNat % 2 ^ (8 * w.bytes)) then
        ((s2.writeS (Reg.num f.data) (BitVec.ofNat 64 v)).track (.sca (Reg.num f.data))).retire f.h
      else (s2.dropWaited (s.waitOn f x)).hold (s.waitOn f x)) := by
    rw [hexec, runWaita, ← hshape, guarded_landed hclear]
    refine (withOne_some hplaces _).trans <| (withData_readable hdelivered hreadable _).trans ?_
    rw [← hval, ← hwait, show v = leNat (s1.laneBytes past [x] w.bytes x.lane) by rw [laneBytes_singleton]]
    exact congrArg Host.Outcome.next (if_neg (Bool.eq_false_iff.mp halone))
  exact ⟨fun htest => hrun.trans (congrArg Host.Outcome.next (if_pos htest)),
    fun htest => hrun.trans (congrArg Host.Outcome.next (if_neg (Bool.eq_false_iff.mp htest)))⟩

theorem waitAndWake : WaitAndWake := by
  refine ⟨waitOp_of_runWaita .b32 (fun _ => rfl) fun _ _ => rfl, waitOp_of_runWaita .b64 (fun _ => rfl) fun _ _ => rfl,
    fun f s hclear => ⟨fun hspace x ys hplaces => ?_, fun hspace hcanonical e s1 hentry hread hserves haligned => ?_⟩⟩
  · change execWakea f s = _
    refine (guarded_landed hclear _).trans <| (if_neg ?_).trans <| (withOne_some hplaces _).trans ?_
    · rcases hspace with h | h <;> simp [h]
    · rcases hspace with h | h <;> simp only [h] <;> rfl
  · change execWakea f s = _
    refine (guarded_landed hclear _).trans <| (if_pos hspace).trans <| (if_neg ?_).trans ?_
    · exact Bool.eq_false_iff.mp hcanonical
    · change (match (s.landed (.wakea f)).prefetchEntry (wordOf s f).toNat with | none => _ | some (e, s1) => _) = _
      rw [hentry]
      have hwakes : (e.r && servesWait (s1.pageKind e (wordOf s f).toNat) && (wordOf s f).toNat % f.width.bytes == 0) = true := by
        rw [hread, hserves, haligned]; rfl
      exact if_pos hwakes

end Sys2Proof.Claim

namespace Sys2Proof

/-- Settles O23: a fence is its release and its acquire, and a wait reads its word as a load does. -/
theorem fencesAndWaits : Obligations.FencesAndWaits := ⟨Claim.fences, Claim.waitAndWake⟩

end Sys2Proof
end

section
/-! SUPPORT. The host port (R119, R379, R382, R383), doorbells (R174, R381), launching and the coordinator (R155, R175 to R181). -/

namespace Sys2Proof.Machine

/-! ### BAR2 -/

/-- The state in which an admitted access of BAR2 is made: a host's is spent from the lap's budget, a drive's is not. -/
def State.bar2Paid (s : State) (p n req : Nat) : State := if s.isDrive p req then s else s.spend .hostDma n

/-- The path class of an access of BAR2. -/
def State.bar2Path (s : State) (p req : Nat) : Nat := if s.isDrive p req then PathCode.nvme else PathCode.host

theorem exec_hostBar2Read_of_admitted {p : BitVec 4} {off : BitVec 39} {n : Nat} {req : BitVec 16} {s : State}
    (hbound : s.vfBound p.toNat = true) (hserves : s.bar2Serves p.toNat off.toNat n = true)
    (hadmit : s.isDrive p.toNat req.toNat = true ∨ s.mayStart .hostDma = true) :
    let k := s.bar2Key p.toNat
    let cls := s.bar2Path p.toNat req.toNat
    let s1 := (s.bar2Paid p.toNat n req.toNat).touch k 0 false false (linesAt off.toNat n)
    exec (.hostBar2Read p off n req) s =
      if (List.range n).any fun i => s.isBad (off.toNat + i) then .next ((s1.answerHost .aborted).memoryRecord MemCause.media off.toNat k cls)
      else if (List.range n).any fun i => s.violates k (off.toNat + i) then .next ((s1.keyFails k off.toNat cls).answerHost .aborted)
      else .next (s1.answerHost (.completion ((List.range n).map fun i => s.readHome k (off.toNat + i)))) := by
  change execHostBar2Read p off n req s = _
  cases hdrive : s.isDrive p.toNat req.toNat with
  | false =>
    have hstart : s.mayStart .hostDma = true := by simpa [hdrive] using hadmit
    simp [execHostBar2Read, hbound, hserves, hdrive, hstart, State.bar2Paid, State.bar2Path, State.bar2Under]
  | true => simp [execHostBar2Read, hbound, hserves, hdrive, State.bar2Paid, State.bar2Path, State.bar2Under]

theorem exec_hostBar2Write_of_admitted {p : BitVec 4} {off : BitVec 39} {bs : List W8} {req : BitVec 16} {s : State}
    (hbound : s.vfBound p.toNat = true) (hserves : s.bar2Serves p.toNat off.toNat bs.length = true)
    (hadmit : s.isDrive p.toNat req.toNat = true ∨ s.mayStart .hostDma = true) :
    let k := s.bar2Key p.toNat
    let s1 := s.bar2Paid p.toNat bs.length req.toNat
    let whole := coveredSectors ((List.range bs.length).map (off.toNat + ·))
    exec (.hostBar2Write p off bs req) s =
      if (List.range bs.length).any fun i => s.violates k (off.toNat + i) && !whole.contains (sectorOf (off.toNat + i)) then
        .next (s1.keyFails k off.toNat (s.bar2Path p.toNat req.toNat))
      else .next (s1.writeAt (s.bar2Under p.toNat) off.toNat bs) := by
  change execHostBar2Write p off bs req s = _
  cases hdrive : s.isDrive p.toNat req.toNat with
  | false =>
    have hstart : s.mayStart .hostDma = true := by simpa [hdrive] using hadmit
    simp [execHostBar2Write, hbound, hserves, hdrive, hstart, State.bar2Paid, State.bar2Path]
  | true => simp [execHostBar2Write, hbound, hserves, hdrive, State.bar2Paid, State.bar2Path]

/-! ### Snoops of host lines -/

/-- What no step of a fold changes, the fold does not change. -/
theorem foldl_keeps {α β : Type} {φ : State → β} {f : State → α → State} (h : ∀ s a, φ (f s a) = φ s) (l : List α) (s : State) :
    φ (l.foldl f s) = φ s := by
  induction l generalizing s with
  | nil => rfl
  | cons a l ih => exact (ih (f s a)).trans (h s a)

/-- An update of the listed parts that need it reaches every part, where a part that needs it is listed so: once updated, a part
needs it no more, so that a part listed twice is as one listed once. -/
theorem get_foldl_upd {α : Type} {get : State → Nat → α} {upd : State → Nat → State} {g : α → α} {p : α → Bool}
    (hupd : ∀ s d x, get (upd s d) x = if x = d then g (get s d) else get s x)
    (hclean : ∀ x, p (g x) = false) (hskip : ∀ x, p x = false → g x = x) (k : Nat) (l : List (Nat × α)) (s : State)
    (hlisted : p (get s k) = true → ∃ v, (k, v) ∈ l ∧ p v = true) :
    get (l.foldl (fun s e => if p e.2 then upd s e.1 else s) s) k = g (get s k) := by
  induction l generalizing s with
  | nil =>
    cases hneeds : p (get s k) with
    | false => exact (hskip _ hneeds).symm
    | true =>
      obtain ⟨v, hv, -⟩ := hlisted hneeds
      exact absurd hv List.not_mem_nil
  | cons e l ih =>
    rw [List.foldl_cons]
    by_cases hhit : p e.2 = true ∧ k = e.1
    · obtain ⟨hneeds, rfl⟩ := hhit
      have hget : get (upd s e.1) e.1 = g (get s e.1) := by rw [hupd, if_pos rfl]
      have hdone : p (get (upd s e.1) e.1) = false := hget ▸ hclean _
      rw [if_pos hneeds, ih _ fun h => absurd h (Bool.eq_false_iff.mp hdone), hget, hskip _ (hclean _)]
    · have hget : get (if p e.2 = true then upd s e.1 else s) k = get s k := by
        split
        · next hneeds => rw [hupd, if_neg fun hk => hhit ⟨hneeds, hk⟩]
        · rfl
      refine (ih _ fun h => ?_).trans (congrArg g hget)
      obtain ⟨v, hv, hp⟩ := hlisted (hget ▸ h)
      obtain rfl | hmem := List.mem_cons.mp hv
      · exact absurd ⟨hp, rfl⟩ hhit
      · exact ⟨v, hmem, hp⟩

/-- An entry of a table that is not the default is listed. -/
theorem Tab.mem_of_getD_ne {α : Type} {t : Tab α} {d : Nat → α} {k : Nat} (h : Tab.getD t d k ≠ d k) : (k, Tab.getD t d k) ∈ t := by
  induction t with
  | nil => exact absurd rfl h
  | cons e t ih =>
    obtain ⟨j, v⟩ := e
    by_cases hk : k = j
    · simp [Tab.getD, hk]
    · rw [Tab.getD, if_neg hk] at h ⊢
      exact List.mem_cons_of_mem _ (ih h)

/-- A die without its copies of a line in the RDC. -/
def Die.dropLine (line : Nat) (x : Die) : Die := { x with rdc := x.rdc.filter fun c => c.line != line }

/-- A core without its copies of a line in the L1. -/
def Core.dropLine (line : Nat) (x : Core) : Core := { x with l1 := x.l1.filter fun c => c.line != line }

/-- A line leaves the RDCs. -/
def State.dropRdcs (s : State) (line : Nat) : State :=
  s.dies.foldl (fun s e => if e.2.rdc.any fun c => c.line == line then s.updDie e.1 (Die.dropLine line) else s) s

/-- A line leaves the L1s. -/
def State.dropL1s (s : State) (line : Nat) : State :=
  s.cores.foldl (fun s e => if e.2.l1.any fun c => c.line == line then s.updCore e.1 (Core.dropLine line) else s) s

theorem exec_cxlSnoop_of_host {pa : W64} {s : State} (h : backing s.pkg pa.toNat = .host) :
    exec (.cxlSnoop pa) s = .next ((s.dropRdcs (lineOf pa.toNat)).dropL1s (lineOf pa.toNat)) := by
  change execCxlSnoop pa s = _
  rw [execCxlSnoop, h]
  rfl

theorem filter_line_of_none {cs : List CacheLine} {line : Nat} (h : (cs.any fun c => c.line == line) = false) :
    (cs.filter fun c => c.line != line) = cs := by
  rw [List.any_eq_false] at h
  exact List.filter_eq_self.mpr fun c hc => by simpa using h c hc

theorem any_filter_line (cs : List CacheLine) (line : Nat) : ((cs.filter fun c => c.line != line).any fun c => c.line == line) = false := by
  simp

theorem State.die_dropRdcs (s : State) (line d : Nat) : (s.dropRdcs line).die d = (s.die d).dropLine line :=
  get_foldl_upd (get := State.die) (upd := fun s d => s.updDie d (Die.dropLine line)) (p := fun x => x.rdc.any fun c => c.line == line)
    (fun s d x => State.die_updDie s d x _) (fun x => any_filter_line x.rdc line)
    (fun x h => congrArg (fun l => { x with rdc := l }) (filter_line_of_none h)) d s.dies s fun hneeds =>
      ⟨s.die d, Tab.mem_of_getD_ne fun hreset => by rw [State.die, hreset] at hneeds; exact Bool.noConfusion hneeds, hneeds⟩

theorem State.core_dropL1s (s : State) (line c : Nat) : (s.dropL1s line).core c = (s.core c).dropLine line :=
  get_foldl_upd (get := State.core) (upd := fun s c => s.updCore c (Core.dropLine line)) (p := fun x => x.l1.any fun c => c.line == line)
    (fun s c x => State.core_updCore s c x _) (fun x => any_filter_line x.l1 line)
    (fun x h => congrArg (fun l => { x with l1 := l }) (filter_line_of_none h)) c s.cores s fun hneeds =>
      ⟨s.core c, Tab.mem_of_getD_ne fun hreset => by rw [State.core, hreset] at hneeds; exact Bool.noConfusion hneeds, hneeds⟩

/-- The RDCs are in the dies alone. -/
theorem State.dropRdcs_keeps {β : Type} {φ : State → β} (h : ∀ s d f, φ (State.updDie s d f) = φ s) (s : State) (line : Nat) :
    φ (s.dropRdcs line) = φ s :=
  foldl_keeps (fun s e => (apply_ite φ _ _ _).trans (by rw [h, ite_self])) _ s

/-- The L1s are in the cores alone. -/
theorem State.dropL1s_keeps {β : Type} {φ : State → β} (h : ∀ s c f, φ (State.updCore s c f) = φ s) (s : State) (line : Nat) :
    φ (s.dropL1s line) = φ s :=
  foldl_keeps (fun s e => (apply_ite φ _ _ _).trans (by rw [h, ite_self])) _ s

/-! ### CXL.mem -/

theorem exec_hostCxlMemAccess_read {pa : W64} {n : Nat} {s : State} (hcxl : s.cxl = true) (hn : 0 < n)
    (hin : within s.admin.cxlWindow.1 s.admin.cxlWindow.2 pa.toNat n = true) :
    let s1 := s.touch 0 0 false false (linesAt pa.toNat n)
    exec (.hostCxlMemAccess pa none n) s =
      if (List.range n).any fun i => s.isBad (pa.toNat + i) then .next ((s1.answerHost .aborted).memoryRecord MemCause.media pa.toNat 0 PathCode.host)
      else if (List.range n).any fun i => s.violates 0 (pa.toNat + i) then .next (s1.answerHost .aborted)
      else .next { s1 with
        hostOut := s1.hostOut ++ [HostOut.completion ((List.range n).map fun i => s.readHome 0 (pa.toNat + i))],
        hostLines := addNats s1.hostLines (linesAt pa.toNat n) } := by
  have hserved : ¬((!s.cxl) = true ∨ n = 0) := by simp [hcxl]; omega
  change execHostCxlMemAccess pa none n s = _
  exact (if_neg hserved).trans (if_neg (by simp [hin]))

theorem exec_hostCxlMemAccess_write {pa : W64} {bs : List W8} (n : Nat) {s : State} (hcxl : s.cxl = true) (hbytes : bs ≠ [])
    (hin : within s.admin.cxlWindow.1 s.admin.cxlWindow.2 pa.toNat bs.length = true) :
    let s1 := ({ s with hostLines := dropNats s.hostLines (linesAt pa.toNat bs.length) } : State).writeAt Under.device pa.toNat bs
    exec (.hostCxlMemAccess pa (some bs) n) s = .next { s1 with hostLines := addNats s1.hostLines (linesAt pa.toNat bs.length) } := by
  have hserved : ¬((!s.cxl) = true ∨ bs.length = 0) := by simp [hcxl, hbytes]
  change execHostCxlMemAccess pa (some bs) n s = _
  exact (if_neg hserved).trans (if_neg (by simp [hin]))

/-! ### Queue pairs -/

theorem exec_nvmeQueuePairWrite_supervised (q : BitVec 10) (off : BitVec 6) (v : W64) (s : State) :
    exec (.nvmeQueuePairWrite q off v true) s = .next (s.writeQp q.toNat off.toNat v) := rfl

/-- A field of a disabled queue pair takes a value that fits it (R383). -/
theorem writeQp_of_disabled {s : State} {q off : Nat} {v : W64} (haligned : off % 8 = 0) (hclear : clearOf v (nvmeMask off) = true)
    (hsizes : off = 0x18 → bits v 11 0 ≠ 0 ∧ bits v 27 16 ≠ 0) (hdisabled : (s.reg (Mmio.nvme q)).getLsbD 4 = false) :
    s.writeQp q off v = if off = 0 then
        (if v.getLsbD 4 then (s.setReg (Mmio.nvme q + off) v).setQp q Qp.reset else s.setReg (Mmio.nvme q + off) v)
      else s.setReg (Mmio.nvme q + off) v := by
  have hlegal : ¬(off % 8 ≠ 0 ∨ (!clearOf v (nvmeMask off)) = true ∨ (off = 0x18 ∧ (bits v 11 0 = 0 ∨ bits v 27 16 = 0))) := by
    rintro (h | h | ⟨h, h0⟩)
    · exact h haligned
    · simp [hclear] at h
    · obtain ⟨hsub, hcomp⟩ := hsizes h
      exact h0.elim hsub hcomp
  rw [State.writeQp, if_neg hlegal, if_neg (Bool.eq_false_iff.mp hdisabled)]
  simp only [hdisabled, Bool.not_false, and_true]

/-! ### Doorbells -/

theorem exec_doorbellWridx_in_range {p : BitVec 4} {q : BitVec 10} {s : State} {v : W64} {x : QueueDesc} (hbound : s.vfBound p.toNat = true)
    (hqueue : s.queue? p.toNat q.toNat = some x) (husable : x.usable = true) (hv : v.toNat < 2 ^ 32)
    (hfits : (v.toNat + 2 ^ 32 - x.rd) % 2 ^ 32 ≤ x.slots) (hforward : (v.toNat + 2 ^ 32 - x.wr) % 2 ^ 32 < 2 ^ 31) :
    exec (.doorbellWridx p q v) s = .next (s.putWr p.toNat x v.toNat) := by
  have hwhole : ¬2 ^ 32 ≤ v.toNat := Nat.not_le.mpr hv
  have hrange : ¬(x.slots < (v.toNat + 2 ^ 32 - x.rd) % 2 ^ 32 ∨ 2 ^ 31 ≤ (v.toNat + 2 ^ 32 - x.wr) % 2 ^ 32) :=
    not_or.mpr ⟨Nat.not_lt.mpr hfits, Nat.not_le.mpr hforward⟩
  change execDoorbellWridx p q v s = _
  simp only [execDoorbellWridx, hbound, hqueue, husable, hwhole, hrange, Bool.not_true, Bool.false_eq_true, or_self, if_false]

theorem exec_doorbellInline_of_usable {p : BitVec 4} {q : BitVec 10} {s : State} {pkt : List W8} {x : QueueDesc}
    (hbound : s.vfBound p.toNat = true) (hqueue : s.queue? p.toNat q.toNat = some x) (husable : x.usable = true) (hlength : pkt.length = 64) :
    exec (.doorbellInline p q pkt) s = .next (({ s with sched := { s.sched with
        inlines := s.sched.inlines ++ [(p.toNat, q.toNat, x.wr, pkt)] } }).putWr p.toNat x (x.wr + 1)) := by
  change execDoorbellInline p q pkt s = _
  simp only [execDoorbellInline, hbound, hqueue, husable, hlength, Bool.not_true, Bool.false_eq_true, ne_eq, not_true_eq_false, or_self,
    if_false]

/-- The oldest packet in the hub has none before it. -/
theorem drainEnq_of_done {s s1 : State} {e : Enqueue} {st : Nat} (r : List Enqueue)
    (hdone : s.enqueue e.part e.handle e.packet = .done st s1) :
    s.drainEnq [] (e :: r) = ({ s1 with sched := { s1.sched with enq := r } } : State).enqDone e st := by
  rw [State.drainEnq, hdone]
  rfl

/-! ### Launching -/

theorem exec_launchPacketConsume_of_active {p : BitVec 4} {q : BitVec 10} {s : State} {x : QueueDesc}
    (hqueue : s.queue? p.toNat q.toNat = some x) (hactive : x.state = 1) (hsize : x.size < 13) :
    let s1 := s.reserveNodes
    (∀ a, (s1.sched.admitting.find? fun a => a.part == p.toNat && a.queue == q.toNat) = some a → exec (.launchPacketConsume p q) s =
      .next (({ s1 with sched := { s1.sched with admitting := s1.sched.admitting.filter fun b => b.launch != a.launch } }).acceptItem a a.records)) ∧
    (∀ pkt, (∀ a ∈ s1.sched.admitting, ¬(a.part = p.toNat ∧ a.queue = q.toNat)) → x.held ≠ 0 → s1.sched.inlines = [] →
      s1.deviceRead p.toNat (x.ring + 64 * (x.rd % x.slots)) 64 = some pkt →
      exec (.launchPacketConsume p q) s = .next ((s1.putRd p.toNat x (x.rd + 1)).consumePacket p.toNat q.toNat pkt)) := by
  have hserved : ¬(x.state ≠ 1 ∨ 13 ≤ x.size) := by omega
  refine ⟨fun a hadmitting => ?_, fun pkt hnone hheld hinlines hpacket => ?_⟩ <;> change execLaunchPacketConsume p q s = _
  · simp only [execLaunchPacketConsume, hqueue, hserved, hadmitting, if_false]
  · have hadmitting : (s.reserveNodes.sched.admitting.find? fun a => a.part == p.toNat && a.queue == q.toNat) = none :=
      List.find?_eq_none.mpr fun a ha => by simpa using hnone a ha
    simp only [execLaunchPacketConsume, hqueue, hserved, hadmitting, hheld, hinlines, hpacket, List.find?_nil, if_false]

/-! ### The coordinator -/

theorem exec_coordinatorSelect_of_none {s : State} (h : s.eligible = []) : exec .coordinatorSelect s = .next s.dropCredit := by
  change execCoordinatorSelect s = _
  rw [execCoordinatorSelect, h]
  rfl

theorem exec_coordinatorSelect_of_some {s s1 : State} {f : FlowId} {n : Node} (hsome : s.eligible ≠ []) :
    let top := (s.eligible.map fun n => n.root.region.prio).foldl max 0
    s.serveLevel (flowsOf (s.eligible.filter fun n => n.root.region.prio == top)) top = some (f, s1) →
    (s.eligible.find? fun n => flowOf n.root == f) = some n →
    let l := s.fitted n.root
    let d := n.root.die
    (s.die d).openUsed < poolSize - poolKept → (s.die d).spill = [] → (s.die d).late = [] →
    exec .coordinatorSelect s = .next ((l.foldl (fun s i => s.enterPiece d i)
      (((s1.updNode n.id fun x => { x with waiting := false }).moveCount n.id .package (.die d)).notePresplit n.id d l.length)).dropCredit) := by
  intro top hserve hfind l d hopen hspill hlate
  have hroom : ¬(poolSize - poolKept ≤ (s.die d).openUsed ∨ (!(s.die d).spill.isEmpty) = true ∨ (!(s.die d).late.isEmpty) = true) := by
    rw [hspill, hlate]
    exact not_or.mpr ⟨Nat.not_le.mpr hopen, by simp⟩
  have hlevels : (s.eligible.map fun n => n.root.region.prio) ≠ [] := fun h => hsome (List.map_eq_nil_iff.mp h)
  change execCoordinatorSelect s = _
  simp only [top] at hserve
  simp only [execCoordinatorSelect, hserve, hfind]
  exact if_neg hroom

theorem enterPiece_of_room {s : State} {d : Nat} (i : Instance) (hopen : (s.die d).openUsed < poolSize - poolKept)
    (hspill : (s.die d).spill = []) (hlate : (s.die d).late = []) :
    s.enterPiece d i = s.updDie d fun x => { x with pool := x.pool ++ [{ inst := i, since := s.cycle, kept := false }] } :=
  if_pos ⟨hopen, List.isEmpty_iff.mpr hspill, List.isEmpty_iff.mpr hlate⟩

theorem enterPiece_of_full {s : State} {d : Nat} (i : Instance)
    (h : poolSize - poolKept ≤ (s.die d).openUsed ∨ (s.die d).spill ≠ [] ∨ (s.die d).late ≠ []) : s.enterPiece d i = s.queueHalf i := by
  refine if_neg ?_
  rintro ⟨hopen, hspill, hlate⟩
  rcases h with hfull | hne | hne
  · exact Nat.not_le.mpr hopen hfull
  · exact hne (List.isEmpty_iff.mp hspill)
  · exact hne (List.isEmpty_iff.mp hlate)

/-! ### The spill ring -/

theorem Die.poolRoom_eq_true_iff (x : Die) : x.poolRoom = true ↔ x.keptUsed < poolKept ∨ x.openUsed < poolSize - poolKept := by
  simp [Die.poolRoom]

/-- A full pool takes nothing from the ring. -/
theorem refill_of_full {s : State} {d : Nat} (h : (s.die d).poolRoom = false) : s.refill d = s := by
  have hskip (l : List PoolEntry) : l.foldl (fun s e => if (s.die d).poolRoom then s.admitSpilled d e else s) s = s := by
    induction l with
    | nil => rfl
    | cons e l ih => rw [List.foldl_cons, if_neg (Bool.eq_false_iff.mp h), ih]
  exact hskip _

theorem refill_of_empty {s : State} {d : Nat} (h : (s.die d).spill = []) : s.refill d = s := by
  rw [State.refill, h, List.foldl_nil]

/-- The pre-splits are no part of a die. -/
theorem State.die_notePresplit (s : State) (node d n k : Nat) : (s.notePresplit node d n).die k = s.die k := rfl

/-- A spilled entry that stays whole takes one entry of a pool that has room. -/
theorem die_admitSpilled_of_whole {s : State} {d : Nat} {e : PoolEntry} {i : Instance} (hspill : (s.die d).spill = [e])
    (hfitted : s.fitted e.inst = [i]) (hroom : (s.die d).poolRoom = true) :
    (s.admitSpilled d e).die d = { s.die d with
      spill := [], pool := (s.die d).pool ++ [{ e with inst := i, kept := decide ((s.die d).keptUsed < poolKept) }] } := by
  have htaken : ((s.notePresplit e.inst.node d 1).updDie d fun x => { x with spill := x.spill.erase e }).die d = { s.die d with spill := [] } := by
    rw [State.die_updDie, if_pos rfl, State.die_notePresplit, hspill]
    simp
  have hroom' : ({ s.die d with spill := [] } : Die).poolRoom = true := hroom
  simp only [State.admitSpilled, hfitted, List.length_singleton, if_true, List.foldl_cons, List.foldl_nil, htaken, hroom']
  rw [State.die_updDie, if_pos rfl, State.die_updDie, if_pos rfl, htaken]
  rfl

theorem exec_spillRefill_of_empty {s : State} {d : BitVec 2} (h : ((s.refill d.toNat).die d.toNat).late = []) :
    exec (.spillRefill d) s = .next (s.refill d.toNat) := by
  change execSpillRefill d s = _
  simp only [execSpillRefill, h]

theorem exec_spillRefill_of_late {s s1 : State} {d : BitVec 2} {i : Instance} {r : List Instance} (hspill : (s.die d.toNat).spill = [])
    (hlate : (s.die d.toNat).late = i :: r) (hqueue : (s.updDie d.toNat fun x => { x with late := r }).queueHalf? i = some s1) :
    exec (.spillRefill d) s = .next s1 := by
  change execSpillRefill d s = _
  simp only [execSpillRefill, refill_of_empty hspill, hlate, hqueue]

end Sys2Proof.Machine

namespace Sys2Proof.Claim

open Machine

/-- A snooped host line leaves every RDC and every L1 (R119). -/
theorem cxlSnoop_drops_copies {pa : W64} {s : State} (hhost : backing s.pkg pa.toNat = .host) : ∃ t, exec (.cxlSnoop pa) s = .next t ∧
    (∀ d, (t.die d).rdc = (s.die d).rdc.filter fun c => c.line != lineOf pa.toNat) ∧
    (∀ c, (t.core c).l1 = (s.core c).l1.filter fun c => c.line != lineOf pa.toNat) ∧ t.mem = s.mem ∧ t.wv = s.wv ∧ t.st = s.st := by
  refine ⟨_, exec_cxlSnoop_of_host hhost, fun d => ?_, fun c => ?_, ?_, ?_, ?_⟩
  · rw [State.dropL1s_keeps (φ := fun s => (s.die d).rdc) fun _ _ _ => rfl, State.die_dropRdcs]
    rfl
  · rw [State.core_dropL1s, State.dropRdcs_keeps (φ := fun s => s.core c) fun _ _ _ => rfl]
    rfl
  · rw [State.dropL1s_keeps (φ := State.mem) fun _ _ _ => rfl, State.dropRdcs_keeps (φ := State.mem) fun _ _ _ => rfl]
  · rw [State.dropL1s_keeps (φ := State.wv) fun _ _ _ => rfl, State.dropRdcs_keeps (φ := State.wv) fun _ _ _ => rfl]
  · rw [State.dropL1s_keeps (φ := State.st) fun _ _ _ => rfl, State.dropRdcs_keeps (φ := State.st) fun _ _ _ => rfl]

theorem hostPort : HostPort := by
  refine ⟨fun p off n req s => ⟨fun hbound => ?_, fun hbound hserves => ?_, fun hbound hserves => ⟨fun hdrive hstart => ?_, fun hadmit => ?_⟩⟩,
    fun p off bs req s => ⟨fun hbound => ?_, fun hbound hserves hadmit hwhole => ?_⟩, fun pa s hhost => ?_,
    fun pa n s hcxl hn => ⟨fun hout => ?_, fun hin hsound => ?_⟩, fun pa bs n s hcxl hbytes hin => exec_hostCxlMemAccess_write n hcxl hbytes hin,
    fun q off v s haligned hoff hclear hsizes hdisabled => ?_, fun q v s hclear henable hdisabled => ?_, fun q off v s => rfl⟩
  · exact if_pos (by simp [hbound])
  · exact (if_neg (by simp [hbound])).trans (if_pos (by simp [hserves]))
  · exact (if_neg (by simp [hbound])).trans <| (if_neg (by simp [hserves])).trans (if_pos (by simp [hdrive, hstart]))
  · have hread := exec_hostBar2Read_of_admitted (n := n) hbound hserves hadmit
    refine ⟨fun ⟨i, hi, hbad⟩ => hread.trans (if_pos ?_), fun hsound => hread.trans <| (if_neg ?_).trans (if_neg ?_)⟩
    · exact List.any_eq_true.mpr ⟨i, List.mem_range.mpr hi, hbad⟩
    · simpa using fun i hi => (hsound i hi).1
    · simpa using fun i hi => (hsound i hi).2
  · exact if_pos (by simp [hbound])
  · refine (exec_hostBar2Write_of_admitted hbound hserves hadmit).trans (if_neg ?_)
    simpa using hwhole
  · exact cxlSnoop_drops_copies hhost
  · have hserved : ¬((!s.cxl) = true ∨ n = 0) := by simp [hcxl]; omega
    exact (if_neg hserved).trans (if_pos (by simp [hout]))
  · refine (exec_hostCxlMemAccess_read hcxl hn hin).trans <| (if_neg ?_).trans (if_neg ?_)
    · simpa using fun i hi => (hsound i hi).1
    · simpa using fun i hi => (hsound i hi).2
  · have hne : off.toNat ≠ 0 := fun h => hoff (BitVec.eq_of_toNat_eq h)
    rw [exec_nvmeQueuePairWrite_supervised,
      writeQp_of_disabled haligned hclear (fun h => hsizes (BitVec.eq_of_toNat_eq h)) hdisabled, if_neg hne]
  · rw [exec_nvmeQueuePairWrite_supervised]
    exact congrArg Host.Outcome.next <| (writeQp_of_disabled rfl hclear (fun h => absurd h (by decide)) hdisabled).trans <|
      (if_pos rfl).trans (if_pos henable)

theorem doorbells : Doorbells := by
  refine fun p q s => ⟨fun v x hbound hqueue husable hv hfits hforward =>
      exec_doorbellWridx_in_range hbound hqueue husable hv hfits hforward, fun v hbound => ?_, fun v hbound hqueue => ?_,
    fun pkt x hbound hqueue husable hlength => exec_doorbellInline_of_usable hbound hqueue husable hlength, fun hempty => ?_,
    fun e r st s1 hpackets hdone => ?_⟩
  · exact if_pos (by simp [hbound])
  · change execDoorbellWridx p q v s = _
    simp only [execDoorbellWridx, hbound, hqueue]
    rfl
  · change execEnqueueBufferDrain s = _
    rw [execEnqueueBufferDrain, hempty]
    rfl
  · change execEnqueueBufferDrain s = _
    rw [execEnqueueBufferDrain, hpackets, drainEnq_of_done r hdone]

theorem launchingAndSelection : LaunchingAndSelection := by
  refine ⟨fun p q s x hqueue hactive hsize => exec_launchPacketConsume_of_active hqueue hactive hsize,
    fun s => exec_coordinatorSelect_of_none, fun s s1 f n hsome => exec_coordinatorSelect_of_some hsome,
    fun s d i => ⟨enterPiece_of_room i, enterPiece_of_full i⟩, fun d s => ⟨fun e i hspill hlate hfitted hroom => ?_,
      fun hkept hopen hlate => ?_, fun i r s1 hspill hlate hqueue => exec_spillRefill_of_late hspill hlate hqueue⟩⟩
  · have hpool : (s.die d.toNat).poolRoom = true := (Die.poolRoom_eq_true_iff _).mpr hroom
    have hrefill : s.refill d.toNat = s.admitSpilled d.toNat e := by
      rw [State.refill, hspill, List.foldl_cons, List.foldl_nil, if_pos hpool]
    have hdie := die_admitSpilled_of_whole hspill hfitted hpool
    rw [← hrefill] at hdie
    exact ⟨_, exec_spillRefill_of_empty (by rw [hdie]; exact hlate), by rw [hdie], by rw [hdie]⟩
  · have hpool : (s.die d.toNat).poolRoom = false :=
      Bool.eq_false_iff.mpr fun h => ((Die.poolRoom_eq_true_iff _).mp h).elim (Nat.not_lt.mpr hkept) (Nat.not_lt.mpr hopen)
    rw [exec_spillRefill_of_empty (by rw [refill_of_full hpool]; exact hlate), refill_of_full hpool]

end Sys2Proof.Claim

namespace Sys2Proof

/-- Settles O44: each event past its conditions; a snooped line leaves the parts that list it, and the ring's one entry takes the
pool's free place. -/
theorem hostAndLaunching : Obligations.HostAndLaunching := ⟨Claim.hostPort, Claim.doorbells, Claim.launchingAndSelection⟩

end Sys2Proof
end

section
/-! SUPPORT. What every arriving packet meets first (R145, R389); heartbeats, failed members and the fabric's time (R397, R398). -/

namespace Sys2Proof.Machine

/-! ### Arrival -/

theorem arriving_of_badHeader {k : PacketKind} {p : Packet} {s : State} (f : State → State) (hbad : badHeader p = true) :
    arriving k p s f = .next (s.countPort p.port.toNat 8) := if_pos hbad

theorem arriving_of_fenced {k : PacketKind} {p : Packet} {s : State} (f : State → State) (hgood : badHeader p = false)
    (hdown : s.fenced p = true) : arriving k p s f = .next s :=
  (if_neg (by simp [hgood])).trans (if_pos hdown)

theorem arriving_elsewhere {k : PacketKind} {p : Packet} {s : State} (f : State → State) (hgood : badHeader p = false)
    (hup : s.fenced p = false) (haway : p.dst.toNat ≠ s.pkg) : arriving k p s f = .next (s.emit k p) :=
  (if_neg (by simp [hgood])).trans <| (if_neg (by simp [hup])).trans (if_pos haway)

theorem arriving_here {k : PacketKind} {p : Packet} {s : State} (f : State → State) (hgood : badHeader p = false)
    (hup : s.fenced p = false) (hhere : p.dst.toNat = s.pkg) : arriving k p s f = .next (f s) :=
  (if_neg (by simp [hgood])).trans <| (if_neg (by simp [hup])).trans (if_neg (not_not_intro hhere))

/-- A port trims data classes alone (R391). -/
theorem State.emitAt_of_header (s : State) (port : Nat) (k : PacketKind) {p : Packet} (h : 3 < p.cls.toNat) :
    s.emitAt port k p = s.enqueueAt port k p := if_neg fun hdata => Nat.not_le.mpr h hdata.1

/-! ### Heartbeats and failed members -/

theorem exec_heartbeatSend_of_due {s : State} (h : s.fab.heartbeatAt + 4000 ≤ s.gtb.toNat) :
    let s1 := s.peers.foldl (fun s m => s.sendHeader .heartbeat (Packet.make m 0 0 7 false true 0 0 0 [])) s
    exec .heartbeatSend s = .next { s1 with fab := { s1.fab with heartbeatAt := s.gtb.toNat } } :=
  if_neg (Nat.not_lt.mpr h)

theorem exec_heartbeatPacket_here {p : Packet} {s : State} (hgood : badHeader p = false) (hup : s.fenced p = false)
    (hhere : p.dst.toNat = s.pkg) :
    exec (.heartbeatPacket p) s = .next { s with fab := { s.fab with
      heard := (s.fab.heard.filter fun e => e.1 != p.src.toNat) ++ [(p.src.toNat, s.gtb.toNat)] } } := by
  change execHeartbeatPacket p s = _
  exact arriving_here _ hgood hup hhere

theorem exec_fatalPacket_here {p : Packet} {s : State} (hgood : badHeader p = false) (hup : s.fenced p = false)
    (hhere : p.dst.toNat = s.pkg) :
    exec (.fatalPacket p) s = .next (if s.knowsLost (p.addr.toNat % 256) then s
      else (s.spreadFatal (p.addr.toNat % 256)).detect (p.addr.toNat % 256)) := by
  change execFatalPacket p s = _
  exact arriving_here _ hgood hup hhere

/-- The last heartbeat of a package that has sent none counts as one at time 0. -/
theorem lastHeard_le {l : List (Nat × Nat)} {m b : Nat} (h : ∀ e ∈ l, e.1 = m → e.2 ≤ b) :
    ((l.find? fun e => e.1 == m).map (·.2)).getD 0 ≤ b := by
  cases hfind : l.find? fun e => e.1 == m with
  | none => exact Nat.zero_le b
  | some e => exact h e (List.mem_of_find?_eq_some hfind) (by simpa using List.find?_some hfind)

theorem exec_heartbeatMiss_of_silent {pkg : W8} {s : State}
    (hsilent : ∀ e ∈ s.fab.heard, e.1 = pkg.toNat → e.2 + 20000 ≤ s.gtb.toNat) (hnow : 20000 ≤ s.gtb.toNat)
    (hother : pkg.toNat ≠ s.pkg) (hshares : s.sharesGroup pkg.toNat = true) (hnew : s.knowsLost pkg.toNat = false) :
    exec (.heartbeatMiss pkg) s = .next ((s.spreadFatal pkg.toNat).detect pkg.toNat) := by
  have hlast := lastHeard_le (b := s.gtb.toNat - 20000) fun e he hpkg => Nat.le_sub_of_add_le (hsilent e he hpkg)
  refine if_neg ?_
  simp only [hshares, hnew, hother, heartbeatGap, Bool.not_true, Bool.false_eq_true, or_false]
  omega

/-! ### Time -/

/-- The rate that a TIMESYNC steers to: towards the neighbour's time, once the link's round trip is measured (R397). -/
def State.steering (s : State) (p : Packet) : Int :=
  let trip := Tab.getD s.fab.roundTrip (fun _ => 0) p.port.toNat
  let theirs := p.addr.toNat + (trip - 1) / 2
  if trip = 0 then 0 else if s.gtb.toNat < theirs then 100 else if theirs < s.gtb.toNat then -100 else 0

theorem State.steering_bounds (s : State) (p : Packet) : -100 ≤ s.steering p ∧ s.steering p ≤ 100 := by
  unfold State.steering
  dsimp only
  split_ifs <;> decide

theorem exec_timesyncPacket_here {p : Packet} {s : State} {l : Nat × List Nat} {m : Nat} (hgood : badHeader p = false)
    (hup : s.fenced p = false) (hhere : p.dst.toNat = s.pkg) (hlist : s.timeList = some l) (hsource : s.timeSource = some m) :
    exec (.timesyncPacket p) s = .next (if m = s.pkg ∨ p.domain.toNat ≠ l.1 ∨ p.src ≠ Config.upstream s.pkg m then s
      else { s with fab := { s.fab with synced := some s.gtb.toNat, freeRun := false, rate := s.steering p } }) := by
  change execTimesyncPacket p s = _
  rw [execTimesyncPacket, arriving_here _ hgood hup hhere, hlist, hsource]
  rfl

theorem exec_timesyncSend_of_due {s : State} (h : s.fab.timesyncAt + 1000 ≤ s.gtb.toNat) :
    let p := { Packet.make s.pkg ((s.timeList.map (·.1)).getD 0) 0 7 false true (BitVec.ofNat 64 s.gtb.toNat) 0 0 [] with
      src := BitVec.ofNat 8 s.pkg, type := 0x12 }
    let s1 := (List.range 16).foldl (fun s port => s.enqueueAt port .timesync p) s
    exec .timesyncSend s = .next { s1 with fab := { s1.fab with timesyncAt := s.gtb.toNat } } := by
  intro p
  have hport : (fun (s : State) port => s.emitAt port .timesync p) = fun s port => s.enqueueAt port .timesync p := by
    funext s port
    exact s.emitAt_of_header port .timesync (show 3 < (7 : BitVec 3).toNat by decide)
  rw [← hport]
  exact if_neg (Nat.not_lt.mpr h)

theorem exec_timesyncLoss_of_lost {s : State} (hruns : s.fab.freeRun = false) (hsource : s.timeSource ≠ some s.pkg)
    (hlost : s.timeSource = none ∨ ∃ x, s.fab.synced = some x ∧ x + 100000 ≤ s.gtb.toNat) :
    exec .timesyncLoss s = .next (({ s with fab := { s.fab with freeRun := true, rate := 0 } }).note (.notice 397 0)) := by
  refine if_neg ?_
  rintro (hfree | hself | ⟨hrecent, hsome⟩)
  · simp [hruns] at hfree
  · exact hsource hself
  · obtain hnone | ⟨x, hx, hlate⟩ := hlost
    · simp [hnone] at hsome
    · rw [hx, Option.getD_some] at hrecent
      omega

end Sys2Proof.Machine

namespace Sys2Proof

open Machine

/-- Settles O49: each event past its conditions; the last heartbeat heard, if any, bounds the silence, and the steering is one of three
rates. -/
theorem heartbeatsAndTime : Obligations.HeartbeatsAndTime := by
  refine fun s => ⟨exec_heartbeatSend_of_due, fun p hgood hup hhere => ⟨exec_heartbeatPacket_here hgood hup hhere, fun hnew => ?_,
      fun hknown => ?_, fun l m hlist hsource hother => ⟨fun hdomain hside => ?_, fun hignored => ?_⟩⟩,
    fun pkg => exec_heartbeatMiss_of_silent, exec_timesyncSend_of_due, exec_timesyncLoss_of_lost⟩
  · rw [exec_fatalPacket_here hgood hup hhere, if_neg (by simp [hnew])]
  · rw [exec_fatalPacket_here hgood hup hhere, if_pos hknown]
  · have hexec := (exec_timesyncPacket_here hgood hup hhere hlist hsource).trans
      (congrArg _ (if_neg (by simp [hother, hdomain, hside])))
    exact ⟨_, hexec, rfl, rfl, (s.steering_bounds p).1, (s.steering_bounds p).2, rfl⟩
  · rw [exec_timesyncPacket_here hgood hup hhere hlist hsource, if_pos (.inr hignored)]

end Sys2Proof
end

section
/-! SUPPORT. Captures of snapshot sets and their parity (R139 to R144): the walk, what spoils and ends a capture, its records, and the
units that leave for their stripes' parity. -/

namespace Sys2Proof.Machine

/-! ### The walk and copy-on-write (R139, R140) -/

theorem exec_captureWalkStart_of_open {die : BitVec 2} {set : BitVec 6} {s : State} (hexposing : (s.snap set.toNat).state = 1)
    (hopen : die.toNat ∉ (s.snap set.toNat).walked) (hmay : s.walkMay set.toNat = true) :
    let q := set.toNat
    let d := die.toNat
    let s1 := s.flushAll.walkUnits q d true (List.range ((s.rsize q d + 4095) / 4096))
    exec (.captureWalkStart die set) s =
      .next (if s1.walkDone q d then s1.setSnap q { s1.snap q with walked := (s1.snap q).walked ++ [d] } else s1) :=
  if_neg (by simp [hexposing, hopen, hmay])

/-- The first unit of a walk waits for its budget alone. -/
theorem walkUnits_first {s : State} {q d u : Nat} (hmay : s.mayStart (.snapWalk d) = true) (hopen : s.unitOpen q d u ≠ []) :
    s.walkUnits q d true [u] =
      ((s.unitOpen q d u).foldl (fun s j => s.walkLine q d j) s).spend (.snapWalk d) (128 * (s.unitOpen q d u).length) := by
  simp [State.walkUnits, hmay, hopen]

theorem exec_copyOnWrite_of_single (pa : W64) {s : State} {q : Nat} {c : SnapSet} (honly : s.snaps = [(q, c)]) (hexposing : c.state = 1)
    (hmay : s.walkMay q = true) :
    exec (.copyOnWrite pa) s = .next (((s.cowSets (lineOf pa.toNat) (c.cstep + 1)).filter fun x => x.1 == q).foldl
      (fun s x => s.capture x.1 x.2.1 x.2.2) s) := by
  change execCopyOnWrite pa s = _
  rw [execCopyOnWrite, honly]
  exact congrArg _ (if_pos ⟨hexposing, hmay⟩)

/-! ### States of a capture (R141) -/

theorem exec_captureDeveloped_of_walked {set : BitVec 6} {s : State} (hexposing : (s.snap set.toNat).state = 1)
    (hwalked : ∀ d, d < 4 → d ∈ (s.snap set.toNat).walked) :
    let s1 := s.setCapture set.toNat fun c => { c with state := 2, lstep := c.cstep, walkedOnce := true }
    exec (.captureDeveloped set) s =
      .next (if (s.snap set.toNat).parityFailed then s1.spoil set.toNat SpoilCause.parity else s1) :=
  if_neg (by simpa [hexposing] using hwalked)

theorem exec_captureFixed_unstriped {set : BitVec 6} {s : State} (hdeveloped : (s.snap set.toNat).state = 2)
    (hdrained : ∀ e ∈ (s.snap set.toNat).awaits, e.2 ≤ (s.die e.1).owqDrained) (hcode : (s.snapDesc set.toNat).code = 0) :
    exec (.captureFixed set) s = .next (s.setCapture set.toNat fun c =>
      { c with state := 3, fstep := c.cstep, fvalid := true, fslot := c.cseq % 2, fpar := c.cseq % 2 }) :=
  if_neg (by simpa [hdeveloped, hcode] using hdrained)

theorem spoil_of_unfinished {s : State} {q : Nat} (cause : Nat) (h : (s.snap q).state = 1 ∨ (s.snap q).state = 2) :
    s.spoil q cause = s.setSnap q { s.snap q with state := 4, cause := BitVec.ofNat 8 cause } := if_pos h

/-! ### Capture records (R142) -/

@[simp] theorem leBytes_length (n v : Nat) : (leBytes n v).length = n := by
  induction n generalizing v with
  | zero => rfl
  | succ n ih => rw [leBytes, List.length_cons, ih]

/-- A sealed record is 60 bytes and their CRC, whatever it seals. -/
theorem sealed_eq (bs : List W8) : ∃ b : List W8, b.length = 60 ∧ sealed bs = b ++ bytes32 (crc32c b) :=
  ⟨(bs ++ List.replicate 60 0).take 60, by simp, rfl⟩

theorem sealed_length (bs : List W8) : (sealed bs).length = 64 := by
  obtain ⟨b, hb, hsealed⟩ := sealed_eq bs
  simp [hsealed, hb, bytes32]

theorem sealHolds_sealed (bs : List W8) : sealHolds (sealed bs) = true := by
  obtain ⟨b, hb, hsealed⟩ := sealed_eq bs
  rw [sealHolds, hsealed, ← hb, List.drop_left, List.take_left, beq_self_eq_true]

/-! ### Parity units (R144) -/

/-- With CODE 1 a unit leaves for one holder, and one packet's bytes are spent. -/
theorem exec_parityUnitSend_of_ready {set : BitVec 6} {unit : Nat} {s : State} (hcode : (s.snapDesc set.toNat).code = 1)
    (hunit : unit < s.dataUnits set.toNat) (hnew : unit ∉ (s.snap set.toNat).sent) (hcapture : s.restriping set.toNat = false)
    (hstate : (s.snap set.toNat).state = 1 ∨ (s.snap set.toNat).state = 2) (hready : s.unitReady set.toNat unit = true)
    (hmay : s.mayStart (s.parityCharge set.toNat) = true) :
    let q := set.toNat
    let x := s.snapDesc q
    let pkg := (s.memberEntry ((s.group x.group).pool + x.pHolder (x.stripe x.member unit))).1
    let dom := (s.group x.group).domain
    s.windowOpen pkg dom 0 = true →
    exec (.parityUnitSend set unit) s = .next (((s.sendData .coll (Packet.make pkg dom 0 3 false true
      (parityAddr x.group x.member unit (((s.setsOfGroup x.group).idxOf? q).getD 0)) 0 (s.snap q).cseq
      (s.unitBytes q (s.snap q).cseq unit))).spend (s.parityCharge q) x.unit).setSnap q
        { s.snap q with sent := addNats (s.snap q).sent [unit] }) := by
  intro q x pkg dom hwindow
  have hsends : ¬((s.snapDesc q).code = 0 ∨ s.dataUnits q ≤ unit ∨ (s.snap q).sent.contains unit = true ∨
      ((!s.restriping q) = true ∧ (((s.snap q).state ≠ 1 ∧ (s.snap q).state ≠ 2) ∨ (!s.unitReady q unit) = true ∨
        (!s.mayStart (s.parityCharge q)) = true))) := by
    simpa [q, hcode, hunit, hnew, hcapture, hready, hmay] using or_iff_not_imp_left.mp hstate
  have hholder : ([x.pHolder (x.stripe x.member unit)] ++ if x.code = 2 then [x.qHolder (x.stripe x.member unit)] else []) =
      [x.pHolder (x.stripe x.member unit)] := by simp [x, q, hcode]
  change execParityUnitSend set unit s = _
  refine (if_neg hsends).trans ?_
  rw [hholder]
  refine (if_neg (by simpa using hwindow)).trans ?_
  simp only [q, hcapture, List.map_cons, List.map_nil, List.length_singleton, Nat.mul_one]
  rfl

end Sys2Proof.Machine

namespace Sys2Proof.Claim

open Machine

theorem captureStates : CaptureStates := by
  refine ⟨fun die set s hexposing hopen hmay => ?walk, fun s q d u => walkUnits_first, fun pa s q c => exec_copyOnWrite_of_single pa,
    fun set s => ⟨fun hexposing hwalked => ?developed, exec_captureFixed_unstriped, fun hunfinished => ?abort, rfl⟩,
    fun r => ⟨sealed_length _, sealHolds_sealed _⟩⟩
  case walk =>
    have hexec := exec_captureWalkStart_of_open hexposing hopen hmay
    exact ⟨fun hdone => hexec.trans (congrArg _ (if_pos hdone)), fun hheld => hexec.trans (congrArg _ (if_neg (by simp [hheld])))⟩
  case developed =>
    have hexec := exec_captureDeveloped_of_walked hexposing hwalked
    exact ⟨fun hsound => hexec.trans (congrArg _ (if_neg (by simp [hsound]))), fun hfailed => hexec.trans (congrArg _ (if_pos hfailed))⟩
  case abort => exact congrArg _ (spoil_of_unfinished SpoilCause.abort hunfinished)

theorem parityUnits : ParityUnits := fun _ _ _ hcode hunit hnew hcapture hstate hready hmay =>
  exec_parityUnitSend_of_ready hcode hunit hnew hcapture hstate hready hmay

end Sys2Proof.Claim

namespace Sys2Proof

/-- Settles O47: each event is its branch past its conditions; a record is sealed whatever it holds, and CODE 1 has one holder of a stripe's
parity. -/
theorem snapshotEvents : Obligations.SnapshotEvents := ⟨Claim.captureStates, Claim.parityUnits⟩

end Sys2Proof
end

section
/-! SUPPORT. Data packets, trims, re-requests and aborts (R389, R391 to R393): what a receiver's flow and a pacer read after a change, and
what each event does past its conditions. -/

namespace Sys2Proof.Machine

/-! ### A flow at its receiver -/

/-- An entry that has taken the place of those of its name is found by it. -/
theorem find?_replaced {α : Type} {f : α → Bool} {x : α} (h : f x = true) (l : List α) :
    (l.filter (fun y => !f y) ++ [x]).find? f = some x := by
  have hnone : (l.filter fun y => !f y).find? f = none := List.find?_eq_none.mpr fun y hy => by simpa using (List.mem_filter.mp hy).2
  rw [List.find?_append, hnone, Option.none_or, List.find?_singleton, h]
  rfl

theorem State.rxFlow_is (s : State) (src domain flow : Nat) : (s.rxFlow src domain flow).is src domain flow = true := by
  unfold State.rxFlow
  cases hfind : s.fab.rx.find? fun t => t.is src domain flow with
  | none => simp [RxFlow.is]
  | some t => exact List.find?_some (p := fun t : RxFlow => t.is src domain flow) hfind

theorem State.rxFlow_putRx {t : RxFlow} {src domain flow : Nat} (h : t.is src domain flow = true) (s : State) :
    (s.putRx t).rxFlow src domain flow = t := by
  obtain ⟨⟨rfl, rfl⟩, rfl⟩ : (t.src = src ∧ t.domain = domain) ∧ t.flow = flow := by simpa [RxFlow.is] using h
  have hfind : (s.putRx t).fab.rx.find? (fun x => x.is t.src t.domain t.flow) = some t :=
    find?_replaced (f := fun x : RxFlow => x.is t.src t.domain t.flow) h s.fab.rx
  rw [State.rxFlow, hfind, Option.getD_some]

/-- A change that leaves a flow its name is what its receiver then reads. -/
theorem State.rxOf_updRx (s : State) (p : Packet) {f : RxFlow → RxFlow}
    (hname : ∀ t src domain flow, (f t).is src domain flow = t.is src domain flow) :
    (s.updRx p f).rxOf p = f (s.rxOf p) :=
  State.rxFlow_putRx ((hname ..).trans (s.rxFlow_is ..)) s

/-- Passing what has been performed moves the next PSN alone. -/
theorem RxFlow.advance_rest (t : RxFlow) (n : Nat) : t.advance n = { t with next := (t.advance n).next, done := (t.advance n).done } := by
  induction n generalizing t with
  | zero => rfl
  | succ n ih =>
    rw [RxFlow.advance]
    split
    · rw [ih]
    · rfl

theorem RxFlow.inDead_of_new {t : RxFlow} {psn : Nat} (h : t.performed psn = false) : t.inDead psn = false := by
  simp [RxFlow.inDead, h]

/-! ### Headers (R389) -/

theorem badHeader_eq_false_iff (p : Packet) : badHeader p = false ↔
    (PacketKind.ofCode p.type.toNat).isSome = true ∧ (p.cls.toNat < 4 ∨ 6 < p.cls.toNat) ∧ p.len.toNat ≤ 64 ∧ p.reserved = 0 := by
  have hcls : ¬(4 ≤ p.cls.toNat ∧ p.cls.toNat ≤ 6) ↔ p.cls.toNat < 4 ∨ 6 < p.cls.toNat := by omega
  simp only [badHeader, Bool.or_eq_false_iff, decide_eq_false_iff_not, hcls, Option.isNone_eq_false_iff, Nat.not_lt, bne_eq_false_iff_eq, and_assoc]

/-! ### Data packets (R393) -/

/-- Every data packet of the table is received by its kind. -/
theorem exec_dataPacket (p : Packet) (s : State) :
    ∀ d ∈ ([(.put, .putPacket), (.puta, .putaPacket), (.getreq, .getreqPacket), (.getrsp, .getrspPacket), (.atom, .atomPacket),
      (.atomrsp, .atomrspPacket), (.coll, .collPacket), (.enq, .enqPacket)] : List (PacketKind × (Packet → Instr))),
      exec (d.2 p) s = recvData d.1 p s := by
  simp only [List.forall_mem_cons]
  exact ⟨rfl, rfl, rfl, rfl, rfl, rfl, rfl, rfl, nofun⟩

variable {k : PacketKind} {p : Packet} {s : State}

theorem dataIn_of_trimmed (k : PacketKind) (htrim : p.trim = true) :
    s.dataIn k p = s.trimmedIn { p with type := BitVec.ofNat 8 k.code } := if_pos htrim

theorem dataIn_of_dead (k : PacketKind) (htrim : p.trim = false) (hdead : (s.rxOf p).inDead p.psn.toNat = true) : s.dataIn k p = s :=
  (if_neg (by simp [htrim])).trans (if_pos hdead)

theorem dataIn_of_performed (k : PacketKind) (htrim : p.trim = false) (hlive : (s.rxOf p).inDead p.psn.toNat = false)
    (hdone : (s.rxOf p).performed p.psn.toNat = true) : s.dataIn k p = (s.pacerArrived p).again k p :=
  (if_neg (by simp [htrim])).trans <| (if_neg (by simp [hlive])).trans (if_pos hdone)

/-- A packet that its flow's window admits for the first time is performed, trimmed or held. -/
theorem dataIn_of_admitted (k : PacketKind) (htrim : p.trim = false) (hnew : (s.rxOf p).performed p.psn.toNat = false)
    (hwindow : psnDiff p.psn.toNat (s.rxOf p).next < flowWindow) (hsingle : ∀ e ∈ (s.rxOf p).held, e.packet.psn ≠ p.psn) :
    let s1 := s.pacerArrived p
    let h : HeldPacket := { kind := k, packet := p, steps := s.holderSteps }
    s.dataIn k p =
      if (s.rxOf p).ready k p then ((s1.performNow h).drainHeld p [] flowWindow).fabPump
      else if reorderBytes < s1.heldBytes + p.payload.length then s1.trimHere p
      else s1.holdPacket h :=
  (if_neg (by simp [htrim])).trans <| (if_neg (by simp [RxFlow.inDead_of_new hnew])).trans <| (if_neg (by simp [hnew])).trans <|
    if_neg (not_or.mpr ⟨Nat.not_le.mpr hwindow, by simpa using hsingle⟩)

/-! ### Trims (R391) -/

theorem exec_switchTrim_of_data {port : BitVec 4} (hgood : badHeader p = false) (hdata : p.cls.toNat ≤ 3) :
    exec (.switchTrim port p) s = .next (if s.overTrim port.toNat p.cls.toNat then
      (s.countTrim port.toNat p.cls.toNat).enqueueAt port.toNat ((PacketKind.ofCode p.type.toNat).getD .put) (Packet.trimmed p) else s) := by
  change execSwitchTrim port p s = _
  refine (if_neg (by simp [hgood])).trans ?_
  cases hover : s.overTrim port.toNat p.cls.toNat <;> simp [Nat.not_lt.mpr hdata]

theorem exec_switchTrim_of_header {port : BitVec 4} (hgood : badHeader p = false) (hheader : 3 < p.cls.toNat) :
    exec (.switchTrim port p) s = .next s :=
  (if_neg (by simp [hgood])).trans (if_pos (.inl hheader))

theorem exec_uncorrectableFecCodeword_of_data {port : BitVec 4} (hgood : badHeader p = false) (hdata : p.cls.toNat ≤ 3) :
    exec (.uncorrectableFecCodeword port p) s = .next ((s.countTrim port.toNat p.cls.toNat).forwardTrimmed p) :=
  (if_neg (by simp [hgood])).trans (if_neg (Nat.not_lt.mpr hdata))

theorem exec_uncorrectableFecCodeword_of_header {port : BitVec 4} (hgood : badHeader p = false) (hheader : 3 < p.cls.toNat) :
    exec (.uncorrectableFecCodeword port p) s = .next s :=
  (if_neg (by simp [hgood])).trans (if_pos hheader)

@[simp] theorem State.countTrim_pkg (s : State) (port cls : Nat) : (s.countTrim port cls).pkg = s.pkg := by
  simp [State.countTrim, State.countPort, State.bump]

theorem exec_trimmedHeaderReceive_here (hgood : badHeader p = false) (hup : s.fenced p = false) (hhere : p.dst.toNat = s.pkg) :
    exec (.trimmedHeaderReceive p) s = .next (s.trimmedIn p) := by
  change execTrimmedHeaderReceive p s = _
  exact arriving_here _ hgood hup hhere

theorem trimmedIn_of_live (hlive : (s.rxOf p).inDead p.psn.toNat = false) :
    s.trimmedIn p = if (s.rxOf p).performed p.psn.toNat then s.again ((PacketKind.ofCode p.type.toNat).getD .put) p else s.recordHole p :=
  if_neg (by simp [hlive])

/-! ### ACK, re-requests and ABORT (R392, R393) -/

/-- Bit 8 of an ACK's AUX frees its packet; without bit 9 the operation ends with the status in bits 7:0. -/
theorem exec_ackPacket_here (hgood : badHeader p = false) (hup : s.fenced p = false) (hhere : p.dst.toNat = s.pkg) :
    let s1 := if p.aux.toNat.testBit 8 then s.freePacket p.src.toNat p.domain.toNat p.flow.toNat p.psn.toNat else s
    exec (.ackPacket p) s =
      .next ((if p.last ∧ !p.aux.toNat.testBit 9 then s1.opEnds p (p.aux.toNat % 256) else s1).answerReads.fabPump) := by
  change execAckPacket p s = _
  exact arriving_here _ hgood hup hhere

theorem exec_rereqPacket_here (hgood : badHeader p = false) (hup : s.fenced p = false) (hhere : p.dst.toNat = s.pkg) :
    exec (.rereqPacket p) s = .next (s.retransmit p.src.toNat p.domain.toNat p.flow.toNat p.psn.toNat p.trims.toNat) := by
  change execRereqPacket p s = _
  exact arriving_here _ hgood hup hhere

theorem exec_fabricRetxTimeout_of_kept {dst domain flow : W8} {psn : W32} {q : Packet}
    (h : ((s.txFlow dst.toNat domain.toNat flow.toNat).kept.find? fun e => e.2.psn == psn) = some (k, q)) :
    exec (.fabricRetxTimeout dst domain flow psn) s =
      .next (s.retransmit dst.toNat domain.toNat flow.toNat psn.toNat (q.trims.toNat + 1)) := by
  change execFabricRetxTimeout dst domain flow psn s = _
  rw [execFabricRetxTimeout, h]

/-- A flow after an ABORT: the PSNs of its range that had not been performed count as performed, and nothing is held. -/
def RxFlow.abort (t : RxFlow) (p : Packet) : RxFlow :=
  let lo := p.psn.toNat
  let hi := p.aux.toNat
  let range := (List.range (min (psnDiff hi lo) flowWindow)).map fun i => (lo + i) % 2 ^ 32
  let dead := range.filter fun x => !t.performed x
  { t with held := [], holes := [], dead := t.dead ++ [(lo, hi)], done := t.done ++ dead }.advance (t.done.length + dead.length + 1)

theorem RxFlow.abort_rest (t : RxFlow) (p : Packet) : t.abort p =
    { t with held := [], holes := [], dead := t.dead ++ [(p.psn.toNat, p.aux.toNat)], next := (t.abort p).next, done := (t.abort p).done } :=
  RxFlow.advance_rest _ _

theorem RxFlow.is_abort (t : RxFlow) (p : Packet) (src domain flow : Nat) : (t.abort p).is src domain flow = t.is src domain flow := by
  rw [RxFlow.abort_rest]
  simp only [RxFlow.is]

theorem exec_abortPacket_here (hgood : badHeader p = false) (hup : s.fenced p = false) (hhere : p.dst.toNat = s.pkg) :
    exec (.abortPacket p) s = .next (s.updRx p fun t => t.abort p) := by
  change execAbortPacket p s = _
  exact arriving_here _ hgood hup hhere

theorem State.rxOf_abort (s : State) (p : Packet) : (s.updRx p fun t => t.abort p).rxOf p = (s.rxOf p).abort p :=
  s.rxOf_updRx p fun t => t.is_abort p

/-! ### The pacer (R392) -/

theorem State.pacer_src (s : State) (src : Nat) : (s.pacer src).src = src := by
  unfold State.pacer
  cases hfind : s.fab.pacers.find? fun x => x.src == src with
  | none => rfl
  | some x => simpa using List.find?_some hfind

theorem State.pacer_putPacer (s : State) (x : Pacer) : (s.putPacer x).pacer x.src = x := by
  have hfind : (s.putPacer x).fab.pacers.find? (fun y => y.src == x.src) = some x :=
    find?_replaced (f := fun y : Pacer => y.src == x.src) (beq_self_eq_true _) s.fab.pacers
  rw [State.pacer, hfind, Option.getD_some]

/-- What the switch takes waits at a port. -/
@[simp] theorem State.emit_pacers (s : State) (k : PacketKind) (p : Packet) : (s.emit k p).fab.pacers = s.fab.pacers := by
  unfold State.emit State.emitAt
  split <;> simp [State.enqueueAt, State.countTrim, State.countPort, State.bump]

theorem State.pacer_sendHeader (s : State) (k : PacketKind) (p : Packet) (src : Nat) : (s.sendHeader k p).pacer src = s.pacer src := by
  simp [State.pacer, State.sendHeader]

theorem State.pacer_countPort (s : State) (port i src : Nat) : (s.countPort port i).pacer src = s.pacer src := by
  simp [State.pacer, State.countPort]

/-- A pacer after the re-request of the hole that has waited longest. -/
def Pacer.requested (x : Pacer) (h : Hole) (r : List Hole) (now : Nat) : Pacer :=
  { x with waiting := r, out := x.out ++ [h], last := some now }

/-- Neither the header that leaves nor its count at the port changes the pacer. -/
theorem State.pacer_requested (s : State) (src : Nat) (h : Hole) (r : List Hole) (now port : Nat) (k : PacketKind) (p : Packet) :
    (((s.putPacer ((s.pacer src).requested h r now)).sendHeader k p).countPort port 4).pacer src = (s.pacer src).requested h r now := by
  have hsrc : ((s.pacer src).requested h r now).src = src := s.pacer_src src
  have hput := s.pacer_putPacer ((s.pacer src).requested h r now)
  rw [hsrc] at hput
  rw [State.pacer_countPort, State.pacer_sendHeader, hput]

theorem exec_rereqSend_of_spaced {src : W8} {h : Hole} {r : List Hole} (hwaits : (s.pacer src.toNat).waiting = h :: r)
    (hspaced : ∀ x, (s.pacer src.toNat).last = some x → x + 64 ≤ s.gtb.toNat) (hout : (s.pacer src.toNat).out.length < 15)
    (hcount : (s.pacer src.toNat).count < 16) :
    let p := { Packet.make src.toNat h.domain h.flow 7 false false 0 0 0 [] with psn := BitVec.ofNat 32 h.psn, trims := BitVec.ofNat 8 h.trims }
    exec (.rereqSend src) s = .next (((s.putPacer ((s.pacer src.toNat).requested h r s.gtb.toNat)).sendHeader
      .rereq p).countPort (s.portOf p) 4) := by
  have hgap : ((s.pacer src.toNat).last.map fun t => decide (s.gtb.toNat < t + rereqGap)).getD false = false := by
    cases hlast : (s.pacer src.toNat).last with
    | none => rfl
    | some x => exact decide_eq_false (Nat.not_lt.mpr (hspaced x hlast))
  have hroom : ¬(rereqMax ≤ (s.pacer src.toNat).out.length + 1) := by simp only [rereqMax]; omega
  change execRereqSend src s = _
  rw [execRereqSend]
  simp only [hwaits, hroom, if_false]
  refine if_neg ?_
  simp only [hgap, rereqMax, Bool.false_eq_true, false_or]
  omega

end Sys2Proof.Machine

namespace Sys2Proof.Claim

open Machine

theorem dataPackets : DataPackets := by
  intro k mk p s hkind
  have hexec : exec (mk p) s = arriving k p s fun s => s.dataIn k p := exec_dataPacket p s (k, mk) hkind
  refine ⟨fun hbad => hexec.trans (arriving_of_badHeader _ hbad), fun hgood hdown => hexec.trans (arriving_of_fenced _ hgood hdown),
    fun hgood hup haway => hexec.trans (arriving_elsewhere _ hgood hup haway), fun hgood hup hhere => ?_, badHeader_eq_false_iff p⟩
  have hdata : exec (mk p) s = .next (s.dataIn k p) := hexec.trans (arriving_here _ hgood hup hhere)
  refine ⟨fun htrim => ?trimmed, fun htrim hdead => ?dead, fun htrim hlive hdone => ?performed, fun htrim hnew hwindow hsingle => ?admitted⟩
  case trimmed => rw [hdata, dataIn_of_trimmed k htrim]
  case dead => rw [hdata, dataIn_of_dead k htrim hdead]
  case performed => rw [hdata, dataIn_of_performed k htrim hlive hdone]
  case admitted =>
    have hadmitted := hdata.trans (congrArg _ (dataIn_of_admitted k htrim hnew hwindow hsingle))
    refine ⟨fun hready => hadmitted.trans (congrArg _ (if_pos hready)), fun hearly hroom => hadmitted.trans (congrArg _ ?_),
      fun hearly hfull => hadmitted.trans (congrArg _ ?_)⟩
    · exact (if_neg (by simp [hearly])).trans (if_neg (Nat.not_lt.mpr hroom))
    · exact (if_neg (by simp [hearly])).trans (if_pos hfull)

/-- A packet of a data class is trimmed where its port is over the threshold or has lost the payload (R391). -/
theorem portTrims (p : Packet) (s : State) (port : BitVec 4) (hgood : badHeader p = false) :
    let k := (PacketKind.ofCode p.type.toNat).getD .put
    let counted := s.countTrim port.toNat p.cls.toNat
    (3 < p.cls.toNat → exec (.switchTrim port p) s = .next s ∧ exec (.uncorrectableFecCodeword port p) s = .next s) ∧
    (p.cls.toNat ≤ 3 →
      (s.overTrim port.toNat p.cls.toNat = true → exec (.switchTrim port p) s = .next (counted.enqueueAt port.toNat k (Packet.trimmed p))) ∧
      (s.overTrim port.toNat p.cls.toNat = false → exec (.switchTrim port p) s = .next s) ∧
      (p.dst.toNat ≠ s.pkg → exec (.uncorrectableFecCodeword port p) s = .next (counted.emit k (Packet.trimmed p))) ∧
      (p.dst.toNat = s.pkg → exec (.uncorrectableFecCodeword port p) s = .next (counted.trimmedIn (Packet.trimmed p)))) := by
  refine ⟨fun hheader => ⟨exec_switchTrim_of_header hgood hheader, exec_uncorrectableFecCodeword_of_header hgood hheader⟩,
    fun hdata => ⟨fun hover => ?_, fun hunder => ?_, fun haway => ?_, fun hhere => ?_⟩⟩
  · rw [exec_switchTrim_of_data hgood hdata, if_pos hover]
  · rw [exec_switchTrim_of_data hgood hdata, if_neg (by simp [hunder])]
  · rw [exec_uncorrectableFecCodeword_of_data hgood hdata, State.forwardTrimmed, State.countTrim_pkg, if_neg haway]
  · rw [exec_uncorrectableFecCodeword_of_data hgood hdata, State.forwardTrimmed, State.countTrim_pkg, if_pos hhere]

theorem trimsAndRetransmissions : TrimsAndRetransmissions := by
  refine ⟨fun p s port hgood => portTrims p s port hgood, fun p s hgood hup hhere => ⟨fun hlive hnew => ?hole, fun hlive hdone => ?again,
    fun haux hlast => ?frees, fun hlast haux => ?ends, exec_rereqPacket_here hgood hup hhere, fun k q => exec_fabricRetxTimeout_of_kept,
    ?abort, fun h r hwaits hspaced hout hcount => ?rereq⟩⟩
  case hole => rw [exec_trimmedHeaderReceive_here hgood hup hhere, trimmedIn_of_live hlive, if_neg (by simp [hnew])]
  case again => rw [exec_trimmedHeaderReceive_here hgood hup hhere, trimmedIn_of_live hlive, if_pos hdone]
  case frees =>
    have hfrees : p.aux.toNat.testBit 8 = true := by rw [haux]; decide
    simp [exec_ackPacket_here hgood hup hhere, hlast, hfrees]
  case ends =>
    have hkeeps : p.aux.toNat.testBit 8 = false := Nat.testBit_lt_two_pow haux
    have hcoll : p.aux.toNat.testBit 9 = false := Nat.testBit_lt_two_pow (by omega)
    simp [exec_ackPacket_here hgood hup hhere, hkeeps, hcoll, hlast, Nat.mod_eq_of_lt haux]
  case abort =>
    refine ⟨_, exec_abortPacket_here hgood hup hhere, ?_, ?_, ?_, rfl⟩ <;> rw [State.rxOf_abort, RxFlow.abort_rest]
  case rereq =>
    refine ⟨_, exec_rereqSend_of_spaced hwaits hspaced hout hcount, ?_, ?_, ?_, State.emit_mem ..⟩ <;>
      rw [State.pacer_requested, Pacer.requested]

end Sys2Proof.Claim

namespace Sys2Proof

/-- Settles O48: every packet meets its header, the fence and transit first; then its flow decides by its PSN. -/
theorem fabricPackets : Obligations.FabricPackets := ⟨Claim.dataPackets, Claim.trimsAndRetransmissions⟩

end Sys2Proof
end

section
/-! SUPPORT. The stages of member recovery (R145 to R148): what each leaves of the memory, of the lost members and of the sets that it
rebuilds. -/

namespace Sys2Proof.Machine

/-! ### Lists -/

theorem mem_addNats {l xs : List Nat} {x : Nat} : x ∈ addNats l xs ↔ x ∈ l ∨ x ∈ xs := by
  induction xs generalizing l with
  | nil => simp [addNats]
  | cons y ys ih =>
    rw [addNats, List.foldl_cons, ← addNats, ih]
    split
    · next hin =>
      have hy : y ∈ l := List.contains_iff_mem.mp hin
      simp only [List.mem_cons]
      exact ⟨fun h => h.imp_right .inr, fun h => h.elim .inl fun h => h.elim (fun e => .inl (e ▸ hy)) .inr⟩
    · rw [List.mem_insertIdx List.countP_le_length, List.mem_cons, or_comm (a := x = y), or_assoc]

/-- What no step of a fold over pairs changes of the state, the fold does not change. -/
theorem foldl_fst_keeps {α β γ : Type} {φ : State → β} {f : State × γ → α → State × γ} (h : ∀ z a, φ (f z a).1 = φ z.1) (l : List α)
    (z : State × γ) : φ (l.foldl f z).1 = φ z.1 := by
  induction l generalizing z with
  | nil => rfl
  | cons a l ih => exact (ih (f z a)).trans (h z a)

/-- The one number of a range that satisfies a test. -/
theorem filter_range_of_unique {n q : Nat} {f : Nat → Bool} (hq : q < n) (h : f q = true) (hother : ∀ x, x < n → x ≠ q → f x = false) :
    (List.range n).filter f = [q] := by
  have hsame : ∀ x ∈ List.range n, f x = (x == q) := fun x hx => by
    by_cases hxq : x = q
    · rw [hxq, h, beq_self_eq_true]
    · rw [hother x (List.mem_range.mp hx) hxq, beq_eq_false_iff_ne.mpr hxq]
  rw [List.filter_congr hsame, List.filter_beq, List.count_eq_one_of_mem List.nodup_range (List.mem_range.mpr hq), List.replicate_one]

/-! ### Stages -/

theorem inRecovery_at {s : State} {r : Recovery} {n : Nat} (k : Recovery → State) (hrec : s.recovery = some r) (hstage : r.stage = n) :
    s.inRecovery n k = .next (k r) := by
  rw [State.inRecovery, hrec]
  exact if_pos hstage

theorem exec_recoveryDetect_of_new {pkg : W8} {s : State} (hother : pkg.toNat ≠ s.pkg) (hup : s.isDown pkg.toNat = false)
    (hnone : s.recovery = none) (hshares : s.sharesGroup pkg.toNat = true) :
    exec (.recoveryDetect pkg) s = .next ((s.spreadFatal pkg.toNat).detect pkg.toNat) :=
  if_neg (by simp [hother, State.knowsLost, hup, hnone, hshares])

/-! ### The fence -/

@[simp] theorem setMember_mem (s : State) (k pkg : Nat) (down : Bool) : (s.setMember k pkg down).mem = s.mem := State.setReg_mem ..
@[simp] theorem setMember_fab (s : State) (k pkg : Nat) (down : Bool) : (s.setMember k pkg down).fab = s.fab := State.setReg_fab ..

theorem mem_markDown (s : State) (pkg : Nat) : (s.markDown pkg).mem = s.mem :=
  foldl_keeps (φ := State.mem) (fun s _ => foldl_keeps (φ := State.mem) (fun _ _ => setMember_mem ..) _ s) _ s

theorem isDown_markDown {s : State} {pkg p : Nat} : (s.markDown pkg).isDown p = true ↔ s.isDown p = true ∨ p = pkg := by
  have hfab := foldl_keeps (φ := State.fab) (f := fun s g => ((s.members g).zipIdx.filter fun e => e.1.1 == pkg).foldl
    (fun s e => s.setMember ((s.group g).pool + e.2) pkg true) s) (fun s _ => foldl_keeps (φ := State.fab) (fun _ _ => setMember_fab ..) _ s)
    (s.groupsOf pkg) s
  rw [State.isDown, State.markDown, List.contains_iff_mem, mem_addNats, hfab, List.mem_singleton, State.isDown, List.contains_iff_mem]

theorem isDown_foldl_markDown {l : List Nat} {s : State} {p : Nat} :
    (l.foldl (fun s p => s.markDown p) s).isDown p = true ↔ s.isDown p = true ∨ p ∈ l := by
  induction l generalizing s with
  | nil => simp
  | cons x l ih => rw [List.foldl_cons, ih, isDown_markDown, List.mem_cons, or_assoc]

theorem noSource_rest (s : State) : s.noSource.mem = s.mem ∧ s.noSource.fab.down = s.fab.down := by
  unfold State.noSource
  split <;> exact ⟨rfl, rfl⟩

theorem recoverAgain_of_recovery {s : State} {r : Recovery} (h : s.recovery = some r) : s.recoverAgain = s :=
  if_pos (.inl (by rw [h]; rfl))

/-- Sets read RECOVERING. -/
def State.setsRecovering (s : State) (sets : List Nat) : State := sets.foldl (fun s q => s.setSnap q { s.snap q with state := 5 }) s

theorem setsRecovering_keeps {β : Type} {φ : State → β} (h : ∀ s q v, φ (State.setSnap s q v) = φ s) (s : State) (sets : List Nat) :
    φ (s.setsRecovering sets) = φ s := foldl_keeps (fun s q => h s q _) sets s

/-- The state of stage 2: the lost packages are DOWN, and the sets of their groups RECOVERING. -/
def State.fence (s : State) (lost : List Nat) : State :=
  (lost.foldl (fun s p => s.markDown p) s).noSource.setsRecovering (s.affectedSets lost)

/-- What the fence notes of the sets: those whose capture was in progress, and the state of each. -/
def State.fenceNotes (s : State) (r : Recovery) : Recovery :=
  let sets := s.affectedSets r.lost
  { r with
    inProgress := addNats r.inProgress (sets.filter fun q => (s.snap q).state == 1 || (s.snap q).state == 2),
    was := r.was ++ (sets.filter fun q => r.was.all fun e => e.1 != q).map fun q => (q, (s.snap q).state) }

theorem mem_fence (s : State) (lost : List Nat) : (s.fence lost).mem = s.mem :=
  (setsRecovering_keeps (φ := State.mem) (fun _ _ _ => rfl) _ _).trans <| (noSource_rest _).1.trans <|
    foldl_keeps (φ := State.mem) mem_markDown lost s

theorem isDown_fence {s : State} {lost : List Nat} {p : Nat} (h : p ∈ lost) : (s.fence lost).isDown p = true := by
  have hdown : (s.fence lost).fab.down = (lost.foldl (fun s p => s.markDown p) s).fab.down :=
    (setsRecovering_keeps (φ := fun s => s.fab.down) (fun _ _ _ => rfl) _ _).trans (noSource_rest _).2
  rw [State.isDown, hdown]
  exact isDown_foldl_markDown.mpr (.inr h)

theorem exec_recoveryFence_at {s : State} {r : Recovery} (hrec : s.recovery = some r) (hstage : r.stage = 1) :
    exec .recoveryFence s = .next ((s.fence r.lost).toStage (s.fenceNotes r) 2) := by
  change execRecoveryFence s = _
  rw [execRecoveryFence, recoverAgain_of_recovery hrec]
  exact inRecovery_at _ hrec hstage

theorem exec_recoveryAbort_at {s : State} {r : Recovery} (hrec : s.recovery = some r) (hstage : r.stage = 2) :
    exec .recoveryAbort s = .next ((r.inProgress.foldl (fun s q =>
      s.setSnap q { s.snap q with state := 5, cause := BitVec.ofNat 8 SpoilCause.member }) (s.endWith r.lost)).toStage r 3) := by
  change execRecoveryAbort s = _
  exact inRecovery_at _ hrec hstage

/-! ### The trees and the new geometry -/

/-- A group is rebuilt in its registers. -/
theorem rebuildGroup_mem (s : State) (g : Nat) (lost : List Nat) : (s.rebuildGroup g lost).1.mem = s.mem := by
  have hmembers (pool : Nat) (l : List (((Nat × Bool) × Nat) × Nat)) (u : State) :
      (l.foldl (fun s e => s.setMember (pool + e.2) e.1.1.1 e.1.1.2) u).mem = u.mem :=
    foldl_keeps (φ := State.mem) (fun _ _ => setMember_mem ..) l u
  unfold State.rebuildGroup
  dsimp only
  split <;> simp only [apply_ite State.mem, State.setReg_mem, ite_self, hmembers, setMember_mem]

theorem exec_recoveryTrees_at {s : State} {r : Recovery} (hrec : s.recovery = some r) (hstage : r.stage = 3) :
    ∃ u x, exec .recoveryTrees s = .next (State.toStage u x 4) ∧ x.lost = r.lost ∧ u.mem = s.mem := by
  refine ⟨_, _, show execRecoveryTrees s = _ from inRecovery_at _ hrec hstage, rfl, ?_⟩
  refine (foldl_keeps (φ := State.mem) (fun t q => ?_) _ _).trans
    (foldl_fst_keeps (φ := State.mem) (fun z g => ?_) _ _)
  · dsimp only
    split
    · split
      · exact State.setReg_mem ..
      · rfl
    · rfl
  · exact rebuildGroup_mem z.1 g r.lost

theorem restripe_mem (s : State) (r : Recovery) (q : Nat) : (s.restripe r q).1.mem = s.mem := by
  unfold State.restripe
  dsimp only
  split
  · exact State.setReg_mem ..
  · exact (State.setSnap_mem ..).trans (State.setReg_mem ..)

theorem exec_recoveryRestripe_at {s : State} {r : Recovery} (hrec : s.recovery = some r) (hstage : r.stage = 5) :
    ∃ u x, exec .recoveryRestripe s = .next (State.toStage u x 6) ∧ x.lost = r.lost ∧ u.mem = s.mem := by
  refine ⟨_, _, show execRecoveryRestripe s = _ from inRecovery_at _ hrec hstage, rfl,
    foldl_fst_keeps (φ := State.mem) (fun z q => ?_) _ _⟩
  exact restripe_mem z.1 r q

/-! ### The lost units -/

theorem exec_recoveryRebuild_of_failed {s : State} {r : Recovery} (us : List StripeUnit) (hrec : s.recovery = some r) (hstage : r.stage = 4)
    (hfailed : r.failed = true) :
    exec (.recoveryRebuild us) s = .next ((s.adopt r us).toStage { r with failed := true } 7) := by
  change execRecoveryRebuild us s = _
  exact (inRecovery_at _ hrec hstage).trans (congrArg _ (if_pos (.inl hfailed)))

/-- Nothing is taken over where every set has its FIXED capture. -/
theorem adopt_of_fixed {s : State} {r : Recovery} (us : List StripeUnit) (h : ∀ q ∈ s.recoverySets r, (s.snap q).fvalid = true) :
    s.adopt r us = s := by
  have hnone : ((s.recoverySets r).filter fun q => s.isSpare r q && !(s.snap q).fvalid) = [] :=
    List.filter_eq_nil_iff.mpr fun q hq => by simp [h q hq]
  rw [State.adopt, hnone]
  rfl

/-- The units of its sets that this package writes. -/
def State.allRebuilt (s : State) (us : List StripeUnit) (r : Recovery) : List Rebuilt :=
  (s.recoverySets r).flatMap fun q => s.rebuiltUnits us r q

/-- What stage 5 notes of the units: those that are damaged, their holders, and what they have replaced. -/
def State.rebuildNotes (s : State) (us : List StripeUnit) (r : Recovery) : Recovery :=
  let all := s.allRebuilt us r
  let pas := all.flatMap fun b => b.pas.filterMap (·.2)
  { r with
    poisoned := r.poisoned ++ (all.filter fun b => b.content.hurt).map fun b => (b.set, b.index)
    rebuilt := all.map fun b => { set := b.set, member := b.member, parity := false, index := b.index, bytes := [], bad := [] }
    holders := (s.recoverySets r).flatMap fun q => s.holderMap r q
    replaced := pas.map fun a => (a, s.byteAt a)
    replacedBad := (distinct (pas.map sectorOf)).filter s.bad.contains }

/-- Where every set is FIXED and every unit is solved, the units are written. -/
theorem exec_recoveryRebuild_of_solved {s : State} {r : Recovery} {us : List StripeUnit} (hrec : s.recovery = some r) (hstage : r.stage = 4)
    (hfailed : r.failed = false) (hfixed : ∀ q ∈ s.recoverySets r, (s.snap q).fvalid = true)
    (hsolved : ∀ b ∈ s.allRebuilt us r, ∃ u, b.content = .unit u) :
    exec (.recoveryRebuild us) s =
      .next (((s.allRebuilt us r).foldl (fun s b => s.writeRebuilt b) s).toStage (s.rebuildNotes us r) 5) := by
  have hcontent {c : Solved} (hc : ∀ u, Solved.unit u ≠ c) : ((s.allRebuilt us r).any fun b => b.content == c) = false :=
    List.any_eq_false.mpr fun b hb hbc => by
      obtain ⟨u, hu⟩ := hsolved b hb
      exact hc u (hu.symm.trans (eq_of_beq hbc))
  have hlost := hcontent (c := .lost) nofun
  have hwaits := hcontent (c := .waits) nofun
  have hsets : ((s.recoverySets r).any fun q => !(s.snap q).fvalid) = false :=
    List.any_eq_false.mpr fun q hq => by simp [hfixed q hq]
  have hunfixed : ((s.recoverySets r).any fun q => !(s.snap q).fvalid && !s.isSpare r q) = false :=
    List.any_eq_false.mpr fun q hq => by simp [hfixed q hq]
  change execRecoveryRebuild us s = _
  refine (inRecovery_at _ hrec hstage).trans (congrArg _ ?_)
  dsimp only
  rw [adopt_of_fixed us hfixed, ← State.allRebuilt, hlost, hwaits, hsets, hunfixed]
  exact if_neg (by simp [hfailed])

/-! ### Resuming -/

/-- No set reads RECOVERING. -/
theorem exec_recoveryResume_of_none {s : State} {r : Recovery} (hrec : s.recovery = some r) (hstage : r.stage = 6)
    (hnone : ∀ q, q < 64 → (s.snap q).state ≠ 5) : exec .recoveryResume s = .next (s.toStage r 7) := by
  have hsets : ((List.range 64).filter fun q => (s.snap q).state == 5) = [] :=
    List.filter_eq_nil_iff.mpr fun q hq => by simpa using hnone q (List.mem_range.mp hq)
  change execRecoveryResume s = _
  refine (inRecovery_at _ hrec hstage).trans (congrArg _ ?_)
  rw [hsets]
  rfl

/-- One set reads RECOVERING, and its parity is sent and accepted. -/
theorem exec_recoveryResume_of_single {s : State} {r : Recovery} {q : Nat} (hrec : s.recovery = some r) (hstage : r.stage = 6) (hq : q < 64)
    (hstate : (s.snap q).state = 5) (hother : ∀ x, x < 64 → x ≠ q → (s.snap x).state ≠ 5) (hdone : s.restriped q = true) :
    exec .recoveryResume s = .next (((s.afterStripe r q).toStage r 7).resumeSet r q) := by
  have hsets : ((List.range 64).filter fun q => (s.snap q).state == 5) = [q] :=
    filter_range_of_unique hq (by simp [hstate]) fun x hx hne => by simp [hother x hx hne]
  change execRecoveryResume s = _
  refine (inRecovery_at _ hrec hstage).trans (congrArg _ ?_)
  dsimp only
  rw [hsets]
  exact if_neg (by simp [hdone])

theorem afterStripe_of_striped {s : State} {q : Nat} (r : Recovery) (h : (s.snapDesc q).code ≠ 0) :
    s.afterStripe r q = s.setCapture q fun c => { c with state := 3, fpar := 1 - c.fpar } := if_pos h

theorem afterStripe_of_interrupted {s : State} {r : Recovery} {q : Nat} (hcode : (s.snapDesc q).code = 0) (h : q ∈ r.inProgress) :
    s.afterStripe r q = s.setSnap q { s.snap q with state := 4, cause := BitVec.ofNat 8 SpoilCause.member } :=
  (if_neg (not_not_intro hcode)).trans (if_pos (List.contains_iff_mem.mpr h))

theorem afterStripe_of_unprotected {s : State} {r : Recovery} {q : Nat} (hcode : (s.snapDesc q).code = 0) (h : q ∉ r.inProgress) :
    s.afterStripe r q = s.setSnap q { s.snap q with state := ((r.was.find? fun e => e.1 == q).map (·.2)).getD 3 } :=
  (if_neg (not_not_intro hcode)).trans (if_neg fun hin => h (List.contains_iff_mem.mp hin))

/-! ### The report -/

/-- The report is written to the log alone. -/
theorem postReport_keeps {β : Type} {φ : State → β} (h : ∀ s e, φ (State.note s e) = φ s) (s : State) (r : Recovery) :
    φ (s.postReport r) = φ s := by
  have hfold {α : Type} (g : State → α → LogEntry) (l : List α) (s : State) : φ (l.foldl (fun s a => s.note (g s a)) s) = φ s :=
    foldl_keeps (fun s a => h s _) l s
  unfold State.postReport
  dsimp only
  rw [hfold]
  split <;> simp only [h, hfold]

theorem exec_recoveryReport_at {s : State} {r : Recovery} (hrec : s.recovery = some r) (hstage : r.stage = 7) :
    exec .recoveryReport s = .next { s.postReport r with recovery := none } := by
  change execRecoveryReport s = _
  exact inRecovery_at _ hrec hstage

end Sys2Proof.Machine

namespace Sys2Proof

open Machine

/-- Settles O50: each stage's event runs its stage where the recovery stands there; what it keeps is kept by the folds over sets, groups and
units that it is made of. -/
theorem recoveryStages : Obligations.RecoveryStages := by
  refine ⟨fun pkg s => exec_recoveryDetect_of_new, fun s r hrec => ⟨fun hstage => ?fence, exec_recoveryAbort_at hrec, fun hstage => ?trees,
    fun us => exec_recoveryRebuild_of_failed us hrec, fun us hstage hfailed hnone => ?unprotected,
    fun us hstage hfailed hfixed hsolved => ?rebuild, fun hstage => ?restripe, exec_recoveryResume_of_none hrec,
    fun q hstage => exec_recoveryResume_of_single hrec hstage q.isLt,
    fun q => ⟨afterStripe_of_striped r, afterStripe_of_interrupted, afterStripe_of_unprotected⟩, fun hstage => ?report⟩⟩
  case fence =>
    exact ⟨_, _, exec_recoveryFence_at hrec hstage, rfl, rfl, rfl, mem_fence s r.lost, fun p hp => isDown_fence hp⟩
  case trees =>
    obtain ⟨u, x, hexec, hlost, hmem⟩ := exec_recoveryTrees_at hrec hstage
    exact ⟨_, _, hexec, rfl, rfl, hlost, hmem⟩
  case unprotected =>
    have hunits : s.allRebuilt us r = [] := by rw [State.allRebuilt, hnone, List.flatMap_nil]
    have hexec := exec_recoveryRebuild_of_solved (us := us) hrec hstage hfailed (by simp [hnone]) (by simp [hunits])
    rw [hunits] at hexec
    exact ⟨_, _, hexec, rfl, rfl, rfl⟩
  case rebuild => exact ⟨_, exec_recoveryRebuild_of_solved hrec hstage hfailed hfixed hsolved, rfl, rfl⟩
  case restripe =>
    obtain ⟨u, x, hexec, hlost, hmem⟩ := exec_recoveryRestripe_at hrec hstage
    exact ⟨_, _, hexec, rfl, rfl, hlost, hmem⟩
  case report =>
    exact ⟨_, exec_recoveryReport_at hrec hstage, rfl, postReport_keeps (φ := State.mem) (fun _ _ => rfl) s r,
      postReport_keeps (φ := State.wv) (fun _ _ => rfl) s r, postReport_keeps (φ := State.st) (fun _ _ => rfl) s r⟩

end Sys2Proof
end

section
/-! SUPPORT. What performing the writes that wait elsewhere (in combining buffers, on their way from an L1) leaves in focus: a release
changes memory and its books, and neither the squad, the wave nor the stream that makes it (R66, R106, R118, R310). -/

namespace Sys2Proof.Machine

/-- The squad, the wave and the stream in focus are as they were, and so is the cycle: an instruction's operands read the same. -/
def KeepsFocus (s t : State) : Prop := t.sq = s.sq ∧ t.wv = s.wv ∧ t.st = s.st ∧ t.cycle = s.cycle

theorem KeepsFocus.refl (s : State) : KeepsFocus s s := ⟨rfl, rfl, rfl, rfl⟩

theorem KeepsFocus.trans {s t u : State} (h : KeepsFocus s t) (g : KeepsFocus t u) : KeepsFocus s u := by
  obtain ⟨hsq, hwv, hst, hcycle⟩ := h
  obtain ⟨gsq, gwv, gst, gcycle⟩ := g
  exact ⟨gsq.trans hsq, gwv.trans hwv, gst.trans hst, gcycle.trans hcycle⟩

theorem KeepsFocus.foldl {α : Type} {f : State → α → State} (h : ∀ s a, KeepsFocus s (f s a)) (l : List α) (s : State) :
    KeepsFocus s (l.foldl f s) := by
  induction l generalizing s with
  | nil => exact .refl s
  | cons a l ih => exact (h s a).trans (ih _)

theorem KeepsFocus.ite {s t u : State} {p : Prop} [Decidable p] (ht : KeepsFocus s t) (hu : KeepsFocus s u) :
    KeepsFocus s (if p then t else u) := by
  split
  · exact ht
  · exact hu

theorem Quiet.keepsFocus {s t : State} (h : Quiet s t) : KeepsFocus s t := by
  obtain ⟨-, -, -, -, -, -, hsq, hwv, hst, -, hcycle⟩ := h
  exact ⟨hsq, hwv, hst, hcycle⟩

theorem Calm.keepsFocus {s t : State} (h : Calm s t) : KeepsFocus s t := h.1.keepsFocus

theorem Stacks.keepsFocus {s t : State} (h : Stacks s t) : KeepsFocus s t := h.calm.keepsFocus

/-! ### What an instruction reads of the focus -/

theorem KeepsFocus.readS {s t : State} (h : KeepsFocus s t) (n : Nat) : t.readS n = s.readS n := by
  obtain ⟨-, hwv, -, hcycle⟩ := h
  rw [State.readS, State.readS, hwv, hcycle]

theorem KeepsFocus.hasSibling {s t : State} (h : KeepsFocus s t) : t.hasSibling = s.hasSibling := by
  obtain ⟨-, -, hst, -⟩ := h
  rw [State.hasSibling, State.hasSibling, hst]

theorem KeepsFocus.spPlace {s t : State} (h : KeepsFocus s t) (space : Space) (va : Nat) : t.spPlace space va = s.spPlace space va := by
  obtain ⟨hsq, -⟩ := h
  rw [State.spPlace, State.spPlace, hsq]

/-! ### Write-backs and the L2 -/

theorem keepsFocus_taint (s : State) (secs : List Nat) : KeepsFocus s (s.taint secs) := (calm_taint ..).keepsFocus

theorem keepsFocus_acceptLine (s : State) (d line : Nat) : KeepsFocus s (s.acceptLine d line) := by
  rw [State.acceptLine]
  exact (stacks_accept ..).keepsFocus

theorem keepsFocus_rekey (s : State) (key sec : Nat) : KeepsFocus s (s.rekey key sec) := by
  have hbytes : KeepsFocus s (if s.rekeyed key (64 * sec) then
      { s with mem := Tab.putAll s.mem (fun _ => 0) ((s.sectorUnder key sec).zipIdx.map fun e => (64 * sec + e.2, e.1)) } else s) :=
    .ite ⟨rfl, rfl, rfl, rfl⟩ (.refl s)
  exact .ite hbytes (hbytes.trans ⟨rfl, rfl, rfl, rfl⟩)

theorem keepsFocus_rekeyOther (s : State) (line : Nat) : KeepsFocus s (s.rekeyOther line) :=
  .ite (.refl s) ((keepsFocus_rekey ..).trans (keepsFocus_rekey ..))

theorem keepsFocus_storeBlock (s : State) (c : Bool) (line : Nat) : KeepsFocus s (s.storeBlock c line) := by
  have hhurt (t : State) (hurt : Bool) (secs : List Nat) : KeepsFocus t (if hurt then t.taint secs else t) :=
    .ite (keepsFocus_taint ..) (.refl t)
  have hstored (t : State) (l m b v : Nat) : Calm t (((t.putStored l).putStored m).setBlockState b v) :=
    ((calm_putStored ..).trans (calm_putStored ..)).trans (calm_setBlockState ..)
  rw [State.storeBlock]
  exact (((keepsFocus_rekeyOther s line).trans (hhurt ..)).trans (hstored ..).keepsFocus).trans
    (((calm_storeTags ..).trans (calm_cleanL2 ..)).trans (calm_cleanL2 ..)).keepsFocus

theorem keepsFocus_writeBack (s : State) (line : Nat) : KeepsFocus s (s.writeBack line) := by
  have hline := ((calm_storeLine s line).trans (calm_cleanL2 _ line)).keepsFocus
  rw [State.writeBack]
  split
  · exact .ite (keepsFocus_storeBlock ..) hline
  · exact hline
  · exact (calm_cleanL2 ..).keepsFocus

theorem keepsFocus_evictLine (s : State) (line : Nat) : KeepsFocus s (s.evictLine line) := by
  refine .ite (.refl s) (.ite ?_ (keepsFocus_writeBack s line))
  split
  · exact (keepsFocus_acceptLine ..).trans (calm_cleanL2 ..).keepsFocus
  · exact .refl s

theorem keepsFocus_evictOut (s : State) (line : Nat) : KeepsFocus s (s.evictOut line) :=
  ((keepsFocus_evictLine s line).trans (calm_invalidateL1 ..).keepsFocus).trans ⟨rfl, rfl, rfl, rfl⟩

theorem keepsFocus_switchKey (s : State) (line key : Nat) : KeepsFocus s (s.switchKey line key) :=
  .ite (keepsFocus_evictOut ..) (.refl s)

theorem keepsFocus_setL2 (s : State) (line : Nat) (v : L2Line) : KeepsFocus s (s.setL2 line v) := ⟨rfl, rfl, rfl, rfl⟩

theorem keepsFocus_l2Alloc (s : State) (d line key : Nat) (lru c p : Bool) : KeepsFocus s (s.l2Alloc d line key lru c p) := by
  have huse (f : Die → Die) : KeepsFocus s (s.updDie d f) := (calm_updDie ..).keepsFocus
  have hmeta (f : Die → Die) : KeepsFocus s ((s.updDie d f).metaFor line key) := (huse f).trans (stacks_metaFor ..).keepsFocus
  rw [State.l2Alloc]
  refine .ite ((huse _).trans (keepsFocus_setL2 ..)) (.ite (hmeta _) ?_)
  dsimp only
  split
  · exact (hmeta _).trans (keepsFocus_setL2 ..)
  · split
    · exact ((hmeta _).trans (keepsFocus_evictOut ..)).trans (keepsFocus_setL2 ..)
    · exact hmeta _

theorem keepsFocus_l2Use (s : State) (line key cp : Nat) (c p lru : Bool) : KeepsFocus s (s.l2Use line key cp c p lru) := by
  rw [State.l2Use]
  split
  · exact .refl s
  · have hkey := keepsFocus_switchKey s line key
    refine .ite (hkey.trans (stacks_metaFor ..).keepsFocus) (KeepsFocus.trans ?_ (keepsFocus_l2Alloc ..))
    exact .ite (hkey.trans (keepsFocus_l2Alloc ..)) hkey

/-! ### Writes at home -/

theorem keepsFocus_setSheetBit (s : State) (q d j : Nat) (b : Bool) : KeepsFocus s (s.setSheetBit q d j b) := ⟨rfl, rfl, rfl, rfl⟩

theorem keepsFocus_setSnap (s : State) (q : Nat) (c : SnapSet) : KeepsFocus s (s.setSnap q c) := ⟨rfl, rfl, rfl, rfl⟩

theorem keepsFocus_capture (s : State) (q d j : Nat) : KeepsFocus s (s.capture q d j) := by
  unfold State.capture
  extract_lets c par src dst bad badDst s1 s2 s3 c'
  have hcopied : KeepsFocus s s2 := ⟨rfl, rfl, rfl, rfl⟩
  have haccepted : KeepsFocus s s3 := hcopied.trans (keepsFocus_acceptLine ..)
  exact (haccepted.trans (keepsFocus_setSheetBit ..)).trans (keepsFocus_setSnap ..)

theorem keepsFocus_cow (s : State) (line : Nat) (tag : W16) : KeepsFocus s (s.cow line tag) := by
  rw [State.cow]
  refine KeepsFocus.foldl (fun t e => ?_) _ s
  exact keepsFocus_capture ..

theorem keepsFocus_backInvalidate (s : State) (lines : List Nat) : KeepsFocus s (s.backInvalidate lines) :=
  .ite (.refl s) (.ite (.refl s) ⟨rfl, rfl, rfl, rfl⟩)

theorem keepsFocus_dropLags (s : State) (p : Lag → Bool) : KeepsFocus s (s.dropLags p) :=
  .foldl (fun t _ => .ite (calm_updCore ..).keepsFocus (.refl t)) _ s

theorem keepsFocus_bookLine (s : State) (u : Under) (ws : List (Nat × W8)) (line : Nat) : KeepsFocus s (s.bookLine u ws line) := by
  rw [State.bookLine]
  split
  · exact .refl s
  · have htag : KeepsFocus s ((if u.p then { s with tags := s.tags.put0 line u.tag } else s).invalidateL1 line u.core) :=
      KeepsFocus.trans (t := if u.p then { s with tags := s.tags.put0 line u.tag } else s) (.ite ⟨rfl, rfl, rfl, rfl⟩ (.refl s))
        (calm_invalidateL1 ..).keepsFocus
    refine .ite ((htag.trans (keepsFocus_l2Use ..)).trans (keepsFocus_setL2 ..)) (.ite ?_ ?_)
    · exact htag.trans (stacks_accept ..).keepsFocus
    · exact (htag.trans (keepsFocus_setL2 ..)).trans (keepsFocus_writeBack ..)

theorem keepsFocus_writeAll (s : State) (u : Under) (ws : List (Nat × W8)) (hurt : List Nat) : KeepsFocus s (s.writeAll u ws hurt) := by
  have hcow (l : List Nat) (t : State) : KeepsFocus t (if u.p then l.foldl (fun s l => s.cow l u.tag) t else t) :=
    .ite (.foldl (fun t l => keepsFocus_cow t l u.tag) l t) (.refl t)
  have hkeys (l : List Nat) (t : State) : KeepsFocus t (l.foldl (fun s l => s.switchKey l u.key) t) :=
    .foldl (fun t l => keepsFocus_switchKey t l u.key) l t
  have hbytes (l : List Nat) (t : State) :
      KeepsFocus t { l.foldl (fun s x => s.rekey u.key x) t with mem := Tab.putAll (l.foldl (fun s x => s.rekey u.key x) t).mem (fun _ => 0) ws } :=
    KeepsFocus.trans (.foldl (fun t x => keepsFocus_rekey t u.key x) l t) ⟨rfl, rfl, rfl, rfl⟩
  have hhealed (l : List Nat) (t : State) : KeepsFocus t (if l.isEmpty then t else { t with bad := dropNats t.bad l }) :=
    .ite (.refl t) ⟨rfl, rfl, rfl, rfl⟩
  have htaint (l : List Nat) (t : State) : KeepsFocus t (if l.isEmpty then t else t.taint l) := .ite (.refl t) (keepsFocus_taint ..)
  have hcopies (t : State) : KeepsFocus t (match u.core with | some c => t.updCopies c ws | none => t) := by
    split
    · exact (quiet_updCopies ..).keepsFocus
    · exact .refl t
  have hbooks (l : List Nat) (t : State) : KeepsFocus t (l.foldl (fun s l => s.bookLine u ws l) t) :=
    .foldl (fun t l => keepsFocus_bookLine t u ws l) l t
  rw [State.writeAll]
  exact (keepsFocus_dropLags s _).trans <| (keepsFocus_backInvalidate ..).trans <| (hcow ..).trans <| (hkeys ..).trans <|
    (hbytes ..).trans <| (hhealed ..).trans <| (htaint ..).trans <| (hcopies _).trans (hbooks ..)

/-! ### Releases -/

theorem keepsFocus_flushThrough (s : State) (core : Nat) (p : WriteThrough → Bool) : KeepsFocus s (s.flushThrough core p) := by
  refine .ite (.refl s) (KeepsFocus.trans (calm_updCore s core _).keepsFocus (.foldl (fun t w => ?_) _ _))
  exact keepsFocus_writeAll t _ _ _

/-- The cores that meet a test are updated, each by itself. -/
theorem keepsFocus_updCores (b : Core → Bool) (f : Core → Core) (l : Tab Core) (s : State) :
    KeepsFocus s (l.foldl (fun s e => if b e.2 then s.updCore e.1 f else s) s) :=
  .foldl (fun t _ => .ite (calm_updCore ..).keepsFocus (.refl t)) l s

theorem keepsFocus_dropKey (s : State) (k : Nat) : KeepsFocus s (s.dropKey k) := by
  unfold State.dropKey
  extract_lets s1 s2 s3
  have hdies : KeepsFocus s s1 := .foldl (fun _ _ => (calm_updDie ..).keepsFocus) _ s
  have hlines : KeepsFocus s1 s2 := keepsFocus_updCores (fun x => x.l1.any (fun c => c.key == k) || x.tlb.any fun t => t.key == k) _ _ _
  have hwrites : KeepsFocus s2 s3 := keepsFocus_updCores (fun x => x.through.any fun w => w.key == k) _ _ _
  exact (hdies.trans hlines).trans (hwrites.trans ⟨rfl, rfl, rfl, rfl⟩)

theorem keepsFocus_loseLine (s : State) (line : Nat) : KeepsFocus s (s.loseLine line) :=
  .ite (keepsFocus_setL2 ..) ⟨rfl, rfl, rfl, rfl⟩

theorem keepsFocus_setKey (s : State) (k : Nat) (x : KeySlot) : KeepsFocus s (s.setKey k x) := ⟨rfl, rfl, rfl, rfl⟩

theorem keepsFocus_keyFails (s : State) (k pa path : Nat) : KeepsFocus s (s.keyFails k pa path) := by
  have hlost (l : List (Nat × L2Line)) (t : State) : KeepsFocus t (l.foldl (fun s e => s.loseLine e.1) t) :=
    .foldl (fun t e => keepsFocus_loseLine t e.1) l t
  have hkilled (t : State) (x : KeySlot) (l : List (Nat × L2Line)) (h : KeepsFocus s t) :
      KeepsFocus s (l.foldl (fun s e => s.loseLine e.1) ((t.setKey k x).dropKey k)) :=
    h.trans <| (keepsFocus_setKey ..).trans <| (keepsFocus_dropKey ..).trans (hlost ..)
  obtain ⟨hsq, hwv, hst, hcycle⟩ := hkilled ((s.memoryRecord MemCause.integ pa k path).note (.keyFailed k)) { s.key k with state := .failed }
    (s.l2.filter fun e => e.2.held && e.2.key == k) ⟨rfl, rfl, rfl, rfl⟩
  exact .ite (.refl s) ⟨hsq, hwv, hst, hcycle⟩

theorem keepsFocus_note (s : State) (e : LogEntry) : KeepsFocus s (s.note e) := ⟨rfl, rfl, rfl, rfl⟩

theorem keepsFocus_applyRed (s : State) (x : RedElem) : KeepsFocus s (s.applyRed x) := by
  have hreported (l : List StreamId) (t : State) : KeepsFocus t (l.foldl (fun s who => s.note (.reduction who x.pa)) t) :=
    .foldl (fun t who => keepsFocus_note t _) l t
  have hdropped (l : List Nat) (t : State) : KeepsFocus t (l.foldl (fun s c => s.dropCopy c x.pa) t) :=
    .foldl (fun t c => (quiet_dropCopy t c x.pa).keepsFocus) l t
  rw [State.applyRed]
  refine .ite ?_ ((keepsFocus_writeAll ..).trans (hdropped ..))
  rw [State.redFails]
  exact KeepsFocus.trans (.ite (keepsFocus_keyFails ..) (.refl s)) (hreported ..)

theorem keepsFocus_flushRed (s : State) (d : Nat) (p : RedLine → Bool) : KeepsFocus s (s.flushRed d p) := by
  have hlines (l : List RedLine) (t : State) : KeepsFocus t (l.foldl (fun s l => l.elems.foldl (fun s e => s.applyRed e) s) t) :=
    .foldl (fun t l => .foldl keepsFocus_applyRed l.elems t) l t
  rw [State.flushRed]
  exact .ite (.refl s) ((calm_updDie ..).keepsFocus.trans (hlines ..))

/-- What a release sends is sent around the stream that makes it. -/
theorem keepsFocus_flushMine (s : State) : KeepsFocus s s.flushMine :=
  (keepsFocus_flushRed ..).trans (keepsFocus_flushThrough ..)

end Sys2Proof.Machine
end

section
/-! SUPPORT. Barriers (R169, R312): the barrier word as bit fields, and BAR, BARA and BARW past their checks. -/

namespace Sys2Proof.Machine

/-! ### Bit fields -/

theorem bits_eq_toNat_extract (v : W64) (hi lo : Nat) : bits v hi lo = (v.extractLsb' lo (hi + 1 - lo)).toNat := by
  rw [BitVec.extractLsb'_toNat, Nat.shiftRight_eq_div_pow, bits]

/-- A field that is set reads as its new value, and every other bit as before. -/
theorem getLsbD_setBits (v : W64) {hi lo i : Nat} (x : Nat) (hi64 : hi < 64) :
    (setBits v hi lo x).getLsbD i = if lo ≤ i ∧ i ≤ hi then x.testBit (i - lo) else v.getLsbD i := by
  simp only [setBits, BitVec.getLsbD_or, BitVec.getLsbD_and, BitVec.getLsbD_not, BitVec.getLsbD_ofNat, Nat.testBit_mul_two_pow,
    Nat.testBit_two_pow_sub_one]
  by_cases hlo : lo ≤ i
  · by_cases hle : i ≤ hi
    · have hlt : i < 64 := by omega
      have hin : i - lo < hi + 1 - lo := by omega
      simp [hlo, hle, hlt, hin]
    · have hout : ¬ i - lo < hi + 1 - lo := by omega
      by_cases hlt : i < 64
      · simp [hle, hout, hlt]
      · simp [hle, hlt, BitVec.getLsbD_of_ge v i (by omega)]
  · by_cases hlt : i < 64
    · simp [hlo, hlt]
    · simp [hlo, hlt, BitVec.getLsbD_of_ge v i (by omega)]

theorem extract_setBits_same (v : W64) {hi lo n : Nat} (x : Nat) (hi64 : hi < 64) (hn : lo + n = hi + 1) :
    (setBits v hi lo x).extractLsb' lo n = BitVec.ofNat n x := by
  refine BitVec.eq_of_getLsbD_eq fun i hi' => ?_
  rw [BitVec.getLsbD_extractLsb', getLsbD_setBits v x hi64, if_pos (by omega), Nat.add_sub_cancel_left, BitVec.getLsbD_ofNat]

theorem extract_setBits_other (v : W64) {hi lo a n : Nat} (x : Nat) (hi64 : hi < 64) (hout : a + n ≤ lo ∨ hi < a) :
    (setBits v hi lo x).extractLsb' a n = v.extractLsb' a n := by
  refine BitVec.eq_of_getLsbD_eq fun i hi' => ?_
  rw [BitVec.getLsbD_extractLsb', BitVec.getLsbD_extractLsb', getLsbD_setBits v x hi64, if_neg (by omega)]

/-! ### Arrivals -/

/-- The arrival that completes the generation (R169). -/
theorem barArrive_of_last {v : W64} (h : (v.extractLsb' 0 16).toNat ≤ (v.extractLsb' 16 16).toNat + 1) :
    barArrive v = (setBits (setBits v 31 16 0) 47 32 ((barGen v).toNat + 1), true) := by
  have hreached : bits v 15 0 ≤ bits v 31 16 + 1 := by rwa [bits_eq_toNat_extract, bits_eq_toNat_extract]
  exact if_pos hreached

/-- An arrival that does not. -/
theorem barArrive_of_early {v : W64} (h : (v.extractLsb' 16 16).toNat + 1 < (v.extractLsb' 0 16).toNat) :
    barArrive v = (setBits v 31 16 ((v.extractLsb' 16 16).toNat + 1), false) := by
  have hshort : ¬ bits v 15 0 ≤ bits v 31 16 + 1 := by rw [bits_eq_toNat_extract, bits_eq_toNat_extract]; exact Nat.not_le.mpr h
  have harrived : bits v 31 16 = (v.extractLsb' 16 16).toNat := bits_eq_toNat_extract v 31 16
  rw [← harrived]
  exact if_neg hshort

theorem barGen_eq_extract (v : W64) : barGen v = v.extractLsb' 32 16 := by
  refine BitVec.eq_of_getLsbD_eq fun i hi => ?_
  rw [barGen, BitVec.getLsbD_setWidth, BitVec.getLsbD_ushiftRight, BitVec.getLsbD_extractLsb']

/-! ### Past the checks -/

/-- A release at a barrier leaves the stream in focus. -/
theorem keepsFocus_released (s : State) (o : Order) : KeepsFocus s (if Order.releases o then s.flushMine else s) :=
  .ite (keepsFocus_flushMine s) (.refl s)

/-- Squads of one number and one image are found alike, as far as images go. -/
theorem image_find_putByNumber {p q : Squad} (hsid : p.sid = q.sid) (himage : p.image = q.image) (l : List Squad) (k : Nat) :
    ((putByNumber Squad.sid p l).find? fun x => x.sid == k).map Squad.image =
      ((putByNumber Squad.sid q l).find? fun x => x.sid == k).map Squad.image := by
  have hcons (r : List Squad) : ((p :: r).find? fun x => x.sid == k).map Squad.image = ((q :: r).find? fun x => x.sid == k).map Squad.image := by
    rw [List.find?_cons, List.find?_cons, hsid]
    split
    · exact congrArg some himage
    · rfl
  induction l with
  | nil => exact hcons []
  | cons x l ih =>
    rw [putByNumber, putByNumber, hsid]
    split
    · exact hcons (x :: l)
    · rw [List.find?_cons, List.find?_cons]
      split
      · rfl
      · exact ih

/-- Landed sources are the wave's: the saved scratchpad of every squad is as it was. -/
theorem State.imageOf_landed (s : State) (i : Instr) (k : Nat) : (s.landed i).imageOf k = s.imageOf k := by
  unfold State.imageOf State.squad? State.everySquad
  by_cases hplace : s.sq.place = .discarded
  · have hlanded : (s.landed i).sq.place = .discarded := hplace
    rw [if_pos hplace, if_pos hlanded]
    rfl
  · have hlanded : ¬ (s.landed i).sq.place = .discarded := hplace
    rw [if_neg hplace, if_neg hlanded]
    refine congrArg (·.getD Image.empty) (image_find_putByNumber ?_ ?_ s.squads k)
    · rfl
    · rfl

theorem State.locBad_landed_sp (s : State) (i : Instr) (t : Sp) (off : Nat) (own : Bool) (n : Nat) :
    (s.landed i).locBad .nothing (.sp t off own) n = s.locBad .nothing (.sp t off own) n := by
  cases t with
  | core c => rfl
  | image q => simp only [State.locBad, State.spBad, State.imageOf_landed]

/-- An access of scratchpad uses up no denial. -/
theorem undenied_of_scratchpad {space : Space} (h : space = .scratch ∨ space = .cluster) (s : State) (xs : List LaneLoc) :
    s.undenied space xs = s := by
  obtain rfl | rfl := h <;> rfl

end Sys2Proof.Machine

namespace Sys2Proof.Claim

open Machine

theorem barrierArrival : BarrierArrival := by
  intro v w
  by_cases h : (v.extractLsb' 0 16).toNat ≤ (v.extractLsb' 16 16).toNat + 1
  · have harrive : barArrive v = (setBits (setBits v 31 16 0) 47 32 ((barGen v).toNat + 1), true) := barArrive_of_last h
    have hw : w = setBits (setBits v 31 16 0) 47 32 ((barGen v).toNat + 1) := congrArg Prod.fst harrive
    have hgen : w.extractLsb' 32 16 = v.extractLsb' 32 16 + 1 := by
      rw [hw, extract_setBits_same _ _ (by decide) (by decide), BitVec.ofNat_add, BitVec.ofNat_toNat, BitVec.setWidth_eq, barGen_eq_extract]
      rfl
    have hother (a n : Nat) (ha : a + n ≤ 16 ∨ 47 < a) : w.extractLsb' a n = v.extractLsb' a n := by
      rw [hw, extract_setBits_other _ _ (by decide) (by omega), extract_setBits_other _ _ (by decide) (by omega)]
    have harrived : w.extractLsb' 16 16 = 0 := by
      rw [hw, extract_setBits_other _ _ (by decide) (by decide), extract_setBits_same _ _ (by decide) (by decide)]
      rfl
    exact ⟨hother _ _ (by decide), hother _ _ (by decide), fun _ => ⟨congrArg Prod.snd harrive, harrived, hgen⟩,
      fun hlt => absurd h (Nat.not_le.mpr hlt)⟩
  · have harrive : barArrive v = (setBits v 31 16 ((v.extractLsb' 16 16).toNat + 1), false) := barArrive_of_early (Nat.lt_of_not_le h)
    have hw : w = setBits v 31 16 ((v.extractLsb' 16 16).toNat + 1) := congrArg Prod.fst harrive
    have hother (a n : Nat) (ha : a + n ≤ 16 ∨ 31 < a) : w.extractLsb' a n = v.extractLsb' a n := by
      rw [hw, extract_setBits_other _ _ (by decide) ha]
    have harrived : w.extractLsb' 16 16 = v.extractLsb' 16 16 + 1 := by
      rw [hw, extract_setBits_same _ _ (by decide) (by decide), BitVec.ofNat_add, BitVec.ofNat_toNat, BitVec.setWidth_eq]
      rfl
    exact ⟨hother _ _ (by decide), hother _ _ (by decide), fun hle => absurd hle h,
      fun _ => ⟨congrArg Prod.snd harrive, harrived, hother _ _ (by decide)⟩⟩

section
variable {i : Instr} {f : MF} {s s0 : State} {x : LaneLoc} {t : Sp} {off : Nat} {own : Bool}

theorem keepsFocus_of_atBarrier (h : atBarrier s s0 i f x t off own) : KeepsFocus (s.landed i) s0 := by
  obtain ⟨-, -, rfl, -⟩ := h
  exact keepsFocus_released ..

/-- Past its checks a barrier instruction meets its word where its release is done. -/
theorem runBar_of_atBarrier {d : DUse} (hshape : i.shape.named = f.named (Rule.bar d)) (h : atBarrier s s0 i f x t off own)
    (k : State → LaneLoc → Sp → Nat → Bool → Out) : runBar d f s k = k s0 x t off own := by
  obtain ⟨hclear, howed, rfl, ⟨ys, hplaces⟩, hloc, hspace, hexec, hfid, hfrags, hsound⟩ := h
  have hwhole : ¬ (s.st.exec ≠ ~~~s.wv.exited ∨ s.st.fid ≠ 0 ∨ (!s.wv.frags.isEmpty) = true) := by simp [hexec, hfid, hfrags]
  rw [runBar, ← hshape, guarded_landed hclear]
  refine (withOne_some hplaces _).trans ?_
  rw [undenied_of_scratchpad hspace]
  refine (if_neg hwhole).trans ?_
  simp only [List.take_succ_cons, List.take_zero, hloc]
  have hread : ¬ (s.landed i).locBad .nothing (.sp t off own) 8 = true := by
    rw [hloc] at hsound
    rw [State.locBad_landed_sp, hsound]
    exact Bool.false_ne_true
  refine (if_neg hread).trans ?_
  exact releasing_free (s := s.landed i) howed _

end

theorem barriers : Barriers := by
  refine ⟨fun f s s0 x t off own h => ?bar, fun f s s0 x t off own h => ?bara, fun f s s0 x t off own h hsibling => ?barw,
    fun f s x ys hclear hspace hplaces hpart => ?barmask⟩
  case bar =>
    have hfocus := keepsFocus_of_atBarrier h
    intro old s1
    change execBar f s = _
    rw [execBar, runBar_of_atBarrier rfl h, hfocus.spPlace, State.arriveAt]
    exact (apply_ite Host.Outcome.next _ _ _).symm
  case bara =>
    intro old s1
    change execBara f s = _
    rw [execBara, runBar_of_atBarrier rfl h, State.arriveAt]
  case barw =>
    have hfocus := keepsFocus_of_atBarrier h
    intro g
    change execBarw f s = _
    rw [execBarw, runBar_of_atBarrier rfl h, hfocus.spPlace, hfocus.readS, hfocus.hasSibling]
    have halone : ¬ (s.landed (.barw f)).hasSibling = true := Bool.eq_false_iff.mp hsibling
    dsimp only
    rw [if_neg halone]
    refine congrArg Host.Outcome.next (ite_congr rfl (fun hsame => ?_) fun _ => rfl)
    rw [show g = _ from hsame]
    rfl
  case barmask =>
    change execBar f s = _
    rw [execBar, runBar]
    refine (guarded_landed hclear _).trans <| (withOne_some hplaces _).trans ?_
    rw [undenied_of_scratchpad hspace]
    exact if_pos (.inl hpart)

end Sys2Proof.Claim

namespace Sys2Proof

/-- Settles O22: an arrival sets two fields of its word, and past the checks the word is met where the release has been performed around
the stream in focus. -/
theorem barrierInstructions : Obligations.BarrierInstructions := ⟨Claim.barrierArrival, Claim.barriers⟩

end Sys2Proof
end

section
/-! SUPPORT. Divergence (R164, R165, R240, R254, R255): BRV and JMPV past their checks. -/

namespace Sys2Proof.Machine

open Claim

/-- Past the checks that a control instruction meets it runs with its tracked sources landed (R239, R241). -/
theorem checked_of_passes {i : Instr} {s : State} (h : passes s i) (k : State → Out) : checked i.shape.named s k = k (s.landed i) := by
  obtain ⟨hgran, hstall, hrow, hlanded⟩ := h
  simp [checked, hgran, hstall, hrow, hlanded, State.landed]

/-- A transfer whose target is a landing is made (R231). -/
theorem transfer_of_lands {s : State} {t : W64} (h : s.landing t = .lands) (k : State → State) :
    transfer s t k = .next { k s with st := (k s).st.cleared } := by
  rw [transfer, h]

/-- A choice of an order is a choice of each of two. -/
theorem pair_ite {α : Type} (c : Prop) [Decidable c] (a b : α) :
    (if c then (a, b) else (b, a)) = (if c then a else b, if c then b else a) := by
  split <;> rfl

/-! ### BRV -/

/-- The side of a divergent branch that runs first, the larger one or the taken one among equals, and the other (R165). -/
def State.branchSides (s : State) (f : BF) (t : W64) : Group × Group :=
  let other := s.st.exec &&& ~~~t
  let taken := (t, BF.target f s.st.pc)
  let through := (other, s.st.npc)
  if decide (popMask other ≤ popMask t) then (taken, through) else (through, taken)

/-- The fragments that the other side may become: the free ones, where it is to be detached. -/
def State.branchFids (s : State) (f : BF) (t : W64) : List Nat :=
  if f.detach || decide (popMask (s.branchSides f t).2.1 ≤ s.wv.detthr.toNat) then s.freeFids else []

/-- The JOIN entry of a branch. -/
def State.joinEntry (s : State) (f : BF) : StackEntry :=
  { sibling := false, pc := 0, mask := s.st.exec, recon := BF.recon f s.st.pc, fmt := s.st.fmt, token := f.token, frags := [], dist := [] }

/-- The state after a branch whose other side becomes a fragment. -/
def State.branchApart (s : State) (f : BF) (now later : Group) (fid : Nat) : State :=
  let s1 := s.jump f.h now.2 14
  let s2 := { s1 with st := { s1.st with exec := now.1, stack := { s.joinEntry f with frags := [fid] } :: s1.st.stack } }
  s2.addFragment (s1.newFragment fid f.token later.1 later.2 s.st.fmt s1.st.readyAt)

/-- The state after a branch whose other side is deferred. -/
def State.branchOver (s : State) (f : BF) (now later : Group) : State :=
  let s1 := s.jump f.h now.2 8
  let sib : StackEntry := { s.joinEntry f with sibling := true, pc := later.2, mask := later.1, dist := s1.st.remaining }
  { s1 with st := { s1.st with exec := now.1, stack := sib :: s.joinEntry f :: s1.st.stack } }

theorem branchApart_fields (s : State) (f : BF) (now later : Group) (fid : Nat) :
    let u := s.branchApart f now later fid
    u.st.pc = now.2 ∧ u.st.wait = .none ∧ u.st.readyAt = s.cycle + max (max 1 f.h.stall.toNat) 14 ∧ u.st.exec = now.1 ∧
    u.st.stack = { s.joinEntry f with frags := [fid] } :: s.st.stack ∧
    ∃ x, u.wv.frags = s.wv.frags ++ [x] ∧ x.fid = fid ∧ x.pc = later.2 ∧ x.exec = later.1 ∧ x.token = f.token ∧ x.fmt = s.st.fmt ∧
      x.stack = [] ∧ x.wait = .none ∧ x.readyAt = u.st.readyAt :=
  ⟨rfl, rfl, rfl, rfl, rfl, _, rfl, rfl, rfl, rfl, rfl, rfl, rfl, rfl, rfl⟩

theorem branchOver_fields (s : State) (f : BF) (now later : Group) :
    let u := s.branchOver f now later
    u.st.pc = now.2 ∧ u.st.wait = .none ∧ u.st.readyAt = s.cycle + max (max 1 f.h.stall.toNat) 8 ∧ u.st.exec = now.1 ∧
    u.st.stack = { s.joinEntry f with sibling := true, pc := later.2, mask := later.1, dist := (s.jump f.h now.2 8).st.remaining } ::
      s.joinEntry f :: s.st.stack ∧ u.wv.frags = s.wv.frags :=
  ⟨rfl, rfl, rfl, rfl, rfl, rfl⟩

/-- A divergent branch of two sides, the other one detached to the first of some fragments, or deferred where there is none. -/
def State.branchBetween (s : State) (f : BF) (now later : Group) : List Nat → Out
  | fid :: _ => if s.stackFree < 1 then stackovf s else .next (s.branchApart f now later fid)
  | [] => if s.stackFree < 2 then stackovf s else .next (s.branchOver f now later)

/-- Whichever side is the larger, a divergent branch is one between its sides. -/
theorem diverge_eq_branchBetween (s : State) (f : BF) (t : W64) :
    s.diverge f t = s.branchBetween f (s.branchSides f t).1 (s.branchSides f t).2 (s.branchFids f t) := by
  generalize hfids : s.branchFids f t = fids
  unfold State.diverge
  unfold State.branchFids State.branchSides at *
  cases hbig : decide (popMask (s.st.exec &&& ~~~t) ≤ popMask t)
  all_goals
    simp only [hbig, if_true, if_false, Bool.false_eq_true] at hfids ⊢
    rw [hfids]
    cases fids <;> rfl

theorem diverge_of_free {s : State} {f : BF} {t : W64} {fid : Nat} {r : List Nat} (hfids : s.branchFids f t = fid :: r)
    (hroom : 1 ≤ s.stackFree) :
    s.diverge f t = .next (s.branchApart f (s.branchSides f t).1 (s.branchSides f t).2 fid) := by
  rw [diverge_eq_branchBetween, hfids]
  exact if_neg (Nat.not_lt.mpr hroom)

theorem diverge_of_none {s : State} {f : BF} {t : W64} (hfids : s.branchFids f t = []) (hroom : 2 ≤ s.stackFree) :
    s.diverge f t = .next (s.branchOver f (s.branchSides f t).1 (s.branchSides f t).2) := by
  rw [diverge_eq_branchBetween, hfids]
  exact if_neg (Nat.not_lt.mpr hroom)

/-- BRV past its checks (R164, R165). -/
theorem exec_brv_of_passes {f : BF} {s : State} (h : passes s (.brv f)) :
    let s0 := s.landed (.brv f)
    let m := s.readM f.msrc.toNat
    let t := s.st.exec &&& (if f.minv then ~~~m else m)
    let taken := BF.target f s.st.pc
    (t = 0 → exec (.brv f) s = .next (s0.retire f.h)) ∧
    (t ≠ 0 → s0.landing taken = .lands → t = s.st.exec → exec (.brv f) s = .next (s0.clearDeny.jump f.h taken)) ∧
    (t ≠ 0 → s0.landing taken = .lands → t ≠ s.st.exec → exec (.brv f) s = s0.clearDeny.diverge f t) := by
  intro s0 m t taken
  change (t = 0 → execBrv f s = _) ∧ (t ≠ 0 → _ → t = _ → execBrv f s = _) ∧ (t ≠ 0 → _ → t ≠ _ → execBrv f s = _)
  refine ⟨fun hnone => ?_, fun hsome hlands hall => ?_, fun hsome hlands hsplit => ?_⟩
  · exact (checked_of_passes h _).trans (if_pos hnone)
  · exact (checked_of_passes h _).trans ((if_neg hsome).trans ((if_pos hall).trans (transfer_of_lands hlands _)))
  · refine (checked_of_passes h _).trans ((if_neg hsome).trans ((if_neg hsplit).trans ?_))
    have htarget : (s.landed (.brv f)).landing (BF.target f (s.landed (.brv f)).st.pc) = .lands := hlands
    rw [htarget]
    rfl

/-! ### JMPV -/

/-- No target fails a test that a landing does not meet, where every target is a landing. -/
theorem landMask_of_lands {s : State} {ts : List LaneVa} {p : Landing → Bool} (h : ∀ x ∈ ts, s.landing x.2 = .lands) (hp : p .lands = false) :
    s.landMask ts p = [] := by
  refine List.filter_eq_nil_iff.mpr fun x hx => ?_
  rw [h x hx, hp]
  exact Bool.false_ne_true

/-- Fragments added in turn stand behind those of the wave, in their order. -/
theorem foldl_addFragment {α : Type} (g : α → Stream) (l : List α) (s : State) :
    l.foldl (fun t x => t.addFragment (g x)) s = { s with wv := { s.wv with frags := s.wv.frags ++ l.map g } } := by
  induction l generalizing s with
  | nil => rw [List.map_nil, List.append_nil]; rfl
  | cons x l ih => rw [List.foldl_cons, ih, List.map_cons, State.addFragment, List.append_assoc, List.singleton_append]

/-- Where the groups after the first go (R255). -/
def State.groupPlaces (s : State) (f : BF) (rest : List Group) : List (Nat × Group) × List Group :=
  placeGroups f.detach s.wv.detthr.toNat rest.reverse s.freeFids

/-- The SIBLING entries of the groups that no fragment takes, over the JOIN entry of the jump. -/
def State.groupEntries (s : State) (f : BF) (g : Group) (rest : List Group) : List StackEntry :=
  let join : StackEntry := { s.joinEntry f with frags := (s.groupPlaces f rest).1.map (·.1) }
  let dist := (s.jump f.h g.2 (8 + 4 * rest.length)).st.remaining
  ((s.groupPlaces f rest).2.map fun x => { join with sibling := true, pc := x.2, mask := x.1, frags := [], dist }).reverse ++
    join :: s.st.stack

/-- The state after a jump of several groups. -/
def State.jumpApart (s : State) (f : BF) (g : Group) (rest : List Group) : State :=
  let s1 := s.jump f.h g.2 (8 + 4 * rest.length)
  let s2 := { s1 with st := { s1.st with exec := g.1, stack := s.groupEntries f g rest } }
  (s.groupPlaces f rest).1.foldl (fun t x => t.addFragment (s1.newFragment x.1 f.token x.2.1 x.2.2 s.st.fmt s1.st.readyAt)) s2

/-- A jump of the groups of its lanes, its targets checked. -/
def State.jumpGroups (s : State) (f : BF) : List Group → Out
  | [] => .next (s.retire f.h)
  | [g] => .next (s.jump f.h g.2)
  | g :: h :: r =>
    if s.stackFree < 1 + (s.groupPlaces f (h :: r)).2.length then stackovf s else .next (s.jumpApart f g (h :: r))

theorem jumpApart_fields (s : State) (f : BF) (g : Group) (rest : List Group) :
    let u := s.jumpApart f g rest
    let placed := s.groupPlaces f rest
    u.st.pc = g.2 ∧ u.st.exec = g.1 ∧ u.st.readyAt = s.cycle + max (max 1 f.h.stall.toNat) (8 + 4 * rest.length) ∧
    u.st.stack = s.groupEntries f g rest ∧
    u.wv.frags.map (fun x => (x.fid, x.pc, x.exec)) =
      s.wv.frags.map (fun x => (x.fid, x.pc, x.exec)) ++ placed.1.map fun x => (x.1, x.2.2, x.2.1) := by
  intro u placed
  have hu : u = _ := foldl_addFragment _ _ _
  rw [hu]
  refine ⟨rfl, rfl, rfl, rfl, ?_⟩
  rw [List.map_append, List.map_map]
  rfl

theorem groupEntries_drop (s : State) (f : BF) (g : Group) (rest : List Group) :
    (s.groupEntries f g rest).drop (1 + (s.groupPlaces f rest).2.length) = s.st.stack := by
  rw [State.groupEntries, Nat.add_comm, ← List.drop_drop, List.drop_left' (by simp)]
  rfl

theorem groupEntries_take (s : State) (f : BF) (g : Group) (rest : List Group) :
    ((s.groupEntries f g rest).take (s.groupPlaces f rest).2.length).map (fun e => (e.sibling, e.pc, e.mask)) =
      ((s.groupPlaces f rest).2.map fun x => (true, x.2, x.1)).reverse := by
  rw [State.groupEntries, List.take_left' (by simp), List.map_reverse, List.map_map]
  rfl

/-- The lanes of a vector jump with their targets. -/
def State.jumpTargets (s : State) (f : BF) : List LaneVa :=
  (lanes.filter fun l => s.st.exec.getLsbD l).map fun l =>
    (l, (s.readV (2 * f.creg.toNat) l).setWidth 64 ||| ((s.readV (2 * f.creg.toNat + 1) l).setWidth 64 <<< 32))

/-- JMPV whose lanes all land jumps by groups (R231, R255). -/
theorem exec_jmpv_of_lands {f : BF} {s : State} (h : passes s (.jmpv f))
    (hlands : ∀ x ∈ (s.landed (.jmpv f)).jumpTargets f, (s.landed (.jmpv f)).landing x.2 = .lands) :
    exec (.jmpv f) s = (s.landed (.jmpv f)).clearDeny.jumpGroups f (orderGroups (groupsOf ((s.landed (.jmpv f)).jumpTargets f))) := by
  have hnone (p : Landing → Bool) (hp : p .lands = false) := landMask_of_lands hlands hp
  change execJmpv f s = _
  refine (checked_of_passes h _).trans ?_
  generalize s.landed (.jmpv f) = s0 at hnone ⊢
  generalize hts : s0.jumpTargets f = ts at hnone ⊢
  unfold State.jumpTargets at hts
  dsimp only
  rw [hts, hnone (· == .walking) rfl, hnone Landing.isDenied rfl, hnone (· == .misaligned) rfl, hnone (· == .noLand) rfl]
  have hpick : (pick ts fun _ => false) = none := by rw [pick, List.filter_false]
  refine (if_neg Bool.false_ne_true).trans ?_
  rw [show (pick ts fun x => [].contains x || [].contains x || [].contains x) = none from hpick]
  rcases orderGroups (groupsOf ts) with _ | ⟨g, _ | ⟨g', r⟩⟩ <;> rfl

end Sys2Proof.Machine

namespace Sys2Proof.Claim

open Machine

theorem divergentBranch : DivergentBranch := by
  intro f s hpasses s0 m t taken s1
  obtain ⟨hnone, hall, hdiverge⟩ := exec_brv_of_passes hpasses
  refine ⟨hnone, fun ht hlands => ⟨hall ht hlands, ?_⟩⟩
  intro hsplit other big now later join frees
  have hrun : exec (.brv f) s = s1.diverge f t := hdiverge ht hlands hsplit
  have hsides : s1.branchSides f t = (now, later) := pair_ite (big = true) (t, taken) (other, s.st.npc)
  have hfids : s1.branchFids f t = frees := by
    rw [State.branchFids, hsides]
    rfl
  refine ⟨fun fid r hfid hroom => ⟨s1.branchApart f now later fid, ?_, branchApart_fields s1 f now later fid⟩,
    fun hnofid hroom => ⟨s1.branchOver f now later, ?_, branchOver_fields s1 f now later⟩⟩
  · rw [hrun, diverge_of_free (hfids.trans hfid) hroom, hsides]
  · rw [hrun, diverge_of_none (hfids.trans hnofid) hroom, hsides]

theorem vectorJump : VectorJump := by
  intro f s g rest hpasses s0 c ts hlands hgroups s1 placed
  have hrun : exec (.jmpv f) s = s1.jumpGroups f (g :: rest) := by
    rw [← hgroups]
    exact exec_jmpv_of_lands hpasses hlands
  refine ⟨fun hone => ?_, fun hmany hroom => ?_⟩
  · rw [hrun, hone, State.jumpGroups]
  · have hfits : ¬ s1.stackFree < 1 + (s1.groupPlaces f rest).2.length := Nat.not_lt.mpr hroom
    obtain ⟨hpc, hexec, hready, hstack, hfrags⟩ := jumpApart_fields s1 f g rest
    refine ⟨s1.jumpApart f g rest, ?_, hpc, hexec, hready, ?_, ?_, hfrags⟩
    · obtain ⟨h, r, rfl⟩ := List.exists_cons_of_ne_nil hmany
      exact hrun.trans (if_neg hfits)
    · rw [hstack]
      exact groupEntries_drop s1 f g rest
    · rw [hstack]
      exact groupEntries_take s1 f g rest

end Sys2Proof.Claim

namespace Sys2Proof

/-- Settles O16: past its checks a divergent branch is its two sides, the other one detached or deferred, and a vector jump its groups, the
first run and the others placed. -/
theorem divergentTransfers : Obligations.DivergentTransfers := ⟨Claim.divergentBranch, Claim.vectorJump⟩

end Sys2Proof
end

section
/-! SUPPORT. Merging and leaving (R166 to R168, R257 to R261): RJOIN, DETACH, EXIT, TEND, YIELD and NAP past their checks. -/

namespace Sys2Proof.Machine

open Claim

/-! ### Merging -/

/-- The lanes of an entry that leaves the stack go on from the state after the instruction, with the entry's distances (R166, R240). -/
def State.popEntry (s : State) (e : StackEntry) (r : List StackEntry) : State :=
  { s with st := { s.st with exec := e.mask &&& ~~~s.wv.exited, fmt := e.fmt, stack := r, dist := s.st.inherited e.dist } }

/-- DETACH of the entry on top: its lanes become a fragment, which the JOIN entry below records (R168, R257). -/
def State.detachEntry (s : State) (f : BF) (e : StackEntry) (r : List StackEntry) (fid : Nat) : State :=
  let s1 := (s.writeS f.link.toNat 1).retire f.h
  let s2 := { s1 with st := { s1.st with stack := recordFragment fid r } }
  let x := s1.newFragment fid e.token e.mask e.pc e.fmt s1.st.readyAt
  s2.addFragment { x with dist := x.inherited e.dist }

theorem detachEntry_fields (s : State) (f : BF) (e : StackEntry) (r : List StackEntry) (fid : Nat) :
    let u := s.detachEntry f e r fid
    wroteScalar s u f.link.toNat 1 0 ∧ u.st.stack = recordFragment fid r ∧ u.st.pc = s.st.npc ∧
      u.wv.frags.map (fun x => (x.fid, x.pc, x.exec)) = s.wv.frags.map (fun x => (x.fid, x.pc, x.exec)) ++ [(fid, e.pc, e.mask)] := by
  have hpc : (s.writeS f.link.toNat 1).st.npc = s.st.npc := by rw [State.writeS_rest]
  have hfrags : (s.writeS f.link.toNat 1).wv.frags = s.wv.frags := by rw [State.writeS_rest]
  refine ⟨⟨s.readS_writeS_landed f.link.toNat 1 0, fun hlat => absurd hlat (Nat.lt_irrefl 0)⟩, rfl, hpc, ?_⟩
  rw [← hfrags]
  exact List.map_append

/-! ### Ends -/

theorem keepsFocus_due (s : State) (e : Due) : KeepsFocus s (s.due e) := .ite (.refl s) ⟨rfl, rfl, rfl, rfl⟩

theorem mem_pending_due (s : State) (e : Due) : e ∈ (s.due e).pending := by
  rw [State.due]
  split
  · next h => exact List.contains_iff_mem.mp h
  · exact List.mem_append_right _ (List.mem_singleton_self e)

theorem keepsFocus_noteLate (s : State) (x : Stream) : KeepsFocus s (s.noteLate x) := .ite (keepsFocus_note ..) (.refl s)

/-- The wave that ends is marked so, without fragments; with the last wave of a squad the end of the whole is due (R259). -/
theorem endWave_fields (s : State) :
    s.endWave.wv.ended = true ∧ s.endWave.wv.frags = [] ∧ s.endWave.st.wait = .ended ∧
      (s.sq.waves.all (fun x => x.ended) = true → (Due.instanceEnd s.sq.sid) ∈ s.endWave.pending) := by
  unfold State.endWave
  extract_lets s1 w s2 _ _ _ s3 _ s4
  have hnoted : KeepsFocus s s1 := .foldl (fun t x => keepsFocus_noteLate t x) _ s
  have hleft : KeepsFocus s1 s2 := (calm_updCore ..).keepsFocus
  have hsq : s3.sq = s.sq := (hnoted.trans hleft).1
  have hover : s4.wv = s3.wv ∧ s4.st = s3.st ∧ s4.sq.waves = s3.sq.waves ∧ s4.sq.sid = s3.sq.sid := by
    by_cases hmine : s3.sq.overtime = some s3.wv.widx
    · rw [show s4 = _ from if_pos hmine]
      exact ⟨rfl, rfl, rfl, rfl⟩
    · rw [show s4 = _ from if_neg hmine]
      exact ⟨rfl, rfl, rfl, rfl⟩
  obtain ⟨hwv, hst, hwaves, hsid⟩ := hover
  have hdue : KeepsFocus s4 (if (s4.sq.waves.all fun x => x.ended) = true then s4.due (.instanceEnd s4.sq.sid) else s4) :=
    .ite (keepsFocus_due ..) (.refl s4)
  obtain ⟨-, hwv', hst', -⟩ := hdue
  refine ⟨?_, ?_, ?_, fun hall => ?_⟩
  · rw [hwv', hwv]
  · rw [hwv', hwv]
  · rw [hst', hst]
  · rw [← hsq, ← hwaves] at hall
    rw [if_pos hall, ← hsq, ← hsid]
    exact mem_pending_due ..

/-- The lanes that retire leave EXEC and every entry of the stack, and a handler ends (R259, R364). -/
theorem exitLanes_fields (s : State) :
    s.exitLanes.st.exec = 0 ∧ s.exitLanes.wv.exited = s.wv.exited ||| s.st.exec ∧
      s.exitLanes.st.stack = s.st.stack.map (fun e => { e with mask := e.mask &&& ~~~s.st.exec }) ∧ s.exitLanes.st.trap.hmode = false := by
  have hover (t : State) (b : Bool) : (if b then t.markOverdue else t).st = t.st ∧ (if b then t.markOverdue else t).wv = t.wv := by
    unfold State.markOverdue
    split
    · split <;> exact ⟨rfl, rfl⟩
    · exact ⟨rfl, rfl⟩
  cases hmode : s.st.trap.hmode with
  | false =>
    rw [show s.exitLanes = _ from if_neg (Bool.eq_false_iff.mp hmode)]
    exact ⟨rfl, rfl, rfl, hmode⟩
  | true =>
    rw [show s.exitLanes = _ from if_pos hmode]
    dsimp only
    rw [(hover ..).1, (hover ..).2]
    exact ⟨rfl, rfl, rfl, rfl⟩

end Sys2Proof.Machine

namespace Sys2Proof.Claim

open Machine

/-- RJOIN past its checks where its stack is empty: a fragment of its token arrives (R166). -/
theorem exec_rjoin_of_empty {f : BF} {s : State} (h : passes s (.rjoin f)) (hstack : s.st.stack = []) :
    exec (.rjoin f) s = if s.st.fid ≠ 0 ∧ s.st.token = f.token then .next (s.landed (.rjoin f)).arrive
      else .next ((s.landed (.rjoin f)).retire f.h) := by
  have hstack' : (s.landed (.rjoin f)).st.stack = [] := hstack
  change execRjoin f s = _
  refine (checked_of_passes h _).trans ?_
  rw [hstack']
  rfl

/-- RJOIN past its checks where its stack has an entry (R166, R258). -/
theorem exec_rjoin_of_entry {f : BF} {s : State} (h : passes s (.rjoin f)) {e : StackEntry} {r : List StackEntry}
    (hstack : s.st.stack = e :: r) :
    let s0 := s.landed (.rjoin f)
    let merged := (s0.retire f.h).popEntry e r
    exec (.rjoin f) s = if e.token ≠ f.token then .next (s0.retire f.h)
      else if e.sibling then .next ((s0.jump f.h e.pc).popEntry e r)
      else if !e.frags.isEmpty then .next (s0.hold .blocked)
      else .next (if merged.st.exec = 0 then merged.drained else merged) := by
  have hstack' : (s.landed (.rjoin f)).st.stack = e :: r := hstack
  change execRjoin f s = _
  refine (checked_of_passes h _).trans ?_
  rw [hstack']
  rfl

theorem merging : Merging := by
  intro f s hpasses s0
  refine ⟨fun hstack hother => ?fresh, fun hstack hfid htoken => ?arrives, fun e r hstack htoken => ?other,
    fun e r hstack htoken hsibling => ?sibling, fun e r hstack htoken hjoin hfrags => ?waits,
    fun e r hstack htoken hjoin hfrags hmask => ?merges⟩
  case fresh => exact (exec_rjoin_of_empty hpasses hstack).trans (if_neg hother)
  case arrives => exact (exec_rjoin_of_empty hpasses hstack).trans (if_pos ⟨hfid, htoken⟩)
  case other => exact (exec_rjoin_of_entry hpasses hstack).trans (if_pos htoken)
  case sibling =>
    refine ⟨(s0.jump f.h e.pc).popEntry e r, ?_, rfl, rfl⟩
    exact (exec_rjoin_of_entry hpasses hstack).trans ((if_neg (not_not_intro htoken)).trans (if_pos hsibling))
  case waits =>
    have hmore : (!e.frags.isEmpty) = true := by simpa using hfrags
    refine (exec_rjoin_of_entry hpasses hstack).trans ((if_neg (not_not_intro htoken)).trans ?_)
    exact (if_neg (Bool.eq_false_iff.mp hjoin)).trans (if_pos hmore)
  case merges =>
    have hcame : ¬ (!e.frags.isEmpty) = true := by simp [hfrags]
    refine ⟨(s0.retire f.h).popEntry e r, ?_, rfl, rfl⟩
    refine (exec_rjoin_of_entry hpasses hstack).trans ((if_neg (not_not_intro htoken)).trans ?_)
    exact (if_neg (Bool.eq_false_iff.mp hjoin)).trans ((if_neg hcame).trans (congrArg Host.Outcome.next (if_neg hmask)))

/-- DETACH past its checks with a SIBLING entry on top and a free fragment (R168, R257). -/
theorem exec_detach_of_sibling {f : BF} {s : State} (h : passes s (.detach f)) {e : StackEntry} {r : List StackEntry} {fid : Nat}
    {fs : List Nat} (hstack : s.st.stack = e :: r) (hsibling : e.sibling = true) (hfids : s.freeFids = fid :: fs) :
    exec (.detach f) s = .next ((s.landed (.detach f)).detachEntry f e r fid) := by
  have hstack' : (s.landed (.detach f)).st.stack = e :: r := hstack
  have hfids' : (s.landed (.detach f)).freeFids = fid :: fs := hfids
  change execDetach f s = _
  refine (checked_of_passes h _).trans ?_
  rw [hstack', hfids']
  exact if_pos hsibling

/-- DETACH past its checks where nothing can be detached answers 0 (R257). -/
theorem exec_detach_of_none {f : BF} {s : State} (h : passes s (.detach f))
    (hnone : (∀ e ∈ s.st.stack.head?, e.sibling = false) ∨ s.freeFids = []) :
    exec (.detach f) s = .next (((s.landed (.detach f)).writeS f.link.toNat 0).retire f.h) := by
  change execDetach f s = _
  refine (checked_of_passes h _).trans ?_
  generalize hs0 : s.landed (.detach f) = s0
  have hnone' : (∀ e ∈ s0.st.stack.head?, e.sibling = false) ∨ s0.freeFids = [] := hs0 ▸ hnone
  dsimp only
  cases hstack : s0.st.stack with
  | nil => rfl
  | cons e r =>
    cases hfids : s0.freeFids with
    | nil => rfl
    | cons fid fs =>
      have hjoin : e.sibling = false := by simpa [hstack, hfids] using hnone'
      exact if_neg (Bool.eq_false_iff.mp hjoin)

theorem leavingAndWaiting : LeavingAndWaiting := by
  refine ⟨fun f s hpasses => ⟨fun e r fid fs hstack hsibling hfids =>
      ⟨_, exec_detach_of_sibling hpasses hstack hsibling hfids, detachEntry_fields (s.landed (.detach f)) f e r fid⟩,
      exec_detach_of_none hpasses⟩, fun f s hpasses => ?exit, exitLanes_fields,
    fun f s hpasses => ?tend, endWave_fields, fun f s hpasses halone => ?yield, fun f s hpasses halone => ?nap⟩
  case exit =>
    change execExit f s = _
    exact checked_of_passes hpasses _
  case tend =>
    change execTend f s = _
    exact checked_of_passes hpasses _
  case yield =>
    have hpath : ¬ (s.landed (.yield f)).hasSibling = true := Bool.eq_false_iff.mp halone
    change execYield f s = _
    refine (checked_of_passes hpasses _).trans ?_
    dsimp only
    rw [if_neg hpath]
    rfl
  case nap =>
    have hpath : ¬ (s.landed (.nap f)).hasSibling = true := Bool.eq_false_iff.mp halone
    change execNap f s = _
    exact (checked_of_passes hpasses _).trans (congrArg Host.Outcome.next (if_neg hpath))

end Sys2Proof.Claim

namespace Sys2Proof

/-- Settles O17: RJOIN and DETACH go by the entry on top of the stack; the others are their operation on the stream, the wave or the quadrant,
past the checks. -/
theorem mergingAndLeaving : Obligations.MergingAndLeaving := ⟨Claim.merging, Claim.leavingAndWaiting⟩

end Sys2Proof
end

section
/-! SUPPORT. The matrix engine's issue under the baton (R188, R325, R327), and the baton's passing (R188, R324). -/

namespace Sys2Proof.Machine

/-! ### Changes of the baton -/

/-- BATON.TAKE by a wave: a free baton becomes its own, and it joins the FIFO once (R188). -/
def Core.takeBaton (x : Core) (w : WaveId) (cycle : Nat) : Core :=
  if x.baton = none then { x with baton := some w, hold := 0, grantAt := cycle + 2 }
  else if x.baton = some w ∨ w ∈ x.fifo then x else { x with fifo := x.fifo ++ [w] }

/-- BATON.PASS by a wave: its holder hands it on, another wave leaves the FIFO (R188, R324). -/
def Core.passBatonBy (x : Core) (w : WaveId) (cycle : Nat) : Core :=
  if x.baton = some w then x.passBaton cycle
  else { x with fifo := x.fifo.filter fun y => decide (y ≠ w), returning := x.returning.filter fun y => decide (y ≠ w) }

/-- A wave that holds the baton goes behind the waiters, its running operation suspended (R188). -/
def Core.holderWaits (x : Core) (w : WaveId) : Core :=
  { x with fifo := x.fifo ++ [w], mq := x.mq.map fun m => if waveOf m.who = w ∧ m.running then { m with suspended := true } else m }

/-- The baton is taken from its holder, which is owed it (R188). -/
def Core.forceBaton (x : Core) (w : WaveId) (cycle : Nat) : Core :=
  { (x.holderWaits w).passBaton cycle with returning := ((x.holderWaits w).passBaton cycle).returning ++ [w] }

theorem passBaton_fields (x : Core) (cycle : Nat) :
    (x.passBaton cycle).baton = x.fifo.head? ∧ (x.passBaton cycle).fifo = x.fifo.tail ∧ (x.passBaton cycle).hold = 0 := by
  unfold Core.passBaton
  split <;> next h => simp [h]

theorem passBatonBy_of_holder {x : Core} {w : WaveId} (cycle : Nat) (h : x.baton = some w) :
    (x.passBatonBy w cycle).baton = x.fifo.head? ∧ (x.passBatonBy w cycle).fifo = x.fifo.tail := by
  rw [Core.passBatonBy, if_pos h]
  obtain ⟨hbaton, hfifo, -⟩ := passBaton_fields x cycle
  exact ⟨hbaton, hfifo⟩

theorem passBatonBy_of_other {x : Core} {w : WaveId} (cycle : Nat) (h : x.baton ≠ some w) :
    (x.passBatonBy w cycle).baton = x.baton ∧ (x.passBatonBy w cycle).fifo = (x.fifo.filter fun y => decide (y ≠ w)) ∧
      w ∉ (x.passBatonBy w cycle).returning := by
  rw [Core.passBatonBy, if_neg h]
  exact ⟨rfl, rfl, by simp⟩

theorem forceBaton_fields {x : Core} {y : WaveId} {r : List WaveId} (w : WaveId) (cycle : Nat) (hfifo : x.fifo = y :: r) :
    (x.forceBaton w cycle).baton = some y ∧ (x.forceBaton w cycle).fifo = r ++ [w] ∧ (x.forceBaton w cycle).hold = 0 ∧
      w ∈ (x.forceBaton w cycle).returning := by
  have hwaiters : (x.holderWaits w).fifo = y :: (r ++ [w]) := by rw [Core.holderWaits, hfifo, List.cons_append]
  obtain ⟨hbaton, hrest, hhold⟩ := passBaton_fields (x.holderWaits w) cycle
  rw [hwaiters] at hbaton hrest
  exact ⟨hbaton, hrest, hhold, List.mem_append_right _ (List.mem_singleton_self w)⟩

/-! ### The instructions -/

/-- An instruction that ends with a change of a core leaves the change in it. -/
theorem core_retire_updCore (s : State) (c : Nat) (g : Core → Core) (h : Head) (k : Nat) :
    ((s.updCore c g).retire h).core k = if k = c then g (s.core c) else s.core k := State.core_updCore s c k g

theorem core_retire_enqueueOp (s : State) (c : Nat) (m : MacroOp) (h : Head) (k : Nat) :
    ((s.enqueueOp c m).retire h).core k = if k = c then { s.core c with mq := (s.core c).mq ++ [m] } else s.core k :=
  State.core_updCore s c k fun x => { x with mq := x.mq ++ [m] }

open Claim

theorem exec_batonTake_of_passes {f : XF} {s : State} (h : passes s (.batonTake f)) :
    exec (.batonTake f) s =
      .next (((s.landed (.batonTake f)).updCore s.sq.core fun x => x.takeBaton s.myWave s.cycle).retire f.h) := by
  change execBatonTake f s = _
  refine (checked_of_passes h _).trans ?_
  simp only [List.contains_iff_mem]
  rfl

theorem exec_batonPass_of_passes {f : XF} {s : State} (h : passes s (.batonPass f)) :
    exec (.batonPass f) s =
      .next (((s.landed (.batonPass f)).updCore s.sq.core fun x => x.passBatonBy s.myWave s.cycle).retire f.h) := by
  change execBatonPass f s = _
  refine (checked_of_passes h _).trans ?_
  rfl

theorem exec_batonQuery_of_passes {f : XF} {s : State} (h : passes s (.batonQuery f)) :
    let x := s.core s.sq.core
    let pos := fifoPos s.myWave x.fifo
    let v := (if x.baton = some s.myWave then 1 else 0) + (if pos ≠ 0 then 2 else 0) + (if x.returning.contains s.myWave then 4 else 0) + 256 * pos
    exec (.batonQuery f) s = .next (((s.landed (.batonQuery f)).output f 0 (BitVec.ofNat 64 v) 4).retire f.h) := by
  change execBatonQuery f s = _
  refine (checked_of_passes h _).trans ?_
  rfl

/-- At a step boundary nothing of the holder's runs within a step (R188). -/
theorem batonWithin_eq_false {x : Core} {w : WaveId}
    (h : ∀ m ∈ x.mq, waveOf m.who = w → m.running = true → m.chunk = 0 ∧ m.cons = none) :
    (x.mq.any fun m => waveOf m.who == w && m.running && (m.chunk != 0 || m.cons.isSome)) = false := by
  rw [List.any_eq_false]
  intro m hm hinside
  simp only [Bool.and_eq_true, beq_iff_eq] at hinside
  obtain ⟨⟨hmine, hrunning⟩, hcut⟩ := hinside
  obtain ⟨hchunk, hcons⟩ := h m hm hmine hrunning
  simp [hchunk, hcons] at hcut

theorem exec_batonForcedPass_of_due {c : BitVec 8} {s : State} {w y : WaveId} {r : List WaveId}
    (hbaton : (s.core c.toNat).baton = some w) (hfifo : (s.core c.toNat).fifo = y :: r) (hhold : 4096 ≤ (s.core c.toNat).hold)
    (hboundary : ∀ m ∈ (s.core c.toNat).mq, waveOf m.who = w → m.running = true → m.chunk = 0 ∧ m.cons = none) :
    exec (.batonForcedPass c) s = .next (s.updCore c.toNat fun x => x.forceBaton w s.cycle) := by
  have hwithin := batonWithin_eq_false hboundary
  change execBatonForcedPass c s = _
  unfold execBatonForcedPass
  extract_lets core x
  split
  · next w' y' r' hheld hwaits =>
    obtain rfl : w' = w := Option.some.inj (hheld.symm.trans hbaton)
    exact if_pos ⟨hhold, (Bool.not_eq_true' _).mpr hwithin⟩
  · next hnone => exact absurd hfifo (hnone w y r hbaton)

/-! ### Issue -/

/-- The branches of an issue past its checks, by the baton, the FIFO, the operands and the queue (R188, R325, R327). -/
theorem issueOp_of_passes {i : Instr} {r : XRule} {f : XF} {s : State} (hshape : i.shape.named = f.named r) (h : passes s i) (op : Nat) :
    let s0 := s.landed i
    let x := s.core s.sq.core
    issueOp r op f s =
      if x.baton ≠ some s.myWave ∧ x.fifo.contains s.myWave = false then trapAt s0 Cause.nobaton 0 0 0 0 0
      else if x.baton ≠ some s.myWave ∨ s.cycle < x.grantAt then .next (s0.hold .blocked)
      else match s0.opFault op f.imm (s0.dvals f) with
        | some e => opTrap s0 e
        | none => if 16 ≤ x.queued then .next (s0.hold .blocked)
          else .next ((s0.enqueueOp s.sq.core (s0.newOp op f.imm (s0.dvals f) [])).retire f.h) := by
  rw [issueOp, ← hshape, checked_of_passes h]
  simp only [Bool.not_eq_true']
  rfl

end Sys2Proof.Machine

namespace Sys2Proof.Claim

open Machine

/-- An instruction that is an issue under the baton has the issue's cases. -/
theorem macroIssue_of_issueOp {mk : XF → Instr} {r : XRule} {op : Nat} (hshape : ∀ f, (mk f).shape.named = f.named r)
    (hexec : ∀ f s, exec (mk f) s = issueOp r op f s) : MacroIssue mk op := by
  intro f s hpasses s0 x
  have hissue := (hexec f s).trans (issueOp_of_passes (hshape f) hpasses op)
  have hwaiting (h : x.fifo.contains s.myWave = true) : ¬ (x.baton ≠ some s.myWave ∧ x.fifo.contains s.myWave = false) :=
    fun hout => Bool.noConfusion (h.symm.trans hout.2)
  have hholds (h : x.baton = some s.myWave) : ¬ (x.baton ≠ some s.myWave ∧ x.fifo.contains s.myWave = false) := fun hout => hout.1 h
  have hgranted (h : x.baton = some s.myWave) (hgrant : x.grantAt ≤ s.cycle) : ¬ (x.baton ≠ some s.myWave ∨ s.cycle < x.grantAt) :=
    not_or.mpr ⟨not_not_intro h, hgrant.not_gt⟩
  refine ⟨fun hbaton hgrant hsound hroom => ?enqueued, fun hbaton hfifo => ?nobaton, fun hbaton hfifo => ?waits,
    fun e hbaton hgrant hfault => ?trap⟩
  case nobaton => exact hissue.trans (if_pos ⟨hbaton, hfifo⟩)
  case waits => exact hissue.trans ((if_neg (hwaiting hfifo)).trans (if_pos (.inl hbaton)))
  case trap =>
    refine hissue.trans ((if_neg (hholds hbaton)).trans ((if_neg (hgranted hbaton hgrant)).trans ?_))
    rw [hfault]
    rfl
  case enqueued =>
    refine ⟨(s0.enqueueOp s.sq.core (s0.newOp op f.imm (s0.dvals f) [])).retire f.h, ?_, rfl, rfl, ?_, fun c hc => ?_, rfl⟩
    · refine hissue.trans ((if_neg (hholds hbaton)).trans ((if_neg (hgranted hbaton hgrant)).trans ?_))
      rw [hsound]
      exact if_neg hroom.not_ge
    · rw [core_retire_enqueueOp, if_pos rfl]
      rfl
    · exact (core_retire_enqueueOp ..).trans (if_neg hc)

theorem macroOperationIssue : MacroOperationIssue :=
  ⟨macroIssue_of_issueOp (fun _ => rfl) fun _ _ => rfl, macroIssue_of_issueOp (fun _ => rfl) fun _ _ => rfl,
    macroIssue_of_issueOp (fun _ => rfl) fun _ _ => rfl, macroIssue_of_issueOp (fun _ => rfl) fun _ _ => rfl,
    macroIssue_of_issueOp (fun _ => rfl) fun _ _ => rfl, macroIssue_of_issueOp (fun _ => rfl) fun _ _ => rfl,
    macroIssue_of_issueOp (fun _ => rfl) fun _ _ => rfl, macroIssue_of_issueOp (fun _ => rfl) fun _ _ => rfl,
    macroIssue_of_issueOp (fun _ => rfl) fun _ _ => rfl, macroIssue_of_issueOp (fun _ => rfl) fun _ _ => rfl⟩

theorem baton : Baton := by
  refine ⟨fun f s hpasses => ⟨_, exec_batonTake_of_passes hpasses, rfl, fun c hc => ?_, ?_⟩,
    fun f s hpasses => ⟨_, exec_batonPass_of_passes hpasses, rfl, fun c hc => ?_, fun h => ?_, fun h => ?_⟩,
    fun f s => exec_batonQuery_of_passes, fun c s w y r hbaton hfifo hhold hboundary => ?forced⟩
  · exact (core_retire_updCore ..).trans (if_neg hc)
  · exact (core_retire_updCore ..).trans (if_pos rfl)
  · exact (core_retire_updCore ..).trans (if_neg hc)
  · rw [core_retire_updCore, if_pos rfl]
    exact passBatonBy_of_holder s.cycle h
  · rw [core_retire_updCore, if_pos rfl]
    exact passBatonBy_of_other s.cycle h
  case forced =>
    obtain ⟨hnow, hwaiters, hcount, howed⟩ := forceBaton_fields w s.cycle hfifo
    have hforced : (s.updCore c.toNat fun x => x.forceBaton w s.cycle).core c.toNat = (s.core c.toNat).forceBaton w s.cycle :=
      (State.core_updCore ..).trans (if_pos rfl)
    refine ⟨_, exec_batonForcedPass_of_due hbaton hfifo hhold hboundary, ?_, ?_, ?_, ?_, fun k hk => ?_, rfl, rfl, rfl⟩
    · rw [hforced, hnow]
    · rw [hforced, hwaiters]
    · rw [hforced, hcount]
    · rw [hforced]
      exact howed
    · exact (State.core_updCore ..).trans (if_neg hk)

end Sys2Proof.Claim

namespace Sys2Proof

/-- Settles O25: each operation of the matrix engine is one issue with its own rule and opcode, whose branches the baton, the FIFO, the
operands and the queue choose; the baton's instructions are each a change of their core. -/
theorem macroOperationsAndBaton : Obligations.MacroOperationsAndBaton := ⟨Claim.macroOperationIssue, Claim.baton⟩

end Sys2Proof
end

section
/-! SUPPORT. Placement (R156, R180, R182), and the ends of instances (R120, R155, R159 to R162, R170, R179). -/

namespace Sys2Proof.Machine

/-! ### The dispatcher -/

/-- No entry of a list starts: no saved squad goes before it, and no core can take it (R180, R182). -/
def State.passesOver (s : State) (d : Nat) (es : List PoolEntry) : Prop :=
  ∀ e ∈ es, s.restoreLevel d e.inst.region.prio = none ∧ s.placeFor e.inst d = none

/-- The dispatcher goes past entries that do not start. -/
theorem placeNext_append {s : State} {d : Nat} {pre : List PoolEntry} (h : s.passesOver d pre) (r : List PoolEntry) :
    s.placeNext d (pre ++ r) = s.placeNext d r := by
  induction pre with
  | nil => rfl
  | cons e pre ih =>
    obtain ⟨⟨hrestore, hplace⟩, hpre⟩ := List.forall_mem_cons.mp h
    rw [List.cons_append, State.placeNext, hrestore, hplace]
    exact ih hpre

/-- A saved squad of the entry's level or a higher one goes before it. -/
theorem placeNext_of_restore {s s1 : State} {d : Nat} {e : PoolEntry} (h : s.restoreLevel d e.inst.region.prio = some s1) (r : List PoolEntry) :
    s.placeNext d (e :: r) = s1 := by
  rw [State.placeNext, h]

theorem placeNext_of_place {s : State} {d c b : Nat} {ws : List (Nat × Nat)} {e : PoolEntry} (hrestore : s.restoreLevel d e.inst.region.prio = none)
    (hplace : s.placeFor e.inst d = some (c, ws, b)) (r : List PoolEntry) :
    s.placeNext d (e :: r) = (s.takeEntry d e).start e.inst c ws b := by
  rw [State.placeNext, hrestore, hplace]

theorem placeNext_of_passed {s : State} {d : Nat} {es : List PoolEntry} (h : s.passesOver d es) :
    s.placeNext d es = (s.restoreLevel d 0).getD s := by
  rw [← es.append_nil, placeNext_append h, State.placeNext]

theorem exec_placeInstance (d : BitVec 2) (s : State) :
    exec (.placeInstance d) s = .next (s.placeNext d.toNat (s.waitingEntries d.toNat)) := rfl

theorem exec_dispatchAgeReserve_of_aged {d : BitVec 2} {s : State} {e : PoolEntry} {r : List PoolEntry} {c : Nat}
    (hentries : s.waitingEntries d.toNat = e :: r) (hfree : ∀ i, i < 48 → (s.core (48 * d.toNat + i)).reserved ≠ some e.inst.key)
    (haged : e.since + 65536 ≤ s.cycle) (hcore : (s.coreOrder e.inst d.toNat).find? (s.couldFit e.inst) = some c) :
    exec (.dispatchAgeReserve d) s = .next (s.updCore c fun x => { x with reserved := some e.inst.key }) := by
  have htaken : ((List.range 48).any fun i => (s.core (48 * d.toNat + i)).reserved == some e.inst.key) = false := by
    simpa using hfree
  change execDispatchAgeReserve d s = _
  simp only [execDispatchAgeReserve, hentries, htaken, hcore]
  exact if_neg (not_or.mpr ⟨Bool.false_ne_true, haged.not_gt⟩)

/-! ### Ends -/

theorem exec_instanceEnd_of_ended {k : Nat} {s : State} {q : Squad} (hsquad : s.squad? k = some q) (hended : q.waves.all (·.ended) = true)
    (hcmds : ∀ c ∈ s.cmds, c.who.sid ≠ k) (hops : ∀ m ∈ (s.core q.core).mq, m.who.sid ≠ k)
    (hstores : ∀ w ∈ s.fab.window, w.store = true → w.who.sid ≠ k) :
    exec (.instanceEnd k) s = .next
      (((((s.flushSquad q).leaveCore q).removeSquad k).charge q).leaveNode q.inst.node (.core q.core) q.core) := by
  have hcmds' : (s.cmds.any fun c => c.who.sid == k) = false := by simpa using hcmds
  have hops' : ((s.core q.core).mq.any fun m => m.who.sid == k) = false := by simpa using hops
  have hstores' : (s.fab.window.any fun w => w.store && w.who.sid == k) = false := by simpa using hstores
  change execInstanceEnd k s = _
  simp only [execInstanceEnd, hsquad, hended, hcmds', hops', hstores']
  exact if_neg (by simp)

/-- A false start of what can be split is its abort, and its halves are queued (R160, R162). -/
theorem exec_falseStart_of_splittable {k : Nat} {cause : Exhausted} {s : State} {q : Squad} (hsquad : s.squad? k = some q)
    (hexhausted : q.exhausted = some cause) (hplace : q.place = .resident) (hpinned : q.inst.pinned = false)
    (hsplit : q.splitInst.splittable = true) :
    exec (.falseStart k cause) s = .next ((s.updSquad k fun q => { q with exhausted := none }).falseStart q cause) := by
  change execFalseStart k cause s = _
  simp only [execFalseStart, hsquad]
  exact (if_neg (by simp [hexhausted, hplace])).trans (if_pos ⟨by simp [hpinned], hsplit⟩)

theorem exec_falseStart_of_moot {k : Nat} {cause : Exhausted} {s : State} {q : Squad} (hsquad : s.squad? k = some q)
    (hmoot : q.exhausted ≠ some cause ∨ q.place ≠ .resident) : exec (.falseStart k cause) s = .next s := by
  change execFalseStart k cause s = _
  simp only [execFalseStart, hsquad]
  exact if_pos hmoot

/-- The halves of a false start along its axis, counted before their parent leaves (R160, R162). -/
theorem falseStart_of_splitAxis {s : State} {q : Squad} {ax : Nat} (cause : Exhausted) (h : q.splitInst.splitAxis = some ax) :
    let i := q.splitInst
    let s1 := (((s.countNode i.node (.die i.die) 2).abort q).countFalseStart i).bump 5 (Exhausted.bin cause)
    s.falseStart q cause =
      ((s1.updNode i.node fun n => { n with count := n.count.sub (.core q.core) 1 }).queueHalf (i.half ax false)).queueHalf (i.half ax true) := by
  rw [State.falseStart, h]

theorem exec_allowanceExpired_of_left {k : Nat} {s : State} {q : Squad} (hsquad : s.squad? k = some q) (hleft : q.left ≠ 0) :
    exec (.allowanceExpired k) s = .next s := by
  change execAllowanceExpired k s = _
  simp only [execAllowanceExpired, hsquad]
  exact if_pos (.inl hleft)

theorem exec_allowanceExpired_of_spent {k : Nat} {s : State} {q : Squad} (hsquad : s.squad? k = some q) (hleft : q.left = 0)
    (hplace : q.place = .resident) : exec (.allowanceExpired k) s = .next (s.timeOut q) := by
  change execAllowanceExpired k s = _
  simp only [execAllowanceExpired, hsquad]
  exact if_neg (by simp [hleft, hplace])

/-- The exhaustion of time in the first stream: a false start, or a trap once the stream has formed its next PC (R159). -/
theorem timeOut_of_firstStream {s : State} {q : Squad} {x : StreamId} (h : q.firstStream = some x) :
    s.timeOut q = s.at x fun s =>
      if s.st.trap.hmode = false ∧ s.sq.splitInst.pinned = false ∧ s.sq.splitInst.splittable = true then s.exhausts .time
      else if s.st.skip = true then { s with sq := { s.sq with overtime := some x.widx, overdue := true } }
      else { s.exhaust .time 0 with sq := { (s.exhaust .time 0).sq with overtime := some x.widx } } := by
  simp only [State.timeOut, h, Bool.not_eq_true']

end Sys2Proof.Machine

namespace Sys2Proof.Claim

open Machine

theorem placement : Placement := by
  refine ⟨fun d s => ?entries, fun d s e r c => exec_dispatchAgeReserve_of_aged⟩
  case entries =>
    rw [exec_placeInstance]
    intro es passed
    refine ⟨fun pre e post s1 hes hpre hrestore => ?_, fun pre e post c ws b hes hpre hrestore hplace => ?_, fun hpassed => ?_⟩
    · rw [show s.waitingEntries d.toNat = _ from hes, placeNext_append hpre, placeNext_of_restore hrestore]
    · rw [show s.waitingEntries d.toNat = _ from hes, placeNext_append hpre, placeNext_of_place hrestore hplace]
    · rw [placeNext_of_passed hpassed]

theorem instancesEnd : InstancesEnd := by
  refine ⟨fun k s q => exec_instanceEnd_of_ended, fun k cause s q ax hsquad hexhausted hplace hpinned => ?halves,
    fun k cause s q => exec_falseStart_of_moot, fun k s q x hsquad hleft hplace hfirst => ?spent,
    fun k s q => exec_allowanceExpired_of_left⟩
  case halves =>
    intro i hsplit haxis
    exact (exec_falseStart_of_splittable hsquad hexhausted hplace hpinned hsplit).trans
      (congrArg Host.Outcome.next (falseStart_of_splitAxis cause haxis))
  case spent =>
    rw [exec_allowanceExpired_of_spent hsquad hleft hplace, timeOut_of_firstStream hfirst]
    rfl

end Sys2Proof.Claim

namespace Sys2Proof

/-- Settles O41: the dispatcher takes the first entry that it does not pass over, after the saved squads of its level; each end is
the branch of its event that its squad chooses. -/
theorem placementAndEnds : Obligations.PlacementAndEnds := ⟨Claim.placement, Claim.instancesEnd⟩

end Sys2Proof
end

section
/-! SUPPORT. Saves, restores and swaps of squads (R193 to R198), and the ends of waits (R94, R126, R239, R260, R312, R313). -/

namespace Sys2Proof.Machine

/-! ### Saves -/

theorem sid_of_squad? {s : State} {k : Nat} {q : Squad} (h : s.squad? k = some q) : q.sid = k := by
  simpa using List.find?_some h

theorem place_of_saveable {s : State} {q : Squad} (h : s.saveable q = true) : q.place = .resident := by
  simp only [State.saveable, Bool.and_eq_true, beq_iff_eq] at h
  exact h.1.1

/-- A save that is asked for and may proceed is made where there is room. -/
theorem exec_squadSave_of_saveable {k : Nat} {s : State} {q : Squad} (hsquad : s.squad? k = some q) (hsaveable : s.saveable q = true)
    (hwaits : s.parkWaits q = false) : exec (.squadSave k true) s = .next (s.saveNow q) := by
  change execSquadSave k true s = _
  simp [execSquadSave, hsquad, hsaveable, hwaits]

theorem saveNow_of_saveRoom {s : State} {q : Squad} {p : Place} (h : s.saveRoom q = some p) : s.saveNow q = s.save q p := by
  rw [State.saveNow, h]

theorem saveRoom_of_sram {s : State} {q : Squad} (h : s.savedBytes (dieOfCore q.core) Place.inSram + s.imageSize q ≤ shadowBytes) :
    s.saveRoom q = some .shadowSram := if_pos h

/-- A resident squad is in no save area yet. -/
theorem hbmRoom_of_resident {s : State} {q : Squad} (h : q.place = .resident) :
    s.hbmRoom q = decide (s.savedBytes (dieOfCore q.core) Place.inHbm + s.imageSize q ≤ (s.die (dieOfCore q.core)).saveSize) := by
  rw [State.hbmRoom, h]
  rfl

theorem saveRoom_of_full {s : State} {q : Squad} (hplace : q.place = .resident)
    (h : shadowBytes < s.savedBytes (dieOfCore q.core) Place.inSram + s.imageSize q) :
    s.saveRoom q = if s.savedBytes (dieOfCore q.core) Place.inHbm + s.imageSize q ≤ (s.die (dieOfCore q.core)).saveSize then some .hbmArea
      else none := by
  rw [State.saveRoom, if_neg h.not_ge, hbmRoom_of_resident hplace]
  simp only [decide_eq_true_eq]

/-- Without room the save waits, and the supervisor is told once (R198). -/
theorem saveNow_of_none {s : State} {q : Squad} (hsquad : s.squad? q.sid = some q) (h : s.saveRoom q = none) :
    s.saveNow q = if q.told then s else (s.updSquad q.sid fun q => { q with told := true }).note (.unplaced q.sid) := by
  rw [State.saveNow, h]
  simp only [State.noteUnplaced, hsquad]
  rfl

theorem exec_squadRestore_of_fit {k : Nat} {c : BitVec 8} {s : State} {q : Squad} {ws : List (Nat × Nat × Nat)} (hsquad : s.squad? k = some q)
    (hsaved : s.restorable q = true) (hfit : s.restoreFit q c.toNat = some ws) :
    exec (.squadRestore k c) s = .next (s.restore q c.toNat ws) := by
  change execSquadRestore k c s = _
  simp [execSquadRestore, hsquad, hsaved, hfit]

/-! ### Swaps -/

/-- A value that a mask allows is allowed by a wider one. -/
theorem clearOf_of_subset {v a b : W64} (hab : a &&& b = a) (h : clearOf v a = true) : clearOf v b = true := by
  rw [clearOf_iff_and_eq] at h ⊢
  calc v &&& b = v &&& a &&& b := by rw [h]
    _ = v &&& (a &&& b) := BitVec.and_assoc ..
    _ = v := by rw [hab, h]

/-- A supervisor's request for a swap is held while a swap or a step of the operating point is in progress. -/
theorem exec_partitionSwap_of_go {v : W64} {s : State} (hv : v.toNat < 512) (hgo : v.getLsbD 8 = true) :
    exec (.partitionSwap v true) s = .next
      (if s.sched.swap.isSome ∨ s.power.stepping then { s with sched := { s.sched with swapHeld := some v } } else s.beginSwap v) := by
  have hlow : clearOf v 0x1FF = true := (clearOf_ones_iff_lt (n := 9) (by decide)).mpr hv
  have hclear : clearOf v 0x800001FF = true := clearOf_of_subset (by decide) hlow
  change execPartitionSwap v true s = _
  rw [execPartitionSwap, supervised_true, State.swapctl, hclear, if_neg (by decide), if_pos hgo]

theorem beginSwap_of_alike {v : W64} {s : State} (hother : bits v 3 0 ≠ bits v 7 4) (halike : s.part (bits v 3 0) 0x20 = s.part (bits v 7 4) 0x20) :
    s.beginSwap v = (({ s with sched := { s.sched with swap := some (bits v 3 0, bits v 7 4) } } : State).setReg Mmio.swapctl
      ((v &&& 0xFF) ||| 0x80000000)).swapSaves (bits v 3 0) :=
  if_neg (not_or.mpr ⟨hother, not_not_intro halike⟩)

theorem exec_swapDone_of_out {s : State} {o i : Nat} (hswap : s.sched.swap = some (o, i))
    (hout : ∀ q ∈ (s.swapSaves o).everySquad, q.part = o → q.place ≠ .resident) :
    let s2 := ((s.swapSaves o).setQueues o 1 2).setQueues i 2 1
    let back := s2.everySquad.filter fun q => q.part == i && (q.place == .shadowSram || q.place == .hbmArea)
    let s3 := back.foldl (fun s q => (s.restoreAnywhere q).getD s) s2
    exec .swapDone s = .next ((({ s3 with sched := { s3.sched with
      swap := none, swappedOut := addNats (dropNats s3.sched.swappedOut [i]) [o] } }).setReg Mmio.swapctl
      (s3.reg Mmio.swapctl &&& 0xFF)).nextSwap) := by
  have hnone : ((s.swapSaves o).everySquad.any fun q => q.part == o && q.place == .resident) = false := by simpa using hout
  change execSwapDone s = _
  rw [execSwapDone, hswap]
  exact if_neg (Bool.eq_false_iff.mp hnone)

/-! ### Waits that end -/

theorem at_of_has {s : State} {who : StreamId} (h : s.has who = true) (f : State → State) :
    s.at who f = (f (s.focus who)).focusIn (f (s.focus who)).everySquad s.me := if_pos h

theorem exec_waitaPoll_of_waitMem {who : StreamId} {s : State} {pa : Nat} (hhas : s.has who = true)
    (hwait : (s.focus who).st.wait = .waitMem pa) :
    let t := ((s.focus who).dropCopy (s.focus who).sq.core pa).resumeAt .blocked 0
    exec (.waitaPoll who) s = .next (t.focusIn t.everySquad s.me) := by
  change execWaitaPoll who s = _
  rw [execWaitaPoll, State.wakeStream, at_of_has hhas]
  simp only [hwait]
  rfl

theorem exec_napEnd (who : StreamId) (s : State) :
    exec (.napEnd who) s = .next (s.at who fun s => if s.st.wait = .nap 0 then s.resumeAt .none 0 else s) := by
  change execNapEnd who s = _
  simp only [execNapEnd, State.wakeStream, beq_iff_eq]

end Sys2Proof.Machine

namespace Sys2Proof.Claim

open Machine

theorem savesAndSwaps : SavesAndSwaps := by
  refine ⟨fun k s q hsquad hsaveable hwaits => ?saves, fun k c s q ws => exec_squadRestore_of_fit,
    fun v s hv hgo hidle hstill hother halike => ?begins, fun v s hv hgo hbusy => ?held, fun s o i hswap => exec_swapDone_of_out hswap⟩
  case saves =>
    have hplace := place_of_saveable hsaveable
    obtain rfl := sid_of_squad? hsquad
    rw [exec_squadSave_of_saveable hsquad hsaveable hwaits]
    refine ⟨fun hroom => ?_, fun hfull hroom => ?_, fun hfull hnone => ?_⟩
    · rw [saveNow_of_saveRoom (saveRoom_of_sram hroom)]
    · rw [saveNow_of_saveRoom ((saveRoom_of_full hplace hfull).trans (if_pos hroom))]
    · rw [saveNow_of_none hsquad ((saveRoom_of_full hplace hfull).trans (if_neg hnone.not_ge))]
  case begins =>
    rw [exec_partitionSwap_of_go hv hgo, if_neg (by simp [hidle, hstill]), beginSwap_of_alike hother halike]
  case held =>
    rw [exec_partitionSwap_of_go hv hgo, if_pos (hbusy.imp_left Option.isSome_iff_ne_none.mpr)]

/-- Each wait is tested in the stream that its event names; a poll finds the stream and the word, a nap its own test. -/
theorem waitsEnd : WaitsEnd := fun who s =>
  ⟨rfl, rfl, fun _ hhas hwait => exec_waitaPoll_of_waitMem hhas hwait, exec_napEnd who s, rfl, rfl⟩

end Sys2Proof.Claim
end

section
/-! SUPPORT. The active set (R186), laps and timed actions (R190 to R192), the combining buffer's windows (R310). -/

namespace Sys2Proof.Machine

/-! ### The active set -/

theorem who_of_resident? {s : State} {who : StreamId} {e : Resident} (h : s.resident? who = some e) : e.who = who := by
  simp only [State.resident?, Squad.wave?, Option.bind_eq_some_iff, Option.map_eq_some_iff] at h
  obtain ⟨q, hsquad, w, hwave, x, hstream, rfl⟩ := h
  have hsid := sid_of_squad? hsquad
  have hwidx : w.widx = who.widx := by simpa using List.find?_some hwave
  have hfid : x.fid = who.fid := by simpa using List.find?_some hstream
  simp only [Resident.who, hsid, hwidx, hfid]

/-- A pending stream is exchanged in where there is room, where its counter is above the active ones, and where it is the oldest and one of
them has long to wait (R186). -/
theorem exchanges_of_due {s : State} {e : Resident} (hpending : e.strm.active = false) (hready : s.unblockedNow e = true)
    (hdue : s.activeCount e.sq.core e.wv.quad < 8 ∨
      (64 ≤ e.strm.lap ∧ ∀ a ∈ s.quadStreams e.sq.core e.wv.quad, a.isActive = true → s.residentReady a = true → a.strm.lap < e.strm.lap) ∨
      ((∃ o, s.oldestPending e.sq.core e.wv.quad = some o ∧ o.who = e.who) ∧
        ∃ a ∈ s.quadStreams e.sq.core e.wv.quad, a.isActive = true ∧ s.longWait a = true)) : s.exchanges e = true := by
  simp only [State.exchanges, hpending, hready, Bool.not_false, Bool.true_and, Bool.or_eq_true, Bool.and_eq_true, decide_eq_true_eq,
    List.all_eq_true, List.any_eq_true, List.mem_filter, Option.any_eq_true, beq_iff_eq, Bool.not_eq_true']
  rcases hdue with hroom | ⟨hlap, habove⟩ | ⟨holdest, a, ha, hactive, hlong⟩
  · exact .inr hroom
  · refine .inl (.inl ⟨hlap, fun a ha => ?_⟩)
    obtain ⟨hmem, hactive⟩ := ha
    cases hnow : s.residentReady a with
    | false => exact .inl rfl
    | true => exact .inr (habove a hmem hactive hnow)
  · exact .inl (.inr ⟨holdest, a, ⟨ha, hactive⟩, hlong⟩)

theorem exec_streamExchange_of_exchanges {who : StreamId} {s : State} {e : Resident} (hstream : s.resident? who = some e)
    (h : s.exchanges e = true) : exec (.streamExchange who) s = .next (s.exchange e) := by
  change execStreamExchange who s = _
  rw [execStreamExchange, hstream]
  exact if_pos h

theorem evictee_of_room {s : State} {c quad : Nat} (h : s.activeCount c quad < 8) : s.evictee c quad = none := if_pos h

/-! ### What operations on streams leave alone -/

/-- Nothing but the squads differs. -/
def OnlySquads (s t : State) : Prop := t = { s with sq := t.sq, wv := t.wv, st := t.st, squads := t.squads }

theorem OnlySquads.refl (s : State) : OnlySquads s s := rfl

theorem OnlySquads.trans {s t u : State} (h : OnlySquads s t) (g : OnlySquads t u) : OnlySquads s u := by
  unfold OnlySquads at *
  rw [h] at g
  exact g

theorem OnlySquads.foldl {α : Type} {f : State → α → State} (h : ∀ s a, OnlySquads s (f s a)) (l : List α) (s : State) :
    OnlySquads s (l.foldl f s) := by
  induction l generalizing s with
  | nil => exact .refl s
  | cons a l ih => exact (h s a).trans (ih _)

theorem onlySquads_focusIn (s : State) (l : List Squad) (who : StreamId) : OnlySquads s (s.focusIn l who) := by
  unfold State.focusIn
  split
  · rfl
  · split
    · rfl
    · split <;> rfl

theorem onlySquads_mapStreams (s : State) (g : Squad → Wave → Stream → Stream) : OnlySquads s (s.mapStreams g) := onlySquads_focusIn ..

theorem onlySquads_at {f : State → State} (h : ∀ s, OnlySquads s (f s)) (s : State) (who : StreamId) : OnlySquads s (s.at who f) := by
  have hfocus : OnlySquads s (s.focus who) := by
    unfold State.focus
    split
    · exact .refl s
    · exact onlySquads_focusIn ..
  unfold State.at
  split
  · exact (hfocus.trans (h _)).trans (onlySquads_focusIn ..)
  · exact .refl s

theorem onlySquads_rearmNext (s : State) : OnlySquads s s.rearmNext := by
  unfold State.rearmNext
  extract_lets waits
  split
  · exact .refl s
  · refine onlySquads_at (fun t => ?_) s _
    split <;> rfl

theorem onlySquads_rearmAll (s : State) : OnlySquads s s.rearmAll := .foldl (fun t _ => onlySquads_rearmNext t) _ s

/-! ### Laps -/

/-- The state in the lap that has begun: what exceeds the budgets is carried over, and the pacers count anew (R190, R191). -/
def State.nextLap (s : State) : State :=
  { s with spent := s.carry, lapLog := bits (s.reg Mmio.lapcfg) 4 0, lap := s.gtb.toNat / 2 ^ bits (s.reg Mmio.lapcfg) 4 0,
           fab := { s.fab with pacers := s.fab.pacers.map fun p => { p with count := 0 } } }

/-- The OWQs' drains that a budget held go on. -/
def State.releaseOwqs (s : State) : State :=
  s.dies.foldl (fun s e => if e.2.owqHeld then s.updDie e.1 fun x => { x with owqHeld := false } else s) s

theorem releaseOwqs_keeps {β : Type} {φ : State → β} (h : ∀ s d f, φ (State.updDie s d f) = φ s) (s : State) :
    φ s.releaseOwqs = φ s :=
  foldl_keeps (fun s e => (apply_ite φ _ _ _).trans (by rw [h, ite_self])) _ s

theorem exec_lapBoundary_of_same {s : State} (h : s.lapNow = s.lap) : exec .lapBoundary s = .next s := if_pos h

theorem exec_lapBoundary_of_passed {s : State} (h : s.lapNow ≠ s.lap) :
    exec .lapBoundary s = .next s.nextLap.releaseOwqs.resumeFabric.windowPump := if_neg h

theorem resumeFabric_of_no_commands {s : State} (h : s.cmds = []) : s.resumeFabric = s := by
  rw [State.resumeFabric, h]
  rfl

theorem windowPump_of_none {s : State} (h : s.fab.windowWait = []) : s.windowPump = { s with fab := { s.fab with windowWait := [] } } := by
  rw [State.windowPump, h]
  rfl

/-! ### Timed actions -/

/-- A core without the timers whose time has come (R192). -/
def Core.dropTimers (now : Nat) (x : Core) : Core := { x with timers := x.timers.filter fun t => !decide (t.time.toNat ≤ now) }

/-- The timers whose time has come leave the cores. -/
def State.dropTimers (s : State) (now : Nat) : State :=
  s.cores.foldl (fun s e => if e.2.timers.any (fun t => decide (t.time.toNat ≤ now)) then s.updCore e.1 (Core.dropTimers now) else s) s

/-- A command whose time has come goes on (R192, R359). -/
def State.firedCommand (s : State) (c : Command) : Command :=
  if c.phase = .armed then
    if (s.cores.flatMap fun e => (e.2.timers.filter fun t => decide (t.time.toNat ≤ s.gtb.toNat)).map (·.cmd)).contains c.id then
      { c with phase := .queued }
    else if c.op = 0x151 ∧ decide ((dval c.d 4).toNat ≤ s.gtb.toNat) then { c with phase := .running }
    else c
  else c

theorem State.core_dropTimers (s : State) (now k : Nat) : (s.dropTimers now).core k = (s.core k).dropTimers now :=
  get_foldl_upd (get := State.core) (upd := fun s c => s.updCore c (Core.dropTimers now))
    (p := fun x => x.timers.any fun t => decide (t.time.toNat ≤ now)) (fun s c x => State.core_updCore s c x _)
    (fun x => by simp [Core.dropTimers])
    (fun x h => congrArg (fun l => { x with timers := l }) (List.filter_eq_self.mpr fun t ht => by simpa using List.any_eq_false.mp h t ht))
    k s.cores s fun hneeds =>
      ⟨s.core k, Tab.mem_of_getD_ne fun hreset => by rw [State.core, hreset] at hneeds; exact Bool.noConfusion hneeds, hneeds⟩

theorem dropTimers_keeps {β : Type} {φ : State → β} (h : ∀ s c f, φ (State.updCore s c f) = φ s) (s : State) (now : Nat) :
    φ (s.dropTimers now) = φ s :=
  foldl_keeps (fun s e => (apply_ite φ _ _ _).trans (by rw [h, ite_self])) _ s

/-- Firing keeps all of a command but its phase. -/
theorem firedCommand_eq (s : State) (c : Command) : s.firedCommand c = { c with phase := (s.firedCommand c).phase } := by
  unfold State.firedCommand
  split
  · split
    · rfl
    · split <;> rfl
  · rfl

theorem id_firedCommand (s : State) (c : Command) : (s.firedCommand c).id = c.id := by rw [firedCommand_eq]

theorem lost_firedCommand (s : State) (c : Command) : (s.firedCommand c).lost = c.lost := by rw [firedCommand_eq]

theorem phase_firedCommand (s : State) (c : Command) :
    (s.firedCommand c).phase =
      if c.phase = .armed then
        if (s.cores.any fun e => e.2.timers.any fun x => x.cmd == c.id && decide (x.time.toNat ≤ s.gtb.toNat)) = true then .queued
        else if c.op = 0x151 ∧ (dval c.d 4).toNat ≤ s.gtb.toNat then .running else .armed
      else c.phase := by
  have hlisted : (s.cores.flatMap fun e => (e.2.timers.filter fun t => decide (t.time.toNat ≤ s.gtb.toNat)).map (·.cmd)).contains c.id =
      s.cores.any fun e => e.2.timers.any fun x => x.cmd == c.id && decide (x.time.toNat ≤ s.gtb.toNat) := by
    rw [Bool.eq_iff_iff]
    simp only [List.contains_iff_mem, List.mem_flatMap, List.mem_map, List.mem_filter, List.any_eq_true, Bool.and_eq_true, beq_iff_eq,
      decide_eq_true_eq]
    exact exists_congr fun e => and_congr_right fun _ => exists_congr fun t => and_right_comm.trans and_assoc
  unfold State.firedCommand
  rw [hlisted]
  split
  · next harmed =>
    split
    · rfl
    · simp only [decide_eq_true_eq]
      split
      · rfl
      · exact harmed
  · rfl

/-- Where no command is lost, what fires is the timers, the commands, and waits of streams (R192). -/
theorem exec_timedActionFire_of_whole {s : State} (h : ∀ c ∈ s.cmds, c.lost = false) :
    ∃ t, exec .timedActionFire s = .next t ∧ OnlySquads { s.dropTimers s.gtb.toNat with cmds := s.cmds.map s.firedCommand } t := by
  have hcmds : (s.dropTimers s.gtb.toNat).cmds = s.cmds := dropTimers_keeps (fun _ _ _ => rfl) ..
  have hlost : ((s.cmds.map s.firedCommand).filter fun c => c.lost && c.phase == .running) = [] := by
    rw [List.filter_eq_nil_iff]
    intro c hc
    obtain ⟨c, hmem, rfl⟩ := List.mem_map.mp hc
    simp [lost_firedCommand, h c hmem]
  change ∃ t, execTimedActionFire s = .next t ∧ _
  unfold execTimedActionFire
  extract_lets now fires cpy s1 fire s2
  have hs1 : s1.cmds.map fire = s.cmds.map s.firedCommand := congrArg (List.map s.firedCommand) hcmds
  have hs2 : s2 = { s.dropTimers s.gtb.toNat with cmds := s.cmds.map s.firedCommand } := by
    simp only [s2, hs1, hlost, List.foldl_nil]
    rfl
  rw [← hs2]
  exact ⟨_, rfl, (onlySquads_mapStreams ..).trans (onlySquads_rearmAll _)⟩

end Sys2Proof.Machine

namespace Sys2Proof.Claim

open Machine

/-- The end of a lap: its fold over the dies changes the dies alone, and with no command and no packet waiting nothing else goes on. -/
theorem lapBoundary_of_quiet {s : State} (hpassed : s.lapNow ≠ s.lap) (hcmds : s.cmds = []) (hwait : s.fab.windowWait = []) :
    ∃ t, exec .lapBoundary s = .next t ∧ t.spent = s.carry ∧ t.lapLog = bits (s.reg Mmio.lapcfg) 4 0 ∧ t.lap = s.gtb.toNat / 2 ^ t.lapLog ∧
      t.wv = s.wv ∧ t.st = s.st ∧ t.mem = s.mem := by
  have hkeeps {β : Type} (φ : State → β) (h : ∀ s d f, φ (State.updDie s d f) = φ s) : φ s.nextLap.releaseOwqs = φ s.nextLap :=
    releaseOwqs_keeps h s.nextLap
  have hlog := hkeeps State.lapLog fun _ _ _ => rfl
  refine ⟨_, exec_lapBoundary_of_passed hpassed, ?_⟩
  rw [resumeFabric_of_no_commands ((hkeeps State.cmds fun _ _ _ => rfl).trans hcmds),
    windowPump_of_none ((congrArg Fabric.windowWait (hkeeps State.fab fun _ _ _ => rfl)).trans hwait)]
  refine ⟨hkeeps State.spent fun _ _ _ => rfl, hlog, (hkeeps State.lap fun _ _ _ => rfl).trans ?_, hkeeps State.wv fun _ _ _ => rfl,
    hkeeps State.st fun _ _ _ => rfl, hkeeps State.mem fun _ _ _ => rfl⟩
  exact congrArg (fun n => s.gtb.toNat / 2 ^ n) hlog.symm

theorem timedActionFire_fields {s : State} (h : ∀ c ∈ s.cmds, c.lost = false) :
    ∃ t, exec .timedActionFire s = .next t ∧ t.mem = s.mem ∧ t.mmio = s.mmio ∧ (∀ k, t.core k = (s.core k).dropTimers s.gtb.toNat) ∧
      t.cmds = s.cmds.map s.firedCommand := by
  obtain ⟨t, hexec, hsquads⟩ := exec_timedActionFire_of_whole h
  have hcore (k : Nat) : t.core k = (s.dropTimers s.gtb.toNat).core k := by rw [hsquads]; rfl
  refine ⟨t, hexec, ?_, ?_, fun k => (hcore k).trans (State.core_dropTimers ..), ?_⟩
  · rw [hsquads]
    exact dropTimers_keeps (φ := State.mem) (fun _ _ _ => rfl) ..
  · rw [hsquads]
    exact dropTimers_keeps (φ := State.mmio) (fun _ _ _ => rfl) ..
  · rw [hsquads]

theorem timeAndWindows : TimeAndWindows := by
  refine ⟨fun who s e hstream hpending hready hdue => ?exchange, fun s c quad => evictee_of_room,
    fun s => ⟨exec_lapBoundary_of_same, lapBoundary_of_quiet⟩, fun s hwhole => ?timed, fun d pa s => rfl, fun d s => ?window⟩
  case exchange =>
    rw [exec_streamExchange_of_exchanges hstream (exchanges_of_due hpending hready hdue), ← who_of_resident? hstream]
    rfl
  case timed =>
    obtain ⟨t, hexec, hmem, hmmio, hcores, hcmds⟩ := timedActionFire_fields hwhole
    refine ⟨t, hexec, hmem, hmmio, fun k => ?_, ?_⟩
    · rw [hcores, Core.dropTimers]
      exact List.filter_congr fun x _ => by rw [← decide_not, decide_eq_decide, not_le]
    · rw [hcmds, List.map_map]
      exact List.map_congr_left fun c _ => Prod.ext (id_firedCommand s c) (phase_firedCommand s c)
  case window =>
    refine ⟨_, rfl, ?_, ?_, fun k hk => ?_, rfl, rfl, rfl⟩
    · rw [State.die_updDie, if_pos rfl]
    · rw [State.die_updDie, if_pos rfl]
    · rw [State.die_updDie, if_neg hk]

end Sys2Proof.Claim

namespace Sys2Proof

/-- Settles O42: a save goes where there is room, a swap waits for what is resident, each wait is tested in its own stream, and what
fires at a time changes the cores' timers, the commands' phases and the streams alone. -/
theorem swapsWaitsAndTime : Obligations.SwapsWaitsAndTime := ⟨Claim.savesAndSwaps, Claim.waitsEnd, Claim.timeAndWindows⟩

end Sys2Proof
end

section
/-! SUPPORT. Number formats: integer results wrapped and clamped (R216), and what one chunk adds to an element of a tile (R217, R218). -/

namespace Sys2Proof.Machine

/-! ### Wrapping and clamping -/

theorem wrapTo_eq_emod (w : Nat) (x : Int) : (wrapTo w x : Int) = x % (2 ^ w : Nat) := by
  have hpos : (0 : Int) < (2 ^ w : Nat) := mod_cast Nat.two_pow_pos w
  rw [wrapTo, BitVec.toNat_ofInt, Int.toNat_of_nonneg (Int.emod_nonneg x hpos.ne')]

theorem intLo_eq (signed : Bool) (w : Nat) : intLo signed w = if signed then -((2 ^ (w - 1) : Nat) : Int) else 0 := by
  rw [intLo]
  norm_cast

theorem intHi_eq (signed : Bool) (w : Nat) :
    intHi signed w = if signed then ((2 ^ (w - 1) : Nat) : Int) - 1 else ((2 ^ w : Nat) : Int) - 1 := by
  rw [intHi]
  norm_cast

theorem intLo_le_intHi (signed : Bool) (w : Nat) : intLo signed w ≤ intHi signed w := by
  have hhalf : (0 : Int) < 2 ^ (w - 1) := by positivity
  have hwhole : (0 : Int) < 2 ^ w := by positivity
  rw [intLo, intHi]
  split <;> omega

theorem narrowTo_wraps (signed : Bool) (w : Nat) (x : Int) : narrowTo signed false w x = (wrapTo w x, 0) := rfl

theorem narrowTo_of_mem_range {signed : Bool} {w : Nat} {x : Int} (hlo : intLo signed w ≤ x) (hhi : x ≤ intHi signed w) :
    narrowTo signed true w x = (wrapTo w x, 0) := by
  rw [narrowTo, if_pos rfl, if_neg hlo.not_gt, if_neg hhi.not_gt]

theorem narrowTo_of_lt {signed : Bool} {w : Nat} {x : Int} (h : x < intLo signed w) :
    narrowTo signed true w x = (wrapTo w (intLo signed w), Flag.sat) := by
  rw [narrowTo, if_pos rfl, if_pos h]

theorem narrowTo_of_gt {signed : Bool} {w : Nat} {x : Int} (h : intHi signed w < x) :
    narrowTo signed true w x = (wrapTo w (intHi signed w), Flag.sat) := by
  have hlo : intLo signed w ≤ x := (intLo_le_intHi signed w).trans h.le
  rw [narrowTo, if_pos rfl, if_neg hlo.not_gt, if_pos h]

/-! ### Chunks -/

/-- Sums that wrap at each addend are the exact sum, wrapped once. -/
theorem foldl_add_ofInt {α : Type} {w : Nat} (g : α → Int) (l : List α) (acc : BitVec w) :
    l.foldl (fun u x => u + BitVec.ofInt w (g x)) acc = acc + BitVec.ofInt w (l.map g).sum := by
  induction l generalizing acc with
  | nil => simp
  | cons x r ih => rw [List.foldl_cons, ih, List.map_cons, List.sum_cons, BitVec.ofInt_add, BitVec.add_assoc]

theorem chunkElem_int8 (imm acc : W32) (a b sa sb : List Nat) :
    chunkElem 0x122 imm acc a b sa sb =
      acc + BitVec.ofInt 32 (((a.zip b).map fun x => int8Of (imm.getLsbD 18) x.1 * int8Of (imm.getLsbD 20) x.2).sum) := by
  rw [chunkElem, if_pos rfl]
  exact foldl_add_ofInt _ _ _

/-- The product of two FP8 codes, in the formats that IMM32 gives the operands. -/
def fp8Product (imm : W32) (x : Nat × Nat) : FVal :=
  (((mmaFmt 0x120 imm false).decode x.1).mul ((mmaFmt 0x120 imm true).decode x.2)).1

/-- FP8 products have no scales: whatever stands beside the codes, one exact sum is added. -/
theorem chunkElem_fp8 (imm acc : W32) {a b sa sb : List Nat} (h : (a.zip b).length ≤ (sa.zip sb).length) :
    chunkElem 0x120 imm acc a b sa sb = chunkAdd acc (chunkSum false ((a.zip b).map (fp8Product imm))) := by
  have hproducts : ((a.zip b).zip (sa.zip sb)).map (fun x => fp8Product imm x.1) = (a.zip b).map (fp8Product imm) := by
    rw [← List.map_fst_zip h, List.map_map, List.map_fst_zip h]
    rfl
  rw [← hproducts, chunkElem, if_neg (by decide)]
  rfl

end Sys2Proof.Machine

namespace Sys2Proof

open Machine

/-- Settles O60: a result is wrapped; past an end of its type's range, a saturating one is that end, and FLG.SAT is set. -/
theorem integerNarrowing : Obligations.IntegerNarrowing := by
  intro signed w x _ lo hi
  have hlo : lo = intLo signed w := (intLo_eq signed w).symm
  have hhi : hi = intHi signed w := (intHi_eq signed w).symm
  rw [hlo, hhi, narrowTo_wraps]
  refine ⟨⟨wrapTo_eq_emod w x, rfl⟩, narrowTo_of_mem_range, fun hbelow => ?below, fun habove => ?above⟩
  case below =>
    rw [narrowTo_of_lt hbelow]
    exact ⟨wrapTo_eq_emod w _, rfl⟩
  case above =>
    rw [narrowTo_of_gt habove]
    exact ⟨wrapTo_eq_emod w _, rfl⟩

/-- Settles O27: INT8 sums wrap as one sum does, and FP8 products are summed exactly before the one rounding. -/
theorem chunkArithmetic : Obligations.ChunkArithmetic := by
  refine ⟨chunkElem_int8, fun imm acc a b _ => ?_⟩
  rw [chunkElem_fp8 imm acc (by simp)]
  rfl

end Sys2Proof
end

section
/-! SUPPORT. System instructions (R209, R210, R262, R265 to R268, R364) past their checks: FMT and the rounding states it seeds, time,
FENCEI, and what the supervisor and the handler see. -/

namespace Sys2Proof.Machine

open Claim

/-! ### FMT -/

theorem State.withLfsr_st (s : State) (x : Tab W32) : (s.withLfsr x).st = s.st := rfl

theorem State.setLfsr_st (s : State) (l : Nat) (x : W32) : (s.setLfsr l x).st = s.st := by
  rw [State.setLfsr_eq, State.withLfsr_st]

/-- Reseeds the rounding state of a lane where it is active (R209). -/
def State.reseed (s : State) (fmt : W64) (l : Nat) : State := if s.st.exec.getLsbD l then s.setLfsr l (seedOf fmt l) else s

theorem State.reseed_st (s : State) (fmt : W64) (l : Nat) : (s.reseed fmt l).st = s.st := by
  rw [State.reseed]
  split
  · exact s.setLfsr_st l _
  · rfl

theorem State.lfsr_reseed (s : State) (fmt : W64) (k l : Nat) :
    (s.reseed fmt k).lfsr l = if l = k ∧ s.st.exec.getLsbD l then seedOf fmt l else s.lfsr l := by
  rw [State.reseed]
  split
  · next hactive =>
    rw [State.setLfsr_lfsr]
    by_cases hl : l = k
    · simp [hl, hactive]
    · simp [hl]
  · next hidle => rw [if_neg (by rintro ⟨rfl, h⟩; exact hidle h)]

theorem State.reseedAll_st (fmt : W64) (ls : List Nat) (s : State) : (ls.foldl (State.reseed · fmt ·) s).st = s.st := by
  induction ls generalizing s with
  | nil => rfl
  | cons k r ih => rw [List.foldl_cons, ih, State.reseed_st]

/-- A seed does not depend on the state it replaces: the active lanes of a list are seeded, in any order. -/
theorem State.lfsr_reseedAll (fmt : W64) (ls : List Nat) (s : State) (l : Nat) :
    (ls.foldl (State.reseed · fmt ·) s).lfsr l = if l ∈ ls ∧ s.st.exec.getLsbD l then seedOf fmt l else s.lfsr l := by
  induction ls generalizing s with
  | nil => simp
  | cons k r ih =>
    rw [List.foldl_cons, ih, State.reseed_st, State.lfsr_reseed]
    grind

theorem State.setFmt_eq (s : State) (v : W64) :
    s.setFmt v = lanes.foldl (State.reseed · (fmtWrite v) ·) { s with st := { s.st with fmt := fmtWrite v } } := rfl

theorem State.setFmt_st (s : State) (v : W64) : (s.setFmt v).st = { s.st with fmt := fmtWrite v } := by
  rw [State.setFmt_eq, State.reseedAll_st]

theorem State.lfsr_setFmt (s : State) (v : W64) {l : Nat} (hl : l < 64) :
    (s.setFmt v).lfsr l = if s.st.exec.getLsbD l then seedOf (fmtWrite v) l else s.lfsr l := by
  rw [State.setFmt_eq, State.lfsr_reseedAll]
  simp only [mem_lanes, hl, true_and]
  rfl

theorem exec_setfmt_of_passes {f : QF} {s : State} (h : passes s (.setfmt f)) :
    let seed : W32 := if f.code.getLsbD 15 then (s.sval f.a 0 none).setWidth 32 else (s.st.fmt >>> 32).setWidth 32
    exec (.setfmt f) s =
      .next (((s.landed (.setfmt f)).setFmt ((seed.setWidth 64 <<< 32) ||| (f.code.setWidth 64 &&& 0x703))).retire f.h) := by
  change execSetfmt f s = _
  exact checked_of_passes h _

theorem exec_getfmt_of_passes {f : QF} {s : State} (h : passes s (.getfmt f)) :
    exec (.getfmt f) s = .next (((s.landed (.getfmt f)).writeS f.dst.toNat s.st.fmt 2).retire f.h) := by
  change execGetfmt f s = _
  exact checked_of_passes h _

/-! ### Time and FENCEI -/

theorem exec_time_of_passes {f : QF} {s : State} (h : passes s (.time f)) :
    exec (.time f) s = .next (((s.landed (.time f)).writeTracked f.dst.toNat s.gtb 12).retire f.h) := by
  change execTime f s = _
  exact checked_of_passes h _

theorem exec_waitt_of_passes {f : QF} {s : State} (h : passes s (.waitt f)) :
    let s0 := s.landed (.waitt f)
    let t := s.sval f.a 0 none
    exec (.waitt f) s = if t.toNat ≤ s.gtb.toNat then .next (s0.retire f.h)
      else if 16 ≤ s0.timersUsed s.sq.core then .next (s0.hold .blocked) else .next ((s0.retire f.h).hold (.timed t)) := by
  change execWaitt f s = _
  exact checked_of_passes h _

/-- What FENCEI does once its release has been made: the core's instruction cache and the line held are given up (R268). -/
def State.emptyIcache (s : State) (h : Head) : State :=
  let s1 := (s.updCore s.sq.core fun c => { c with icache := [] }).retire h
  { s1 with st := { s1.st with line := none } }

theorem core_emptyIcache (s : State) (h : Head) (c : Nat) :
    (s.emptyIcache h).core c = if c = s.sq.core then { s.core s.sq.core with icache := [] } else s.core c :=
  State.core_updCore s s.sq.core c fun x => { x with icache := [] }

theorem emptyIcache_fields (s : State) (h : Head) :
    let t := s.emptyIcache h
    t.st.pc = s.st.npc ∧ t.st.line = none ∧ t.wv = s.wv ∧ t.mem = s.mem ∧ t.dies = s.dies := ⟨rfl, rfl, rfl, rfl, rfl⟩

theorem exec_fencei_of_passes {f : QF} {s : State} (h : passes s (.fencei f)) :
    exec (.fencei f) s = releasing (s.landed (.fencei f)) .rel fun s => .next (s.emptyIcache f.h) := by
  change execFencei f s = _
  exact checked_of_passes h _

theorem exec_fencei_of_owed {f : QF} {s : State} (h : passes s (.fencei f)) (howed : s.windowOwed = true) :
    exec (.fencei f) s = .next ((s.landed (.fencei f)).hold .blocked) := by
  have howed' : (s.landed (.fencei f)).windowOwed = true := howed
  rw [exec_fencei_of_passes h, releasing, if_pos (by decide), if_pos howed']

theorem exec_fencei_of_free {f : QF} {s : State} (h : passes s (.fencei f)) (hfree : s.windowOwed = false) :
    exec (.fencei f) s = .next ((s.landed (.fencei f)).flushMine.emptyIcache f.h) := by
  have hfree' : (s.landed (.fencei f)).windowOwed = false := hfree
  rw [exec_fencei_of_passes h, releasing_free fun _ => hfree', if_pos (by decide)]

/-! ### TRAP, breakpoints, service calls and ERRACK -/

theorem exec_trap_of_passes {f : QF} {s : State} (h : passes s (.trap f)) :
    exec (.trap f) s = .next ((s.landed (.trap f)).trap
      { code := Cause.swtrap, tpc := s.st.npc, mask := s.st.exec, info0 := f.code.setWidth 64, info1 := s.sval f.a 0 none }) := by
  change execTrap f s = _
  exact checked_of_passes h _

theorem exec_bkpt_of_passes {f : QF} {s : State} (h : passes s (.bkpt f)) :
    let s1 := (s.landed (.bkpt f)).retire f.h
    exec (.bkpt f) s = if (s.part s.sq.inst.part 0).getLsbD 8 then
      .next ({ s1 with wv := { s1.wv with bkpt := some f.code } }.note (.breakpoint s.me f.code)) else .next s1 := by
  change execBkpt f s = _
  exact checked_of_passes h _

/-- The call that an SVC leaves with its die (R267). -/
def State.svcCall (s : State) (f : QF) : SvcCall :=
  { who := s.me, code := f.code, arg := s.sval f.a 0 none, path := s.sq.inst.path, reply := none }

/-- The stream has made its call and waits for the reply. -/
def State.svcSent (s : State) (f : QF) : State :=
  ((s.updDie (dieOfCore s.sq.core) fun d => { d with svc := d.svc ++ [s.svcCall f] }).retire f.h).hold (.svc f.dst)

theorem die_svcSent (s : State) (f : QF) (d : Nat) : (s.svcSent f).die d =
    if d = dieOfCore s.sq.core then { s.die (dieOfCore s.sq.core) with svc := (s.die (dieOfCore s.sq.core)).svc ++ [s.svcCall f] }
    else s.die d :=
  State.die_updDie s (dieOfCore s.sq.core) d fun x => { x with svc := x.svc ++ [s.svcCall f] }

theorem exec_svc_of_passes {f : QF} {s : State} (h : passes s (.svc f)) :
    exec (.svc f) s = .next ((s.landed (.svc f)).svcSent f) := by
  change execSvc f s = _
  exact checked_of_passes h _

theorem exec_errack_of_passes {f : QF} {s : State} (h : passes s (.errack f)) :
    let s0 := s.landed (.errack f)
    exec (.errack f) s = if !s.st.trap.hmode then prot s0 0xA else .next
      (({ s0 with st := { s0.st with trap := { s0.st.trap with ack := true } } }.writeS f.dst.toNat (if s.st.trap.pend then 1 else 0)).retire
        f.h) := by
  change execErrack f s = _
  exact checked_of_passes h _

/-! ### RTE -/

/-- The stream as RTE restores it: it issues again when every outstanding write has landed (R364). -/
def State.returned (s : State) (h : Head) : State :=
  let s1 := s.returnFromTrap
  { s1 with st := { s1.st with readyAt := max (s.wv.inflight.foldl (fun a e => max a e.land) s.cycle) (s.cycle + stallOf h),
                               issued := s1.st.issued + stallOf h, dist := [], lap := 0 } }

/-- Without a wave that waits for time the exhaustion is over (R159). -/
theorem State.afterOvertime_of_none {s : State} (h : s.sq.overtime = none) :
    s.afterOvertime = { s with sq := { s.sq with overdue := false } } :=
  if_neg (by simp [h])

theorem exec_rte_outside {f : QF} {s : State} (h : passes s (.rte f)) (hmode : s.st.trap.hmode = false) :
    exec (.rte f) s = prot (s.landed (.rte f)) 0xA := by
  change execRte f s = _
  exact (checked_of_passes h _).trans (if_pos ((Bool.not_eq_true' _).mpr hmode))

/-- RTE with lanes left to go on, no error pending and no wave waiting for time: the stream is restored, and where time had run out
its squad is overdue no longer. -/
theorem exec_rte_of_lanes {f : QF} {s : State} (h : passes s (.rte f)) (hmode : s.st.trap.hmode = true)
    (hlanes : s.st.trap.exec &&& ~~~s.st.trap.hexit ≠ 0) (hpend : s.st.trap.pend = false) (hovertime : s.sq.overtime = none) :
    let t := (s.landed (.rte f)).returned f.h
    exec (.rte f) s = .next (if s.st.trap.ofTime then { t with sq := { t.sq with overdue := false } } else t) := by
  intro t
  have hrestored : t.st.exec ≠ 0 := hlanes
  have hclear : t.st.trap.pend ≠ true := Bool.eq_false_iff.mp hpend
  have hafter : t.afterOvertime = { t with sq := { t.sq with overdue := false } } := State.afterOvertime_of_none hovertime
  have hexec : exec (.rte f) s = if !s.st.trap.hmode then prot (s.landed (.rte f)) 0xA
      else .next (if t.st.exec = 0 then (if s.st.trap.ofTime then t.markOverdue else t).drained
        else if s.st.trap.ofTime then (if t.st.trap.pend then t.markOverdue.enterPending else t.afterOvertime)
        else if t.st.trap.pend then t.enterPending else t) := by
    change execRte f s = _
    exact checked_of_passes h _
  rw [hexec, if_neg (by simp [hmode]), if_neg hrestored, if_neg hclear, if_neg hclear, hafter]

end Sys2Proof.Machine

namespace Sys2Proof.Claim

open Machine

theorem formatTimeAndFencei : FormatTimeAndFencei := by
  refine ⟨fun f s => exec_setfmt_of_passes, fun s v => ⟨s.setFmt_st v, fun l => s.lfsr_setFmt v⟩,
    fun f s => exec_getfmt_of_passes, fun f s => exec_time_of_passes, fun f s h => ?waitt, fun f s h => ?fencei⟩
  case waitt =>
    refine ⟨fun hpast => ?_, fun hahead hroom => ?_, fun hahead hfull => ?_⟩ <;> rw [exec_waitt_of_passes h]
    · rw [if_pos hpast]
    · rw [if_neg hahead.not_ge, if_neg hroom.not_ge]
    · rw [if_neg hahead.not_ge, if_pos hfull]
  case fencei =>
    refine ⟨exec_fencei_of_owed h, fun hfree => ⟨_, exec_fencei_of_free h hfree, ?_, fun c hother => ?_, emptyIcache_fields ..⟩⟩
    · rw [core_emptyIcache, if_pos rfl]
    · rw [core_emptyIcache, if_neg hother]

theorem supervisorInstructions : SupervisorInstructions := by
  refine ⟨fun f s => exec_trap_of_passes, fun f s h => ?bkpt, fun f s h => ?svc, fun f s h => ?errack, fun f s h => ?rte⟩
  case bkpt =>
    rw [exec_bkpt_of_passes h]
    exact ⟨fun hoff => if_neg (Bool.eq_false_iff.mp hoff), fun hon => if_pos hon⟩
  case svc =>
    refine ⟨_, exec_svc_of_passes h, rfl, rfl, ?_⟩
    exact congrArg Die.svc ((die_svcSent ..).trans (if_pos rfl))
  case errack =>
    rw [exec_errack_of_passes h]
    exact ⟨fun hin => if_neg (by simp [hin]), fun hout => if_pos ((Bool.not_eq_true' _).mpr hout)⟩
  case rte =>
    refine ⟨exec_rte_outside h, fun hmode hlanes hpend hovertime => ?_⟩
    refine ⟨_, exec_rte_of_lanes h hmode hlanes hpend hovertime, ?_⟩
    split <;> exact ⟨rfl, rfl, rfl, rfl, rfl, rfl, rfl, rfl, rfl⟩

end Sys2Proof.Claim

namespace Sys2Proof

/-- Settles O19: each system instruction past its checks is its branch; FENCEI ends its release first, ERRACK acknowledges at once
(log 39), and RTE gives the stream back what its trap kept, the wait under its handler with it (log 43). -/
theorem systemInstructions : Obligations.SystemInstructions := ⟨Claim.formatTimeAndFencei, Claim.supervisorInstructions⟩

end Sys2Proof
end

section
/-! SUPPORT. The encoding (R228, R232, R233, R238, R241, R242): a slot is the packing of the fields that are parsed from it, the opcode
map's two directions, and the round trip of decoding and encoding. -/

namespace Sys2Proof

/-! ### Codes of the fields -/

/-- A word that unpacks to some fields, each up to its width, is their packing. -/
theorem pack_eq_of_unpack {l : List (Nat × Nat)} {w : Nat} (hw : w < 2 ^ (l.map (·.1)).sum)
    (h : l.map (fun e => e.2 % 2 ^ e.1) = unpack (l.map (·.1)) w) : pack l = w := by
  induction l generalizing w with
  | nil =>
    have hzero : w = 0 := by simpa using hw
    exact hzero.symm
  | cons e r ih =>
    obtain ⟨n, v⟩ := e
    obtain ⟨hfield, hrest⟩ := List.cons.inj h
    rw [List.map_cons, List.sum_cons, Nat.pow_add] at hw
    calc v % 2 ^ n + 2 ^ n * pack r = w % 2 ^ n + 2 ^ n * (w / 2 ^ n) := by
          rw [ih (Nat.div_lt_of_lt_mul hw) hrest]; exact congrArg (· + _) hfield
      _ = w := Nat.mod_add_div w _

theorem Src.code_ofCode {n : Nat} {x : Src} (h : Src.ofCode (n % 2 ^ 10) = some x) : x.code = n % 2 ^ 10 := by
  unfold Src.ofCode at h
  split at h
  case h_2 =>
    split at h
    · cases h; simp only [Src.code, BitVec.toNat_ofNat]; omega
    · cases h
  case h_5 => cases h
  all_goals cases h; simp only [Src.code, BitVec.toNat_ofNat]; omega

theorem Reg.code_ofCode {n : Nat} {x : Reg} (h : Reg.ofCode n = some x) : x.code = n := by
  unfold Reg.ofCode at h
  split at h
  · cases h; simp only [Reg.code, BitVec.toNat_ofNat]; omega
  · split at h
    · cases h; simp only [Reg.code, BitVec.toNat_ofNat]; omega
    · cases h

theorem dstCode_dstOfCode {n : Nat} {x : Option Reg} (h : dstOfCode n = some x) : dstCode x = n := by
  unfold dstOfCode at h
  split at h
  · next hn => cases h; exact hn.symm
  · obtain ⟨r, hr, rfl⟩ := Option.map_eq_some_iff.mp h
    exact Reg.code_ofCode hr

theorem Cond.code_ofCode {n : Nat} {x : Cond} (h : Cond.ofCode n = some x) : x.code = n := by
  unfold Cond.ofCode at h; split at h <;> cases h <;> rfl
theorem BCond.code_ofCode {n : Nat} {x : BCond} (h : BCond.ofCode n = some x) : x.code = n := by
  unfold BCond.ofCode at h; split at h <;> cases h <;> rfl
theorem ETy.code_ofCode {n : Nat} {x : ETy} (h : ETy.ofCode n = some x) : x.code = n := by
  unfold ETy.ofCode at h; split at h <;> cases h <;> rfl
theorem Space.code_ofCode {n : Nat} {x : Space} (h : Space.ofCode n = some x) : x.code = n := by
  unfold Space.ofCode at h; split at h <;> cases h <;> rfl
theorem Width.code_ofCode {n : Nat} {x : Width} (h : Width.ofCode n = some x) : x.code = n := by
  unfold Width.ofCode at h; split at h <;> cases h <;> rfl
theorem Order.code_ofCode {n : Nat} {x : Order} (h : Order.ofCode n = some x) : x.code = n := by
  unfold Order.ofCode at h; split at h <;> cases h <;> rfl
theorem Scope.code_ofCode {n : Nat} {x : Scope} (h : Scope.ofCode n = some x) : x.code = n := by
  unfold Scope.ofCode at h; split at h <;> cases h <;> rfl
theorem Aop.code_ofCode {n : Nat} {x : Aop} (h : Aop.ofCode n = some x) : x.code = n := by
  unfold Aop.ofCode at h; split at h <;> cases h <;> rfl

@[simp] theorem bit_beq_one (n : Nat) : bit (n % 2 ^ 1 == 1) = n % 2 ^ 1 := by
  rcases Nat.mod_two_eq_zero_or_one n with h | h <;> simp [bit, h]

theorem bit_beq_one_of_lt {n : Nat} (h : n < 2) : bit (n == 1) = n := by
  interval_cases n <;> rfl

/-- The nine bits of an opcode are a slot's first field (R233). -/
theorem opcode_mod (w : Nat) : w % 512 % 2 ^ 9 = w % 2 ^ 9 := Nat.mod_mod w 512

/-! ### Slots -/

theorem pack_eq_slot {l : List (Nat × Nat)} {ns : List Nat} {w : Nat} (hns : l.map (·.1) = ns) (hsum : ns.sum = 96) (hw : w < 2 ^ 96)
    (h : l.map (fun e => e.2 % 2 ^ e.1) = unpack ns w) : pack l = w := by
  subst hns
  exact pack_eq_of_unpack (hsum ▸ hw) h

theorem SF.pack_of_parse {w : Nat} {ext : Option Ext} {f : SF} (hw : w < 2 ^ 96) (h : SF.parse w ext = some f) :
    f.pack (w % 512) = w ∧ f.ext = ext := by
  simp only [SF.parse, widthsS, unpack] at h
  split at h
  case h_2 => cases h
  next a b cond ha hb hcond =>
  split at h
  case isFalse => cases h
  next hres =>
  cases h
  refine ⟨pack_eq_slot (ns := widthsS) rfl rfl hw ?_, rfl⟩
  simp only [Head.fields, Head.ofFields, List.cons_append, List.nil_append, List.map_cons, List.map_nil, widthsS, unpack, BitVec.toNat_ofNat,
    bit_beq_one, Src.code_ofCode ha, Src.code_ofCode hb, Cond.code_ofCode hcond, hres, opcode_mod, Nat.mod_mod, Nat.zero_mod]

theorem VF.pack_of_parse {w : Nat} {ext : Option Ext} {f : VF} (hw : w < 2 ^ 96) (h : VF.parse w ext = some f) :
    f.pack (w % 512) = w ∧ f.ext = ext := by
  simp only [VF.parse, widthsV, unpack] at h
  split at h
  case h_2 => cases h
  next a b c ty ha hb hc hty =>
  split at h
  case isFalse => cases h
  next hres =>
  obtain ⟨hdst, hzero⟩ := hres
  cases h
  refine ⟨pack_eq_slot (ns := widthsV) rfl rfl hw ?_, rfl⟩
  simp only [Head.fields, Head.ofFields, List.cons_append, List.nil_append, List.map_cons, List.map_nil, widthsV, unpack, BitVec.toNat_ofNat,
    bit_beq_one, Src.code_ofCode ha, Src.code_ofCode hb, Src.code_ofCode hc, ETy.code_ofCode hty, Nat.mod_eq_of_lt hdst, hzero, opcode_mod,
    Nat.mod_mod, Nat.zero_mod]

theorem BF.pack_of_parse {w : Nat} {f : BF} (hw : w < 2 ^ 96) (h : BF.parse w = some f) : f.pack (w % 512) = w := by
  simp only [BF.parse, widthsB, unpack] at h
  split at h
  case h_2 => cases h
  next cond hcond =>
  split at h
  case isFalse => cases h
  next hres =>
  cases h
  refine pack_eq_slot (ns := widthsB) rfl rfl hw ?_
  simp only [Head.fields, Head.ofFields, List.cons_append, List.nil_append, List.map_cons, List.map_nil, widthsB, unpack, BitVec.toNat_ofNat,
    bit_beq_one, BCond.code_ofCode hcond, hres, opcode_mod, Nat.mod_mod, Nat.zero_mod]

theorem MF.pack_of_parse {w : Nat} {ext : Option Ext} {f : MF} (hw : w < 2 ^ 96) (h : MF.parse w ext = some f) :
    f.pack (w % 512) = w ∧ f.ext = ext := by
  simp only [MF.parse, widthsM, unpack] at h
  split at h
  case h_2 => cases h
  next data index width space order scope hdata hindex hwidth hspace horder hscope =>
  split at h
  case isFalse => cases h
  next hres =>
  cases h
  refine ⟨pack_eq_slot (ns := widthsM) rfl rfl hw ?_, rfl⟩
  simp only [Head.fields, Head.ofFields, List.cons_append, List.nil_append, List.map_cons, List.map_nil, widthsM, unpack, BitVec.toNat_ofNat,
    bit_beq_one, Reg.code_ofCode hdata, Src.code_ofCode hindex, Width.code_ofCode hwidth, Space.code_ofCode hspace, Order.code_ofCode horder,
    Scope.code_ofCode hscope, hres, opcode_mod, Nat.mod_mod, Nat.zero_mod]

theorem AF.pack_of_parse {w : Nat} {f : AF} (hw : w < 2 ^ 96) (h : AF.parse w = some f) : f.pack (w % 512) = w := by
  simp only [AF.parse, widthsA, unpack] at h
  split at h
  case h_2 => cases h
  next dst val cmp index hdst hval hcmp hindex =>
  split at h
  case h_2 => cases h
  next ords ordf scope aop hords hordf hscope haop =>
  split at h
  case isFalse => cases h
  next hres =>
  cases h
  refine pack_eq_slot (ns := widthsA) rfl rfl hw ?_
  simp only [Head.fields, Head.ofFields, List.cons_append, List.nil_append, List.map_cons, List.map_nil, widthsA, unpack, BitVec.toNat_ofNat,
    bit_beq_one, bit_beq_one_of_lt hres, dstCode_dstOfCode hdst, Src.code_ofCode hval, Src.code_ofCode hcmp, Src.code_ofCode hindex,
    Order.code_ofCode hords, Order.code_ofCode hordf, Scope.code_ofCode hscope, Aop.code_ofCode haop, opcode_mod, Nat.mod_mod]

theorem XF.pack_of_parse {w : Nat} {f : XF} (hw : w < 2 ^ 96) (h : XF.parse w = some f) : f.pack (w % 512) = w := by
  simp only [XF.parse, widthsX, unpack] at h
  split at h
  case isFalse => cases h
  next hres =>
  cases h
  refine pack_eq_slot (ns := widthsX) rfl rfl hw ?_
  simp only [Head.fields, Head.ofFields, List.cons_append, List.nil_append, List.map_cons, List.map_nil, widthsX, unpack, BitVec.toNat_ofNat,
    bit_beq_one, hres, opcode_mod, Nat.mod_mod, Nat.zero_mod]

theorem QF.pack_of_parse {w : Nat} {f : QF} (hw : w < 2 ^ 96) (h : QF.parse w = some f) : f.pack (w % 512) = w := by
  simp only [QF.parse, widthsQ, unpack] at h
  split at h
  case h_2 => cases h
  next a ha =>
  split at h
  case isFalse => cases h
  next hres =>
  cases h
  refine pack_eq_slot (ns := widthsQ) rfl rfl hw ?_
  simp only [Head.fields, Head.ofFields, List.cons_append, List.nil_append, List.map_cons, List.map_nil, widthsQ, unpack, BitVec.toNat_ofNat,
    bit_beq_one, Src.code_ofCode ha, hres, opcode_mod, Nat.mod_mod, Nat.zero_mod]

/-! ### The opcode map (R242) -/

theorem shape_of_buildS {op : Nat} {f : SF} {i : Instr} (h : buildS op f = some i) : ∃ r, i.shape = .s op r f := by
  unfold buildS at h
  split at h
  all_goals cases h
  all_goals exact ⟨_, rfl⟩

theorem shape_of_buildV {op : Nat} {f : VF} {i : Instr} (h : buildV op f = some i) : ∃ r, i.shape = .v op r f := by
  unfold buildV at h
  split at h
  all_goals cases h
  all_goals exact ⟨_, rfl⟩

theorem shape_of_buildB {op : Nat} {f : BF} {i : Instr} (h : buildB op f = some i) : ∃ r, i.shape = .b op r f := by
  unfold buildB at h
  split at h
  all_goals cases h
  all_goals exact ⟨_, rfl⟩

theorem shape_of_buildQ {op : Nat} {f : QF} {i : Instr} (h : buildQ op f = some i) : ∃ r, i.shape = .q op r f := by
  unfold buildQ at h
  split at h
  all_goals cases h
  all_goals exact ⟨_, rfl⟩

theorem shape_of_buildM {op : Nat} {f : MF} {i : Instr} (h : buildM op f = some i) : ∃ r, i.shape = .m op r f := by
  unfold buildM at h
  split at h
  all_goals cases h
  all_goals exact ⟨_, rfl⟩

theorem shape_of_buildA {op : Nat} {f : AF} {i : Instr} (h : buildA op f = some i) : ∃ r, i.shape = .a op r f := by
  unfold buildA at h
  split at h
  all_goals cases h
  all_goals exact ⟨_, rfl⟩

/-- FMTA tells the two rows of 0x121 apart (R326). -/
theorem shape_of_mma16 (f : XF) : ∃ r, (if Rule.fmtA f.imm = 0 then Instr.mmaBf16 f else .mmaF16 f).shape = .x 0x121 r f := by
  split <;> exact ⟨_, rfl⟩

theorem shape_of_buildX {op : Nat} {f : XF} {i : Instr} (h : buildX op f = some i) : ∃ r, i.shape = .x op r f := by
  unfold buildX at h
  split at h
  case h_2 => cases h; exact shape_of_mma16 f
  all_goals cases h
  all_goals exact ⟨_, rfl⟩

/-! ### What decodes -/

/-- What a slot's bits name comes from one format's fields and opcodes (R238, R242). -/
theorem parseSlot_ok {w : Nat} {ext : Option Ext} {i : Instr} (h : parseSlot w ext = .ok i) :
    (∃ f, SF.parse w ext = some f ∧ buildS (w % 512) f = some i) ∨ (∃ f, VF.parse w ext = some f ∧ buildV (w % 512) f = some i) ∨
    (∃ f, BF.parse w = some f ∧ buildB (w % 512) f = some i) ∨ (∃ f, QF.parse w = some f ∧ buildQ (w % 512) f = some i) ∨
    (∃ f, MF.parse w ext = some f ∧ buildM (w % 512) f = some i) ∨ (∃ f, AF.parse w = some f ∧ buildA (w % 512) f = some i) ∨
    ∃ f, XF.parse w = some f ∧ buildX (w % 512) f = some i := by
  simp only [parseSlot] at h
  split at h
  case h_1 => cases h
  all_goals split at h
  all_goals cases h
  · next hs => exact .inl (Option.bind_eq_some_iff.mp hs)
  · next hv => exact .inr (.inl (Option.bind_eq_some_iff.mp hv))
  · next hb => exact .inr (.inr (.inl (Option.bind_eq_some_iff.mp hb)))
  · next hq => exact .inr (.inr (.inr (.inl (Option.bind_eq_some_iff.mp hq))))
  · next hm => exact .inr (.inr (.inr (.inr (.inl (Option.bind_eq_some_iff.mp hm)))))
  · next ha => exact .inr (.inr (.inr (.inr (.inr (.inl (Option.bind_eq_some_iff.mp ha))))))
  · next hx => exact .inr (.inr (.inr (.inr (.inr (.inr (Option.bind_eq_some_iff.mp hx))))))

/-- What a slot's bits name is encoded by them; a format that a JOIN bit may head keeps the extension slot (R232). -/
theorem encodeSlot_of_parseSlot {w : Nat} {ext : Option Ext} {i : Instr} (hw : w < 2 ^ 96) (h : parseSlot w ext = .ok i) :
    encodeSlot i = some w ∧ (i.shape.joinable = true → i.ext = ext) := by
  obtain ⟨f, hf, hi⟩ | ⟨f, hf, hi⟩ | ⟨f, hf, hi⟩ | ⟨f, hf, hi⟩ | ⟨f, hf, hi⟩ | ⟨f, hf, hi⟩ | ⟨f, hf, hi⟩ := parseSlot_ok h
  · obtain ⟨r, hr⟩ := shape_of_buildS hi
    obtain ⟨hpack, hext⟩ := SF.pack_of_parse hw hf
    simp [encodeSlot, Instr.ext, hr, hpack, hext]
  · obtain ⟨r, hr⟩ := shape_of_buildV hi
    obtain ⟨hpack, hext⟩ := VF.pack_of_parse hw hf
    simp [encodeSlot, Instr.ext, hr, hpack, hext]
  · obtain ⟨r, hr⟩ := shape_of_buildB hi
    simp [encodeSlot, Shape.joinable, hr, BF.pack_of_parse hw hf]
  · obtain ⟨r, hr⟩ := shape_of_buildQ hi
    simp [encodeSlot, Shape.joinable, hr, QF.pack_of_parse hw hf]
  · obtain ⟨r, hr⟩ := shape_of_buildM hi
    obtain ⟨hpack, hext⟩ := MF.pack_of_parse hw hf
    simp [encodeSlot, Instr.ext, hr, hpack, hext]
  · obtain ⟨r, hr⟩ := shape_of_buildA hi
    simp [encodeSlot, Shape.joinable, hr, AF.pack_of_parse hw hf]
  · obtain ⟨r, hr⟩ := shape_of_buildX hi
    simp [encodeSlot, Shape.joinable, hr, XF.pack_of_parse hw hf]

/-- Only the formats that a JOIN bit may head have an extension slot (R232). -/
theorem Instr.ext_of_not_joinable {i : Instr} (h : i.shape.joinable = false) : i.ext = none := by
  unfold Instr.ext
  cases hs : i.shape <;> simp_all [Shape.joinable]

/-- What decodes has passed the checks of R232 and R241. -/
theorem decodeSlot_ok {w : Nat} {ext : Option Ext} {i : Instr} (h : decodeSlot w ext = .ok i) :
    parseSlot w ext = .ok i ∧ (ext.isSome && !i.shape.joinable) = false ∧ i.legal = true := by
  unfold decodeSlot at h
  split at h
  case h_1 => cases h
  next j hj =>
  split at h
  case isTrue => cases h
  next hjoin =>
  split at h
  case isFalse => cases h
  next hlegal =>
  cases h
  exact ⟨hj, Bool.eq_false_iff.mpr hjoin, hlegal⟩

/-- Settles O57: the opcode map names no opcode twice, every field is recovered from its code, and a reserved bit is zero. -/
theorem encodeAfterDecode : Obligations.EncodeAfterDecode := by
  intro w ext i hw h
  obtain ⟨hparse, hjoin, hlegal⟩ := decodeSlot_ok h
  obtain ⟨hword, hext⟩ := encodeSlot_of_parseSlot hw hparse
  refine ⟨hlegal, ?_, hword⟩
  cases hj : i.shape.joinable
  case true => exact hext hj
  case false =>
    rw [Instr.ext_of_not_joinable hj]
    rw [hj, Bool.not_false, Bool.and_true, Option.isSome_eq_false_iff, Option.isNone_iff_eq_none] at hjoin
    exact hjoin.symm

/-- Every instruction's slot is parsed back to it: one lemma of `Laws.Wf` per constructor, in their order. -/
theorem Laws.Wf.statement (i : Instr) : Laws.Wf.Statement i :=
  open Laws.Wf in i.casesOn (motive := Statement)
    sadd ssub smul smulhI smulhN sdivI sdivN sremI sremN sand sor sxor sandn sshl sshr ssra srot sminI sminN smaxI smaxN scmpI
    scmpN ssel smov sli sclz spopc sbfxI sbfxN sbfi saddr ssext sabs sfadd sfmul sffma sfdiv sfsqrt sfmin sfmax sfcmp sfcvt bra
    brv jmp jmpv call ret rjoin detach loop exit tend yield nap nop trap rte xrd xwr xset xclr setfmt getfmt time waitt bkpt
    errack svc fencei vadd vsub vmul vmulhI vmulhN vmulwI vmulwN vmad vand vor vxor vandn vshl vshls vshr vsra vrot vminI vminN
    vmaxI vmaxN vclampI vclampN vabsdI vabsdN vavgI vavgN vaddsI vaddsN vsubsI vsubsN vdot2I vdot2N vdot4I vdot4N vrshrI vrshrN
    vnarrowI vnarrowN vwidenI vwidenN vclz vpopc vbfxI vbfxN vbfi vcmpI vcmpN vsel vmov vlut vfadd vfsub vfmul vfma vfmin
    vfminNum vfmax vfmaxNum vfclamp vfamax vfsign vflrp vfcmp vfclass vfrcp vfrsq vfsqrt vfdiv vfexp2 vflog2 vftanh vferf vfsigm
    vfsin vfcos vfrnd vfscale vfdot2 vfcvtw vfcvtn vfcvts vicvtI vicvtN vfcvtiI vfcvtiN vfpack4 vfunpk4 vadam mand mor mxor
    mandn mnot mmov mshift mpopc mfirst mlast mset mget voteAny voteAll voteEq voteBallot shflIdx shflXor vredInt vredFloat
    vscanInt vscanFloat vbcast vext vins vrev vcompact vragg vldGlobal vldScratch vldCluster vstGlobal vstScratch vstCluster
    vldb vldx vstx sldGlobal sldParam sst pref cwb cinv atomI32 atomI64 atomF32 cas32 cas64 satom scas redI32 redI64 redF32
    redBf16x2 fence xfence bar bara barw waita32 waita64 wakea pflush pflushv pbar stepset snap pstat mmaFp8 mmaBf16 mmaF16
    mmaInt8 mmas mzero mld mst mstBand mrd mwr mscl batonTake batonPass batonQuery mwait macq mrel mstep cpy cpyf cpym cpyat
    cpyz cpyk cpyp cfill ccnl cqry gthrX32 gthrX64 sctr collAllreduce collReducescatter collAllgather collBcast collat nvsub
    nvdb nvcq fput fputa fget fatomInt fatomF32 fcas ffence tenq trenq tset tstat twait targ rgrow rshrink spalloc spfree pin
    tsplit gopen gclose mmioRegisterWrite partitionDescriptorWrite keyLoad keyErase keyReload xlrbaseWrite xlrtailWrite faultFix
    faultDeny xlinvPartition xlinvPage xlinvPartitionAll xlinvKey xlinvAll xlinvDone walkStart walkComplete faultRecordWrite
    rrtExchange rrtExchangeMove coreHalt coreHalted coreRelease rvtWrite wayViabilityWrite opStepRequest opStepPlan
    opStepRowMoves opStepDispose opStepWays opStepRamp opStepCommit opStepUpRaise opStepUpSettled partitionSwap swapDone
    postRederr postPosted asyncTrapEntry frzResume frzReplay frzKill frzFalsestart frzPark frzRelease crbaseWrite crtailWrite
    consumptionRecordWrite nvmeQueuePairWrite doorbellWridx doorbellInline hostBar2Read hostBar2Write cxlSnoop mailboxGetinfo
    mailboxAttest mailboxSetop mailboxSetcap mailboxHist fwstage fwcommit proofload partcfg svcHostLog svcMailboxEvent
    svcRequestOp svcReadCounter svcReply inputPowerLoss holdupRailsOff drainRecordWrite fullReset bootVerify bootReleaseCores
    bootTrainLinks bootReadRecords bootTrainPorts bootCreatePartitions memctlSectorRead l2Eviction owqDrainEntry scrubLine
    pbarComplete lapBoundary timedActionFire launchPacketConsume enqueueBufferDrain coordinatorSelect placeInstance
    dispatchAgeReserve spillRefill allowanceExpired falseStart instanceEnd squadSave squadRestore streamExchange batonForcedPass
    macroOpStep cpyfFollowonEnter copyComplete gatherComplete collectiveComplete barrierWake waitaResume waitaPoll
    redCombineFlush contentionWindow proofKernelDispatch proofKernelResult captureWalkStart copyOnWrite captureDeveloped
    captureFixed captureAbort parityUnitSend heartbeatSend heartbeatMiss recoveryDetect recoveryFence recoveryAbort
    recoveryTrees recoveryRebuild recoveryRestripe recoveryResume recoveryReport flitReceive nakReceive replayTimeout retrainEnd
    switchTrim putPacket putaPacket getreqPacket getrspPacket atomPacket atomrspPacket ackPacket collPacket enqPacket
    rereqPacket heartbeatPacket timesyncPacket fatalPacket abortPacket trimmedHeaderReceive rereqSend fabricRetxTimeout
    timesyncSend timesyncLoss powerSample telemetryWrite keyRequestComplete napEnd memoryResponseReturn hostCxlMemAccess
    moduleIdleRetrain uncorrectableFecCodeword

theorem Ext.ofNat_toNat (e : Ext) : Ext.ofNat e.toNat = e := by
  have hhigh : e.toNat / 2 ^ 64 = e.ext32.toNat := by
    rw [Ext.toNat, Nat.add_mul_div_left _ _ (Nat.two_pow_pos 64), Nat.div_eq_of_lt e.lit64.isLt, Nat.zero_add]
  have hlow : BitVec.ofNat 64 e.toNat = e.lit64 := BitVec.eq_of_toNat_eq (by
    rw [BitVec.toNat_ofNat, Ext.toNat, Nat.add_mul_mod_self_left, Nat.mod_eq_of_lt e.lit64.isLt])
  rw [Ext.ofNat, hhigh, hlow, BitVec.ofNat_toNat, BitVec.setWidth_eq]

theorem encodeSlot_isSome {i : Instr} (h : i.shape ≠ .event) : ∃ w, encodeSlot i = some w := by
  unfold encodeSlot
  cases hs : i.shape
  case event => exact absurd hs h
  all_goals exact ⟨_, rfl⟩

/-- The slot of a legal instruction decodes to it, with its extension slot at hand. -/
theorem decodeSlot_encodeSlot {i : Instr} {w : Nat} (hlegal : i.legal = true) (h : encodeSlot i = some w) :
    w < 2 ^ 96 ∧ decodeSlot w i.ext = .ok i := by
  obtain ⟨hw, -, hparse⟩ := Laws.Wf.statement i w h
  have hjoin : (i.ext.isSome && !i.shape.joinable) = false := by
    cases hj : i.shape.joinable
    case true => exact Bool.and_false _
    case false => rw [Instr.ext_of_not_joinable hj]; rfl
  refine ⟨hw, ?_⟩
  simp only [decodeSlot, hparse hlegal, hjoin, hlegal, Bool.false_eq_true, if_true, if_false]

/-- The extension slot stands above the slot, in bits 191:96 (R232). -/
theorem decodeWords_joined (w : Nat) (ext : Option Ext) (hw : w < 2 ^ 96) :
    decodeWords (w + 2 ^ 96 * (ext.map Ext.toNat).getD 0) ext.isSome = decodeSlot w ext := by
  rw [decodeWords, Nat.add_mul_mod_self_left, Nat.mod_eq_of_lt hw, Nat.add_mul_div_left _ _ (Nat.two_pow_pos 96), Nat.div_eq_of_lt hw, Nat.zero_add]
  cases ext with
  | none => rfl
  | some e => rw [Option.isSome_some, if_pos rfl, Option.map_some, Option.getD_some, Ext.ofNat_toNat]

/-- Settles O56: a slot's fields are read back from their packing, and the opcode map names each instruction by its own opcode. -/
theorem decodeAfterEncode : Obligations.DecodeAfterEncode := by
  refine ⟨fun i hi => ?_, fun i w hlegal h => ?_⟩
  · obtain ⟨w, hw⟩ := encodeSlot_isSome hi
    exact ⟨_, by rw [encode, hw]; rfl⟩
  · obtain ⟨slot, hslot, rfl⟩ := Option.map_eq_some_iff.mp h
    obtain ⟨hlt, hdecode⟩ := decodeSlot_encodeSlot hlegal hslot
    rw [decodeWords_joined slot i.ext hlt, hdecode]

end Sys2Proof
end

section
/-! SUPPORT. Transfers (R231, R252 to R257): what a transfer does at each landing, and BRA, JMP, RET, CALL, LOOP and NOP past their checks. -/

namespace Sys2Proof.Machine

open Claim

/-! ### What a transfer does at its target (R231) -/

theorem transfer_of_noLand {s : State} {t : W64} (h : s.landing t = .noLand) (k : State → State) :
    transfer s t k = badland s t 0 0 allOnes64 := by
  rw [transfer, h]

theorem transfer_of_misaligned {s : State} {t : W64} (h : s.landing t = .misaligned) (k : State → State) :
    transfer s t k = badland s t 0 allOnes64 0 := by
  rw [transfer, h]

/-- A link written before a jump is written after the stream has forgotten the pages that were denied to it. -/
theorem State.clearDeny_writeS_jump (s : State) (n : Nat) (v : W64) (h : Head) (t : W64) :
    ((s.writeS n v).jump h t).clearDeny = (s.clearDeny.writeS n v).jump h t := by
  by_cases hn : n = 0
  · subst hn; rfl
  · rw [State.writeS, State.writeS, if_neg hn, if_neg hn]; rfl

theorem transfer_jump_of_lands {s : State} {t : W64} (h : s.landing t = .lands) (hd : Head) :
    transfer s t (fun s => s.jump hd t) = .next (s.clearDeny.jump hd t) :=
  transfer_of_lands h _

theorem transfer_link_of_lands {s : State} {t : W64} (h : s.landing t = .lands) (n : Nat) (v : State → W64) (hd : Head) :
    transfer s t (fun s1 => (s1.writeS n (v s1)).jump hd t) = .next ((s.clearDeny.writeS n (v s)).jump hd t) :=
  (transfer_of_lands h _).trans (congrArg _ (s.clearDeny_writeS_jump n (v s) hd t))

/-! ### The transfers past their checks -/

theorem exec_bra_of_passes {f : BF} {s : State} (h : passes s (.bra f)) :
    exec (.bra f) s = if bcond f.cond (s.readS f.creg.toNat) = true then
        transfer (s.landed (.bra f)) (BF.target f s.st.pc) fun s1 => s1.jump f.h (BF.target f s.st.pc)
      else .next ((s.landed (.bra f)).retire f.h) := by
  change execBra f s = _
  exact checked_of_passes h _

theorem exec_jmp_of_passes {f : BF} {s : State} (h : passes s (.jmp f)) :
    exec (.jmp f) s = transfer (s.landed (.jmp f)) (s.readS f.creg.toNat) fun s1 =>
      (s1.writeS f.link.toNat s1.st.npc).jump f.h (s.readS f.creg.toNat) := by
  change execJmp f s = _
  exact checked_of_passes h _

theorem exec_ret_of_passes {f : BF} {s : State} (h : passes s (.ret f)) :
    exec (.ret f) s = transfer (s.landed (.ret f)) (s.readS f.creg.toNat) fun s1 => s1.jump f.h (s.readS f.creg.toNat) := by
  change execRet f s = _
  exact checked_of_passes h _

theorem exec_call_of_passes {f : BF} {s : State} (h : passes s (.call f)) :
    exec (.call f) s = transfer (s.landed (.call f)) (BF.target f s.st.pc) fun s1 =>
      (s1.writeS f.link.toNat s1.st.npc).jump f.h (BF.target f s.st.pc) := by
  change execCall f s = _
  exact checked_of_passes h _

theorem exec_loop_of_passes {f : BF} {s : State} (h : passes s (.loop f)) :
    let v := s.readS f.creg.toNat - 1
    exec (.loop f) s = if v = 0 then .next (((s.landed (.loop f)).writeS f.creg.toNat v).retire f.h)
      else transfer (s.landed (.loop f)) (BF.target f s.st.pc) fun s1 => (s1.writeS f.creg.toNat v).jump f.h (BF.target f s.st.pc) := by
  change execLoop f s = _
  exact checked_of_passes h _

theorem exec_nop_of_passes {f : BF} {s : State} (h : passes s (.nop f)) : exec (.nop f) s = .next ((s.landed (.nop f)).retire f.h) := by
  change execNop f s = _
  exact checked_of_passes h _

end Sys2Proof.Machine

namespace Sys2Proof.Claim

open Machine

theorem transfers : Transfers := by
  refine ⟨fun f s h => ?bra, fun f s h => ?jmp, fun f s h => ?ret, fun f s h => ?call, fun f s h => ?loop, fun f s h => exec_nop_of_passes h⟩
  case bra =>
    rw [exec_bra_of_passes h]
    refine ⟨fun hfails => if_neg (Bool.eq_false_iff.mp hfails), fun hholds hlands => ?_⟩
    rw [if_pos hholds]
    exact transfer_jump_of_lands hlands f.h
  case jmp =>
    intro s0 hlands
    rw [exec_jmp_of_passes h]
    exact transfer_link_of_lands hlands f.link.toNat (·.st.npc) f.h
  case ret =>
    intro s0 hlands
    rw [exec_ret_of_passes h]
    exact transfer_jump_of_lands hlands f.h
  case call =>
    intro s0 hlands
    rw [exec_call_of_passes h]
    exact transfer_link_of_lands hlands f.link.toNat (·.st.npc) f.h
  case loop =>
    intro s0 v
    rw [exec_loop_of_passes h]
    refine ⟨fun hlast => ?_, fun hmore hlands => ?_⟩
    · rw [if_pos hlast, show s.readS f.creg.toNat - 1 = 0 from hlast]
    · rw [if_neg hmore]
      exact transfer_link_of_lands hlands f.creg.toNat (fun _ => v) f.h

theorem badTargetsTrap : BadTargetsTrap := by
  intro mk tgt hmk f s h
  have htransfer : ∃ k, exec (mk f) s = transfer (s.landed (mk f)) (tgt f s) k := by
    obtain hcall | hjmp := hmk
    · cases hcall; exact ⟨_, exec_call_of_passes h⟩
    · cases hjmp; exact ⟨_, exec_jmp_of_passes h⟩
  obtain ⟨k, hk⟩ := htransfer
  rw [hk]
  exact ⟨fun hno => transfer_of_noLand hno k, fun hmis => transfer_of_misaligned hmis k⟩

end Sys2Proof.Claim

namespace Sys2Proof

/-- Settles O15: past its checks each transfer goes to its target where that is a landing; CALL and JMP trap where it is none. -/
theorem branchTransfers : Obligations.BranchTransfers := ⟨Claim.transfers, Claim.badTargetsTrap⟩

end Sys2Proof
end

section
/-! SUPPORT. The checks before an instruction's own (R239 to R241, R374): what they answer an instruction that they stop, and that every
instruction of the stream meets them first. -/

namespace Sys2Proof.Machine

/-! ### What the checks answer -/

/-- What an instruction that names the registers `n` comes to where a check stops it: ILLREG, STALLUNDER, or a wait (R239, R241). -/
def State.stopped (s : State) (n : Named) : Option State :=
  if n.unallocated s.wv.gran then some (s.trap { code := Cause.illreg, tpc := s.st.pc })
  else (s.stallUnder n).elim
    (if s.awaitsRow n then some (s.hold .blocked)
      else if s.unlanded n ≠ [] then some (s.holdFor (s.unlanded n))
      else none)
    fun r => some (s.trap { code := Cause.stallunder, tpc := s.st.pc, addr := BitVec.ofNat 64 r.number })

variable {n : Named} {s t : State}

theorem stopped_of_unallocated (h : n.unallocated s.wv.gran = true) :
    s.stopped n = some (s.trap { code := Cause.illreg, tpc := s.st.pc }) := if_pos h

theorem stopped_of_stallUnder {r : RegId} (hgran : n.unallocated s.wv.gran = false) (h : s.stallUnder n = some r) :
    s.stopped n = some (s.trap { code := Cause.stallunder, tpc := s.st.pc, addr := BitVec.ofNat 64 r.number }) := by
  rw [State.stopped, hgran, h]; rfl

theorem stopped_of_awaitsRow (hgran : n.unallocated s.wv.gran = false) (hstall : s.stallUnder n = none) (h : s.awaitsRow n = true) :
    s.stopped n = some (s.hold .blocked) := by
  rw [State.stopped, hgran, hstall, h]; rfl

theorem stopped_of_unlanded (hgran : n.unallocated s.wv.gran = false) (hstall : s.stallUnder n = none) (hrow : s.awaitsRow n = false)
    (h : s.unlanded n ≠ []) : s.stopped n = some (s.holdFor (s.unlanded n)) := by
  rw [State.stopped, hgran, hstall, hrow]; exact if_pos h

/-- An event names no register, so no check stops it. -/
theorem stopped_event (s : State) : s.stopped Shape.event.named = none := by
  have hstall : s.stallUnder Shape.event.named = none := ite_self none
  have hrow : s.awaitsRow Shape.event.named = false := by simp [State.awaitsRow, Shape.named]
  have hlanded : s.unlanded Shape.event.named = [] := by simp [State.unlanded, Shape.named]
  rw [State.stopped, hstall, hrow, hlanded]; rfl

theorem checked_of_stopped (h : s.stopped n = some t) (k : State → Out) : checked n s k = .next t := by
  unfold State.stopped at h
  unfold checked
  split at h
  case isTrue hgran => exact (if_pos hgran).trans (congrArg _ (Option.some.inj h))
  case isFalse hgran =>
  refine (if_neg hgran).trans ?_
  cases hstall : s.stallUnder n with
  | some r => rw [hstall] at h; exact congrArg _ (Option.some.inj h)
  | none =>
    rw [hstall, Option.elim_none] at h
    split at h
    case isTrue hrow => exact (if_pos hrow).trans (congrArg _ (Option.some.inj h))
    case isFalse hrow =>
    split at h
    case isTrue hlate => exact (if_neg hrow).trans ((if_pos hlate).trans (congrArg _ (Option.some.inj h)))
    case isFalse => cases h

theorem State.trap_issued (s : State) (a : TrapArgs) : (s.trap a).st.issued = s.st.issued := by
  unfold State.trap
  split <;> rfl

/-- A stopped instruction has not issued. -/
theorem issued_of_stopped (h : s.stopped n = some t) : t.st.issued = s.st.issued := by
  unfold State.stopped at h
  split at h
  case isTrue => rw [← Option.some.inj h, State.trap_issued]
  case isFalse =>
  cases hstall : s.stallUnder n with
  | some r => rw [hstall, Option.elim_some] at h; rw [← Option.some.inj h, State.trap_issued]
  | none =>
    rw [hstall, Option.elim_none] at h
    split at h
    case isTrue => rw [← Option.some.inj h]; rfl
    case isFalse =>
    split at h
    case isTrue => rw [← Option.some.inj h]; rfl
    case isFalse => cases h

/-- An instruction that names the registers `n` meets the checks before anything of its own: where they stop it, it comes to no more. -/
structure MeetsChecks (n : Named) (s : State) (o : Out) : Prop where
  eq_of_stopped : ∀ t, s.stopped n = some t → o = .next t

theorem meetsChecks_checked (n : Named) (s : State) (k : State → Out) : MeetsChecks n s (checked n s k) :=
  ⟨fun _ h => checked_of_stopped h k⟩

theorem meetsChecks_guarded (n : Named) (s : State) (k : State → Out) : MeetsChecks n s (guarded n s k) :=
  meetsChecks_checked ..

/-- A stopped instruction draws nothing of the rounding state (R209). -/
theorem MeetsChecks.advanced {o : Out} (h : MeetsChecks n s o) (m : Nat) (f : VF) : MeetsChecks n s (advanced m f s o) := by
  refine ⟨fun t hstop => ?_⟩
  rw [h.eq_of_stopped t hstop, Machine.advanced, if_pos (issued_of_stopped hstop)]

/-- An event names no register, so no check stops it. -/
theorem meetsChecks_event (s : State) (o : Out) : MeetsChecks Shape.event.named s o :=
  ⟨fun t h => absurd (h.symm.trans (stopped_event s)) (Option.some_ne_none t)⟩

/-! Runs of scalar instructions (R243 to R251, R263) -/
theorem meetsChecks_runS (r : SRule) (f : SF) (g : W64 → W64 → W64 → W64) (s : State) : MeetsChecks (f.named r) s (runS r f s g) :=
  meetsChecks_guarded ..
theorem meetsChecks_runSF (r : SRule) (f : SF) (mode : Nat) (g : State → SFRes) (s : State) :
    MeetsChecks (f.named r) s (runSF r f s mode g) :=
  meetsChecks_guarded ..
theorem meetsChecks_runSF2 (r : SRule) (f : SF) (op : Bool → FVal → FVal → FVal × Flags) (s : State) :
    MeetsChecks (f.named r) s (runSF2 r f s op) :=
  meetsChecks_runSF ..
theorem meetsChecks_runSFMinMax (big : Bool) (f : SF) (s : State) : MeetsChecks (f.named Rule.sMinMax) s (runSFMinMax big f s) :=
  meetsChecks_runSF ..
theorem meetsChecks_runX (f : QF) (g : W64 → W64 → W64) (s : State) : MeetsChecks (f.named Rule.xwr) s (runX f s g) :=
  meetsChecks_checked ..

/-! Runs of vector instructions on integers, bits and masks (R272 to R275, R287 to R294) -/
theorem meetsChecks_runVec (r : VRule) (f : VF) (res : State → W64 → Nat → LaneRes) (s : State) :
    MeetsChecks (f.named r) s (runVec r f s res) :=
  meetsChecks_guarded ..
theorem meetsChecks_runElems (r : VRule) (f : VF) (op : Nat → Nat → Nat → Nat → Nat × Flags) (s : State) :
    MeetsChecks (f.named r) s (runElems r f s op) :=
  meetsChecks_runVec ..
theorem meetsChecks_runInts (r : VRule) (sat : Bool) (f : VF) (op : Int → Int → Int → Int) (s : State) :
    MeetsChecks (f.named r) s (runInts r sat f s op) :=
  meetsChecks_runElems ..
theorem meetsChecks_runBits (r : VRule) (f : VF) (op : Nat → Nat → Nat → Nat) (s : State) : MeetsChecks (f.named r) s (runBits r f s op) :=
  meetsChecks_runElems ..
theorem meetsChecks_runMulw (r : VRule) (f : VF) (s : State) : MeetsChecks (f.named r) s (runMulw r f s) := meetsChecks_runVec ..
theorem meetsChecks_runDot (r : VRule) (k : Nat) (f : VF) (s : State) : MeetsChecks (f.named r) s (runDot r k f s) := by
  unfold runDot; exact meetsChecks_runVec ..
theorem meetsChecks_runRshr (r : VRule) (f : VF) (s : State) : MeetsChecks (f.named r) s (runRshr r f s) := meetsChecks_runElems ..
theorem meetsChecks_runNarrow (r : VRule) (f : VF) (s : State) : MeetsChecks (f.named r) s (runNarrow r f s) := by
  unfold runNarrow; exact meetsChecks_runVec ..
theorem meetsChecks_runWiden (r : VRule) (f : VF) (s : State) : MeetsChecks (f.named r) s (runWiden r f s) := meetsChecks_runVec ..
theorem meetsChecks_runBfx (signed : Bool) (r : VRule) (f : VF) (s : State) : MeetsChecks (f.named r) s (runBfx signed r f s) :=
  meetsChecks_runElems ..
theorem meetsChecks_runCmp (r : VRule) (f : VF) (s : State) : MeetsChecks (f.named r) s (runCmp r f s) := meetsChecks_guarded ..
theorem meetsChecks_runMask (r : VRule) (f : VF) (g : State → W64) (s : State) : MeetsChecks (f.named r) s (runMask r f s g) :=
  meetsChecks_guarded ..
theorem meetsChecks_runCount (f : VF) (g : W64 → Nat → Nat) (s : State) : MeetsChecks (f.named Rule.mCount) s (runCount f s g) :=
  meetsChecks_runVec ..
theorem meetsChecks_runVote (f : VF) (g : W64 → W64 → (Nat → W32) → Nat → Bool) (s : State) :
    MeetsChecks (f.named Rule.vote) s (runVote f s g) :=
  meetsChecks_guarded ..
theorem meetsChecks_runMove (r : VRule) (f : VF) (pick : State → Nat → Nat) (s : State) : MeetsChecks (f.named r) s (runMove r f s pick) :=
  meetsChecks_runVec ..
theorem meetsChecks_runVred (flt : Bool) (r : VRule) (f : VF) (s : State) : MeetsChecks (f.named r) s (runVred flt r f s) :=
  meetsChecks_runVec ..
theorem meetsChecks_runScan (flt : Bool) (r : VRule) (f : VF) (s : State) : MeetsChecks (f.named r) s (runScan flt r f s) :=
  meetsChecks_runVec ..

/-! Runs of vector instructions on floats (R276 to R283) -/
theorem meetsChecks_runFlt (r : VRule) (f : VF) (op : FEnv → FVal → FVal → FVal → Nat × Flags) (s : State) :
    MeetsChecks (f.named r) s (runFlt r f s op) :=
  (meetsChecks_runVec ..).advanced _ f
theorem meetsChecks_runRound2 (r : VRule) (f : VF) (op : Bool → FVal → FVal → FVal × Flags) (s : State) :
    MeetsChecks (f.named r) s (runRound2 r f s op) :=
  meetsChecks_runFlt ..
theorem meetsChecks_runRound3 (r : VRule) (f : VF) (op : Bool → FVal → FVal → FVal → FVal × Flags) (s : State) :
    MeetsChecks (f.named r) s (runRound3 r f s op) :=
  meetsChecks_runFlt ..
theorem meetsChecks_runPick (r : VRule) (f : VF) (op : FVal → FVal → FVal → FVal) (src : FVal → FVal → FVal → List FVal) (s : State) :
    MeetsChecks (f.named r) s (runPick r f s op src) :=
  meetsChecks_runFlt ..
theorem meetsChecks_runFaithful (fn : FFun) (f : VF) (s : State) : MeetsChecks (f.named Rule.vfFaithful) s (runFaithful fn f s) :=
  meetsChecks_runVec ..
theorem meetsChecks_runNarrowF (scaled : Bool) (r : VRule) (f : VF) (s : State) : MeetsChecks (f.named r) s (runNarrowF scaled r f s) :=
  (meetsChecks_runVec ..).advanced _ f
theorem meetsChecks_runICvt (r : VRule) (f : VF) (s : State) : MeetsChecks (f.named r) s (runICvt r f s) :=
  (meetsChecks_runVec ..).advanced _ f
theorem meetsChecks_runFCvti (r : VRule) (f : VF) (s : State) : MeetsChecks (f.named r) s (runFCvti r f s) :=
  (meetsChecks_runVec ..).advanced _ f

/-! Runs of memory, atomic and synchronizing instructions (R296 to R314) -/
theorem meetsChecks_runVld (r : MRule) (sp : Space) (f : MF) (addr : State → Nat → W64) (s : State) :
    MeetsChecks (f.named r) s (runVld r sp f s addr) :=
  meetsChecks_guarded ..
theorem meetsChecks_runVst (r : MRule) (sp : Space) (f : MF) (addr : State → Nat → W64) (s : State) :
    MeetsChecks (f.named r) s (runVst r sp f s addr) :=
  meetsChecks_guarded ..
theorem meetsChecks_runSld (r : MRule) (sp : Space) (f : MF) (s : State) : MeetsChecks (f.named r) s (runSld r sp f s) :=
  meetsChecks_guarded ..
theorem meetsChecks_runAtom (r : ARule) (k : Elem) (f : AF) (s : State) : MeetsChecks (f.named r) s (runAtom r k f s) :=
  meetsChecks_guarded ..
theorem meetsChecks_runCas (r : ARule) (k : Elem) (f : AF) (s : State) : MeetsChecks (f.named r) s (runCas r k f s) :=
  meetsChecks_guarded ..
theorem meetsChecks_runRed (r : ARule) (k : Elem) (f : AF) (s : State) : MeetsChecks (f.named r) s (runRed r k f s) :=
  meetsChecks_guarded ..
theorem meetsChecks_runBar (d : DUse) (f : MF) (k : State → LaneLoc → Sp → Nat → Bool → Out) (s : State) :
    MeetsChecks (f.named (Rule.bar d)) s (runBar d f s k) :=
  meetsChecks_guarded ..
theorem meetsChecks_runWaita (w : Width) (f : MF) (s : State) : MeetsChecks (f.named (Rule.waita w)) s (runWaita w f s) :=
  meetsChecks_guarded ..

/-! Issue to the engines (R321 to R352) -/
theorem meetsChecks_issueOp (r : XRule) (op : Nat) (f : XF) (s : State) : MeetsChecks (f.named r) s (issueOp r op f s) :=
  meetsChecks_checked ..
theorem meetsChecks_runRow (op : Nat) (r : XRule) (f : XF) (s : State) : MeetsChecks (f.named r) s (runRow op r f s) :=
  meetsChecks_checked ..
theorem meetsChecks_issueCopy (r : XRule) (op : Nat) (f : XF) (clusterOk : Bool) (pre : State → Except (State → Out) (List W64)) (s : State) :
    MeetsChecks (f.named r) s (issueCopy r op f s clusterOk pre) :=
  meetsChecks_checked ..
theorem meetsChecks_issueGather (op : Nat) (f : XF) (s : State) : MeetsChecks (f.named (Rule.command 0b111111)) s (issueGather op f s) :=
  meetsChecks_checked ..
theorem meetsChecks_issueColl (r : XRule) (op : Nat) (f : XF) (s : State) : MeetsChecks (f.named r) s (issueColl r op f s) :=
  meetsChecks_checked ..
theorem meetsChecks_issueFabric (r : XRule) (op : Nat) (f : XF) (s : State) : MeetsChecks (f.named r) s (issueFabric r op f s) :=
  meetsChecks_checked ..
theorem meetsChecks_issueFatom (r : XRule) (op : Nat) (f : XF) (s : State) : MeetsChecks (f.named r) s (issueFatom r op f s) :=
  meetsChecks_checked ..

/-- Every instruction meets the checks before anything of its own (R241): each arm is a run that does, and events name no register. -/
theorem exec_meetsChecks (i : Instr) (s : State) : MeetsChecks i.shape.named s (exec i s) := by
  unfold exec
  cases i with
  | sadd f | ssub f | smul f | smulhI f | smulhN f | sdivI f | sdivN f | sremI f | sremN f | sand f | sor f | sxor f | sandn f | sshl f
  | sshr f | ssra f | srot f | sminI f | sminN f | smaxI f | smaxN f | scmpI f | scmpN f | ssel f | smov f | sli f | sclz f | spopc f
  | sbfxI f | sbfxN f | sbfi f | saddr f | ssext f | sabs f =>
    exact meetsChecks_runS ..
  | sfadd f | sfmul f | sfdiv f => exact meetsChecks_runSF2 ..
  | sffma f | sfsqrt f | sfcmp f | sfcvt f =>
    exact meetsChecks_runSF ..
  | sfmin f | sfmax f => exact meetsChecks_runSFMinMax ..
  | bra f | brv f | jmp f | jmpv f | call f | ret f | rjoin f | detach f | loop f | exit f | tend f | yield f | nap f | nop f | trap f
  | rte f | xrd f | setfmt f | getfmt f | time f | waitt f | bkpt f | errack f | svc f | fencei f | batonTake f | batonPass f
  | batonQuery f | mwait f | macq f | mrel f | mstep f | cpyat f | ccnl f | cqry f | nvsub f | nvdb f | nvcq f | ffence f | tenq f
  | trenq f | tset f | tstat f | twait f | targ f | rgrow f | rshrink f | spalloc f | spfree f | pin f | tsplit f | gopen f | gclose f =>
    exact meetsChecks_checked ..
  | xwr f | xset f | xclr f => exact meetsChecks_runX ..
  | vadd f | vsub f | vmul f | vmulhI f | vmulhN f | vmad f | vminI f | vminN f | vmaxI f | vmaxN f | vclampI f | vclampN f | vabsdI f
  | vabsdN f | vavgI f | vavgN f | vaddsI f | vaddsN f | vsubsI f | vsubsN f =>
    exact meetsChecks_runInts ..
  | vmulwI f | vmulwN f => exact meetsChecks_runMulw ..
  | vand f | vor f | vxor f | vandn f | vshl f | vshr f | vsra f | vrot f | vclz f | vpopc f =>
    exact meetsChecks_runBits ..
  | vshls f | vfsign f => exact meetsChecks_runElems ..
  | vdot2I f | vdot2N f | vdot4I f | vdot4N f =>
    exact meetsChecks_runDot ..
  | vrshrI f | vrshrN f => exact meetsChecks_runRshr ..
  | vnarrowI f | vnarrowN f => exact meetsChecks_runNarrow ..
  | vwidenI f | vwidenN f => exact meetsChecks_runWiden ..
  | vbfxI f | vbfxN f => exact meetsChecks_runBfx ..
  | vbfi f | vsel f | vmov f | vfclass f | vfcvtw f | vfpack4 f | vfunpk4 f | vext f | vins f | vcompact f | vragg f =>
    exact meetsChecks_runVec ..
  | vcmpI f | vcmpN f => exact meetsChecks_runCmp ..
  | vfadd f | vfsub f | vfmul f | vfdiv f =>
    exact meetsChecks_runRound2 ..
  | vfma f | vflrp f => exact meetsChecks_runRound3 ..
  | vfmin f | vfminNum f | vfmax f | vfmaxNum f | vfclamp f | vfamax f =>
    exact meetsChecks_runPick ..
  | vfcmp f | vadam f | sst f | pref f | cwb f | cinv f | satom f | scas f | fence f | xfence f | wakea f | pflush f | pflushv f
  | pbar f | stepset f | snap f | pstat f =>
    exact meetsChecks_guarded ..
  | vfrcp f | vfrsq f | vfsqrt f | vfrnd f =>
    exact meetsChecks_runFlt ..
  | vfexp2 f | vflog2 f | vftanh f | vferf f | vfsigm f | vfsin f | vfcos f =>
    exact meetsChecks_runFaithful ..
  | vfscale f | vfdot2 f => exact (meetsChecks_runVec ..).advanced _ f
  | vfcvtn f | vfcvts f => exact meetsChecks_runNarrowF ..
  | vicvtI f | vicvtN f => exact meetsChecks_runICvt ..
  | vfcvtiI f | vfcvtiN f => exact meetsChecks_runFCvti ..
  | mand f | mor f | mxor f | mandn f | mnot f | mmov f | mshift f | mset f =>
    exact meetsChecks_runMask ..
  | mpopc f | mfirst f | mlast f | mget f =>
    exact meetsChecks_runCount ..
  | voteAny f | voteAll f | voteEq f | voteBallot f =>
    exact meetsChecks_runVote ..
  | shflIdx f | shflXor f | vbcast f | vrev f =>
    exact meetsChecks_runMove ..
  | vredInt f | vredFloat f => exact meetsChecks_runVred ..
  | vscanInt f | vscanFloat f => exact meetsChecks_runScan ..
  | vldGlobal f | vldScratch f | vldCluster f | vldb f | vldx f =>
    exact meetsChecks_runVld ..
  | vstGlobal f | vstScratch f | vstCluster f | vstx f =>
    exact meetsChecks_runVst ..
  | sldGlobal f | sldParam f => exact meetsChecks_runSld ..
  | atomI32 f | atomI64 f | atomF32 f => exact meetsChecks_runAtom ..
  | cas32 f | cas64 f => exact meetsChecks_runCas ..
  | redI32 f | redI64 f | redF32 f | redBf16x2 f =>
    exact meetsChecks_runRed ..
  | bar f | bara f | barw f => exact meetsChecks_runBar ..
  | waita32 f | waita64 f => exact meetsChecks_runWaita ..
  | mmaFp8 f | mmaBf16 f | mmaF16 f | mmaInt8 f | mmas f | mzero f | mld f | mst f | mstBand f | mscl f =>
    exact meetsChecks_issueOp ..
  | mrd f | mwr f => exact meetsChecks_runRow ..
  | cpy f | cpyf f | cpym f | cpyz f | cpyk f | cpyp f | cfill f =>
    exact meetsChecks_issueCopy ..
  | gthrX32 f | gthrX64 f | sctr f => exact meetsChecks_issueGather ..
  | collAllreduce f | collReducescatter f | collAllgather f | collBcast f | collat f =>
    exact meetsChecks_issueColl ..
  | fput f | fputa f | fget f => exact meetsChecks_issueFabric ..
  | fatomInt f | fatomF32 f | fcas f => exact meetsChecks_issueFatom ..
  | vlut f =>
    dsimp only [execVlut]; exact meetsChecks_runVec ..
  | _ => exact meetsChecks_event s _

/-! ### A wait for tracked results -/

theorem foldl_land_ge (es : List (RegId × Nat × Nat)) (a : Nat) :
    a ≤ es.foldl (fun a e => max a e.2.2) a ∧ ∀ e ∈ es, e.2.2 ≤ es.foldl (fun a e => max a e.2.2) a := by
  induction es generalizing a with
  | nil => simp
  | cons x r ih =>
    obtain ⟨hstart, hrest⟩ := ih (max a x.2.2)
    rw [List.foldl_cons]
    refine ⟨(le_max_left ..).trans hstart, fun e he => ?_⟩
    obtain rfl | her := List.mem_cons.mp he
    · exact (le_max_right ..).trans hstart
    · exact hrest e her

/-- The wait lasts until every tracked source has landed (R239). -/
theorem holdFor_unlanded_readyAt (s : State) (n : Named) {e : RegId × Nat × Nat} (he : e ∈ s.wv.tracked) (hread : e.1 ∈ n.reads) :
    e.2.2 ≤ max s.cycle (s.holdFor (s.unlanded n)).st.readyAt := by
  by_cases hlate : s.cycle < e.2.2
  · have hmem : e ∈ s.unlanded n := List.mem_filter.mpr ⟨he, by simp [hread, hlate]⟩
    exact le_max_of_le_right ((foldl_land_ge (s.unlanded n) s.st.readyAt).2 e hmem)
  · exact le_max_of_le_left (not_lt.mp hlate)

/-! ### Duplicated issue (R374) -/

/-- Where rotated duplicate issue disagrees the instruction is a consumption, in the state before its tracked sources land. -/
theorem guarded_of_mismatch (hgran : n.unallocated s.wv.gran = false) (hstall : s.stallUnder n = none) (hrow : s.awaitsRow n = false)
    (hlanded : s.unlanded n = []) (hshadow : s.wv.shadow = true) (hupset : s.upset ≠ 0) (k : State → Out) :
    guarded n s k = .next (s.consume .dupmis 0 s.upset 0) := by
  have hdiffer : (s.wv.shadow && s.upset != 0) = true := by
    rw [hshadow, Bool.true_and]; exact bne_iff_ne.mpr hupset
  rw [guarded, checked, hgran, hstall, hrow, hlanded]
  exact if_pos hdiffer

/-- A scalar instruction under SHADOW, one of whose issues is upset, and a tracked result in s2 that has landed. -/
def upsetReader : State :=
  { State.reset with wv := { State.reset.wv with shadow := true, tracked := [(.sca 2, 0, 0)] }, upset := 1 }

/-- SADD s1, s2, s2. -/
def addS2 : SF :=
  { h := { stall := 0, pred := 0, pneg := false, zero := false }, dst := 1, a := .sca 2, b := .sca 2, imm := 0, cond := .eq, sub := 0, ext := none }

theorem upsetReader_passes :
    (Instr.sadd addS2).shape.named.unallocated upsetReader.wv.gran = false ∧ upsetReader.stallUnder (Instr.sadd addS2).shape.named = none ∧
      upsetReader.awaitsRow (Instr.sadd addS2).shape.named = false ∧ upsetReader.unlanded (Instr.sadd addS2).shape.named = [] ∧
      upsetReader.wv.shadow = true ∧ upsetReader.upset ≠ 0 := by decide

/-- The consumption leaves the result tracked. -/
theorem exec_sadd_upsetReader : exec (.sadd addS2) upsetReader = .next (upsetReader.consume .dupmis 0 upsetReader.upset 0) := by
  obtain ⟨hgran, hstall, hrow, hlanded, hshadow, hupset⟩ := upsetReader_passes
  change execSadd addS2 upsetReader = _
  unfold execSadd runS
  exact guarded_of_mismatch hgran hstall hrow hlanded hshadow hupset _

end Sys2Proof.Machine

namespace Sys2Proof.Claim

open Machine

theorem unallocatedRegisterTraps : UnallocatedRegisterTraps :=
  fun i s h => (exec_meetsChecks i s).eq_of_stopped _ (stopped_of_unallocated h)

theorem stallUnderTraps : StallUnderTraps := by
  intro i s hgran
  have hchecks := (exec_meetsChecks i s).eq_of_stopped
  refine ⟨fun r hstall => ?_, fun hstall hrow => ?_, fun hstall hrow hlate => ?_⟩
  · exact hchecks _ (stopped_of_stallUnder hgran hstall)
  · exact hchecks _ (stopped_of_awaitsRow hgran hstall hrow)
  · exact ⟨_, hchecks _ (stopped_of_unlanded hgran hstall hrow hlate), rfl, fun e he hread => holdFor_unlanded_readyAt s _ he hread⟩

end Sys2Proof.Claim

namespace Sys2Proof

/-- Refutes O21 by its last clause alone: `unallocatedRegisterTraps` and `stallUnderTraps` hold, `DuplicateMismatchConsumes` does not. The
clause has the consumption take the instruction's landed sources off the list of tracked results; in the model a consumed instruction
leaves that list as it was. -/
theorem not_checksBeforeIssue : ¬ Obligations.ChecksBeforeIssue := by
  intro ⟨_, _, hmismatch⟩
  obtain ⟨hgran, hstall, hrow, hlanded, hshadow, hupset⟩ := Machine.upsetReader_passes
  have hconsumed := hmismatch _ _ (.inl ⟨Machine.addS2, rfl⟩) hgran hstall hrow hlanded hshadow hupset
  rw [Machine.exec_sadd_upsetReader] at hconsumed
  have htracked := congrArg (fun o : Machine.Out => match o with | .next t => t.wv.tracked.length | _ => 0) hconsumed
  revert htracked
  decide

end Sys2Proof
end

section
/-! SUPPORT. The operands that a scalar instruction's sources name (R227, R235, R236, R243), and words of the spec's examples. -/

namespace Sys2Proof.Machine

theorem State.sval_inlineInt (s : State) {k : W8} (imm : W32) (ext : Option Ext) (h : k.toNat < 0x60) :
    s.sval (.inl k) imm ext = BitVec.ofInt 64 (inlineInt k) := if_pos h

theorem State.sval_inlineFloat (s : State) {k : W8} (imm : W32) (ext : Option Ext) (hlo : 0x60 ≤ k.toNat) (hhi : k.toNat < 0x70) :
    s.sval (.inl k) imm ext = BitVec.ofNat 64 (inlineFloat k) := (if_neg hlo.not_gt).trans (if_pos hhi)

theorem inlineInt_of_lt {k : W8} (h : k.toNat < 0x40) : inlineInt k = k.toNat := if_pos h

/-- The indices from 0x40 to 0x5F name the integers from -32 to -1 (R236). -/
theorem ofInt_inlineInt_of_ge {k : W8} (hlo : 0x40 ≤ k.toNat) (hhi : k.toNat < 0x60) :
    BitVec.ofInt 64 (inlineInt k) = 0 - BitVec.ofNat 64 (0x60 - k.toNat) := by
  have hneg : inlineInt k = -((0x60 - k.toNat : Nat) : Int) := (if_neg hlo.not_gt).trans (by omega)
  rw [hneg, BitVec.ofInt_neg, BitVec.ofInt_natCast]
  exact (BitVec.zero_sub _).symm

end Sys2Proof.Machine

namespace Sys2Proof

open Machine

/-- Settles O1: each kind of source in turn; the float constants stand in the model's table in the order of their indices. -/
theorem scalarOperandValues : Obligations.ScalarOperandValues := by
  intro s imm ext
  refine ⟨rfl, fun n => rfl, fun k hk => ?small, fun k hlo hhi => ?negative, fun i v h => ?float, rfl, fun e => rfl, rfl, rfl, ?ticks, rfl⟩
  case small => rw [s.sval_inlineInt imm ext (by omega), inlineInt_of_lt hk, BitVec.ofInt_natCast]
  case negative => rw [s.sval_inlineInt imm ext hhi, ofInt_inlineInt_of_ge hlo hhi]
  case float =>
    change (i, v) ∈ (List.range 16).map fun j => (0x60 + j, floatConsts.getD j 0) at h
    obtain ⟨j, hj, hpair⟩ := List.mem_map.mp h
    cases hpair
    have hj16 : j < 16 := List.mem_range.mp hj
    have hindex : (BitVec.ofNat 8 (0x60 + j)).toNat = 0x60 + j := by rw [BitVec.toNat_ofNat]; omega
    rw [s.sval_inlineFloat imm ext (by omega) (by omega), inlineFloat, hindex, Nat.add_sub_cancel_left]
  case ticks =>
    change (s.gtb.setWidth 32).setWidth 64 = _
    rw [← BitVec.ofNat_toNat, BitVec.toNat_setWidth]

/-- Settles O58: each word decodes by evaluation. -/
theorem specWordsDecode : Obligations.SpecWordsDecode := by
  unfold Obligations.SpecWordsDecode
  decide

end Sys2Proof
end

section
/-! SUPPORT. The scalar tables (R243 to R251): the model's values and the spec's, and the row of the table that an instruction meets. -/

namespace Sys2Proof.Machine

open Claim

/-! ### Conditions and orders (R245) -/

theorem cmpInt_condCode (c : Cond) (a b : Int) : cmpInt (condCode c) a b = holds c a b := by
  cases c with
  | eq => exact (beq_eq_decide a b).symm
  | ne => exact (decide_not (p := a = b)).trans (congrArg (!·) (beq_eq_decide a b).symm)
  | lt | le | gt | ge => rfl

theorem ite_cmpInt {α : Type} (c : Cond) (a b : Int) (x y : α) :
    (if cmpInt (condCode c) a b then x else y) = if holds c a b then x else y := by
  rw [cmpInt_condCode]

section
variable {w : Nat} (a b : BitVec w)

theorem ite_slt_eq_min : (if b.slt a then b else a) = BitVec.ofInt w (min a.toInt b.toInt) := by
  rw [min_comm, min_def_lt, apply_ite (BitVec.ofInt w), BitVec.ofInt_toInt, BitVec.ofInt_toInt]
  exact if_congr BitVec.slt_iff_toInt_lt rfl rfl

theorem ite_slt_eq_max : (if a.slt b then b else a) = BitVec.ofInt w (max a.toInt b.toInt) := by
  rw [max_def_lt, apply_ite (BitVec.ofInt w), BitVec.ofInt_toInt, BitVec.ofInt_toInt]
  exact if_congr BitVec.slt_iff_toInt_lt rfl rfl

theorem ite_ult_eq_min : (if b.ult a then b else a) = BitVec.ofNat w (min a.toNat b.toNat) := by
  rw [min_comm, min_def_lt, apply_ite (BitVec.ofNat w), BitVec.ofNat_toNat, BitVec.ofNat_toNat, BitVec.setWidth_eq, BitVec.setWidth_eq]
  exact if_congr BitVec.ult_iff_toNat_lt rfl rfl

theorem ite_ult_eq_max : (if a.ult b then b else a) = BitVec.ofNat w (max a.toNat b.toNat) := by
  rw [max_def_lt, apply_ite (BitVec.ofNat w), BitVec.ofNat_toNat, BitVec.ofNat_toNat, BitVec.setWidth_eq, BitVec.setWidth_eq]
  exact if_congr BitVec.ult_iff_toNat_lt rfl rfl

theorem ite_msb_eq_abs : (if a.msb then -a else a) = if a.toInt < 0 then 0 - a else a := by
  rw [show (0 : BitVec w) - a = -a from BitVec.zero_sub a, BitVec.msb_eq_toInt]
  exact if_congr decide_eq_true_iff rfl rfl

end

/-! ### High halves of products (R245) -/

/-- The high half of a signed product: what the 128-bit product keeps of it. -/
theorem mulhI_eq_extract (a b : W64) :
    BitVec.ofInt 64 (a.toInt * b.toInt / 2 ^ 64) = (a.signExtend 128 * b.signExtend 128).extractLsb' 64 64 := by
  have hproduct : a.signExtend 128 * b.signExtend 128 = BitVec.ofInt 128 (a.toInt * b.toInt) := (BitVec.ofInt_mul ..).symm
  apply BitVec.eq_of_toNat_eq
  rw [hproduct, BitVec.extractLsb'_toNat, BitVec.toNat_ofInt, BitVec.toNat_ofInt, Nat.shiftRight_eq_div_pow]
  generalize a.toInt * b.toInt = z
  omega

theorem mulhN_eq_extract (a b : W64) :
    BitVec.ofNat 64 (a.toNat * b.toNat / 2 ^ 64) = (a.zeroExtend 128 * b.zeroExtend 128).extractLsb' 64 64 := by
  have hproduct : a.zeroExtend 128 * b.zeroExtend 128 = BitVec.ofNat 128 (a.toNat * b.toNat) := by
    rw [BitVec.ofNat_mul, BitVec.ofNat_toNat, BitVec.ofNat_toNat]
  apply BitVec.eq_of_toNat_eq
  rw [hproduct, BitVec.extractLsb'_toNat, BitVec.toNat_ofNat, BitVec.toNat_ofNat, Nat.shiftRight_eq_div_pow]
  generalize a.toNat * b.toNat = z
  omega

/-! ### Counts of bits (R245) -/

theorem clz_toNat {w : Nat} (a : BitVec w) : BitVec.ofNat w (clz w a.toNat) = a.clz := by
  by_cases hzero : a = 0
  · subst hzero
    exact (BitVec.clz_eq_iff_eq_zero.mpr rfl).symm
  · have hpos : 0 < w := Nat.pos_of_ne_zero fun h => hzero (by subst h; exact BitVec.eq_nil a)
    have hne : a.toNat ≠ 0 := fun h => hzero (BitVec.eq_of_toNat_eq h)
    have hlt : a.clz.toNat < w := by
      have := BitVec.clz_lt_iff_ne_zero.mpr hzero
      rwa [BitVec.lt_def, BitVec.natCast_eq_ofNat, BitVec.toNat_ofNat, Nat.mod_eq_of_lt Nat.lt_two_pow_self] at this
    have hlog : Nat.log2 a.toNat = w - 1 - a.clz.toNat := by
      refine (Nat.log2_eq_iff hne).mpr ⟨BitVec.two_pow_sub_clz_le_toNat_of_ne_zero hpos hzero, ?_⟩
      rw [show w - 1 - a.clz.toNat + 1 = w - a.clz.toNat by omega]
      exact BitVec.toNat_lt_two_pow_sub_clz
    rw [clz, if_neg hne, hlog, show w - 1 - (w - 1 - a.clz.toNat) = a.clz.toNat by omega, BitVec.ofNat_toNat, BitVec.setWidth_eq]

theorem popc_eq_countP (w x : Nat) : popc w x = (List.range w).countP x.testBit := by
  induction w generalizing x with
  | zero => rfl
  | succ w ih =>
    have hshift : x.testBit ∘ Nat.succ = (x / 2).testBit := funext fun i => Nat.testBit_succ x i
    rw [popc, ih, List.range_succ_eq_map, List.countP_cons, List.countP_map, hshift, Nat.testBit_zero, Nat.add_comm]
    rcases Nat.mod_two_eq_zero_or_one x with h | h <;> simp [h]

/-! ### Fields (R245, R247) -/

/-- Shifting a field up against the top bit and back fills with its sign. -/
theorem sshiftRight_shiftLeft_eq_signExtend {v w : Nat} (x : BitVec v) (hw : w ≤ v) :
    (x <<< (v - w)).sshiftRight (v - w) = (x.setWidth w).signExtend v := by
  have htop : (x <<< (v - w)).msb = (x.setWidth w).msb := by
    rw [BitVec.msb_eq_getLsbD_last, BitVec.msb_eq_getLsbD_last, BitVec.getLsbD_shiftLeft, BitVec.getLsbD_setWidth]
    by_cases h0 : w = 0
    · simp [h0]
    · simp [show v - 1 - (v - w) = w - 1 by omega, show v - 1 < v by omega, show ¬ v - 1 < v - w by omega, show w - 1 < w by omega]
  refine BitVec.eq_of_getLsbD_eq fun i hi => ?_
  rw [BitVec.getLsbD_sshiftRight, BitVec.getLsbD_signExtend, htop, BitVec.getLsbD_shiftLeft, BitVec.getLsbD_setWidth]
  by_cases hfield : i < w
  · simp [hi, hfield, show v - w + i < v by omega]
  · simp [hi, hfield, show ¬ v - w + i < v by omega]

theorem sextField_mod (w x : Nat) : sextField w (x % 2 ^ w) = (BitVec.ofNat w x).signExtend 64 := by
  have hsign : x % 2 ^ w / 2 ^ (w - 1) % 2 = 1 ↔ 2 ^ (w - 1) ≤ x % 2 ^ w := by
    cases w with
    | zero => simp [Nat.mod_one]
    | succ k =>
      have hlt : x % 2 ^ (k + 1) / 2 ^ k < 2 := Nat.div_lt_of_lt_mul (Nat.pow_succ 2 k ▸ Nat.mod_lt _ (by positivity))
      rw [Nat.add_sub_cancel, Nat.mod_eq_of_lt hlt, ← Nat.one_le_div_iff (by positivity)]
      omega
  rw [sextField, BitVec.signExtend, BitVec.toInt_eq_msb_cond, BitVec.msb_eq_decide, BitVec.toNat_ofNat, apply_ite (BitVec.ofInt 64),
    BitVec.ofInt_natCast]
  refine if_congr (hsign.trans decide_eq_true_iff.symm) ?_ rfl
  rw [Nat.cast_pow, Nat.cast_ofNat]

theorem sextField_eq_shifts {w : Nat} (hw : w ≤ 64) (x : Nat) :
    sextField w (x % 2 ^ w) = ((BitVec.ofNat 64 x) <<< (64 - w)).sshiftRight (64 - w) := by
  rw [sextField_mod, sshiftRight_shiftLeft_eq_signExtend _ hw, BitVec.setWidth_ofNat_of_le hw]

theorem ofNat_mul_two_pow (v n pos : Nat) : BitVec.ofNat v (n * 2 ^ pos) = BitVec.ofNat v n <<< pos := by
  apply BitVec.eq_of_toNat_eq
  rw [BitVec.toNat_shiftLeft, BitVec.toNat_ofNat, BitVec.toNat_ofNat, Nat.shiftLeft_eq, Nat.mod_mul_mod]

theorem cnt_lt (b : W64) : cnt b < 64 := Nat.mod_lt _ (by decide)

theorem bfWidth_lt (imm : W32) : bfWidth imm < 64 := Nat.mod_lt _ (by decide)

/-- SSEXT's field is the bits up to the one that its count names (R245). -/
theorem sext_eq_shifts (a b : W64) : sextField (cnt b + 1) (a.toNat % 2 ^ (cnt b + 1)) =
    (a <<< (63 - b.toNat % 64)).sshiftRight (63 - b.toNat % 64) := by
  have hshift : 64 - (cnt b + 1) = 63 - b.toNat % 64 := by rw [cnt]; omega
  rw [sextField_eq_shifts (cnt_lt b), BitVec.ofNat_toNat, BitVec.setWidth_eq, hshift]

/-- SBFI's mask and shifted operand: the part of the operand above its field falls outside the mask (R247). -/
theorem insertField_eq (a d : W64) (pos w : Nat) :
    insertField a d pos w =
      let m : W64 := BitVec.ofNat 64 (2 ^ w - 1) <<< pos
      (d &&& ~~~m) ||| ((a <<< pos) &&& m) := by
  have hlow : BitVec.ofNat 64 (a.toNat % 2 ^ w) = a &&& BitVec.ofNat 64 (2 ^ w - 1) := by
    rw [← Nat.and_two_pow_sub_one_eq_mod, BitVec.ofNat_and, BitVec.ofNat_toNat, BitVec.setWidth_eq]
  rw [insertField, ofNat_mul_two_pow, ofNat_mul_two_pow, hlow, BitVec.shiftLeft_and_distrib, BitVec.and_assoc, BitVec.and_self]

/-! ### Quotients and remainders (R246) -/

/-- The one quotient of 64-bit operands that 64 bits do not hold wraps to itself. -/
theorem sdivI_eq (a b : W64) : sdivI a b = if b = 0 then BitVec.allOnes 64 else
    if a = BitVec.intMin 64 ∧ b = BitVec.allOnes 64 then BitVec.intMin 64 else BitVec.ofInt 64 (a.toInt.tdiv b.toInt) := by
  rw [sdivI]
  refine if_congr Iff.rfl rfl ?_
  split
  · next hcorner => obtain ⟨rfl, rfl⟩ := hcorner; decide
  · rfl

theorem sdivN_eq (a b : W64) : sdivN a b = if b = 0 then BitVec.allOnes 64 else BitVec.ofNat 64 (a.toNat / b.toNat) := by
  rw [sdivN, ← BitVec.toNat_udiv, BitVec.ofNat_toNat, BitVec.setWidth_eq]

theorem sremI_eq (a b : W64) : sremI a b = if b = 0 then a else
    if a = BitVec.intMin 64 ∧ b = BitVec.allOnes 64 then 0 else BitVec.ofInt 64 (a.toInt - b.toInt * a.toInt.tdiv b.toInt) := by
  rw [sremI, Int.tmod_def]
  refine if_congr Iff.rfl rfl ?_
  split
  · next hcorner => obtain ⟨rfl, rfl⟩ := hcorner; decide
  · rfl

theorem sremN_eq (a b : W64) :
    sremN a b = if b = 0 then a else BitVec.ofNat 64 (a.toNat - b.toNat * (a.toNat / b.toNat)) := by
  rw [sremN, ← Nat.mod_eq_sub_mul_div, ← BitVec.toNat_umod, BitVec.ofNat_toNat, BitVec.setWidth_eq]

/-! ### Rows of the scalar tables -/

/-- An instruction that is run on its operands meets its row of the table. -/
theorem scalarOp_of_runS {mk : SF → Instr} {g : SF → W64 → W64 → W64 → W64} (r : SRule)
    (hrun : ∀ f s, (mk f).shape.named = f.named r ∧ exec (mk f) s = runS r f s (g f)) : ScalarOp mk r.lat g := by
  intro f s h
  obtain ⟨hnamed, hexec⟩ := hrun f s
  rw [State.clear, hnamed] at h
  rw [hexec]
  exact runS_effect h (g f)

/-- The same where the model forms the value in another way. -/
theorem scalarOp_of_value {mk : SF → Instr} {k g : SF → W64 → W64 → W64 → W64} (r : SRule) (hvalue : ∀ f a b d, k f a b d = g f a b d)
    (hrun : ∀ f s, (mk f).shape.named = f.named r ∧ exec (mk f) s = runS r f s (k f)) : ScalarOp mk r.lat g := by
  have hkg : k = g := funext fun f => funext fun a => funext fun b => funext fun d => hvalue f a b d
  exact hkg ▸ scalarOp_of_runS r hrun

/-- A float instruction draws once where its run has a mode and that is 6 (R209). -/
theorem scalarFloatOp_of_runSF {mk : SF → Instr} {g : SF → State → W64 × Flags} (r : SRule) (rounds : Bool) (mode : SF → State → Nat)
    (hexec : ∀ f s, exec (mk f) s = runSF r f s (mode f s) (g f)) (hnamed : ∀ f, (mk f).shape.named = f.named r)
    (hmode : ∀ f s, mode f s = 6 ↔ rounds = true ∧ s.sfMode f = 6)
    (hlanded : ∀ f s rs, g f (s.untrack rs) = g f s) : ScalarFloatOp mk r.lat rounds g := by
  intro f s h
  rw [State.clear, hnamed] at h
  rw [hexec, ← if_congr (hmode f s) rfl rfl, ← hlanded f s (f.named r).reads]
  exact runSF_effect h (mode f s) (g f)

/-- A float instruction that rounds does so in the mode that it names (R248). -/
theorem scalarFloatOp_of_rounding {mk : SF → Instr} {g : SF → State → W64 × Flags} (r : SRule)
    (hexec : ∀ f s, exec (mk f) s = runSF r f s (s.sfMode f) (g f)) (hnamed : ∀ f, (mk f).shape.named = f.named r)
    (hlanded : ∀ f s rs, g f (s.untrack rs) = g f s) : ScalarFloatOp mk r.lat true g :=
  scalarFloatOp_of_runSF r true (fun f s => s.sfMode f) hexec hnamed (fun _ _ => (and_iff_right rfl).symm) hlanded

/-- A float instruction that selects or compares rounds nothing and draws nothing (R249, R250). -/
theorem scalarFloatOp_of_exact {mk : SF → Instr} {g : SF → State → W64 × Flags} (r : SRule)
    (hexec : ∀ f s, exec (mk f) s = runSF r f s 1 (g f)) (hnamed : ∀ f, (mk f).shape.named = f.named r)
    (hlanded : ∀ f s rs, g f (s.untrack rs) = g f s) : ScalarFloatOp mk r.lat false g :=
  scalarFloatOp_of_runSF r false (fun _ _ => 1) hexec hnamed (fun _ _ => by simp) hlanded

end Sys2Proof.Machine

namespace Sys2Proof.Claim

open Machine

theorem scalarBitFields : ScalarBitFields := by
  refine ⟨?sbfxN, ?sbfxI, ?sbfi⟩
  case sbfxN => exact scalarOp_of_runS (Rule.sBits false) fun _ _ => ⟨rfl, rfl⟩
  case sbfxI =>
    exact scalarOp_of_value (Rule.sBits false) (fun f a _ _ => sextField_eq_shifts (bfWidth_lt f.imm).le _) fun _ _ => ⟨rfl, rfl⟩
  case sbfi => exact scalarOp_of_value (Rule.sBits true) (fun f a _ d => insertField_eq a d _ _) fun _ _ => ⟨rfl, rfl⟩

theorem scalarFloatTable : ScalarFloatTable := by
  refine ⟨?sfadd, ?sfmul, ?sffma, ?sfdiv, ?sfsqrt, ?sfmin, ?sfmax, ?sfcmp, ?sfcvt⟩
  case sfadd | sfmul => exact scalarFloatOp_of_rounding Rule.sFlt2 (fun _ _ => rfl) (fun _ => rfl) fun _ _ _ => rfl
  case sffma => exact scalarFloatOp_of_rounding Rule.sFma (fun _ _ => rfl) (fun _ => rfl) fun _ _ _ => rfl
  case sfdiv => exact scalarFloatOp_of_rounding (Rule.sFlt2 Lat.sdiv) (fun _ _ => rfl) (fun _ => rfl) fun _ _ _ => rfl
  case sfsqrt => exact scalarFloatOp_of_rounding Rule.sSqrt (fun _ _ => rfl) (fun _ => rfl) fun _ _ _ => rfl
  case sfmin | sfmax => exact scalarFloatOp_of_exact Rule.sMinMax (fun _ _ => rfl) (fun _ => rfl) fun _ _ _ => rfl
  case sfcmp => exact scalarFloatOp_of_exact Rule.sFcmp (fun _ _ => rfl) (fun _ => rfl) fun _ _ _ => rfl
  case sfcvt =>
    refine scalarFloatOp_of_rounding Rule.sFcvt (fun f s => ?_) (fun _ => rfl) fun _ _ _ => rfl
    change execSfcvt f s = _
    have hdir : f.sub.toNat / 8 ≤ 1 ↔ f.sub.toNat < 16 := by omega
    exact congrArg (runSF Rule.sFcvt f s (s.sfMode f)) (funext fun t => if_congr hdir rfl rfl)

end Sys2Proof.Claim

namespace Sys2Proof

open Machine Claim

/-- Settles O2: each instruction is run on its operands; where the model forms its value in another way than the spec, a lemma above says
that the two agree. -/
theorem scalarIntegerTable : Obligations.ScalarIntegerTable := by
  refine ⟨?sadd, ?ssub, ?smul, ?smulhI, ?smulhN, ?sand, ?sor, ?sxor, ?sandn, ?sshl, ?sshr, ?ssra, ?srot, ?sminI, ?sminN, ?smaxI, ?smaxN,
    ?scmpI, ?scmpN, ?ssel, ?smov, ?sli, ?sclz, ?spopc, ?saddr, ?ssext, ?sabs⟩
  case sadd | ssub | sand | sor | sxor | sandn | sshl | sshr | ssra | srot =>
    exact scalarOp_of_runS Rule.sInt2 fun _ _ => ⟨rfl, rfl⟩
  case smul => exact scalarOp_of_runS (Rule.sInt2 Lat.smul) fun _ _ => ⟨rfl, rfl⟩
  case smulhI =>
    exact scalarOp_of_value (Rule.sInt2 Lat.smul) (fun _ a b _ => mulhI_eq_extract a b) fun _ _ => ⟨rfl, rfl⟩
  case smulhN =>
    exact scalarOp_of_value (Rule.sInt2 Lat.smul) (fun _ a b _ => mulhN_eq_extract a b) fun _ _ => ⟨rfl, rfl⟩
  case sminI => exact scalarOp_of_value Rule.sInt2 (fun _ a b _ => ite_slt_eq_min a b) fun _ _ => ⟨rfl, rfl⟩
  case sminN => exact scalarOp_of_value Rule.sInt2 (fun _ a b _ => ite_ult_eq_min a b) fun _ _ => ⟨rfl, rfl⟩
  case smaxI => exact scalarOp_of_value Rule.sInt2 (fun _ a b _ => ite_slt_eq_max a b) fun _ _ => ⟨rfl, rfl⟩
  case smaxN => exact scalarOp_of_value Rule.sInt2 (fun _ a b _ => ite_ult_eq_max a b) fun _ _ => ⟨rfl, rfl⟩
  case scmpI | scmpN =>
    exact scalarOp_of_value Rule.sCmp (fun _ _ _ _ => ite_cmpInt ..) fun _ _ => ⟨rfl, rfl⟩
  case ssel => exact scalarOp_of_value Rule.sSel (fun _ _ _ _ => ite_cmpInt ..) fun _ _ => ⟨rfl, rfl⟩
  case smov => exact scalarOp_of_runS Rule.sInt1 fun _ _ => ⟨rfl, rfl⟩
  case sli => exact scalarOp_of_runS Rule.sLit fun _ _ => ⟨rfl, rfl⟩
  case sclz => exact scalarOp_of_value Rule.sInt1 (fun _ a _ _ => clz_toNat a) fun _ _ => ⟨rfl, rfl⟩
  case spopc =>
    exact scalarOp_of_value Rule.sInt1 (fun _ a _ _ => congrArg _ (popc_eq_countP 64 a.toNat)) fun _ _ => ⟨rfl, rfl⟩
  case saddr => exact scalarOp_of_runS Rule.sAddr fun _ _ => ⟨rfl, rfl⟩
  case ssext => exact scalarOp_of_value Rule.sInt2 (fun _ a b _ => sext_eq_shifts a b) fun _ _ => ⟨rfl, rfl⟩
  case sabs => exact scalarOp_of_value Rule.sInt1 (fun _ a _ _ => ite_msb_eq_abs a) fun _ _ => ⟨rfl, rfl⟩

/-- Settles O3: the model's quotients and remainders are the spec's, the corners of a zero divisor and of the one overflow included. -/
theorem scalarDivisionTable : Obligations.ScalarDivisionTable := by
  refine ⟨?sdivI, ?sdivN, ?sremI, ?sremN⟩
  case sdivI => exact scalarOp_of_value (Rule.sInt2 Lat.sdiv) (fun _ a b _ => sdivI_eq a b) fun _ _ => ⟨rfl, rfl⟩
  case sdivN => exact scalarOp_of_value (Rule.sInt2 Lat.sdiv) (fun _ a b _ => sdivN_eq a b) fun _ _ => ⟨rfl, rfl⟩
  case sremI => exact scalarOp_of_value (Rule.sInt2 Lat.sdiv) (fun _ a b _ => sremI_eq a b) fun _ _ => ⟨rfl, rfl⟩
  case sremN => exact scalarOp_of_value (Rule.sInt2 Lat.sdiv) (fun _ a b _ => sremN_eq a b) fun _ _ => ⟨rfl, rfl⟩

/-- Settles O4: the model's bit fields are the spec's shifts and masks, and each float instruction is run in its mode. -/
theorem scalarFieldsAndFloats : Obligations.ScalarFieldsAndFloats := ⟨Claim.scalarBitFields, Claim.scalarFloatTable⟩

end Sys2Proof
end

section
/-! SUPPORT. Control registers (R227, R239, R262 to R264): what a write meets, when its old value lands, and XRD, XWR, XSET and XCLR past
their checks. -/

namespace Sys2Proof.Machine

open Claim

/-! ### Access -/

theorem exec_xrd_of_passes {f : QF} {s : State} (h : passes s (.xrd f)) :
    exec (.xrd f) s =
      .next (((s.landed (.xrd f)).writeTracked f.dst.toNat ((s.landed (.xrd f)).readX f.xreg.toNat) (s.xLat f.xreg.toNat)).retire f.h) := by
  change execXrd f s = _
  exact checked_of_passes h _

/-- What XWR, XSET and XCLR come to past the checks, `v` being the value that they form. -/
def State.xWritten (s : State) (f : QF) (v : W64) : Out :=
  match s.writeX f.xreg.toNat (s.sval f.a 0 none) v with
  | .prot r => prot s r
  | .ok s1 => .next ((s1.writeTracked f.dst.toNat (s.readX f.xreg.toNat) (s.xLat f.xreg.toNat)).retire f.h)

theorem runX_eq (f : QF) (s : State) (g : W64 → W64 → W64) :
    runX f s g = checked (f.named Rule.xwr) s fun s => s.xWritten f (g (s.readX f.xreg.toNat) (s.sval f.a 0 none)) := rfl

theorem exec_xwrite_of_passes {mk : QF → Instr} {g : W64 → W64 → W64}
    (hmk : (mk, g) = (Instr.xwr, fun _ a => a) ∨ (mk, g) = (Instr.xset, fun old a => old ||| a) ∨
      (mk, g) = (Instr.xclr, fun old a => old &&& ~~~a)) {f : QF} {s : State} (h : passes s (mk f)) :
    let s0 := s.landed (mk f)
    exec (mk f) s = s0.xWritten f (g (s0.readX f.xreg.toNat) (s0.sval f.a 0 none)) := by
  have hrun : exec (mk f) s = runX f s g ∧ (mk f).shape.named = f.named Rule.xwr := by
    obtain hxwr | hxset | hxclr := hmk
    · cases hxwr; exact ⟨rfl, rfl⟩
    · cases hxset; exact ⟨rfl, rfl⟩
    · cases hxclr; exact ⟨rfl, rfl⟩
  obtain ⟨hexec, hnamed⟩ := hrun
  rw [hexec, runX_eq, ← hnamed]
  exact checked_of_passes h _

/-! ### Landing -/

theorem State.xLat_of_time (s : State) {n : Nat} (h : n = 0x040 ∨ n = 0x041) : s.xLat n = 12 := if_pos h

theorem State.xLat_of_plain (s : State) {n : Nat} (h : n ∉ [0x001, 0x040, 0x041]) : s.xLat n = 4 := by
  simp only [List.mem_cons, List.not_mem_nil, or_false, not_or] at h
  obtain ⟨hflg, hgtime, hlaplen⟩ := h
  exact (if_neg (by simp [hgtime, hlaplen])).trans (if_neg hflg)

/-- FLG's 4 cycles begin when every earlier write of the wave has landed (R239). -/
theorem State.xLat_flg_ge (s : State) {e : InFlight} (he : e ∈ s.wv.inflight) : e.land + 4 ≤ s.cycle + s.xLat 0x001 := by
  have hrest : e.land - s.cycle ≤ s.wv.inflight.foldl (fun a e => max a (e.land - s.cycle)) 0 := by
    have hlands := (foldl_land_ge (s.wv.inflight.map fun e => (e.reg, 0, e.land - s.cycle)) 0).2 _ (List.mem_map_of_mem he)
    rw [List.foldl_map] at hlands
    exact hlands
  have hlat : s.xLat 0x001 = s.wv.inflight.foldl (fun a e => max a (e.land - s.cycle)) 0 + 4 := rfl
  omega

theorem State.head?_tracked_writeTracked (s : State) {n : Nat} (hn : n ≠ 0) (v : W64) (lat : Nat) :
    (s.writeTracked n v lat).wv.tracked.head? = some (.sca n, s.st.fid, s.landAt (.sca n) lat) := by
  rw [s.writeTracked_rest n v lat hn]; rfl

/-! ### Writes -/

/-- Outside handler mode the registers of the trap record and DLEFT are refused (R263). -/
theorem writeX_of_outside {s : State} (h : s.st.trap.hmode = false) (a v : W64) :
    (∀ n ∈ [0x031, 0x038, 0x039], s.writeX n a v = .prot 0xA) ∧ s.writeX 0x042 a v = .prot 9 := by
  have hmode : ¬ s.st.trap.hmode = true := Bool.eq_false_iff.mp h
  have hpc : ¬ (s.st.trap.hmode && !pcValid (v &&& 0x7FFFFFFFFFFFFF)) = true := by simp [h]
  refine ⟨fun n hn => ?_, if_neg hmode⟩
  fin_cases hn
  · exact (if_neg hpc).trans (if_neg hmode)
  · exact if_neg hmode
  · exact if_neg hmode

/-- The registers that a write may reach, four of them in handler mode alone (R263). -/
theorem mem_of_writeX_ok {s s1 : State} {n : Nat} {a v : W64} (h : s.writeX n a v = .ok s1) :
    n ∈ [0x000, 0x001, 0x031, 0x038, 0x039, 0x042, 0x050, 0x052, 0x061] ∧
      (n ∈ [0x031, 0x038, 0x039, 0x042] → s.st.trap.hmode = true) := by
  constructor
  · unfold State.writeX at h
    split at h
    case h_10 => cases h
    all_goals decide
  · intro hn
    by_contra hin
    obtain ⟨htrap, hleft⟩ := writeX_of_outside (Bool.eq_false_iff.mpr hin) a v
    obtain hn | hn := List.mem_append.mp (show n ∈ [0x031, 0x038, 0x039] ++ [0x042] from hn)
    · rw [htrap n hn] at h
      cases h
    · rw [List.mem_singleton.mp hn, hleft] at h
      cases h

/-- TPC takes a PC that is valid, in handler mode (R263). -/
theorem writeX_tpc_of_valid {s : State} (h : s.st.trap.hmode = true) (a : W64) {v : W64} (hpc : pcValid (v &&& 0x7FFFFFFFFFFFFF) = true) :
    s.writeX 0x031 a v = .ok { s with st := { s.st with trap := { s.st.trap with pc := v &&& 0x7FFFFFFFFFFFFF } } } :=
  (if_neg (by rw [hpc, Bool.not_true, Bool.and_false]; exact Bool.false_ne_true)).trans (if_pos h)

end Sys2Proof.Machine

namespace Sys2Proof.Claim

open Machine

theorem controlRegisterAccess : ControlRegisterAccess := by
  refine ⟨fun f s => exec_xrd_of_passes, fun mk g hmk f s h => ?write,
    fun s => ⟨s.xLat_of_time (.inl rfl), s.xLat_of_time (.inr rfl), fun e => s.xLat_flg_ge, fun n => s.xLat_of_plain⟩,
    fun s n v lat hn => ⟨s.head?_tracked_writeTracked hn v lat, s.landAt_ge _ lat, fun c => s.readS_writeTracked_landed n v lat c hn⟩⟩
  case write =>
    intro s0 a old
    have hexec : exec (mk f) s = s0.xWritten f (g old a) := exec_xwrite_of_passes hmk h
    refine ⟨fun s1 hok => ?_, fun r hprot => ?_⟩
    · rw [hexec, State.xWritten, hok]; rfl
    · rw [hexec, State.xWritten, hprot]; rfl

theorem writableControlRegisters : WritableControlRegisters := by
  refine fun s n a v => ⟨fun s1 => mem_of_writeX_ok, rfl, rfl, rfl, rfl, fun hin => ?_, fun hout => writeX_of_outside hout a v⟩
  exact ⟨if_pos hin, if_pos hin, if_pos hin, writeX_tpc_of_valid hin a⟩

end Sys2Proof.Claim

namespace Sys2Proof

/-- Settles O18: XRD, XWR, XSET and XCLR past their checks are the model's read and write of the register they name; a write is refused by
every register but the nine of R263, and by four of them outside handler mode. -/
theorem controlRegisters : Obligations.ControlRegisters := ⟨Claim.controlRegisterAccess, Claim.writableControlRegisters⟩

end Sys2Proof
end

section
/-! SUPPORT. The vector tables (R269 to R294): the row of a table that an instruction meets, and the model's lane values and the spec's. -/

namespace Sys2Proof.Machine

open Claim

/-! ### Rows of the vector tables -/

theorem ite_one_or_two (p : Prop) [Decidable p] : (if p then 2 else 1) = 1 ∨ (if p then 2 else 1) = 2 := by
  split <;> simp

/-- A vector instruction whose results `res` are those of a state (`runVec` hands ACTIVE on beside the state). -/
abbrev runLanes (r : VRule) (f : VF) (s : State) (res : State → Nat → LaneRes) : Out :=
  guarded (f.named r) s fun t => .next (t.vecResult r f (res t))

theorem runVec_eq {r : VRule} {f : VF} {s : State} {g : State → W64 → Nat → LaneRes} {res : State → Nat → LaneRes}
    (h : ∀ t l, g t (t.activeLanes f.h) l = res t l) : runVec r f s g = runLanes r f s res :=
  congrArg (guarded (f.named r) s) (funext fun t => congrArg (fun g => Host.Outcome.next (t.vecResult r f g)) (funext (h t)))

/-- An instruction whose lanes are independent meets its row: `res` does not look at the results that it tracks. -/
theorem vectorOp_of_runVec {mk : VF → Instr} {res : VF → State → Nat → W64 × Flags} (r : VRule)
    (hcount : ∀ t, r.regs t = 1 ∨ r.regs t = 2) (hnamed : ∀ f, (mk f).shape.named = f.named r)
    (hexec : ∀ f s, exec (mk f) s = runLanes r f s (res f)) (hlanded : ∀ f s rs, res f (s.untrack rs) = res f s) :
    VectorOp mk r.regs r.lat (fun _ => 0) res := by
  intro f s h
  rw [State.clear, hnamed] at h
  rw [hexec, ← hlanded f s (f.named r).reads]
  exact runVec_effect h (hcount f.ty) fun t _ => res f t

/-- The same where the instruction rounds, `draws f` results to a lane (R209). -/
theorem vectorOp_of_advanced {mk : VF → Instr} {res : VF → State → Nat → W64 × Flags} {draws : VF → Nat} (r : VRule)
    (hcount : ∀ t, r.regs t = 1 ∨ r.regs t = 2) (hnamed : ∀ f, (mk f).shape.named = f.named r)
    (hexec : ∀ f s, exec (mk f) s = advanced (draws f) f s (runLanes r f s (res f)))
    (hlanded : ∀ f s rs, res f (s.untrack rs) = res f s) : VectorOp mk r.regs r.lat draws res := by
  intro f s h
  rw [State.clear, hnamed] at h
  rw [hexec, ← hlanded f s (f.named r).reads]
  exact advanced_effect h (hcount f.ty) (draws f) fun t _ => res f t

/-- A mask instruction meets its row (R271). -/
theorem maskOp_of_maskResult {mk : VF → Instr} {res : VF → State → W64 × Flags} (r : VRule) (hnamed : ∀ f, (mk f).shape.named = f.named r)
    (hexec : ∀ f s, exec (mk f) s = guarded (f.named r) s fun t => .next (t.maskResult r f (res f t).1 (res f t).2))
    (hlanded : ∀ f s rs, res f (s.untrack rs) = res f s) : MaskOp mk r.lat res := by
  intro f s h
  rw [State.clear, hnamed] at h
  refine ⟨_, by rw [hexec, guarded_clear h], ?_⟩
  rw [hlanded]
  exact maskResult_effect s (f.named r).reads r f (res f s).1 (res f s).2

/-! ### Elements -/

theorem ETy.width_pos (t : ETy) : 0 < t.width := by cases t <;> decide

theorem elemOf_lt (t : ETy) (lane : W64) (k : Nat) : elemOf t lane k < 2 ^ t.width := Nat.mod_lt _ (by positivity)

/-- NEG and ABS keep a code within its width (R205, R238). -/
theorem signMod_lt (t : ETy) (neg abs : Bool) (e : Nat) : signMod t neg abs e < 2 ^ t.width := by
  unfold signMod
  dsimp only
  split
  · exact BitVec.isLt _
  · have hmag : e % 2 ^ (t.width - 1) < 2 ^ (t.width - 1) := Nat.mod_lt _ (by positivity)
    have htwice : 2 ^ t.width = 2 ^ (t.width - 1) + 2 ^ (t.width - 1) := by
      rw [← Nat.two_mul, ← Nat.pow_succ', Nat.succ_eq_add_one, Nat.sub_add_cancel (ETy.width_pos t)]
    split_ifs <;> omega

theorem elemA_lt (f : VF) (t : ETy) (x : Srcs) (k : Nat) : elemA f t x k < 2 ^ t.width := signMod_lt ..

theorem regsOf_one_or_two (t : ETy) : regsOf t = 1 ∨ regsOf t = 2 := ite_one_or_two t.wide

/-- An elementwise instruction meets its row, where the model's operation and the row's agree on codes of the element's width. -/
theorem elementOp_of_runElems {mk : VF → Instr} {op : VF → Nat → Nat → Nat → Nat × Flags} (r : VRule) (hregs : r.regs = regsOf)
    (k : VF → Nat → Nat → Nat → Nat × Flags) (hop : ∀ f a b c, a < 2 ^ f.ty.width → k f a b c = op f a b c)
    (hnamed : ∀ f, (mk f).shape.named = f.named r) (hexec : ∀ f s, exec (mk f) s = runElems r f s fun _ => k f) :
    ElementOp mk r r.lat op := by
  rw [ElementOp, ← hregs]
  refine vectorOp_of_runVec r (fun t => hregs ▸ regsOf_one_or_two t) hnamed (fun f s => ?_) fun _ _ _ => rfl
  rw [hexec, runElems]
  refine runVec_eq fun t l => ?_
  have hcodes : (fun i => k f (elemA f f.ty (t.srcs r f (t.activeLanes f.h) l) i) (elemB f f.ty (t.srcs r f (t.activeLanes f.h) l) i)
      (elemC f f.ty (t.srcs r f (t.activeLanes f.h) l) i)) = _ := funext fun i => hop f _ _ _ (elemA_lt ..)
  exact congrArg (packElems f.ty (t.srcs r f (t.activeLanes f.h) l).flags) hcodes

theorem integerOp_of_runInts {mk : VF → Instr} {sat : VF → Bool} {op : VF → Int → Int → Int → Int} (r : VRule) (hregs : r.regs = regsOf)
    (hnamed : ∀ f, (mk f).shape.named = f.named r) (hexec : ∀ f s, exec (mk f) s = runInts r (sat f) f s (op f)) :
    IntegerOp mk r r.lat sat op :=
  elementOp_of_runElems r hregs _ (fun _ _ _ _ _ => rfl) hnamed hexec

theorem bitsOp_of_runBits {mk : VF → Instr} {op : Nat → Nat → Nat → Nat} (r : VRule) (hregs : r.regs = regsOf) (hlat : r.lat = 2)
    (k : Nat → Nat → Nat → Nat) (hop : ∀ w a b, 0 < w → a < 2 ^ w → k w a b % 2 ^ w = op w a b % 2 ^ w)
    (hnamed : ∀ f, (mk f).shape.named = f.named r) (hexec : ∀ f s, exec (mk f) s = runBits r f s k) : BitsOp mk r op := by
  have hrow := elementOp_of_runElems r hregs (fun f a b _ => (k f.ty.width a b % 2 ^ f.ty.width, 0))
    (op := fun f a b _ => (op f.ty.width a b % 2 ^ f.ty.width, 0))
    (fun f a b _ ha => congrArg (·, 0) (hop f.ty.width a b (ETy.width_pos _) ha)) hnamed hexec
  rwa [hlat] at hrow

end Sys2Proof.Machine
end

section
/-! SUPPORT. Vector integer instructions (R272 to R275): the model's lane values and the spec's. -/

namespace Sys2Proof.Machine

open Claim

/-! ### Bits of an element (R272) -/

theorem toNat_ofNat_of_lt {w a : Nat} (h : a < 2 ^ w) : (BitVec.ofNat w a).toNat = a := Nat.mod_eq_of_lt h

theorem toNat_ofNat_shiftLeft (w a n : Nat) : (BitVec.ofNat w a <<< n).toNat = a * 2 ^ n % 2 ^ w := by
  rw [BitVec.toNat_shiftLeft, BitVec.toNat_ofNat, Nat.shiftLeft_eq, Nat.mod_mul_mod]

theorem wrapTo_eq_sshiftRight (w a n : Nat) :
    wrapTo w ((BitVec.ofNat w a).toInt / 2 ^ n) = ((BitVec.ofNat w a).sshiftRight n).toNat := by
  rw [wrapTo, BitVec.sshiftRight, Int.shiftRight_eq_div_pow]
  norm_cast

/-- The two parts of a rotation do not overlap. -/
theorem rotl_eq_rotateLeft {w a : Nat} (hpos : 0 < w) (h : a < 2 ^ w) (n : Nat) :
    rotl w a n = ((BitVec.ofNat w a).rotateLeft (n % w)).toNat := by
  rw [BitVec.toNat_rotateLeft, toNat_ofNat_of_lt h, Nat.mod_mod, Nat.shiftLeft_eq, Nat.shiftRight_eq_div_pow, rotl]
  have hn : n % w < w := Nat.mod_lt _ hpos
  generalize n % w = m at hn ⊢
  obtain ⟨k, rfl⟩ : ∃ k, w = k + m := ⟨w - m, by omega⟩
  have hlow : a / 2 ^ k < 2 ^ m := Nat.div_lt_of_lt_mul (by rwa [← pow_add])
  have hhigh : a * 2 ^ m % 2 ^ (k + m) = (a % 2 ^ k) <<< m := by rw [pow_add, Nat.mul_mod_mul_right, Nat.shiftLeft_eq]
  have hfit : (a % 2 ^ k) <<< m + a / 2 ^ k < 2 ^ (k + m) := by
    have hmul : (a % 2 ^ k + 1) * 2 ^ m ≤ 2 ^ k * 2 ^ m := Nat.mul_le_mul_right _ (Nat.mod_lt _ (by positivity))
    rw [Nat.shiftLeft_eq, pow_add]
    linarith
  rw [Nat.add_sub_cancel, Nat.add_mod, hhigh, Nat.mod_eq_of_lt ((Nat.div_le_self _ _).trans_lt h), Nat.mod_eq_of_lt hfit,
    Nat.shiftLeft_add_eq_or_of_lt hlow]

theorem clz_ofNat {w a : Nat} (h : a < 2 ^ w) : clz w a % 2 ^ w = (BitVec.ofNat w a).clz.toNat % 2 ^ w := by
  have hclz := congrArg BitVec.toNat (clz_toNat (BitVec.ofNat w a))
  rw [BitVec.toNat_ofNat, toNat_ofNat_of_lt h] at hclz
  rw [hclz, Nat.mod_eq_of_lt (BitVec.isLt _)]

/-- The model's element of VRSHR. -/
def roundedShift (f : VF) (a b _ : Nat) : Nat × Flags := (wrapTo f.ty.width (roundShift (intOf f.ty a) (b % f.ty.width)), 0)

/-! ### Distances, dot products, fields -/

theorem natAbs_sub_eq_max (a b : Int) : ((a - b).natAbs : Int) = max (a - b) (b - a) := by omega

theorem foldl_add_eq_add_sum (xs : List Nat) (g : Nat → Int) (c : Int) : xs.foldl (fun t k => t + g k) c = c + (xs.map g).sum := by
  induction xs generalizing c with
  | nil => simp
  | cons x xs ih => rw [List.foldl_cons, ih, List.map_cons, List.sum_cons, add_assoc]

end Sys2Proof.Machine

namespace Sys2Proof.Claim

open Machine

theorem vectorIntegerTable : VectorIntegerTable := by
  refine ⟨?vadd, ?vsub, ?vmul, ?vmulhI, ?vmulhN, ?vmad, ?vminI, ?vminN, ?vmaxI, ?vmaxN, ?vclampI, ?vclampN, ?vabsdI, ?vabsdN, ?vavgI, ?vavgN,
    ?vaddsI, ?vaddsN, ?vsubsI, ?vsubsN, ?vrshrI, ?vrshrN, ?vmulwI, ?vmulwN⟩
  case vadd | vsub => exact integerOp_of_runInts (Rule.v2 ETy.allInts true) rfl (fun _ => rfl) fun _ _ => rfl
  case vmul => exact integerOp_of_runInts (Rule.v2 ETy.smallInts true Lat.vmul) rfl (fun _ => rfl) fun _ _ => rfl
  case vmulhI => exact integerOp_of_runInts (Rule.v2 ETy.smallSigned false Lat.vmul) rfl (fun _ => rfl) fun _ _ => rfl
  case vmulhN => exact integerOp_of_runInts (Rule.v2 ETy.smallUnsigned false Lat.vmul) rfl (fun _ => rfl) fun _ _ => rfl
  case vmad => exact integerOp_of_runInts (Rule.v3 ETy.smallInts true Lat.vmul) rfl (fun _ => rfl) fun _ _ => rfl
  case vminI | vmaxI => exact integerOp_of_runInts (Rule.v2 ETy.signedInts) rfl (fun _ => rfl) fun _ _ => rfl
  case vminN | vmaxN => exact integerOp_of_runInts (Rule.v2 ETy.unsignedInts) rfl (fun _ => rfl) fun _ _ => rfl
  case vclampI => exact integerOp_of_runInts (Rule.v3 ETy.smallSigned) rfl (fun _ => rfl) fun _ _ => rfl
  case vclampN => exact integerOp_of_runInts (Rule.v3 ETy.smallUnsigned) rfl (fun _ => rfl) fun _ _ => rfl
  case vabsdI =>
    simp only [← natAbs_sub_eq_max]
    exact integerOp_of_runInts (Rule.v2 ETy.smallSigned) rfl (fun _ => rfl) fun _ _ => rfl
  case vabsdN =>
    simp only [← natAbs_sub_eq_max]
    exact integerOp_of_runInts (Rule.v2 ETy.smallUnsigned) rfl (fun _ => rfl) fun _ _ => rfl
  case vavgI | vaddsI | vsubsI => exact integerOp_of_runInts (Rule.v2 ETy.smallSigned) rfl (fun _ => rfl) fun _ _ => rfl
  case vavgN | vaddsN | vsubsN => exact integerOp_of_runInts (Rule.v2 ETy.smallUnsigned) rfl (fun _ => rfl) fun _ _ => rfl
  case vrshrI => exact elementOp_of_runElems (Rule.vShift ETy.smallSigned) rfl roundedShift (fun _ _ _ _ _ => rfl) (fun _ => rfl) fun _ _ => rfl
  case vrshrN =>
    exact elementOp_of_runElems (Rule.vShift ETy.smallUnsigned) rfl roundedShift (fun _ _ _ _ _ => rfl) (fun _ => rfl) fun _ _ => rfl
  case vmulwI =>
    exact vectorOp_of_runVec (Rule.vMulw [.i32]) (fun _ => .inr rfl) (fun _ => rfl) (fun _ _ => rfl) fun _ _ _ => rfl
  case vmulwN =>
    exact vectorOp_of_runVec (Rule.vMulw [.n32]) (fun _ => .inr rfl) (fun _ => rfl) (fun _ _ => rfl) fun _ _ _ => rfl

theorem vectorBitwiseTable : VectorBitwiseTable := by
  refine ⟨?vand, ?vor, ?vxor, ?vandn, ?vshl, ?vshr, ?vsra, ?vrot, ?vclz, ?vpopc, ?vshls⟩
  case vand | vor | vxor | vandn =>
    exact bitsOp_of_runBits (Rule.vBits2 ETy.allInts) rfl rfl _ (fun _ _ _ _ _ => rfl) (fun _ => rfl) fun _ _ => rfl
  case vshl =>
    refine bitsOp_of_runBits (Rule.vShift ETy.allInts) rfl rfl (fun w a b => a * 2 ^ (b % w)) (fun w a b _ _ => ?_) (fun _ => rfl) fun _ _ => rfl
    rw [toNat_ofNat_shiftLeft, Nat.mod_mod]
  case vshr =>
    refine bitsOp_of_runBits (Rule.vShift ETy.allInts) rfl rfl (fun w a b => a / 2 ^ (b % w)) (fun w a b _ _ => ?_) (fun _ => rfl) fun _ _ => rfl
    rw [Nat.shiftRight_eq_div_pow]
  case vsra =>
    refine bitsOp_of_runBits (Rule.vShift ETy.allInts) rfl rfl (fun w a b => wrapTo w ((BitVec.ofNat w a).toInt / 2 ^ (b % w)))
      (fun w a b _ _ => ?_) (fun _ => rfl) fun _ _ => rfl
    rw [wrapTo_eq_sshiftRight]
  case vrot =>
    refine bitsOp_of_runBits (Rule.vShift ETy.smallInts) rfl rfl rotl (fun w a b hw ha => ?_) (fun _ => rfl) fun _ _ => rfl
    rw [rotl_eq_rotateLeft hw ha]
  case vclz =>
    exact bitsOp_of_runBits (Rule.vBits1 ETy.smallInts) rfl rfl (fun w a _ => clz w a) (fun w a _ _ ha => clz_ofNat ha) (fun _ => rfl)
      fun _ _ => rfl
  case vpopc =>
    refine bitsOp_of_runBits (Rule.vBits1 ETy.smallInts) rfl rfl (fun w a _ => popc w a) (fun w a _ _ _ => ?_) (fun _ => rfl) fun _ _ => rfl
    rw [popc_eq_countP]
  case vshls =>
    exact elementOp_of_runElems (Rule.vShift ETy.smallInts) rfl
      (fun f a b _ => narrowTo f.ty.signed true f.ty.width (intOf f.ty a * 2 ^ (b % f.ty.width))) (fun _ _ _ _ _ => rfl) (fun _ => rfl)
      fun _ _ => rfl

end Sys2Proof.Claim

namespace Sys2Proof

/-- Settles O5: each instruction is run on the elements of its lanes; where the model forms a code in another way than the spec, a lemma
above says that the two agree. -/
theorem vectorIntegersAndBits : Obligations.VectorIntegersAndBits := ⟨Claim.vectorIntegerTable, Claim.vectorBitwiseTable⟩

end Sys2Proof
end

section
/-! SUPPORT. Dot products, widths, fields, comparisons and moves (R273 to R275). -/

namespace Sys2Proof.Machine

open Claim

/-- VDOT adds its products one by one to C, which is the sum of all of them (R273). -/
theorem runDot_eq (r : VRule) (n : Nat) (f : VF) (s : State) : runDot r n f s = runLanes r f s (Claim.dot r n f) := by
  rw [runDot]
  refine runVec_eq fun t l => ?_
  simp only [foldl_add_eq_add_sum]
  rfl

theorem pairOf32_eq : Rule.pairOf32 = fun t => if t = .i32 ∨ t = .n32 then 2 else 1 := by
  funext t; cases t <;> rfl

theorem vectorOp_of_runDot {mk : VF → Instr} (r : VRule) (n : Nat) (hcount : ∀ t, r.regs t = 1 ∨ r.regs t = 2)
    (hnamed : ∀ f, (mk f).shape.named = f.named r) (hexec : ∀ f s, exec (mk f) s = runDot r n f s) :
    VectorOp mk r.regs r.lat (fun _ => 0) (Claim.dot r n) :=
  vectorOp_of_runVec r hcount hnamed (fun f s => (hexec f s).trans (runDot_eq r n f s)) fun _ _ _ => rfl

/-! ### Fields (R274) -/

theorem ofNat_mod_two_pow (w x : Nat) : BitVec.ofNat w (x % 2 ^ w) = BitVec.ofNat w x := by
  apply BitVec.eq_of_toNat_eq
  rw [BitVec.toNat_ofNat, BitVec.toNat_ofNat, Nat.mod_mod]

theorem vbfxN_eq (a b c : Nat) :
    (if bfxWid b c = 0 then 0 else a / 2 ^ bfxPos b % 2 ^ bfxWid b c) = a / 2 ^ (b % 32) % 2 ^ min c (32 - b % 32) := by
  split
  · next hzero => rw [← bfxPos, ← bfxWid, hzero, pow_zero, Nat.mod_one]
  · rfl

end Sys2Proof.Machine

namespace Sys2Proof.Claim

open Machine

theorem vectorDotAndWidth : VectorDotAndWidth := by
  refine ⟨?vdot2I, ?vdot2N, ?vdot4I, ?vdot4N, ?vnarrowI, ?vnarrowN, ?vwidenI, ?vwidenN⟩
  case vdot2I => exact vectorOp_of_runDot (Rule.vDot [.i16x2]) 2 regsOf_one_or_two (fun _ => rfl) fun _ _ => rfl
  case vdot2N => exact vectorOp_of_runDot (Rule.vDot [.n16x2]) 2 regsOf_one_or_two (fun _ => rfl) fun _ _ => rfl
  case vdot4I => exact vectorOp_of_runDot (Rule.vDot [.i8x4]) 4 regsOf_one_or_two (fun _ => rfl) fun _ _ => rfl
  case vdot4N => exact vectorOp_of_runDot (Rule.vDot [.n8x4]) 4 regsOf_one_or_two (fun _ => rfl) fun _ _ => rfl
  case vnarrowI =>
    exact vectorOp_of_runVec (Rule.vNarrow [.i16x2, .i8x4]) regsOf_one_or_two (fun _ => rfl) (fun _ _ => rfl) fun _ _ _ => rfl
  case vnarrowN =>
    exact vectorOp_of_runVec (Rule.vNarrow [.n16x2, .n8x4]) regsOf_one_or_two (fun _ => rfl) (fun _ _ => rfl) fun _ _ _ => rfl
  case vwidenI =>
    have hregs : (Rule.vWiden [.i16x2, .i8x4, .i32]).regs = fun t => if t = .i32 ∨ t = .n32 then 2 else 1 := pairOf32_eq
    rw [← hregs]
    exact vectorOp_of_runVec (Rule.vWiden [.i16x2, .i8x4, .i32]) (fun _ => ite_one_or_two _) (fun _ => rfl) (fun _ _ => rfl) fun _ _ _ => rfl
  case vwidenN =>
    have hregs : (Rule.vWiden [.n16x2, .n8x4, .n32]).regs = fun t => if t = .i32 ∨ t = .n32 then 2 else 1 := pairOf32_eq
    rw [← hregs]
    exact vectorOp_of_runVec (Rule.vWiden [.n16x2, .n8x4, .n32]) (fun _ => ite_one_or_two _) (fun _ => rfl) (fun _ _ => rfl) fun _ _ _ => rfl

theorem vectorFieldsAndMoves : VectorFieldsAndMoves := by
  refine ⟨?vbfxN, ?vbfxI, ?vbfi, ?vcmpI, ?vcmpN, ?vsel, ?vmov, ?vlut⟩
  case vbfxN =>
    exact elementOp_of_runElems (Rule.vBfx [.n32]) rfl
      (fun _ a b c => (if bfxWid b c = 0 then 0 else a / 2 ^ bfxPos b % 2 ^ bfxWid b c, 0))
      (fun _ a b c _ => congrArg (·, 0) (vbfxN_eq a b c)) (fun _ => rfl) fun _ _ => rfl
  case vbfxI =>
    refine elementOp_of_runElems (Rule.vBfx [.i32]) rfl
      (fun _ a b c => (if bfxWid b c = 0 then 0 else wrapTo 32 (BitVec.ofNat (bfxWid b c) (a / 2 ^ bfxPos b % 2 ^ bfxWid b c)).toInt, 0))
      (fun _ a b c _ => ?_) (fun _ => rfl) fun _ _ => rfl
    rw [ofNat_mod_two_pow]
    rfl
  case vbfi =>
    refine vectorOp_of_runVec Rule.vBfi regsOf_one_or_two (fun _ => rfl) (fun f s => ?_) fun _ _ _ => rfl
    change execVbfi f s = _
    rw [execVbfi]
    refine runVec_eq fun t l => ?_
    simp only [ofNat_mul_two_pow]
    rfl
  case vcmpI => exact maskOp_of_maskResult (Rule.vCmp [.i32, .i64]) (fun _ => rfl) (fun _ _ => rfl) fun _ _ _ => rfl
  case vcmpN => exact maskOp_of_maskResult (Rule.vCmp [.n32, .n64]) (fun _ => rfl) (fun _ _ => rfl) fun _ _ _ => rfl
  case vsel => exact vectorOp_of_runVec Rule.vSel regsOf_one_or_two (fun _ => rfl) (fun _ _ => rfl) fun _ _ _ => rfl
  case vmov => exact vectorOp_of_runVec Rule.vMov regsOf_one_or_two (fun _ => rfl) (fun _ _ => rfl) fun _ _ _ => rfl
  case vlut => exact vectorOp_of_runVec Rule.vLut regsOf_one_or_two (fun _ => rfl) (fun _ _ => rfl) fun _ _ _ => rfl

end Sys2Proof.Claim

namespace Sys2Proof

/-- Settles O6: products summed one by one are their sum, a field's place and width are the spec's, and each other instruction is run as its
row says. -/
theorem vectorWidthsFieldsMoves : Obligations.VectorWidthsFieldsMoves := ⟨Claim.vectorDotAndWidth, Claim.vectorFieldsAndMoves⟩

end Sys2Proof
end

section
/-! SUPPORT. Vector float instructions and conversions (R276 to R283). -/

namespace Sys2Proof.Machine

open Claim

/-- A float instruction that selects or computes element by element meets its row (R276). -/
theorem vectorOp_of_runFlt {mk : VF → Instr} {draws : VF → Nat} (r : VRule) (hregs : r.regs = regsOf)
    (op : VF → FEnv → FVal → FVal → FVal → Nat × Flags) (hdraws : ∀ f, (if r.rnd then f.ty.elems else 0) = draws f)
    (hnamed : ∀ f, (mk f).shape.named = f.named r) (hexec : ∀ f s, exec (mk f) s = runFlt r f s (op f)) :
    VectorOp mk regsOf r.lat draws fun f => floats r (op f) f := by
  rw [← hregs]
  refine vectorOp_of_advanced r (fun t => hregs ▸ regsOf_one_or_two t) hnamed (fun f s => ?_) fun _ _ _ => rfl
  rw [hexec, runFlt, hdraws]
  exact congrArg (advanced (draws f) f s) (runVec_eq fun _ _ => rfl)

theorem vectorOp_of_runFaithful {mk : VF → Instr} (fn : FFun) (hnamed : ∀ f, (mk f).shape.named = f.named Rule.vfFaithful)
    (hexec : ∀ f s, exec (mk f) s = runFaithful fn f s) : VectorOp mk regsOf 12 (fun _ => 0) (faithful fn) :=
  vectorOp_of_runVec Rule.vfFaithful regsOf_one_or_two hnamed (fun f s => (hexec f s).trans (runVec_eq fun _ _ => rfl)) fun _ _ _ => rfl

/-- Lanes 0 to n - 1 take a value each, the two lanes after them `x` and `y`, and the others nothing. -/
theorem getD_map_range_append (g : Nat → Nat) (n x y l : Nat) :
    ((List.range n).map g ++ [x, y]).getD l 0 = if l < n then g l else if l = n then x else if l = n + 1 then y else 0 := by
  rw [List.getD_eq_getElem?_getD]
  by_cases hl : l < n
  · rw [List.getElem?_append_left (by simpa using hl)]
    simp [hl]
  · obtain ⟨m, rfl⟩ := Nat.exists_eq_add_of_le (not_lt.mp hl)
    rw [List.getElem?_append_right (by simp)]
    match m with
    | 0 => simp
    | 1 => simp
    | m + 2 => simp

end Sys2Proof.Machine

namespace Sys2Proof.Claim

open Machine

theorem vectorFloatArithmetic : VectorFloatArithmetic := by
  refine ⟨?vfadd, ?vfsub, ?vfmul, ?vfma, ?vflrp, ?vfmin, ?vfminNum, ?vfmax, ?vfmaxNum, ?vfclamp, ?vfamax, ?vfsign, ?vfrnd, ?vfscale, ?vfdot2⟩
  case vfadd | vfsub | vfmul => exact vectorOp_of_runFlt Rule.vf2 rfl _ (fun _ => rfl) (fun _ => rfl) fun _ _ => rfl
  case vfma | vflrp => exact vectorOp_of_runFlt Rule.vf3 rfl _ (fun _ => rfl) (fun _ => rfl) fun _ _ => rfl
  case vfmin | vfminNum | vfmax | vfmaxNum | vfamax =>
    exact vectorOp_of_runFlt Rule.vfMin rfl _ (fun _ => rfl) (fun _ => rfl) fun _ _ => rfl
  case vfclamp => exact vectorOp_of_runFlt Rule.vfClamp rfl _ (fun _ => rfl) (fun _ => rfl) fun _ _ => rfl
  case vfsign => exact elementOp_of_runElems Rule.vfSign rfl _ (fun _ _ _ _ _ => rfl) (fun _ => rfl) fun _ _ => rfl
  case vfrnd => exact vectorOp_of_runFlt Rule.vfRnd rfl _ (fun _ => rfl) (fun _ => rfl) fun _ _ => rfl
  case vfscale => exact vectorOp_of_advanced Rule.vfScale regsOf_one_or_two (fun _ => rfl) (fun _ _ => rfl) fun _ _ _ => rfl
  case vfdot2 => exact vectorOp_of_advanced Rule.vfDot2 regsOf_one_or_two (fun _ => rfl) (fun _ _ => rfl) fun _ _ _ => rfl

theorem vectorFloatCompare : VectorFloatCompare := by
  refine ⟨?vfcmp, ?vfclass⟩
  case vfcmp => exact maskOp_of_maskResult Rule.vfCmp (fun _ => rfl) (fun _ _ => rfl) fun _ _ _ => rfl
  case vfclass => exact vectorOp_of_runVec Rule.vfClass regsOf_one_or_two (fun _ => rfl) (fun _ _ => rfl) fun _ _ _ => rfl

theorem vectorSpecialFunctions : VectorSpecialFunctions := by
  refine ⟨?vfrcp, ?vfrsq, ?vfsqrt, ?vfdiv, ?vfexp2, ?vflog2, ?vftanh, ?vferf, ?vfsigm, ?vfsin, ?vfcos⟩
  case vfrcp | vfrsq | vfsqrt => exact vectorOp_of_runFlt Rule.vfRoot rfl _ (fun _ => rfl) (fun _ => rfl) fun _ _ => rfl
  case vfdiv => exact vectorOp_of_runFlt Rule.vfDiv rfl _ (fun _ => rfl) (fun _ => rfl) fun _ _ => rfl
  case vfexp2 | vflog2 | vftanh | vferf | vfsigm | vfsin | vfcos => exact vectorOp_of_runFaithful _ (fun _ => rfl) fun _ _ => rfl

theorem vectorConversions : VectorConversions := by
  refine ⟨?vfcvtw, ?vfcvtn, ?vfcvts, ?vicvtI, ?vicvtN, ?vfcvtiI, ?vfcvtiN⟩
  case vfcvtw => exact vectorOp_of_runVec Rule.vfCvtw regsOf_one_or_two (fun _ => rfl) (fun _ _ => rfl) fun _ _ _ => rfl
  case vfcvtn => exact vectorOp_of_advanced Rule.vfCvtn regsOf_one_or_two (fun _ => rfl) (fun _ _ => rfl) fun _ _ _ => rfl
  case vfcvts => exact vectorOp_of_advanced Rule.vfCvts regsOf_one_or_two (fun _ => rfl) (fun _ _ => rfl) fun _ _ _ => rfl
  case vicvtI =>
    exact vectorOp_of_advanced (Rule.vICvt [.i32, .i64]) (fun _ => .inl rfl) (fun _ => rfl) (fun _ _ => rfl) fun _ _ _ => rfl
  case vicvtN =>
    exact vectorOp_of_advanced (Rule.vICvt [.n32, .n64]) (fun _ => .inl rfl) (fun _ => rfl) (fun _ _ => rfl) fun _ _ _ => rfl
  case vfcvtiI =>
    exact vectorOp_of_advanced (Rule.vFCvti [.i32, .i64]) regsOf_one_or_two (fun _ => rfl) (fun _ _ => rfl) fun _ _ _ => rfl
  case vfcvtiN =>
    exact vectorOp_of_advanced (Rule.vFCvti [.n32, .n64]) regsOf_one_or_two (fun _ => rfl) (fun _ _ => rfl) fun _ _ _ => rfl

theorem vectorBlockPacking : VectorBlockPacking := by
  refine ⟨?vfpack4, ?vfunpk4⟩
  case vfunpk4 => exact vectorOp_of_runVec Rule.vfUnpk4 regsOf_one_or_two (fun _ => rfl) (fun _ _ => rfl) fun _ _ _ => rfl
  case vfpack4 => 
    refine vectorOp_of_runVec Rule.vfPack4 regsOf_one_or_two (fun _ => rfl) (fun f s => ?_) fun _ _ _ => rfl
    change execVfpack4 f s = _
    rw [execVfpack4]
    refine runVec_eq fun t l => ?_
    dsimp only
    rw [List.foldl_map, List.map_map, List.map_map, getD_map_range_append]
    split_ifs <;> rfl

end Sys2Proof.Claim

namespace Sys2Proof

/-- Settles O7: each instruction is run on its elements read under DAZ, and draws where its rule rounds. -/
theorem vectorFloats : Obligations.VectorFloats :=
  ⟨Claim.vectorFloatArithmetic, Claim.vectorFloatCompare, Claim.vectorSpecialFunctions⟩

/-- Settles O8: each conversion rounds once, but VFCVTW, which draws nothing; VFPACK4's words and scales are its list of blocks read by
lane. -/
theorem vectorConversionsAndBlocks : Obligations.VectorConversionsAndBlocks := ⟨Claim.vectorConversions, Claim.vectorBlockPacking⟩

end Sys2Proof
end

section
/-! SUPPORT. Mask instructions, votes and moves across lanes (R286 to R292). -/

namespace Sys2Proof.Machine

open Claim

/-! ### Counts and places of a mask's bits (R287) -/

theorem popMask_eq_countP (m : W64) : popMask m = (List.range 64).countP fun i => m.getLsbD i := popc_eq_countP 64 m.toNat

theorem lowBit_eq_find? (m : W64) : lowBit 64 m.toNat = ((List.range 64).find? fun i => m.getLsbD i).getD 64 := by
  have hbit : (fun i => m.toNat / 2 ^ i % 2 == 1) = fun i => m.getLsbD i := by
    funext i
    rw [BitVec.getLsbD, Nat.testBit_eq_decide_div_mod_eq]
    exact beq_eq_decide _ _
  rw [lowBit, hbit]

/-- The highest bit's place is 63 less the zeros above it. -/
theorem log2_eq_sub_clz {m : W64} (h : m ≠ 0) : BitVec.ofNat 64 (Nat.log2 m.toNat) = 63 - m.clz := by
  have hne : m.toNat ≠ 0 := fun h0 => h (BitVec.eq_of_toNat_eq h0)
  have hlog : Nat.log2 m.toNat < 64 := (Nat.log2_lt hne).mpr m.isLt
  rw [← clz_toNat m, clz, if_neg hne]
  apply BitVec.eq_of_toNat_eq
  rw [BitVec.toNat_sub, BitVec.toNat_ofNat, BitVec.toNat_ofNat]
  change _ = (2 ^ 64 - (64 - 1 - Nat.log2 m.toNat) % 2 ^ 64 + 63) % 2 ^ 64
  omega

theorem shiftMask_eq (a b : W64) :
    shiftMask a b = if 64 ≤ b.toInt.natAbs then 0 else if 0 ≤ b.toInt then a <<< b.toInt.toNat else a >>> (-b.toInt).toNat := by
  rw [shiftMask]
  refine if_congr Iff.rfl rfl ?_
  split
  · rfl
  · next hneg => rw [show b.toInt.natAbs = (-b.toInt).toNat by omega]

/-- A mask instruction that raises no flags meets its row. -/
theorem maskOp_of_runMask {mk : VF → Instr} {g : VF → State → W64} (r : VRule) (hnamed : ∀ f, (mk f).shape.named = f.named r)
    (hexec : ∀ f s, exec (mk f) s = runMask r f s (g f)) (hlanded : ∀ f s rs, g f (s.untrack rs) = g f s) :
    MaskOp mk r.lat fun f s => (g f s, 0) :=
  maskOp_of_maskResult r hnamed hexec fun f s rs => congrArg (·, 0) (hlanded f s rs)

/-- A count meets its row (R287). -/
theorem vectorOp_of_runCount {mk : VF → Instr} (g : W64 → Nat → Nat) (v : W64 → Nat → W64) (hvalue : ∀ m l, BitVec.ofNat 64 (g m l) = v m l)
    (hnamed : ∀ f, (mk f).shape.named = f.named Rule.mCount) (hexec : ∀ f s, exec (mk f) s = runCount f s g) :
    VectorOp mk regsOf 3 (fun _ => 0) fun f s l => (v (s.readM f.a.mask.toNat) l, 0) := by
  refine vectorOp_of_runVec Rule.mCount regsOf_one_or_two hnamed (fun f s => ?_) fun _ _ _ => rfl
  rw [hexec, runCount]
  exact runVec_eq fun t l => congrArg (·, 0) (hvalue _ l)

end Sys2Proof.Machine

namespace Sys2Proof.Claim

open Machine

theorem maskInstructions : MaskInstructions := by
  refine ⟨?mand, ?mor, ?mxor, ?mandn, ?mnot, ?mmov, ?mshift, ?mset, ?mpopc, ?mfirst, ?mlast, ?mget, ?voteAny, ?voteAll, ?voteEq, ?voteBallot⟩
  case mand | mor | mxor | mandn => exact maskOp_of_runMask Rule.m2 (fun _ => rfl) (fun _ _ => rfl) fun _ _ _ => rfl
  case mnot | mmov => exact maskOp_of_runMask Rule.m1 (fun _ => rfl) (fun _ _ => rfl) fun _ _ _ => rfl
  case mshift =>
    refine maskOp_of_runMask Rule.mShift (fun _ => rfl) (fun f s => ?_) fun _ _ _ => rfl
    change execMshift f s = _
    rw [execMshift]
    exact congrArg (runMask Rule.mShift f s) (funext fun t => shiftMask_eq _ _)
  case mset => exact maskOp_of_runMask Rule.mSet (fun _ => rfl) (fun _ _ => rfl) fun _ _ _ => rfl
  case mpopc =>
    exact vectorOp_of_runCount (fun m _ => popMask m) (fun m _ => BitVec.ofNat 64 ((List.range 64).countP fun i => m.getLsbD i))
      (fun m _ => congrArg (BitVec.ofNat 64) (popMask_eq_countP m)) (fun _ => rfl) fun _ _ => rfl
  case mfirst =>
    exact vectorOp_of_runCount (fun m _ => lowBit 64 m.toNat)
      (fun m _ => BitVec.ofNat 64 (((List.range 64).find? fun i => m.getLsbD i).getD 64))
      (fun m _ => congrArg (BitVec.ofNat 64) (lowBit_eq_find? m)) (fun _ => rfl) fun _ _ => rfl
  case mlast =>
    refine vectorOp_of_runCount (fun m _ => if m = 0 then 64 else Nat.log2 m.toNat) (fun m _ => if m = 0 then 64 else 63 - m.clz)
      (fun m _ => ?_) (fun _ => rfl) fun _ _ => rfl
    split
    · rfl
    · next hne => exact log2_eq_sub_clz hne
  case mget =>
    refine vectorOp_of_runCount (fun m l => if m.getLsbD l then 1 else 0) (fun m l => if m.getLsbD l then 1 else 0)
      (fun m l => ?_) (fun _ => rfl) fun _ _ => rfl
    exact apply_ite (BitVec.ofNat 64) ..
  case voteAny | voteAll | voteEq | voteBallot => exact maskOp_of_maskResult Rule.vote (fun _ => rfl) (fun _ _ => rfl) fun _ _ _ => rfl

theorem laneMoves : LaneMoves := by
  refine ⟨?shflIdx, ?shflXor, ?vbcast, ?vrev, ?vext, ?vins⟩
  case shflIdx | shflXor =>
    exact vectorOp_of_runVec (Rule.seg2 .raw) regsOf_one_or_two (fun _ => rfl) (fun _ _ => rfl) fun _ _ _ => rfl
  case vbcast => exact vectorOp_of_runVec (Rule.seg2 .scaInl) regsOf_one_or_two (fun _ => rfl) (fun _ _ => rfl) fun _ _ _ => rfl
  case vrev => exact vectorOp_of_runVec Rule.seg1 regsOf_one_or_two (fun _ => rfl) (fun _ _ => rfl) fun _ _ _ => rfl
  case vext => exact vectorOp_of_runVec Rule.vext regsOf_one_or_two (fun _ => rfl) (fun _ _ => rfl) fun _ _ _ => rfl
  case vins => exact vectorOp_of_runVec Rule.vins regsOf_one_or_two (fun _ => rfl) (fun _ _ => rfl) fun _ _ _ => rfl

end Sys2Proof.Claim

namespace Sys2Proof

/-- Settles O9: each instruction is run on masks or lanes as the row says; counts and places of bits are the spec's, bit by bit. -/
theorem masksAndLaneMoves : Obligations.MasksAndLaneMoves := ⟨Claim.maskInstructions, Claim.laneMoves⟩

end Sys2Proof
end

section
/-! SUPPORT. An exclusive scan whose last lane holds an infinity: it raises NF (R211, R221), though no result comes from that lane. -/

namespace Sys2Proof.Machine

/-- Lanes 0 and 1 execute, and lane 1 of v0 is an infinity. -/
def infinityInLane1 : State :=
  { State.reset with
    wv := { State.reset.wv with gran := 2, v := State.reset.wv.v.put0 1 0x7F800000 },
    st := { State.reset.st with exec := 3 } }

/-- VSCAN.add.ex.f32 v8, v0, 2. -/
def exclusiveScan : VF :=
  { h := { stall := 0, pred := 0, pneg := false, zero := false }, dst := 8, a := .vec 0, b := .inl 0, c := .vec 0, modsel := 0, mod := 0, ty := .f32,
    rnd := 0, sat := false, nega := false, negb := false, negc := false, absa := false, absb := false, sub := 9, ext := none }

theorem exclusiveScan_legal : (Instr.vscanFloat exclusiveScan).legal = true := by decide

theorem infinityInLane1_clear : infinityInLane1.clear (.vscanFloat exclusiveScan) := by decide

/-- NF is raised by the position's own infinity. -/
theorem exec_exclusiveScan_flg :
    (match exec (.vscanFloat exclusiveScan) infinityInLane1 with | .next t => t.wv.flg | _ => 0) = Flag.nf := by decide

/-- The results that the two lanes are given come of lane 0 alone, and raise nothing. -/
theorem laneFlags_scanned_exclusiveScan :
    infinityInLane1.wv.flg ||| laneFlags (infinityInLane1.activeLanes exclusiveScan.h) (Claim.scanned true exclusiveScan infinityInLane1) = 0 := by
  decide

end Sys2Proof.Machine

namespace Sys2Proof

/-- Refutes O10: an exclusive scan raises the flags of every position's own value as well as those of the results that it shifts into
place, so the infinity of a segment's last lane raises NF; the statement gives the flags of the shifted results alone. -/
theorem not_segmentsAndCompaction : ¬ Obligations.SegmentsAndCompaction := by
  intro ⟨⟨_, _, _, hscan⟩, _⟩
  obtain ⟨t, hexec, -, hflg, -⟩ := hscan Machine.exclusiveScan Machine.infinityInLane1 Machine.infinityInLane1_clear
  have hraised := Machine.exec_exclusiveScan_flg
  rw [hexec] at hraised
  have hquiet : t.wv.flg = 0 := hflg.trans Machine.laneFlags_scanned_exclusiveScan
  exact absurd (hraised.symm.trans hquiet) (by decide)

end Sys2Proof
end

section
/-! SUPPORT. Atomics and memory-side reductions past their checks (R304 to R310). -/

namespace Sys2Proof.Machine

open Claim

/-- An atomic of one place, or of one for each lane, past the checks of its address. -/
theorem places_cases {one : Bool} {f : AF} {k : Elem} {s : State} {ys : List LaneLoc}
    (h : s.places .global (if one then s.uniform (AF.addrAt f s 0) else s.laneVas f.h (AF.addrAt f s)) k.bytes .atomic servesAtomic = some ys)
    (run : State → List LaneLoc → Out) :
    (if one then withOne s .global (AF.addrAt f s 0) k.bytes .atomic servesAtomic run
      else withPlaces s .global (s.laneVas f.h (AF.addrAt f s)) k.bytes .atomic servesAtomic run) =
      run (s.undenied .global ys) (if one then ys.take 1 else ys) := by
  cases one with
  | true => exact withOne_some h run
  | false => exact withPlaces_some h run

/-- An RMW whose checks pass meets its row; nothing of it meets an error, so no ATOMUE follows it (R308). -/
theorem atomicOp_of_rmw {mk : AF → Instr} {k : Elem} {ofail : AF → Order} {op : AF → State → Nat → W64 → Option Nat}
    {put : State → AF → (Nat → Option W64) → State} {one : Bool} (r : ARule) (hnamed : ∀ f, (mk f).shape.named = f.named r)
    (hexec : ∀ f s, exec (mk f) s = guarded (f.named r) s fun s => rmw f k (ofail f) (op f) one s fun s old => put s f old) :
    AtomicOp mk k ofail op put one := by
  intro f s ys xs hclear s0 addr hplaces hxs s1 o hwindow s2 s2' hsound hhurt
  rw [hexec, ← hnamed, guarded_landed hclear, rmw, places_cases hplaces, ← hxs, releasing_free hwindow]
  change (match s2'.violations xs with
    | v :: r => _
    | [] => _) = _
  rw [hsound]
  refine (if_neg fun ⟨hsome, _⟩ => ?_).trans (congrArg (fun hurt => Host.Outcome.next (State.atomue _ _ hurt)) hhurt)
  change (!(s2'.rmwHurt xs).isEmpty) = true at hsome
  rw [hhurt] at hsome
  exact Bool.noConfusion hsome

/-- A memory-side reduction whose checks pass meets its row (R309). -/
theorem reductionOp_of_runRed {mk : AF → Instr} {k : Elem} (r : ARule) (hnamed : ∀ f, (mk f).shape.named = f.named r)
    (hexec : ∀ f s, exec (mk f) s = runRed r k f s) : ReductionOp mk k := by
  intro f s xs hclear s0 hplaces s1 hwindow s2 s3 reds
  rw [hexec, runRed, ← hnamed, guarded_landed hclear]
  exact (withPlaces_some hplaces _).trans (releasing_free hwindow _)

end Sys2Proof.Machine

namespace Sys2Proof.Claim

open Machine

theorem atomicInstructions : AtomicInstructions := by
  refine ⟨?atomI32, ?atomI64, ?atomF32, ?cas32, ?cas64, ?satom, ?scas⟩
  case atomI32 => exact atomicOp_of_rmw (Rule.atomI 1) (fun _ => rfl) fun _ _ => rfl
  case atomI64 => exact atomicOp_of_rmw (Rule.atomI 2) (fun _ => rfl) fun _ _ => rfl
  case atomF32 => exact atomicOp_of_rmw Rule.atomF (fun _ => rfl) fun _ _ => rfl
  case cas32 => exact atomicOp_of_rmw (Rule.cas 1) (fun _ => rfl) fun _ _ => rfl
  case cas64 => exact atomicOp_of_rmw (Rule.cas 2) (fun _ => rfl) fun _ _ => rfl
  case satom => exact atomicOp_of_rmw Rule.satom (fun _ => rfl) fun _ _ => rfl
  case scas => exact atomicOp_of_rmw Rule.scas (fun _ => rfl) fun _ _ => rfl

theorem reductionInstructions : ReductionInstructions := by
  refine ⟨?redI32, ?redI64, ?redF32, ?redBf16x2⟩
  case redI32 => exact reductionOp_of_runRed (Rule.redI 1) (fun _ => rfl) fun _ _ => rfl
  case redI64 => exact reductionOp_of_runRed (Rule.redI 2) (fun _ => rfl) fun _ _ => rfl
  case redF32 => exact reductionOp_of_runRed Rule.redF (fun _ => rfl) fun _ _ => rfl
  case redBf16x2 => exact reductionOp_of_runRed Rule.redB (fun _ => rfl) fun _ _ => rfl

end Sys2Proof.Claim

namespace Sys2Proof

/-- Settles O13: past its checks an atomic runs its lanes in turn, and nothing of it meets an error; a reduction is merged or applied lane by
lane. -/
theorem atomicsAndReductions : Obligations.AtomicsAndReductions := ⟨Claim.atomicInstructions, Claim.reductionInstructions⟩

end Sys2Proof
end

section
/-! SUPPORT. Tiles (R323, R332), the waits on the matrix engine (R333) and its steps (R217, R328, R329). -/

namespace Sys2Proof.Machine

open Claim

/-! ### Tiles (R323) -/

theorem Core.grantable_of_owned {x : Core} {w : WaveId} {m : Nat} (h : ((tilesOf m).all fun t => x.ownerOf t == some w) = true) :
    x.grantable w m = true := by
  rw [List.all_eq_true] at h
  refine List.all_eq_true.mpr fun t ht => ?_
  rw [beq_iff_eq.mp (h t ht)]
  exact beq_self_eq_true w

/-- The tiles that MACQ takes: they are all the wave's already, or they can be granted and no starved waiter asks for one of them. -/
def Core.takesTiles (x : Core) (s : State) (m : Nat) : Bool :=
  ((tilesOf m).all fun t => x.ownerOf t == some s.myWave) ||
    (x.grantable s.myWave m && starvedMask s.cycle (x.macqWait.filter fun e => e.who != s.me) &&& m == 0)

theorem takesTiles_of_grantable {x : Core} {s : State} {m : Nat} (hnone : x.macqWait = []) (h : x.grantable s.myWave m = true) :
    x.takesTiles s m = true := by
  have hfree : (starvedMask s.cycle (x.macqWait.filter fun e => e.who != s.me) &&& m) = 0 := by
    rw [hnone]; exact Nat.zero_and m
  rw [Core.takesTiles, h, hfree]
  exact Bool.or_true _

theorem takesTiles_of_barred {x : Core} {s : State} {m : Nat} (h : x.grantable s.myWave m = false) : x.takesTiles s m = false := by
  rw [Core.takesTiles, h, Bool.false_and, Bool.or_false]
  exact Bool.eq_false_iff.mpr fun hall => Bool.noConfusion (h.symm.trans (Core.grantable_of_owned hall))

/-- MACQ past its checks: it takes its tiles, or joins the waiters where its form waits, or answers 0. -/
theorem exec_macq_of_passes {f : XF} {s : State} (h : passes s (.macq f)) :
    let s0 := s.landed (.macq f)
    let m := f.imm.toNat % 256
    let x := s.core s.sq.core
    exec (.macq f) s =
      if x.takesTiles s m then .next (((s0.updCore s.sq.core fun x =>
        { (x.grantTiles s.myWave m) with macqWait := x.macqWait.filter fun e => e.who != s.me }).output f 0 (BitVec.ofNat 64 m) 8).retire f.h)
      else if f.imm.getLsbD 8 then .next ((if x.macqWait.any fun e => e.who == s.me then s0 else
        s0.updCore s.sq.core fun x => { x with macqWait := x.macqWait ++ [{ who := s.me, mask := m, since := s.cycle }] }).hold .blocked)
      else .next ((s0.output f 0 0 4).retire f.h) := by
  change execMacq f s = _
  exact checked_of_passes h _

theorem exec_mrel_of_unused {f : XF} {s : State} (h : passes s (.mrel f))
    (hunused : ∀ e ∈ (s.core s.sq.core).mq, waveOf e.who = s.myWave → (tilesOf (f.imm.toNat % 256)).contains e.tile = false) :
    exec (.mrel f) s = .next (((s.landed (.mrel f)).updCore s.sq.core fun x =>
      x.freeTiles s.cycle fun e => decide (e.2 = s.myWave) && (tilesOf (f.imm.toNat % 256)).contains e.1).retire f.h) := by
  have hfree : ¬ ((s.core s.sq.core).mq.any fun e => waveOf e.who == s.myWave && (tilesOf (f.imm.toNat % 256)).contains e.tile) = true := by
    rw [List.any_eq_true]
    rintro ⟨e, he, huses⟩
    obtain ⟨hmine, htile⟩ := Bool.and_eq_true_iff.mp huses
    exact Bool.noConfusion ((hunused e he (beq_iff_eq.mp hmine)).symm.trans htile)
  change execMrel f s = _
  exact (checked_of_passes h _).trans (if_neg hfree)

/-! ### Rows (R332) -/

/-- The keys of half a row, lane by lane. -/
def halfRow (imm : W32) (l : Nat) : Nat := tileKey (imm.toNat / 256 % 8) (imm.toNat / 2 ^ 11 % 128) (64 * (imm.toNat / 2 ^ 18 % 2) + l)

theorem halfRow_sub (imm : W32) (l : Nat) : halfRow imm l - halfRow imm 0 = l := by
  unfold halfRow tileKey; omega

theorem halfRow_injective (imm : W32) : Function.Injective (halfRow imm) := fun a b hab => by
  rw [← halfRow_sub imm a, hab, halfRow_sub]

/-- Half a row written lane by lane. -/
theorem get0_putAll_halfRow (t : Tab W32) (imm : W32) (g : Nat → W32) (ls : List Nat) (j : Nat) :
    (Tab.putAll t (fun _ => 0) (ls.map fun l => (halfRow imm l, g l))).get0 j =
      if j ∈ ls.map (halfRow imm) then g (j - halfRow imm 0) else t.get0 j := by
  have hkeys : (ls.map fun l => (halfRow imm l, g l)) = (ls.map (halfRow imm)).map fun k => (k, g (k - halfRow imm 0)) := by
    rw [List.map_map]
    exact List.map_congr_left fun l _ => by rw [Function.comp_apply, halfRow_sub]
  rw [hkeys]
  exact Tab.getD_putAll_keys t (fun _ => 0) (fun k => g (k - halfRow imm 0)) _ j

/-- The lanes of EXEC. -/
def State.execLanes (s : State) : List Nat := lanes.filter fun l => s.st.exec.getLsbD l

theorem mem_execLanes {s : State} {l : Nat} : l ∈ s.execLanes ↔ l < 64 ∧ s.st.exec.getLsbD l = true := by
  rw [State.execLanes, List.mem_filter, mem_lanes]

/-- MWR's tile: the lanes of EXEC take the vector register's. -/
def State.rowWritten (s : State) (f : XF) : State :=
  s.updCore s.sq.core fun x =>
    { x with tiles := Tab.putAll x.tiles (fun _ => 0) (s.execLanes.map fun l =>
               (halfRow f.imm l, (lanes.map fun l => s.readV (f.imm.toNat % 256) l).getD l 0)),
             tilePoison := dropNats x.tilePoison (s.execLanes.map (halfRow f.imm)) }

/-- A row whose elements are sound is read (R332, R368). -/
theorem rowMove_of_clean {s : State} {core : Nat} {m : MacroOp} (hop : m.op ≠ opMwr)
    (hclean : ((lanes.filter fun l => m.mask.getLsbD l).filter fun l => (s.core core).tilePoison.contains (m.rowKey l)) = []) :
    s.rowMove core m = s.writeVTracked (m.imm.toNat % 256) m.mask (fun l => (s.core core).tiles.get0 (m.rowKey l)) 8 := by
  rw [State.rowMove]
  dsimp only
  rw [if_neg hop, hclean]
  rfl

/-- A move of the wave's own tile, with nothing queued, is performed at once. -/
theorem runRow_of_empty {op : Nat} {r : XRule} {f : XF} {s : State} {i : Instr} (hshape : i.shape.named = f.named r) (h : passes s i)
    (howns : s.ownsTile (f.imm.toNat / 256 % 8) = true) (hempty : (s.core s.sq.core).mq = []) :
    let s0 := s.landed i
    let m := s0.newOp op f.imm [] (if op = opMwr then lanes.map fun l => s0.readV (f.imm.toNat % 256) l else [])
    runRow op r f s = .next (if (s0.rowMove s.sq.core m).st.traps = s0.st.traps then (s0.rowMove s.sq.core m).retire f.h
      else s0.rowMove s.sq.core m) := by
  intro s0 m
  have hown : ¬ (!s.ownsTile (f.imm.toNat / 256 % 8)) = true := by rw [howns]; exact Bool.false_ne_true
  have hidle : ¬ ((s.core s.sq.core).mq.any (s0.waitsFor m)) = true := by rw [hempty]; exact Bool.false_ne_true
  rw [runRow, ← hshape, checked_of_passes h]
  exact (if_neg hown).trans (if_neg hidle)

theorem exec_mrd_of_empty {f : XF} {s : State} (h : passes s (.mrd f)) (howns : s.ownsTile (f.imm.toNat / 256 % 8) = true)
    (hempty : (s.core s.sq.core).mq = [])
    (hsound : ∀ l, l < 64 → s.st.exec.getLsbD l = true → halfRow f.imm l ∉ (s.core s.sq.core).tilePoison) :
    exec (.mrd f) s = .next (((s.landed (.mrd f)).writeVTracked (f.imm.toNat % 256) s.st.exec
      (fun l => (s.core s.sq.core).tiles.get0 (halfRow f.imm l)) 8).retire f.h) := by
  have hclean : (s.execLanes.filter fun l => (s.core s.sq.core).tilePoison.contains (halfRow f.imm l)) = [] := by
    refine List.filter_eq_nil_iff.mpr fun l hl hbad => ?_
    obtain ⟨hlt, hexec⟩ := mem_execLanes.mp hl
    exact hsound l hlt hexec (List.contains_iff_mem.mp hbad)
  change execMrd f s = _
  refine (runRow_of_empty rfl h howns hempty).trans ?_
  rw [rowMove_of_clean (show opMrd ≠ opMwr by decide) hclean]
  exact congrArg Host.Outcome.next (if_pos rfl)

theorem exec_mwr_of_empty {f : XF} {s : State} (h : passes s (.mwr f)) (howns : s.ownsTile (f.imm.toNat / 256 % 8) = true)
    (hempty : (s.core s.sq.core).mq = []) : exec (.mwr f) s = .next (((s.landed (.mwr f)).rowWritten f).retire f.h) := by
  change execMwr f s = _
  exact (runRow_of_empty rfl h howns hempty).trans (congrArg Host.Outcome.next (if_pos rfl))

theorem getD_map_lanes (g : Nat → W32) {l : Nat} (h : l < 64) : (lanes.map g).getD l 0 = g l := by
  simp [lanes, List.getD_eq_getElem?_getD, h]

theorem rowWritten_tiles (s : State) (f : XF) (j : Nat) :
    ((s.rowWritten f).core s.sq.core).tiles.get0 j =
      if j ∈ s.execLanes.map (halfRow f.imm) then (lanes.map fun l => s.readV (f.imm.toNat % 256) l).getD (j - halfRow f.imm 0) 0
      else (s.core s.sq.core).tiles.get0 j := by
  rw [State.rowWritten, State.core_updCore, if_pos rfl]
  exact get0_putAll_halfRow _ _ _ _ j

theorem rowWritten_tiles_row (s : State) (f : XF) {l : Nat} (h : l < 64) :
    ((s.rowWritten f).core s.sq.core).tiles.get0 (halfRow f.imm l) =
      if s.st.exec.getLsbD l then s.readV (f.imm.toNat % 256) l else (s.core s.sq.core).tiles.get0 (halfRow f.imm l) := by
  rw [rowWritten_tiles, halfRow_sub, getD_map_lanes _ h]
  refine if_congr ?_ rfl rfl
  rw [List.mem_map_of_injective (halfRow_injective f.imm), mem_execLanes, and_iff_right h]

theorem rowWritten_tiles_other (s : State) (f : XF) {j : Nat} (h : ∀ l, l < 64 → j ≠ halfRow f.imm l) :
    ((s.rowWritten f).core s.sq.core).tiles.get0 j = (s.core s.sq.core).tiles.get0 j := by
  rw [rowWritten_tiles, if_neg]
  intro hmem
  obtain ⟨l, hl, rfl⟩ := List.mem_map.mp hmem
  exact h l (mem_execLanes.mp hl).1 rfl

/-! ### Waits (R333) -/

/-- The entries that MWAIT waits for: the path's, of the tiles that it names, or of every tile. -/
def MacroOp.awaited (s : State) (f : XF) (e : MacroOp) : Bool :=
  s.issuedHere e.who e.id && (f.imm.toNat % 256 == 0 || (tilesOf (f.imm.toNat % 256)).contains e.tile)

theorem exec_mwait_of_passes {f : XF} {s : State} (h : passes s (.mwait f)) :
    exec (.mwait f) s = if (s.core s.sq.core).mq.any (MacroOp.awaited s f) then .next ((s.landed (.mwait f)).hold .blocked)
      else fenceAt (s.landed (.mwait f)) .ar .core f.h := by
  change execMwait f s = _
  exact checked_of_passes h _

/-- A fence of scope core keeps the core's copies (R107). -/
theorem fenceAt_core_of_free {s : State} (howed : s.windowOwed = false) (h : Head) : fenceAt s .ar .core h = .next (s.flushMine.retire h) :=
  fenceAt_of_free (fun _ => howed) .core h

/-- The entry that MSTEP waits for: of the path, and the one that it met first where it has waited. -/
def MacroOp.stepped (s : State) (e : MacroOp) : Bool := s.issuedHere e.who e.id && e.isMacro && (s.st.flushed == 0 || e.id + 1 == s.st.flushed)

/-- MSTEP's note of what it waits for. -/
def State.withFlushed (s : State) (n : Nat) : State := { s with st := { s.st with flushed := n } }

theorem exec_mstep_of_passes {f : XF} {s : State} (h : passes s (.mstep f)) :
    exec (.mstep f) s = match (s.core s.sq.core).mq.find? (MacroOp.stepped s) with
      | some e => if e.step < f.imm.toNat % 4096 then .next (((s.landed (.mstep f)).withFlushed (e.id + 1)).hold .blocked)
        else .next (((s.landed (.mstep f)).withFlushed 0).retire f.h)
      | none => .next (((s.landed (.mstep f)).withFlushed 0).retire f.h) := by
  change execMstep f s = _
  exact checked_of_passes h _

/-! ### Steps (R217, R328, R329) -/

theorem exec_macroOpStep_of_sound {c : BitVec 8} {s : State} {m : MacroOp} (hcurrent : (s.core c.toNat).current s.cycle = some m)
    (hpass : m.pass = false) (hfrozen : s.frozen.contains (clusterOfCore c.toNat) = false) (hgoes : s.opsPaused = false)
    (hsound : ∀ o ∈ m.stepReads, s.spBad (.core c.toNat) o = false) :
    exec (.macroOpStep c none) s = .next
      ((if m.op ≤ 0x123 then s.mmaChunks c.toNat m m.chunk (mmaLen m.op m.imm m.step / mmaChunk m.op - m.chunk) else s.tileStep c.toNat m).stepDone
        c.toNat m) := by
  have hreads : (m.stepReads.find? fun o => s.spBad (.core c.toNat) o) = none :=
    List.find?_eq_none.mpr fun o ho hbad => Bool.noConfusion ((hsound o ho).symm.trans hbad)
  have hruns : ¬ (s.frozen.contains (clusterOfCore c.toNat) = true ∨ s.opsPaused = true) := by
    rw [hfrozen, hgoes]; simp
  change execMacroOpStep c none s = _
  rw [execMacroOpStep]
  dsimp only
  rw [hcurrent]
  dsimp only
  rw [if_neg hruns, hpass, if_neg Bool.false_ne_true, hreads]
  simp only [State.passPoison, hpass, Bool.false_eq_true, if_false, Option.filter_none]
  split <;> rfl

end Sys2Proof.Machine

namespace Sys2Proof.Claim

open Machine

theorem tilesRowsAndWaits : TilesRowsAndWaits := by
  refine ⟨fun f s hpasses => ?macq, fun f s hpasses => ?mrel, fun f s hpasses howns hempty => ?mrd,
    fun f s hpasses howns hempty => ?mwr, fun f s hpasses => ?mwait, fun f s hpasses => ?mstep⟩
  case macq =>
    intro s0 m x
    have hexec := exec_macq_of_passes hpasses
    refine ⟨fun hnone hgrant => ?_, fun hbarred hanswers => ?_, fun hbarred hwaits hnone => ?_⟩
    · exact hexec.trans (if_pos (takesTiles_of_grantable hnone hgrant))
    · rw [hexec, takesTiles_of_barred hbarred, if_neg Bool.false_ne_true, hanswers, if_neg Bool.false_ne_true]
    · rw [hexec, takesTiles_of_barred hbarred, if_neg Bool.false_ne_true, hwaits, if_pos rfl, hnone, if_neg (by simp)]
      have hfirst : (s0.core s.sq.core).macqWait = [] := hnone
      rw [State.updCore, State.updCore, hfirst]
      rfl
  case mrel => exact exec_mrel_of_unused hpasses
  case mrd => exact exec_mrd_of_empty hpasses howns hempty
  case mwr =>
    exact ⟨_, exec_mwr_of_empty hpasses howns hempty, rfl, rfl, rfl, fun l hl => rowWritten_tiles_row _ f hl,
      fun k hk => rowWritten_tiles_other _ f hk⟩
  case mwait =>
    intro busy
    have hexec := exec_mwait_of_passes hpasses
    exact ⟨fun hbusy => hexec.trans (if_pos hbusy), fun hidle howed =>
      (hexec.trans (if_neg (Bool.eq_false_iff.mp hidle))).trans (fenceAt_core_of_free (s := s.landed (.mwait f)) howed f.h)⟩
  case mstep =>
    intro mine at_
    have hexec := exec_mstep_of_passes hpasses
    refine ⟨fun hdone => ?_, fun e hmine hbehind => ?_⟩
    · rw [hexec]
      split
      · next e he => exact if_neg (hdone e he).not_gt
      · rfl
    · rw [hexec, show (s.core s.sq.core).mq.find? (MacroOp.stepped s) = some e from hmine]
      exact if_pos hbehind

theorem macroOperationStep : MacroOperationStep :=
  fun _ _ _ hcurrent hpass hfrozen hgoes hsound => exec_macroOpStep_of_sound hcurrent hpass hfrozen hgoes hsound

end Sys2Proof.Claim

namespace Sys2Proof

/-- Settles O26: MACQ takes its tiles by the owners and the waiters; a row's half is its lanes' keys, each of one lane; MWAIT and MSTEP wait by
the queue, and a step whose sources are sound runs to its end. -/
theorem tilesAndMacroSteps : Obligations.TilesAndMacroSteps := ⟨Claim.tilesRowsAndWaits, Claim.macroOperationStep⟩

end Sys2Proof
end
section
/-! SUPPORT. The issue of a copy command (R321, R334, R417). -/

namespace Sys2Proof.Machine

open Claim

/-! ### An operand that names a completion word -/

theorem withWord_none {s : State} {v : W64} {align : Nat} {cluster : Bool} (h : s.wordFault v align cluster = none) (k : State → Out) :
    withWord s v align cluster k = k s := by rw [withWord, h]

theorem withWord_form {s : State} {v : W64} {align : Nat} {cluster : Bool} (h : s.wordFault v align cluster = some .form)
    (k : State → Out) : withWord s v align cluster k = s.protX 6 v := by rw [withWord, h]

theorem withWord_misaligned {s : State} {v : W64} {align : Nat} {cluster : Bool} (h : s.wordFault v align cluster = some .misaligned)
    (k : State → Out) : withWord s v align cluster k = misalign s v s.st.exec := by rw [withWord, h]

theorem withWord_unowned {s : State} {v : W64} {align : Nat} {cluster : Bool} (h : s.wordFault v align cluster = some .unowned)
    (k : State → Out) : withWord s v align cluster k = s.protX 8 v := by rw [withWord, h]

/-! ### Acceptance -/

/-- The command that the issue of a copy forms. -/
def State.copyCommand (s : State) (op : Nat) (f : XF) (block : List W64) : Command :=
  { s.newCommand op (s.dvals f) f.imm .queued with
    block, denied := s.st.deny.any fun x => x.page == pageOf (dval (s.dvals f) 2).toNat, asked := s.st.asked }

/-- The command enters the lists, its stream's own record of the wait being cleared. -/
def State.listed (s : State) (c : Command) : State :=
  { s.addCommand c with st := { (s.addCommand c).st.cleared with asked := [] } }

/-- What the issue of a copy does with the answer of its acceptance. -/
def acceptOut (f : XF) (s : State) (c : Command) : Accept → Out
  | .full => .next (s.hold .blocked)
  | .waits pages s1 => .next (s1.hold (.accept pages))
  | .asks s1 asked => .next ({ s1 with st := { s1.st with asked } }.hold .blocked)
  | .ends s1 st => .next (((s1.listed c).finish c st).retire f.h)
  | .spoiled s1 => .next (((s1.listed c).finish c Status.poison).retire f.h)
  | .accepted s1 bs => .next (((s1.listed c).enterCopy c bs).retire f.h)

/-- Past its word and its own checks, a copy's issue is the answer of its acceptance. -/
theorem exec_of_issueCopy {mk : XF → Instr} {op : Nat} {cluster : Bool} {f : XF} {s : State} {block : List W64} (r : XRule)
    {pre : State → Except (State → Out) (List W64)} (hnamed : (mk f).shape.named = f.named r)
    (hexec : exec (mk f) s = issueCopy r op f s cluster pre) (h : passes s (mk f))
    (hword : (s.landed (mk f)).wordFault (dval ((s.landed (mk f)).dvals f) 3) 8 cluster = none) (hpre : pre (s.landed (mk f)) = .ok block) :
    exec (mk f) s = acceptOut f (s.landed (mk f)) ((s.landed (mk f)).copyCommand op f block)
      ((s.landed (mk f)).accept? ((s.landed (mk f)).copyCommand op f block)) := by
  rw [hexec, issueCopy, ← hnamed, checked_of_passes h, withWord_none hword]
  dsimp only
  rw [hpre]
  change (match (s.landed (mk f)).accept? ((s.landed (mk f)).copyCommand op f block) with
    | .full => _
    | .waits _ _ => _
    | .asks _ _ => _
    | .ends _ _ => _
    | .spoiled _ => _
    | .accepted _ _ => _) = _
  cases (s.landed (mk f)).accept? ((s.landed (mk f)).copyCommand op f block) <;> rfl

/-- The issue of a copy whose acceptance succeeds meets its row (R334). -/
theorem copyIssue_of_issueCopy {mk : XF → Instr} {op : Nat} {cluster : Bool} {ok : XF → State → List W64 → Prop} (r : XRule)
    (pre : XF → State → Except (State → Out) (List W64)) (hnamed : ∀ f, (mk f).shape.named = f.named r)
    (hexec : ∀ f s, exec (mk f) s = issueCopy r op f s cluster (pre f)) (hpre : ∀ f s block, ok f s block → pre f s = .ok block) :
    CopyIssue mk op cluster ok := by
  intro f s t block bs h s0 hword hok c hacc
  exact (exec_of_issueCopy r (hnamed f) (hexec f s) h hword (hpre f s0 block hok)).trans (congrArg (acceptOut f s0 c) hacc)

/-- The same for a copy that brings no block. -/
theorem copyIssue_of_noBlock {mk : XF → Instr} {op : Nat} (r : XRule) (hnamed : ∀ f, (mk f).shape.named = f.named r)
    (hexec : ∀ f s, exec (mk f) s = issueCopy r op f s true noBlock) : CopyIssue mk op true fun _ _ b => b = [] :=
  copyIssue_of_issueCopy r (fun _ => noBlock) hnamed hexec fun _ _ _ h => h ▸ rfl

/-- A copy pins its squad as it enters the engine where its acceptance does (R158). -/
theorem pinned_enterCopy {t : State} {c : Command} (bs : List W8) (hsid : t.sq.sid = c.who.sid) :
    (t.enterCopy c bs).sq.inst.pinned = (t.sq.inst.pinned || (match t.squad? c.who.sid with
      | some q => t.acceptPins c q.inst bs
      | none => false)) := by
  rw [State.enterCopy]
  cases hsquad : t.squad? c.who.sid with
  | none => exact (Bool.or_false _).symm
  | some q =>
    cases hpins : t.acceptPins c q.inst bs <;> simp [hpins, State.pinSquad, hsid, State.putCommand, State.pin]

end Sys2Proof.Machine

namespace Sys2Proof.Claim

open Machine

theorem copyCommandsIssue : CopyCommandsIssue := by
  refine ⟨?cpy, ?cpyf, ?cpym, ?cpyz, ?cpyk, ?cpyp, ?cfill, ?cpyat⟩
  case cpy => exact copyIssue_of_noBlock (Rule.command 0b001111) (fun _ => rfl) fun _ _ => rfl
  case cpyf => exact copyIssue_of_issueCopy (Rule.command 0b011111) followBlock (fun _ => rfl) (fun _ _ => rfl) fun _ _ _ h => h
  case cpym =>
    intro f s t block bs h s0 hword hok c hacc
    obtain ⟨rfl, hsome, hfew⟩ := hok
    refine (exec_of_issueCopy (mk := .cpym) (block := []) (Rule.command 0b011111) rfl rfl h hword (if_neg ?_)).trans (congrArg (acceptOut f s0 c) hacc)
    exact not_or.2 ⟨hsome, not_not.2 hfew⟩
  case cpyz => exact copyIssue_of_noBlock (Rule.command 0b011111) (fun _ => rfl) fun _ _ => rfl
  case cpyk => exact copyIssue_of_noBlock (Rule.command 0b001111) (fun _ => rfl) fun _ _ => rfl
  case cpyp => exact copyIssue_of_noBlock (Rule.command 0b001111) (fun _ => rfl) fun _ _ => rfl
  case cfill => exact copyIssue_of_noBlock (Rule.command 0b001111) (fun _ => rfl) fun _ _ => rfl
  case cpyat =>
    intro f s h s0 t hword hroom c
    have hissue : ∀ k, checked (Instr.shape (.cpyat f)).named s (fun s => withWord s (dval (s.dvals f) 3) 8 true k) = k s0 := fun k =>
      (checked_of_passes h _).trans (withWord_none hword k)
    have hfree : ¬ 16 ≤ s0.timersUsed s0.sq.core := Nat.not_le.2 hroom
    refine ⟨fun hlater => ?_, fun hpast => ?_⟩
    · exact (hissue _).trans ((if_neg hfree).trans (if_neg (Nat.not_le.2 hlater)))
    · exact (hissue _).trans ((if_neg hfree).trans (if_pos hpast))

theorem copyCommandRefusals : CopyCommandRefusals := by
  intro f s h s0 v c trap
  have hissue (o : Out) (hout : ∀ k, withWord s0 v 8 true k = o) : exec (.cpy f) s = o := by
    change execCpy f s = o
    rw [execCpy, issueCopy]
    exact (checked_of_passes (i := .cpy f) h _).trans (hout _)
  have haccept (hword : s0.wordFault v 8 true = none) : exec (.cpy f) s = acceptOut f s0 c (s0.accept? c) :=
    exec_of_issueCopy (mk := .cpy) (pre := noBlock) (Rule.command 0b001111) rfl rfl h hword rfl
  refine ⟨fun hform => ?form, fun hmis => ?misaligned, fun hun => ?unowned, fun hword hfull => ?full, fun t st hword hend => ?ends,
    fun t bs hsid => pinned_enterCopy bs hsid, fun t i bs hpins => ?pins⟩
  case form => exact hissue _ (withWord_form hform)
  case misaligned => exact hissue _ (withWord_misaligned hmis)
  case unowned => exact hissue _ (withWord_unowned hun)
  case full => rw [haccept hword, hfull]; rfl
  case ends =>
    rw [haccept hword]
    obtain hend | ⟨hspoiled, rfl⟩ := hend
    · rw [hend]; rfl
    · rw [hspoiled]; rfl
  case pins => simp [State.acceptPins, hpins]

end Sys2Proof.Claim

namespace Sys2Proof

/-- Settles O28: past its word and its own checks, the issue of a copy is the answer of its acceptance. -/
theorem copyCommands : Obligations.CopyCommands := ⟨Claim.copyCommandsIssue, Claim.copyCommandRefusals⟩

end Sys2Proof
end
section
/-! SUPPORT. Collectives (R345 to R347): their issue, and the end of one whose members' streams are all here. -/

namespace Sys2Proof.Machine

open Claim

/-- A collective on a group that this package belongs to meets its row (R345, R346). -/
theorem collIssue_of_issueColl {mk : XF → Instr} {op : Nat} (r : XRule) (hnamed : ∀ f, (mk f).shape.named = f.named r)
    (hexec : ∀ f s, exec (mk f) s = issueColl r op f s) : CollIssue mk op := by
  intro f s h s0 d late c g hword hslots hg hvalid hrank
  have hroom : ¬ (late = true ∧ 64 ≤ s0.collArmed (dieOfCore s0.sq.core)) := fun hfull => absurd (hslots hfull.1) (Nat.not_lt.2 hfull.2)
  have hnumber : ¬ 4096 ≤ g := Nat.not_le.2 hg
  have hmember : ¬ ((!(s0.group g).valid) = true ∨ (s0.rankIn g).isNone = true) := by
    rw [hvalid, ← Option.not_isSome, hrank]
    decide
  rw [hexec, issueColl, ← hnamed, checked_of_passes h]
  refine ⟨fun hbad => ?_, fun hgood => ?_⟩
  · exact (withWord_none hword _).trans ((if_neg hroom).trans ((if_neg hnumber).trans ((if_neg hmember).trans (if_pos hbad))))
  · exact (withWord_none hword _).trans ((if_neg hroom).trans ((if_neg hnumber).trans ((if_neg hmember).trans (if_neg (Bool.not_eq_true _ ▸ hgood)))))

/-- An engine that reads nothing asks no peer. -/
theorem engAsk_nil (s : State) (c : Command) : s.engAsk c [] = none := rfl

/-- A stream that has been sent whole sends nothing more. -/
theorem collSend_sent (s : State) (c : Command) (peers : List Nat) {stream : List W8} (bad : List Nat) {sent : Nat} (fuel : Nat)
    (hsent : stream.length ≤ sent) : s.collSend c peers stream bad sent fuel = (s, sent) := by
  cases fuel with
  | zero => rfl
  | succ fuel => exact if_pos (.inl hsent)

/-- No address is left that an engine would have to wait for. -/
theorem byPage_of_found {src dst : List Nat} {s : State} {c : Command} (hsrc : ∀ v ∈ src, s.engByte c 0 .read v ≠ .miss)
    (hdst : ∀ v ∈ dst, s.engByte c 0 .write v ≠ .miss) :
    byPage ((src.filter fun v => s.engByte c 0 .read v == .miss).map (fun v => (v, .read)) ++
      (dst.filter fun v => s.engByte c 0 .write v == .miss).map fun v => (v, .write)) = [] := by
  have hnone : ∀ {vs : List Nat} {a : Acc}, (∀ v ∈ vs, s.engByte c 0 a v ≠ .miss) → vs.filter (fun v => s.engByte c 0 a v == .miss) = [] :=
    fun h => List.filter_eq_nil_iff.2 fun v hv => by simpa using h v hv
  rw [hnone hsrc, hnone hdst]
  rfl

end Sys2Proof.Machine

namespace Sys2Proof

open Machine

/-- Settles O30: the issue of a collective, and its end from the streams of its members. -/
theorem collectives : Obligations.Collectives := by
  refine ⟨?allreduce, ?reducescatter, ?allgather, ?bcast, ?timed, ?ended, ?left⟩
  case allreduce => exact collIssue_of_issueColl (Rule.command 0b101111) (fun _ => rfl) fun _ _ => rfl
  case reducescatter => exact collIssue_of_issueColl (Rule.command 0b101111) (fun _ => rfl) fun _ _ => rfl
  case allgather => exact collIssue_of_issueColl (Rule.command 0b101111) (fun _ => rfl) fun _ _ => rfl
  case bcast => exact collIssue_of_issueColl (Rule.command 0b101111) (fun _ => rfl) fun _ _ => rfl
  case timed => exact collIssue_of_issueColl (Rule.command 0b111111) (fun _ => rfl) fun _ _ => rfl
  case ended =>
    intro k s c rank hcmd hclass hrunning g n hrank hremoved hdenied htaken hsent hsrc hdst hin
    have hdrain : c.phase.isDraining = false := by rw [hrunning]; rfl
    have harmed : ¬ (opClass c.op ≠ 4 ∨ c.phase = .armed) := by simp [hclass, hrunning]
    have hfailed : ((s.peersIn g).map fun m => s.collIn m g (collNumber c)).find? (fun x => x.status != 0) = none :=
      List.find?_eq_none.2 fun x hx => by
        obtain ⟨m, hm, rfl⟩ := List.mem_map.1 hx
        simpa using (hin m hm).1
    have hrefused : ¬ (((collSource c n rank).any fun v => s.engByte c 0 .read v == .refused) ||
        (collDest c n).any fun v => s.engByte c 0 .write v == .refused) = true := by
      simpa using ⟨fun v hv => (hsrc v hv).2, fun v hv => (hdst v hv).2⟩
    change execCollectiveComplete k s = _
    rw [execCollectiveComplete, hcmd]
    dsimp only
    rw [hdrain, hrank]
    refine (if_neg harmed).trans ?_
    rw [hremoved, hdenied, hfailed, byPage_of_found (fun v hv => (hsrc v hv).1) fun v hv => (hdst v hv).1]
    refine (if_neg hrefused).trans ?_
    simp only [htaken, engAsk_nil, decide_false, ← hsent, collSend_sent, le_refl, ite_self, List.append_nil, false_and, reduceIte, Bool.not_false,
      Bool.false_eq_true]
    exact (if_neg (not_or.2 ⟨lt_irrefl _, by simpa using fun m hm => (hin m hm).2.1⟩)).trans
      (if_neg (by simpa using fun m hm => (hin m hm).2.2))
  case left =>
    intro k s c hcmd hclass hdrain hrank
    change execCollectiveComplete k s = _
    rw [execCollectiveComplete, hcmd]
    dsimp only
    rw [hdrain, hrank]
    exact if_pos hclass

end Sys2Proof
end
section
/-! SUPPORT. NVMe queue pairs and fabric operations past their checks (R348 to R352). -/

namespace Sys2Proof.Machine

open Claim

/-! ### Operands -/

/-- A D field that is not named is s0, which reads as zero (R227). -/
theorem dval_dvals (s : State) (f : XF) (k : Nat) : dval (s.dvals f) k = s.readS (dreg f k) := by
  rw [dval, State.dvals, dreg, List.getD_eq_getElem?_getD, List.getElem?_map, List.getD_eq_getElem?_getD]
  cases f.d[k]? <;> rfl

/-! ### Queue pairs (R349) -/

theorem withQp_mine {s : State} {v : W64} (hnumber : v.toNat < 1024) (hen : (s.qpDesc v.toNat).en = true)
    (hpart : (s.qpDesc v.toNat).part = s.sq.inst.part) (k : State → Nat → QpDesc → Out) : withQp s v k = k s.pin v.toNat (s.qpDesc v.toNat) := by
  have hmod : v.toNat % 1024 = v.toNat := Nat.mod_eq_of_lt hnumber
  rw [withQp, hmod]
  exact if_neg (by simp [hnumber, hen, hpart])

theorem withQp_refused {s : State} {v : W64} (h : 1024 ≤ v.toNat ∨ (s.qpDesc (v.toNat % 1024)).en = false ∨
    (s.qpDesc (v.toNat % 1024)).part ≠ s.sq.inst.part) (k : State → Nat → QpDesc → Out) : withQp s v k = s.protX 0xD v := by
  rw [withQp]
  exact if_pos (h.imp_right (Or.imp_left fun hen => by rw [hen]; rfl))

/-- Opcodes that NVSUB knows, and those that move data (R348). -/
theorem nvOpKnown_iff (op : Nat) : nvOpKnown op = true ↔ op = 0x00 ∨ op = 0x01 ∨ op = 0x02 ∨ op = 0x08 := by
  simp [nvOpKnown, or_assoc]

theorem nvOpData_iff (op : Nat) : nvOpData op = true ↔ op = 0x01 ∨ op = 0x02 := by simp [nvOpData]

/-- The answer's flags stand for what was found (R348). -/
theorem nvAnswer_congr {a b c full known range : Prop} [Decidable a] [Decidable b] [Decidable c] [Decidable full] [Decidable known]
    [Decidable range] (ha : a ↔ full) (hb : b ↔ known) (hc : c ↔ range) (tail : Nat) :
    tail + (if a then 2 ^ 31 else 0) + (if b then 0 else 2 ^ 30) + (if c then 2 ^ 29 else 0) =
      tail + (if full then 2 ^ 31 else 0) + (if known then 0 else 2 ^ 30) + if range then 2 ^ 29 else 0 := by
  simp only [ha, hb, hc]

theorem releasing_owed {s : State} {o : Order} (ho : Order.releases o = true) (h : s.windowOwed = true) (k : State → Out) :
    releasing s o k = .next (s.hold .blocked) := by
  rw [releasing, if_pos ho, if_pos h]

/-- Reading the lines of a queue entry leaves the focused stream. -/
theorem keepsFocus_touch (s : State) (key cp : Nat) (c p : Bool) (lines : List Nat) : KeepsFocus s (s.touch key cp c p lines) :=
  KeepsFocus.foldl (fun t line => keepsFocus_l2Use t line key cp c p (cp == 1)) lines s

end Sys2Proof.Machine

namespace Sys2Proof

open Machine

/-- Settles O31: what NVSUB, NVDB and NVCQ do with a queue pair that is the partition's, and with one that is not. -/
theorem nvmeQueues : Obligations.NvmeQueues := by
  refine ⟨?nvsub, ?nvdb, ?refused, ?nvcq⟩
  case nvsub =>
    intro f s h s0 d q x z op psdt data len off range full known mine hnumber hen hpart
    have hmine (k : State → State → Nat → QpDesc → Out) :
        checked (f.named Rule.nvsub) s (fun s => withQp s (dval (s.dvals f) 0) (k s)) = k (s.landed (.nvsub f)) s0 q x :=
      (checked_of_passes (i := .nvsub f) h _).trans (withQp_mine (s := s.landed _) hnumber hen hpart _)
    have hfull : decide ((z.tail + 1) % x.sqSize = z.sqHead) = true ↔ full := decide_eq_true_iff
    have hknown : nvOpKnown op = true ↔ known := nvOpKnown_iff op
    have hrange : (nvOpData op && (decide (x.winSize < off + len) || (psdt == 0 && decide (513 < memPages (x.winBase + off) len)))) = true ↔
        range := by
      simp only [nvOpData_iff, Bool.and_eq_true, Bool.or_eq_true, decide_eq_true_eq, beq_iff_eq]
      rfl
    have hunknown : (!nvOpKnown op) = true ↔ ¬ known := by rw [← hknown, Bool.not_eq_true, Bool.not_eq_true']
    have hrefused := or_congr hfull (or_congr hunknown hrange)
    refine ⟨fun hanswered => ?answered, fun hroom hop hfits t n => ?paid⟩
    case answered =>
      change execNvsub f s = _
      rw [execNvsub]
      dsimp only
      rw [hmine]
      exact (if_pos (hrefused.2 hanswered)).trans
        (congrArg (fun n => Host.Outcome.next ((s0.output f 5 (BitVec.ofNat 64 n) 200).retire f.h)) (nvAnswer_congr hfull hknown hrange z.tail))
    case paid =>
      intro total hpaid
      have htotal : (if nvOpData op then len else 0) = total := if_congr (nvOpData_iff op) rfl rfl
      have hanswer : ¬ (full ∨ ¬ known ∨ range) := not_or.2 ⟨hroom, not_or.2 ⟨not_not.2 hop, hfits⟩⟩
      have hsame : (s.landed (.nvsub f)).dvals f = d := rfl
      rw [show exec (.nvsub f) s = execNvsub f s from rfl, execNvsub]
      dsimp only
      have hpays : s0.nvAllot (s0.sq.inst.region.nvme s0.sq.inst.part) total (total / 4096 + 1) s0.st.flushed = (t, n) := hpaid
      rw [hmine, hsame]
      refine ⟨fun hshort => (if_neg (mt hrefused.1 hanswer)).trans ?_, fun hwhole => (if_neg (mt hrefused.1 hanswer)).trans ?_⟩
      · rw [htotal, hpays]
        exact if_pos hshort
      · rw [htotal, hpays]
        refine (if_neg (not_lt.2 hwhole)).trans ?_
        refine congrArg₂ (fun t n => Host.Outcome.next ((State.output t f 5 (BitVec.ofNat 64 n) 200).retire f.h)) ?_
          ((nvAnswer_congr hfull hknown hrange z.tail).trans (by rw [if_neg hroom, if_pos hop, if_neg hfits]; rfl))
        simp only [List.isEmpty_iff, beq_iff_eq, nvOpData_iff]
        rfl
  case nvdb =>
    intro f s h q x hnumber hen hpart
    have hreg : (s.readS (dreg f 0)) = dval (s.dvals f) 0 := (dval_dvals s f 0).symm
    change execNvdb f s = _
    rw [execNvdb]
    refine (checked_of_passes (i := .nvdb f) h _).trans ?_
    simp only [dval_dvals]
    exact withQp_mine (s := s.landed (.nvdb f)) hnumber hen hpart _
  case refused =>
    intro f s h q hbad
    change execNvdb f s = _
    rw [execNvdb]
    refine (checked_of_passes (i := .nvdb f) h _).trans ?_
    simp only [dval_dvals]
    exact withQp_refused (s := s.landed (.nvdb f)) hbad _
  case nvcq =>
    intro f s h s0 q x z pa key dw t hnumber hen hpart
    have hmine (k : State → State → Nat → QpDesc → Out) :
        checked (f.named Rule.nvcq) s (fun s => withQp s (s.readS (dreg f 2)) (k s)) =
          k (s.landed (.nvcq f)) (s.landed (.nvcq f)).pin q x :=
      (checked_of_passes (i := .nvcq f) h _).trans (withQp_mine (s := s.landed _) hnumber hen hpart _)
    have hcore : t.sq.core = s.sq.core := (congrArg Squad.core (keepsFocus_touch s0 key 0 false false [lineOf pa]).1).trans
      (congrArg Squad.core (keepsFocus_flushMine (s.landed (.nvcq f)).pin).1 : s0.sq.core = (s.landed (.nvcq f)).pin.sq.core)
    rw [show exec (.nvcq f) s = execNvcq f s from rfl, execNvcq]
    simp only [dval_dvals]
    rw [hmine]
    refine ⟨fun howed => releasing_owed (s := (s.landed (.nvcq f)).pin) rfl howed _, fun hfree hgood hkeeps => ?_⟩
    have hreleased (k : State → Out) : releasing (s.landed (.nvcq f)).pin .ar k = k s0 := releasing_free (s := (s.landed (.nvcq f)).pin) (fun _ => hfree) k
    rw [hreleased]
    have hbad : ¬ t.isBad pa = true := by rw [hgood]; exact Bool.false_ne_true
    have hbroken : ¬ t.violates key pa = true := by rw [hkeeps]; exact Bool.false_ne_true
    rw [← hcore]
    refine ⟨fun hnew => ?new, fun hold hask => ?empty, fun hold hwait => ?waits⟩
    case new => exact (if_neg hbad).trans ((if_neg hbroken).trans (if_pos (beq_iff_eq.2 hnew)))
    case empty =>
      exact (if_neg hbad).trans ((if_neg hbroken).trans ((if_neg (mt beq_iff_eq.1 hold)).trans (if_neg (by rw [hask]; exact Bool.false_ne_true))))
    case waits => exact (if_neg hbad).trans ((if_neg hbroken).trans ((if_neg (mt beq_iff_eq.1 hold)).trans (if_pos hwait)))

end Sys2Proof
end
section
/-! SUPPORT. The issue of fabric operations past the checks of their operands (R350 to R352). -/

namespace Sys2Proof.Machine

open Claim

/-- FGET's destination, where it is in own scratchpad, is sound (R43, R44). -/
def destSound (s : State) (c : Command) : Prop :=
  c.op = 0x157 → (fabArgs c).space = 1 →
    dval c.d 1 >>> 20 = 0 ∧ ∀ i, i < fabCount c → (s.ownSp s.sq.sid ((dval c.d 1).toNat + i)).isSome = true

theorem withDest_sound {s : State} {c : Command} (h : destSound s c) (k : State → Out) : withDest s c k = k s := by
  rw [withDest]
  by_cases hdest : c.op = 0x157 ∧ (fabArgs c).space = 1
  · obtain ⟨hsmall, hown⟩ := h hdest.1 hdest.2
    have hform : ¬ ((dval c.d 1 >>> 20) != 0) = true := by rw [hsmall]; decide
    have hmine : ¬ ((List.range (fabCount c)).any fun i => (s.ownSp s.sq.sid ((dval c.d 1).toNat + i)).isNone) = true := fun hany => by
      obtain ⟨i, hi, hnone⟩ := List.any_eq_true.1 hany
      rw [← Option.not_isSome, hown i (List.mem_range.1 hi)] at hnone
      exact Bool.noConfusion hnone
    rw [if_pos hdest, if_neg hform, if_neg hmine]
  · exact if_neg hdest

/-- What FPUT, FPUTA and FGET ask of their operands beyond the form of D2: a space that is theirs, a payload, FPUTA's word aligned. -/
def fabSound (op : Nat) (c : Command) : Prop :=
  ((fabArgs c).space = 0 ∨ op = 0x157 ∧ (fabArgs c).space = 1) ∧ 0 < fabCount c ∧ (op = 0x156 → (dval c.d 5).toNat % 8 = 0)

/-- The checks of a put or a get whose operands are sound leave the form of D2 and the state of the package. -/
theorem fabricIssue_of_issueFabric {mk : XF → Instr} {op : Nat} {ok : XF → State → Command → Prop} (r : XRule)
    (hnamed : ∀ f, (mk f).shape.named = f.named r) (hexec : ∀ f s, exec (mk f) s = issueFabric r op f s)
    (hok : ∀ f s c, c.op = op → ok f s c → fabSound op c ∧ destSound s c) : FabricIssue mk op 8 ok := by
  intro f s h s0 c a s1 hword hsound
  obtain ⟨⟨hspace, hcount, halign⟩, hdest⟩ := hok f s0 c rfl hsound
  have hsome : ¬ fabCount c = 0 := Nat.ne_of_gt hcount
  have haligned : ¬ (op = 0x156 ∧ (dval c.d 5).toNat % 8 ≠ 0) := fun hword => hword.2 (halign hword.1)
  rw [hexec, issueFabric, ← hnamed, checked_of_passes h]
  refine ⟨fun hbad => (withWord_none hword _).trans ((withDest_sound hdest _).trans (if_pos (.inl hbad))), fun hgood hdown => ?down, fun hgood hup => ?sent⟩
  case' sent => have hsend : ¬ s0.isDown a.pkg = true := (Bool.not_eq_true _).symm ▸ hup
  all_goals
    have hform : ¬ (a.bad = true ∨ 2 ≤ a.space ∨ (op ≠ 0x157 ∧ a.space ≠ 0)) := by
      rw [hgood]
      obtain hzero | ⟨hget, hone⟩ := hspace
      · simp [show a.space = 0 from hzero]
      · simp [show a.space = 1 from hone, hget]
  case down => exact (withWord_none hword _).trans ((withDest_sound hdest _).trans
      ((if_neg hform).trans ((if_neg hsome).trans ((if_neg haligned).trans (if_pos hdown)))))
  case sent => exact (withWord_none hword _).trans ((withDest_sound hdest _).trans
      ((if_neg hform).trans ((if_neg hsome).trans ((if_neg haligned).trans (if_neg hsend)))))

/-- What FATOM and FCAS ask of their operands beyond the form of D2 (R351). -/
def fatomSound (c : Command) : Prop :=
  (fabArgs c).space = 0 ∧ dval c.d 4 >>> 31 = 0 ∧ (dval c.d 0).toNat % fatomWidth c = 0

theorem fabricIssue_of_issueFatom {mk : XF → Instr} {op : Nat} (r : XRule) (hnamed : ∀ f, (mk f).shape.named = f.named r)
    (hexec : ∀ f s, exec (mk f) s = issueFatom r op f s) : FabricIssue mk op 16 fun _ _ c => fatomSound c := by
  intro f s h s0 c a s1 hword hsound
  obtain ⟨hspace, hvalue, halign⟩ := hsound
  rw [hexec, issueFatom, ← hnamed, checked_of_passes h]
  refine ⟨fun hbad => (withWord_none hword _).trans (if_pos (.inl hbad)), fun hgood hdown => ?down, fun hgood hup => ?sent⟩
  case' sent => have hsend : ¬ s0.isDown a.pkg = true := (Bool.not_eq_true _).symm ▸ hup
  all_goals
    have hform : ¬ (a.bad = true ∨ a.space ≠ 0 ∨ ((dval c.d 4 >>> 31) != 0) = true) := by
      simp [hgood, hvalue, show a.space = 0 from hspace]
  case down => exact (withWord_none hword _).trans ((if_neg hform).trans ((if_neg (not_not.2 halign)).trans (if_pos hdown)))
  case sent => exact (withWord_none hword _).trans ((if_neg hform).trans ((if_neg (not_not.2 halign)).trans
      (if_neg hsend)))

end Sys2Proof.Machine

namespace Sys2Proof

open Machine

/-- Settles O32: past the checks of its operands a fabric operation sends what it may; FFENCE waits for the operations that it names. -/
theorem fabricOperations : Obligations.FabricOperations := by
  refine ⟨?fput, ?fputa, ?fget, ?fgetOwn, ?fatomInt, ?fatomF32, ?fcas, ?ffence⟩
  case fput =>
    refine fabricIssue_of_issueFabric (Rule.command 0b011111) (fun _ => rfl) (fun _ _ => rfl) fun f s c hop hok => ?_
    exact ⟨⟨.inl hok.1, hok.2, fun h => absurd h (by decide)⟩, fun hget => absurd (hop.symm.trans hget) (by decide)⟩
  case fputa =>
    refine fabricIssue_of_issueFabric (Rule.command 0b111111) (fun _ => rfl) (fun _ _ => rfl) fun f s c hop hok => ?_
    exact ⟨⟨.inl hok.1, hok.2.1, fun _ => hok.2.2⟩, fun hget => absurd (hop.symm.trans hget) (by decide)⟩
  case fget =>
    refine fabricIssue_of_issueFabric (Rule.command 0b011111) (fun _ => rfl) (fun _ _ => rfl) fun f s c _ hok => ?_
    exact ⟨⟨.inl hok.1, hok.2, fun h => absurd h (by decide)⟩, fun _ hone => absurd (hok.1.symm.trans hone) (by decide)⟩
  case fgetOwn =>
    refine fabricIssue_of_issueFabric (Rule.command 0b011111) (fun _ => rfl) (fun _ _ => rfl) fun f s c _ hok => ?_
    exact ⟨⟨.inr ⟨rfl, hok.1⟩, hok.2.1, fun h => absurd h (by decide)⟩, fun _ _ => hok.2.2⟩
  case fatomInt => exact fabricIssue_of_issueFatom Rule.fatomI (fun _ => rfl) fun _ _ => rfl
  case fatomF32 => exact fabricIssue_of_issueFatom Rule.fatomF (fun _ => rfl) fun _ _ => rfl
  case fcas => exact fabricIssue_of_issueFatom Rule.fcas (fun _ => rfl) fun _ _ => rfl
  case ffence =>
    intro f s h s0 v
    have hchecked (k : State → Out) : checked (f.named (Rule.xin 0b000001)) s k = k (s.landed (.ffence f)) := checked_of_passes (i := .ffence f) h k
    rw [show exec (.ffence f) s = execFfence f s from rfl, execFfence, hchecked]
    simp only [dval_dvals]
    refine ⟨fun howed => if_pos howed, fun hdone hfree => ?_⟩
    have hnone : ¬ s0.fabOwed v = true := (Bool.not_eq_true _).symm ▸ hdone
    refine (if_neg hnone).trans ?_
    exact releasing_free (s := s0) (fun _ => hfree) fun s => .next (s.retire f.h)

end Sys2Proof
end
section
/-! SUPPORT. Enqueuing of launch packets (R353, R358). -/

namespace Sys2Proof.Machine

open Claim

/-! ### The packet of an enqueue -/

theorem ushiftRight_of_scratch {v : W64} (hspace : v.toNat < 2 ^ 20) : v >>> 20 = 0 := by
  apply BitVec.eq_of_toNat_eq
  rw [BitVec.toNat_ushiftRight, Nat.shiftRight_eq_div_pow, Nat.div_eq_of_lt hspace]
  rfl

theorem withOffset_sound {s : State} {v : W64} {align : Nat} (hspace : v.toNat < 2 ^ 20) (halign : v.toNat % align = 0)
    (hmine : s.sq.stripes.contains (stripeOf v.toNat) = true) (k : State → Out) : withOffset s v align k = k s := by
  rw [withOffset, ushiftRight_of_scratch hspace, halign, hmine]
  rfl

theorem withPacket_sound {s : State} {v word : W64} (h : packetAt s v word) (k : State → List W8 → Out) :
    withPacket s v k = k s (s.spBytes (.core s.sq.core) v.toNat 64) := by
  obtain ⟨hspace, halign, hmine, hsound, -⟩ := h
  have hclean : ¬ ((List.range 64).any fun i => s.spBad (.core s.sq.core) (v.toNat + i)) = true := fun hany => by
    obtain ⟨i, hi, hbad⟩ := List.any_eq_true.1 hany
    rw [hsound i (List.mem_range.1 hi)] at hbad
    exact Bool.noConfusion hbad
  rw [withPacket, withOffset_sound hspace halign hmine]
  exact if_neg hclean

/-- An enqueue whose packet and word are sound, past the release that it brings (R353). -/
theorem packet_issued {i : Instr} {f : XF} {s : State} {r : XRule} (hnamed : i.shape.named = f.named r) (h : passes s i) (hfree : s.windowOwed = false)
    (hpacket : packetAt (s.landed i) (dval (s.dvals f) 1) (dval (s.dvals f) 2)) (k : State → State → List W8 → Out) :
    checked (f.named r) s (fun s => withPacket s (dval (s.dvals f) 1) fun s1 pkt => withWord s1 (dval (s.dvals f) 2) 8 true fun s2 =>
      releasing s2.pin .rel fun s3 => k s s3 pkt) =
      k (s.landed i) (s.landed i).pin.flushMine ((s.landed i).spBytes (.core s.sq.core) (dval (s.dvals f) 1).toNat 64) := by
  rw [← hnamed, checked_of_passes h]
  refine (withPacket_sound (s := s.landed i) hpacket _).trans ((withWord_none hpacket.2.2.2.2 _).trans ?_)
  exact releasing_free (s := (s.landed i).pin) (fun _ => hfree) _

end Sys2Proof.Machine

namespace Sys2Proof.Claim

open Machine

theorem enqueuing : Enqueuing := by
  refine ⟨?tenq, ?trenq, ?gopen, ?gclose⟩
  case tenq =>
    intro f s h hfree d hpacket s0 e
    rw [show exec (.tenq f) s = execTenq f s from rfl, execTenq]
    dsimp only
    rw [packet_issued (i := .tenq f) rfl h hfree hpacket]
    rw [show (s.landed (.tenq f)).dvals f = d from rfl, show (s.landed (.tenq f)).pin.flushMine = s0 from rfl]
    rw [show s0.newEnqueue (dval d 0) _ _ = e from rfl]
    refine ⟨fun hother => if_pos hother, fun hhere hbatch => ?alone, fun b hhere hbatch => ⟨fun hsame hserved => ?held, fun helse => ?passed⟩⟩
    all_goals
      rw [if_neg (not_not.2 hhere), hbatch]
    case alone => exact ⟨fun s1 henq => by rw [henq], fun henq => by rw [henq]⟩
    case held =>
      have hown : ¬ (handleQueue b.handle ≠ handleQueue (dval d 0) ∨ b.refused = true) := by simp [hsame, hserved]
      dsimp only
      rw [if_neg hown]
      refine ⟨fun hroom => if_pos hroom, fun s1 hfull hpub => (if_neg (Nat.not_lt.2 hfull)).trans ?_, fun hfull hpub =>
        (if_neg (Nat.not_lt.2 hfull)).trans ?_⟩
      · rw [hpub]
      · rw [hpub]
    case passed =>
      dsimp only
      rw [if_pos helse]
      exact ⟨fun s1 henq => by rw [henq], fun henq => by rw [henq]⟩
  case trenq =>
    intro f s h hfree d hpacket s0 c hpkg
    rw [show exec (.trenq f) s = execTrenq f s from rfl, execTrenq]
    dsimp only
    rw [packet_issued (i := .trenq f) rfl h hfree hpacket]
    refine ⟨fun hdown => ?_, fun hup hopen hstart => ?_⟩
    · exact (if_neg (Nat.not_le.2 hpkg)).trans (if_pos hdown)
    · have hnotdown : ¬ s0.isDown (handlePkg (dval d 0)) = true := (Bool.not_eq_true _).symm ▸ hup
      have hgoes : ¬ ((!s0.windowOpen (handlePkg (dval d 0)) (s0.domainOf c.part) 0) = true ∨ (!s0.mayStart (s0.transmits c)) = true) := by
        rw [hopen, hstart]
        decide
      exact (if_neg (Nat.not_le.2 hpkg)).trans ((if_neg hnotdown).trans (if_neg hgoes))
  case gopen =>
    intro f s h v s0
    have hchecked (k : State → Out) : checked (f.named (Rule.xin 0b000001)) s k = k (s.landed (.gopen f)) := checked_of_passes (i := .gopen f) h k
    rw [show exec (.gopen f) s = execGopen f s from rfl, execGopen, hchecked]
    simp only [dval_dvals]
    rw [show (s.landed (.gopen f)).pin = s0 from rfl, show s0.st.batch = s.st.batch from rfl]
    exact ⟨fun s1 hpub => by rw [hpub]; rfl, fun hpub => by rw [hpub]⟩
  case gclose =>
    intro f s h s0 v hword
    have hchecked (k : State → Out) : checked (f.named (Rule.command 0b000001)) s k = k s0 := checked_of_passes (i := .gclose f) h k
    rw [show exec (.gclose f) s = execGclose f s from rfl, execGclose, hchecked]
    simp only [dval_dvals]
    rw [show s0.readS (dreg f 0) = v from rfl, withWord_none hword, show s0.st.batch = s.st.batch from rfl]
    refine ⟨fun s1 hpub => ?_, fun hpub => by rw [hpub]⟩
    rw [hpub]
    dsimp only
    refine ⟨fun hnone => by rw [hnone], fun b hbatch => ?_⟩
    rw [hbatch]
    dsimp only
    refine ⟨fun hrefused => if_pos hrefused, fun s3 hserved henq => ?_, fun hserved henq => ?_⟩
    all_goals
      have hopen : ¬ b.refused = true := by rw [hserved]; exact Bool.false_ne_true
      rw [if_neg hopen, henq]

end Sys2Proof.Claim
end
section
/-! SUPPORT. Task trees, arguments, register and scratchpad growth past their checks (R354 to R357). -/

namespace Sys2Proof

/-- A read of a table that keeps the keys that pass a test. -/
theorem Tab.getD_keep {α : Type} (t : Tab α) (p : Nat → Bool) (d : Nat → α) (j : Nat) :
    Tab.getD (Tab.keep t p) d j = if p j then Tab.getD t d j else d j := by
  induction t with
  | nil => simp [Tab.keep, Tab.getD]
  | cons e r ih =>
    obtain ⟨k, v⟩ := e
    grind [Tab.keep, Tab.getD]

theorem Tab.get0_keep {n : Nat} (t : Tab (BitVec n)) (p : Nat → Bool) (j : Nat) : (t.keep p).get0 j = if p j then t.get0 j else 0 :=
  Tab.getD_keep ..

namespace Machine

open Claim

/-! ### Tiles (R155) -/

theorem tileBits_setTile (s : State) (die k die' k' : Nat) (v : Bool × Bool) (hk : k < 65536) (hk' : k' < 65536) :
    (s.setTile die k v).tileBits die' k' = if (die', k') = (die, k) then v else s.tileBits die' k' := by
  have hkey : 65536 * die' + k' = 65536 * die + k ↔ (die', k') = (die, k) := by
    rw [Prod.mk.injEq]
    omega
  simp only [State.tileBits, State.setTile, Tab.getD_put, hkey]

theorem tileOfReg_eq (v : W64) : tileOfReg v = ((v.extractLsb' 16 2).toNat, (v.extractLsb' 0 16).toNat) := by
  simp only [tileOfReg, bits, BitVec.extractLsb'_toNat, Nat.shiftRight_eq_div_pow]

theorem madeTile_eq (s : State) (die k : Nat) (full : Bool) : s.madeTile die k full = { s with sched := (s.madeTile die k full).sched } := by
  cases full <;> rfl

/-- What TSET leaves of a state (R155, R354). -/
theorem tset_effect (s : State) (die k : Nat) (v : Bool × Bool) (h : Head) (hk : k < 65536) :
    let t := ((s.setTile die k v).madeTile die k v.1).retire h
    t.tileBits die k = v ∧ (∀ d j, d < 4 → j < 65536 → (d, j) ≠ (die, k) → t.tileBits d j = s.tileBits d j) ∧ retires s t h ∧ t.mem = s.mem := by
  intro t
  have hbits (d j : Nat) : t.tileBits d j = (s.setTile die k v).tileBits d j := by
    simp only [t]
    rw [madeTile_eq]
    rfl
  refine ⟨?_, fun d j _ hj hne => ?_, ?_, ?_⟩
  · rw [hbits, tileBits_setTile _ _ _ _ _ _ hk hk, if_pos rfl]
  · rw [hbits, tileBits_setTile _ _ _ _ _ _ hk hj, if_neg hne]
  all_goals
    simp only [t]
    rw [madeTile_eq]
    rfl

end Machine

namespace Claim

open Machine

theorem tilesAndArguments : TilesAndArguments := by
  refine ⟨?tset, ?twait, ?tstat, ?targ, ?pin, ?tsplit⟩
  case tset =>
    intro f s h hfree himm v
    have hchecked (k : State → Out) : checked (f.named Rule.tset) s k = k (s.landed (.tset f)) := checked_of_passes (i := .tset f) h k
    have hreleased (k : State → Out) : releasing (s.landed (.tset f)).pin .rel k = k (s.landed (.tset f)).pin.flushMine :=
      releasing_free (s := (s.landed (.tset f)).pin) (fun _ => hfree) k
    have hvalue : (if f.imm = 0 then (true, false) else if f.imm = 1 then (false, true) else (false, false)) =
        (decide (f.imm = 0), decide (f.imm = 1)) := by
      obtain h0 | h1 | h2 := himm
      · rw [h0]; rfl
      · rw [h1]; rfl
      · rw [h2]; rfl
    rw [show exec (.tset f) s = execTset f s from rfl, execTset, hchecked]
    simp only [dval_dvals, tileOfReg_eq]
    rw [hreleased, hvalue]
    exact ⟨_, rfl, tset_effect _ _ _ _ _ (BitVec.isLt _)⟩
  case twait =>
    intro f s h v b
    have hchecked (k : State → Out) : checked (f.named Rule.twait) s k = k (s.landed (.twait f)) := checked_of_passes (i := .twait f) h k
    rw [show exec (.twait f) s = execTwait f s from rfl, execTwait, hchecked]
    simp only [dval_dvals, tileOfReg_eq]
    exact ⟨fun hset => if_pos hset, fun hclear => if_neg ((Bool.not_eq_true _).symm ▸ hclear)⟩
  case tstat =>
    intro f s h v b
    have hchecked (k : State → Out) : checked (f.named Rule.tstat) s k = k (s.landed (.tstat f)) := checked_of_passes (i := .tstat f) h k
    rw [show exec (.tstat f) s = execTstat f s from rfl, execTstat, hchecked]
    simp only [dval_dvals, tileOfReg_eq, Bool.not_eq_true']
    rfl
  case targ =>
    intro f s x ys h s0 hplaces s' hmem hdelivered past s1 hreadable
    have hchecked (k : State → Out) : checked (f.named Rule.targ) s k = k s0 := checked_of_passes (i := .targ f) h k
    rw [show exec (.targ f) s = execTarg f s from rfl, execTarg, hchecked]
    refine (withOne_some hplaces _).trans ?_
    refine (if_neg (by simpa using hmem)).trans ((withData_readable hdelivered hreadable _).trans ?_)
    exact congrArg (fun b => Host.Outcome.next (((s1.afterLoad past true [x]).output f 0 (word64 b) 0).retire f.h)) (laneBytes_singleton s1 past x 8)
  case pin =>
    intro f s h
    rw [show exec (.pin f) s = execPin f s from rfl, execPin]
    exact checked_of_passes (i := .pin f) h _
  case tsplit =>
    intro f s h s0 i
    have hchecked (k : State → Out) : checked (f.named Rule.xout0) s k = k s0 := checked_of_passes (i := .tsplit f) h k
    rw [show exec (.tsplit f) s = execTsplit f s from rfl, execTsplit, hchecked]
    rw [show s0.sq.splitInst = i from rfl]
    dsimp only
    refine ⟨fun hnone => ?_, fun ax s1 haxis hshallow hqueued => ?_⟩
    · cases haxis : i.splitAxis with
      | none => rfl
      | some ax => exact if_pos (hnone.resolve_left (haxis ▸ Option.some_ne_none ax))
    · rw [haxis]
      dsimp only
      rw [if_neg (Nat.not_le.2 hshallow), hqueued]
      rfl

end Claim

namespace Machine

open Claim

/-! ### A scalar result (R239) -/

/-- What an instruction that only writes a tracked scalar result changes. -/
theorem output_effect (s : State) (f : XF) (k : Nat) (v : W64) (lat : Nat) (h : Head) :
    let t := (s.output f k v lat).retire h
    t = { s with wv := t.wv, st := t.st } ∧ t.wv.gran = s.wv.gran ∧ t.wv.v = s.wv.v ∧ t.st.pc = s.st.npc ∧
      wroteScalar s t (dreg f k) v lat := by
  by_cases hzero : dreg f k = 0
  · have hsame : s.output f k v lat = s := by rw [State.output, hzero]; rfl
    dsimp only
    rw [hsame, hzero]
    exact ⟨rfl, rfl, rfl, rfl, fun _ _ => rfl, fun _ => rfl⟩
  · obtain ⟨hwrote, -, -, -, -, -, hwave, hretires, hrest, -⟩ := wroteTracked s h v lat hzero
    have heq := s.writeTracked_rest (dreg f k) v lat hzero
    exact ⟨hrest, (congrArg (fun u : State => u.wv.gran) heq :), (congrArg (fun u : State => u.wv.v) heq :), congrArg Stream.pc hretires, hwrote⟩

/-- A scalar result of a state with another one's wave and clock. -/
theorem wroteScalar_of_wave {s s' t : State} {n : Nat} {v : W64} {lat : Nat} (hwave : s'.wv = s.wv) (hcycle : s'.cycle = s.cycle)
    (h : wroteScalar s' t n v lat) : wroteScalar s t n v lat := by
  have hland : s'.landAt (.sca n) lat = s.landAt (.sca n) lat := by rw [State.landAt, State.landAt, hwave, hcycle]
  have hread : s'.readS n = s.readS n := by rw [State.readS, State.readS, hwave, hcycle]
  rw [wroteScalar, hland, hread] at h
  exact h

/-! ### Registers (R355) -/

/-- What growing by n granules leaves of the wave. -/
theorem grown_effect (s : State) (f : XF) (n : Nat) :
    let s1 : State := { s with wv := { s.wv with gran := s.wv.gran + n, v := Tab.keep s.wv.v fun k => decide (k < 512 * s.wv.gran) } }
    let t := (if f.imm.getLsbD 8 then s1.output f 0 0 (n + 4) else s1).retire f.h
    t.wv.gran = s.wv.gran + n ∧ t.st.pc = s.st.npc ∧ t.mem = s.mem ∧
      (∀ m l, l < 64 → m < 8 * s.wv.gran → t.wv.v.get0 (64 * m + l) = s.wv.v.get0 (64 * m + l)) ∧
      ∀ m l, l < 64 → 8 * s.wv.gran ≤ m → t.wv.v.get0 (64 * m + l) = 0 := by
  intro s1 t
  have hframe : t.wv.gran = s1.wv.gran ∧ t.wv.v = s1.wv.v ∧ t.st.pc = s1.st.npc ∧ t.mem = s1.mem := by
    simp only [t]
    split
    · obtain ⟨hrest, hgran, hv, hpc, -⟩ := output_effect s1 f 0 0 (n + 4) f.h
      exact ⟨hgran, hv, hpc, (congrArg State.mem hrest :)⟩
    · exact ⟨rfl, rfl, rfl, rfl⟩
  obtain ⟨hgran, hv, hpc, hmem⟩ := hframe
  refine ⟨hgran, hpc, hmem, fun m l hl hm => ?_, fun m l hl hm => ?_⟩
  all_goals
    rw [hv]
    refine (Tab.get0_keep s.wv.v (fun k => decide (k < 512 * s.wv.gran)) (64 * m + l)).trans ?_
  · exact if_pos (decide_eq_true (by omega))
  · exact if_neg (by simp only [decide_eq_true_eq]; omega)

/-! ### Waiting packets (R358) -/

/-- What is read of a list does not tell apart two members of one number of which it reads the same. -/
theorem flatMap_putByNumber {α β : Type} {n : α → Nat} {x y : α} {p : α → Bool} {f : α → List β} (hn : n x = n y) (hp : p x = p y)
    (hf : f x = f y) (l : List α) : ((putByNumber n x l).filter p).flatMap f = ((putByNumber n y l).filter p).flatMap f := by
  induction l with
  | nil => simp [putByNumber, List.filter_cons, hp, apply_ite (List.flatMap f), hf]
  | cons z l ih =>
    rw [putByNumber, putByNumber, hn]
    split
    · simp only [List.filter_cons, hp]
      split <;> simp only [List.flatMap_cons, hf]
    · simp only [List.filter_cons]
      split
      · rw [List.flatMap_cons, List.flatMap_cons, ih]
      · exact ih

/-- The packets that a squad's streams hold do not depend on what is pending. -/
theorem delayed_untrack (s : State) (rs : List RegId) (sid : Nat) : (s.untrack rs).delayed sid = s.delayed sid := by
  let held (e : Wave × Stream) : List Enqueue := (e.2.batch.map (·.held)).getD []
  have hstreams (q : Squad) : q.streams.flatMap held = q.waves.flatMap fun w => w.frags.flatMap fun x => (x.batch.map (·.held)).getD [] := by
    simp only [Squad.streams, List.flatMap_assoc, List.flatMap_map, held]
  have hsame : ((s.untrack rs).everySquad.filter fun q => q.sid == sid).flatMap (fun q => q.streams.flatMap held) =
      (s.everySquad.filter fun q => q.sid == sid).flatMap fun q => q.streams.flatMap held := by
    simp only [hstreams]
    rw [State.everySquad, State.everySquad]
    by_cases hgone : s.sq.place = .discarded
    · rw [if_pos (show (s.untrack rs).sq.place = .discarded from hgone), if_pos hgone]
      rfl
    · rw [if_neg (show (s.untrack rs).sq.place ≠ .discarded from hgone), if_neg hgone]
      refine flatMap_putByNumber (by rfl) (by rfl) ?_ s.squads
      have hwaves := flatMap_putByNumber (n := Wave.widx) (x := { (s.untrack rs).wv with frags := putByNumber Stream.fid s.st s.wv.frags })
        (y := { s.wv with frags := putByNumber Stream.fid s.st s.wv.frags }) (p := fun _ => true)
        (f := fun w : Wave => w.frags.flatMap fun x => (x.batch.map (·.held)).getD []) rfl rfl rfl s.sq.waves
      simp only [List.filter_true] at hwaves
      exact hwaves
  exact congrArg (fun l => (s.sched.enq ++ l).filter fun e => e.word.isSome && e.who.sid == sid) hsame

/-! ### Stripes (R356) -/

/-- Zeroing stripes changes the cores alone. -/
theorem zeroStripes_eq (c : Nat) (ks : List Nat) (s : State) :
    ks.foldl (fun s k => s.zeroStripe c k) s = { s with cores := (ks.foldl (fun s k => s.zeroStripe c k) s).cores } := by
  induction ks generalizing s with
  | nil => rfl
  | cons k ks ih => exact ih (s.zeroStripe c k)

/-- What taking a run of n stripes from stripe b leaves of the squad and the stream. -/
theorem allocated_effect (s : State) (f : XF) (b n : Nat) :
    let run := (List.range n).map (b + ·)
    let s1 := run.foldl (fun t k => t.zeroStripe s.sq.core k) s
    let s2 : State := { s1 with sq := { s1.sq with stripes := s1.sq.stripes ++ run } }
    let s3 := s2.updCore s.sq.core fun x => { x with lastPart := Tab.putAll x.lastPart (fun _ => 0) (run.map fun k => (k, s.sq.part + 1)) }
    let t := (s3.output f 0 (BitVec.ofNat 64 (32768 * b)) (32 * n + 4)).retire f.h
    t.sq.stripes = s.sq.stripes ++ run ∧ wroteScalar s t (dreg f 0) (BitVec.ofNat 64 (32768 * b)) (32 * n + 4) ∧ t.st.pc = s.st.npc ∧
      t.mem = s.mem := by
  intro run s1 s2 s3 t
  obtain ⟨hrest, -, -, hpc, hwrote⟩ := output_effect s3 f 0 (BitVec.ofNat 64 (32768 * b)) (32 * n + 4) f.h
  have hzeroed : s1 = { s with cores := s1.cores } := zeroStripes_eq s.sq.core run s
  have hsq : s1.sq = s.sq := (congrArg State.sq hzeroed :)
  have hst : s1.st = s.st := (congrArg State.st hzeroed :)
  have hmem : s1.mem = s.mem := (congrArg State.mem hzeroed :)
  refine ⟨((congrArg (fun u : State => u.sq.stripes) hrest :)).trans (congrArg (fun q : Squad => q.stripes ++ run) hsq),
    wroteScalar_of_wave (congrArg State.wv hzeroed :) (congrArg State.cycle hzeroed :) hwrote, hpc.trans (congrArg Stream.npc hst),
    (congrArg State.mem hrest :).trans hmem⟩

end Machine

namespace Claim

open Machine

theorem registersAndStripes : RegistersAndStripes := by
  refine ⟨?rgrow, ?rshrink, ?spalloc, ?spfree⟩
  case rgrow =>
    intro f s h s0 n
    have hchecked (k : State → Out) : checked (f.named Rule.rgrow) s k = k s0 := checked_of_passes (i := .rgrow f) h k
    rw [show exec (.rgrow f) s = execRgrow f s from rfl, execRgrow, hchecked]
    refine ⟨fun hgrows => ⟨_, if_pos hgrows, grown_effect s0 f n⟩, fun hfails htries => (if_neg hfails).trans (if_pos htries),
      fun hfails htakes => (if_neg hfails).trans (if_neg ((Bool.not_eq_true _).symm ▸ htakes))⟩
  case rshrink =>
    intro f s h s0 g
    have hchecked (k : State → Out) : checked (f.named (Rule.nOnly 0)) s k = k s0 := checked_of_passes (i := .rshrink f) h k
    rw [show exec (.rshrink f) s = execRshrink f s from rfl, execRshrink, hchecked]
    exact ⟨fun hdone => if_neg ((Bool.not_eq_true _).symm ▸ hdone), fun hpending => if_pos hpending⟩
  case spalloc =>
    intro f s h s0 n
    have hchecked (k : State → Out) : checked (f.named Rule.spalloc) s k = k s0 := checked_of_passes (i := .spalloc f) h k
    rw [show exec (.spalloc f) s = execSpalloc f s from rfl, execSpalloc, hchecked]
    rw [show s0.sq.core = s.sq.core from rfl]
    dsimp only
    refine ⟨fun b hrun hbudget => ?_, fun hnone htries => ?_, fun hnone htakes => ?_⟩
    · rw [hrun, show s0.budgetRoom s0.sq.inst 0 n none = true from hbudget]
      exact ⟨_, rfl, allocated_effect s0 f b n⟩
    · rw [hnone]
      exact if_pos htries
    · rw [hnone]
      exact if_neg ((Bool.not_eq_true _).symm ▸ htakes)
  case spfree =>
    intro f s h s0 v ks hspace halign hmine hcmds hdelayed hqueued
    have hchecked (k : State → Out) : checked (f.named (Rule.nOnly 0b000001)) s k = k s0 := checked_of_passes (i := .spfree f) h k
    rw [show exec (.spfree f) s = execSpfree f s from rfl, execSpfree, hchecked]
    simp only [dval_dvals]
    rw [show s0.delayed s0.sq.sid = s.delayed s.sq.sid from delayed_untrack s _ _]
    have hown : ¬ (!(ks.all fun k => s.sq.stripes.contains k)) = true := by simpa using fun k hk => List.contains_iff_mem.1 (hmine k hk)
    have hunused : ¬ (s.cmds.any (fun c => c.who.sid == s.sq.sid && (c.touches ks || c.followTouches ks)) ||
        (s.delayed s.sq.sid).any (fun e => e.touches s.sq.core ks) || s.myCore.mq.any fun m => m.who.sid == s.sq.sid && m.touches ks) = true := by
      simp only [Bool.or_eq_true, List.any_eq_true, Bool.and_eq_true, beq_iff_eq, not_or, not_exists, not_and, Bool.not_eq_true]
      exact ⟨⟨fun c hc hsid => hcmds c hc hsid, hdelayed⟩, hqueued⟩
    have hhigh : ¬ ((v >>> 20) != 0) = true := by rw [ushiftRight_of_scratch hspace]; decide
    exact (if_neg hhigh).trans ((if_neg (not_not.2 halign)).trans ((if_neg hown).trans (if_neg hunused)))

end Claim

/-- Settles O33: past its checks each task instruction does what its row says. -/
theorem taskInstructions : Obligations.TaskInstructions := ⟨Claim.enqueuing, Claim.tilesAndArguments, Claim.registersAndStripes⟩

end Sys2Proof
end
section
/-! SUPPORT. Traps, double faults and asynchronous errors (R363, R366, R367). -/

namespace Sys2Proof.Machine

/-- The latest landing that is found from a cycle is no earlier than the cycle, and than any of them. -/
theorem le_foldl_land (l : List InFlight) (a : Nat) :
    a ≤ l.foldl (fun a e => max a e.land) a ∧ ∀ e ∈ l, e.land ≤ l.foldl (fun a e => max a e.land) a := by
  induction l generalizing a with
  | nil => exact ⟨le_rfl, fun e he => absurd he List.not_mem_nil⟩
  | cons x l ih =>
    obtain ⟨hstart, hall⟩ := ih (max a x.land)
    refine ⟨(Nat.le_max_left ..).trans hstart, fun e he => ?_⟩
    obtain rfl | he := List.mem_cons.1 he
    · exact (Nat.le_max_right ..).trans hstart
    · exact hall e he

/-- Outside handler mode a trap enters the handler (R363). -/
theorem trap_outside {s : State} (h : s.st.trap.hmode = false) (a : TrapArgs) : s.trap a = s.enterHandler a false := by
  rw [State.trap, h]
  rfl

/-- In handler mode a trap is a double fault (R366). -/
theorem trap_inside {s : State} (h : s.st.trap.hmode = true) (a : TrapArgs) : s.trap a = s.doubleFault a := by
  rw [State.trap, h]
  rfl

/-- Outside handler mode an asynchronous error enters the handler (R367). -/
theorem asyncError_outside {s : State} (h : s.st.trap.hmode = false) (code : Nat) (info : W64) :
    s.asyncError code info = s.enterHandler { code, tpc := s.st.pc, mask := s.st.exec, info0 := info } true := by
  rw [State.asyncError, h]
  rfl

/-- In handler mode an asynchronous error pends. -/
theorem asyncError_pends {s : State} (h : s.st.trap.hmode = true) (hpend : s.st.trap.pend = false) (code : Nat) (info : W64) :
    s.asyncError code info =
      { s with st := { s.st with trap := { s.st.trap with pend := true, pcause := BitVec.ofNat 8 code, pinfo := info } } } := by
  rw [State.asyncError, h, hpend]
  rfl

/-- A second one is a double fault. -/
theorem asyncError_doubles {s : State} (h : s.st.trap.hmode = true) (hpend : s.st.trap.pend = true) (code : Nat) (info : W64) :
    s.asyncError code info = s.doubleFault { code, tpc := s.st.pc, mask := s.st.exec, info0 := info } true := by
  rw [State.asyncError, h, hpend]
  rfl

end Sys2Proof.Machine

namespace Sys2Proof.Claim

open Machine

theorem trapEntry : TrapEntry := by
  intro s a
  refine ⟨fun houtside => ?_, fun hinside => ?_⟩
  · rw [trap_outside houtside]
    obtain ⟨hcycle, hlands⟩ := le_foldl_land s.wv.inflight s.cycle
    exact ⟨rfl, rfl, rfl, rfl, rfl, rfl, Nat.add_le_add_right hcycle 20, fun e he => Nat.add_le_add_right (hlands e he) 20, rfl⟩
  · rw [trap_inside hinside]
    exact ⟨rfl, rfl, rfl, rfl, rfl, rfl⟩

theorem asynchronousErrors : AsynchronousErrors := by
  intro s code info _
  refine ⟨fun houtside => ?_, fun hinside hnone => asyncError_pends hinside hnone code info, fun hinside hpend => ?_⟩
  · rw [asyncError_outside houtside]
    exact ⟨rfl, rfl, rfl, rfl⟩
  · rw [asyncError_doubles hinside hpend]
    rfl

end Sys2Proof.Claim

namespace Sys2Proof

/-- Settles O20: what entry into the handler saves, and where a fault in handler mode leaves the stream. -/
theorem trapsAndErrors : Obligations.TrapsAndErrors := ⟨Claim.trapEntry, Claim.asynchronousErrors⟩

end Sys2Proof
end
section
/-! SUPPORT. Posted errors and consumption records (R364, R367, R370, R371). -/

namespace Sys2Proof.Machine

/-- A supervisor's ERRPOST of the code of its row is what ERRPOST does (R367). -/
theorem runPost_supervised {v : W64} {code : Nat} (hcode : bits v 39 32 = code) (s : State) : runPost code v true s = .next (s.errpost v) := by
  rw [runPost, supervised_true, if_pos hcode]

/-- An ERRPOST of a code that is posted finds its wave. -/
theorem errpost_of_code {v : W64} {code : Nat} (hform : v.toNat < 2 ^ 40) (hcode : bits v 39 32 = code)
    (hposted : code = Cause.rederr ∨ code = Cause.posted) (s : State) :
    (∀ q w f, s.waveByCode (v.setWidth 32) = some (q, w) → w.lowest = some f →
      s.errpost v = s.at { sid := q.sid, widx := w.widx, fid := f } fun s => s.postError code (s.reg Mmio.errinfo)) ∧
    (s.waveByCode (v.setWidth 32) = none → s.errpost v = s.note (.lateError (v.setWidth 32) (BitVec.ofNat 8 code))) := by
  subst hcode
  have hok : ¬ ((!clearOf v 0xFFFFFFFFFF) = true ∨ (bits v 39 32 ≠ Cause.rederr ∧ bits v 39 32 ≠ Cause.posted)) := by
    rintro (hbits | ⟨hred, hpost⟩)
    · rw [show clearOf v 0xFFFFFFFFFF = true from (clearOf_ones_iff_lt (n := 40) (by decide)).2 hform] at hbits
      exact Bool.noConfusion hbits
    · exact hposted.elim hred hpost
  rw [State.errpost]
  refine ⟨fun q w f hwave hlow => (if_neg hok).trans ?_, fun hnone => (if_neg hok).trans ?_⟩
  · rw [hwave]
    dsimp only
    rw [hlow]
  · rw [hnone]

end Sys2Proof.Machine

namespace Sys2Proof.Claim

open Machine

theorem postedErrors : PostedErrors := by
  refine ⟨fun v s mk code hrow hform hcode => ?posted, fun s code info hpend => ?pends, fun who s => rfl, fun s => ⟨rfl, rfl, rfl, rfl⟩⟩
  case posted =>
    have hexec : exec (mk v true) s = .next (s.errpost v) ∧ (code = Cause.rederr ∨ code = Cause.posted) := by
      simp only [List.mem_cons, Prod.mk.injEq, List.not_mem_nil, or_false] at hrow
      obtain ⟨rfl, rfl⟩ | ⟨rfl, rfl⟩ := hrow
      · exact ⟨runPost_supervised hcode s, .inl rfl⟩
      · exact ⟨runPost_supervised hcode s, .inr rfl⟩
    obtain ⟨hfound, hlate⟩ := errpost_of_code hform hcode hexec.2 s
    exact ⟨fun q w f hwave hlow => hexec.1.trans (congrArg _ (hfound q w f hwave hlow)), fun hnone => hexec.1.trans (congrArg _ (hlate hnone))⟩
  case pends =>
    rw [State.postError, hpend]
    rfl

theorem consumptionRecords : ConsumptionRecords := by
  intro d s c q w x holdest hstream base head hen hroom hdup hsum
  have hplace : ¬ ((!base.getLsbD 0) = true ∨ crSize ≤ ringHeld head (s.reg (Mmio.crtail d.toNat))) := by
    rw [hen]
    exact not_or.2 ⟨Bool.false_ne_true, Nat.not_le.2 hroom⟩
  rw [show exec (.consumptionRecordWrite d) s = execConsumptionRecordWrite d s from rfl, execConsumptionRecordWrite]
  dsimp only
  rw [holdest]
  dsimp only
  rw [hstream]
  exact (if_neg hplace).trans (congrArg Host.Outcome.next (if_neg (not_or.2 ⟨hdup, hsum⟩)))

end Sys2Proof.Claim

namespace Sys2Proof

/-- Settles O39: where a posted error goes and when it is entered, and how a consumption record is written. -/
theorem errorsAndRecords : Obligations.ErrorsAndRecords := ⟨Claim.postedErrors, Claim.consumptionRecords⟩

end Sys2Proof
end
section
/-! SUPPORT. Flits, replay and retraining of the die links (R384 to R387, R405). -/

namespace Sys2Proof.Machine

/-! ### Directions and modules -/

/-- The two directions of a module have links of their own. -/
theorem linkKey_ne (m : Nat) (fwd : Bool) : linkKey m fwd ≠ linkKey m !fwd := by
  cases fwd <;> simp [linkKey]

theorem link_setLink_same (s : State) (k : Nat) (d : LinkDir) : (s.setLink k d).link k = d := by
  rw [State.link_setLink, if_pos rfl]

theorem link_setLink_other {k j : Nat} (h : j ≠ k) (s : State) (d : LinkDir) : (s.setLink k d).link j = s.link j := by
  rw [State.link_setLink, if_neg h]

theorem link_setMod (s : State) (m k : Nat) (x : LinkModule) : (s.setMod m x).link k = s.link k := rfl

theorem mod_setMod_same (s : State) (m : Nat) (x : LinkModule) : (s.setMod m x).mod m = x := by
  rw [State.mod_setMod, if_pos rfl]

/-- A header that the switch takes waits at its port, whatever else waits there: nothing but the fabric changes. -/
theorem sendHeader_eq (s : State) (k : PacketKind) (p : Packet) : s.sendHeader k p = { s with fab := (s.sendHeader k p).fab } := by
  rw [State.sendHeader, State.emit, State.emitAt_of_header _ _ _ (show 3 < (7 : BitVec 3).toNat by decide)]
  rfl

/-- A FATAL that spreads changes nothing but the fabric. -/
theorem spreadFatal_eq (s : State) (pkg : Nat) : s.spreadFatal pkg = { s with fab := (s.spreadFatal pkg).fab } := by
  have hfold (p : Nat → Packet) (ms : List Nat) (s : State) : ms.foldl (fun s m => s.sendHeader .fatal (p m)) s =
      { s with fab := (ms.foldl (fun s m => s.sendHeader .fatal (p m)) s).fab } := by
    induction ms generalizing s with
    | nil => rfl
    | cons m ms ih =>
      rw [List.foldl_cons, ih, sendHeader_eq]
  exact hfold _ _ s

/-- A module that fails keeps its counts, and every other part of the links and the memory. -/
theorem failModule_effect (s : State) (m : Nat) :
    (s.failModule m).mod m = { s.mod m with failed := true, training := none } ∧ (∀ k, (s.failModule m).link k = s.link k) ∧
      (s.failModule m).mem = s.mem := by
  rw [State.failModule, spreadFatal_eq]
  exact ⟨mod_setMod_same s m _, fun _ => rfl, rfl⟩

/-- Failures of the window, the one that is counted among them (R386). -/
def State.crcRecent (s : State) (m : Nat) : List Nat := (s.mod m).recent.filter (fun t => s.gtb.toNat ≤ t + crcWindow) ++ [s.gtb.toNat]

/-- The count of a CRC failure (R386, R388). -/
theorem countCrc_effect (s : State) (m : Nat) :
    ((s.countCrc m).mod m).crcFail = ((s.mod m).crcFail + 1) % 2 ^ 24 ∧ (∀ k, (s.countCrc m).link k = s.link k) ∧
      (s.countCrc m).mem = s.mem ∧
      ((s.crcRecent m).length < crcLimit → ((s.countCrc m).mod m).training = (s.mod m).training ∧ ((s.countCrc m).mod m).failed = (s.mod m).failed) := by
  let s1 := (s.setMod m { s.mod m with crcFail := ((s.mod m).crcFail + 1) % 2 ^ 24, recent := s.crcRecent m }).bump 7 (2 * m)
  have hcounted : s1.mod m = { s.mod m with crcFail := ((s.mod m).crcFail + 1) % 2 ^ 24, recent := s.crcRecent m } := mod_setMod_same s m _
  have hcount : s.countCrc m = if (s.crcRecent m).length < crcLimit then s1 else if (s.mod m).half then s1.failModule m
      else s1.setMod m { s1.mod m with recent := [], training := some s.gtb.toNat, wide := false } := rfl
  rw [hcount]
  by_cases hfew : (s.crcRecent m).length < crcLimit
  · rw [if_pos hfew, hcounted]
    exact ⟨rfl, fun _ => rfl, rfl, fun _ => ⟨rfl, rfl⟩⟩
  · rw [if_neg hfew]
    split
    · obtain ⟨hmod, hlink, hmem⟩ := failModule_effect s1 m
      rw [hmod, hcounted]
      exact ⟨rfl, hlink, hmem, fun h => absurd h hfew⟩
    · rw [mod_setMod_same, hcounted]
      exact ⟨rfl, fun _ => rfl, rfl, fun h => absurd h hfew⟩


/-! ### Flits (R385) -/

theorem sends_receiver (d : LinkDir) (f : Flit) (now : Nat) :
    (d.sends f now).accepted = d.accepted ∧ (d.sends f now).executed = d.executed ∧ (d.sends f now).discarding = d.discarding := by
  unfold LinkDir.sends
  split_ifs <;> exact ⟨rfl, rfl, rfl⟩

/-- ACKSEQ drops from the replay buffer the flits that it covers. -/
theorem ack_held (d : LinkDir) (n : BitVec 12) (now : Nat) : (d.ack n now).held = d.held.filter fun x => !seqUpTo n x.seq := by
  unfold LinkDir.ack
  dsimp only
  split
  · next h => exact (List.filter_eq_self.2 (List.length_filter_eq_length_iff.1 h)).symm
  · rfl

theorem receives_of_next {d : LinkDir} {f : Flit} (hkind : f.kind = 0) (hseq : f.seq = d.accepted + 1) :
    (d.receives f).accepted = f.seq ∧ (d.receives f).executed = d.executed + 1 := by
  rw [LinkDir.receives, if_pos ⟨hkind, hseq⟩]
  exact ⟨rfl, rfl⟩

theorem receives_of_other {d : LinkDir} {f : Flit} (hseq : f.seq ≠ d.accepted + 1) :
    (d.receives f).accepted = d.accepted ∧ (d.receives f).executed = d.executed := by
  rw [LinkDir.receives, if_neg fun h => hseq h.2]
  exact ⟨rfl, rfl⟩

/-- The sender's side of a flit that its direction may send, the way back being told what it awaits. -/
def State.flitSent (s : State) (m : Nat) (fwd : Bool) (f : Flit) : State :=
  (s.setLink (linkKey m fwd) ((s.link (linkKey m fwd)).sends f s.gtb.toNat)).setLink (linkKey m !fwd)
    { s.link (linkKey m !fwd) with nak := false, unacked := 0 }

theorem link_flitSent (s : State) (m : Nat) (fwd : Bool) (f : Flit) :
    (s.flitSent m fwd f).link (linkKey m fwd) = (s.link (linkKey m fwd)).sends f s.gtb.toNat := by
  rw [State.flitSent, link_setLink_other (linkKey_ne m fwd), link_setLink_same]

theorem link_back_flitSent (s : State) (m : Nat) (fwd : Bool) (f : Flit) :
    (s.flitSent m fwd f).link (linkKey m !fwd) = { s.link (linkKey m !fwd) with nak := false, unacked := 0 } := by
  rw [State.flitSent, link_setLink_same]

/-- A flit that its direction may send arrives at a module that serves. -/
theorem exec_flitReceive_of_sent {m : BitVec 6} {fwd : Bool} {f : Flit} {s : State} (hm : m.toNat < 40) (hfailed : (s.mod m.toNat).failed = false)
    (htraining : (s.mod m.toNat).training = none)
    (hsend : (s.link (linkKey m.toNat fwd)).maySend (s.link (linkKey m.toNat !fwd)) f = true) :
    let s1 := s.flitSent m.toNat fwd f
    exec (.flitReceive m fwd f) s =
      if !flitGood f then .next (s1.corrupted m.toNat (linkKey m.toNat fwd))
      else if 3 < f.kind.toNat ∨ f.reserved ≠ 0 then .next (s1.failModule m.toNat)
      else
        let s2 := s1.setLink (linkKey m.toNat fwd) ((s1.link (linkKey m.toNat fwd)).receives f)
        let s3 := s2.setLink (linkKey m.toNat !fwd) ((s2.link (linkKey m.toNat !fwd)).ack f.ackseq s.gtb.toNat)
        if f.kind = 2 then .next (s3.nak m.toNat (linkKey m.toNat !fwd) f.ackseq) else .next s3 := by
  have hserves : ¬ (40 ≤ m.toNat ∨ (s.mod m.toNat).failed = true ∨ (s.mod m.toNat).training.isSome = true ∨
      (!(s.link (linkKey m.toNat fwd)).maySend (s.link (linkKey m.toNat !fwd)) f) = true) := by
    rw [hfailed, htraining, hsend]
    simpa using hm
  exact if_neg hserves

theorem corrupted_effect (s : State) (m k : Nat) :
    ((s.corrupted m k).link k).discarding = true ∧ ((s.corrupted m k).link k).executed = (s.link k).executed ∧
      ((s.corrupted m k).mod m).crcFail = ((s.mod m).crcFail + 1) % 2 ^ 24 ∧ (s.corrupted m k).mem = s.mem ∧
      ((s.link k).discarding = false → (s.crcRecent m).length < crcLimit → (s.mod m).training = none → (s.mod m).failed = false →
        ((s.corrupted m k).link k).nak = true) := by
  let s0 := s.setLink k { s.link k with discarding := true, unacked := (s.link k).unacked + 1 }
  obtain ⟨hcrc, hlinks, hmem, hserves⟩ := countCrc_effect s0 m
  have hlink : (s0.countCrc m).link k = { s.link k with discarding := true, unacked := (s.link k).unacked + 1 } := by
    rw [hlinks, link_setLink_same]
  have hcorrupted : s.corrupted m k =
      if (!(s.link k).discarding && ((s0.countCrc m).mod m).training.isNone && !((s0.countCrc m).mod m).failed) = true
      then (s0.countCrc m).setLink k { (s0.countCrc m).link k with nak := true } else s0.countCrc m := rfl
  rw [hcorrupted]
  split
  · rw [link_setLink_same, hlink]
    exact ⟨rfl, rfl, hcrc, hmem, fun _ _ _ _ => rfl⟩
  · next hnot =>
    rw [hlink]
    refine ⟨rfl, rfl, hcrc, hmem, fun hfirst hfew htraining hfailed => absurd ?_ hnot⟩
    obtain ⟨htrains, hfails⟩ := hserves hfew
    rw [hfirst, htrains, hfails, show s0.mod m = s.mod m from rfl, htraining, hfailed]
    rfl

/-! ### Retraining (R386) -/

/-- The end of a retrain: the module serves again, and both its directions are in step. -/
theorem retrainEnd_effect {m : BitVec 6} {s : State} {c : Nat} (htraining : (s.mod m.toNat).training = some c) (hdone : c + 2000 ≤ s.gtb.toNat) :
    ∃ t, exec (.retrainEnd m) s = .next t ∧
      ((t.mod m.toNat).training = none ∧ (t.mod m.toNat).half = (!(s.mod m.toNat).wide) ∧
        (t.mod m.toNat).retrain = ((s.mod m.toNat).retrain + 1) % 2 ^ 8) ∧
      (∀ fwd, t.link (linkKey m.toNat fwd) = (s.link (linkKey m.toNat fwd)).resync s.gtb.toNat) ∧ t.mem = s.mem := by
  let x := s.mod m.toNat
  let s1 := (s.setMod m.toNat { x with training := none, half := !x.wide, wide := false, retrain := (x.retrain + 1) % 2 ^ 8 }).bump 7 (2 * m.toNat + 1)
  let turn (s1 : State) (fwd : Bool) : State := s1.setLink (linkKey m.toNat fwd) ((s1.link (linkKey m.toNat fwd)).resync s.gtb.toNat)
  let s2 := turn (turn s1 false) true
  let t := if ((s2.link (linkKey m.toNat false)).resume.isSome || (s2.link (linkKey m.toNat true)).resume.isSome) = true
    then s2.setMod m.toNat { s2.mod m.toNat with replay := ((s2.mod m.toNat).replay + 1) % 2 ^ 24 } else s2
  have hmod : s2.mod m.toNat = { x with training := none, half := !x.wide, wide := false, retrain := (x.retrain + 1) % 2 ^ 8 } := by
    have hlinks : s2.mod m.toNat = s1.mod m.toNat := by simp only [s2, turn, State.mod, State.setLink_modules]
    exact hlinks.trans (mod_setMod_same s m.toNat _)
  have hlink (fwd : Bool) : s2.link (linkKey m.toNat fwd) = (s.link (linkKey m.toNat fwd)).resync s.gtb.toNat := by
    have hne : linkKey m.toNat false ≠ linkKey m.toNat true := linkKey_ne m.toNat false
    have hlinks (k : Nat) : s1.link k = s.link k := by simp only [s1, State.link, State.bump, State.setMod_links]
    simp only [s2, turn]
    cases fwd with
    | false => rw [link_setLink_other hne, link_setLink_same, hlinks]
    | true => rw [link_setLink_same, link_setLink_other hne.symm, hlinks]
  refine ⟨t, ?_, ?_⟩
  · rw [show exec (.retrainEnd m) s = execRetrainEnd m s from rfl, execRetrainEnd]
    rw [htraining]
    exact if_neg (Nat.not_lt.2 hdone)
  · have hmem : s2.mem = s.mem := by simp only [s2, turn, s1, State.bump, State.setLink_mem, State.setMod_mem]
    simp only [t]
    split
    · rw [mod_setMod_same, hmod]
      exact ⟨⟨rfl, rfl, rfl⟩, fun fwd => (link_setMod ..).trans (hlink fwd), (State.setMod_mem ..).trans hmem⟩
    · rw [hmod]
      exact ⟨⟨rfl, rfl, rfl⟩, hlink, hmem⟩

end Sys2Proof.Machine

namespace Sys2Proof

open Machine

/-- Settles O51: what flits, NAKs, timeouts and retrains do at both ends of a module. -/
theorem dieLinks : Obligations.DieLinks := by
  intro m fwd s x k back hm hfailed
  refine ⟨fun htraining => ⟨fun f hsend => ?idle, fun f hgood hsend hbad => ?reserved, fun f hgood hsend hkind hres => ?data, fun f hbad hsend => ?crc,
    fun hnak => ?nak, fun n hnot => ?noNak, fun f r hheld htime => ?timeout, fun hhalf hheld hback hwait hbackWait => ?idleRetrain, ?unsupervised⟩,
    fun c htraining hdone => ?retrainEnd⟩
  case idle =>
    have hquiet : 40 ≤ m.toNat ∨ x.failed = true ∨ x.training.isSome = true ∨ (!(s.link k).maySend (s.link back) f) = true := by
      rw [hsend]
      exact .inr (.inr (.inr rfl))
    exact if_pos hquiet
  case reserved =>
    refine ⟨(s.flitSent m.toNat fwd f).failModule m.toNat, ?_, ?_⟩
    · rw [exec_flitReceive_of_sent hm hfailed htraining hsend, hgood]
      exact if_pos hbad
    · obtain ⟨hmod, -, hmem⟩ := failModule_effect (s.flitSent m.toNat fwd f) m.toNat
      exact ⟨congrArg LinkModule.failed hmod, hmem⟩
  case data =>
    let s1 := s.flitSent m.toNat fwd f
    let s2 := s1.setLink k ((s1.link k).receives f)
    let s3 := s2.setLink back ((s2.link back).ack f.ackseq s.gtb.toNat)
    obtain ⟨haccepted, hexecuted, -⟩ := sends_receiver (s.link k) f s.gtb.toNat
    have hlink : s3.link k = ((s.link k).sends f s.gtb.toNat).receives f := by
      rw [link_setLink_other (linkKey_ne m.toNat fwd), link_setLink_same, link_flitSent]
    have hback : s3.link back = ({ s.link back with nak := false, unacked := 0 } : LinkDir).ack f.ackseq s.gtb.toNat := by
      rw [link_setLink_same, link_setLink_other (linkKey_ne m.toNat fwd).symm, link_back_flitSent]
    have hnotNak : ¬ f.kind = 2 := by rw [hkind]; decide
    have hform : ¬ (3 < f.kind.toNat ∨ f.reserved ≠ 0) := by rw [hkind, hres]; decide
    have hmem : s3.mem = s.mem := by simp only [s3, s2, s1, State.flitSent, State.setLink_mem]
    refine ⟨s3, ?_, hmem, fun hnext => ?_, fun hother => ?_, ?_⟩
    · rw [exec_flitReceive_of_sent hm hfailed htraining hsend, hgood]
      exact (if_neg hform).trans (if_neg hnotNak)
    · rw [← haccepted] at hnext
      rw [hlink, (receives_of_next hkind hnext).1, (receives_of_next hkind hnext).2, hexecuted]
      exact ⟨rfl, rfl⟩
    · rw [← haccepted] at hother
      rw [hlink, (receives_of_other hother).1, (receives_of_other hother).2, hexecuted]
      exact ⟨haccepted, rfl⟩
    · rw [hback, ack_held]
  case crc =>
    obtain ⟨-, hexecuted, hdiscarding⟩ := sends_receiver (s.link k) f s.gtb.toNat
    obtain ⟨hdiscards, hexec, hcount, hmem, hnak⟩ := corrupted_effect (s.flitSent m.toNat fwd f) m.toNat k
    have hlink := link_flitSent s m.toNat fwd f
    refine ⟨(s.flitSent m.toNat fwd f).corrupted m.toNat k, ?_, hdiscards, ?_, hcount, hmem, fun hfirst hfew => ?_⟩
    · rw [exec_flitReceive_of_sent hm hfailed htraining hsend, hbad]
      rfl
    · rw [hexec, hlink, hexecuted]
    · refine hnak (by rw [hlink, hdiscarding, hfirst]) ?_ htraining hfailed
      rw [State.crcRecent, List.length_append]
      exact Nat.add_lt_add_right hfew 1
  case nak =>
    have howed : ¬ (40 ≤ m.toNat ∨ x.failed = true ∨ x.training.isSome = true ∨ (!(s.link k).nak) = true ∨ (s.link k).accepted ≠ (s.link k).accepted) := by
      rw [hfailed, htraining, hnak]
      simpa using hm
    exact if_neg howed
  case noNak =>
    have hnone : 40 ≤ m.toNat ∨ x.failed = true ∨ x.training.isSome = true ∨ (!(s.link k).nak) = true ∨ n ≠ (s.link k).accepted :=
      .inr (.inr (.inr (hnot.imp_left fun h => by rw [h]; rfl)))
    exact if_pos hnone
  case timeout =>
    have hdue : ¬ (40 ≤ m.toNat ∨ x.failed = true ∨ x.training.isSome = true ∨ s.gtb.toNat < (s.link k).progress + 64) := by
      rw [hfailed, htraining]
      simpa using ⟨hm, htime⟩
    rw [show exec (.replayTimeout m fwd) s = execReplayTimeout m fwd s from rfl, execReplayTimeout, hheld]
    exact if_neg hdue
  case idleRetrain =>
    have hquiet (b : Bool) : (s.link (linkKey m.toNat b)).held = [] ∧ (s.link (linkKey m.toNat b)).waiting = [] := by
      obtain rfl | rfl := Bool.eq_or_eq_not b fwd
      · exact ⟨hheld, hwait⟩
      · exact ⟨hback, hbackWait⟩
    rw [show exec (.moduleIdleRetrain m true) s = execModuleIdleRetrain m true s from rfl, execModuleIdleRetrain]
    refine if_neg ?_
    dsimp only
    rw [(hquiet false).1, (hquiet false).2, (hquiet true).1, (hquiet true).2]
    simp only [show (s.mod m.toNat).failed = false from hfailed, show (s.mod m.toNat).training = none from htraining,
      show (s.mod m.toNat).half = true from hhalf]
    simpa using hm
  case unsupervised =>
    rw [show exec (.moduleIdleRetrain m false) s = execModuleIdleRetrain m false s from rfl, execModuleIdleRetrain]
    exact if_pos (Or.inl rfl)
  case retrainEnd =>
    obtain ⟨t, hexec, ⟨hserves, hwidth, hcount⟩, hlink, hmem⟩ := retrainEnd_effect htraining hdone
    refine ⟨t, hexec, hserves, hwidth, hcount, ?_, ?_, hmem⟩
    all_goals rw [hlink fwd]
    · rfl
    · exact ack_held _ _ _

end Sys2Proof
end
section
/-! SUPPORT. Mailbox requests, firmware images and service calls (R267, R376, R408 to R414). -/

namespace Sys2Proof.Machine

/-! ### Requests (R412) -/

/-- A request of the physical function's open mailbox, with none in progress, is carried out and answered (R412). -/
theorem mailbox_served {phys rescue : Bool} {tag : W16} {args : List W8} {s : State} (hopen : s.boxOpen 0 = true) (hidle : (s.box 0).busy = false)
    (hlen : args.length ≤ 2040) (hserves : s.admin.failed ≠ some 1 ∨ rescue = true) (k : State → State × Nat × List W8) :
    mailbox phys rescue 0 tag args s k = .next ((k s).1.respondBox 0 tag (k s).2.1 (k s).2.2) := by
  have hclosed : ¬ (!s.boxOpen 0) = true := by rw [hopen]; decide
  have hbusy : ¬ (s.box 0).busy = true := by rw [hidle]; decide
  have hfits : ¬ (maxArgs < args.length ∨ (s.admin.failed = some 1 ∧ (!rescue) = true)) := by
    rintro (hlong | ⟨hfailed, hrescue⟩)
    · exact absurd hlen (Nat.not_le.2 hlong)
    · exact hserves.elim (fun h => h hfailed) fun h => by rw [h] at hrescue; exact Bool.noConfusion hrescue
  have hphysical : ¬ (phys = true ∧ (0 : BitVec 5).toNat ≠ 0) := fun h => h.2 rfl
  exact (if_neg hclosed).trans ((if_neg hbusy).trans ((if_neg hfits).trans (if_neg hphysical)))

/-- The same, for a request whose effect is known. -/
theorem mailbox_answers {phys rescue : Bool} {tag : W16} {args : List W8} {s t : State} {status : Nat} {data : List W8} {k : State → State × Nat × List W8}
    (hopen : s.boxOpen 0 = true) (hidle : (s.box 0).busy = false) (hlen : args.length ≤ 2040) (hserves : s.admin.failed ≠ some 1 ∨ rescue = true)
    (hk : k s = (t, status, data)) : mailbox phys rescue 0 tag args s k = .next (t.respondBox 0 tag status data) := by
  rw [mailbox_served hopen hidle hlen hserves, hk]

/-- Sections 1 to 8 have bins, and the lifetime area holds them as HIST answers them (R414). -/
theorem sectionBins_of_listed {k : Nat} (hlow : 1 ≤ k) (hhigh : k ≤ 8) : sectionBins k ≠ 0 ∧ lifetimeBins k = sectionBins k := by
  interval_cases k <;> decide

theorem sectionCounts_of_listed {k : Nat} (hlow : 1 ≤ k) (hhigh : k ≤ 8) (s : State) :
    s.sectionCounts k = (List.range (sectionBins k)).map fun i => Tab.getD s.admin.histWritten (fun _ => 0) (65536 * k + i) := by
  rw [State.sectionCounts, (sectionBins_of_listed hlow hhigh).2]

/-- FWCOMMIT is refused unless an image is staged and accepted (R409). -/
theorem refused_iff (staged accepted : Bool) : ((!staged) = true ∨ (!accepted) = true) ↔ ¬ (staged = true ∧ accepted = true) := by
  cases staged <;> cases accepted <;> decide

/-! ### Service calls (R413) -/

/-- The oldest unanswered call of a die gets its reply. -/
def State.answered (s : State) (d : Nat) (c : SvcCall) (v : W64) : State :=
  s.updDie d fun x => { x with svc := x.svc.map fun e => if e.who = c.who ∧ e.reply = none then { e with reply := some v } else e }

theorem serve_oldest {code : Nat} {d : BitVec 2} {s t : State} {c : SvcCall} {v : W64} {k : SvcCall → State → State × W64}
    (hcall : ((s.die d.toNat).svc.find? fun c => c.reply.isNone) = some c) (hcode : c.code = BitVec.ofNat 16 code) (hsmall : code < 2 ^ 16)
    (hk : k c s = (t, v)) : serve code d s k = .next (t.answered d.toNat c v) := by
  have hserves : c.code.toNat = code := by rw [hcode, BitVec.toNat_ofNat, Nat.mod_eq_of_lt hsmall]
  rw [serve, hcall]
  refine (if_neg (not_not.2 hserves)).trans ?_
  rw [hk, State.answered]

end Sys2Proof.Machine

namespace Sys2Proof.Claim

open Machine

theorem mailboxRequests : MailboxRequests := by
  intro s tag args hopen hidle hlen hserves
  have hanswers {phys rescue : Bool} {k : State → State × Nat × List W8} {t : State} {status : Nat} {data : List W8} (hk : k s = (t, status, data)) :
      mailbox phys rescue 0 tag args s k = .next (t.respondBox 0 tag status data) := mailbox_answers hopen hidle hlen (.inl hserves) hk
  refine ⟨?getinfo, fun hnonce => ?attest, fun n hn hargs => ⟨_, ?setop, rfl⟩, fun s1 hcap => ?setcap, fun hcap => ?badcap,
    fun k hlow hhigh hargs => ?hist, fun p rest hp hargs => ?noPartition, fun p rest hboot hp hargs => ?partcfg, fun hboot => ?failed⟩
  case getinfo =>
    rw [show exec (.mailboxGetinfo 0 tag args) s = execMailboxGetinfo 0 tag args s from rfl, execMailboxGetinfo]
    exact ⟨_, hanswers rfl⟩
  case attest =>
    rw [show exec (.mailboxAttest 0 tag args) s = execMailboxAttest 0 tag args s from rfl, execMailboxAttest]
    exact hanswers (if_neg (not_not.2 hnonce))
  case setop =>
    subst hargs
    rw [show exec (.mailboxSetop 0 tag [n]) s = execMailboxSetop 0 tag [n] s from rfl, execMailboxSetop]
    exact hanswers (if_neg (Nat.not_lt.2 hn))
  case setcap =>
    rw [show exec (.mailboxSetcap 0 tag args) s = execMailboxSetcap 0 tag args s from rfl, execMailboxSetcap]
    exact hanswers (by rw [hcap])
  case badcap =>
    rw [show exec (.mailboxSetcap 0 tag args) s = execMailboxSetcap 0 tag args s from rfl, execMailboxSetcap]
    exact hanswers (by rw [hcap])
  case hist =>
    subst hargs
    rw [show exec (.mailboxHist 0 tag [k]) s = execMailboxHist 0 tag [k] s from rfl, execMailboxHist, ← sectionCounts_of_listed hlow hhigh]
    exact hanswers (if_neg (sectionBins_of_listed hlow hhigh).1)
  case noPartition =>
    subst hargs
    rw [show exec (.partcfg 0 tag (p :: rest)) s = execPartcfg 0 tag (p :: rest) s from rfl, execPartcfg]
    exact hanswers (if_pos (.inl hp))
  case partcfg =>
    subst hargs
    have hallowed : ¬ (16 ≤ p.toNat ∨ s.admin.failed.isSome = true) := by
      rw [hboot]
      exact fun h => h.elim (Nat.not_le.2 hp) (by decide)
    rw [show exec (.partcfg 0 tag (p :: rest)) s = execPartcfg 0 tag (p :: rest) s from rfl, execPartcfg]
    refine ⟨_, hanswers (if_neg hallowed), ?_⟩
    exact congrArg (fun a : Admin => addNats a.bound [p.toNat]) (applyConfig_rest s _).1
  case failed =>
    rw [show exec (.partcfg 0 tag args) s = execPartcfg 0 tag args s from rfl, execPartcfg]
    exact hanswers (if_pos (.inr hboot))

theorem firmwareImages : FirmwareImages := by
  intro s tag args hopen hidle hlen
  have hanswers {phys rescue : Bool} {k : State → State × Nat × List W8} {t : State} {status : Nat} {data : List W8} (hserves : s.admin.failed ≠ some 1 ∨ rescue = true)
      (hk : k s = (t, status, data)) : mailbox phys rescue 0 tag args s k = .next (t.respondBox 0 tag status data) := mailbox_answers hopen hidle hlen hserves hk
  refine ⟨?stage, ?commit, fun hserves => ?load, fun image => ?accepts⟩
  case stage =>
    rw [show exec (.fwstage 0 tag args) s = execFwstage 0 tag args s from rfl, execFwstage]
    exact ⟨_, hanswers (.inr rfl) rfl, rfl, rfl, rfl⟩
  case commit =>
    intro img
    rw [show exec (.fwcommit 0 tag args) s = execFwcommit 0 tag args s from rfl, execFwcommit]
    by_cases hgood : s.admin.staged = true ∧ s.accepts img = true
    · rw [if_pos hgood]
      exact hanswers (.inr rfl) (if_neg fun hrefused => (refused_iff _ _).1 hrefused hgood)
    · rw [if_neg hgood]
      exact hanswers (.inr rfl) (if_pos ((refused_iff _ _).2 hgood))
  case load =>
    rw [show exec (.proofload 0 tag args) s = execProofload 0 tag args s from rfl, execProofload]
    by_cases hgood : s.accepts (args.drop 4) = true
    · rw [if_pos hgood]
      exact ⟨_, hanswers (.inl hserves) (if_neg (by rw [hgood]; decide)), rfl⟩
    · rw [if_neg hgood]
      exact ⟨_, hanswers (.inl hserves) (if_pos (by rw [eq_false_of_ne_true hgood]; rfl)), rfl⟩
  case accepts =>
    rw [State.accepts, Bool.and_eq_true, Bool.and_eq_true, beq_iff_eq, decide_eq_true_eq, and_assoc]

theorem serviceCalls : ServiceCalls := by
  intro d s
  refine ⟨fun c hcall => ⟨fun bs hcode harg hread => ?log, fun hcode => ?event, fun hcode harg => ?grant, fun hcode harg => ?refuse,
    fun hcode hlow hhigh => ?counter⟩, fun c rest v hsvc hreply => ?reply⟩
  case log =>
    rw [show exec (.svcHostLog d) s = execSvcHostLog d s from rfl, execSvcHostLog]
    exact serve_oldest hcall hcode (by decide) (by simp only [if_pos harg, State.callerPart, hread])
  case event =>
    rw [show exec (.svcMailboxEvent d) s = execSvcMailboxEvent d s from rfl, execSvcMailboxEvent]
    exact serve_oldest hcall hcode (by decide) rfl
  case grant =>
    rw [show exec (.svcRequestOp d) s = execSvcRequestOp d s from rfl, execSvcRequestOp]
    exact serve_oldest hcall hcode (by decide) (if_neg (Nat.not_lt.2 harg))
  case refuse =>
    rw [show exec (.svcRequestOp d) s = execSvcRequestOp d s from rfl, execSvcRequestOp]
    exact serve_oldest hcall hcode (by decide) (if_pos harg)
  case counter =>
    rw [show exec (.svcReadCounter d) s = execSvcReadCounter d s from rfl, execSvcReadCounter, ← sectionCounts_of_listed hlow hhigh]
    exact serve_oldest hcall hcode (by decide) (by rw [if_neg (sectionBins_of_listed hlow hhigh).1])
  case reply =>
    have hreplies : (if decide (1 ≤ c.code.toNat ∧ c.code.toNat ≤ 4) = true then c.reply else some allOnes) = some v := by
      obtain ⟨hlow, hhigh, hv⟩ | ⟨hnone, rfl⟩ := hreply
      · exact (if_pos (decide_eq_true ⟨hlow, hhigh⟩)).trans hv
      · refine if_neg (mt of_decide_eq_true ?_)
        rintro ⟨hlow, hhigh⟩
        exact hnone.elim (fun h => absurd hlow (by rw [h]; decide)) (Nat.not_lt.2 hhigh)
    rw [show exec (.svcReply d) s = execSvcReply d s from rfl, execSvcReply, hsvc]
    simp only
    rw [hreplies] <;> rfl

end Sys2Proof.Claim

namespace Sys2Proof

/-- Settles O45: a request of the open mailbox is carried out and answered; a claim about its effect is then the branch that its arguments take. -/
theorem mailboxesAndServices : Obligations.MailboxesAndServices :=
  ⟨Claim.mailboxRequests, Claim.firmwareImages, Claim.serviceCalls⟩

end Sys2Proof
end

section
/-! SUPPORT. Writes at home (R15, R66, R77, R87, R140): an argument about what they may change, made once. -/

namespace Sys2Proof.Machine

/-! ### What writes at home may change

A property that survives every change of the fields that writes at home touch is kept by each of the operations that make up such a
write, down to `State.flushAll`. -/

/-- `P` survives a change of what keeps the books of memory, and writes to memory and to the stacks. -/
structure HomeClosed (P : State → Prop) : Prop where
  books : ∀ (s : State) (cores : Tab Core) (dies : Tab Die) (bad mediaBad keyKills hostLines : List Nat) (secKey mediaKeys : Tab Nat)
    (l2 : Tab L2Line) (tags mediaTags : Tab W16) (snaps : Tab SnapSet) (keys : Tab KeySlot) (cmds : List Command) (hostOut : List HostOut)
    (admin : Admin) (log : List LogEntry), P s → P { s with
      cores, dies, bad, secKey, l2, tags, mediaTags, mediaBad, mediaKeys, keyKills, snaps, keys, cmds, hostOut, hostLines, admin, log }
  mem : ∀ (s : State) (ws : List (Nat × W8)), P s → P { s with mem := Tab.putAll s.mem (fun _ => 0) ws }
  media : ∀ (s : State) (ws : List (Nat × W8)), P s → P { s with media := Tab.putAll s.media (fun _ => 0) ws }

/-- Such a property, of a state that has it. -/
structure KeptHome (P : State → Prop) (s : State) : Prop where
  closed : HomeClosed P
  holds : P s

section
variable {P : State → Prop} {s t : State}

theorem KeptHome.upd {cores : Tab Core} {dies : Tab Die} {bad mediaBad keyKills hostLines : List Nat}
    {secKey mediaKeys : Tab Nat} {l2 : Tab L2Line} {tags mediaTags : Tab W16} {snaps : Tab SnapSet} {keys : Tab KeySlot}
    {cmds : List Command} {hostOut : List HostOut} {admin : Admin} {log : List LogEntry} (h : KeptHome P s) : KeptHome P { s with
      cores, dies, bad, secKey, l2, tags, mediaTags, mediaBad, mediaKeys, keyKills, snaps, keys, cmds, hostOut, hostLines, admin, log } :=
  ⟨h.closed, h.closed.books s _ _ _ _ _ _ _ _ _ _ _ _ _ _ _ _ _ h.holds⟩

theorem KeptHome.updMem {ws : List (Nat × W8)} {cores : Tab Core} {dies : Tab Die} {bad mediaBad keyKills hostLines : List Nat}
    {secKey mediaKeys : Tab Nat} {l2 : Tab L2Line} {tags mediaTags : Tab W16} {snaps : Tab SnapSet} {keys : Tab KeySlot}
    {cmds : List Command} {hostOut : List HostOut} {admin : Admin} {log : List LogEntry} (h : KeptHome P s) : KeptHome P { s with
      mem := Tab.putAll s.mem (fun _ => 0) ws,
      cores, dies, bad, secKey, l2, tags, mediaTags, mediaBad, mediaKeys, keyKills, snaps, keys, cmds, hostOut, hostLines, admin, log } :=
  KeptHome.upd ⟨h.closed, h.closed.mem s ws h.holds⟩

theorem KeptHome.updPut {pa : Nat} {v : W8} (h : KeptHome P s) : KeptHome P { s with mem := s.mem.put0 pa v } := h.updMem (ws := [(pa, v)])

theorem KeptHome.updMedia {ws : List (Nat × W8)} (h : KeptHome P s) : KeptHome P { s with media := Tab.putAll s.media (fun _ => 0) ws } :=
  ⟨h.closed, h.closed.media s ws h.holds⟩

theorem KeptHome.ite {c : Prop} {_ : Decidable c} (h : KeptHome P s) (g : KeptHome P t) : KeptHome P (if c then s else t) := by
  split
  · exact h
  · exact g

theorem KeptHome.foldl {α : Type} {f : State → α → State} {l : List α} (hf : ∀ t a, KeptHome P t → KeptHome P (f t a)) (h : KeptHome P s) :
    KeptHome P (l.foldl f s) :=
  List.foldlRecOn (motive := KeptHome P) l f h fun t ht a _ => hf t a ht

theorem KeptHome.setCore {c : Nat} {v : Core} (hs : KeptHome P s) : KeptHome P (s.setCore c v) := hs.upd

theorem KeptHome.updCore {c : Nat} {f : Core → Core} (hs : KeptHome P s) : KeptHome P (s.updCore c f) := hs.setCore

theorem KeptHome.updDie {d : Nat} {f : Die → Die} (hs : KeptHome P s) : KeptHome P (s.updDie d f) := hs.upd

theorem KeptHome.note {e : LogEntry} (hs : KeptHome P s) : KeptHome P (s.note e) := hs.upd

theorem KeptHome.setKey {k : Nat} {v : KeySlot} (hs : KeptHome P s) : KeptHome P (s.setKey k v) := hs.upd

theorem KeptHome.setL2 {line : Nat} {v : L2Line} (hs : KeptHome P s) : KeptHome P (s.setL2 line v) := hs.upd

theorem KeptHome.metaWriteBack {l : MetaLine} (hs : KeptHome P s) : KeptHome P (s.metaWriteBack l) := hs.updMedia

theorem KeptHome.metaUse {pa : Nat} (hs : KeptHome P s) : KeptHome P (s.metaUse pa) := by
  unfold State.metaUse
  split
  · exact hs
  · extract_lets
    split
    · exact hs.metaWriteBack.updDie
    · exact hs.updDie

theorem KeptHome.metaStore {pa : Nat} {bs : List W8} (hs : KeptHome P s) : KeptHome P (s.metaStore pa bs) := by
  unfold State.metaStore
  split
  · exact hs
  · exact hs.metaUse.updDie

theorem KeptHome.setBlockState {pa v : Nat} (hs : KeptHome P s) : KeptHome P (s.setBlockState pa v) := hs.metaStore

theorem KeptHome.taint {secs : List Nat} (hs : KeptHome P s) : KeptHome P (s.taint secs) := hs.upd

theorem KeptHome.poison {secs : List Nat} (hs : KeptHome P s) : KeptHome P (s.poison secs) := hs.upd

theorem KeptHome.memoryRecord {cause pa key path : Nat} (hs : KeptHome P s) : KeptHome P (s.memoryRecord cause pa key path) := hs.note

theorem KeptHome.putTag {sec : Nat} {t : Option W32} (hs : KeptHome P s) : KeptHome P (s.putTag sec t) := by
  unfold State.putTag
  split
  · exact hs.metaStore
  · exact hs

theorem KeptHome.toMedia {pa : Nat} {bs : List W8} {mask : BitVec 128} (hs : KeptHome P s) : KeptHome P (s.toMedia pa bs mask) := hs.updMedia

theorem KeptHome.countWear {line : Nat} (hs : KeptHome P s) : KeptHome P (s.countWear line) := by
  unfold State.countWear
  split
  · exact hs.upd
  · exact hs

theorem KeptHome.drainEntry {e : OwqEntry} {mediaError : Bool} (hs : KeptHome P s) : KeptHome P (s.drainEntry e mediaError) := by
  unfold State.drainEntry
  extract_lets _ _ _ _ s1 _ s2 s3
  have hs1 : KeptHome P s1 := hs.toMedia.countWear
  have hs2 : KeptHome P s2 := hs1.upd
  have hs3 : KeptHome P s3 := .foldl (fun _ _ ht => ht.putTag) hs2
  exact .ite (.memoryRecord (.ite hs3 hs3.poison)) hs3

theorem KeptHome.drainOldest {d : Nat} {mediaError : Bool} (hs : KeptHome P s) : KeptHome P (s.drainOldest d mediaError) := by
  unfold State.drainOldest
  split
  · exact hs
  · exact hs.updDie.drainEntry

theorem KeptHome.accept {d line : Nat} {bytes : List W8} {mask : BitVec 128} {tag : W16} {bad : List Nat} (hs : KeptHome P s) :
    KeptHome P (s.accept d line bytes mask tag bad) := by
  unfold State.accept
  exact .updDie (.ite hs.drainOldest hs)

theorem KeptHome.acceptLine {d line : Nat} (hs : KeptHome P s) : KeptHome P (s.acceptLine d line) := hs.accept

theorem KeptHome.putStored {line : Nat} (hs : KeptHome P s) : KeptHome P (s.putStored line) := hs.toMedia.upd

theorem KeptHome.storeTags {l : List (Nat × List W8)} (hs : KeptHome P s) : KeptHome P (s.storeTags l) := .foldl (fun _ _ ht => ht.putTag) hs

theorem KeptHome.storeLine {line : Nat} (hs : KeptHome P s) : KeptHome P (s.storeLine line) := hs.putStored.storeTags

theorem KeptHome.cleanL2 {line : Nat} (hs : KeptHome P s) : KeptHome P (s.cleanL2 line) := hs.setL2

theorem KeptHome.rekey {key sec : Nat} (hs : KeptHome P s) : KeptHome P (s.rekey key sec) :=
    .ite (.ite hs.updMem hs) (.upd (.ite hs.updMem hs))

theorem KeptHome.rekeyOther {line : Nat} (hs : KeptHome P s) : KeptHome P (s.rekeyOther line) := .ite hs hs.rekey.rekey

theorem KeptHome.storeBlock {c : Bool} {line : Nat} (hs : KeptHome P s) : KeptHome P (s.storeBlock c line) :=
    .cleanL2 (.cleanL2 (.storeTags (.setBlockState (.putStored (.putStored (.ite hs.rekeyOther.taint hs.rekeyOther))))))

theorem KeptHome.writeBack {line : Nat} (hs : KeptHome P s) : KeptHome P (s.writeBack line) := by
  unfold State.writeBack
  split
  · exact .ite hs.storeBlock hs.storeLine.cleanL2
  · exact hs.storeLine.cleanL2
  · exact hs.cleanL2

theorem KeptHome.evictLine {line : Nat} (hs : KeptHome P s) : KeptHome P (s.evictLine line) := by
  unfold State.evictLine
  extract_lets
  refine .ite hs ?_
  refine .ite ?_ hs.writeBack
  split
  · exact hs.acceptLine.cleanL2
  · exact hs

theorem KeptHome.invalidateL1 {line : Nat} {but : Option Nat} (hs : KeptHome P s) : KeptHome P (s.invalidateL1 line but) :=
    .foldl (fun _ _ ht => ht.updCore) hs

theorem KeptHome.evictOut {line : Nat} (hs : KeptHome P s) : KeptHome P (s.evictOut line) := hs.evictLine.invalidateL1.setL2

theorem KeptHome.switchKey {line key : Nat} (hs : KeptHome P s) : KeptHome P (s.switchKey line key) := .ite hs.evictOut hs

theorem KeptHome.metaFor {line key : Nat} (hs : KeptHome P s) : KeptHome P (s.metaFor line key) := by
  unfold State.metaFor
  extract_lets s1
  have hs1 : KeptHome P s1 := by
    dsimp only [s1]
    split
    · exact hs.metaUse
    · exact hs
  refine .ite ?_ hs1
  split
  · exact hs1.metaUse
  · exact hs1

theorem KeptHome.l2Alloc {d line key : Nat} {lru c p : Bool} (hs : KeptHome P s) : KeptHome P (s.l2Alloc d line key lru c p) := by
  unfold State.l2Alloc
  extract_lets _ _ _ s1 s1'
  have hs1 : KeptHome P s1 := hs.updDie
  have hs1' : KeptHome P s1' := hs1.metaFor
  refine .ite hs1.setL2 ?_
  refine .ite hs1.metaFor ?_
  split
  · exact hs1'.setL2
  · split
    · exact hs1'.evictOut.setL2
    · exact hs1'

theorem KeptHome.l2Use {line key cp : Nat} {c p lru : Bool} (hs : KeptHome P s) : KeptHome P (s.l2Use line key cp c p lru) := by
  unfold State.l2Use
  extract_lets s1
  have hs1 : KeptHome P s1 := hs.switchKey
  split
  · exact hs
  · exact .ite hs1.metaFor (.l2Alloc (.ite hs1.l2Alloc hs1))

theorem KeptHome.setSnap {q : Nat} {v : SnapSet} (hs : KeptHome P s) : KeptHome P (s.setSnap q v) := hs.upd

theorem KeptHome.setSheetBit {q d j : Nat} {b : Bool} (hs : KeptHome P s) : KeptHome P (s.setSheetBit q d j b) := hs.updPut

theorem KeptHome.snapPut {pa : Nat} {bs : List W8} {bad : List Nat} (hs : KeptHome P s) : KeptHome P (s.snapPut pa bs bad) := hs.updMem

theorem KeptHome.capture {q d j : Nat} (hs : KeptHome P s) : KeptHome P (s.capture q d j) := hs.snapPut.upd.acceptLine.setSheetBit.setSnap

theorem KeptHome.cow {line : Nat} {tag : W16} (hs : KeptHome P s) : KeptHome P (s.cow line tag) := .foldl (fun _ _ ht => ht.capture) hs

theorem KeptHome.dropCopy {core pa : Nat} (hs : KeptHome P s) : KeptHome P (s.dropCopy core pa) :=
    .ite (.updCore (.ite hs.updDie hs)) (.ite hs.updDie hs)

theorem KeptHome.updCopies {core : Nat} {ws : List (Nat × W8)} (hs : KeptHome P s) : KeptHome P (s.updCopies core ws) :=
    .ite (.ite hs hs.updDie) (.updCore (.ite hs hs.updDie))

theorem KeptHome.bookLine {u : Under} {ws : List (Nat × W8)} {line : Nat} (hs : KeptHome P s) : KeptHome P (s.bookLine u ws line) := by
  unfold State.bookLine
  extract_lets s1 s2
  have hs1 : KeptHome P s1 := .invalidateL1 (.ite hs.upd hs)
  have hs2 : KeptHome P s2 := hs1.l2Use
  split
  · exact hs
  · exact .ite hs2.setL2 (.ite hs1.accept hs1.setL2.writeBack)

theorem KeptHome.backInvalidate {lines : List Nat} (hs : KeptHome P s) : KeptHome P (s.backInvalidate lines) := .ite hs (.ite hs hs.upd)

theorem KeptHome.dropLags {p : Lag → Bool} (hs : KeptHome P s) : KeptHome P (s.dropLags p) := .foldl (fun _ _ ht => .ite ht.updCore ht) hs

theorem KeptHome.writeAll {u : Under} {ws : List (Nat × W8)} {hurt : List Nat} (hs : KeptHome P s) : KeptHome P (s.writeAll u ws hurt) := by
  unfold State.writeAll
  extract_lets _ s' _ _ s'' s0 s1 _ s2 s3 _ s4 s5 s6
  have hs' : KeptHome P s' := hs.dropLags
  have hs'' : KeptHome P s'' := hs'.backInvalidate
  have hs0 : KeptHome P s0 := .ite (.foldl (fun _ _ ht => ht.cow) hs'') hs''
  have hs1 : KeptHome P s1 := .foldl (fun _ _ ht => ht.switchKey) hs0
  have hs2 : KeptHome P s2 := .foldl (fun _ _ ht => ht.rekey) hs1
  have hs3 : KeptHome P s3 := hs2.updMem
  have hs4 : KeptHome P s4 := .ite hs3 hs3.upd
  have hs5 : KeptHome P s5 := .ite hs4 hs4.taint
  have hs6 : KeptHome P s6 := by
    dsimp only [s6]
    split
    · exact hs5.updCopies
    · exact hs5
  exact .foldl (fun _ _ ht => ht.bookLine) hs6

theorem KeptHome.landThrough {core : Nat} {w : WriteThrough} (hs : KeptHome P s) : KeptHome P (s.landThrough core w) := hs.writeAll

theorem KeptHome.flushThrough {core : Nat} {p : WriteThrough → Bool} (hs : KeptHome P s) : KeptHome P (s.flushThrough core p) :=
    .ite hs (.foldl (fun _ _ ht => ht.landThrough) hs.updCore)

theorem KeptHome.writeAt {u : Under} {pa : Nat} {bs : List W8} (hs : KeptHome P s) : KeptHome P (s.writeAt u pa bs) := hs.writeAll

theorem KeptHome.loseLine {line : Nat} (hs : KeptHome P s) : KeptHome P (s.loseLine line) := .ite hs.setL2 hs.setL2.updMem

theorem KeptHome.dropKey {k : Nat} (hs : KeptHome P s) : KeptHome P (s.dropKey k) :=
    .upd (.foldl (fun _ _ ht => .ite ht.updCore ht) (.foldl (fun _ _ ht => .ite ht.updCore ht) (.foldl (fun _ _ ht => ht.updDie) hs)))

theorem KeptHome.keyFails {k pa path : Nat} (hs : KeptHome P s) : KeptHome P (s.keyFails k pa path) :=
    .ite hs (.upd (.foldl (fun _ _ ht => ht.loseLine) hs.memoryRecord.note.setKey.dropKey))

theorem KeptHome.redFails {key pa path : Nat} {whos : List StreamId} (hs : KeptHome P s) : KeptHome P (s.redFails key pa path whos) :=
    .foldl (fun _ _ ht => ht.note) (.ite hs.keyFails hs)

theorem KeptHome.applyRed {x : RedElem} (hs : KeptHome P s) : KeptHome P (s.applyRed x) :=
    .ite hs.redFails (.foldl (fun _ _ ht => ht.dropCopy) hs.writeAt)

theorem KeptHome.flushRed {d : Nat} {p : RedLine → Bool} (hs : KeptHome P s) : KeptHome P (s.flushRed d p) :=
    .ite hs (.foldl (fun _ _ ht => .foldl (fun _ _ hu => hu.applyRed) ht) hs.updDie)

theorem KeptHome.flushAll (hs : KeptHome P s) : KeptHome P s.flushAll :=
    .foldl (fun _ _ ht => ht.flushThrough) (.foldl (fun _ _ ht => ht.flushRed) hs)

end

end Sys2Proof.Machine
end

section
/-! SUPPORT. The canonical form of memory and of the stacks' contents, and of what operations answer: the state that an answer
carries is in that form. -/

namespace Sys2Proof.Machine

/-- Memory and the stacks' contents are in canonical form. -/
def Formed (s : State) : Prop := s.memoryWf = true

theorem formed_iff {s : State} : Formed s ↔ Tab.wf s.mem (fun _ => 0) = true ∧ Tab.wf s.media (fun _ => 0) = true := by
  simp [Formed, State.memoryWf, Memory.wf]

/-- What writes neither memory nor the stacks keeps the form. -/
theorem Formed.upd {s : State} {sq : Squad} {wv : Wave} {st : Stream} {squads : List Squad} {cores : Tab Core} {dies : Tab Die} {bad : List
    Nat} {secKey : Tab Nat} {l2 : Tab L2Line} {tags mediaTags : Tab W16} {mediaBad : List Nat} {mediaKeys : Tab Nat} {owqWait : List (Waiter
    × List Nat)} {keyKills : List Nat} {cxl : Bool} {pkg : Nat} {snaps : Tab SnapSet} {mmio : Tab W64} {keys : Tab KeySlot} {faults : List
    OpenFault} {fixed : List (Nat × Nat)} {xlinvBusy : Bool} {xlinvHeld : List W64} {cmds : List Command} {nextCmd : Nat} {doneWords : List
    (Nat × W64)} {tileState : Tab (Bool × Bool)} {spent : List (Spend × Nat)} {frozen : List Nat} {records : List Consumption} {decisions :
    List (W32 × Nat)} {power : Power} {sched : Sched} {qps : Tab Qp} {hostOut : List HostOut} {hostLines : List Nat} {links : Tab LinkDir}
    {modules : Tab LinkModule} {fab : Fabric} {recovery : Option Recovery} {admin : Admin} {log : List LogEntry} {agenda : List Turn}
    {pending : List Due} {free : Nat} {upset : W64} {cycle gtbAcc lapLog lap : Nat} (h : Formed s) :
    Formed { s with
      sq, wv, st, squads, cores, dies, bad, secKey, l2, tags, mediaTags, mediaBad, mediaKeys, owqWait, keyKills, cxl, pkg, snaps,
      mmio, keys, faults, fixed, xlinvBusy, xlinvHeld, cmds, nextCmd, doneWords, tileState, spent, frozen, records, decisions,
      power, sched, qps, hostOut, hostLines, links, modules, fab, recovery, admin, log, agenda, pending, free, upset, cycle,
      gtbAcc, lapLog, lap } := h

/-- A row of writes to memory keeps the form. -/
theorem Formed.of_mem {s t : State} {ws : List (Nat × W8)} (h : Formed s) (hm : t.mem = Tab.putAll s.mem (fun _ => 0) ws)
    (hd : t.media = s.media) : Formed t := by
  obtain ⟨m, d⟩ := formed_iff.1 h
  exact formed_iff.2 ⟨hm ▸ Tab.wf_putAll ws m, hd ▸ d⟩

/-- A row of writes to the stacks keeps the form. -/
theorem Formed.of_media {s t : State} {ws : List (Nat × W8)} (h : Formed s) (hm : t.mem = s.mem)
    (hd : t.media = Tab.putAll s.media (fun _ => 0) ws) : Formed t := by
  obtain ⟨m, d⟩ := formed_iff.1 h
  exact formed_iff.2 ⟨hm ▸ m, hd ▸ Tab.wf_putAll ws d⟩

theorem Formed.of_put {s t : State} {pa : Nat} {v : W8} (h : Formed s) (hm : t.mem = s.mem.put0 pa v) (hd : t.media = s.media) :
    Formed t := h.of_mem (ws := [(pa, v)]) hm hd

theorem formed_homeClosed : HomeClosed Formed :=
  ⟨fun _ _ _ _ _ _ _ _ _ _ _ _ _ _ _ _ _ _ h => h, fun _ _ h => h.of_mem rfl rfl, fun _ _ h => h.of_media rfl rfl⟩

theorem Formed.home {s : State} (h : Formed s) : KeptHome Formed s := ⟨formed_homeClosed, h⟩

theorem Formed.ite {c : Prop} {_ : Decidable c} {s t : State} (h : Formed s) (g : Formed t) : Formed (if c then s else t) := by
  split
  · exact h
  · exact g

theorem Formed.foldl {α : Type} {f : State → α → State} {l : List α} {s : State} (hf : ∀ t a, Formed t → Formed (f t a)) (h : Formed s) :
    Formed (l.foldl f s) := by
  induction l generalizing s with
  | nil => exact h
  | cons a r ih => exact ih (hf s a h)

/-- Whatever state an outcome hands on is formed. -/
def FormedOut (o : Out) : Prop := ∀ t, o = .next t → Formed t

theorem FormedOut.next {s : State} (h : Formed s) : FormedOut (.next s) := fun _ e => by cases e; exact h
theorem FormedOut.fault {r : Fault} : FormedOut (.fault r) := fun _ e => nomatch e
theorem FormedOut.get {o : Out} {t : State} (e : o = .next t) (h : FormedOut o) : Formed t := h t e
theorem FormedOut.ite {c : Prop} {_ : Decidable c} {o p : Out} (h : FormedOut o) (g : FormedOut p) : FormedOut (if c then o else p) := by
  split
  · exact h
  · exact g

/-- Whatever state an optional result holds is formed. -/
def FormedOpt (o : Option State) : Prop := ∀ t, o = some t → Formed t

theorem FormedOpt.some {s : State} (h : Formed s) : FormedOpt (some s) := fun _ e => by cases e; exact h
theorem FormedOpt.none : FormedOpt none := fun _ e => nomatch e
theorem FormedOpt.get {o : Option State} {t : State} (e : o = .some t) (h : FormedOpt o) : Formed t := h t e
theorem FormedOpt.ite {c : Prop} {_ : Decidable c} {o p : Option State} (h : FormedOpt o) (g : FormedOpt p) :
    FormedOpt (if c then o else p) := by
  split
  · exact h
  · exact g

/-- The state of a result with a further value is formed. -/
def FormedFst {α : Type} (r : State × α) : Prop := Formed r.1

theorem FormedFst.mk {α : Type} {s : State} {a : α} (h : Formed s) : FormedFst (s, a) := h
theorem FormedFst.get {α : Type} {r : State × α} {t : State} {a : α} (e : r = (t, a)) (h : FormedFst r) : Formed t := by
  subst e
  exact h
theorem FormedFst.ite {α : Type} {c : Prop} {_ : Decidable c} {o p : State × α} (h : FormedFst o) (g : FormedFst p) :
    FormedFst (if c then o else p) := by
  split
  · exact h
  · exact g

def FormedSnd {α : Type} (r : α × State) : Prop := Formed r.2

theorem FormedSnd.mk {α : Type} {s : State} {a : α} (h : Formed s) : FormedSnd (a, s) := h
theorem FormedSnd.get {α : Type} {r : α × State} {t : State} {a : α} (e : r = (a, t)) (h : FormedSnd r) : Formed t := by
  subst e
  exact h
theorem FormedSnd.ite {α : Type} {c : Prop} {_ : Decidable c} {o p : α × State} (h : FormedSnd o) (g : FormedSnd p) :
    FormedSnd (if c then o else p) := by
  split
  · exact h
  · exact g

theorem FormedFst.foldl {α β : Type} {f : State × β → α → State × β} {l : List α} {r : State × β}
    (hf : ∀ t a, FormedFst t → FormedFst (f t a)) (h : FormedFst r) : FormedFst (l.foldl f r) := by
  induction l generalizing r with
  | nil => exact h
  | cons a l ih => exact ih (hf r a h)

theorem FormedOpt.foldl {α : Type} {f : Option State → α → Option State} {l : List α} {r : Option State}
    (hf : ∀ t a, FormedOpt t → FormedOpt (f t a)) (h : FormedOpt r) : FormedOpt (l.foldl f r) := by
  induction l generalizing r with
  | nil => exact h
  | cons a l ih => exact ih (hf r a h)

theorem FormedOpt.bind {o : Option State} {f : State → Option State} (h : FormedOpt o) (hf : ∀ t, Formed t → FormedOpt (f t)) :
    FormedOpt (o.bind f) := by
  cases o with
  | none => exact .none
  | some s => exact hf s (h s rfl)

theorem FormedOpt.map {α : Type} {o : Option α} {f : α → State} (hf : ∀ a, Formed (f a)) : FormedOpt (o.map f) := by
  cases o with
  | none => exact .none
  | some a => exact .some (hf a)

theorem FormedOpt.getD {o : Option State} {s : State} (h : FormedOpt o) (hs : Formed s) : Formed (o.getD s) := by
  cases o with
  | none => exact hs
  | some t => exact h t rfl

theorem FormedOpt.findSome {α : Type} {f : α → Option State} {l : List α} (hf : ∀ a, FormedOpt (f a)) : FormedOpt (l.findSome? f) :=
  fun t e => by
    obtain ⟨a, -, ea⟩ := List.exists_of_findSome?_eq_some e
    exact hf a t ea

/-! ### Answers that carry a state -/

/-- The state of an optional result with a further value is formed. -/
def FormedOptFst {α : Type} : Option (State × α) → Prop
  | none => True
  | some r => Formed r.1

theorem FormedOptFst.get {α : Type} {x y : Option (State × α)} (e : x = y) (h : FormedOptFst x) : FormedOptFst y := e ▸ h
theorem FormedOptFst.ite {α : Type} {c : Prop} {_ : Decidable c} {x y : Option (State × α)} (h : FormedOptFst x) (g : FormedOptFst y) :
    FormedOptFst (if c then x else y) := by
  split
  · exact h
  · exact g

/-- The same for results whose state stands last. -/
def FormedOptSnd {α : Type} : Option (α × State) → Prop
  | none => True
  | some r => Formed r.2

theorem FormedOptSnd.get {α : Type} {x y : Option (α × State)} (e : x = y) (h : FormedOptSnd x) : FormedOptSnd y := e ▸ h
theorem FormedOptSnd.ite {α : Type} {c : Prop} {_ : Decidable c} {x y : Option (α × State)} (h : FormedOptSnd x) (g : FormedOptSnd y) :
    FormedOptSnd (if c then x else y) := by
  split
  · exact h
  · exact g

/-- A wait on peers leaves a formed state. -/
def FormedAsk : WindowRead → Prop
  | .here => True
  | .waits s _ => Formed s

theorem FormedAsk.get {x y : WindowRead} (e : x = y) (h : FormedAsk x) : FormedAsk y := e ▸ h
theorem FormedAsk.ite {c : Prop} {_ : Decidable c} {x y : WindowRead} (h : FormedAsk x) (g : FormedAsk y) : FormedAsk (if c then x else y) := by
  split
  · exact h
  · exact g

/-- A control register's write leaves a formed state. -/
def FormedXWrite : XWrite → Prop
  | .prot _ => True
  | .ok s => Formed s

theorem FormedXWrite.get {x y : XWrite} (e : x = y) (h : FormedXWrite x) : FormedXWrite y := e ▸ h
theorem FormedXWrite.ite {c : Prop} {_ : Decidable c} {x y : XWrite} (h : FormedXWrite x) (g : FormedXWrite y) :
    FormedXWrite (if c then x else y) := by
  split
  · exact h
  · exact g

/-- A decided enqueue leaves a formed state. -/
def FormedEnq : EnqAns → Prop
  | .done _ s => Formed s
  | .full => True

theorem FormedEnq.get {x y : EnqAns} (e : x = y) (h : FormedEnq x) : FormedEnq y := e ▸ h
theorem FormedEnq.ite {c : Prop} {_ : Decidable c} {x y : EnqAns} (h : FormedEnq x) (g : FormedEnq y) : FormedEnq (if c then x else y) := by
  split
  · exact h
  · exact g

/-- Whatever acceptance comes to, its state is formed. -/
def FormedAccept : Accept → Prop
  | .waits _ s => Formed s
  | .asks s _ => Formed s
  | .full => True
  | .ends s _ => Formed s
  | .spoiled s => Formed s
  | .accepted s _ => Formed s

theorem FormedAccept.get {x y : Accept} (e : x = y) (h : FormedAccept x) : FormedAccept y := e ▸ h
theorem FormedAccept.ite {c : Prop} {_ : Decidable c} {x y : Accept} (h : FormedAccept x) (g : FormedAccept y) :
    FormedAccept (if c then x else y) := by
  split
  · exact h
  · exact g

/-- Whatever a packet comes to, its state is formed. -/
def FormedPerformed : Performed → Prop
  | .done s _ _ => Formed s
  | .held s => Formed s
  | .full s => Formed s

theorem FormedPerformed.get {x y : Performed} (e : x = y) (h : FormedPerformed x) : FormedPerformed y := e ▸ h
theorem FormedPerformed.ite {c : Prop} {_ : Decidable c} {x y : Performed} (h : FormedPerformed x) (g : FormedPerformed y) :
    FormedPerformed (if c then x else y) := by
  split
  · exact h
  · exact g

/-- Whatever a fetch comes to, its state is formed. -/
def FormedFetched : Fetched → Prop
  | .stop s => Formed s
  | .line s _ => Formed s

theorem FormedFetched.get {x y : Fetched} (e : x = y) (h : FormedFetched x) : FormedFetched y := e ▸ h
theorem FormedFetched.ite {c : Prop} {_ : Decidable c} {x y : Fetched} (h : FormedFetched x) (g : FormedFetched y) :
    FormedFetched (if c then x else y) := by
  split
  · exact h
  · exact g

/-- A check that refuses a command refuses it with a formed outcome. -/
def FormedCheck {α : Type} (c : Except (State → Out) α) : Prop := ∀ o, c = .error o → ∀ t, Formed t → FormedOut (o t)

theorem FormedCheck.ok {α : Type} {a : α} : FormedCheck (.ok a) := fun _ e => nomatch e
theorem FormedCheck.error {α : Type} {o : State → Out} (h : ∀ t, Formed t → FormedOut (o t)) : FormedCheck (.error o : Except _ α) :=
  fun _ e => by cases e; exact h
theorem FormedCheck.get {α : Type} {c : Except (State → Out) α} {o : State → Out} {t : State} (e : c = .error o) (h : FormedCheck c)
    (ht : Formed t) : FormedOut (o t) := h o e t ht
theorem FormedCheck.ite {α : Type} {c : Prop} {_ : Decidable c} {x y : Except (State → Out) α} (h : FormedCheck x) (g : FormedCheck y) :
    FormedCheck (if c then x else y) := by
  split
  · exact h
  · exact g

end Sys2Proof.Machine
end

section
/-! SUPPORT. State, registers, memory and translation keep the form (R10 to R37, R63 to R92, R117 to R119, R134, R140). -/

namespace Sys2Proof.Machine

variable {s : State}

/-! ### Registers, traps and waits (R239, R240, R363, R366) -/

theorem Formed.setCore {c : Nat} {v : Core} (hs : Formed s) : Formed (s.setCore c v) := hs.home.setCore.holds
theorem Formed.updCore {c : Nat} {f : Core → Core} (hs : Formed s) : Formed (s.updCore c f) := hs.home.updCore.holds
theorem Formed.updDie {d : Nat} {f : Die → Die} (hs : Formed s) : Formed (s.updDie d f) := hs.home.updDie.holds
theorem Formed.draw (hs : Formed s) : FormedSnd s.draw := .mk hs.upd
theorem Formed.due {e : Due} (hs : Formed s) : Formed (s.due e) := .ite hs hs.upd
theorem Formed.note {e : LogEntry} (hs : Formed s) : Formed (s.note e) := hs.home.note.holds

theorem Formed.flight {r : RegId} {mask : W64} {old : List W64} {lat : Nat} (hs : Formed s) : Formed (s.flight r mask old lat) :=
    .ite hs hs.upd

theorem Formed.writeS {n : Nat} {v : W64} {lat : Nat} (hs : Formed s) : Formed (s.writeS n v lat) := .ite hs hs.flight.upd
theorem Formed.trackAt {r : RegId} {land : Nat} (hs : Formed s) : Formed (s.trackAt r land) := hs.upd
theorem Formed.track {r : RegId} (hs : Formed s) : Formed (s.track r) := hs.trackAt
theorem Formed.writeTracked {n : Nat} {v : W64} {lat : Nat} (hs : Formed s) : Formed (s.writeTracked n v lat) := .ite hs hs.upd.trackAt
theorem Formed.writeM {n : Nat} {mask v : W64} {lat : Nat} (hs : Formed s) : Formed (s.writeM n mask v lat) := hs.flight.upd
theorem Formed.writeV {n : Nat} {mask : W64} {f : Nat → W32} {lat : Nat} (hs : Formed s) : Formed (s.writeV n mask f lat) := hs.flight.upd

theorem Formed.writeVTracked {n : Nat} {mask : W64} {f : Nat → W32} {lat : Nat} (hs : Formed s) : Formed (s.writeVTracked n mask f lat) :=
    hs.upd.trackAt

theorem Formed.untrack {rs : List RegId} (hs : Formed s) : Formed (s.untrack rs) := hs.upd
theorem Formed.orFlags {f : BitVec 6} (hs : Formed s) : Formed (s.orFlags f) := hs.upd
theorem Formed.retireTo {h : Head} {pc : W64} {cost : Nat} (hs : Formed s) : Formed (s.retireTo h pc cost) := hs.upd
theorem Formed.retire {h : Head} {cost : Nat} (hs : Formed s) : Formed (s.retire h cost) := hs.retireTo
theorem Formed.hold {w : Wait} (hs : Formed s) : Formed (s.hold w) := hs.upd
theorem Formed.pin (hs : Formed s) : Formed s.pin := hs.upd
theorem Formed.doubleFault {a : TrapArgs} {async : Bool} (hs : Formed s) : Formed (s.doubleFault a async) := hs.upd
theorem Formed.enterHandler {a : TrapArgs} {async : Bool} (hs : Formed s) : Formed (s.enterHandler a async) := hs.upd
theorem Formed.trap {a : TrapArgs} (hs : Formed s) : Formed (s.trap a) := .ite hs.doubleFault hs.enterHandler
theorem Formed.enterPending (hs : Formed s) : Formed s.enterPending := hs.upd.enterHandler

theorem Formed.trapAt {code : Nat} {addr mask info0 info1 info2 : W64} (hs : Formed s) :
    FormedOut (trapAt s code addr mask info0 info1 info2) := .next hs.trap

theorem Formed.illop {info1 : W64} (hs : Formed s) : FormedOut (illop s info1) := hs.trapAt
theorem Formed.prot {reason : Nat} {addr mask : W64} (hs : Formed s) : FormedOut (prot s reason addr mask) := hs.trapAt
theorem Formed.misalign {addr mask : W64} (hs : Formed s) : FormedOut (misalign s addr mask) := hs.trapAt
theorem Formed.returnFromTrap (hs : Formed s) : Formed s.returnFromTrap := hs.upd
theorem Formed.markOverdue (hs : Formed s) : Formed s.markOverdue := .ite hs.upd hs
theorem Formed.consume {kind : ConsKind} {addr mask info : W64} (hs : Formed s) : Formed (s.consume kind addr mask info) := hs.upd

/-! ### Checks and results (R239 to R241, R374) -/

theorem Formed.holdFor {es : List (RegId × Nat × Nat)} (hs : Formed s) : Formed (s.holdFor es) := hs.hold.upd

theorem Formed.checked {n : Named} {k : State → Out} (hs : Formed s) (hk : ∀ t, Formed t → FormedOut (k t)) :
    FormedOut (checked n s k) := by
  unfold Machine.checked
  refine .ite hs.trapAt ?_
  split
  · exact hs.trapAt
  · exact .ite (.next hs.hold) (.ite (.next hs.holdFor) (hk _ hs.untrack))

theorem Formed.guarded {n : Named} {k : State → Out} (hs : Formed s) (hk : ∀ t, Formed t → FormedOut (k t)) : FormedOut (guarded n s k) :=
    hs.checked fun _ ht => .ite (.next hs.consume) (hk _ ht)

theorem Formed.setLfsr {l : Nat} {x : W32} (hs : Formed s) : Formed (s.setLfsr l x) := hs.upd
theorem Formed.setFmt {v : W64} (hs : Formed s) : Formed (s.setFmt v) := .foldl (fun _ _ ht => .ite ht.setLfsr ht) hs.upd

theorem Formed.advance {mode : Nat} {act : W64} {n : Nat} (hs : Formed s) : Formed (s.advance mode act n) :=
    .ite (.foldl (fun _ _ ht => .ite ht.setLfsr ht) hs) hs

theorem Formed.vecResult {r : VRule} {f : VF} {res : Nat → LaneRes} (hs : Formed s) : Formed (s.vecResult r f res) :=
    .retire (.orFlags (.ite hs.writeV.writeV hs.writeV))

theorem Formed.maskResult {r : VRule} {f : VF} {bits : W64} {flags : Flags} (hs : Formed s) : Formed (s.maskResult r f bits flags) :=
    hs.writeM.orFlags.retire

theorem Formed.runVec {r : VRule} {f : VF} {res : State → W64 → Nat → LaneRes} (hs : Formed s) : FormedOut (runVec r f s res) :=
    hs.guarded fun _ ht => .next ht.vecResult

/-! ### Memory, caches and the OWQs (R15 to R92, R117 to R119, R134, R140) -/

theorem Formed.setReg {pa : Nat} {v : W64} (hs : Formed s) : Formed (s.setReg pa v) := hs.upd
theorem Formed.drop {pa : Nat} (hs : Formed s) : Formed (s.drop pa) := hs.note
theorem Formed.ignore {pa : Nat} (hs : Formed s) : Formed (s.ignore pa) := hs.note

theorem Formed.supervised {sup : Bool} {pa : Nat} {k : State → State} (hs : Formed s) (hk : ∀ t, Formed t → Formed (k t)) :
    FormedOut (supervised sup pa s k) := .next (.ite (hk _ hs) hs.drop)

theorem Formed.setKey {k : Nat} {v : KeySlot} (hs : Formed s) : Formed (s.setKey k v) := hs.home.setKey.holds
theorem Formed.setL2 {line : Nat} {v : L2Line} (hs : Formed s) : Formed (s.setL2 line v) := hs.home.setL2.holds
theorem Formed.store {pa : Nat} {bs : List W8} (hs : Formed s) : Formed (s.store pa bs) := .of_media hs rfl rfl
theorem Formed.metaWriteBack {l : MetaLine} (hs : Formed s) : Formed (s.metaWriteBack l) := hs.home.metaWriteBack.holds

theorem Formed.metaFlush (hs : Formed s) : Formed s.metaFlush :=
    .foldl (fun _ _ ht => .updDie (.foldl (fun _ _ hu => hu.metaWriteBack) ht)) hs

theorem Formed.poison {secs : List Nat} (hs : Formed s) : Formed (s.poison secs) := hs.home.poison.holds
theorem Formed.memoryRecord {cause pa key path : Nat} (hs : Formed s) : Formed (s.memoryRecord cause pa key path) :=
  hs.home.memoryRecord.holds

theorem Formed.drainOldest {d : Nat} {mediaError : Bool} (hs : Formed s) : Formed (s.drainOldest d mediaError) := hs.home.drainOldest.holds

theorem Formed.accept {d line : Nat} {bytes : List W8} {mask : BitVec 128} {tag : W16} {bad : List Nat} (hs : Formed s) :
    Formed (s.accept d line bytes mask tag bad) := hs.home.accept.holds

theorem Formed.acceptLine {d line : Nat} (hs : Formed s) : Formed (s.acceptLine d line) := hs.home.acceptLine.holds

theorem Formed.cleanL2 {line : Nat} (hs : Formed s) : Formed (s.cleanL2 line) := hs.home.cleanL2.holds

theorem Formed.writeBack {line : Nat} (hs : Formed s) : Formed (s.writeBack line) := hs.home.writeBack.holds

theorem Formed.invalidateL1 {line : Nat} {but : Option Nat} (hs : Formed s) : Formed (s.invalidateL1 line but) := hs.home.invalidateL1.holds

theorem Formed.evictOut {line : Nat} (hs : Formed s) : Formed (s.evictOut line) := hs.home.evictOut.holds

theorem Formed.l2Use {line key cp : Nat} {c p lru : Bool} (hs : Formed s) : Formed (s.l2Use line key cp c p lru) := hs.home.l2Use.holds

theorem Formed.touch {key cp : Nat} {c p : Bool} {lines : List Nat} (hs : Formed s) : Formed (s.touch key cp c p lines) :=
    .foldl (fun _ _ ht => ht.l2Use) hs

theorem Formed.setSnap {q : Nat} {v : SnapSet} (hs : Formed s) : Formed (s.setSnap q v) := hs.home.setSnap.holds

theorem Formed.snapPut {pa : Nat} {bs : List W8} {bad : List Nat} (hs : Formed s) : Formed (s.snapPut pa bs bad) := hs.home.snapPut.holds
theorem Formed.capture {q d j : Nat} (hs : Formed s) : Formed (s.capture q d j) := hs.home.capture.holds

theorem Formed.keepL1 {core : Nat} {last : Bool} {c : CacheLine} (hs : Formed s) : Formed (s.keepL1 core last c) := hs.updCore
theorem Formed.dropL1 {core line : Nat} (hs : Formed s) : Formed (s.dropL1 core line) := .ite hs.updCore hs

theorem Formed.fillLine {core key cp : Nat} {l1 c p : Bool} {pa : Nat} {last : Bool} (hs : Formed s) :
    Formed (s.fillLine core key cp l1 c p pa last) := by
  unfold State.fillLine
  extract_lets _ _ keep s'
  have hkeep : ∀ t x', Formed t → Formed (keep t x') := fun _ _ ht => .ite ht.keepL1 ht
  have hs' : Formed s' := .ite hs.dropL1 hs
  split
  · exact .ite hs.keepL1 hs
  · refine .ite hs.l2Use ?_
    refine .ite ?_ (.ite (hkeep _ _ hs.l2Use) hs)
    split
    · exact hkeep _ _ hs'.updDie
    · exact hkeep _ _ hs'.l2Use.updDie

theorem Formed.selfInvalidate {core : Nat} (hs : Formed s) : Formed (s.selfInvalidate core) :=
    .foldl (fun _ _ ht => .ite ht.updCore ht) (.ite hs hs.updDie)

theorem Formed.dropCopy {core pa : Nat} (hs : Formed s) : Formed (s.dropCopy core pa) := hs.home.dropCopy.holds

theorem Formed.writeAll {u : Under} {ws : List (Nat × W8)} {hurt : List Nat} (hs : Formed s) : Formed (s.writeAll u ws hurt) :=
  hs.home.writeAll.holds

theorem Formed.landThrough {core : Nat} {w : WriteThrough} (hs : Formed s) : Formed (s.landThrough core w) := hs.home.landThrough.holds

theorem Formed.flushThrough {core : Nat} {p : WriteThrough → Bool} (hs : Formed s) : Formed (s.flushThrough core p) :=
  hs.home.flushThrough.holds

theorem Formed.heal {core : Nat} {secs : List Nat} (hs : Formed s) : Formed (s.heal core secs) :=
    .ite (.updCore (.ite (.updDie (.ite hs hs.upd)) (.ite hs hs.upd))) (.ite (.updDie (.ite hs hs.upd)) (.ite hs hs.upd))

theorem Formed.writeAt {u : Under} {pa : Nat} {bs : List W8} (hs : Formed s) : Formed (s.writeAt u pa bs) := hs.home.writeAt.holds

/-! ### Translation (R21 to R37) -/

theorem Formed.keepTlb {es : List TlbEntry} (hs : Formed s) : Formed (s.keepTlb es) := .ite hs hs.updCore

theorem Formed.miss {d p va : Nat} {a : Acc} {path : Nat} {who : W32} (hs : Formed s) : Formed (s.miss d p va a path who) :=
    .ite hs hs.updDie.due

theorem Formed.writeLeaf {at_ : Nat} {old new : W64} (hs : Formed s) : Formed (s.writeLeaf at_ old new) := .ite hs hs.writeAt

theorem Formed.park {need : List LaneVa} {a : Acc} {fetch : Bool} {kinds : List PageKind} (hs : Formed s) :
    Formed (s.park need a fetch kinds) := .upd (.hold (.foldl (fun _ _ ht => ht.miss) hs))

theorem Formed.setLink {k : Nat} {d : LinkDir} (hs : Formed s) : Formed (s.setLink k d) := hs.upd
theorem Formed.setMod {m : Nat} {x : LinkModule} (hs : Formed s) : Formed (s.setMod m x) := hs.upd

theorem Formed.request {lines : List Nat} (hs : Formed s) : Formed (s.request lines) := by
  unfold State.request
  refine .foldl (fun t a ht => ?_) ?_
  · split
    · exact ht
    · exact .ite ht ht.setLink
  · exact hs

theorem Formed.dropGrants {who : StreamId} (hs : Formed s) : Formed (s.dropGrants who) := .ite (.foldl (fun _ _ ht => ht.setLink) hs) hs

theorem Formed.withLanes {ls : List LaneVa} {align : Nat} {a : Acc} {serves : PageKind → Bool}
    {k : State → List (Nat × Nat × TlbEntry) → Out} (hs : Formed s) (hk : ∀ t y, Formed t → FormedOut (k t y)) : FormedOut
    (withLanes s ls align a serves k) := by
  unfold Machine.withLanes
  split
  · exact hs.upd.trapAt
  · exact .next hs.park
  · split
    · exact hk _ _ hs.upd.keepTlb
    · exact .next hs.request.hold

end Sys2Proof.Machine
end

section
/-! SUPPORT. What the instructions of a core share keeps the form: streams, control, accesses, atomics and fences (R120 to R130,
R164 to R169, R252 to R319). -/

namespace Sys2Proof.Machine

variable {s : State}

/-! ### Streams and waves (R164 to R168) -/

theorem Formed.focusIn {l : List Squad} {who : StreamId} (hs : Formed s) : Formed (s.focusIn l who) := by
  unfold State.focusIn
  extract_lets _ bare
  have hbare : Formed bare := hs.upd
  split
  · exact hbare
  · split
    · exact hbare
    · split
      · exact hbare
      · exact hs.upd

theorem Formed.focus {who : StreamId} (hs : Formed s) : Formed (s.focus who) := .ite hs hs.focusIn
theorem Formed.mapSquads {f : Squad → Squad} (hs : Formed s) : Formed (s.mapSquads f) := hs.focusIn
theorem Formed.mapStreams {f : Squad → Wave → Stream → Stream} (hs : Formed s) : Formed (s.mapStreams f) := hs.mapSquads

theorem Formed.at {who : StreamId} {f : State → State} (hs : Formed s) (hf : ∀ t, Formed t → Formed (f t)) : Formed (s.at who f) :=
    .ite (.focusIn (hf _ hs.focus)) hs

theorem Formed.exchange {e : Resident} (hs : Formed s) : Formed (s.exchange e) := hs.mapStreams
theorem Formed.noteLate {x : Stream} (hs : Formed s) : Formed (s.noteLate x) := .ite hs.note hs

theorem Formed.endWave (hs : Formed s) : Formed s.endWave := by
  unfold State.endWave
  extract_lets s1 _ s2 _ _ _ s3 _ s4
  have hs1 : Formed s1 := .foldl (fun _ _ ht => ht.noteLate) hs
  have hs2 : Formed s2 := hs1.updCore
  have hs3 : Formed s3 := hs2.upd
  have hs4 : Formed s4 := .ite hs3.upd hs3
  exact .ite hs4.due hs4

theorem Formed.arrive (hs : Formed s) : Formed s.arrive := by
  unfold State.arrive
  extract_lets _ s1
  have hs1 : Formed s1 := hs.noteLate
  split
  · exact hs1
  · exact .ite hs1.upd.endWave hs1.upd

theorem Formed.endStream (hs : Formed s) : Formed s.endStream := .ite hs.noteLate.endWave hs.noteLate.upd

theorem Formed.drain {x : Nat} (hs : Formed s) : Formed (s.drain x) := by
  induction x generalizing s with
  | zero =>
    unfold State.drain
    exact hs
  | succ n ih =>
    unfold State.drain
    extract_lets
    split
    · exact .ite hs.endStream hs.arrive
    · exact .ite (.ite (ih hs.upd) hs.upd) (.ite hs.upd (.ite (ih hs.upd) hs.upd))

theorem Formed.drained (hs : Formed s) : Formed s.drained := hs.drain
theorem Formed.addFragment {x : Stream} (hs : Formed s) : Formed (s.addFragment x) := hs.upd

theorem Formed.detachSelf {s t : State} (_hs : Formed s) (ht : Formed t) : Formed (s.detachSelf t) := by
  unfold State.detachSelf
  extract_lets
  split
  · exact .ite ht ht.upd.addFragment
  · exact ht

/-! ### Transfers and control registers (R252 to R264) -/

theorem Formed.badland {t i0 i1 i2 : W64} (hs : Formed s) : FormedOut (badland s t i0 i1 i2) := hs.upd.trapAt

theorem Formed.transfer {t : W64} {k : State → State} (hs : Formed s) (hk : ∀ u, Formed u → Formed (k u)) : FormedOut (transfer s t k) := by
  unfold Machine.transfer
  extract_lets src s2
  have hsrc : Formed src := hk _ hs
  have hs2 : Formed s2 := hsrc.upd
  split
  · exact hs.badland
  · exact hs.badland
  · exact .next hs.park
  · exact .next hsrc.upd
  · exact .next hs2.trap

theorem Formed.jump {h : Head} {pc : W64} {cost : Nat} (hs : Formed s) : Formed (s.jump h pc cost) := hs.retireTo
theorem Formed.stackovf (hs : Formed s) : FormedOut (stackovf s) := hs.trapAt

theorem Formed.diverge {f : BF} {t : W64} (hs : Formed s) : FormedOut (s.diverge f t) := by
  unfold State.diverge
  extract_lets _ _ _ _ _ _ _ _ _ _ s1 _ s1'
  have hs1 : Formed s1 := hs.jump
  have hs1' : Formed s1' := hs.jump
  split
  · exact .ite hs.stackovf (.next hs1.upd.addFragment)
  · exact .ite hs.stackovf (.next hs1'.upd)

theorem Formed.execBrv {f : BF} (hs : Formed s) : FormedOut (execBrv f s) := by
  unfold Machine.execBrv
  refine Formed.checked hs fun t ht => ?_
  extract_lets
  refine .ite (.next ht.retire) ?_
  refine .ite (ht.transfer (fun _ hu => hu.jump)) ?_
  split
  · exact ht.upd.diverge
  · split
    · rename_i e
      exact .ite (.next (.trap (ht.upd.diverge.get e))) (.next (ht.upd.diverge.get e))
    · exact ht.upd.diverge
  · exact ht.transfer fun _ hu => hu

theorem Formed.execJmpv {f : BF} (hs : Formed s) : FormedOut (execJmpv f s) := by
  unfold Machine.execJmpv
  refine Formed.checked hs fun t ht => ?_
  extract_lets _ _ _ _ _ _ s'
  have hs' : Formed s' := ht.upd
  refine .ite (.next ht.park) ?_
  split
  · exact hs'.trapAt
  · split
    · exact .next hs'.retire
    · exact .next hs'.jump
    · exact .ite hs'.stackovf (.next (.foldl (fun _ _ hu => hu.addFragment) hs'.jump.upd))

theorem Formed.execRjoin {f : BF} (hs : Formed s) : FormedOut (execRjoin f s) := by
  unfold Machine.execRjoin
  refine Formed.checked hs fun t ht => ?_
  extract_lets s1
  have hs1 : Formed s1 := ht.retire
  split
  · exact .ite (.next ht.arrive) (.next ht.retire)
  · exact .ite (.next ht.retire) (.ite (.next ht.jump.upd) (.ite (.next ht.hold) (.next (.ite hs1.upd.drained hs1.upd))))

theorem Formed.execDetach {f : BF} (hs : Formed s) : FormedOut (execDetach f s) := by
  unfold Machine.execDetach
  refine Formed.checked hs fun t ht => ?_
  extract_lets s1
  have hs1 : Formed s1 := ht.writeS.retire
  split
  · exact .ite (.next hs1.upd.addFragment) (.next ht.writeS.retire)
  · exact .next ht.writeS.retire

theorem Formed.exitLanes (hs : Formed s) : Formed s.exitLanes := .ite (.ite hs.upd.markOverdue hs.upd) hs.upd

theorem Formed.execYield {f : BF} (hs : Formed s) : FormedOut (execYield f s) := by
  unfold Machine.execYield
  refine Formed.checked hs fun t ht => ?_
  extract_lets t' t''
  have ht' : Formed t' := ht.retire
  have ht'' : Formed t'' := .ite (ht.detachSelf ht') ht'
  refine .next ?_
  split
  · exact ht''
  · exact ht''.exchange

theorem Formed.execNap {f : BF} (hs : Formed s) : FormedOut (execNap f s) :=
    hs.checked fun _ ht => .next (.ite (ht.detachSelf (.ite ht.retire ht.retire.hold)) (.ite ht.retire ht.retire.hold))

/-! ### Time, traps and service calls (R265 to R268, R364) -/

theorem Formed.writeX {n : Nat} {operand new : W64} (hs : Formed s) : FormedXWrite (s.writeX n operand new) := by
  unfold State.writeX
  extract_lets _ inHandler
  have hinHandler : ∀ t, Formed t → FormedXWrite (inHandler t) := fun _ ht => .ite ht trivial
  split
  · exact hs.setFmt
  · exact hs.upd
  · exact .ite trivial (hinHandler _ hs.upd)
  · exact hinHandler _ hs.upd
  · exact hinHandler _ hs.upd
  · exact .ite hs.upd trivial
  · exact hs.upd
  · exact hs.upd
  · exact .ite hs.upd trivial
  · exact trivial

theorem Formed.runX {f : QF} {g : W64 → W64 → W64} (hs : Formed s) : FormedOut (runX f s g) := by
  unfold Machine.runX
  refine Formed.checked hs fun t ht => ?_
  extract_lets
  split
  · exact ht.prot
  · rename_i e
    exact .next (.retire (.writeTracked (ht.writeX.get e)))

theorem Formed.afterOvertime (hs : Formed s) : Formed s.afterOvertime := .ite (.ite hs.upd.trap hs.upd) hs.upd

theorem Formed.execRte {f : QF} (hs : Formed s) : FormedOut (execRte f s) := by
  unfold Machine.execRte
  refine Formed.checked hs fun t ht => ?_
  extract_lets _ _ s1 _ s2
  have hs1 : Formed s1 := ht.returnFromTrap
  have hs2 : Formed s2 := hs1.upd
  refine .ite ht.prot ?_
  exact .next (.ite (.drained (.ite hs2.markOverdue hs2)) (.ite (.ite hs2.markOverdue.enterPending hs2.afterOvertime)
    (.ite hs2.enterPending hs2)))

/-! ### Peer windows (R17, R118) -/

theorem Formed.spend {a : Spend} {n : Nat} (hs : Formed s) : Formed (s.spend a n) := .ite hs hs.upd

theorem Formed.allot {a : Spend} {total x x' : Nat} (hs : Formed s) : FormedFst (s.allot a total x x') := by
  induction x generalizing s x' with
  | zero =>
    unfold State.allot
    exact .mk hs
  | succ n ih =>
    unfold State.allot
    exact .ite (.mk hs) (ih hs.spend)

theorem Formed.bump {section_ bin : Nat} (hs : Formed s) : Formed (s.bump section_ bin) := hs.upd
theorem Formed.countPort {port i : Nat} (hs : Formed s) : Formed (s.countPort port i) := hs.setReg
theorem Formed.countTrim {port cls : Nat} (hs : Formed s) : Formed (s.countTrim port cls) := hs.countPort.bump
theorem Formed.enqueueAt {port : Nat} {k : PacketKind} {p : Packet} (hs : Formed s) : Formed (s.enqueueAt port k p) := hs.upd

theorem Formed.emitAt {port : Nat} {k : PacketKind} {p : Packet} (hs : Formed s) : Formed (s.emitAt port k p) :=
    .ite hs.countTrim.enqueueAt hs.enqueueAt

theorem Formed.emit {k : PacketKind} {p : Packet} (hs : Formed s) : Formed (s.emit k p) := hs.emitAt
theorem Formed.departs {e : PortEntry} (hs : Formed s) : Formed (s.departs e) := hs.upd

theorem Formed.portSend {port : Nat} (hs : Formed s) : Formed (s.portSend port) := by
  unfold State.portSend
  extract_lets
  split
  · exact hs.departs.upd
  · split
    · exact hs
    · split
      · exact hs
      · exact hs.departs.upd

theorem Formed.portCredit {port n : Nat} (hs : Formed s) : Formed (s.portCredit port n) := hs.upd
theorem Formed.sendHeader {k : PacketKind} {p : Packet} (hs : Formed s) : Formed (s.sendHeader k p) := hs.emit
theorem Formed.putTx {t : TxFlow} (hs : Formed s) : Formed (s.putTx t) := hs.upd
theorem Formed.sendData {k : PacketKind} {p : Packet} (hs : Formed s) : Formed (s.sendData k p) := hs.putTx.emit
theorem Formed.windowPump (hs : Formed s) : Formed s.windowPump := .foldl (fun _ _ ht => .ite ht.sendData.spend ht.upd) hs.upd

theorem Formed.windowSend {k : PacketKind} {who : StreamId} {cmd : Option Nat} {part pa n aux : Nat} {payload : List W8} (hs : Formed s) :
    Formed (s.windowSend k who cmd part pa n aux payload) := by
  unfold State.windowSend
  split
  · exact hs
  · exact hs.upd.windowPump

theorem Formed.windowFree {pa n : Nat} (hs : Formed s) : Formed (s.windowFree pa n) := .foldl (fun _ _ ht => .of_put ht.draw rfl rfl) hs

theorem Formed.windowAsk {who : StreamId} {part pa n : Nat} (hs : Formed s) : FormedFst (s.windowAsk who part pa n) := by
  unfold State.windowAsk
  split
  · rename_i e
    exact .ite (.mk hs.windowFree) (.mk hs.windowSend)
  · exact .mk hs

theorem Formed.windowRead {who : StreamId} {part : Nat} {rs : List (Nat × Nat)} {asked : List Asked} (hs : Formed s) :
    FormedAsk (s.windowRead who part rs asked) := by
  unfold State.windowRead
  split
  · exact .ite hs trivial
  · exact FormedFst.foldl (fun _ _ ht => .mk (Formed.windowAsk ht)) (.mk hs)

theorem Formed.windowStore {who : StreamId} {cmd : Option Nat} {part : Nat} {ws : List (Nat × W8)} {hurt : List Nat} (hs : Formed s) :
    Formed (s.windowStore who cmd part ws hurt) :=
    FormedFst.foldl (fun _ _ ht => .mk (.ite ht (.windowSend ht))) (.mk hs)

theorem Formed.writeOut {u : Under} {who : StreamId} {cmd : Option Nat} {part : Nat} {ws : List (Nat × W8)} {hurt : List Nat}
    (hs : Formed s) : Formed (s.writeOut u who cmd part ws hurt) :=
    .ite hs.windowStore hs.writeAll

/-! ### Accesses (R296 to R303) -/

theorem Formed.updImage {sid : Nat} {f : Image → Image} (hs : Formed s) : Formed (s.updImage sid f) := hs.mapSquads

theorem Formed.spWrite {t : Sp} {ws : List (Nat × W8)} (hs : Formed s) : Formed (s.spWrite t ws) := by
  unfold State.spWrite
  split
  · exact hs.updCore
  · exact hs.updImage

theorem Formed.spPoison {t : Sp} {offs : List Nat} (hs : Formed s) : Formed (s.spPoison t offs) := by
  unfold State.spPoison
  split
  · exact hs.updCore
  · exact hs.updImage

theorem Formed.spWriteAt {t : Sp} {off : Nat} {bs : List W8} (hs : Formed s) : Formed (s.spWriteAt t off bs) := hs.spWrite

theorem Formed.withPlaces {space : Space} {ls : List LaneVa} {align : Nat} {a : Acc} {serves : PageKind → Bool}
    {k : State → List LaneLoc → Out} (hs : Formed s) (hk : ∀ t y, Formed t → FormedOut (k t y)) : FormedOut
    (withPlaces s space ls align a serves k) := by
  unfold Machine.withPlaces
  split
  · exact hs.withLanes fun _ _ ht => hk _ _ ht
  · exact hs.withLanes fun _ _ ht => hk _ _ ht
  · extract_lets
    split
    · exact hs.trapAt
    · exact hk _ _ hs
  · extract_lets
    split
    · exact hs.trapAt
    · exact hk _ _ hs

theorem Formed.dropKey {k : Nat} (hs : Formed s) : Formed (s.dropKey k) := hs.home.dropKey.holds

theorem Formed.keyFails {k pa path : Nat} (hs : Formed s) : Formed (s.keyFails k pa path) := hs.home.keyFails.holds

theorem Formed.redFails {key pa path : Nat} {whos : List StreamId} (hs : Formed s) : Formed (s.redFails key pa path whos) :=
  hs.home.redFails.holds

theorem Formed.flushRed {d : Nat} {p : RedLine → Bool} (hs : Formed s) : Formed (s.flushRed d p) := hs.home.flushRed.holds

theorem Formed.flushFor {pas : List Nat} (hs : Formed s) : Formed (s.flushFor pas) := hs.flushRed
theorem Formed.landFor {pas : List Nat} (hs : Formed s) : Formed (s.landFor pas) := hs.flushThrough
theorem Formed.flushMine (hs : Formed s) : Formed s.flushMine := hs.flushRed.flushThrough

theorem Formed.flushAll (hs : Formed s) : Formed s.flushAll := hs.home.flushAll.holds

/-- The places of an access in turn. -/
theorem Formed.foldl_places {f : State → Nat → TlbEntry → State} {xs : List LaneLoc} (hs : Formed s)
    (hf : ∀ t pa e, Formed t → Formed (f t pa e)) :
    Formed (xs.foldl (fun s x => match x.loc with
      | .mem pa e => f s pa e
      | _ => s) s) := by
  refine .foldl (fun t a ht => ?_) hs
  split
  · exact hf _ _ _ ht
  · exact ht

theorem Formed.afterLoad {past : Past} {l1 : Bool} {xs : List LaneLoc} (hs : Formed s) : Formed (s.afterLoad past l1 xs) := by
  cases past with
  | nothing => exact hs.foldl_places fun _ _ _ ht => ht.fillLine
  | l1 => exact hs.foldl_places fun _ _ _ ht => .fillLine (.ite ht.updCore ht)
  | all => exact .selfInvalidate (hs.foldl_places fun _ _ _ ht => ht.l2Use)

theorem Formed.withWindow {xs : List LaneLoc} {n : Nat} {o : Order} {k : State → Out} (hs : Formed s)
    (hk : ∀ t, Formed t → FormedOut (k t)) : FormedOut (withWindow s xs n o k) := by
  unfold Machine.withWindow
  refine .ite (.next hs.hold) ?_
  split
  · rename_i e
    exact .next (.hold (.upd (hs.windowRead.get e)))
  · exact hk _ (.ite hs hs.upd)

theorem Formed.broken {hits : List (Nat × LaneLoc)} (hs : Formed s) : Formed (s.broken hits) :=
    .consume (.foldl (fun _ _ ht => ht.keyFails) hs)

theorem Formed.withData {xs : List LaneLoc} {n : Nat} {o : Order} {sc : Scope} {l1 : Bool} {k : State → (Nat → List W8) → Out}
    (hs : Formed s) (hk : ∀ t y, Formed t → FormedOut (k t y)) : FormedOut (withData s xs n o sc l1 k) := by
  unfold Machine.withData
  refine Formed.withWindow hs fun t ht => ?_
  extract_lets _ s' s'' bad
  have hs' : Formed s' := .flushFor (.ite ht.flushMine ht)
  have hs'' : Formed s'' := hs'.landFor
  split
  · exact .next hs''.consume
  · exact .next hs''.broken
  · exact hk _ _ hs''.afterLoad

theorem Formed.storeLanes {xs : List LaneLoc} {data : Nat → List W8} (hs : Formed s) : Formed (s.storeLanes xs data) := by
  unfold State.storeLanes
  extract_lets _ _ _ s0 s1 _ s2
  have hs0 : Formed s0 := .ite hs hs.heal
  have hs1 : Formed s1 := .foldl (fun _ _ ht => ht.writeOut) hs0
  have hs2 : Formed s2 := .ite hs1 hs1.updCore
  exact .foldl (fun _ _ ht => ht.spWrite) hs2

theorem Formed.releasing {o : Order} {k : State → Out} (hs : Formed s) (hk : ∀ t, Formed t → FormedOut (k t)) :
    FormedOut (releasing s o k) := .ite (.ite (.next hs.hold) (hk _ hs.flushMine)) (hk _ hs)

theorem Formed.performStore {xs : List LaneLoc} {n : Nat} {o : Order} {data : Nat → List W8} {k : State → Out} (hs : Formed s)
    (hk : ∀ t, Formed t → FormedOut (k t)) : FormedOut (performStore s xs n o data k) := by
  unfold Machine.performStore
  refine Formed.releasing hs fun t ht => ?_
  extract_lets _ s'
  have hs' : Formed s' := ht.flushFor.landFor
  split
  · exact .next hs'.broken
  · exact hk _ (.storeLanes (.ite hs'.pin hs'))

/-! ### Loads and stores -/

theorem Formed.withOne {space : Space} {a : W64} {align : Nat} {acc : Acc} {serves : PageKind → Bool} {k : State → List LaneLoc → Out}
    (hs : Formed s) (hk : ∀ t y, Formed t → FormedOut (k t y)) : FormedOut (withOne s space a align acc serves k) :=
    hs.withPlaces fun _ _ ht => hk _ _ ht

theorem Formed.loadVec {h : Head} {d count : Nat} {val : Nat → Nat → W32} (hs : Formed s) : Formed (s.loadVec h d count val) :=
    .foldl (fun _ _ hu => hu.writeV.track) hs

theorem Formed.runVld {r : MRule} {sp : Space} {f : MF} {addr : State → Nat → W64} (hs : Formed s) : FormedOut (runVld r sp f s addr) :=
    hs.guarded fun _ ht => ht.withPlaces (fun _ _ hu => hu.withData (fun _ _ hv => .next hv.loadVec.retire))

theorem Formed.runSld {r : MRule} {sp : Space} {f : MF} (hs : Formed s) : FormedOut (runSld r sp f s) := by
  unfold Machine.runSld
  extract_lets put
  have hput : ∀ t v', Formed t → FormedOut (put t v') := fun _ _ ht => .next ht.writeS.track.retire
  exact hs.guarded fun _ ht => ht.withOne (fun _ _ hu => .ite (hput _ _ hu.draw) (hu.withData (fun _ _ hv => hput _ _ hv)))

theorem Formed.runVst {r : MRule} {sp : Space} {f : MF} {addr : State → Nat → W64} (hs : Formed s) : FormedOut (runVst r sp f s addr) :=
    hs.guarded fun _ ht => ht.withPlaces (fun _ _ hu => hu.performStore (fun _ hv => .next hv.retire))

theorem Formed.execSst {f : MF} (hs : Formed s) : FormedOut (execSst f s) :=
    hs.guarded fun _ ht => ht.withOne (fun _ _ hu => .ite (.next (.retire (.drop (.ite hu.pin hu))))
      (hu.performStore (fun _ hv => .next hv.retire)))

theorem Formed.prefetchEntry {va : Nat} (hs : Formed s) : FormedOptSnd (s.prefetchEntry va) := by
  unfold State.prefetchEntry
  extract_lets
  split
  · exact hs.keepTlb
  · split
    · exact trivial
    · exact hs.writeLeaf.updDie.keepTlb

theorem Formed.prefetch {f : MF} {va : Nat} (hs : Formed s) : Formed (s.prefetch f va) := by
  unfold State.prefetch
  split
  · exact hs
  · rename_i e
    exact .ite (.fillLine (.flushFor (hs.prefetchEntry.get e))) (hs.prefetchEntry.get e)

theorem Formed.execPref {f : MF} (hs : Formed s) : FormedOut (execPref f s) := by
  unfold Machine.execPref
  refine Formed.guarded hs fun t ht => ?_
  extract_lets
  split
  · exact ht.prot
  · exact .next (.retire (.foldl (fun _ _ hu => hu.prefetch) ht))

theorem Formed.pushLine {pa : Nat} (hs : Formed s) : Formed (s.pushLine pa) := by
  unfold State.pushLine
  extract_lets _ s'
  have hs' : Formed s' := hs.flushFor.landFor
  split
  · exact hs
  · exact .upd (.ite hs'.acceptLine.cleanL2 hs')

theorem Formed.cleanLine {pa : Nat} {e : TlbEntry} (hs : Formed s) : Formed (s.cleanLine pa e) :=
    .ite hs.pushLine (.ite hs.flushFor.landFor.writeBack hs.flushFor.landFor)

/-! ### Vector integers -/

theorem Formed.runElems {r : VRule} {f : VF} {op : Nat → Nat → Nat → Nat → Nat × Flags} (hs : Formed s) : FormedOut (runElems r f s op) :=
    hs.runVec

theorem Formed.runInts {r : VRule} {sat : Bool} {f : VF} {op : Int → Int → Int → Int} (hs : Formed s) : FormedOut (runInts r sat f s op) :=
    hs.runElems

theorem Formed.runBits {r : VRule} {f : VF} {op : Nat → Nat → Nat → Nat} (hs : Formed s) : FormedOut (runBits r f s op) := hs.runElems
theorem Formed.runMulw {r : VRule} {f : VF} (hs : Formed s) : FormedOut (runMulw r f s) := hs.runVec

theorem Formed.runDot {r : VRule} {n : Nat} {f : VF} (hs : Formed s) : FormedOut (runDot r n f s) := by
  unfold Machine.runDot
  exact hs.runVec

theorem Formed.runRshr {r : VRule} {f : VF} (hs : Formed s) : FormedOut (runRshr r f s) := hs.runElems

theorem Formed.runNarrow {r : VRule} {f : VF} (hs : Formed s) : FormedOut (runNarrow r f s) := by
  unfold Machine.runNarrow
  exact hs.runVec

theorem Formed.runWiden {r : VRule} {f : VF} (hs : Formed s) : FormedOut (runWiden r f s) := hs.runVec
theorem Formed.runBfx {signed : Bool} {r : VRule} {f : VF} (hs : Formed s) : FormedOut (runBfx signed r f s) := hs.runElems
theorem Formed.runCmp {r : VRule} {f : VF} (hs : Formed s) : FormedOut (runCmp r f s) := hs.guarded fun _ ht => .next ht.maskResult

theorem Formed.execVlut {f : VF} (hs : Formed s) : FormedOut (execVlut f s) := by
  unfold Machine.execVlut
  exact hs.runVec

/-! ### Masks and moves -/

theorem Formed.runMask {r : VRule} {f : VF} {g : State → W64} (hs : Formed s) : FormedOut (runMask r f s g) :=
    hs.guarded fun _ ht => .next ht.maskResult

theorem Formed.runCount {f : VF} {g : W64 → Nat → Nat} (hs : Formed s) : FormedOut (runCount f s g) := hs.runVec

theorem Formed.runVote {f : VF} {g : W64 → W64 → (Nat → W32) → Nat → Bool} (hs : Formed s) : FormedOut (runVote f s g) :=
    hs.guarded fun _ ht => .next ht.maskResult

theorem Formed.runMove {r : VRule} {f : VF} {pick : State → Nat → Nat} (hs : Formed s) : FormedOut (runMove r f s pick) := hs.runVec
theorem Formed.runVred {flt : Bool} {r : VRule} {f : VF} (hs : Formed s) : FormedOut (runVred flt r f s) := hs.runVec
theorem Formed.runScan {flt : Bool} {r : VRule} {f : VF} (hs : Formed s) : FormedOut (runScan flt r f s) := hs.runVec

/-! ### Vector floats -/

theorem Formed.advanced {n : Nat} {f : VF} {before : State} {o : Out} (_hbefore : Formed before) (ho : FormedOut o) :
    FormedOut (advanced n f before o) := by
  unfold Machine.advanced
  split
  · exact .ite ho (.next (.advance (ho.get rfl)))
  · exact ho

theorem Formed.runFlt {r : VRule} {f : VF} {op : FEnv → FVal → FVal → FVal → Nat × Flags} (hs : Formed s) : FormedOut (runFlt r f s op) :=
    hs.advanced hs.runVec

theorem Formed.runRound2 {r : VRule} {f : VF} {op : Bool → FVal → FVal → FVal × Flags} (hs : Formed s) : FormedOut (runRound2 r f s op) :=
    hs.runFlt

theorem Formed.runRound3 {r : VRule} {f : VF} {op : Bool → FVal → FVal → FVal → FVal × Flags} (hs : Formed s) :
    FormedOut (runRound3 r f s op) := hs.runFlt

theorem Formed.runPick {r : VRule} {f : VF} {op : FVal → FVal → FVal → FVal} {src : FVal → FVal → FVal → List FVal} (hs : Formed s) :
    FormedOut (runPick r f s op src) :=
    hs.runFlt

theorem Formed.runFaithful {fn : FFun} {f : VF} (hs : Formed s) : FormedOut (runFaithful fn f s) := hs.runVec

theorem Formed.runNarrowF {scaled : Bool} {r : VRule} {f : VF} (hs : Formed s) : FormedOut (runNarrowF scaled r f s) :=
    hs.advanced hs.runVec

theorem Formed.runICvt {r : VRule} {f : VF} (hs : Formed s) : FormedOut (runICvt r f s) := hs.advanced hs.runVec
theorem Formed.runFCvti {r : VRule} {f : VF} (hs : Formed s) : FormedOut (runFCvti r f s) := hs.advanced hs.runVec

/-! ### VADAM (R285) -/

theorem Formed.adamResult {f : VF} {res : Nat → AdamRes} (hs : Formed s) : Formed (s.adamResult f res) :=
    .retire (.orFlags (.ite (.foldl (fun _ _ hu => .ite hu.setLfsr hu) (.foldl (fun _ _ hu => hu.writeV) hs))
      (.foldl (fun _ _ hu => hu.writeV) hs)))

theorem Formed.execVadam {f : VF} (hs : Formed s) : FormedOut (execVadam f s) :=
    hs.guarded fun _ ht => ht.withPlaces (fun _ _ hu => hu.withData (fun _ _ hv => .ite (.next hv.orFlags.retire) (.next hv.adamResult)))

/-! ### Atomics and reductions (R304 to R310) -/

theorem Formed.rmwCopy {pa : Nat} {e : TlbEntry} {wrote : Bool} (hs : Formed s) : Formed (s.rmwCopy pa e wrote) :=
    .ite hs.l2Use.dropCopy hs.l2Use

theorem Formed.putThrough {tag : W16} {pa : Nat} {e : TlbEntry} {bs : List W8} (hs : Formed s) : Formed (s.putThrough tag pa e bs) :=
    hs.updCore

theorem Formed.rmwLane {k : Elem} {tag : W16} {narrow : Bool} {g : W64 → Option Nat} {x : LaneLoc} (hs : Formed s) :
    FormedSnd (s.rmwLane k tag narrow g x) := by
  unfold State.rmwLane
  split
  · exact .mk hs
  · extract_lets s1
    have hs1 : Formed s1 := hs.fillLine
    refine .ite (.mk hs) ?_
    refine .ite (.mk (FormedOpt.getD (.map (fun _ => hs1.putThrough)) hs1)) ?_
    split
    · exact .mk hs.rmwCopy
    · exact .mk hs.writeAt.rmwCopy

theorem Formed.rmwAll {k : Elem} {tag : W16} {narrow : Bool} {g : Rmw} {x : List LaneLoc} (hs : Formed s) :
    FormedSnd (s.rmwAll k tag narrow g x) := by
  induction x generalizing s with
  | nil =>
    unfold State.rmwAll
    exact .mk hs
  | cons a r ih =>
    unfold State.rmwAll
    exact .mk (ih hs.rmwLane)

theorem Formed.atomue {pc : W64} {xs : List LaneLoc} (hs : Formed s) : Formed (s.atomue pc xs) := by
  unfold State.atomue
  split
  · exact hs
  · exact hs.trap

theorem Formed.rmw {f : AF} {k : Elem} {ofail : Order} {g : State → Rmw} {one : Bool} {put : State → (Nat → Option W64) → State}
    (hs : Formed s) (hput : ∀ t y, Formed t → Formed (put t y)) : FormedOut (rmw f k ofail g one s put) := by
  unfold Machine.rmw
  extract_lets _ run
  have hrun : ∀ t xs', Formed t → FormedOut (run t xs') := by
    intro t xs' ht
    dsimp only [run]
    refine Formed.releasing ht fun u hu => ?_
    split
    · exact .next hu.flushFor.landFor.broken
    · refine .ite (.next hu.flushFor.landFor.atomue) ?_
      exact .next (.atomue (.retire (hput _ _ (.ite (.selfInvalidate hu.flushFor.landFor.pin.rmwAll) hu.flushFor.landFor.pin.rmwAll))))
  exact .ite (hs.withOne (fun _ _ ht => hrun _ _ ht)) (hs.withPlaces (fun _ _ ht => hrun _ _ ht))

theorem Formed.putOld {f : AF} {k : Elem} {old : Nat → Option W64} (hs : Formed s) : Formed (s.putOld f k old) := by
  unfold State.putOld
  split
  · exact .ite hs.writeV.track.writeV.track hs.writeV.track
  · exact hs

theorem Formed.putOldS {f : AF} {old : Nat → Option W64} (hs : Formed s) : Formed (s.putOldS f old) := by
  unfold State.putOldS
  split
  · exact hs.writeS.track
  · exact hs

theorem Formed.runAtom {r : ARule} {k : Elem} {f : AF} (hs : Formed s) : FormedOut (runAtom r k f s) :=
    hs.guarded fun _ ht => ht.rmw (fun _ _ hu => hu.putOld)

theorem Formed.runCas {r : ARule} {k : Elem} {f : AF} (hs : Formed s) : FormedOut (runCas r k f s) :=
    hs.guarded fun _ ht => ht.rmw (fun _ _ hu => hu.putOld)

theorem Formed.countRed {pas : List Nat} (hs : Formed s) : Formed (s.countRed pas) := hs.updDie

theorem Formed.mergeRed {x : RedElem} (hs : Formed s) : Formed (s.mergeRed x) :=
    .updDie (.ite (.flushRed (.ite hs.flushRed hs)) (.ite hs.flushRed hs))

theorem Formed.redLane {f : AF} {k : Elem} {tag : W16} {x : LaneLoc} (hs : Formed s) : FormedSnd (s.redLane f k tag x) := by
  unfold State.redLane
  split
  · exact .mk hs
  · extract_lets _ s1 s1'
    have hs1 : Formed s1 := hs.landFor.mergeRed.dropCopy
    have hs1' : Formed s1' := hs.flushFor.landFor
    exact .ite (.mk hs.redFails) (.ite (.mk (.ite hs1 hs1.flushFor)) (.mk hs1'.writeAt.dropCopy))

theorem Formed.redAll {f : AF} {k : Elem} {tag : W16} {x : List LaneLoc} (hs : Formed s) : FormedSnd (s.redAll f k tag x) := by
  induction x generalizing s with
  | nil =>
    unfold State.redAll
    exact .mk hs
  | cons a r ih =>
    unfold State.redAll
    exact .mk (ih hs.redLane)

theorem Formed.putAck {f : AF} {res : List (Nat × Bool)} (hs : Formed s) : Formed (s.putAck f res) := by
  unfold State.putAck
  split
  · exact hs.writeV.track
  · exact hs

theorem Formed.runRed {r : ARule} {k : Elem} {f : AF} (hs : Formed s) : FormedOut (runRed r k f s) :=
    hs.guarded fun _ ht => ht.withPlaces (fun _ _ hu => hu.releasing (fun _ hv => .next (.retire (.putAck hv.countRed.pin.redAll))))

/-! ### Drain, shutdown and capture records (R96, R98, R142) -/

theorem Formed.putRecord {pa : Nat} {bs : List W8} (hs : Formed s) : Formed (s.putRecord pa bs) := hs.writeAt
theorem Formed.storeRecord {pa : Nat} {bs : List W8} (hs : Formed s) : Formed (s.storeRecord pa bs) := hs.store.upd

/-! ### Fences, barriers and waits (R311 to R314) -/

theorem Formed.acquireAt {o : Order} {sc : Scope} (hs : Formed s) : Formed (s.acquireAt o sc) := .ite hs.selfInvalidate hs

theorem Formed.fenceAt {o : Order} {sc : Scope} {h : Head} (hs : Formed s) : FormedOut (fenceAt s o sc h) :=
    hs.releasing fun _ ht => .next ht.acquireAt.retire

theorem Formed.seenBy {a b : Nat} (hs : Formed s) : Formed (s.seenBy a b) := .ite hs hs.setCore

theorem Formed.runBar {d : DUse} {f : MF} {k : State → LaneLoc → Sp → Nat → Bool → Out} (hs : Formed s)
    (hk : ∀ t y z w x', Formed t → FormedOut (k t y z w x')) : FormedOut (runBar d f s k) := by
  unfold Machine.runBar
  refine Formed.guarded hs fun t ht => ?_
  refine Formed.withOne ht fun u xs' hu => ?_
  refine .ite hu.trapAt ?_
  split
  · split
    · exact .ite (.next hu.consume) (hu.releasing (fun _ hv => hk _ _ _ _ _ hv))
    · exact .next hu.retire
  · exact .next hu.retire

theorem Formed.passBar {f : MF} (hs : Formed s) : Formed (s.passBar f) := hs.acquireAt

theorem Formed.arriveAt {t : Sp} {off : Nat} {own : Bool} (hs : Formed s) : FormedFst (s.arriveAt t off own) :=
    .mk (.spWriteAt (.ite hs hs.pin))

theorem Formed.execBar {f : MF} (hs : Formed s) : FormedOut (execBar f s) :=
    hs.runBar fun _ _ _ _ _ hu => .ite (.next (.passBar (.retire hu.arriveAt))) (.next (.hold (.retire hu.arriveAt)))

theorem Formed.execBarw {f : MF} (hs : Formed s) : FormedOut (execBarw f s) :=
    hs.runBar fun _ _ _ _ _ hu => .next (.ite (hu.detachSelf (.ite hu.retire.hold hu.retire.passBar))
      (.ite hu.retire.hold hu.retire.passBar))

theorem Formed.dropWaited {w : Wait} (hs : Formed s) : Formed (s.dropWaited w) := by
  unfold State.dropWaited
  split
  · exact hs.dropCopy
  · exact hs

theorem Formed.runWaita {w : Width} {f : MF} (hs : Formed s) : FormedOut (runWaita w f s) := by
  unfold Machine.runWaita
  refine Formed.guarded hs fun t ht => ?_
  refine Formed.withOne ht fun u xs' hu => ?_
  refine Formed.withData hu fun v data' hv => ?_
  exact .next (.ite (hu.detachSelf (.ite hv.writeS.track.retire hv.dropWaited.hold)) (.ite hv.writeS.track.retire hv.dropWaited.hold))

theorem Formed.wakeWhere {p : Wait → Bool} (hs : Formed s) : Formed (s.wakeWhere p) := .ite hs.mapStreams hs

theorem Formed.execWakea {f : MF} (hs : Formed s) : FormedOut (execWakea f s) := by
  unfold Machine.execWakea
  refine Formed.guarded hs fun t ht => ?_
  extract_lets
  split
  · refine .ite ht.prot ?_
    split
    · exact .next ht.retire
    · rename_i e
      exact .ite (.next (.retire (.wakeWhere (ht.prefetchEntry.get e)))) (.next (.retire (ht.prefetchEntry.get e)))
  · refine Formed.withOne ht fun u xs' hu => ?_
    split
    · exact .next hu.wakeWhere.retire
    · exact .next hu.retire

/-! ### Persistence (R315 to R319) -/

theorem Formed.pushPages {a n : Nat} {ps : List (Nat × TlbEntry)} (hs : Formed s) : Formed (s.pushPages a n ps) :=
    .foldl (fun _ _ ht => .ite (.foldl (fun _ _ hu => hu.pushLine) ht) ht) hs

theorem Formed.execPflush {f : MF} (hs : Formed s) : FormedOut (execPflush f s) := by
  unfold Machine.execPflush
  extract_lets clear
  have hclear : ∀ t, Formed t → Formed (clear t) := fun _ ht => ht.upd
  refine Formed.guarded hs fun t ht => ?_
  extract_lets _ _ _ done
  have hdone : Formed done := .ite ht ht.pushPages.pin
  refine .ite ht.prot ?_
  split
  · exact .next hdone.park.upd
  · exact Formed.trapAt (hclear _ hdone)
  · exact .next ht.retire
  · exact .next (.retire (hclear _ ht.pushPages.pin))

theorem Formed.execPflushv {f : MF} (hs : Formed s) : FormedOut (execPflushv f s) :=
    hs.guarded fun _ ht => ht.withLanes (fun _ _ hu => .next (.retire (.foldl (fun _ _ hv => .ite hv.pushLine hv) hu.pin)))

theorem Formed.putStep {step : W16} (hs : Formed s) : Formed (s.putStep step) := by
  unfold State.putStep
  extract_lets
  split
  · exact hs.writeAt
  · exact hs

theorem Formed.putStatus {f : MF} {code : W64} (hs : Formed s) : Formed (s.putStatus f code) := hs.writeS.track.retire

theorem Formed.execStepset {f : MF} (hs : Formed s) : FormedOut (execStepset f s) := by
  unfold Machine.execStepset
  refine Formed.guarded hs fun t ht => ?_
  exact .ite (.next ht.pin.hold) (.ite (.next ht.pin.flushMine.selfInvalidate.putStatus)
    (.next ht.pin.flushMine.selfInvalidate.putStep.putStatus))

theorem Formed.publishSnap {q : Nat} (hs : Formed s) : Formed (s.publishSnap q) := hs.setReg
theorem Formed.recordCapture {q : Nat} (hs : Formed s) : Formed (s.recordCapture q) := .foldl (fun _ _ ht => ht.putRecord) hs.publishSnap

end Sys2Proof.Machine
end

section
/-! SUPPORT. Engines and queues keep the form (R188, R321 to R358). -/

namespace Sys2Proof.Machine

variable {s : State}

/-! ### Commands (R321, R334) -/

theorem Formed.output {f : XF} {k : Nat} {v : W64} {lat : Nat} (hs : Formed s) : Formed (s.output f k v lat) := hs.writeTracked
theorem Formed.protX {reason : Nat} {addr : W64} (hs : Formed s) : FormedOut (s.protX reason addr) := hs.prot

theorem Formed.withWord {v : W64} {align : Nat} {clusterOk : Bool} {k : State → Out} (hs : Formed s)
    (hk : ∀ t, Formed t → FormedOut (k t)) : FormedOut (withWord s v align clusterOk k) := by
  unfold Machine.withWord
  split
  · exact hs.protX
  · exact hs.misalign
  · exact hs.protX
  · exact hk _ hs

theorem Formed.pinSquad {sid : Nat} (hs : Formed s) : Formed (s.pinSquad sid) := .ite hs.pin hs.mapSquads
theorem Formed.addCommand {c : Command} (hs : Formed s) : Formed (s.addCommand c) := hs.upd
theorem Formed.putCommand {c : Command} (hs : Formed s) : Formed (s.putCommand c) := hs.upd
theorem Formed.dropCommand {c : Command} (hs : Formed s) : Formed (s.dropCommand c) := hs.upd.updCore
theorem Formed.noteWord {sid : Nat} {v : W64} (hs : Formed s) : Formed (s.noteWord sid v) := .ite hs hs.upd
theorem Formed.noteDone {c : Command} (hs : Formed s) : Formed (s.noteDone c) := hs.noteWord

theorem Formed.deliver {c : Command} {v : W64} {bs : List W8} (hs : Formed s) : Formed (s.deliver c v bs) := by
  unfold State.deliver
  split
  · exact hs.spWriteAt
  · exact hs

theorem Formed.enqWord {e : Enqueue} {status : Nat} (hs : Formed s) : Formed (s.enqWord e status) := by
  unfold State.enqWord
  split
  · exact hs
  · exact hs.noteWord.deliver

theorem Formed.finishNow {c : Command} {status : Nat} {data : W32} (hs : Formed s) : Formed (s.finishNow c status data) :=
    .foldl (fun _ _ ht => ht.deliver) (.noteDone (.dropCommand (.ite hs.pinSquad hs)))

theorem Formed.finish {c : Command} {status : Nat} {data : W32} (hs : Formed s) : Formed (s.finish c status data) :=
    .ite hs.putCommand hs.finishNow

theorem Formed.windowEnds {opid : Nat} {failed : Bool} (hs : Formed s) : Formed (s.windowEnds opid failed) := by
  unfold State.windowEnds
  extract_lets _ s1
  have hs1 : Formed s1 := hs.upd
  split
  · exact hs
  · rename_i e
    extract_lets s2
    have hs2 : Formed s2 := .ite hs1 (.ite hs1.note hs1.windowFree)
    split
    · exact hs2
    · split
      · exact .ite hs2 hs2.finishNow
      · exact hs2

theorem Formed.engineWaits {c : Command} {need : List (Nat × Acc)} (hs : Formed s) : Formed (s.engineWaits c need) :=
    .putCommand (.foldl (fun _ _ ht => ht.miss) hs)

theorem Formed.engAsk {c : Command} {vas : List Nat} (hs : Formed s) : FormedOpt (s.engAsk c vas) := by
  unfold State.engAsk
  extract_lets
  refine .ite (.some hs) ?_
  split
  · exact .none
  · rename_i e
    exact .some (.putCommand (hs.windowRead.get e))

theorem Formed.failKeys {path : Nat} {ks : List (Nat × Nat)} (hs : Formed s) : Formed (s.failKeys path ks) :=
    .foldl (fun _ _ ht => ht.keyFails) hs

theorem Formed.engTouch {c : Command} {spans : List (Nat × Nat × Nat)} (hs : Formed s) : Formed (s.engTouch c spans) := by
  unfold State.engTouch
  refine .foldl (fun t a ht => ?_) ?_
  · refine .ite ht ?_
    refine .foldl (fun t a ht => ?_) ?_
    · split
      · exact ht.l2Use
      · exact ht
    · exact ht
  · exact hs

theorem Formed.engFails {s before : State} {c : Command} {spans : List (Nat × Nat × Nat)} (hs : Formed s) (_hbefore : Formed before) :
    Formed (s.engFails before c spans) :=
    hs.failKeys

theorem Formed.dropDie {d : Nat} {lines : List Nat} (hs : Formed s) : Formed (s.dropDie d lines) :=
    .foldl (fun _ _ ht => .ite ht.updCore ht) (.ite hs hs.updDie)

theorem Formed.engWrite {c : Command} {direct : Bool} {ws : List (Nat × Nat × W8 × Bool)} (hs : Formed s) :
    Formed (s.engWrite c direct ws) :=
    .failKeys (.dropDie (.foldl (fun _ _ ht => ht.spPoison) (.foldl (fun _ _ ht => ht.spWrite) (.foldl (fun _ _ ht => ht.writeOut) hs))))

/-! ### The matrix engine (R188, R323 to R333) -/

theorem Formed.execMacq {f : XF} (hs : Formed s) : FormedOut (execMacq f s) :=
    hs.checked fun _ ht => .ite (.next ht.updCore.output.retire) (.ite (.next (.hold (.ite ht ht.updCore))) (.next ht.output.retire))

theorem Formed.enqueueOp {core : Nat} {m : MacroOp} (hs : Formed s) : Formed (s.enqueueOp core m) := hs.updCore.upd
theorem Formed.opTrap {e : OpndFault} (hs : Formed s) : FormedOut (opTrap s e) := hs.trapAt

theorem Formed.issueOp {r : XRule} {op : Nat} {f : XF} (hs : Formed s) : FormedOut (issueOp r op f s) := by
  unfold Machine.issueOp
  refine Formed.checked hs fun t ht => ?_
  extract_lets
  refine .ite ht.trapAt ?_
  refine .ite (.next ht.hold) ?_
  split
  · exact ht.opTrap
  · exact .ite (.next ht.hold) (.next ht.enqueueOp.retire)

theorem Formed.rowMove {core : Nat} {m : MacroOp} (hs : Formed s) : Formed (s.rowMove core m) :=
    .ite hs.updCore (.ite hs.consume.upd hs.writeVTracked)

theorem Formed.settleMoves {core x : Nat} (hs : Formed s) : Formed (s.settleMoves core x) := by
  induction x generalizing s with
  | zero =>
    unfold State.settleMoves
    exact hs
  | succ n ih =>
    unfold State.settleMoves
    split
    · exact hs
    · exact .ite (ih (hs.updCore.at (fun _ ht => ht.rowMove))) (ih (hs.updCore.at (fun _ ht => ht.rowMove)).updCore)

theorem Formed.runRow {op : Nat} {r : XRule} {f : XF} (hs : Formed s) : FormedOut (runRow op r f s) :=
    hs.checked fun _ ht => .ite ht.protX (.ite (.next ht.enqueueOp.retire) (.next (.ite ht.rowMove.retire ht.rowMove)))

theorem Formed.execMstep {f : XF} (hs : Formed s) : FormedOut (execMstep f s) := by
  unfold Machine.execMstep
  refine Formed.checked hs fun t ht => ?_
  extract_lets _ _ done
  have hdone : FormedOut done := .next ht.upd.retire
  split
  · exact .ite (.next ht.upd.hold) hdone
  · exact hdone

theorem Formed.opConsumes {core : Nat} {m : MacroOp} {kind : ConsKind} {addr info : W64} (hs : Formed s) :
    Formed (s.opConsumes core m kind addr info) := hs.updCore.upd

theorem Formed.mmaChunks {core : Nat} {m : MacroOp} {chunk x : Nat} (hs : Formed s) : Formed (s.mmaChunks core m chunk x) := by
  induction x generalizing s chunk with
  | zero =>
    unfold State.mmaChunks
    exact hs
  | succ n ih =>
    unfold State.mmaChunks
    exact ih hs.setCore

theorem Formed.tileStep {core : Nat} {m : MacroOp} (hs : Formed s) : Formed (s.tileStep core m) :=
    .ite hs.updCore (.ite hs.updCore (.ite hs.updCore (.ite hs.spWrite hs.spWrite.spPoison)))

theorem Formed.stepDone {core : Nat} {m : MacroOp} (hs : Formed s) : Formed (s.stepDone core m) :=
    .ite hs.updCore (.ite hs.updCore.settleMoves.setCore hs.updCore.settleMoves)

theorem Formed.passPoison {core : Nat} {m : MacroOp} {ks : List Nat} (hs : Formed s) : Formed (s.passPoison core m ks) := .ite hs.updCore hs

theorem Formed.execMacroOpStep {core : BitVec 8} {mismatch : Option ChunkMismatch} (hs : Formed s) :
    FormedOut (execMacroOpStep core mismatch s) := by
  unfold Machine.execMacroOpStep
  extract_lets
  split
  · exact .next hs
  · rename_i m _
    refine .ite (.next hs) ?_
    split
    · exact .next hs.opConsumes
    · extract_lets
      refine .ite ?_ (.next hs.tileStep.passPoison.stepDone)
      split
      · exact .next hs.mmaChunks.updCore.opConsumes
      · exact .next hs.mmaChunks.passPoison.stepDone

theorem Formed.execBatonForcedPass {core : BitVec 8} (hs : Formed s) : FormedOut (execBatonForcedPass core s) := by
  unfold Machine.execBatonForcedPass
  extract_lets
  split
  · exact .ite (.next hs.setCore) (.next hs)
  · exact .next hs

/-! ### Copy commands (R334 to R343) -/

theorem Formed.accept? {c : Command} (hs : Formed s) : FormedAccept (s.accept? c) := by
  unfold State.accept?
  extract_lets _ _ t
  have ht : Formed t := hs.engTouch
  refine .ite trivial ?_
  refine .ite hs ?_
  refine .ite hs ?_
  refine .ite hs ?_
  split
  · exact hs.miss
  · exact hs
  · extract_lets
    split
    · rename_i e
      exact hs.windowRead.get e
    · refine .ite (ht.engFails hs) ?_
      split <;> exact ht

theorem Formed.enterCopy {c : Command} {bs : List W8} (hs : Formed s) : Formed (s.enterCopy c bs) := .putCommand (.ite hs.pinSquad hs)

theorem Formed.issueCopy {r : XRule} {op : Nat} {f : XF} {clusterOk : Bool} {pre : State → Except (State → Out) (List W64)}
    (hs : Formed s) (hpre : ∀ t, Formed t → FormedCheck (pre t)) : FormedOut (issueCopy r op f s clusterOk pre) := by
  unfold Machine.issueCopy
  extract_lets clear
  have hclear : ∀ t, Formed t → Formed (clear t) := fun _ ht => ht.upd
  refine Formed.checked hs fun t ht => ?_
  extract_lets
  refine Formed.withWord ht fun u hu => ?_
  split
  · rename_i e
    exact (hpre _ hu).get e hu
  · extract_lets
    split
    · exact .next hu.hold
    · rename_i e'
      exact .next (.hold (hu.accept?.get e'))
    · rename_i e'
      exact .next (.hold (.upd (hu.accept?.get e')))
    · rename_i e'
      exact .next (.retire (.finish (hclear _ (.addCommand (hu.accept?.get e')))))
    · rename_i e'
      exact .next (.retire (.finish (hclear _ (.addCommand (hu.accept?.get e')))))
    · rename_i e'
      exact .next (.retire (.enterCopy (hclear _ (.addCommand (hu.accept?.get e')))))

theorem Formed.noBlock {x : State} (_hx : Formed x) : FormedCheck (noBlock x) := .ok

theorem Formed.followBlock {f : XF} (_hs : Formed s) : FormedCheck (followBlock f s) := by
  unfold Machine.followBlock
  extract_lets
  split
  · exact .error fun _ ht => ht.protX
  · exact .error fun _ ht => ht.protX
  · exact .error fun _ ht => ht.misalign
  · exact .error fun _ ht => ht.protX
  · refine .ite (.error (fun _ ht => .next ht.consume)) ?_
    refine .ite (.error (fun _ ht => ht.illop)) ?_
    refine .ite (.error (fun _ ht => ht.illop)) ?_
    split
    · exact .error fun _ ht => ht.opTrap
    · exact .ok

theorem Formed.execCpyat {f : XF} (hs : Formed s) : FormedOut (execCpyat f s) := by
  unfold Machine.execCpyat
  refine Formed.checked hs fun t ht => ?_
  exact ht.withWord fun _ hu => .ite (.next hu.hold) (.ite (.next hu.addCommand.putCommand.retire) (.next hu.addCommand.updCore.retire))

theorem Formed.moveElems {c : Command} {direct : Bool} {space : Nat} {ms : List (Move × Item)} (hs : Formed s) :
    Formed (s.moveElems c direct space ms) := .ite hs.upd hs.upd.engWrite

theorem Formed.landSome {c : Command} (hs : Formed s) : Formed (s.landSome c) :=
    .ite hs (.ite hs (.ite (hs.upd.engTouch.moveElems.engFails hs) hs.upd.engTouch.moveElems))

theorem Formed.allotCommand {a : Spend} {c : Command} {total : Nat} (hs : Formed s) : FormedFst (s.allotCommand a c total) :=
    .mk (.putCommand hs.allot)

theorem Formed.perform {c : Command} {l : Layout} {ms : List Move} (hs : Formed s) : FormedFst (s.perform c l ms) := by
  unfold State.perform
  extract_lets _ _ _ put _ _ s1 _ _ _ _ s1'
  have hput : ∀ bs', Formed (put bs') := fun _ => hs.moveElems
  have hs1 : Formed s1 := hs.upd
  have hs1' : Formed s1' := .ite hs hs.moveElems
  exact .ite (.ite (.mk (hs.upd.moveElems.engFails hs)) (.ite (.mk hs) (.ite (.mk hs1.moveElems) (.mk (hput _)))))
    (.mk (.ite (hs1'.engFails hs) hs1'))

theorem Formed.execCopyComplete {cmd : Nat} (hs : Formed s) : FormedOut (execCopyComplete cmd s) := by
  unfold Machine.execCopyComplete
  split
  · exact .next hs
  · extract_lets _ _ _ r s' _ _ _ r'
    have hr : FormedFst r := hs.allotCommand
    have hs' : Formed s' := hr
    have hr' : FormedFst r' := hs'.engTouch.perform
    refine .ite (.next hs) ?_
    split
    · split
      · exact .next hs
      · rename_i e
        exact .next (.putCommand (hs.accept?.get e))
      · rename_i e
        exact .next (.putCommand (hs.accept?.get e))
      · rename_i e
        exact .next (.finish (hs.accept?.get e))
      · rename_i e
        exact .next (.finish (hs.accept?.get e))
      · rename_i e
        exact .next (.enterCopy (hs.accept?.get e))
    · refine .ite (.next hs) ?_
      refine .ite (.next hs.landSome.finish) ?_
      refine .ite (.next hs.engineWaits) ?_
      refine .ite (.next hs.finish) ?_
      refine .ite (.next hs.finish) ?_
      refine .ite (.next hs') ?_
      split
      · rename_i e
        exact .next (hs'.engAsk.get e)
      · exact .ite (.next (.putCommand hr')) (.next (.finish hr'))

theorem Formed.execCpyfFollowonEnter {cmd : Nat} (hs : Formed s) : FormedOut (execCpyfFollowonEnter cmd s) := by
  unfold Machine.execCpyfFollowonEnter
  split
  · exact .next hs
  · extract_lets
    refine .ite (.next hs) ?_
    split
    · exact .next hs.dropCommand
    · exact .ite (.ite (.next hs) (.next hs.enqueueOp.finish)) (.next hs.updImage.finish)

theorem Formed.cancel {c : Command} (hs : Formed s) : Formed (s.cancel c) := .ite hs.finish (.finish (.ite hs.landSome hs))

theorem Formed.cancelDelayed {sid : Nat} {v : W64} (hs : Formed s) : Formed (s.cancelDelayed sid v) :=
    .ite hs (.foldl (fun _ _ ht => ht.enqWord) hs.upd.mapSquads)

theorem Formed.execCcnl {f : XF} (hs : Formed s) : FormedOut (execCcnl f s) :=
    hs.checked fun _ ht => ht.withWord (fun _ hu => .next (.retire (.cancelDelayed (.foldl (fun _ _ hv => hv.cancel) hu))))

/-! ### Gathers and scatters (R344) -/

theorem Formed.withOffset {v : W64} {align : Nat} {k : State → Out} (hs : Formed s) (hk : ∀ t, Formed t → FormedOut (k t)) :
    FormedOut (withOffset s v align k) := .ite hs.protX (.ite hs.misalign (.ite hs.protX (hk _ hs)))

theorem Formed.issueGather {op : Nat} {f : XF} (hs : Formed s) : FormedOut (issueGather op f s) := by
  unfold Machine.issueGather
  refine Formed.checked hs fun t ht => ?_
  extract_lets
  refine Formed.withOffset ht fun u hu => ?_
  refine Formed.withOffset hu fun v hv => ?_
  refine Formed.withWord hv fun w hw => ?_
  extract_lets s1
  have hs1 : Formed s1 := .addCommand (.ite hw.pin hw)
  exact .ite (.next hs1.finish.retire) (.ite (.next hs1.finish.retire) (.next hs1.retire))

theorem Formed.scatterElem {c : Command} {va off : Nat} (hs : Formed s) : FormedFst (s.scatterElem c va off) := by
  unfold State.scatterElem
  extract_lets
  split
  · exact .ite (.mk hs.redFails) (.mk hs.writeAll.dropDie)
  · exact .mk hs

theorem Formed.gatherMove {c : Command} {rows : List (Nat × Nat)} (hs : Formed s) : FormedFst (s.gatherMove c rows) := by
  unfold State.gatherMove
  extract_lets
  refine .ite (.foldl (fun _ _ ht => .foldl (fun _ _ hu => .mk (Formed.scatterElem hu)) ht) (.mk hs)) ?_
  exact .foldl (fun _ _ ht => .mk (.ite (.engFails (.engWrite (.engTouch ht)) ht) (.engWrite (.engTouch ht)))) (.mk hs)

theorem Formed.execGatherComplete {cmd : Nat} (hs : Formed s) : FormedOut (execGatherComplete cmd s) := by
  unfold Machine.execGatherComplete
  split
  · exact .next hs
  · extract_lets _ _ _ _ _ _ _ r
    have hr : FormedFst r := hs.gatherMove
    refine .ite (.next hs) ?_
    refine .ite (.next hs.finish) ?_
    refine .ite (.next hs.finish) ?_
    refine .ite (.next (.finish hs.upd.gatherMove)) ?_
    refine .ite (.next hs.engineWaits) ?_
    refine .ite (.next hs.finish) ?_
    split
    · rename_i e
      exact .next (hs.engAsk.get e)
    · exact .next (.finish hr)

/-! ### Groups and flows -/

theorem Formed.freeOp {dst domain flow opid : Nat} (hs : Formed s) : Formed (s.freeOp dst domain flow opid) := hs.putTx
theorem Formed.freePacket {dst domain flow psn : Nat} (hs : Formed s) : Formed (s.freePacket dst domain flow psn) := hs.putTx
theorem Formed.setMember {k pkg : Nat} {down : Bool} (hs : Formed s) : Formed (s.setMember k pkg down) := hs.setReg
theorem Formed.putRx {t : RxFlow} (hs : Formed s) : Formed (s.putRx t) := hs.upd

/-! ### Collectives (R345 to R347) -/

theorem Formed.issueColl {r : XRule} {op : Nat} {f : XF} (hs : Formed s) : FormedOut (issueColl r op f s) := by
  unfold Machine.issueColl
  refine Formed.checked hs fun t ht => ?_
  extract_lets
  refine Formed.withWord ht fun u hu => ?_
  extract_lets _ _ _ s1 _ _ _ s2
  have hs1 : Formed s1 := hu.pin
  have hs2 : Formed s2 := hs1.upd
  refine .ite (.next hu.hold) ?_
  refine .ite (.next hs1.addCommand.finish.retire) ?_
  exact .ite (.next hs1.addCommand.finish.retire) (.ite (.next hs1.addCommand.finish.retire) (.next hs2.addCommand.retire))

theorem Formed.putColl {x : CollIn} (hs : Formed s) : Formed (s.putColl x) := hs.upd
theorem Formed.dropColl {g k : Nat} (hs : Formed s) : Formed (s.dropColl g k) := hs.upd

theorem Formed.collSend {c : Command} {peers : List Nat} {stream : List W8} {bad : List Nat} {sent x : Nat} (hs : Formed s) :
    FormedFst (s.collSend c peers stream bad sent x) := by
  induction x generalizing s sent with
  | zero =>
    unfold State.collSend
    exact .mk hs
  | succ n ih =>
    unfold State.collSend
    exact .ite (.mk hs) (ih (.foldl (fun _ _ ht => ht.sendData) hs))

theorem Formed.collFail {c : Command} {status : Nat} (hs : Formed s) : Formed (s.collFail c status) :=
    .finish (.dropColl (.foldl (fun _ _ ht => ht.sendData) hs))

theorem Formed.collEnd {c : Command} {grp : CollGroup} {rank : Nat} {srcs : List (List W8)} {bads : List (List Nat)} (hs : Formed s) :
    Formed (s.collEnd c grp rank srcs bads) :=
    hs.upd.engWrite.dropColl.finish

theorem Formed.execCollectiveComplete {cmd : Nat} (hs : Formed s) : FormedOut (execCollectiveComplete cmd s) := by
  unfold Machine.execCollectiveComplete
  split
  · exact .next hs
  · extract_lets
    refine .ite (.next hs) ?_
    split
    · exact .ite (.next hs.finish) (.next hs)
    · extract_lets _ _ r s' _ _ _ _ _ _ s'' r' _ s1
      have hr : FormedFst r := .ite hs.allotCommand (.mk hs)
      have hs' : Formed s' := hr
      have hs'' : Formed s'' := .ite hs' (hs'.engTouch.engFails hs')
      have hr' : FormedFst r' := hs''.collSend
      have hs1 : Formed s1 := .putCommand hr'
      refine .ite (.next hs) ?_
      refine .ite (.next hs.dropColl.finish) ?_
      refine .ite (.next hs.collFail) ?_
      refine .ite (.next hs.dropColl.finish) ?_
      refine .ite (.next hs.engineWaits) ?_
      refine .ite (.next hs.collFail) ?_
      split
      · rename_i e
        exact .next (hs.engAsk.get e)
      · exact .ite (.next hs') (.ite (.next hs1) (.ite (.next hs1.dropColl.finish) (.next hs1.collEnd)))

/-! ### NVMe queue pairs (R348, R349) -/

theorem Formed.setQp {q : Nat} {v : Qp} (hs : Formed s) : Formed (s.setQp q v) := hs.upd

theorem Formed.withQp {v : W64} {k : State → Nat → QpDesc → Out} (hs : Formed s) (hk : ∀ t y z, Formed t → FormedOut (k t y z)) :
    FormedOut (withQp s v k) :=
    .ite hs.protX (hk _ _ _ hs.pin)

theorem Formed.nvAllot {mine : Spend} {total x x' : Nat} (hs : Formed s) : FormedFst (s.nvAllot mine total x x') := by
  induction x generalizing s x' with
  | zero =>
    unfold State.nvAllot
    exact .mk hs
  | succ n ih =>
    unfold State.nvAllot
    exact .ite (.mk hs) (ih hs.spend.spend)

theorem Formed.execNvsub {f : XF} (hs : Formed s) : FormedOut (execNvsub f s) := by
  unfold Machine.execNvsub
  refine Formed.checked hs fun t ht => ?_
  extract_lets
  refine Formed.withQp ht fun u q' x' hu => ?_
  extract_lets _ _ _ _ _ _ done _ _ paid t' _ src _ s' _ _ _ _ s1 s2
  have hdone : ∀ t'', Formed t'' → FormedOut (done t'') := fun _ hv => .next hv.output.retire
  have hpaid : FormedFst paid := hu.nvAllot
  have ht' : Formed t' := .hold hpaid
  have hsrc : Formed src := hpaid
  have hs' : Formed s' := hsrc.upd
  have hs1 : Formed s1 := .ite hs' hs'.writeAt
  have hs2 : Formed s2 := hs1.writeAt.setQp
  exact .ite (hdone _ hu) (.ite (.next ht'.upd) (hdone _ hs2))

theorem Formed.post {addr : W64} {v : Nat} (hs : Formed s) : Formed (s.post addr v) := hs.upd

theorem Formed.execNvcq {f : XF} (hs : Formed s) : FormedOut (execNvcq f s) := by
  unfold Machine.execNvcq
  extract_lets fenced
  have hfenced : ∀ t, Formed t → Formed (fenced t) := fun _ ht => ht.selfInvalidate
  refine Formed.checked hs fun t ht => ?_
  refine Formed.withQp ht fun u q' x' hu => ?_
  refine Formed.releasing hu fun v hv => ?_
  extract_lets _ _ _ _ _ s' _ _ s1
  have hs' : Formed s' := hv.touch
  have hs1 : Formed s1 := hfenced _ hs'.setQp.post
  refine .ite (.next hs'.consume) ?_
  refine .ite (.next hs'.keyFails.consume) ?_
  exact .ite (.next hs1.output.output.retire) (.ite (.next (.hold (hfenced _ hs'))) (.next (.retire (.output (.output (hfenced _ hs'))))))

/-! ### Fabric operations (R350 to R352) -/

theorem Formed.fabEnd {c : Command} {status : Nat} (hs : Formed s) : Formed (s.fabEnd c status) := hs.freeOp.finish

theorem Formed.putSend {c : Command} {x : Nat} (hs : Formed s) : Formed (s.putSend c x) := by
  induction x generalizing s c with
  | zero =>
    unfold State.putSend
    exact hs.putCommand
  | succ n ih =>
    unfold State.putSend
    extract_lets _ _ _ _ _ _ _ _ _ _ _ _ _ _ s1
    have hs1 : Formed s1 := hs.engTouch.engFails hs
    refine .ite hs.putCommand ?_
    refine .ite hs.sendData.spend.putCommand ?_
    refine .ite hs.engineWaits ?_
    refine .ite hs.fabEnd ?_
    split
    · rename_i e
      exact hs.engAsk.get e
    · exact ih hs1.sendData.spend

theorem Formed.fabStep {id : Nat} (hs : Formed s) : Formed (s.fabStep id) := by
  unfold State.fabStep
  split
  · exact hs
  · exact .ite hs (.ite hs.fabEnd (.ite hs.putSend (.ite hs (.ite hs.engineWaits (.ite hs.fabEnd hs.sendData.spend.putCommand)))))

theorem Formed.fabPump (hs : Formed s) : Formed s.fabPump := .windowPump (.foldl (fun _ _ ht => ht.fabStep) hs)

theorem Formed.withDest {c : Command} {k : State → Out} (hs : Formed s) (hk : ∀ t, Formed t → FormedOut (k t)) :
    FormedOut (withDest s c k) := .ite (.ite hs.protX (.ite hs.protX (hk _ hs))) (hk _ hs)

theorem Formed.issueFabric {r : XRule} {op : Nat} {f : XF} (hs : Formed s) : FormedOut (issueFabric r op f s) := by
  unfold Machine.issueFabric
  refine Formed.checked hs fun t ht => ?_
  extract_lets
  refine Formed.withWord ht fun u hu => ?_
  refine Formed.withDest hu fun v hv => ?_
  extract_lets s1 ends
  have hs1 : Formed s1 := hv.pin.addCommand
  have hends : ∀ st', FormedOut (ends st') := fun _ => .next hs1.finish.retire
  exact .ite (hends _) (.ite (hends _) (.ite (hends _) (.ite (hends _) (.next hs1.fabStep.retire))))

theorem Formed.issueFatom {r : XRule} {op : Nat} {f : XF} (hs : Formed s) : FormedOut (issueFatom r op f s) := by
  unfold Machine.issueFatom
  refine Formed.checked hs fun t ht => ?_
  extract_lets
  refine Formed.withWord ht fun u hu => ?_
  extract_lets s1 ends
  have hs1 : Formed s1 := hu.pin.addCommand
  have hends : ∀ st', FormedOut (ends st') := fun _ => .next hs1.finish.retire
  exact .ite (hends _) (.ite (hends _) (.ite (hends _) (.next hs1.fabStep.retire)))

/-! ### The scheduler (R149 to R182) -/

theorem Formed.deviceWrite {p va : Nat} {bs : List W8} (hs : Formed s) : Formed (s.deviceWrite p va bs) := by
  unfold State.deviceWrite
  split
  · exact hs.writeAt
  · exact hs.drop

theorem Formed.noteQueue {p q : Nat} (hs : Formed s) : Formed (s.noteQueue p q) := by
  unfold State.noteQueue
  refine .ite hs ?_
  extract_lets
  split
  · exact .ite hs hs.note
  · exact hs

theorem Formed.putRd {p : Nat} {x : QueueDesc} {v : Nat} (hs : Formed s) : Formed (s.putRd p x v) := hs.deviceWrite
theorem Formed.putWr {p : Nat} {x : QueueDesc} {v : Nat} (hs : Formed s) : Formed (s.putWr p x v) := hs.deviceWrite

theorem Formed.putPacketIn {p : Nat} {x : QueueDesc} {pkt : List W8} (hs : Formed s) : Formed (s.putPacketIn p x pkt) :=
    hs.deviceWrite.putWr

theorem Formed.enqueue {p : Nat} {h : W64} {pkt : List W8} (hs : Formed s) : FormedEnq (s.enqueue p h pkt) := by
  unfold State.enqueue
  split
  · exact hs
  · exact .ite hs.noteQueue (.ite hs (.ite hs (.ite trivial hs.putPacketIn)))

theorem Formed.buffer {e : Enqueue} (hs : Formed s) : Formed (s.buffer e) := hs.upd

theorem Formed.tryEnqueue {e : Enqueue} (hs : Formed s) : FormedOpt (s.tryEnqueue e) := by
  unfold State.tryEnqueue
  refine .ite (.ite .none (.some hs.buffer)) ?_
  split
  · rename_i e'
    exact .some (.enqWord (hs.enqueue.get e'))
  · exact .ite .none (.some hs.buffer)

theorem Formed.updNode {n : Nat} {f : Node → Node} (hs : Formed s) : Formed (s.updNode n f) := hs.upd
theorem Formed.countNode {n : Nat} {at_ : Level} {k : Nat} (hs : Formed s) : Formed (s.countNode n at_ k) := hs.updNode
theorem Formed.moveCount {n : Nat} {from_ to_ : Level} (hs : Formed s) : Formed (s.moveCount n from_ to_) := hs.updNode
theorem Formed.notePresplit {node d n : Nat} (hs : Formed s) : Formed (s.notePresplit node d n) := hs.countNode.upd

theorem Formed.enterHalf {i : Instance} (hs : Formed s) : FormedOpt (s.enterHalf i) :=
    .ite (.ite (.some hs.updDie) .none) (.ite (.some hs.updDie) (.ite (.some hs.updDie) (.ite (.some hs.updDie) .none)))

theorem Formed.queueHalf? {i : Instance} (hs : Formed s) : FormedOpt (s.queueHalf? i) :=
    .foldl (fun _ _ ht => .bind ht (fun _ hu => hu.enterHalf)) (.some hs.notePresplit)

theorem Formed.queueHalf {i : Instance} (hs : Formed s) : Formed (s.queueHalf i) := by
  unfold State.queueHalf
  split
  · rename_i e
    exact FormedOpt.get e (FormedOpt.ite hs.queueHalf? .none)
  · exact hs.updDie.note

theorem Formed.exhausts {cause : Exhausted} (hs : Formed s) : Formed (s.exhausts cause) := hs.upd.due
theorem Formed.exhaust {cause : Exhausted} {amount : Nat} (hs : Formed s) : Formed (s.exhaust cause amount) := .ite hs.hold.exhausts hs.trap

/-! ### Task instructions (R353 to R358) -/

theorem Formed.withPacket {v : W64} {k : State → List W8 → Out} (hs : Formed s) (hk : ∀ t y, Formed t → FormedOut (k t y)) :
    FormedOut (withPacket s v k) := hs.withOffset fun _ ht => .ite (.next ht.consume) (hk _ _ ht)

theorem Formed.publish {es : List Enqueue} (hs : Formed s) : FormedOpt (s.publish es) :=
    .foldl (fun _ _ ht => .bind ht (fun _ hu => hu.tryEnqueue)) (.some hs)

theorem Formed.execTenq {f : XF} (hs : Formed s) : FormedOut (execTenq f s) := by
  unfold Machine.execTenq
  refine Formed.checked hs fun t ht => ?_
  extract_lets
  refine Formed.withPacket ht fun u pkt' hu => ?_
  refine Formed.withWord hu fun v hv => ?_
  refine Formed.releasing hv.pin fun w hw => ?_
  extract_lets
  refine .ite (.next hw.enqWord.retire) ?_
  split
  · split
    · split
      · rename_i e'
        exact .next (.retire (hw.tryEnqueue.get e'))
      · exact .next hw.hold
    · refine .ite (.next hw.upd.retire) ?_
      split
      · rename_i e'
        exact .next (.retire (.upd (hw.publish.get e')))
      · exact .next hw.hold
  · split
    · rename_i e
      exact .next (.retire (hw.tryEnqueue.get e))
    · exact .next hw.hold

theorem Formed.execTrenq {f : XF} (hs : Formed s) : FormedOut (execTrenq f s) := by
  unfold Machine.execTrenq
  refine Formed.checked hs fun t ht => ?_
  extract_lets
  refine Formed.withPacket ht fun u pkt' hu => ?_
  refine Formed.withWord hu fun v hv => ?_
  refine Formed.releasing hv.pin fun w hw => ?_
  exact .ite (.next hw.addCommand.finish.retire) (.ite (.next hw.addCommand.finish.retire) (.ite (.next hw.hold)
    (.next hw.addCommand.sendData.spend.retire)))

theorem Formed.execGopen {f : XF} (hs : Formed s) : FormedOut (execGopen f s) := by
  unfold Machine.execGopen
  refine Formed.checked hs fun t ht => ?_
  extract_lets _ s'
  have hs' : Formed s' := ht.pin
  split
  · exact .next hs'.hold
  · rename_i e
    exact .next (.retire (.upd (hs'.publish.get e)))

theorem Formed.execGclose {f : XF} (hs : Formed s) : FormedOut (execGclose f s) := by
  unfold Machine.execGclose
  refine Formed.checked hs fun t ht => ?_
  extract_lets
  refine Formed.withWord ht fun u hu => ?_
  split
  · exact .next hu.hold
  · rename_i e
    extract_lets _ s2
    have hs2 : Formed s2 := .upd (hu.publish.get e)
    split
    · exact .next hs2.enqWord.retire
    · refine .ite (.next hs2.enqWord.retire) ?_
      split
      · rename_i e'
        exact .next (.retire (hs2.tryEnqueue.get e'))
      · exact .next hu.hold

theorem Formed.setTile {die t : Nat} {v : Bool × Bool} (hs : Formed s) : Formed (s.setTile die t v) := hs.upd
theorem Formed.madeTile {die t : Nat} {full : Bool} (hs : Formed s) : Formed (s.madeTile die t full) := .ite hs.upd hs

theorem Formed.execTarg {f : XF} (hs : Formed s) : FormedOut (execTarg f s) :=
    hs.checked fun _ ht => ht.withOne (fun _ _ hu => .ite (.next (.retire (.output hu.draw)))
      (hu.withData (fun _ _ hv => .next hv.output.retire)))

theorem Formed.execRgrow {f : XF} (hs : Formed s) : FormedOut (execRgrow f s) :=
    hs.checked fun _ ht => .ite (.next (.retire (.ite ht.upd.output ht.upd))) (.ite (.next ht.output.retire) (.next ht.exhaust))

theorem Formed.zeroStripe {c k : Nat} (hs : Formed s) : Formed (s.zeroStripe c k) := hs.spWriteAt

theorem Formed.execSpalloc {f : XF} (hs : Formed s) : FormedOut (execSpalloc f s) := by
  unfold Machine.execSpalloc
  refine Formed.checked hs fun t ht => ?_
  extract_lets
  split
  · exact .next (.retire (.output (.updCore (.upd (.foldl (fun _ _ hu => hu.zeroStripe) ht)))))
  · exact .ite (.next ht.output.retire) (.next ht.exhaust)

theorem Formed.execSpfree {f : XF} (hs : Formed s) : FormedOut (execSpfree f s) :=
    hs.checked fun _ ht => .ite ht.protX (.ite ht.misalign (.ite ht.protX (.ite (.next ht.hold) (.next ht.upd.retire))))

theorem Formed.execTsplit {f : XF} (hs : Formed s) : FormedOut (execTsplit f s) := by
  unfold Machine.execTsplit
  refine Formed.checked hs fun t ht => ?_
  extract_lets
  split
  · exact .next ht.output.retire
  · refine .ite (.next ht.output.retire) ?_
    split
    · exact .next ht.hold
    · rename_i e
      exact .next (.retire (.output (.upd (ht.countNode.queueHalf?.get e))))

end Sys2Proof.Machine
end

section
/-! SUPPORT. Events of the device, the host, the supervisor and the fabric keep the form. -/

namespace Sys2Proof.Machine

variable {s : State}

/-! ### Walks, invalidations and keys (R24 to R37) -/

theorem Formed.leafWakes {d part : Nat} {hit : Nat → Bool} {t : TlbEntry} (hs : Formed s) : Formed (s.leafWakes d part hit t) :=
    hs.mapStreams.upd

theorem Formed.relook {part page : Nat} (hs : Formed s) : Formed (s.relook part page) :=
    .upd (.mapStreams (.foldl (fun _ _ ht => ht.miss) hs))

theorem Formed.resumeFabric (hs : Formed s) : Formed s.resumeFabric := .ite hs.fabPump hs
theorem Formed.updMiss {d part page : Nat} {f : Miss → Miss} (hs : Formed s) : Formed (s.updMiss d part page f) := hs.updDie

theorem Formed.execWalkStart {die : BitVec 2} {part : BitVec 4} {page : BitVec 39} (hs : Formed s) :
    FormedOut (execWalkStart die part page s) := by
  unfold Machine.execWalkStart
  extract_lets
  split
  · exact .next hs
  · exact .ite (.next hs) (.next hs.updMiss.due)

theorem Formed.walkLeaf {d : Nat} {m : Miss} {at_ : Nat} {e : W64} {level : Nat} {ns : List WalkNode} (hs : Formed s) :
    Formed (s.walkLeaf d m at_ e level ns) := .resumeFabric (.leafWakes (.upd (.foldl (fun _ _ ht => ht.updCore) hs.writeLeaf.updDie)))

theorem Formed.execWalkComplete {die : BitVec 2} {part : BitVec 4} {page : BitVec 39} (hs : Formed s) :
    FormedOut (execWalkComplete die part page s) := by
  unfold Machine.execWalkComplete
  extract_lets
  split
  · exact .next hs
  · refine .ite (.next hs) ?_
    split
    · exact .next hs.walkLeaf
    · exact .next hs.updMiss.due

theorem Formed.execFaultRecordWrite {die : BitVec 2} {part : BitVec 4} {page : BitVec 39} (hs : Formed s) :
    FormedOut (execFaultRecordWrite die part page s) := by
  unfold Machine.execFaultRecordWrite
  extract_lets
  split
  · exact .next hs
  · extract_lets done
    have hdone : ∀ t, Formed t → Formed (done t) := fun _ ht => ht.updMiss
    split
    · exact .next hs
    · exact .ite (.next hs) (.ite (.next (hdone _ hs)) (.ite (.next hs) (.next (hdone _ hs.writeAt.setReg.upd))))

theorem Formed.dueRecords {d : Nat} (hs : Formed s) : Formed (s.dueRecords d) := .foldl (fun _ _ ht => ht.due) hs
theorem Formed.ringBase {pa lo : Nat} {v : W64} (hs : Formed s) : FormedOpt (s.ringBase pa lo v) := .ite .none (.some hs.setReg)
theorem Formed.ringTail {pa headPa : Nat} {v : W64} (hs : Formed s) : FormedOpt (s.ringTail pa headPa v) := .ite .none (.some hs.setReg)

theorem Formed.orIgnore {pa : Nat} {k : State → State} {r : Option State} (hs : Formed s) (hr : FormedOpt r)
    (hk : ∀ t, Formed t → Formed (k t)) : Formed (s.orIgnore pa k r) := by
  unfold State.orIgnore
  split
  · exact hk _ (hr.get rfl)
  · exact hs.ignore

theorem Formed.execXlrbaseWrite {die : BitVec 2} {v : W64} {sup : Bool} (hs : Formed s) : FormedOut (execXlrbaseWrite die v sup s) :=
    hs.supervised fun _ ht => ht.orIgnore ht.ringBase (fun _ hu => hu.dueRecords)

theorem Formed.execXlrtailWrite {die : BitVec 2} {v : W64} {sup : Bool} (hs : Formed s) : FormedOut (execXlrtailWrite die v sup s) :=
    hs.supervised fun _ ht => ht.orIgnore ht.ringTail (fun _ hu => hu.dueRecords)

theorem Formed.dropMisses {part page : Nat} (hs : Formed s) : Formed (s.dropMisses part page) := .foldl (fun _ _ ht => .ite ht.updDie ht) hs

theorem Formed.respond {act : Nat} {v : W64} {k : State → OpenFault → State} (hs : Formed s) (hk : ∀ t y, Formed t → Formed (k t y)) :
    Formed (s.respond act v k) := by
  unfold State.respond
  refine .ite hs.ignore ?_
  split
  · exact hs.note
  · exact hk _ _ hs.upd.dropMisses

theorem Formed.fix {v : W64} (hs : Formed s) : Formed (s.fix v) := hs.respond fun _ _ ht => .resumeFabric (.relook (.ite ht ht.upd))
theorem Formed.deny {v : W64} (hs : Formed s) : Formed (s.deny v) := hs.respond fun _ _ ht => ht.mapStreams.upd.resumeFabric

theorem Formed.invalidate {v : W64} (hs : Formed s) : Formed (s.invalidate v) := by
  unfold State.invalidate
  extract_lets s0 s1 s2
  have hs0 : Formed s0 := .foldl (fun _ _ ht => .ite ht.updCore ht) hs
  have hs1 : Formed s1 := .foldl (fun _ _ ht => ht.updDie) hs0
  have hs2 : Formed s2 := .foldl (fun _ _ ht => .foldl (fun _ _ hu => hu.due) ht.updDie) hs1
  exact hs2.upd.setReg

theorem Formed.xlinv {v : W64} (hs : Formed s) : Formed (s.xlinv v) := .ite hs.ignore (.ite hs.upd hs.invalidate)

theorem Formed.runXlinv {scope : Nat} {v : W64} {sup : Bool} (hs : Formed s) : FormedOut (runXlinv scope v sup s) :=
    hs.supervised fun _ ht => .ite ht.xlinv ht

theorem Formed.execXlinvDone (hs : Formed s) : FormedOut (execXlinvDone s) := by
  unfold Machine.execXlinvDone
  extract_lets src s1
  have hsrc : Formed src := hs.flushAll
  have hs1 : Formed s1 := hsrc.upd.setReg
  refine .ite (.next hs) ?_
  split
  · exact .next hs1
  · exact .next hs1.upd.invalidate

theorem Formed.writeDescriptor {p off : Nat} {v : W64} (hs : Formed s) : Formed (s.writeDescriptor p off v) := .ite hs.ignore hs.setReg
theorem Formed.keyctl {v : W64} (hs : Formed s) : Formed (s.keyctl v) := .ite hs.ignore (.ite hs.upd.setReg hs.setReg)

theorem Formed.runKey {op : Nat} {v : W64} {sup : Bool} (hs : Formed s) : FormedOut (runKey op v sup s) :=
    hs.supervised fun _ ht => .ite ht.keyctl ht

theorem Formed.keyDone {status : Nat} (hs : Formed s) : Formed (s.keyDone status) := hs.upd.setReg

theorem Formed.loadKey {k p : Nat} {integ : Bool} (hs : Formed s) : Formed (s.loadKey k p integ) := by
  unfold State.loadKey
  split
  · exact .ite hs.setKey.keyDone hs.keyDone
  · exact hs.keyDone

theorem Formed.purgeKey {k : Nat} (hs : Formed s) : Formed (s.purgeKey k) := .dropKey (.foldl (fun _ _ ht => ht.evictOut) hs.flushAll)

theorem Formed.execKeyRequestComplete (hs : Formed s) : FormedOut (execKeyRequestComplete s) := by
  unfold Machine.execKeyRequestComplete
  split
  · exact .next hs
  · extract_lets _ _ s1
    have hs1 : Formed s1 := hs.purgeKey
    refine .ite (.next hs.keyDone) ?_
    split
    · exact .ite (.next hs.keyDone) (.next hs.loadKey)
    · exact .next hs.keyDone
    · exact .next hs.keyDone
    · exact .ite (.next hs1) (.next hs1.setKey.keyDone)
    · exact .next hs.loadKey
    · exact .next hs.keyDone

/-! ### Launching and the coordinator (R149 to R181) -/

theorem Formed.hostError {rule part q : Nat} (hs : Formed s) : Formed (s.hostError rule part q) := hs.note

theorem Formed.execDoorbellWridx {part : BitVec 4} {q : BitVec 10} {v : W64} (hs : Formed s) :
    FormedOut (execDoorbellWridx part q v s) := by
  unfold Machine.execDoorbellWridx
  extract_lets _ no
  have hno : FormedOut no := .next hs.hostError
  refine .ite (.next hs) ?_
  split
  · exact hno
  · exact .ite hno (.ite hno (.next hs.putWr))

theorem Formed.execDoorbellInline {part : BitVec 4} {q : BitVec 10} {pkt : List W8} (hs : Formed s) :
    FormedOut (execDoorbellInline part q pkt s) := by
  unfold Machine.execDoorbellInline
  extract_lets _ no
  have hno : FormedOut no := .next hs.hostError
  refine .ite (.next hs) ?_
  split
  · exact hno
  · exact .ite hno (.next hs.upd.putWr)

theorem Formed.answerRemote {r : Nat × Nat × Nat × Nat} {status : Nat} (hs : Formed s) : Formed (s.answerRemote r status) := hs.sendHeader

theorem Formed.enqDone {e : Enqueue} {status : Nat} (hs : Formed s) : Formed (s.enqDone e status) := by
  unfold State.enqDone
  split
  · exact hs.answerRemote
  · exact hs.enqWord

theorem Formed.drainEnq {before x : List Enqueue} (hs : Formed s) : Formed (s.drainEnq before x) := by
  induction x generalizing s before with
  | nil =>
    unfold State.drainEnq
    exact hs
  | cons a r ih =>
    unfold State.drainEnq
    refine .ite (ih hs) ?_
    split
    · rename_i e
      exact .enqDone (.upd (hs.enqueue.get e))
    · exact ih hs

theorem Formed.settleLaunch {id : Nat} (hs : Formed s) : Formed (s.settleLaunch id) := by
  unfold State.settleLaunch
  extract_lets _ s1
  have hs1 : Formed s1 := hs.upd
  split
  · exact hs
  · exact .ite hs (.ite hs1 hs1.deviceWrite)

theorem Formed.nodeEnds {id status : Nat} (hs : Formed s) : Formed (s.nodeEnds id status) := hs.upd.settleLaunch
theorem Formed.reserveNodes (hs : Formed s) : Formed s.reserveNodes := hs.upd

theorem Formed.acceptItem {a : Admitting} {x : List W64} (hs : Formed s) : Formed (s.acceptItem a x) := by
  induction x generalizing s with
  | nil =>
    unfold State.acceptItem
    exact hs
  | cons a r ih =>
    unfold State.acceptItem
    split
    · exact hs.upd
    · extract_lets
      split
      · exact ih hs.nodeEnds
      · exact ih hs.upd

theorem Formed.consumePacket {p q : Nat} {pkt : List W8} (hs : Formed s) : Formed (s.consumePacket p q pkt) := by
  unfold State.consumePacket
  extract_lets _ _ _ _ start
  have hstart : ∀ l', Formed (start l') := fun _ => hs.upd
  refine .ite (.settleLaunch (hstart _)) ?_
  split
  · exact .settleLaunch (hstart _)
  · exact .acceptItem (hstart _)

theorem Formed.execLaunchPacketConsume {part : BitVec 4} {q : BitVec 10} (hs : Formed s) :
    FormedOut (execLaunchPacketConsume part q s) := by
  unfold Machine.execLaunchPacketConsume
  extract_lets _ s1
  have hs1 : Formed s1 := hs.reserveNodes
  split
  · exact .next hs
  · refine .ite (.next (.ite hs hs.noteQueue)) ?_
    split
    · exact .next hs1.upd.acceptItem
    · refine .ite (.next hs1) ?_
      split
      · exact .next hs1.upd.putRd.consumePacket
      · split
        · exact .next hs1
        · exact .next hs1.putRd.consumePacket

theorem Formed.setDeficit {f : FlowId} {v : Int} (hs : Formed s) : Formed (s.setDeficit f v) := hs.upd

theorem Formed.serveLevel {es : List FlowId} {lvl : Nat} (hs : Formed s) : FormedOptSnd (s.serveLevel es lvl) := by
  unfold State.serveLevel
  extract_lets _ s1 last
  have hs1 : Formed s1 := .ite hs (.foldl (fun _ _ ht => ht.setDeficit) hs)
  cases (ringFrom last es).find? fun f => 0 < s1.deficit f with
  | none => trivial
  | some f => exact hs1.upd

theorem Formed.dropCredit (hs : Formed s) : Formed s.dropCredit := .ite hs hs.upd
theorem Formed.enterPiece {d : Nat} {i : Instance} (hs : Formed s) : Formed (s.enterPiece d i) := .ite hs.updDie hs.queueHalf

theorem Formed.execCoordinatorSelect (hs : Formed s) : FormedOut (execCoordinatorSelect s) := by
  unfold Machine.execCoordinatorSelect
  extract_lets _ levels
  split
  · clear_value levels
    split
    · exact .next hs.dropCredit
    · exact .next hs
  · rename_i e
    split
    · clear_value levels
      split
      · exact .next hs.dropCredit
      · exact .next hs
    · extract_lets _ _ s2
      have hs2 : Formed s2 := .moveCount (.updNode (hs.serveLevel.get e))
      clear_value levels
      split
      · exact .next hs.dropCredit
      · exact .ite (.next hs) (.next (.dropCredit (.foldl (fun _ _ hu => hu.enterPiece) hs2.notePresplit)))

theorem Formed.unreserve {keys : List Nat} (hs : Formed s) : Formed (s.unreserve keys) := .foldl (fun _ _ ht => .ite ht.updCore ht) hs

theorem Formed.admitSpilled {d : Nat} {e : PoolEntry} (hs : Formed s) : Formed (s.admitSpilled d e) :=
    .updDie (FormedFst.foldl (fun _ _ ht => .ite (.mk (.updDie ht)) (.mk ht))
      (.mk (.ite hs.notePresplit.updDie hs.notePresplit.updDie.unreserve)))

theorem Formed.refill {d : Nat} (hs : Formed s) : Formed (s.refill d) := .foldl (fun _ _ ht => .ite ht.admitSpilled ht) hs

theorem Formed.execSpillRefill {die : BitVec 2} (hs : Formed s) : FormedOut (execSpillRefill die s) := by
  unfold Machine.execSpillRefill
  extract_lets _ s1
  have hs1 : Formed s1 := hs.refill
  split
  · split
    · rename_i e
      exact .next (hs1.updDie.queueHalf?.get e)
    · exact .next hs1
  · exact .next hs1

theorem Formed.start {i : Instance} {c : Nat} {ws : List (Nat × Nat)} {b : Nat} (hs : Formed s) : Formed (s.start i c ws b) :=
    .selfInvalidate (.moveCount (.focusIn (.upd (.updCore (.foldl (fun _ _ ht => ht.updCore) (.foldl (fun _ _ ht => ht.zeroStripe) hs))))))

/-! ### Squads, saves and laps (R155 to R198) -/

theorem Formed.updSquad {sid : Nat} {f : Squad → Squad} (hs : Formed s) : Formed (s.updSquad sid f) := hs.mapSquads
theorem Formed.charge {q : Squad} (hs : Formed s) : Formed (s.charge q) := hs.setDeficit.deviceWrite
theorem Formed.countFalseStart {i : Instance} (hs : Formed s) : Formed (s.countFalseStart i) := hs.deviceWrite
theorem Formed.leaveCore {q : Squad} (hs : Formed s) : Formed (s.leaveCore q) := .ite hs hs.updCore
theorem Formed.flushSquad {q : Squad} (hs : Formed s) : Formed (s.flushSquad q) := hs.flushRed.flushThrough

theorem Formed.removeSquad {sid : Nat} (hs : Formed s) : Formed (s.removeSquad sid) :=
    .upd (.foldl (fun _ _ ht => .ite ht.updDie ht) hs.focusIn)

theorem Formed.noteLates {q : Squad} (hs : Formed s) : Formed (s.noteLates q) := .foldl (fun _ _ ht => .ite ht.note ht) hs

theorem Formed.abort {q : Squad} (hs : Formed s) : Formed (s.abort q) :=
    .charge (.removeSquad (.noteLates (.leaveCore (.flushSquad (.foldl (fun _ _ ht => .dropCommand (.ite ht.landSome ht)) hs)))))

theorem Formed.produceTile {die t core : Nat} (hs : Formed s) : Formed (s.produceTile die t core) := hs.setTile.upd

theorem Formed.leaveNode {node : Nat} {at_ : Level} {core : Nat} (hs : Formed s) : Formed (s.leaveNode node at_ core) := by
  unfold State.leaveNode
  extract_lets _ s1
  have hs1 : Formed s1 := hs.upd
  split
  · exact hs
  · exact .ite hs.updNode (.nodeEnds (.ite hs1 (.foldl (fun _ _ hu => hu.produceTile) (.foldl (fun _ _ hu => hu.setTile) hs1))))

theorem Formed.execInstanceEnd {sid : Nat} (hs : Formed s) : FormedOut (execInstanceEnd sid s) := by
  unfold Machine.execInstanceEnd
  split
  · exact .next hs
  · exact .ite (.next hs) (.next hs.flushSquad.leaveCore.removeSquad.charge.leaveNode)

theorem Formed.falseStart {q : Squad} {cause : Exhausted} (hs : Formed s) : Formed (s.falseStart q cause) := by
  unfold State.falseStart
  extract_lets _ s1 s2
  have hs1 : Formed s1 := hs.countNode.abort.countFalseStart.bump
  have hs2 : Formed s2 := hs1.updNode
  split
  · exact hs
  · exact hs2.queueHalf.queueHalf

theorem Formed.kill {q : Squad} (hs : Formed s) : Formed (s.kill q) := hs.updNode.abort.leaveNode

theorem Formed.killWhere {mine : Instance → Bool} (hs : Formed s) : Formed (s.killWhere mine) := by
  unfold State.killWhere
  extract_lets _ mark s1 s2 dropDie s3
  have hmark : ∀ t n', Formed t → Formed (mark t n') := fun _ _ ht => ht.updNode
  have hs1 : Formed s1 := .foldl (fun _ _ ht => hmark _ _ ht) hs
  have hs2 : Formed s2 := .foldl (fun _ _ ht => ht.kill) hs1
  have hdropDie : ∀ t d', Formed t → Formed (dropDie t d') := fun _ _ ht => .ite ht (.refill (.unreserve (.foldl (fun _ _ hu => .leaveNode
    (hmark _ _ hu)) ht.updDie)))
  have hs3 : Formed s3 := .foldl (fun _ _ ht => hdropDie _ _ ht) hs2
  exact .foldl (fun _ _ ht => ht.leaveNode) hs3

theorem Formed.timeOut {q : Squad} (hs : Formed s) : Formed (s.timeOut q) := by
  unfold State.timeOut
  split
  · exact hs
  · exact hs.at fun _ ht => .ite ht.exhausts (.ite ht.upd ht.exhaust.upd)

theorem Formed.execAllowanceExpired {sid : Nat} (hs : Formed s) : FormedOut (execAllowanceExpired sid s) := by
  unfold Machine.execAllowanceExpired
  split
  · exact .next hs
  · exact .ite (.next hs) (.next hs.timeOut)

theorem Formed.execFalseStart {sid : Nat} {cause : Exhausted} (hs : Formed s) : FormedOut (execFalseStart sid cause s) := by
  unfold Machine.execFalseStart
  extract_lets s1
  have hs1 : Formed s1 := hs.updSquad
  split
  · exact .next hs
  · exact .ite (.next hs) (.ite (.next hs1.falseStart) (.ite (.next hs1.timeOut) (.next hs1)))

theorem Formed.dropDecisions {q : Squad} (hs : Formed s) : Formed (s.dropDecisions q) := hs.upd
theorem Formed.save {q : Squad} {place : Place} (hs : Formed s) : Formed (s.save q place) := hs.flushSquad.leaveCore.dropDecisions.updSquad
theorem Formed.noteUnplaced {sid : Nat} (hs : Formed s) : Formed (s.noteUnplaced sid) := .ite hs hs.updSquad.note

theorem Formed.saveNow {q : Squad} (hs : Formed s) : Formed (s.saveNow q) := by
  unfold State.saveNow
  split
  · exact hs.save
  · exact hs.noteUnplaced

theorem Formed.parkSquad {q : Squad} {code : W32} (hs : Formed s) : Formed (s.parkSquad q code) :=
    .ite hs.noteUnplaced.upd (.ite hs.upd (.note (.ite hs.save hs.updSquad)))

theorem Formed.placeSaveArea {d base size : Nat} (hs : Formed s) : Formed (s.placeSaveArea d base size) := .ite hs hs.updDie

theorem Formed.execSquadSave {sid : Nat} {asked : Bool} (hs : Formed s) : FormedOut (execSquadSave sid asked s) := by
  unfold Machine.execSquadSave
  split
  · exact .next hs
  · exact .ite (.ite (.next hs.upd.parkSquad) (.next hs)) (.ite (.next hs.saveNow) (.next hs))

theorem Formed.restore {q : Squad} {c : Nat} {ws : List (Nat × Nat × Nat)} (hs : Formed s) : Formed (s.restore q c ws) :=
    .selfInvalidate (.moveCount (.updSquad (.updCore (.spPoison (.spWrite (.foldl (fun _ _ ht => ht.zeroStripe) hs))))))

theorem Formed.execSquadRestore {sid : Nat} {core : BitVec 8} (hs : Formed s) : FormedOut (execSquadRestore sid core s) := by
  unfold Machine.execSquadRestore
  split
  · exact .next hs
  · refine .ite (.next hs) ?_
    split
    · exact .next hs.restore
    · exact .next hs

theorem Formed.restoreAnywhere {q : Squad} (hs : Formed s) : FormedOpt (s.restoreAnywhere q) :=
    .findSome fun _ => .map (fun _ => hs.restore)

theorem Formed.takeEntry {d : Nat} {e : PoolEntry} (hs : Formed s) : Formed (s.takeEntry d e) := hs.updDie.refill

theorem Formed.restoreLevel {d lvl : Nat} (hs : Formed s) : FormedOpt (s.restoreLevel d lvl) :=
    .ite .none (.findSome (fun _ => hs.restoreAnywhere))

theorem Formed.placeNext {d : Nat} {x : List PoolEntry} (hs : Formed s) : Formed (s.placeNext d x) := by
  induction x generalizing s with
  | nil =>
    unfold State.placeNext
    exact FormedOpt.getD hs.restoreLevel hs
  | cons a r ih =>
    unfold State.placeNext
    split
    · rename_i e
      exact hs.restoreLevel.get e
    · split
      · exact hs.takeEntry.start
      · exact ih hs

theorem Formed.execDispatchAgeReserve {die : BitVec 2} (hs : Formed s) : FormedOut (execDispatchAgeReserve die s) := by
  unfold Machine.execDispatchAgeReserve
  extract_lets
  split
  · exact .next hs
  · extract_lets
    refine .ite (.next hs) ?_
    split
    · exact .next hs.updCore
    · exact .next hs

theorem Formed.swapSaves {p : Nat} (hs : Formed s) : Formed (s.swapSaves p) := .foldl (fun _ _ ht => ht.saveNow) hs
theorem Formed.beginSwap {v : W64} (hs : Formed s) : Formed (s.beginSwap v) := .ite hs.ignore hs.upd.setReg.swapSaves
theorem Formed.swapctl {v : W64} (hs : Formed s) : Formed (s.swapctl v) := .ite hs.ignore (.ite (.ite hs.upd hs.beginSwap) hs.setReg)

theorem Formed.setQueues {p old new : Nat} (hs : Formed s) : Formed (s.setQueues p old new) := by
  unfold State.setQueues
  refine .foldl (fun t a ht => ?_) ?_
  · split
    · refine .ite ?_ ht
      split
      · exact ht.deviceWrite
      · exact ht
    · exact ht
  · exact hs

theorem Formed.nextSwap (hs : Formed s) : Formed s.nextSwap := by
  unfold State.nextSwap
  split
  · exact .ite hs hs.upd.beginSwap
  · exact hs

theorem Formed.execSwapDone (hs : Formed s) : FormedOut (execSwapDone s) := by
  unfold Machine.execSwapDone
  split
  · exact .next hs
  · extract_lets s1 s2 _ s3 _ s4
    have hs1 : Formed s1 := hs.swapSaves
    have hs2 : Formed s2 := hs1.setQueues.setQueues
    have hs3 : Formed s3 := .foldl (fun _ _ ht => FormedOpt.getD ht.restoreAnywhere ht) hs2
    have hs4 : Formed s4 := hs3.upd
    exact .ite (.next hs1) (.next hs4.setReg.nextSwap)

theorem Formed.execStreamExchange {who : StreamId} (hs : Formed s) : FormedOut (execStreamExchange who s) := by
  unfold Machine.execStreamExchange
  split
  · exact .next hs
  · exact .ite (.next hs.exchange) (.next hs)

theorem Formed.wakeStream {who : StreamId} {p : Wait → Bool} {f : State → State} (hs : Formed s) (hf : ∀ t, Formed t → Formed (f t)) :
    Formed (s.wakeStream who p f) :=
    hs.at fun _ ht => .ite (hf _ ht) ht

theorem Formed.resumeAt {w : Wait} {cost : Nat} (hs : Formed s) : Formed (s.resumeAt w cost) := hs.upd

theorem Formed.execBarrierWake {who : StreamId} (hs : Formed s) : FormedOut (execBarrierWake who s) := by
  unfold Machine.execBarrierWake
  refine .next ?_
  refine Formed.at hs fun t ht => ?_
  split
  · split
    · exact .ite ht (.resumeAt (.ite ht.selfInvalidate ht))
    · exact ht
  · exact ht

theorem Formed.execMemoryResponseReturn {who : StreamId} (hs : Formed s) : FormedOut (execMemoryResponseReturn who s) := by
  unfold Machine.execMemoryResponseReturn
  refine .next ?_
  refine Formed.at hs fun t ht => ?_
  split
  · exact ht.upd
  · exact ht

theorem Formed.execPbarComplete {who : StreamId} (hs : Formed s) : FormedOut (execPbarComplete who s) := by
  unfold Machine.execPbarComplete
  refine .next ?_
  refine Formed.at hs fun t ht => ?_
  split
  · exact .ite ht.upd ht
  · exact ht

theorem Formed.rearmNext (hs : Formed s) : Formed s.rearmNext := by
  unfold State.rearmNext
  extract_lets
  split
  · exact hs
  · refine Formed.at hs fun t ht => ?_
    split
    · exact ht.upd
    · exact ht

theorem Formed.rearmAll (hs : Formed s) : Formed s.rearmAll := .foldl (fun _ _ ht => ht.rearmNext) hs

theorem Formed.execTimedActionFire (hs : Formed s) : FormedOut (execTimedActionFire s) :=
    .next (.rearmAll (.mapStreams (.foldl (fun _ _ ht => ht.dropColl.finish) (.upd (.foldl (fun _ _ ht => .ite ht.updCore ht) hs)))))

/-! ### Operating points (R48 to R61) -/

theorem Formed.quarantineCheck {c : Nat} (hs : Formed s) : Formed (s.quarantineCheck c) := .ite hs hs.updCore.note
theorem Formed.clearRows {c p b : Nat} {keep : W64} (hs : Formed s) : Formed (s.clearRows c p b keep) := hs.upd.updCore

theorem Formed.disableWays {p : Nat} (hs : Formed s) : Formed (s.disableWays p) :=
    .foldl (fun _ _ ht => .ite ht ht.updCore) (.foldl (fun _ _ ht => ht.evictOut) hs)

theorem Formed.execRvtWrite {core : BitVec 8} {idx : BitVec 11} {v : W64} {sup : Bool} (hs : Formed s) :
    FormedOut (execRvtWrite core idx v sup s) := hs.supervised fun _ ht => .ite ht.ignore ht.clearRows.quarantineCheck

theorem Formed.execWayViabilityWrite {l2 : Bool} {unit idx : BitVec 8} {v : W64} {sup : Bool} (hs : Formed s) :
    FormedOut (execWayViabilityWrite l2 unit idx v sup s) :=
    .ite (hs.supervised (fun _ ht => .ite ht.ignore ht.updDie.disableWays))
      (hs.supervised (fun _ ht => .ite ht.ignore ht.updCore.disableWays))

theorem Formed.rrtxchg {c : Nat} {v : W64} (hs : Formed s) : Formed (s.rrtxchg c v) := .ite hs.ignore hs.setCore

theorem Formed.runRrt {move : Bool} {core : BitVec 8} {v : W64} {sup : Bool} (hs : Formed s) : FormedOut (runRrt move core v sup s) :=
    hs.supervised fun _ ht => .ite ht.rrtxchg ht

theorem Formed.saveAll {c : Nat} (hs : Formed s) : Formed (s.saveAll c) := .foldl (fun _ _ ht => ht.saveNow) hs
theorem Formed.haltCore {c : Nat} (hs : Formed s) : Formed (s.haltCore c) := hs.updCore.saveAll
theorem Formed.corectl {c : Nat} {v : W64} (hs : Formed s) : Formed (s.corectl c v) := .ite hs.ignore (.ite hs.haltCore hs.updCore)

theorem Formed.runCorectl {halt : Bool} {core : BitVec 8} {v : W64} {sup : Bool} (hs : Formed s) :
    FormedOut (runCorectl halt core v sup s) := hs.supervised fun _ ht => .ite ht.corectl ht

theorem Formed.setPower {f : Power → Power} (hs : Formed s) : Formed (s.setPower f) := hs.upd
theorem Formed.putOpctl {t : Nat} (hs : Formed s) : Formed (s.putOpctl t) := hs.setReg
theorem Formed.beginStep {t : Nat} (hs : Formed s) : Formed (s.beginStep t) := hs.setPower.putOpctl
theorem Formed.requestStep {t : Nat} (hs : Formed s) : Formed (s.requestStep t) := .ite hs.setPower.putOpctl hs.beginStep
theorem Formed.opctl {v : W64} (hs : Formed s) : Formed (s.opctl v) := .ite hs.ignore (.ite hs.putOpctl.requestStep hs.putOpctl)
theorem Formed.planCore {c : Nat} (hs : Formed s) : Formed (s.planCore c) := hs.updCore.setPower
theorem Formed.finishStage {n : Nat} (hs : Formed s) : Formed (s.finishStage n) := hs.setPower
theorem Formed.moveRow {c b k j : Nat} (hs : Formed s) : Formed (s.moveRow c b k j) := hs.setCore.bump
theorem Formed.dispose {q : Squad} (hs : Formed s) : Formed (s.dispose q) := .ite hs.falseStart (.ite hs.saveNow.noteUnplaced hs)

theorem Formed.execOpStepDispose (hs : Formed s) : FormedOut (execOpStepDispose s) :=
    .ite (.next hs) (.next (.ite (.finishStage (.foldl (fun _ _ ht => ht.dispose) hs)) (.foldl (fun _ _ ht => ht.dispose) hs)))

theorem Formed.endStep (hs : Formed s) : Formed s.endStep := by
  unfold State.endStep
  extract_lets _ held s1 s2
  have hs1 : Formed s1 := .foldl (fun _ _ ht => ht.updCore) hs
  have hs2 : Formed s2 := hs1.setPower.putOpctl
  clear_value held
  split
  · exact .ite hs2.nextSwap hs2.beginStep
  · exact hs2.nextSwap

theorem Formed.putCap {v : Nat} (hs : Formed s) : FormedOpt (s.putCap v) := .ite .none (.some hs.setReg)
theorem Formed.pwrcap {v : W64} (hs : Formed s) : Formed (s.pwrcap v) := .ite hs.ignore (FormedOpt.getD hs.putCap hs.ignore)

theorem Formed.execPowerSample {meas : BitVec 16} (hs : Formed s) : FormedOut (execPowerSample meas s) := by
  unfold Machine.execPowerSample
  extract_lets _ _ _ s1 _ put _ _ _ t
  have hs1 : Formed s1 := hs.setReg
  have hput : ∀ l', Formed (put l') := fun _ => hs1.setPower
  have ht : Formed t := hput _
  exact .ite (.ite (.next ht.upd.note) (.next (.requestStep (hput _)))) (.ite (.next (.requestStep (hput _))) (.next (hput _)))

/-! ### Errors and decisions (R367 to R377) -/

theorem Formed.postError {code : Nat} {info : W64} (hs : Formed s) : Formed (s.postError code info) := .ite hs.doubleFault hs.upd

theorem Formed.errpost {v : W64} (hs : Formed s) : Formed (s.errpost v) := by
  unfold State.errpost
  extract_lets
  refine .ite hs.ignore ?_
  split
  · exact hs.note
  · split
    · exact hs.note
    · exact hs.at fun _ ht => ht.postError

theorem Formed.runPost {code : Nat} {v : W64} {sup : Bool} (hs : Formed s) : FormedOut (runPost code v sup s) :=
    hs.supervised fun _ ht => .ite ht.errpost ht

theorem Formed.countFailure {c t : Nat} (hs : Formed s) : Formed (s.countFailure c t) := .ite hs.upd.updCore hs.upd

theorem Formed.execConsumptionRecordWrite {die : BitVec 2} (hs : Formed s) : FormedOut (execConsumptionRecordWrite die s) := by
  unfold Machine.execConsumptionRecordWrite
  extract_lets
  split
  · exact .next hs
  · extract_lets gone
    have hgone : Formed gone := hs.upd
    split
    · exact .next hgone
    · exact .ite (.next hs) (.next (.ite hgone.writeAt.setReg.bump.countFailure hgone.writeAt.setReg.bump))

theorem Formed.execCrbaseWrite {die : BitVec 2} {v : W64} {sup : Bool} (hs : Formed s) : FormedOut (execCrbaseWrite die v sup s) :=
    hs.supervised fun _ ht => ht.orIgnore ht.ringBase (fun _ hu => hu)

theorem Formed.execCrtailWrite {die : BitVec 2} {v : W64} {sup : Bool} (hs : Formed s) : FormedOut (execCrtailWrite die v sup s) :=
    hs.supervised fun _ ht => ht.orIgnore ht.ringTail (fun _ hu => hu)

theorem Formed.goOn {act : Nat} (hs : Formed s) : Formed (s.goOn act) := by
  unfold State.goOn
  split
  · exact hs
  · exact .ite hs.upd.trap hs.upd

theorem Formed.continueWave {q : Squad} {w : Wave} {act : Nat} (hs : Formed s) : Formed (s.continueWave q w act) := by
  unfold State.continueWave
  extract_lets _ s1 s2 s3
  have hs1 : Formed s1 := .ite hs.updCore hs.updImage
  have hs2 : Formed s2 := .foldl (fun _ _ ht => ht.at (fun _ hu => hu.goOn)) hs1
  have hs3 : Formed s3 := hs2.updSquad
  exact .ite hs3.settleMoves hs3

theorem Formed.takeDecision {q : Squad} {w : Wave} {act : Nat} (hs : Formed s) : Formed (s.takeDecision q w act) :=
    .ite hs.kill (.ite hs.continueWave (.ite hs.falseStart (.ite hs.parkSquad.note hs.parkSquad)))

theorem Formed.frzdec {who : W32} {act : Nat} (hs : Formed s) : Formed (s.frzdec who act) := by
  unfold State.frzdec
  split
  · exact hs.ignore
  · exact .ite hs.upd.takeDecision (.ite hs.upd hs.ignore)

theorem Formed.runFrz {act : Nat} {who : W32} {sup : Bool} (hs : Formed s) : FormedOut (runFrz act who sup s) :=
    hs.supervised fun _ ht => ht.frzdec

theorem Formed.release {cl : Nat} (hs : Formed s) : Formed (s.release cl) := by
  unfold State.release
  extract_lets _ _ s1
  have hs1 : Formed s1 := hs.upd
  refine .foldl (fun t a ht => ?_) ?_
  · split
    · split
      · exact .ite ht.takeDecision ht
      · exact ht
    · exact ht
  · exact hs1

theorem Formed.execFrzRelease {who : W32} {sup : Bool} (hs : Formed s) : FormedOut (execFrzRelease who sup s) :=
    hs.supervised fun _ ht => .ite ht.ignore ht.release

theorem Formed.decideDomain {part fdom act : Nat} (hs : Formed s) : Formed (s.decideDomain part fdom act) :=
    .ite hs.upd.killWhere (.ite (.foldl (fun _ _ ht => ht.parkSquad) hs.upd) (.ite hs.upd.mapSquads hs))

theorem Formed.failTarget {c : Nat} {t : Config.ProofTarget} (hs : Formed s) : Formed (s.failTarget c t) := by
  unfold State.failTarget
  extract_lets _ s1
  have hs1 : Formed s1 := by
    dsimp only [s1]
    split
    · exact .requestStep (.quarantineCheck (.foldl (fun _ _ ht => ht.clearRows) hs))
    · exact hs.updCore.disableWays
    · exact hs.updDie.disableWays
    · exact hs.updCore
  exact hs1.bump.note

theorem Formed.execProofKernelResult {core : BitVec 8} {output : List W8} (hs : Formed s) :
    FormedOut (execProofKernelResult core output s) := by
  unfold Machine.execProofKernelResult
  extract_lets _ s1
  have hs1 : Formed s1 := hs.updCore
  split
  · exact .next hs
  · exact .ite (.next hs) (.ite (.next hs1) (.next hs1.failTarget))

theorem Formed.proofConsumption {c : Nat} (hs : Formed s) : Formed (s.proofConsumption c) := by
  unfold State.proofConsumption
  split
  · exact hs
  · exact hs.updCore.failTarget

theorem Formed.tileError {c tile row col : Nat} (hs : Formed s) : Formed (s.tileError c tile row col) := .ite hs hs.updCore

/-! ### Memory controllers (R66, R79 to R84, R89, R90) -/

theorem Formed.countCorrected {pa path : Nat} (hs : Formed s) : Formed (s.countCorrected pa path) :=
    .ite hs.bump.upd.memoryRecord hs.bump.upd

theorem Formed.mediaError {secs : List Nat} {pa path : Nat} (hs : Formed s) : Formed (s.mediaError secs pa path) :=
    hs.poison.memoryRecord.upd

theorem Formed.ecc {symbols : Nat} (hs : Formed s) : FormedSnd (s.ecc symbols) := by
  unfold State.ecc
  split
  · exact .mk hs
  · exact .mk hs
  · exact .mk hs
  · exact .mk hs.upd

theorem Formed.scramble {sec : Nat} (hs : Formed s) : Formed (s.scramble sec) := .of_mem hs.store rfl rfl

theorem Formed.execMemctlSectorRead {pa : W64} {read : SectorRead} {tag : TagResult} {stateBad : Bool} (hs : Formed s) :
    FormedOut (execMemctlSectorRead pa read tag stateBad s) := by
  unfold Machine.execMemctlSectorRead
  extract_lets _ _ _ _ r s'
  have hr : FormedSnd r := hs.ecc
  have hs' : Formed s' := hr
  split
  · exact .next hs
  · refine .ite (.next hs) ?_
    refine .ite (.next hs.mediaError) ?_
    split
    · exact .next hs'.mediaError
    · extract_lets s1 s2 s3
      have hs1 : Formed s1 := .ite hs'.countCorrected hs'
      have hs2 : Formed s2 := .ite hs1.scramble hs1
      have hs3 : Formed s3 := hs2.keyFails
      refine .ite (.next hs2) ?_
      split
      · exact .next hs2
      · exact .next hs2.mediaError
      · exact .next hs3.upd

theorem Formed.execScrubLine {pa : W64} {symbols : Nat} (hs : Formed s) : FormedOut (execScrubLine pa symbols s) := by
  unfold Machine.execScrubLine
  extract_lets
  split
  · exact .next hs
  · extract_lets s0 r s1 src
    have hs0 : Formed s0 := .ite hs.spend hs
    have hr : FormedSnd r := hs0.ecc
    have hs1 : Formed s1 := hr
    have hsrc : Formed src := hs1.memoryRecord
    refine .ite (.next hs) ?_
    split
    · exact .next hs1
    · exact .next hs1.countCorrected
    · exact .ite (.next hsrc.upd) (.next hs1.mediaError)

theorem Formed.scratchError {c word : Nat} {double : Bool} (hs : Formed s) : Formed (s.scratchError c word double) :=
    .ite hs (.ite hs.updCore hs.bump)

theorem Formed.execCxlSnoop {pa : W64} (hs : Formed s) : FormedOut (execCxlSnoop pa s) := by
  unfold Machine.execCxlSnoop
  extract_lets _ s1 s2
  have hs1 : Formed s1 := .foldl (fun _ _ ht => .ite ht.updDie ht) hs
  have hs2 : Formed s2 := .foldl (fun _ _ ht => .ite ht.updCore ht) hs1
  refine .next ?_
  split
  · exact hs2
  · exact hs

theorem Formed.answerHost {r : HostOut} (hs : Formed s) : Formed (s.answerHost r) := hs.upd

theorem Formed.execHostBar2Read {part : BitVec 4} {off : BitVec 39} {n : Nat} {req : BitVec 16} (hs : Formed s) :
    FormedOut (execHostBar2Read part off n req s) := by
  unfold Machine.execHostBar2Read
  extract_lets _ _ _ _ _ s1
  have hs1 : Formed s1 := .touch (.ite hs.spend hs)
  refine .ite (.next hs.answerHost) ?_
  refine .ite (.next hs.answerHost.note) ?_
  exact .ite (.next hs) (.ite (.next hs1.answerHost.memoryRecord) (.ite (.next hs1.keyFails.answerHost) (.next hs1.answerHost)))

theorem Formed.execHostBar2Write {part : BitVec 4} {off : BitVec 39} {bytes : List W8} {req : BitVec 16} (hs : Formed s) :
    FormedOut (execHostBar2Write part off bytes req s) :=
    .ite (.next hs) (.ite (.next hs.note) (.ite (.next hs) (.ite (.next (.keyFails (.ite hs.spend hs)))
      (.next (.writeAt (.ite hs.spend hs))))))

theorem Formed.putCxlWindow {base size : Nat} (hs : Formed s) : Formed (s.putCxlWindow base size) := .ite hs.upd hs

theorem Formed.execHostCxlMemAccess {pa : W64} {write : Option (List W8)} {n : Nat} (hs : Formed s) :
    FormedOut (execHostCxlMemAccess pa write n s) := by
  unfold Machine.execHostCxlMemAccess
  extract_lets _ _ _ _ hold s1
  have hhold : ∀ t, Formed t → Formed (hold t) := fun _ ht => ht.upd
  have hs1 : Formed s1 := hs.touch
  refine .ite (.next hs) ?_
  refine .ite (.next (.ite hs hs.answerHost)) ?_
  split
  · exact .next (hhold _ hs.upd.writeAt)
  · exact .ite (.next hs1.answerHost.memoryRecord) (.ite (.next hs1.answerHost) (.next (hhold _ hs1.answerHost)))

theorem Formed.writeQp {q off : Nat} {v : W64} (hs : Formed s) : Formed (s.writeQp q off v) :=
    .ite hs.ignore (.ite (.ite hs.setReg hs.ignore) (.ite (.ite hs.setReg.setQp hs.setReg) hs.setReg))

/-! ### Captures (R139 to R144) -/

theorem Formed.walkLine {q d j : Nat} (hs : Formed s) : Formed (s.walkLine q d j) := .ite hs.capture.upd hs.capture

theorem Formed.walkUnits {q d : Nat} {first : Bool} {x : List Nat} (hs : Formed s) : Formed (s.walkUnits q d first x) := by
  induction x generalizing s q d first with
  | nil =>
    unfold State.walkUnits
    exact hs
  | cons a r ih =>
    unfold State.walkUnits
    exact .ite (ih hs) (.ite hs (ih (.spend (.foldl (fun _ _ ht => ht.walkLine) hs))))

theorem Formed.setCapture {q : Nat} {f : SnapSet → SnapSet} (hs : Formed s) : Formed (s.setCapture q f) := hs.setSnap.recordCapture
theorem Formed.spoil {q cause : Nat} (hs : Formed s) : Formed (s.spoil q cause) := .ite hs.setSnap hs
theorem Formed.parityFails {q : Nat} (hs : Formed s) : Formed (s.parityFails q) := .ite hs.setSnap (.ite hs.spoil hs)

theorem Formed.execParityUnitSend {set : BitVec 6} {unit : Nat} (hs : Formed s) : FormedOut (execParityUnitSend set unit s) :=
    .ite (.next hs) (.ite (.next hs) (.next (.setSnap (.ite (.foldl (fun _ _ ht => ht.sendData) hs)
      (.spend (.foldl (fun _ _ ht => ht.sendData) hs))))))

theorem Formed.addParity {q cseq member u : Nat} {bs : List W8} (hs : Formed s) : Formed (s.addParity q cseq member u bs) := by
  unfold State.addParity
  extract_lets _ _ _ one s1
  have hone : ∀ isQ' t, Formed t → Formed (one isQ' t) := fun _ _ ht => .ite ht (.ite ht.upd (.foldl (fun _ _ hv => hv.accept) (.of_mem
    ht.upd rfl rfl)))
  have hs1 : Formed s1 := .ite (hone _ _ hs) hs
  exact .ite (hone _ _ hs1) hs1

theorem Formed.writeSnapDesc {q off : Nat} {v : W64} (hs : Formed s) : Formed (s.writeSnapDesc q off v) := .ite hs.ignore hs.setReg

/-! ### Packets (R389 to R398) -/

theorem Formed.spreadFatal {pkg : Nat} (hs : Formed s) : Formed (s.spreadFatal pkg) := .foldl (fun _ _ ht => ht.sendHeader) hs
theorem Formed.rewind {r : Recovery} (hs : Formed s) : Formed (s.rewind r) := .of_mem (.foldl (fun _ _ ht => ht.setReg) hs) rfl rfl

theorem Formed.afterStripe {r : Recovery} {q : Nat} (hs : Formed s) : Formed (s.afterStripe r q) :=
    .ite hs.setCapture (.ite hs.setSnap hs.setSnap)

theorem Formed.postReport {r : Recovery} (hs : Formed s) : Formed (s.postReport r) := by
  unfold State.postReport
  extract_lets say s1 s2 s3 s4 s5
  have hsay : ∀ kind' v' t, Formed t → Formed (say kind' v' t) := fun _ _ _ ht => ht.note
  have hs1 : Formed s1 := .foldl (fun _ _ ht => hsay _ _ _ ht) hs
  have hs2 : Formed s2 := .foldl (fun _ _ ht => hsay _ _ _ ht) hs1
  have hs3 : Formed s3 := .foldl (fun _ _ ht => hsay _ _ _ ht) hs2
  have hs4 : Formed s4 := .foldl (fun _ _ ht => hsay _ _ _ ht) hs3
  have hs5 : Formed s5 := .ite (hsay _ _ _ hs4) hs4
  exact .foldl (fun _ _ hu => hsay _ _ _ hu) hs5

theorem Formed.detect {pkg : Nat} (hs : Formed s) : Formed (s.detect pkg) := by
  unfold State.detect
  refine .ite hs ?_
  split
  · exact hs.upd
  · exact .ite hs (.ite (.upd (.postReport (.ite (.foldl (fun _ _ ht => ht.afterStripe) hs) hs))) hs.rewind.upd)

theorem Formed.ack {p : Packet} {frees coll last : Bool} {status : Nat} (hs : Formed s) : Formed (s.ack p frees coll last status) :=
    hs.sendHeader

theorem Formed.remoteVa {domain va : Nat} {a : Acc} (hs : Formed s) : FormedOptFst (s.remoteVa domain va a) := by
  unfold State.remoteVa
  cases s.partitionOf domain with
  | none => trivial
  | some p =>
    dsimp only [Option.bind_some]
    refine .ite trivial ?_
    split
    · exact .ite hs.writeLeaf trivial
    · trivial

theorem Formed.remotePlaces {domain va n : Nat} {a : Acc} (hs : Formed s) : FormedOptFst (s.remotePlaces domain va n a) := by
  unfold State.remotePlaces
  refine List.foldlRecOn (motive := FormedOptFst) _ _ hs fun r hr i _ => ?_
  cases r with
  | none => trivial
  | some r =>
    have h := Formed.remoteVa (domain := domain) (va := va + i) (a := a) hr
    revert h
    dsimp only [Option.bind_some]
    cases r.1.remoteVa domain (va + i) a with
    | none => exact fun _ => trivial
    | some x => exact fun h => h

theorem Formed.remoteWrite {steps : List (Nat × W16)} {domain va : Nat} {bs : List W8} {bad : List Nat} (hs : Formed s) :
    FormedFst (s.remoteWrite steps domain va bs bad) := by
  unfold State.remoteWrite
  split
  · exact .mk hs
  · rename_i e
    extract_lets
    split
    · exact .mk (.foldl (fun _ _ hu => hu.writeAll) (hs.remotePlaces.get e))
    · exact .mk (.failKeys (hs.remotePlaces.get e))

theorem Formed.peerTouch {ps : List (Nat × TlbEntry)} (hs : Formed s) : Formed (s.peerTouch ps) := .foldl (fun _ _ ht => ht.touch) hs

theorem Formed.remoteRead {domain va n : Nat} (hs : Formed s) : FormedOptFst (s.remoteRead domain va n) := by
  have h := hs.remotePlaces (domain := domain) (va := va) (n := n) (a := .read)
  unfold State.remoteRead
  cases e : s.remotePlaces domain va n .read with
  | none => trivial
  | some r => exact .failKeys (.peerTouch (h.get e))

theorem Formed.remoteAtom {steps : List (Nat × W16)} {p : Packet} (hs : Formed s) : FormedFst (s.remoteAtom steps p) := by
  unfold State.remoteAtom
  extract_lets
  split
  · exact .mk hs
  · rename_i e
    extract_lets _ s2
    have hs2 : Formed s2 := .foldl (fun _ _ hu => hu.flushRed) (hs.remoteVa.get e)
    exact .ite (.mk hs) (.ite (.mk (hs.remoteVa.get e)) (.ite (.mk (.keyFails (hs.remoteVa.get e))) (.mk hs2.writeAt)))

theorem Formed.windowPut {steps : List (Nat × W16)} {p : Packet} (hs : Formed s) : FormedFst (s.windowPut steps p) :=
    .ite (.mk hs) (.mk (.foldl (fun _ _ ht => ht.writeAll) hs))

theorem Formed.windowGet {pa n : Nat} (hs : Formed s) : FormedOptFst (s.windowGet pa n) := .ite hs.touch trivial

theorem Formed.windowLand {opid at_ : Nat} {bs : List W8} {bad : List Nat} (hs : Formed s) : Formed (s.windowLand opid at_ bs bad) := by
  unfold State.windowLand
  split
  · exact hs
  · exact .of_mem hs rfl rfl

theorem Formed.windowAnswer {opid status : Nat} (hs : Formed s) : Formed (s.windowAnswer opid status) := by
  unfold State.windowAnswer
  split
  · exact hs
  · exact .ite hs hs.windowEnds

theorem Formed.updRx {p : Packet} {f : RxFlow → RxFlow} (hs : Formed s) : Formed (s.updRx p f) := hs.putRx
theorem Formed.putPacer {x : Pacer} (hs : Formed s) : Formed (s.putPacer x) := hs.upd
theorem Formed.pacerArrived {p : Packet} (hs : Formed s) : Formed (s.pacerArrived p) := .ite hs.putPacer hs
theorem Formed.recordHole {p : Packet} (hs : Formed s) : Formed (s.recordHole p) := hs.pacerArrived.updRx.putPacer

theorem Formed.answerRead {src domain flow x : Nat} (hs : Formed s) : Formed (s.answerRead src domain flow x) := by
  induction x generalizing s with
  | zero =>
    unfold State.answerRead
    exact hs
  | succ n ih =>
    unfold State.answerRead
    extract_lets
    split
    · exact hs
    · extract_lets
      refine .ite hs ?_
      split
      · exact ih hs.putRx.ack
      · rename_i e
        exact ih (.putRx (.sendData (FormedOptFst.get e (FormedOptFst.ite hs.windowGet hs.remoteRead))))

theorem Formed.answerReads (hs : Formed s) : Formed s.answerReads := .foldl (fun _ _ hu => hu.answerRead) hs

theorem Formed.takeResponse {c : Command} {p : Packet} (hs : Formed s) : FormedPerformed (s.takeResponse c p) :=
    .ite hs (.ite hs.engineWaits hs.engWrite)

theorem Formed.takeAtom {steps : List (Nat × W16)} {p : Packet} (hs : Formed s) : FormedPerformed (s.takeAtom steps p) :=
    .ite hs (.ite hs.remoteAtom (.updRx (.sendData hs.remoteAtom)))

theorem Formed.perform1 {k : PacketKind} {p : Packet} {steps : List (Nat × W16)} (hs : Formed s) :
    FormedPerformed (s.perform1 k p steps) := by
  unfold State.perform1
  extract_lets _ put r
  have hput : ∀ va' bs', FormedPerformed (put va' bs') := fun _ _ => hs.remoteWrite
  have hr : FormedFst r := hs.windowPut
  split
  · exact .ite hr (hput _ _)
  · exact .ite (hput _ _) (.ite hs (hput _ _))
  · exact hs.updRx
  · refine .ite hs.windowLand ?_
    split
    · exact hs
    · exact hs.takeResponse
  · exact hs.takeAtom
  · split
    · exact hs
    · exact hs.deliver.fabEnd
  · refine .ite ?_ (.ite hs.putColl hs.putColl)
    split
    · exact hs.addParity
    · exact hs
  · split
    · exact hs
    · extract_lets
      refine .ite (.ite hs hs.buffer) ?_
      split
      · rename_i e
        exact hs.enqueue.get e
      · exact .ite hs hs.buffer
  · exact hs

theorem Formed.afterPacket {k : PacketKind} {p : Packet} {status : Nat} {later : Bool} (hs : Formed s) :
    Formed (s.afterPacket k p status later) := by
  unfold State.afterPacket
  extract_lets _ _ s1 s2
  have hs1 : Formed s1 := hs.updRx
  have hs2 : Formed s2 := hs1.ack
  refine .ite hs2 ?_
  split
  · exact .ite hs2 hs2.putColl
  · refine .ite hs2.windowEnds ?_
    split
    · exact hs2.fabEnd
    · exact hs2
  · exact hs2

theorem Formed.holdPacket {h : HeldPacket} (hs : Formed s) : Formed (s.holdPacket h) := hs.updRx
theorem Formed.trimHere {p : Packet} (hs : Formed s) : Formed (s.trimHere p) := hs.countTrim.recordHole

theorem Formed.performNow {h : HeldPacket} (hs : Formed s) : Formed (s.performNow h) := by
  unfold State.performNow
  split
  · rename_i e
    exact .holdPacket (hs.perform1.get e)
  · rename_i e
    exact .trimHere (hs.perform1.get e)
  · rename_i e
    exact .answerReads (.afterPacket (hs.perform1.get e))

theorem Formed.drainHeld {p : Packet} {tried : List W32} {x : Nat} (hs : Formed s) : Formed (s.drainHeld p tried x) := by
  induction x generalizing s p tried with
  | zero =>
    unfold State.drainHeld
    exact hs
  | succ n ih =>
    unfold State.drainHeld
    extract_lets
    split
    · exact hs
    · exact ih hs.updRx.performNow

theorem Formed.performHeld (hs : Formed s) : Formed s.performHeld := .foldl (fun _ _ ht => ht.drainHeld) hs

theorem Formed.again {k : PacketKind} {p : Packet} (hs : Formed s) : Formed (s.again k p) := by
  unfold State.again
  extract_lets
  split
  · exact hs.emit.ack
  · exact hs.ack

theorem Formed.arriving {k : PacketKind} {p : Packet} {f : State → State} (hs : Formed s) (hf : ∀ t, Formed t → Formed (f t)) :
    FormedOut (arriving k p s f) := .ite (.next hs.countPort) (.ite (.next hs) (.ite (.next hs.emit) (.next (hf _ hs))))

theorem Formed.trimmedIn {p : Packet} (hs : Formed s) : Formed (s.trimmedIn p) := .ite hs (.ite hs.again hs.recordHole)

theorem Formed.dataIn {k : PacketKind} {p : Packet} (hs : Formed s) : Formed (s.dataIn k p) := by
  unfold State.dataIn
  extract_lets _ _ _ s1
  have hs1 : Formed s1 := hs.pacerArrived
  exact .ite hs.trimmedIn (.ite hs (.ite hs.pacerArrived.again (.ite hs (.ite hs1.performNow.drainHeld.fabPump
    (.ite hs1.trimHere hs1.holdPacket)))))

theorem Formed.recvData {k : PacketKind} {p : Packet} (hs : Formed s) : FormedOut (recvData k p s) := hs.arriving fun _ ht => ht.dataIn

theorem Formed.opEnds {p : Packet} {status : Nat} (hs : Formed s) : Formed (s.opEnds p status) := by
  unfold State.opEnds
  refine .ite hs.windowAnswer ?_
  split
  · exact hs
  · exact .ite hs.freeOp.finish (.ite hs hs.fabEnd)

theorem Formed.execAckPacket {p : Packet} (hs : Formed s) : FormedOut (execAckPacket p s) :=
    hs.arriving fun _ ht => .fabPump (.answerReads (.ite (.opEnds (.ite ht.freePacket ht)) (.ite ht.freePacket ht)))

theorem Formed.execRereqSend {src : W8} (hs : Formed s) : FormedOut (execRereqSend src s) := by
  unfold Machine.execRereqSend
  extract_lets
  split
  · exact .next hs
  · exact .ite (.next hs) (.next hs.putPacer.sendHeader.countPort)

theorem Formed.trimFail {dst domain flow : Nat} {e : PacketKind × Packet} (hs : Formed s) : Formed (s.trimFail dst domain flow e) := by
  unfold State.trimFail
  extract_lets s1
  have hs1 : Formed s1 := hs.countPort
  split
  · refine .ite hs1.windowEnds ?_
    split
    · exact .ite hs1.finish hs1.fabEnd
    · exact hs1
  · refine .ite hs1.windowEnds ?_
    split
    · exact .ite hs1.finish hs1.fabEnd
    · exact hs1
  · refine .ite hs1.windowEnds ?_
    split
    · exact .ite hs1.finish hs1.fabEnd
    · exact hs1
  · refine .ite hs1.windowEnds ?_
    split
    · exact .ite hs1.finish hs1.fabEnd
    · exact hs1
  · refine .ite hs1.windowEnds ?_
    split
    · exact .ite hs1.finish hs1.fabEnd
    · exact hs1
  · split
    · split
      · exact hs1.parityFails
      · exact hs1
    · split
      · exact hs1.collFail
      · exact hs1
  · exact hs1.sendHeader
  · exact hs1.sendHeader
  · exact hs1

theorem Formed.abortFlow {dst domain flow psn : Nat} (hs : Formed s) : Formed (s.abortFlow dst domain flow psn) :=
    .fabPump (.foldl (fun _ _ ht => ht.trimFail) hs.putTx.sendHeader)

theorem Formed.setPaths {dst n : Nat} (hs : Formed s) : Formed (s.setPaths dst n) := .ite hs hs.upd

theorem Formed.retransmit {dst domain flow psn trims : Nat} (hs : Formed s) : Formed (s.retransmit dst domain flow psn trims) := by
  unfold State.retransmit
  extract_lets
  split
  · exact hs
  · exact .ite hs.abortFlow (.ite hs.putTx.emit.countPort hs.putTx.emit.countPort.countPort)

theorem Formed.execFabricRetxTimeout {dst domain flow : W8} {psn : W32} (hs : Formed s) :
    FormedOut (execFabricRetxTimeout dst domain flow psn s) := by
  unfold Machine.execFabricRetxTimeout
  split
  · exact .next hs
  · exact .next hs.retransmit

theorem Formed.forwardTrimmed {p : Packet} (hs : Formed s) : Formed (s.forwardTrimmed p) := .ite hs.trimmedIn hs.emit
theorem Formed.setSources {domain : Nat} {l : List Nat} (hs : Formed s) : Formed (s.setSources domain l) := .ite hs hs.upd
theorem Formed.bindDomain {domain part : Nat} (hs : Formed s) : Formed (s.bindDomain domain part) := hs.upd
theorem Formed.measured {port ticks : Nat} (hs : Formed s) : Formed (s.measured port ticks) := hs.upd

theorem Formed.execTimesyncPacket {p : Packet} (hs : Formed s) : FormedOut (execTimesyncPacket p s) := by
  unfold Machine.execTimesyncPacket
  refine Formed.arriving hs fun t ht => ?_
  split
  · exact .ite ht ht.upd
  · exact ht

/-! ### Die links (R384 to R387) -/

theorem Formed.failModule {m : Nat} (hs : Formed s) : Formed (s.failModule m) := hs.setMod.spreadFatal.note

theorem Formed.countCrc {m : Nat} (hs : Formed s) : Formed (s.countCrc m) :=
    .ite hs.setMod.bump (.ite hs.setMod.bump.failModule hs.setMod.bump.setMod)

theorem Formed.replayFrom {m k : Nat} {n : BitVec 12} (hs : Formed s) : Formed (s.replayFrom m k n) := hs.setLink.setMod
theorem Formed.nak {m k : Nat} {n : BitVec 12} (hs : Formed s) : Formed (s.nak m k n) := hs.setLink.replayFrom
theorem Formed.corrupted {m k : Nat} (hs : Formed s) : Formed (s.corrupted m k) := .ite hs.setLink.countCrc.setLink hs.setLink.countCrc

theorem Formed.execFlitReceive {m : BitVec 6} {fwd : Bool} {f : Flit} (hs : Formed s) : FormedOut (execFlitReceive m fwd f s) := by
  unfold Machine.execFlitReceive
  extract_lets _ _ _ _ _ s1 s2 s3
  have hs1 : Formed s1 := hs.setLink.setLink
  have hs2 : Formed s2 := hs1.setLink
  have hs3 : Formed s3 := hs2.setLink
  exact .ite (.next hs) (.ite (.next hs1.corrupted) (.ite (.next hs1.failModule) (.ite (.next hs3.nak) (.next hs3))))

theorem Formed.execReplayTimeout {m : BitVec 6} {fwd : Bool} (hs : Formed s) : FormedOut (execReplayTimeout m fwd s) := by
  unfold Machine.execReplayTimeout
  extract_lets
  split
  · exact .next hs
  · exact .ite (.next hs) (.next hs.replayFrom)

theorem Formed.execRetrainEnd {m : BitVec 6} (hs : Formed s) : FormedOut (execRetrainEnd m s) := by
  unfold Machine.execRetrainEnd
  extract_lets _ _ s1 turn s2
  have hs1 : Formed s1 := hs.setMod.bump
  have hturn : ∀ t fwd', Formed t → Formed (turn t fwd') := fun _ _ ht => ht.setLink
  have hs2 : Formed s2 := hturn _ _ (hturn _ _ hs1)
  split
  · exact .next hs
  · exact .ite (.next hs) (.next (.ite hs2.setMod hs2))

/-! ### Recovery (R145 to R148) -/

theorem Formed.inRecovery {stage : Nat} {k : Recovery → State} (hs : Formed s) (hk : ∀ x, Formed (k x)) :
    FormedOut (s.inRecovery stage k) := by
  unfold State.inRecovery
  split
  · exact .ite (.next (hk _)) (.next hs)
  · exact .next hs

theorem Formed.toStage {r : Recovery} {n : Nat} (hs : Formed s) : Formed (s.toStage r n) := hs.upd

theorem Formed.markDown {pkg : Nat} (hs : Formed s) : Formed (s.markDown pkg) :=
    .upd (.foldl (fun _ _ ht => .foldl (fun _ _ hu => hu.setMember) ht) hs)

theorem Formed.noSource (hs : Formed s) : Formed s.noSource := .ite hs.upd.note hs
theorem Formed.recoverAgain (hs : Formed s) : Formed s.recoverAgain := .ite hs (.of_mem hs rfl rfl)

theorem Formed.execRecoveryFence (hs : Formed s) : FormedOut (execRecoveryFence s) :=
    hs.recoverAgain.inRecovery fun _ => .toStage (.foldl (fun _ _ ht => ht.setSnap) (.noSource (.foldl (fun _ _ ht => ht.markDown)
      hs.recoverAgain)))

theorem Formed.endWith {lost : List Nat} (hs : Formed s) : Formed (s.endWith lost) := by
  unfold State.endWith
  extract_lets _ _ _ step _ s0 _ s1
  have hstep : ∀ t c', Formed t → Formed (step t c') := fun _ _ ht => .ite ht.putCommand
    (.ite ht.dropColl.finish (.ite ht.fabEnd (.ite ht.finish ht)))
  have hs0 : Formed s0 := hs.upd
  have hs1 : Formed s1 := .foldl (fun _ _ ht => ht.windowEnds) (.foldl (fun _ _ ht => hstep _ _ ht) hs0)
  exact hs1.upd

theorem Formed.rebuildGroup {g : Nat} {lost : List Nat} (hs : Formed s) : FormedFst (s.rebuildGroup g lost) := by
  unfold State.rebuildGroup
  extract_lets _ _ taken s1 _ _ s2 _ _ _ s3
  have hs1 : Formed s1 := by
    dsimp only [s1]
    clear_value taken
    split
    · exact hs.setMember.setReg
    · exact hs
  have hs2 : Formed s2 := .foldl (fun _ _ ht => ht.setMember) hs1
  have hs3 : Formed s3 := .ite hs2.setReg hs2.setReg.setReg
  exact .mk hs3

theorem Formed.execRecoveryTrees (hs : Formed s) : FormedOut (execRecoveryTrees s) := by
  unfold Machine.execRecoveryTrees
  refine Formed.inRecovery hs fun r' => ?_
  extract_lets _ z place
  have hz : FormedFst z := .foldl (fun _ _ ht => .mk (Formed.rebuildGroup ht)) (.mk hs)
  have hplace : ∀ t' q', Formed t' → Formed (place t' q') := by
    intro t' q' ht'
    dsimp only [place]
    split
    · exact .ite ht'.setReg ht'
    · exact ht'
  exact .toStage (.foldl (fun _ _ hu => hplace _ _ hu) hz)

theorem Formed.writeRebuilt {b : Rebuilt} (hs : Formed s) : Formed (s.writeRebuilt b) := by
  unfold State.writeRebuilt
  split
  · extract_lets _ s1 _ s2
    have hs1 : Formed s1 := .of_mem hs rfl rfl
    have hs2 : Formed s2 := hs1.upd
    refine .foldl (fun t a ht => ?_) ?_
    · extract_lets s'
      have hs' : Formed s' := ht.upd
      split
      · exact hs'.accept
      · exact hs'
    · exact hs2
  · exact hs

theorem Formed.adopt {r : Recovery} {units : List StripeUnit} (hs : Formed s) : Formed (s.adopt r units) := by
  unfold State.adopt
  refine .foldl (fun t a ht => ?_) ?_
  · split
    · exact ht.setSnap
    · exact ht
  · exact hs

theorem Formed.execRecoveryRebuild {units : List StripeUnit} (hs : Formed s) : FormedOut (execRecoveryRebuild units s) :=
    hs.inRecovery fun _ => .ite hs.adopt.toStage (.ite hs.adopt (.ite hs.adopt (.toStage (.foldl (fun _ _ ht => ht.writeRebuilt)
      hs.adopt))))

theorem Formed.restripe {r : Recovery} {q : Nat} (hs : Formed s) : FormedFst (s.restripe r q) :=
    .ite (.mk hs.setReg) (.mk hs.setReg.setSnap)

theorem Formed.killRegion {part : Nat} {holder : W64} (hs : Formed s) : Formed (s.killRegion part holder) := hs.killWhere

theorem Formed.restoreRange {q : Nat} (hs : Formed s) : Formed (s.restoreRange q) :=
    .foldl (fun _ _ ht => ht.selfInvalidate) (.foldl (fun _ _ ht => .foldl (fun _ _ hu => hu.snapPut.upd.invalidateL1.setL2.acceptLine) ht)
      hs)

theorem Formed.passMap {p : Nat} {args : W64} {m : List (Nat × Nat × Nat × Nat)} (hs : Formed s) : Formed (s.passMap p args m) :=
    .ite hs (.deviceWrite (.foldl (fun _ _ ht => ht.deviceWrite) hs))

theorem Formed.resumeSet {r : Recovery} {q : Nat} (hs : Formed s) : Formed (s.resumeSet r q) := by
  unfold State.resumeSet
  extract_lets _ _ _ s1 _ _ s2
  have hs1 : Formed s1 := hs.killRegion.restoreRange
  have hs2 : Formed s2 := by
    dsimp only [s2]
    split
    · exact hs1.writeAt
    · exact hs1
  split
  · exact hs2.passMap.consumePacket
  · exact hs2.note

theorem Formed.execRecoveryResume (hs : Formed s) : FormedOut (execRecoveryResume s) :=
    hs.inRecovery fun _ => .ite hs (.foldl (fun _ _ ht => ht.resumeSet) (.toStage (.foldl (fun _ _ ht => ht.afterStripe) hs)))

/-! ### Writes by address (R10, R382) -/

theorem Formed.putReg {pa : Nat} {mask v : W64} (hs : Formed s) : Formed (s.putReg pa mask v) := .ite hs.setReg hs.ignore
theorem Formed.writeLapcfg {pa : Nat} {v : W64} (hs : Formed s) : Formed (s.writeLapcfg pa v) := .ite (.ite hs.ignore hs.setReg) hs.putReg
theorem Formed.writeMemcfg {pa : Nat} {v : W64} (hs : Formed s) : Formed (s.writeMemcfg pa v) := .ite hs.ignore hs.setReg
theorem Formed.writeTrimcfg {pa : Nat} {v : W64} (hs : Formed s) : Formed (s.writeTrimcfg pa v) := .ite hs.ignore hs.setReg
theorem Formed.writeGroup {pa : Nat} {v : W64} (hs : Formed s) : Formed (s.writeGroup pa v) := .ite hs.ignore hs.setReg
theorem Formed.writeMembers {pa : Nat} {v : W64} (hs : Formed s) : Formed (s.writeMembers pa v) := .ite hs.ignore hs.setReg

theorem Formed.writeCoreBlock {c off : Nat} {v : W64} (hs : Formed s) : FormedOut (s.writeCoreBlock c off v) :=
    .ite (.next hs.drop) (.ite hs.execRvtWrite (.ite hs.execWayViabilityWrite (.ite (.next hs.rrtxchg)
      (.ite (.next hs.corectl) (.next hs.drop)))))

theorem Formed.writeDieBlock {d off : Nat} {v : W64} (hs : Formed s) : FormedOut (s.writeDieBlock d off v) := by
  unfold State.writeDieBlock
  extract_lets
  refine .ite hs.execWayViabilityWrite ?_
  refine .ite (.next hs.writeMemcfg) ?_
  exact .ite hs.execXlrbaseWrite (.ite hs.execXlrtailWrite (.ite hs.execCrbaseWrite (.ite hs.execCrtailWrite (.ite (.next hs.putReg) (.next
    hs.drop)))))

theorem Formed.writeMmio {o : Nat} {v : W64} (hs : Formed s) : FormedOut (s.writeMmio o v) := by
  unfold State.writeMmio
  extract_lets
  refine .ite (.next hs.drop) ?_
  refine .ite (.next hs.putReg) ?_
  refine .ite (.ite (.next hs.fix) (.ite (.next hs.deny) (.next hs.ignore))) ?_
  refine .ite (.next hs.xlinv) ?_
  refine .ite (.next hs.opctl) ?_
  refine .ite (.next hs.writeSnapDesc) ?_
  refine .ite (.next hs.writeLapcfg) ?_
  refine .ite (.next hs.swapctl) ?_
  refine .ite (.ite hs.execFrzRelease (.ite (.next hs.frzdec) (.next hs.ignore))) ?_
  refine .ite (.next hs.setReg) ?_
  refine .ite (.next hs.errpost) ?_
  refine .ite (.next hs.writeQp) ?_
  refine .ite (.next hs.writeTrimcfg) ?_
  refine .ite (.next hs.writeGroup) ?_
  refine .ite (.next hs.writeMembers) ?_
  refine .ite (.next hs.pwrcap) ?_
  exact .ite (.next hs.writeDescriptor) (.ite (.next hs.keyctl) (.ite (.next hs.putReg) (.ite hs.writeCoreBlock
    (.ite hs.writeDieBlock (.next hs.drop)))))

/-! ### Services, loss of power and the boot (R96 to R98, R408 to R414) -/

theorem Formed.setAdmin {f : Admin → Admin} (hs : Formed s) : Formed (s.setAdmin f) := hs.upd

theorem Formed.respondBox {fn : Nat} {tag : W16} {status : Nat} {data : List W8} (hs : Formed s) :
    Formed (s.respondBox fn tag status data) := hs.setAdmin

theorem Formed.mailbox {phys rescue : Bool} {fn : BitVec 5} {tag : W16} {args : List W8} {k : State → State × Nat × List W8}
    (hs : Formed s) (hk : ∀ t, Formed t → FormedFst (k t)) : FormedOut (mailbox phys rescue fn tag args s k) :=
    .ite (.next hs) (.ite (.next hs.note) (.ite (.next hs.respondBox) (.ite (.next hs.respondBox) (.next (.respondBox (hk _ hs))))))

theorem Formed.execMailboxGetinfo {fn : BitVec 5} {tag : BitVec 16} {args : List W8} (hs : Formed s) :
    FormedOut (execMailboxGetinfo fn tag args s) := hs.mailbox fun _ ht => .mk ht

theorem Formed.execMailboxAttest {fn : BitVec 5} {tag : BitVec 16} {args : List W8} (hs : Formed s) :
    FormedOut (execMailboxAttest fn tag args s) := hs.mailbox fun _ ht => .ite (.mk ht) (.mk ht)

theorem Formed.execMailboxSetop {fn : BitVec 5} {tag : BitVec 16} {args : List W8} (hs : Formed s) :
    FormedOut (execMailboxSetop fn tag args s) := hs.mailbox fun _ ht => .ite (.mk ht) (.mk ht.setPower.requestStep)

theorem Formed.execMailboxSetcap {fn : BitVec 5} {tag : BitVec 16} {args : List W8} (hs : Formed s) :
    FormedOut (execMailboxSetcap fn tag args s) := by
  unfold Machine.execMailboxSetcap
  refine Formed.mailbox hs fun t ht => ?_
  split
  · rename_i e
    exact .mk (ht.putCap.get e)
  · exact .mk ht.ignore

theorem Formed.execMailboxHist {fn : BitVec 5} {tag : BitVec 16} {args : List W8} (hs : Formed s) :
    FormedOut (execMailboxHist fn tag args s) := hs.mailbox fun _ ht => .ite (.mk ht) (.mk ht)

theorem Formed.execFwstage {fn : BitVec 5} {tag : BitVec 16} {args : List W8} (hs : Formed s) : FormedOut (execFwstage fn tag args s) :=
    hs.mailbox fun _ ht => .mk ht.setAdmin

theorem Formed.execFwcommit {fn : BitVec 5} {tag : BitVec 16} {args : List W8} (hs : Formed s) : FormedOut (execFwcommit fn tag args s) :=
    hs.mailbox fun _ ht => .ite (.mk ht) (.mk ht.setAdmin)

theorem Formed.execProofload {fn : BitVec 5} {tag : BitVec 16} {args : List W8} (hs : Formed s) : FormedOut (execProofload fn tag args s) :=
    hs.mailbox fun _ ht => .ite (.mk ht) (.mk ht.setAdmin)

theorem Formed.applyConfig {l : List (Nat × Nat × W64)} (hs : Formed s) : Formed (s.applyConfig l) :=
    .foldl (fun _ _ ht => ht.writeDescriptor) hs

theorem Formed.execPartcfg {fn : BitVec 5} {tag : BitVec 16} {args : List W8} (hs : Formed s) : FormedOut (execPartcfg fn tag args s) :=
    hs.mailbox fun _ ht => .ite (.mk ht) (.mk ht.applyConfig.setAdmin)

theorem Formed.serve {code : Nat} {die : BitVec 2} {k : SvcCall → State → State × W64} (hs : Formed s)
    (hk : ∀ x t, Formed t → FormedFst (k x t)) : FormedOut (serve code die s k) := by
  unfold Machine.serve
  split
  · exact .next hs
  · exact .ite (.next hs) (.next (.updDie (hk _ _ hs)))

theorem Formed.execSvcHostLog {die : BitVec 2} (hs : Formed s) : FormedOut (execSvcHostLog die s) := by
  unfold Machine.execSvcHostLog
  refine Formed.serve hs fun c' t ht => ?_
  extract_lets
  split
  · exact .mk ht.setAdmin
  · exact .mk ht.upd

theorem Formed.execSvcReply {die : BitVec 2} (hs : Formed s) : FormedOut (execSvcReply die s) := by
  unfold Machine.execSvcReply
  split
  · exact .next hs
  · extract_lets _ s1
    have hs1 : Formed s1 := hs.updDie
    split
    · exact .next hs
    · refine .next ?_
      refine Formed.at hs1 fun t ht => ?_
      split
      · exact ht.writeS.hold
      · exact ht.writeS.upd
      · exact ht

theorem Formed.sense (hs : Formed s) : Formed s.sense := .foldl (fun _ _ ht => .setAdmin ht.draw) hs
theorem Formed.logWear (hs : Formed s) : Formed s.logWear := .foldl (fun _ _ ht => ht.note) hs

theorem Formed.keepPlaces {p : Nat → Bool} (hs : Formed s) : Formed (s.keepPlaces p) := by
  obtain ⟨hm, hd⟩ := formed_iff.1 hs
  exact formed_iff.2 ⟨Tab.wf_keep p hm, Tab.wf_keep p hd⟩

theorem Formed.execHoldupRailsOff (hs : Formed s) : FormedOut (execHoldupRailsOff s) :=
    .ite (.next hs) (.next (.setAdmin (.upd (.keepPlaces (.foldl (fun _ _ ht => ht.updDie)
      (.foldl (fun _ _ ht => ht.updCore) hs.metaFlush))))))

theorem Formed.storeSections (hs : Formed s) : Formed s.storeSections := .foldl (fun _ _ ht => ht.storeRecord) hs

theorem Formed.execFullReset (hs : Formed s) : FormedOut (execFullReset s) := by
  obtain ⟨_, hd⟩ := formed_iff.1 hs.metaFlush
  exact .ite (.next hs) (.next (formed_iff.2 ⟨hd, hd⟩))

theorem Formed.bootStage {n : Nat} {ok : Bool} {k : State → State} (hs : Formed s) (hk : ∀ t, Formed t → Formed (k t)) :
    FormedOut (bootStage n ok s k) := .ite (.next hs) (.ite (.next (.setAdmin (hk _ hs))) (.next hs.setAdmin))

theorem Formed.bootCore {c : Nat} (hs : Formed s) : Formed (s.bootCore c) := hs.setCore.quarantineCheck

theorem Formed.bootSnap {records : List CaptureRec} {suspect : Bool} {confirmed : List Nat} {q : Nat} (hs : Formed s) :
    Formed (s.bootSnap records suspect confirmed q) := .ite hs.setSnap.recordCapture hs.setSnap.publishSnap

theorem Formed.execBootReadRecords {confirmed : List Nat} {ok : Bool} (hs : Formed s) : FormedOut (execBootReadRecords confirmed ok s) :=
    hs.bootStage fun _ ht => .setAdmin (.foldl (fun _ _ hu => hu.storeRecord) (.foldl (fun _ _ hu => hu.bootSnap) ht))

theorem Formed.boxServe {fn : BitVec 5} (hs : Formed s) : FormedOut (s.boxServe fn) := by
  unfold State.boxServe
  extract_lets _ _ _ _ s1
  have hs1 : Formed s1 := hs.setAdmin
  refine .ite (.next hs) ?_
  refine .ite (.next hs1.respondBox) ?_
  split
  · exact hs1.execMailboxGetinfo
  · exact hs1.execMailboxAttest
  · exact hs1.execMailboxSetop
  · exact hs1.execMailboxSetcap
  · exact hs1.execMailboxHist
  · exact hs1.execFwstage
  · exact hs1.execFwcommit
  · exact hs1.execProofload
  · exact hs1.execPartcfg
  · exact .next hs1.respondBox

theorem Formed.bar0Read {fn : BitVec 5} {off : BitVec 20} {n : Nat} (hs : Formed s) : Formed (s.bar0Read fn off n) :=
    .ite hs.answerHost (.ite hs.answerHost hs.answerHost)

theorem Formed.bar0Drop {fn off : Nat} (hs : Formed s) : Formed (s.bar0Drop fn off) := hs.note
theorem Formed.boxWrite {fn o : Nat} {bs : List W8} (hs : Formed s) : Formed (s.boxWrite fn o bs) := .ite hs.bar0Drop hs.setAdmin

theorem Formed.bar0Write {fn : BitVec 5} {off : BitVec 20} {bs : List W8} {split : Bool} (hs : Formed s) :
    FormedOut (s.bar0Write fn off bs split) :=
    .ite (.next hs) (.ite (.next hs.boxWrite) (.ite (.ite hs.execDoorbellWridx (.ite hs.execDoorbellInline (.next hs.hostError)))
      (.next hs.bar0Drop)))

end Sys2Proof.Machine
end

section
/-! SUPPORT. Every instruction and every event, the fetch and the issue, and so every step keep the form. -/

namespace Sys2Proof.Machine

variable {s : State}

/-! ### Scalar instructions -/

theorem Formed.runS {r : SRule} {f : SF} {g : W64 → W64 → W64 → W64} (hs : Formed s) : FormedOut (runS r f s g) :=
    hs.guarded fun _ ht => .next ht.writeS.retire

/-! ### Scalar floats -/

theorem Formed.runSF {r : SRule} {f : SF} {mode : Nat} {g : State → SFRes} (hs : Formed s) : FormedOut (runSF r f s mode g) :=
    hs.guarded fun _ ht => .next (.retire (.ite ht.writeS.orFlags.setLfsr ht.writeS.orFlags))

theorem Formed.runSF2 {r : SRule} {f : SF} {op : Bool → FVal → FVal → FVal × Flags} (hs : Formed s) : FormedOut (runSF2 r f s op) :=
    hs.runSF

theorem Formed.runSFMinMax {big : Bool} {f : SF} (hs : Formed s) : FormedOut (runSFMinMax big f s) := hs.runSF

/-! ### Every instruction and event -/

theorem Formed.exec {i : Instr} (hs : Formed s) : FormedOut (exec i s) := by
  delta Machine.exec
  cases i with
  | sadd => exact hs.runS
  | ssub => exact hs.runS
  | smul => exact hs.runS
  | smulhI => exact hs.runS
  | smulhN => exact hs.runS
  | sdivI => exact hs.runS
  | sdivN => exact hs.runS
  | sremI => exact hs.runS
  | sremN => exact hs.runS
  | sand => exact hs.runS
  | sor => exact hs.runS
  | sxor => exact hs.runS
  | sandn => exact hs.runS
  | sshl => exact hs.runS
  | sshr => exact hs.runS
  | ssra => exact hs.runS
  | srot => exact hs.runS
  | sminI => exact hs.runS
  | sminN => exact hs.runS
  | smaxI => exact hs.runS
  | smaxN => exact hs.runS
  | scmpI => exact hs.runS
  | scmpN => exact hs.runS
  | ssel => exact hs.runS
  | smov => exact hs.runS
  | sli => exact hs.runS
  | sclz => exact hs.runS
  | spopc => exact hs.runS
  | sbfxI => exact hs.runS
  | sbfxN => exact hs.runS
  | sbfi => exact hs.runS
  | saddr => exact hs.runS
  | ssext => exact hs.runS
  | sabs => exact hs.runS
  | sfadd => exact hs.runSF2
  | sfmul => exact hs.runSF2
  | sffma => exact hs.runSF
  | sfdiv => exact hs.runSF2
  | sfsqrt => exact hs.runSF
  | sfmin => exact hs.runSFMinMax
  | sfmax => exact hs.runSFMinMax
  | sfcmp => exact hs.runSF
  | sfcvt => exact hs.runSF
  | bra => exact hs.checked fun _ ht => .ite (ht.transfer (fun _ hu => hu.jump)) (.next ht.retire)
  | brv => exact hs.execBrv
  | jmp => exact hs.checked fun _ ht => ht.transfer (fun _ hu => hu.writeS.jump)
  | jmpv => exact hs.execJmpv
  | call => exact hs.checked fun _ ht => ht.transfer (fun _ hu => hu.writeS.jump)
  | ret => exact hs.checked fun _ ht => ht.transfer (fun _ hu => hu.jump)
  | rjoin => exact hs.execRjoin
  | detach => exact hs.execDetach
  | loop => exact hs.checked fun _ ht => .ite (.next ht.writeS.retire) (ht.transfer (fun _ hu => hu.writeS.jump))
  | exit => exact hs.checked fun _ ht => .next ht.retire.exitLanes.drained
  | tend => exact hs.checked fun _ ht => .next ht.endWave
  | yield => exact hs.execYield
  | nap => exact hs.execNap
  | nop => exact hs.checked fun _ ht => .next ht.retire
  | trap => exact hs.checked fun _ ht => .next ht.trap
  | rte => exact hs.execRte
  | xrd => exact hs.checked fun _ ht => .next ht.writeTracked.retire
  | xwr => exact hs.runX
  | xset => exact hs.runX
  | xclr => exact hs.runX
  | setfmt => exact hs.checked fun _ ht => .next ht.setFmt.retire
  | getfmt => exact hs.checked fun _ ht => .next ht.writeS.retire
  | time => exact hs.checked fun _ ht => .next ht.writeTracked.retire
  | waitt => exact hs.checked fun _ ht => .ite (.next ht.retire) (.ite (.next ht.hold) (.next ht.retire.hold))
  | bkpt => exact hs.checked fun _ ht => .ite (.next ht.retire.upd.note) (.next ht.retire)
  | errack => exact hs.checked fun _ ht => .ite ht.prot (.next ht.upd.writeS.retire)
  | svc => exact hs.checked fun _ ht => .next ht.updDie.retire.hold
  | fencei => exact hs.checked fun _ ht => ht.releasing (fun _ hu => .next hu.updCore.retire.upd)
  | vadd => exact hs.runInts
  | vsub => exact hs.runInts
  | vmul => exact hs.runInts
  | vmulhI => exact hs.runInts
  | vmulhN => exact hs.runInts
  | vmulwI => exact hs.runMulw
  | vmulwN => exact hs.runMulw
  | vmad => exact hs.runInts
  | vand => exact hs.runBits
  | vor => exact hs.runBits
  | vxor => exact hs.runBits
  | vandn => exact hs.runBits
  | vshl => exact hs.runBits
  | vshls => exact hs.runElems
  | vshr => exact hs.runBits
  | vsra => exact hs.runBits
  | vrot => exact hs.runBits
  | vminI => exact hs.runInts
  | vminN => exact hs.runInts
  | vmaxI => exact hs.runInts
  | vmaxN => exact hs.runInts
  | vclampI => exact hs.runInts
  | vclampN => exact hs.runInts
  | vabsdI => exact hs.runInts
  | vabsdN => exact hs.runInts
  | vavgI => exact hs.runInts
  | vavgN => exact hs.runInts
  | vaddsI => exact hs.runInts
  | vaddsN => exact hs.runInts
  | vsubsI => exact hs.runInts
  | vsubsN => exact hs.runInts
  | vdot2I => exact hs.runDot
  | vdot2N => exact hs.runDot
  | vdot4I => exact hs.runDot
  | vdot4N => exact hs.runDot
  | vrshrI => exact hs.runRshr
  | vrshrN => exact hs.runRshr
  | vnarrowI => exact hs.runNarrow
  | vnarrowN => exact hs.runNarrow
  | vwidenI => exact hs.runWiden
  | vwidenN => exact hs.runWiden
  | vclz => exact hs.runBits
  | vpopc => exact hs.runBits
  | vbfxI => exact hs.runBfx
  | vbfxN => exact hs.runBfx
  | vbfi => exact hs.runVec
  | vcmpI => exact hs.runCmp
  | vcmpN => exact hs.runCmp
  | vsel => exact hs.runVec
  | vmov => exact hs.runVec
  | vlut => exact hs.execVlut
  | vfadd => exact hs.runRound2
  | vfsub => exact hs.runRound2
  | vfmul => exact hs.runRound2
  | vfma => exact hs.runRound3
  | vfmin => exact hs.runPick
  | vfminNum => exact hs.runPick
  | vfmax => exact hs.runPick
  | vfmaxNum => exact hs.runPick
  | vfclamp => exact hs.runPick
  | vfamax => exact hs.runPick
  | vfsign => exact hs.runElems
  | vflrp => exact hs.runRound3
  | vfcmp => exact hs.guarded fun _ ht => .next ht.maskResult
  | vfclass => exact hs.runVec
  | vfrcp => exact hs.runFlt
  | vfrsq => exact hs.runFlt
  | vfsqrt => exact hs.runFlt
  | vfdiv => exact hs.runRound2
  | vfexp2 => exact hs.runFaithful
  | vflog2 => exact hs.runFaithful
  | vftanh => exact hs.runFaithful
  | vferf => exact hs.runFaithful
  | vfsigm => exact hs.runFaithful
  | vfsin => exact hs.runFaithful
  | vfcos => exact hs.runFaithful
  | vfrnd => exact hs.runFlt
  | vfscale => exact hs.advanced hs.runVec
  | vfdot2 => exact hs.advanced hs.runVec
  | vfcvtw => exact hs.runVec
  | vfcvtn => exact hs.runNarrowF
  | vfcvts => exact hs.runNarrowF
  | vicvtI => exact hs.runICvt
  | vicvtN => exact hs.runICvt
  | vfcvtiI => exact hs.runFCvti
  | vfcvtiN => exact hs.runFCvti
  | vfpack4 => exact hs.runVec
  | vfunpk4 => exact hs.runVec
  | vadam => exact hs.execVadam
  | mand => exact hs.runMask
  | mor => exact hs.runMask
  | mxor => exact hs.runMask
  | mandn => exact hs.runMask
  | mnot => exact hs.runMask
  | mmov => exact hs.runMask
  | mshift => exact hs.runMask
  | mpopc => exact hs.runCount
  | mfirst => exact hs.runCount
  | mlast => exact hs.runCount
  | mset => exact hs.runMask
  | mget => exact hs.runCount
  | voteAny => exact hs.runVote
  | voteAll => exact hs.runVote
  | voteEq => exact hs.runVote
  | voteBallot => exact hs.runVote
  | shflIdx => exact hs.runMove
  | shflXor => exact hs.runMove
  | vredInt => exact hs.runVred
  | vredFloat => exact hs.runVred
  | vscanInt => exact hs.runScan
  | vscanFloat => exact hs.runScan
  | vbcast => exact hs.runMove
  | vext => exact hs.runVec
  | vins => exact hs.runVec
  | vrev => exact hs.runMove
  | vcompact => exact hs.runVec
  | vragg => exact hs.runVec
  | vldGlobal => exact hs.runVld
  | vldScratch => exact hs.runVld
  | vldCluster => exact hs.runVld
  | vstGlobal => exact hs.runVst
  | vstScratch => exact hs.runVst
  | vstCluster => exact hs.runVst
  | vldb => exact hs.runVld
  | vldx => exact hs.runVld
  | vstx => exact hs.runVst
  | sldGlobal => exact hs.runSld
  | sldParam => exact hs.runSld
  | sst => exact hs.execSst
  | pref => exact hs.execPref
  | cwb => exact hs.guarded fun _ ht => ht.withLanes (fun _ _ hu => .next (.retire (.foldl (fun _ _ hv => hv.cleanLine) hu)))
  | cinv => exact hs.guarded fun _ ht => ht.withLanes (fun _ _ hu => .next (.retire (.foldl (fun _ _ hv => hv.dropCopy) hu)))
  | atomI32 => exact hs.runAtom
  | atomI64 => exact hs.runAtom
  | atomF32 => exact hs.runAtom
  | cas32 => exact hs.runCas
  | cas64 => exact hs.runCas
  | satom => exact hs.guarded fun _ ht => ht.rmw (fun _ _ hu => hu.putOldS)
  | scas => exact hs.guarded fun _ ht => ht.rmw (fun _ _ hu => hu.putOldS)
  | redI32 => exact hs.runRed
  | redI64 => exact hs.runRed
  | redF32 => exact hs.runRed
  | redBf16x2 => exact hs.runRed
  | fence => exact hs.guarded fun _ ht => ht.fenceAt
  | xfence => exact hs.guarded fun _ ht => .ite (.next ht.hold) ht.seenBy.fenceAt
  | bar => exact hs.execBar
  | bara => exact hs.runBar fun _ _ _ _ _ hu => .next (.retire (.track (.writeS hu.arriveAt)))
  | barw => exact hs.execBarw
  | waita32 => exact hs.runWaita
  | waita64 => exact hs.runWaita
  | wakea => exact hs.execWakea
  | pflush => exact hs.execPflush
  | pflushv => exact hs.execPflushv
  | pbar => exact hs.guarded fun _ ht => .ite (.next ht.pin.retire) (.next ht.pin.hold)
  | stepset => exact hs.execStepset
  | snap => exact hs.guarded fun _ ht => .ite (.next ht.pin.putStatus) (.next ht.pin.setSnap.recordCapture.putStatus)
  | pstat => exact hs.guarded fun _ ht => .next ht.writeTracked.retire
  | mmaFp8 => exact hs.issueOp
  | mmaBf16 => exact hs.issueOp
  | mmaF16 => exact hs.issueOp
  | mmaInt8 => exact hs.issueOp
  | mmas => exact hs.issueOp
  | mzero => exact hs.issueOp
  | mld => exact hs.issueOp
  | mst => exact hs.issueOp
  | mstBand => exact hs.issueOp
  | mrd => exact hs.runRow
  | mwr => exact hs.runRow
  | mscl => exact hs.issueOp
  | batonTake => exact hs.checked fun _ ht => .next ht.updCore.retire
  | batonPass => exact hs.checked fun _ ht => .next ht.updCore.retire
  | batonQuery => exact hs.checked fun _ ht => .next ht.output.retire
  | mwait => exact hs.checked fun _ ht => .ite (.next ht.hold) ht.fenceAt
  | macq => exact hs.execMacq
  | mrel => exact hs.checked fun _ ht => .ite (.next ht.hold) (.next ht.updCore.retire)
  | mstep => exact hs.execMstep
  | cpy => exact hs.issueCopy fun _ ht => ht.noBlock
  | cpyf => exact hs.issueCopy fun _ ht => ht.followBlock
  | cpym => exact hs.issueCopy fun _ _ => .ite (.error (fun _ hu => .next hu.addCommand.finish.retire)) .ok
  | cpyat => exact hs.execCpyat
  | cpyz => exact hs.issueCopy fun _ ht => ht.noBlock
  | cpyk => exact hs.issueCopy fun _ ht => ht.noBlock
  | cpyp => exact hs.issueCopy fun _ ht => ht.noBlock
  | cfill => exact hs.issueCopy fun _ ht => ht.noBlock
  | ccnl => exact hs.execCcnl
  | cqry => exact hs.checked fun _ ht => ht.withWord (fun _ hu => .next hu.output.retire)
  | gthrX32 => exact hs.issueGather
  | gthrX64 => exact hs.issueGather
  | sctr => exact hs.issueGather
  | collAllreduce => exact hs.issueColl
  | collReducescatter => exact hs.issueColl
  | collAllgather => exact hs.issueColl
  | collBcast => exact hs.issueColl
  | collat => exact hs.issueColl
  | nvsub => exact hs.execNvsub
  | nvdb => exact hs.checked fun _ ht => ht.withQp (fun _ _ _ hu => .next hu.post.retire)
  | nvcq => exact hs.execNvcq
  | fput => exact hs.issueFabric
  | fputa => exact hs.issueFabric
  | fget => exact hs.issueFabric
  | fatomInt => exact hs.issueFatom
  | fatomF32 => exact hs.issueFatom
  | fcas => exact hs.issueFatom
  | ffence => exact hs.checked fun _ ht => .ite (.next ht.pin.hold) (ht.pin.releasing (fun _ hu => .next hu.retire))
  | tenq => exact hs.execTenq
  | trenq => exact hs.execTrenq
  | tset => exact hs.checked fun _ ht => ht.pin.releasing (fun _ hu => .next hu.setTile.madeTile.retire)
  | tstat => exact hs.checked fun _ ht => .next ht.output.retire
  | twait => exact hs.checked fun _ ht => .ite (.next ht.selfInvalidate.retire) (.next ht.hold)
  | targ => exact hs.execTarg
  | rgrow => exact hs.execRgrow
  | rshrink => exact hs.checked fun _ ht => .ite (.next ht.hold) (.next ht.upd.retire)
  | spalloc => exact hs.execSpalloc
  | spfree => exact hs.execSpfree
  | pin => exact hs.checked fun _ ht => .next ht.pin.retire
  | tsplit => exact hs.execTsplit
  | gopen => exact hs.execGopen
  | gclose => exact hs.execGclose
  | mmioRegisterWrite => exact .ite (.next hs.drop) hs.writeMmio
  | partitionDescriptorWrite => exact hs.supervised fun _ ht => ht.writeDescriptor
  | keyLoad => exact hs.runKey
  | keyErase => exact hs.runKey
  | keyReload => exact hs.runKey
  | xlrbaseWrite => exact hs.execXlrbaseWrite
  | xlrtailWrite => exact hs.execXlrtailWrite
  | faultFix => exact hs.supervised fun _ ht => ht.fix
  | faultDeny => exact hs.supervised fun _ ht => ht.deny
  | xlinvPartition => exact hs.runXlinv
  | xlinvPage => exact hs.runXlinv
  | xlinvPartitionAll => exact hs.runXlinv
  | xlinvKey => exact hs.runXlinv
  | xlinvAll => exact hs.runXlinv
  | xlinvDone => exact hs.execXlinvDone
  | walkStart => exact hs.execWalkStart
  | walkComplete => exact hs.execWalkComplete
  | faultRecordWrite => exact hs.execFaultRecordWrite
  | rrtExchange => exact hs.runRrt
  | rrtExchangeMove => exact hs.runRrt
  | coreHalt => exact hs.runCorectl
  | coreHalted => exact .ite (.next hs) (.ite (.next hs.saveAll.updCore) (.next hs.saveAll))
  | coreRelease => exact hs.runCorectl
  | rvtWrite => exact hs.execRvtWrite
  | wayViabilityWrite => exact hs.execWayViabilityWrite
  | opStepRequest => exact hs.supervised fun _ ht => ht.opctl
  | opStepPlan => exact .ite (.next hs) (.next (.finishStage (.foldl (fun _ _ ht => ht.planCore) hs)))
  | opStepRowMoves => exact .ite (.next hs) (.next (.finishStage (.setPower (.foldl (fun _ _ ht => ht.moveRow) hs))))
  | opStepDispose => exact hs.execOpStepDispose
  | opStepWays => exact .ite (.next hs) (.next hs.finishStage.disableWays)
  | opStepRamp => exact .ite (.next hs) (.next hs.finishStage)
  | opStepCommit => exact .ite (.next hs.endStep) (.next hs)
  | opStepUpRaise => exact .ite (.next hs) (.next (.finishStage (.foldl (fun _ _ ht => ht.updCore) hs)))
  | opStepUpSettled => exact .ite (.next hs.endStep) (.next hs)
  | partitionSwap => exact hs.supervised fun _ ht => ht.swapctl
  | swapDone => exact hs.execSwapDone
  | postRederr => exact hs.runPost
  | postPosted => exact hs.runPost
  | asyncTrapEntry => exact .next (hs.at (fun _ ht => .ite ht.enterPending ht))
  | frzResume => exact hs.runFrz
  | frzReplay => exact hs.runFrz
  | frzKill => exact hs.runFrz
  | frzFalsestart => exact hs.runFrz
  | frzPark => exact hs.runFrz
  | frzRelease => exact hs.execFrzRelease
  | crbaseWrite => exact hs.execCrbaseWrite
  | crtailWrite => exact hs.execCrtailWrite
  | consumptionRecordWrite => exact hs.execConsumptionRecordWrite
  | nvmeQueuePairWrite => exact hs.supervised fun _ ht => ht.writeQp
  | doorbellWridx => exact hs.execDoorbellWridx
  | doorbellInline => exact hs.execDoorbellInline
  | hostBar2Read => exact hs.execHostBar2Read
  | hostBar2Write => exact hs.execHostBar2Write
  | cxlSnoop => exact hs.execCxlSnoop
  | mailboxGetinfo => exact hs.execMailboxGetinfo
  | mailboxAttest => exact hs.execMailboxAttest
  | mailboxSetop => exact hs.execMailboxSetop
  | mailboxSetcap => exact hs.execMailboxSetcap
  | mailboxHist => exact hs.execMailboxHist
  | fwstage => exact hs.execFwstage
  | fwcommit => exact hs.execFwcommit
  | proofload => exact hs.execProofload
  | partcfg => exact hs.execPartcfg
  | svcHostLog => exact hs.execSvcHostLog
  | svcMailboxEvent => exact hs.serve fun _ _ ht => .mk ht.setAdmin
  | svcRequestOp => exact hs.serve fun _ _ ht => .ite (.mk ht) (.mk ht.requestStep)
  | svcReadCounter => exact hs.serve fun _ _ ht => .mk ht
  | svcReply => exact hs.execSvcReply
  | inputPowerLoss => exact .ite (.next hs) (.next (.setAdmin (.upd (.foldl (fun _ _ ht => ht.updCore) hs))))
  | holdupRailsOff => exact hs.execHoldupRailsOff
  | drainRecordWrite => exact .ite (.next hs) (.next (.storeRecord (.foldl (fun _ _ ht => ht.storeRecord) hs.storeSections)))
  | fullReset => exact hs.execFullReset
  | bootVerify => exact hs.bootStage fun _ ht => ht
  | bootReleaseCores => exact hs.bootStage fun _ ht => .foldl (fun _ _ hu => hu.bootCore) ht.setPower
  | bootTrainLinks => exact hs.bootStage fun _ ht => ht.keepPlaces.upd
  | bootReadRecords => exact hs.execBootReadRecords
  | bootTrainPorts => exact hs.bootStage fun _ ht => ht.upd
  | bootCreatePartitions => exact hs.bootStage fun _ ht => ht.applyConfig.setAdmin
  | memctlSectorRead => exact hs.execMemctlSectorRead
  | l2Eviction => exact .next (.ite hs.evictOut hs)
  | owqDrainEntry => exact .ite (.next hs) (.ite (.next hs.updDie) (.next (.drainOldest (.ite hs hs.spend))))
  | scrubLine => exact hs.execScrubLine
  | pbarComplete => exact hs.execPbarComplete
  | lapBoundary => exact .ite (.next hs) (.next (.windowPump (.resumeFabric (.foldl (fun _ _ ht => .ite ht.updDie ht) hs.upd))))
  | timedActionFire => exact hs.execTimedActionFire
  | launchPacketConsume => exact hs.execLaunchPacketConsume
  | enqueueBufferDrain => exact .next hs.drainEnq
  | coordinatorSelect => exact hs.execCoordinatorSelect
  | placeInstance => exact .next hs.placeNext
  | dispatchAgeReserve => exact hs.execDispatchAgeReserve
  | spillRefill => exact hs.execSpillRefill
  | allowanceExpired => exact hs.execAllowanceExpired
  | falseStart => exact hs.execFalseStart
  | instanceEnd => exact hs.execInstanceEnd
  | squadSave => exact hs.execSquadSave
  | squadRestore => exact hs.execSquadRestore
  | streamExchange => exact hs.execStreamExchange
  | batonForcedPass => exact hs.execBatonForcedPass
  | macroOpStep => exact hs.execMacroOpStep
  | cpyfFollowonEnter => exact hs.execCpyfFollowonEnter
  | copyComplete => exact hs.execCopyComplete
  | gatherComplete => exact hs.execGatherComplete
  | collectiveComplete => exact hs.execCollectiveComplete
  | barrierWake => exact hs.execBarrierWake
  | waitaResume => exact .next (hs.wakeStream (fun _ ht => ht.dropWaited.resumeAt))
  | waitaPoll => exact .next (hs.wakeStream (fun _ ht => ht.dropWaited.resumeAt))
  | redCombineFlush => exact .next hs.flushRed
  | contentionWindow => exact .next hs.updDie
  | proofKernelDispatch => exact .ite (.next hs) (.next hs.updCore)
  | proofKernelResult => exact hs.execProofKernelResult
  | captureWalkStart => exact .ite (.next hs) (.next (.ite hs.flushAll.walkUnits.setSnap hs.flushAll.walkUnits))
  | copyOnWrite => exact .next (.foldl (fun _ _ ht => .ite (.foldl (fun _ _ hu => hu.capture) ht) ht) hs)
  | captureDeveloped => exact .ite (.next hs) (.next (.ite hs.setCapture.spoil hs.setCapture))
  | captureFixed => exact .ite (.next hs) (.next hs.setCapture)
  | captureAbort => exact hs.supervised fun _ ht => ht.spoil
  | parityUnitSend => exact hs.execParityUnitSend
  | heartbeatSend => exact .ite (.next hs) (.next (.upd (.foldl (fun _ _ ht => ht.sendHeader) hs)))
  | heartbeatMiss => exact .ite (.next hs) (.next hs.spreadFatal.detect)
  | recoveryDetect => exact .ite (.next hs) (.next hs.spreadFatal.detect)
  | recoveryFence => exact hs.execRecoveryFence
  | recoveryAbort => exact hs.inRecovery fun _ => .toStage (.foldl (fun _ _ ht => ht.setSnap) hs.endWith)
  | recoveryTrees => exact hs.execRecoveryTrees
  | recoveryRebuild => exact hs.execRecoveryRebuild
  | recoveryRestripe => exact hs.inRecovery fun _ => .toStage (FormedFst.foldl (fun _ _ ht => .mk (Formed.restripe ht)) (.mk hs))
  | recoveryResume => exact hs.execRecoveryResume
  | recoveryReport => exact hs.inRecovery fun _ => hs.postReport.upd
  | flitReceive => exact hs.execFlitReceive
  | nakReceive => exact .ite (.next hs) (.next hs.setLink.nak)
  | replayTimeout => exact hs.execReplayTimeout
  | retrainEnd => exact hs.execRetrainEnd
  | switchTrim => exact .ite (.next hs.countPort) (.ite (.next hs) (.next hs.countTrim.enqueueAt))
  | putPacket => exact hs.recvData
  | putaPacket => exact hs.recvData
  | getreqPacket => exact hs.recvData
  | getrspPacket => exact hs.recvData
  | atomPacket => exact hs.recvData
  | atomrspPacket => exact hs.recvData
  | ackPacket => exact hs.execAckPacket
  | collPacket => exact hs.recvData
  | enqPacket => exact hs.recvData
  | rereqPacket => exact hs.arriving fun _ ht => ht.retransmit
  | heartbeatPacket => exact hs.arriving fun _ ht => ht.upd
  | timesyncPacket => exact hs.execTimesyncPacket
  | fatalPacket => exact hs.arriving fun _ ht => .ite ht ht.spreadFatal.detect
  | abortPacket => exact hs.arriving fun _ ht => ht.updRx
  | trimmedHeaderReceive => exact hs.arriving fun _ ht => ht.trimmedIn
  | rereqSend => exact hs.execRereqSend
  | fabricRetxTimeout => exact hs.execFabricRetxTimeout
  | timesyncSend => exact .ite (.next hs) (.next (.upd (.foldl (fun _ _ ht => ht.emitAt) hs)))
  | timesyncLoss => exact .ite (.next hs) (.next hs.upd.note)
  | powerSample => exact hs.execPowerSample
  | telemetryWrite => exact .ite (.next hs) (.next (.foldl (fun _ _ ht => ht.putRecord) hs.logWear.sense.setAdmin))
  | keyRequestComplete => exact hs.execKeyRequestComplete
  | napEnd => exact .next (hs.wakeStream (fun _ ht => ht.resumeAt))
  | memoryResponseReturn => exact hs.execMemoryResponseReturn
  | hostCxlMemAccess => exact hs.execHostCxlMemAccess
  | moduleIdleRetrain => exact .ite (.next hs) (.next hs.setMod)
  | uncorrectableFecCodeword => exact .ite (.next hs.countPort) (.ite (.next hs) (.next hs.countTrim.forwardTrimmed))

/-! ### Fetch (R229) -/

theorem Formed.clearDeny (hs : Formed s) : Formed s.clearDeny := hs.upd

theorem Formed.fetchLine {va : Nat} (hs : Formed s) : FormedFetched (s.fetchLine va) := by
  unfold State.fetchLine
  split
  · exact hs.clearDeny.trap
  · exact hs.park
  · exact hs
  · exact hs.clearDeny.keepTlb

theorem Formed.keepLine {va : Nat} {bytes : List W8} {e : TlbEntry} (hs : Formed s) : Formed (s.keepLine va bytes e) :=
    .upd (.ite hs hs.fillLine.updCore)

theorem Formed.checkLine {va : Nat} {bytes : List W8} (hs : Formed s) : FormedFetched (s.checkLine va bytes) := by
  unfold State.checkLine
  extract_lets
  split
  · exact hs
  · exact .ite hs.consume (.ite hs.keyFails.consume (.ite hs.consume (.ite hs.trap hs.keepLine)))

theorem Formed.badPc (hs : Formed s) : Formed s.badPc := hs.trap

theorem Formed.fetch (hs : Formed s) : FormedFetched s.fetch := by
  unfold State.fetch
  extract_lets _ kept
  refine .ite hs.badPc ?_
  split
  · rename_i e
    clear_value kept
    split
    · exact hs
    · exact hs.fetchLine.get e
  · rename_i e
    clear_value kept
    split
    · exact hs
    · exact .ite (.upd (hs.fetchLine.get e)) (.ite (.doubleFault (hs.fetchLine.get e)) (Formed.checkLine (.upd (hs.fetchLine.get e))))

theorem Formed.putSlot {c quad at_ : Nat} (hs : Formed s) : Formed (s.putSlot c quad at_) := hs.updCore
theorem Formed.takeSlot (hs : Formed s) : Formed s.takeSlot := hs.putSlot
theorem Formed.dueAllowances (hs : Formed s) : Formed s.dueAllowances := .ite hs (.mapSquads (.foldl (fun _ _ ht => ht.due) hs))
theorem Formed.ageCore {n c : Nat} (hs : Formed s) : Formed (s.ageCore n c) := .ite (.spend (.ite hs.updCore hs)) (.ite hs.updCore hs)

theorem Formed.tick {n : Nat} (hs : Formed s) : Formed (s.tick n) := by
  unfold State.tick
  extract_lets _ s1 s2 s3
  have hs1 : Formed s1 := hs.upd
  have hs2 : Formed s2 := .foldl (fun _ _ ht => ht.ageCore) hs1
  have hs3 : Formed s3 := hs2.mapSquads.dueAllowances
  exact .ite hs3 hs3.due

/-! ### Issue (R186, R187, R230) -/

theorem Formed.spaced {two : Bool} {o : Out} (_hs : Formed s) (ho : FormedOut o) : FormedOut (s.spaced two o) := by
  unfold State.spaced
  split
  · exact .ite (.next (.ite (.upd (.putSlot (ho.get rfl))) (.putSlot (ho.get rfl)))) ho
  · exact ho

theorem Formed.performSlot {w : Nat × Option Ext} (hs : Formed s) : FormedOut (s.performSlot w) := by
  unfold State.performSlot
  split
  · exact hs.spaced hs.exec
  · exact hs.illop

theorem FormedOut.outState {o : Out} (ho : FormedOut o) (hs : Formed s) : Formed (outState o s) := by
  unfold Machine.outState
  split
  · exact ho.get rfl
  · exact hs

theorem Formed.atPc {pc : W64} (hs : Formed s) : Formed (s.atPc pc) := hs.upd

theorem Formed.performBoth {v o : Instr} {vpc opc pc : W64} (hs : Formed s) : FormedOut (s.performBoth v o vpc opc pc) := by
  unfold State.performBoth
  extract_lets _ unflagged s1 _ _ back
  have hunflagged : Formed unflagged := hs.upd
  have hs1 : Formed s1 := FormedOut.outState hunflagged.atPc.exec hs
  have hback : Formed back := hs1.upd
  split
  · rename_i e
    exact .ite (.next (.upd (hback.exec.get e))) (.next (.upd (hback.exec.get e)))
  · exact hback.exec

theorem Formed.performPair {a b : Nat × Option Ext} (hs : Formed s) : FormedOut (s.performPair a b) := by
  unfold State.performPair
  extract_lets
  split
  · exact hs.illop
  · exact hs.atPc.illop
  · extract_lets ta tb
    have hta : Formed ta := FormedOut.outState hs.exec hs
    have htb : Formed tb := FormedOut.outState hs.atPc.exec hs
    refine .ite hs.illop ?_
    exact .ite (.next hta) (.ite (.next (.ite htb.atPc htb)) (.ite (.next hta.atPc) (.ite (.next htb.atPc) (hs.spaced (.ite hs.performBoth
      hs.performBoth)))))

theorem Formed.issue (hs : Formed s) : FormedOut s.issue := by
  unfold State.issue
  refine .ite (.next hs.enterPending) ?_
  refine .ite (.next hs.afterOvertime) ?_
  split
  · rename_i e
    exact .next (hs.fetch.get e)
  · rename_i e
    exact .ite (Formed.performPair (.upd (hs.fetch.get e))) (Formed.performSlot (.upd (hs.fetch.get e)))

theorem Formed.slotKept {o : Out} (_hs : Formed s) (ho : FormedOut o) : FormedOut (s.slotKept o) := by
  unfold State.slotKept
  split
  · exact .ite (.next (.putSlot (ho.get rfl))) ho
  · exact ho

theorem Formed.retried {o : Out} (hs : Formed s) (ho : FormedOut o) : FormedOut (s.retried o) := by
  unfold State.retried
  split
  · exact .ite ho (.next hs.upd)
  · exact ho

theorem Formed.takeTurn (hs : Formed s) : FormedOut s.takeTurn := by
  unfold State.takeTurn
  refine .ite (.next hs) ?_
  refine .ite (.next (.ite hs.upd hs)) ?_
  split
  · exact .ite (hs.slotKept hs.takeSlot.issue) (.next hs)
  · exact .ite (hs.slotKept hs.takeSlot.issue) (hs.retried hs.issue)
  · exact .next (.ite hs.drained hs)
  · exact .next hs

theorem Formed.grantsKept {o : Out} (_hs : Formed s) (ho : FormedOut o) : FormedOut (s.grantsKept o) := by
  unfold State.grantsKept
  split
  · exact .ite ho (.next (.dropGrants (ho.get rfl)))
  · exact ho

theorem Formed.performGranted {before : List StreamId} (hs : Formed s) : FormedOut (s.performGranted before) := by
  unfold State.performGranted
  split
  · exact .next hs
  · exact .ite (hs.focus.grantsKept hs.focus.issue) (.next hs)

theorem FormedOut.calm {x : Out} (hx : FormedOut x) : FormedOut (calm x) := by
  unfold Machine.calm
  split
  · exact .next (.upd (hx.get rfl))
  · exact hx

theorem Formed.waitsForOwq {w : Waiter} {dies : List Nat} (hs : Formed s) : Formed (s.waitsForOwq w dies) := hs.upd

theorem Formed.owqGate {w : Waiter} {o : Out} (hs : Formed s) (ho : FormedOut o) : FormedOut (s.owqGate w o) := by
  unfold State.owqGate
  split
  · extract_lets held
    have hheld : Formed held := hs.waitsForOwq
    refine .ite (.next (.upd (ho.get rfl))) ?_
    refine .next ?_
    split
    · exact .ite hheld.hold hheld
    · exact hheld
  · exact ho

theorem Formed.tidy (hs : Formed s) : Formed s.tidy := hs.reserveNodes.dropCredit

theorem FormedOut.tidied {x : Out} (hx : FormedOut x) : FormedOut (tidied x) := by
  unfold Machine.tidied
  split
  · exact .next (.tidy (hx.get rfl))
  · exact hx

theorem Formed.carryKills (hs : Formed s) : Formed s.carryKills := by
  unfold State.carryKills
  split
  · exact hs
  · exact .ite hs.upd.killWhere hs

theorem Formed.runEvent {i : Instr} (hs : Formed s) : FormedOut (s.runEvent i) := by
  unfold State.runEvent
  refine .ite (.next hs) ?_
  split
  · exact hs.exec
  · exact .next hs

theorem Formed.deviceTurn {t : Turn} (hs : Formed s) : FormedOut (s.deviceTurn t) := by
  unfold State.deviceTurn
  split
  · refine Formed.owqGate hs ?_
    refine .next ?_
    split
    · exact hs.updCore
    · exact hs.updCore.landThrough
  · exact .next hs.tileError
  · exact .next hs.proofConsumption
  · exact .next hs.putCxlWindow
  · exact .next hs.bar0Read
  · exact hs.owqGate hs.bar0Write
  · exact hs.owqGate hs.boxServe
  · exact .next hs.portSend
  · exact .next hs.portCredit
  · split
    · exact hs.owqGate hs.runEvent
    · exact .next hs
  · exact hs.owqGate (.next hs.performHeld)
  · exact .next hs.setPaths
  · exact .next hs.setSources
  · exact .next hs.bindDomain
  · exact .next hs.measured
  · exact .next hs
  · exact .next hs
  · exact .next hs
  · exact .next hs
  · exact .next hs

theorem Formed.runTurn {t : Turn} (hs : Formed s) : FormedOut (s.runTurn t) := by
  unfold State.runTurn
  split
  · refine Formed.owqGate hs ?_
    split
    · rename_i e
      exact Formed.performGranted (hs.runEvent.get e)
    · exact hs.runEvent
  · extract_lets s1 _ s2 s3
    have hs1 : Formed s1 := hs.focus
    have hs2 : Formed s2 := .ite hs1 hs1.tick
    have hs3 : Formed s3 := hs2.upd
    exact .ite .fault (hs2.owqGate (.calm (hs3.grantsKept hs3.takeTurn)))
  · exact .next hs.scratchError
  · exact .next hs.placeSaveArea
  · exact hs.owqGate (.next hs.decideDomain)
  · exact .ite (.next hs) hs.deviceTurn

theorem Formed.before {t : Turn} (hs : Formed s) : Formed (s.before t) := by
  unfold State.before
  split
  · exact hs.focus
  · exact hs

theorem Formed.firstChange {x : List Turn} (hs : Formed s) : FormedOpt (s.firstChange x) := by
  induction x generalizing s with
  | nil =>
    unfold State.firstChange
    exact .none
  | cons a r ih =>
    unfold State.firstChange
    split
    · rename_i e
      exact .ite (ih hs) (.some (hs.runTurn.get e))
    · exact ih hs

theorem Formed.defaultTurn (hs : Formed s) : FormedOut s.defaultTurn := by
  unfold State.defaultTurn
  refine .ite (hs.owqGate (.calm (hs.grantsKept hs.takeTurn))) ?_
  split
  · exact hs.upd.runTurn
  · split
    · exact hs.runEvent
    · split
      · exact hs.runTurn
      · split
        · rename_i e
          exact .next (hs.firstChange.get e)
        · exact .next hs.tick

/-! ### A step -/

theorem Formed.step (hs : Formed s) : FormedOut (step s) := by
  unfold Machine.step
  extract_lets s1
  have hs1 : Formed s1 := hs.carryKills
  refine FormedOut.tidied ?_
  split
  · exact hs1.defaultTurn
  · exact hs1.upd.runTurn

end Sys2Proof.Machine
end

section
/-! SUPPORT. Every step keeps the canonical form (R15). -/

namespace Sys2Proof

/-- Settles O54: each operation of the model hands the form on, from the tables' writes up to the step. -/
theorem everyStepKeepsMemoryForm : Obligations.EveryStepKeepsMemoryForm :=
  fun _ _ hs e => (Machine.Formed.step hs).get e

end Sys2Proof
end

section
/-! SUPPORT. A write under the key of the blocks that it meets (R15, R77): no sector is read or stored under another key, so that memory
changes by the written bytes alone. -/

namespace Sys2Proof.Machine

/-! ### Consecutive bytes -/

/-- Bytes written in turn from an address on. -/
theorem get0_putAll_zipIdx (m : Tab W8) (pa k a : Nat) (bs : List W8) :
    (Tab.putAll m (fun _ => 0) ((bs.zipIdx k).map fun e => (pa + e.2, e.1))).get0 a =
      if pa + k ≤ a ∧ a < pa + k + bs.length then bs.getD (a - (pa + k)) 0 else m.get0 a := by
  induction bs generalizing m k with
  | nil => simp [Tab.putAll, show ¬(pa + k ≤ a ∧ a < pa + k) by omega]
  | cons b bs ih =>
    rw [List.zipIdx_cons, List.map_cons, Tab.putAll, ih, ← Tab.put0, Tab.get0_put0, List.length_cons]
    obtain hbefore | rfl | hafter := Nat.lt_trichotomy a (pa + k)
    · simp [show ¬(pa + (k + 1) ≤ a) by omega, show ¬(pa + k ≤ a) by omega, show a ≠ pa + k by omega]
    · simp
    · have hnext : a - (pa + k) = a - (pa + (k + 1)) + 1 := by omega
      simp only [hnext, List.getD_cons_succ, show a ≠ pa + k by omega, if_false]
      congr 1
      simp only [eq_iff_iff]
      omega

theorem leNat_leBytes (n v : Nat) : leNat (leBytes n v) = v % 256 ^ n := by
  induction n generalizing v with
  | zero => simp [leBytes, leNat, Nat.mod_one]
  | succ n ih =>
    rw [leBytes, leNat, ih, BitVec.toNat_ofNat, Nat.pow_succ' (m := 256)]
    exact Nat.mod_mul.symm

theorem mem_of_mem_distinct {x : Nat} {l : List Nat} (h : x ∈ distinct l) : x ∈ l := by
  refine List.foldlRecOn (motive := fun a => ∀ y ∈ a, y ∈ l) l _ (by simp) (fun a ha b hb y hy => ?_) x h
  split at hy
  · exact ha y hy
  · obtain hy | hy := List.mem_append.1 hy
    · exact ha y hy
    · exact (List.mem_singleton.1 hy) ▸ hb

/-! ### Blocks that stay under a key -/

/-- Memory is `m`, every dirty line's block is under its key, and so are the blocks of the addresses `pas` under `key`. -/
def HeldUnder (m : Tab W8) (key : Nat) (pas : List Nat) (s : State) : Prop :=
  s.mem = m ∧ s.oneKey ∧ ∀ a ∈ pas, ∀ x, x / 4 = a / 256 → s.secMaterial x = s.material key

section
variable {m : Tab W8} {key : Nat} {pas : List Nat} {s t : State}

theorem HeldUnder.calm (h : HeldUnder m key pas s) (c : Calm s t) : HeldUnder m key pas t := by
  obtain ⟨hmem, hone, hkey⟩ := h
  obtain ⟨⟨hmem', hsec, hkeys, -⟩, -⟩ := id c
  refine ⟨hmem'.trans hmem, c.oneKey hone, fun a ha x hx => ?_⟩
  simpa only [State.secMaterial, State.material, State.key, hsec, hkeys] using hkey a ha x hx

theorem HeldUnder.put (h : HeldUnder m key pas s) (m' : Tab W8) : HeldUnder m' key pas { s with mem := m' } := ⟨rfl, h.2⟩

theorem HeldUnder.ite {c : Prop} {_ : Decidable c} (h : HeldUnder m key pas s) (g : HeldUnder m key pas t) :
    HeldUnder m key pas (if c then s else t) := by
  split
  · exact h
  · exact g

/-- A sector of these blocks is under the key already, and stays as it is. -/
theorem HeldUnder.rekey_eq {a x : Nat} (h : HeldUnder m key pas s) (ha : a ∈ pas) (hx : x / 4 = a / 256) : s.rekey key x = s :=
  rekey_own (h.2.2 a ha x hx)

/-- A line of these blocks becomes dirty under their key. -/
theorem HeldUnder.setL2 {a line : Nat} {v : L2Line} (h : HeldUnder m key pas s) (ha : a ∈ pas) (hline : line = lineOf a) (hv : v.key = key) :
    HeldUnder m key pas (s.setL2 line v) := by
  obtain ⟨hmem, hone, hkey⟩ := h
  refine ⟨hmem, fun l hdirty x hx => ?_, hkey⟩
  have hread : (s.setL2 line v).l2Line l = if l = line then v else s.l2Line l := by
    simp [State.l2Line, State.setL2, Tab.getD_put]
  rw [hread] at hdirty ⊢
  split at hdirty
  next heq =>
    rw [if_pos heq, hv]
    exact hkey a ha x (by unfold lineOf at hline; omega)
  next hne =>
    rw [if_neg hne]
    exact hone l hdirty x hx

/-- The books of a write change no byte. -/
theorem HeldUnder.bookLine {u : Under} {ws : List (Nat × W8)} {a line : Nat} (h : HeldUnder m u.key pas s) (ha : a ∈ pas)
    (hline : line = lineOf a) : HeldUnder m u.key pas (s.bookLine u ws line) := by
  have htagged : HeldUnder m u.key pas (if u.p then { s with tags := s.tags.put0 line u.tag } else s) := .ite h h
  have hcopies := htagged.calm (calm_invalidateL1 _ line u.core)
  unfold State.bookLine
  split
  · exact h
  · refine .ite (.setL2 (hcopies.calm (calm_l2Use _ _ _ _ _ _ _ hcopies.2.1)) ha hline rfl) (.ite (hcopies.calm (stacks_accept ..).calm) ?_)
    have hdirty := hcopies.setL2 (v := { ((if u.p then { s with tags := s.tags.put0 line u.tag } else s).invalidateL1 line u.core).l2Line line with
      dirty := true, c := u.c, p := false, key := u.key }) ha hline rfl
    exact hdirty.calm (calm_writeBack _ line (hdirty.2.1 line (by simp [State.l2Line, State.setL2, Tab.getD_put])))

/-! ### Writes -/

theorem calm_dropLags (s : State) (p : Lag → Bool) : Calm s (s.dropLags p) :=
  .foldl _ (fun t e => by
    split
    · exact calm_updCore ..
    · exact .refl t) _ s

theorem calm_backInvalidate (s : State) (lines : List Nat) : Calm s (s.backInvalidate lines) := by
  unfold State.backInvalidate
  split
  · exact .refl s
  · dsimp only
    split
    · exact .refl s
    · exact calm_of_l2 (.refl s) rfl

theorem calm_updCopies (s : State) (core : Nat) (ws : List (Nat × W8)) : Calm s (s.updCopies core ws) := by
  refine calm_of_l2 (quiet_updCopies ..) ?_
  unfold State.updCopies
  dsimp only
  split <;> split <;> rfl

/-- Where no set's capture runs, no line is copied. -/
theorem cow_eq_self {line : Nat} {tag : W16} (h : ∀ e ∈ s.snaps, e.2.state ≠ 1) : s.cow line tag = s := by
  have hsets : s.cowSets line tag = [] := List.flatMap_eq_nil_iff.2 fun e he => if_pos (h e he)
  rw [State.cow, hsets, List.foldl_nil]

theorem foldl_cow_eq_self {lines : List Nat} {tag : W16} (h : ∀ e ∈ s.snaps, e.2.state ≠ 1) :
    lines.foldl (fun s l => s.cow l tag) s = s :=
  List.foldlRecOn (motive := (· = s)) lines _ rfl fun t ht _ _ => by rw [ht, cow_eq_self h]

/-- A write under the key of its blocks leaves memory with its bytes written in turn. -/
theorem mem_writeAll {u : Under} {ws : List (Nat × W8)} {hurt : List Nat} (hsnaps : ∀ e ∈ s.snaps, e.2.state ≠ 1)
    (h : HeldUnder s.mem u.key (ws.map (·.1)) s) : (s.writeAll u ws hurt).mem = Tab.putAll s.mem (fun _ => 0) ws := by
  unfold State.writeAll
  extract_lets pas sa secs lines sb s0 s1 under s2 s3 whole s4 s5 s6
  have hline {l : Nat} (hl : l ∈ lines) : ∃ a ∈ pas, l = lineOf a := by
    obtain ⟨a, ha, hla⟩ := List.mem_map.1 (mem_of_mem_distinct hl)
    exact ⟨a, ha, hla.symm⟩
  have hsec {x : Nat} (hx : x ∈ under) : ∃ a ∈ pas, x / 4 = a / 256 := by
    have hcases : x ∈ secs ∨ ∃ l ∈ lines, x = 2 * l ∨ x = 2 * l + 1 := by
      simp only [under] at hx
      split at hx
      · exact .inr (by simpa using (List.mem_filter.1 hx).1)
      · exact .inl hx
    obtain hx | ⟨l, hl, hx⟩ := hcases
    · obtain ⟨a, ha, hxa⟩ := List.mem_map.1 (mem_of_mem_distinct hx)
      exact ⟨a, ha, by unfold sectorOf at hxa; omega⟩
    · obtain ⟨a, ha, hla⟩ := hline hl
      exact ⟨a, ha, by unfold lineOf at hla; omega⟩
  have hbefore : Calm s sb := (calm_dropLags ..).trans (calm_backInvalidate ..)
  have h0 : HeldUnder s.mem u.key pas s0 := by
    obtain ⟨-, -, -, -, hsb, -⟩ := hbefore.1
    have hcow : s0 = sb := by
      simp only [s0, foldl_cow_eq_self (hsb ▸ hsnaps), ite_self]
    exact hcow ▸ h.calm hbefore
  have h1 : HeldUnder s.mem u.key pas s1 := List.foldlRecOn lines _ h0 fun t ht l _ => ht.calm (calm_switchKey t l u.key ht.2.1)
  have h2 : HeldUnder s.mem u.key pas s2 := List.foldlRecOn under _ h1 fun t ht x hx => by
    obtain ⟨a, ha, hxa⟩ := hsec hx
    exact (ht.rekey_eq ha hxa).symm ▸ ht
  have h3 : HeldUnder (Tab.putAll s.mem (fun _ => 0) ws) u.key pas s3 := h2.1 ▸ h2.put _
  generalize Tab.putAll s.mem (fun _ => 0) ws = m at h3 ⊢
  have h4 : HeldUnder m u.key pas s4 := .ite h3 (h3.calm (calm_of_l2 (.refl _) rfl))
  have h5 : HeldUnder m u.key pas s5 := .ite h4 (h4.calm (calm_taint ..))
  have h6 : HeldUnder m u.key pas s6 := by
    simp only [s6]
    split
    · exact h5.calm (calm_updCopies ..)
    · exact h5
  have h7 : HeldUnder m u.key pas (lines.foldl (fun s l => s.bookLine u ws l) s6) := List.foldlRecOn lines _ h6 fun t ht l hl => by
    obtain ⟨a, ha, hla⟩ := hline hl
    exact ht.bookLine ha hla
  exact h7.1

end

end Sys2Proof.Machine

namespace Sys2Proof

/-- Settles O52: with the write's blocks under its key nothing but its own bytes goes to memory, and every write keeps the form. -/
theorem memoryWrites : Obligations.MemoryWrites := by
  refine ⟨fun s u pa bs hsnaps hone hkey a => ?_, fun _ _ _ hs => Machine.Formed.writeAll hs,
    fun n v => ⟨Machine.leNat_leBytes n v, Machine.leBytes_length n v⟩⟩
  have hheld : Machine.HeldUnder s.mem u.key ((bs.zipIdx.map fun e => (pa + e.2, e.1)).map (·.1)) s := by
    refine ⟨rfl, hone, fun b hb x hx => ?_⟩
    simp only [List.map_map, List.mem_map, Function.comp_apply] at hb
    obtain ⟨⟨v, i⟩, hi, rfl⟩ := hb
    exact hkey i x (by simpa using (List.mem_zipIdx hi).2.1) hx
  simp only [Machine.State.byteAt, Machine.State.writeAt, Machine.mem_writeAll hsnaps hheld, Machine.get0_putAll_zipIdx, Nat.add_zero]

end Sys2Proof
end

section
/-! SUPPORT. Invalidations and key requests (R24, R25, R33, R34): what XLINV and KEYCTL leave, and how both end. -/

namespace Sys2Proof.Machine

/-! ### Entries of the TLBs -/

/-- A core without the entries that an XLINV value names. -/
def Core.dropNamed (v : W64) (x : Core) : Core := { x with tlb := x.tlb.filter fun t => !xlinvNames v t }

/-- A die without the entries and nodes that it names. -/
def Die.dropNamed (v : W64) (x : Die) : Die :=
  { x with tlb := x.tlb.filter fun t => !xlinvNames v t, nodes := x.nodes.filter fun n => !xlinvNode v n }

/-- The named entries leave the L1 TLBs. -/
def State.dropNamedL1 (s : State) (v : W64) : State :=
  s.cores.foldl (fun s e => if e.2.tlb.any (xlinvNames v) then s.updCore e.1 (Core.dropNamed v) else s) s

/-- They leave the L2 TLBs and the walk caches. -/
def State.dropNamedL2 (s : State) (v : W64) : State := s.dies.foldl (fun s e => s.updDie e.1 (Die.dropNamed v)) s

/-- A miss as an XLINV value leaves it. -/
def Miss.restarted (v : W64) (m : Miss) : Miss := if m.again v then { m with walking := false, fault := none } else m

/-- The walks that an XLINV value meets start over. -/
def State.restartWalks (s : State) (v : W64) : State :=
  s.dies.foldl (fun s e =>
    let again := (s.die e.1).misses.filter fun m => m.again v
    let s := s.updDie e.1 fun x => { x with misses := x.misses.map (Miss.restarted v) }
    again.foldl (fun s m => s.due (.walkStart e.1 m.part m.page)) s) s

theorem invalidate_eq (s : State) (v : W64) :
    let t := ((s.dropNamedL1 v).dropNamedL2 v).restartWalks v
    s.invalidate v = ({ t with xlinvBusy := true, cmds := t.cmds.map fun (c : Command) => { c with tlb := c.tlb.filter fun t => !xlinvNames v t } }
      ).setReg Mmio.xlinvst 1 := rfl

theorem any_filter_named (v : W64) (l : List TlbEntry) : ((l.filter fun t => !xlinvNames v t).any (xlinvNames v)) = false := by simp

theorem filter_named_of_none {v : W64} {l : List TlbEntry} (h : l.any (xlinvNames v) = false) : (l.filter fun t => !xlinvNames v t) = l := by
  rw [List.any_eq_false] at h
  exact List.filter_eq_self.mpr fun t ht => by simpa using h t ht

theorem core_dropNamedL1 (s : State) (v : W64) (c : Nat) : (s.dropNamedL1 v).core c = (s.core c).dropNamed v :=
  get_foldl_upd (get := State.core) (upd := fun s c => s.updCore c (Core.dropNamed v)) (p := fun x => x.tlb.any (xlinvNames v))
    (fun s c x => State.core_updCore s c x _) (fun x => any_filter_named v x.tlb)
    (fun x h => congrArg (fun l => { x with tlb := l }) (filter_named_of_none h)) c s.cores s fun hneeds =>
      ⟨s.core c, Tab.mem_of_getD_ne fun hreset => by rw [State.core, hreset] at hneeds; exact Bool.noConfusion hneeds, hneeds⟩

/-- A die that is listed twice loses no more than one listed once. -/
theorem tlb_foldl_dropNamed {v : W64} {l : List (Nat × Die)} {s : State} {d : Nat}
    (h : d ∈ l.map (·.1) ∨ (s.die d).tlb.any (xlinvNames v) = false) :
    ((l.foldl (fun s e => s.updDie e.1 (Die.dropNamed v)) s).die d).tlb = (s.die d).tlb.filter fun t => !xlinvNames v t := by
  induction l generalizing s with
  | nil => exact (filter_named_of_none (h.resolve_left List.not_mem_nil)).symm
  | cons e l ih =>
    have hread := State.die_updDie s e.1 d (Die.dropNamed v)
    rw [List.foldl_cons]
    by_cases heq : d = e.1
    · rw [if_pos heq, ← heq] at hread
      have hnone : ((s.updDie e.1 (Die.dropNamed v)).die d).tlb.any (xlinvNames v) = false := by
        rw [← heq, hread]
        exact any_filter_named v _
      rw [ih (.inr hnone), filter_named_of_none hnone, ← heq, hread]
      rfl
    · rw [if_neg heq] at hread
      rw [ih (by rw [hread]; exact h.imp_left fun hmem => (List.mem_cons.1 hmem).resolve_left heq), hread]

theorem tlb_dropNamedL2 (s : State) (v : W64) (d : Nat) : ((s.dropNamedL2 v).die d).tlb = (s.die d).tlb.filter fun t => !xlinvNames v t := by
  refine tlb_foldl_dropNamed ?_
  by_cases hlisted : d ∈ s.dies.map (·.1)
  · exact .inl hlisted
  · exact .inr (by rw [State.die, Tab.getD_of_unlisted _ hlisted]; rfl)

theorem dropNamedL1_keeps {β : Type} {φ : State → β} (h : ∀ s c f, φ (State.updCore s c f) = φ s) (s : State) (v : W64) :
    φ (s.dropNamedL1 v) = φ s :=
  foldl_keeps (fun s e => (apply_ite φ _ _ _).trans (by rw [h, ite_self])) _ s

theorem dropNamedL2_keeps {β : Type} {φ : State → β} (h : ∀ s d f, φ (State.updDie s d f) = φ s) (s : State) (v : W64) :
    φ (s.dropNamedL2 v) = φ s :=
  foldl_keeps (fun s (e : Nat × Die) => h s e.1 (Die.dropNamed v)) s.dies s

/-- What the misses and the due events are no part of stays as walks start over. -/
theorem restartWalks_keeps {β : Type} {φ : State → β} (hdue : ∀ s e, φ (State.due s e) = φ s)
    (hmisses : ∀ s d (f : List Miss → List Miss), φ (State.updDie s d fun x => { x with misses := f x.misses }) = φ s) (s : State) (v : W64) :
    φ (s.restartWalks v) = φ s :=
  foldl_keeps (fun s (e : Nat × Die) =>
    (foldl_keeps (fun s _ => hdue s _) _ _).trans (hmisses s e.1 fun l => l.map (Miss.restarted v))) s.dies s

/-- An event that falls due is the only change. -/
theorem due_keeps {β : Type} {φ : State → β} (h : ∀ (s : State) (l : List Due), φ { s with pending := l } = φ s) (s : State) (e : Due) :
    φ (s.due e) = φ s := by
  rw [State.due]
  split
  · rfl
  · exact h ..

theorem tlb_restartWalks (s : State) (v : W64) (d : Nat) : ((s.restartWalks v).die d).tlb = (s.die d).tlb :=
  restartWalks_keeps (φ := fun s => (s.die d).tlb) (due_keeps (φ := fun s => (s.die d).tlb) fun _ _ => rfl) (fun s k f => by
    rw [State.die_updDie]
    split
    next heq => rw [heq]
    next => rfl) s v

/-- An invalidation leaves what is in no core, die, command or register, and is no due event. -/
theorem invalidate_keeps {β : Type} {φ : State → β} (hcore : ∀ s c f, φ (State.updCore s c f) = φ s)
    (hdie : ∀ s d f, φ (State.updDie s d f) = φ s)
    (hpending : ∀ (s : State) (l : List Due), φ { s with pending := l } = φ s)
    (hlast : ∀ (s : State) (l : List Command) (m : Tab W64), φ { s with xlinvBusy := true, cmds := l, mmio := m } = φ s) (s : State) (v : W64) :
    φ (s.invalidate v) = φ s := by
  rw [invalidate_eq]
  exact (hlast (((s.dropNamedL1 v).dropNamedL2 v).restartWalks v) _ _).trans <|
    (restartWalks_keeps (due_keeps hpending) (fun s d _ => hdie s d _) ..).trans <| (dropNamedL2_keeps hdie ..).trans (dropNamedL1_keeps hcore ..)

theorem tlb_die_invalidate (s : State) (v : W64) (d : Nat) : ((s.invalidate v).die d).tlb = (s.die d).tlb.filter fun t => !xlinvNames v t := by
  have hdies : (s.dropNamedL1 v).die d = s.die d := dropNamedL1_keeps (φ := fun s => s.die d) (fun _ _ _ => rfl) s v
  exact (tlb_restartWalks ((s.dropNamedL1 v).dropNamedL2 v) v d).trans ((tlb_dropNamedL2 ..).trans (by rw [hdies]))

theorem core_invalidate (s : State) (v : W64) (c : Nat) : (s.invalidate v).core c = (s.core c).dropNamed v := by
  have hcores (t : State) : ((t.dropNamedL2 v).restartWalks v).core c = t.core c :=
    (restartWalks_keeps (φ := fun s => s.core c) (due_keeps (φ := fun s => s.core c) fun _ _ => rfl) (fun _ _ _ => rfl) ..).trans
      (dropNamedL2_keeps (φ := fun s => s.core c) (fun _ _ _ => rfl) ..)
  exact (hcores _).trans (core_dropNamedL1 s v c)

/-- What is performed at home leaves the writes that wait for BUSY. -/
theorem xlinvHeld_flushAll (s : State) : s.flushAll.xlinvHeld = s.xlinvHeld := by
  have hclosed : HomeClosed fun t => t.xlinvHeld = s.xlinvHeld :=
    ⟨fun _ _ _ _ _ _ _ _ _ _ _ _ _ _ _ _ _ _ h => h, fun _ _ h => h, fun _ _ h => h⟩
  exact (KeptHome.flushAll ⟨hclosed, rfl⟩).holds

/-! ### XLINV writes -/

theorem exec_xlinv {mk : W64 → Bool → Instr} {scope : Nat} {v : W64} {s : State}
    (hrow : (mk, scope) ∈ [(Instr.xlinvPartition, 0), (.xlinvPage, 1), (.xlinvPartitionAll, 2), (.xlinvKey, 3), (.xlinvAll, 4)])
    (hscope : bits v 2 0 = scope) : exec (mk v true) s = .next (s.xlinv v) := by
  have hrun : exec (mk v true) s = runXlinv scope v true s := by
    simp only [List.mem_cons, Prod.mk.injEq, List.not_mem_nil, or_false] at hrow
    obtain ⟨rfl, rfl⟩ | ⟨rfl, rfl⟩ | ⟨rfl, rfl⟩ | ⟨rfl, rfl⟩ | ⟨rfl, rfl⟩ := hrow <;> rfl
  rw [hrun, runXlinv, supervised, if_pos rfl, if_pos hscope]

/-- A write of a scope of R33 with its reserved bits zero is performed, or held while BUSY is set. -/
theorem xlinv_of_sound {v : W64} {s : State} (hreserved : v &&& 0xFF80000000000FF8 = 0) (hscope : bits v 2 0 ≤ 4)
    (hkey : bits v 2 0 = 3 → bits v 54 28 = 0) :
    s.xlinv v = if s.xlinvBusy then { s with xlinvHeld := s.xlinvHeld ++ [v] } else s.invalidate v := by
  have hclear : clearOf v 0x007FFFFFFFFFF007 = true := clearOf_iff_and_not.2 hreserved
  refine if_neg (not_or.2 ⟨by rw [hclear]; decide, not_or.2 ⟨Nat.not_lt.2 hscope, ?_⟩⟩)
  rintro ⟨hthree, hset⟩
  exact hset (hkey hthree)

/-- The next write that waits is performed. -/
def performHeldXlinv (s : State) : Out :=
  match s.xlinvHeld with
  | [] => .next s
  | v :: r => .next ({ s with xlinvHeld := r }.invalidate v)

theorem exec_xlinvDone {s : State} (hbusy : s.xlinvBusy = true) (hcomplete : s.fab.window = []) :
    exec .xlinvDone s = performHeldXlinv (({ s.flushAll with xlinvBusy := false }).setReg Mmio.xlinvst 0) := by
  have hbusy' : ¬((!s.xlinvBusy) = true) := by rw [hbusy]; exact Bool.false_ne_true
  change execXlinvDone s = _
  exact (if_neg (not_or.2 ⟨hbusy', not_not.2 hcomplete⟩)).trans rfl

/-! ### KEYCTL writes -/

theorem exec_keyctl {mk : W64 → Bool → Instr} {op : Nat} {v : W64} {s : State}
    (hrow : (mk, op) ∈ [(Instr.keyLoad, 0), (.keyErase, 1), (.keyReload, 2)]) (hop : bits v 34 32 = op) :
    exec (mk v true) s = .next (s.keyctl v) := by
  have hrun : exec (mk v true) s = runKey op v true s := by
    simp only [List.mem_cons, Prod.mk.injEq, List.not_mem_nil, or_false] at hrow
    obtain ⟨rfl, rfl⟩ | ⟨rfl, rfl⟩ | ⟨rfl, rfl⟩ := hrow <;> rfl
  rw [hrun, runKey, supervised, if_pos rfl, keyOpOf, if_pos hop]

/-- The fields of KEYCTL as a write leaves them. -/
def keyFields (v old : W64) : W64 := ((v &&& 0x000FFFFF00000000) ||| (old &&& 0xFF000001)) &&& 0x000FFFFFFF000001

/-- A request with GO while none runs is noted. -/
theorem keyctl_of_go {v : W64} {s : State} (hreserved : v &&& 0xFFF0000000FFFFFC = 0) (hop : bits v 34 32 ≤ 2) (hgo : v.getLsbD 1 = true)
    (hidle : (s.reg Mmio.keyctl).getLsbD 0 = false) :
    s.keyctl v = { s with admin := { s.admin with keyReq := some v } }.setReg Mmio.keyctl (keyFields v (s.reg Mmio.keyctl) ||| 1) := by
  have hclear : clearOf v 0x000FFFFFFF000003 = true := clearOf_iff_and_not.2 hreserved
  have hfree : ¬(v.getLsbD 1 = true ∧ (2 < keyOpOf v ∨ (s.reg Mmio.keyctl).getLsbD 0 = true)) := by
    rintro ⟨-, hbad | hbusy⟩
    · exact Nat.not_lt.2 hop hbad
    · exact Bool.false_ne_true (hidle.symm.trans hbusy)
  exact (if_neg (not_or.2 ⟨by rw [hclear]; decide, hfree⟩)).trans (if_pos hgo)

/-! ### The end of a key request -/

theorem exec_keyRequestComplete_of_zero {v : W64} {s : State} (hreq : s.admin.keyReq = some v) (hk : keySlotOf v = 0) :
    exec .keyRequestComplete s = .next (s.keyDone KeyStatus.badslot) := by
  change execKeyRequestComplete s = _
  simp only [execKeyRequestComplete, hreq, hk, if_pos]

theorem exec_keyRequestComplete_inuse {v : W64} {s : State} (hreq : s.admin.keyReq = some v) (hk : keySlotOf v ≠ 0) (hop : keyOpOf v = 0)
    (hused : (s.key (keySlotOf v)).state ≠ .empty) : exec .keyRequestComplete s = .next (s.keyDone KeyStatus.inuse) := by
  change execKeyRequestComplete s = _
  simp only [execKeyRequestComplete, hreq, if_neg hk, hop]

/-- A LOAD without integrity, of an empty slot. -/
theorem exec_keyRequestComplete_load {v : W64} {s : State} (hreq : s.admin.keyReq = some v) (hk : keySlotOf v ≠ 0) (hop : keyOpOf v = 0)
    (hempty : (s.key (keySlotOf v)).state = .empty) (hinteg : v.getLsbD 35 = false) :
    exec .keyRequestComplete s = .next (s.loadKey (keySlotOf v) (bits v 39 36) false) := by
  change execKeyRequestComplete s = _
  simp only [execKeyRequestComplete, hreq, if_neg hk, hop, hempty, hinteg]
  rfl

/-- An ERASE once nothing under the slot is left in a queue. -/
theorem exec_keyRequestComplete_erase {v : W64} {s : State} (hreq : s.admin.keyReq = some v) (hk : keySlotOf v ≠ 0) (hop : keyOpOf v = 1)
    (hused : (s.key (keySlotOf v)).state ≠ .empty) (hdrained : (s.purgeKey (keySlotOf v)).owqUnder (keySlotOf v) = false) :
    exec .keyRequestComplete s = .next (((s.purgeKey (keySlotOf v)).setKey (keySlotOf v) KeySlot.empty).keyDone KeyStatus.ok) := by
  change execKeyRequestComplete s = _
  have hends : ¬(s.purgeKey (keySlotOf v)).owqUnder (keySlotOf v) = true := by rw [hdrained]; exact Bool.false_ne_true
  cases hstate : (s.key (keySlotOf v)).state with
  | empty => exact absurd hstate hused
  | loaded => simp only [execKeyRequestComplete, hreq, if_neg hk, hop, hstate, if_neg hends]
  | failed => simp only [execKeyRequestComplete, hreq, if_neg hk, hop, hstate, if_neg hends]

end Sys2Proof.Machine

namespace Sys2Proof.Claim

open Machine

theorem invalidations : Invalidations := by
  refine ⟨fun s v mk scope hrow hreserved hscope hkey => ?_, fun v e => ?_, ?_⟩
  · have hle : bits v 2 0 ≤ 4 := by
      rw [hscope]
      simp only [List.mem_cons, Prod.mk.injEq, List.not_mem_nil, or_false] at hrow
      omega
    rw [exec_xlinv hrow hscope, xlinv_of_sound hreserved hle fun h => hkey (hscope ▸ h)]
    refine ⟨fun hbusy => by rw [if_pos hbusy], fun hidle => ⟨s.invalidate v, by rw [hidle, if_neg Bool.false_ne_true], ?_⟩⟩
    refine ⟨rfl, ?_, ?_, ?_, tlb_die_invalidate s v, fun c => by rw [core_invalidate]; rfl⟩
    · exact invalidate_keeps (φ := State.mem) (fun _ _ _ => rfl) (fun _ _ _ => rfl) (fun _ _ => rfl) (fun _ _ _ => rfl) s v
    · exact invalidate_keeps (φ := State.wv) (fun _ _ _ => rfl) (fun _ _ _ => rfl) (fun _ _ => rfl) (fun _ _ _ => rfl) s v
    · exact invalidate_keeps (φ := State.st) (fun _ _ _ => rfl) (fun _ _ _ => rfl) (fun _ _ => rfl) (fun _ _ _ => rfl) s v
  · refine ⟨?_, ?_, ?_, ?_⟩ <;> intro hscope <;> simp only [xlinvNames, hscope] <;> rfl
  · intro s hbusy s1
    have hheld : s1.xlinvHeld = s.xlinvHeld := xlinvHeld_flushAll s
    refine ⟨fun howed => if_pos (.inr howed), fun hcomplete hnone => ?_, fun v r hcomplete hnext => ?_⟩
    · rw [exec_xlinvDone hbusy hcomplete, performHeldXlinv, show s1.xlinvHeld = [] from hheld.trans hnone]
    · rw [exec_xlinvDone hbusy hcomplete, performHeldXlinv, show s1.xlinvHeld = v :: r from hheld.trans hnext]

theorem keyRequests : KeyRequests := by
  refine ⟨fun s v mk op hrow hreserved hop hgo hidle => ?_, fun s v hreq => ?_⟩
  · have hle : bits v 34 32 ≤ 2 := by
      rw [hop]
      simp only [List.mem_cons, Prod.mk.injEq, List.not_mem_nil, or_false] at hrow
      omega
    refine ⟨_, (exec_keyctl hrow hop).trans (congrArg _ (keyctl_of_go hreserved hle hgo hidle)), rfl, ?_, rfl, rfl⟩
    rw [State.reg_setReg, if_pos rfl]
    simp
  · intro k
    refine ⟨fun hk => exec_keyRequestComplete_of_zero hreq hk, fun hk hop hused => exec_keyRequestComplete_inuse hreq hk hop hused, ?_, ?_,
      fun hk hop hused hdrained => exec_keyRequestComplete_erase hreq hk hop hused hdrained⟩
    · intro hk hop hempty hinteg b hblob
      rw [exec_keyRequestComplete_load hreq hk hop hempty hinteg, State.loadKey, hblob]
      rfl
    · intro hk hop hempty hinteg hblob
      rw [exec_keyRequestComplete_load hreq hk hop hempty hinteg, State.loadKey, hblob]
      rfl

end Sys2Proof.Claim

namespace Sys2Proof

/-- Settles O36: an XLINV value's entries leave each TLB in turn, and a key request comes to the branch that its operands pick. -/
theorem invalidationsAndKeys : Obligations.InvalidationsAndKeys := ⟨Claim.invalidations, Claim.keyRequests⟩

end Sys2Proof
end

section
/-! SUPPORT. Persistence past the checks (R315 to R319): what each instruction comes to where its sources have landed and nothing stops
it. -/

namespace Sys2Proof.Claim

open Machine

/-- What a PFLUSH of the range from `a` to `a + n` comes to, where `r` is how its pages translate (R29, R315). -/
def pflushPages (f : MF) (s : State) (a n : Nat) (r : List (Nat × TlbEntry) × Option (Nat × Lookup)) : Out :=
  let clear (s : State) : State := { s with st := s.st.cleared }
  let done := if r.1.isEmpty then s else (s.pushPages a n r.1).pin
  match r.2 with
  | some (_, .miss need) =>
    let t := done.park need .read false (kindsOf servesVector)
    .next { t with st := { t.st with flushed := t.st.flushed + r.1.length } }
  | some (_, .trap code addr mask i0 i1) => trapAt (clear done) code addr mask i0 i1 0
  | some (_, .ok _) => .next (s.retire f.h)
  | none => .next ((clear (s.pushPages a n r.1).pin).retire f.h)

theorem exec_pflush_of_range {f : MF} {s : State} (hclear : s.clear (.pflush f)) (hcanonical : noncanon (wordOf s f) = false)
    (hend : (wordOf s f).toNat + ((s.sval f.index 0 none).toNat - 1) < 2 ^ 55) :
    let n := (s.sval f.index 0 none).toNat - 1
    exec (.pflush f) s = pflushPages f (s.landed (.pflush f)) (wordOf s f).toNat n
      ((s.landed (.pflush f)).pagePrefix ((pagesOf (wordOf s f).toNat n).drop s.st.flushed)) := by
  intro n
  change execPflush f s = _
  refine (guarded_landed hclear _).trans (if_neg ?_)
  exact not_or.2 ⟨Bool.not_eq_true _ ▸ hcanonical, Nat.not_le.2 hend⟩

/-- Pages that miss park the stream behind those that are pushed. -/
theorem pflushPages_miss {f : MF} {s : State} {a n p : Nat} {ps : List (Nat × TlbEntry)} {need : List LaneVa} (hps : ps ≠ []) :
    let t := (s.pushPages a n ps).pin.park need .read false (kindsOf servesVector)
    pflushPages f s a n (ps, some (p, .miss need)) = .next { t with st := { t.st with flushed := t.st.flushed + ps.length } } := by
  intro t
  simp only [pflushPages, List.isEmpty_eq_false_iff.2 hps]
  rfl

theorem miss_st (s : State) (d p va : Nat) (a : Acc) (path : Nat) (who : W32) : (s.miss d p va a path who).st = s.st := by
  rw [State.miss]
  split
  · rfl
  · exact due_keeps (φ := State.st) (fun _ _ => rfl) ..

/-- A stream that parks keeps its progress through a range. -/
theorem park_flushed (s : State) (need : List LaneVa) (a : Acc) (fetch : Bool) (kinds : List PageKind) :
    (s.park need a fetch kinds).st.flushed = s.st.flushed := by
  have hmisses : (need.foldl (fun s l => s.miss (dieOfCore s.sq.core) s.sq.inst.part l.2.toNat a 0 s.whoCode) s).st = s.st :=
    List.foldlRecOn (motive := fun t : State => t.st = s.st) need _ rfl fun t ht l _ => (miss_st ..).trans ht
  simp only [State.park, State.hold, hmisses]

theorem persistInstructions : PersistInstructions := by
  refine ⟨?_, ?_, ?_, ?_⟩
  · intro f s hclear s0 a n hcanonical hend r s1
    have hexec : exec (.pflush f) s = pflushPages f s0 a.toNat n r := exec_pflush_of_range hclear hcanonical hend
    refine ⟨fun htranslated => ?_, fun p need hmiss hsome => ?_⟩
    · have hr : r = (r.1, none) := Prod.ext rfl htranslated
      exact hexec.trans ((congrArg (pflushPages f s0 a.toNat n) hr).trans rfl)
    · have hr : r = (r.1, some (p, .miss need)) := Prod.ext rfl hmiss
      refine ⟨_, hexec.trans ((congrArg (pflushPages f s0 a.toNat n) hr).trans (pflushPages_miss hsome)), rfl, ?_⟩
      exact congrArg (· + r.1.length) (park_flushed s1 need .read false _)
  · intro f s xs hclear s0 hplaces s1
    change execPflushv f s = _
    refine (guarded_landed hclear _).trans ?_
    exact withPlaces_some hplaces fun s xs =>
      .next (((linesOf xs).foldl (fun s l => if l.2.p then s.pushLine l.1 else s) s.pin).retire f.h)
  · intro f s hclear s0
    change execPbar f s = _
    refine (guarded_landed hclear _).trans ?_
    exact (apply_ite Host.Outcome.next ..).symm
  · intro f s hclear s0
    change execPstat f s = _
    exact guarded_landed hclear _

theorem stepAndSnap : StepAndSnap := by
  refine ⟨?_, ?_⟩
  · intro f s hclear s0
    change (_ → execStepset f s = _) ∧ (_ → _ → execStepset f s = _) ∧ (_ → _ → execStepset f s = _)
    simp only [execStepset, show guarded (f.named Rule.stepset) s _ = _ from guarded_landed hclear _]
    refine ⟨fun hbusy => if_pos hbusy, fun hidle hout => ?_, fun hidle hin => ?_⟩
    · exact (if_neg (Bool.not_eq_true _ ▸ hidle)).trans (if_pos hout)
    · exact (if_neg (Bool.not_eq_true _ ▸ hidle)).trans (if_neg (Bool.not_eq_true _ ▸ hin))
  · intro f s hclear s0 q n
    refine ⟨fun hrefused => ?_, fun haccepted => ?_⟩ <;> change execSnap f s = _
    · exact (guarded_landed hclear _).trans (if_pos hrefused)
    · exact (guarded_landed hclear _).trans (if_neg (not_not.2 haccepted))

end Sys2Proof.Claim

namespace Sys2Proof

/-- Settles O24: each instruction past its checks is the operation that the statement names. -/
theorem persistenceInstructions : Obligations.PersistenceInstructions := ⟨Claim.persistInstructions, Claim.stepAndSnap⟩

end Sys2Proof
end

section
/-! SUPPORT. Walks, fault records and responses to them (R26 to R37), past the conditions under which each event does something. -/

namespace Sys2Proof.Machine

/-! ### Walks (R26, R27, R29) -/

theorem exec_walkStart {d : BitVec 2} {p : BitVec 4} {g : BitVec 39} {s : State} {m : Miss}
    (hmiss : s.missAt d.toNat p.toNat g.toNat = some m) (hidle : m.walking = false) (hsound : m.fault = none)
    (hfree : ((s.die d.toNat).misses.filter (·.walking)).length < walkers) :
    exec (.walkStart d p g) s = .next ((s.updMiss d.toNat p.toNat g.toNat fun m => { m with walking := true }).due
      (.walkComplete d.toNat p.toNat g.toNat)) := by
  change execWalkStart d p g s = _
  simp only [execWalkStart, hmiss]
  exact if_neg (not_or.2 ⟨by simp [hidle], not_or.2 ⟨by simp [hsound], Nat.not_le.2 hfree⟩⟩)

theorem exec_walkComplete_leaf {d : BitVec 2} {p : BitVec 4} {g : BitVec 39} {s : State} {m : Miss} {a : Nat} {e : W64} {level : Nat}
    {ns : List WalkNode} (hmiss : s.missAt d.toNat p.toNat g.toNat = some m) (hwalking : m.walking = true)
    (hwalk : s.walk (s.die d.toNat).nodes m.part m.va = .leaf a e level ns) :
    exec (.walkComplete d p g) s = .next (s.walkLeaf d.toNat m a e level ns) := by
  change execWalkComplete d p g s = _
  simp only [execWalkComplete, hmiss, hwalking, hwalk]
  rfl

theorem exec_walkComplete_fault {d : BitVec 2} {p : BitVec 4} {g : BitVec 39} {s : State} {m : Miss} {f : WalkFault}
    (hmiss : s.missAt d.toNat p.toNat g.toNat = some m) (hwalking : m.walking = true)
    (hwalk : s.walk (s.die d.toNat).nodes m.part m.va = .fault f) :
    exec (.walkComplete d p g) s = .next ((s.updMiss d.toNat m.part m.page fun m => { m with walking := false, fault := some f }).due
      (.faultRecord d.toNat m.part m.page)) := by
  change execWalkComplete d p g s = _
  simp only [execWalkComplete, hmiss, hwalking, hwalk]
  rfl

/-! ### Records (R31, R32) -/

/-- A fault's record at the head of its die's ring, and the record that it opens. -/
def State.openRecord (s : State) (d : Nat) (m : Miss) (f : WalkFault) : State :=
  let base := s.reg (Mmio.xlrbase d)
  let head := s.reg (Mmio.xlrhead d)
  let s1 := (s.writeAt Under.device (bits base 51 18 * 2 ^ 18 + 32 * (bits head 31 0 % xlrSize))
    (leBytes 8 m.va ++ bytes64 (s.recordInfo m f) ++ bytes64 f.entry ++ bytes64 s.gtb)).setReg (Mmio.xlrhead d)
      (BitVec.ofNat 64 ((bits head 31 0 + 1) % 2 ^ 32))
  { s1 with faults := s1.faults ++ [{ part := m.part, page := m.page, info := s.recordInfo m f, entry := f.entry }] }

theorem exec_faultRecordWrite {d : BitVec 2} {p : BitVec 4} {g : BitVec 39} {s : State} {m : Miss} {f : WalkFault}
    (hmiss : s.missAt d.toNat p.toNat g.toNat = some m) (hfault : m.fault = some f) (hnew : m.recorded = false)
    (hclosed : s.recordOpen m.part m.page = false) (hring : (s.reg (Mmio.xlrbase d.toNat)).getLsbD 0 = true)
    (hroom : ringHeld (s.reg (Mmio.xlrhead d.toNat)) (s.reg (Mmio.xlrtail d.toNat)) < xlrSize) :
    exec (.faultRecordWrite d p g) s =
      .next ((s.openRecord d.toNat m f).updMiss d.toNat m.part m.page fun m => { m with recorded := true }) := by
  change execFaultRecordWrite d p g s = _
  simp only [execFaultRecordWrite, hmiss, hfault, hnew, hclosed]
  exact (if_neg (not_or.2 ⟨by simp [hring], Nat.not_le.2 hroom⟩)).trans rfl

/-- A miss on a page whose record is open waits for its answer. -/
theorem miss_of_recordOpen {s : State} {p va : Nat} (h : s.recordOpen p (pageOf va) = true) (k : Nat) (a : Acc) (path : Nat) (who : W32) :
    s.miss k p va a path who = s := if_pos (.inl h)

/-! ### Responses (R33, R35 to R37) -/

theorem exec_faultFix (s : State) (v : W64) : exec (.faultFix v true) s = .next (s.fix v) := rfl
theorem exec_faultDeny (s : State) (v : W64) : exec (.faultDeny v true) s = .next (s.deny v) := rfl

/-- The state in which an answer to a record finds the machine: the record is closed, and its page's misses are gone. -/
def State.closeRecord (s : State) (o : OpenFault) : State :=
  ({ s with faults := s.faults.filter fun x => !(x.part == o.part && x.page == o.page) }).dropMisses o.part o.page

theorem respond_of_open {s : State} {act : Nat} {v : W64} {k : State → OpenFault → State} {o : OpenFault}
    (hreserved : v &&& 0xFF80000000000FFC = 0) (hact : bits v 1 0 = act)
    (hopen : (s.faults.find? fun o => o.part == bits v 15 12 && o.page == bits v 54 16) = some o) :
    s.respond act v k = k (s.closeRecord o) o := by
  have hclear : clearOf v xlrespMask = true := clearOf_iff_and_not.2 hreserved
  have hsound : ¬((!clearOf v xlrespMask) = true ∨ bits v 1 0 ≠ act) := not_or.2 ⟨by simp [hclear], not_not.2 hact⟩
  simp only [State.respond, if_neg hsound, respPart, respPage, hopen]
  rfl

theorem respond_of_none {s : State} {act : Nat} {v : W64} {k : State → OpenFault → State}
    (hreserved : v &&& 0xFF80000000000FFC = 0) (hact : bits v 1 0 = act)
    (hnone : (s.faults.find? fun o => o.part == bits v 15 12 && o.page == bits v 54 16) = none) :
    s.respond act v k = s.note (.noRecord (bits v 15 12) (bits v 54 16)) := by
  have hclear : clearOf v xlrespMask = true := clearOf_iff_and_not.2 hreserved
  have hsound : ¬((!clearOf v xlrespMask) = true ∨ bits v 1 0 ≠ act) := not_or.2 ⟨by simp [hclear], not_not.2 hact⟩
  simp only [State.respond, if_neg hsound, respPart, respPage, hnone]

theorem find_record_eq_none {l : List OpenFault} {part page : Nat} (h : ∀ o ∈ l, ¬(o.part = part ∧ o.page = page)) :
    (l.find? fun o => o.part == part && o.page == page) = none :=
  List.find?_eq_none.2 fun o ho => by simpa using h o ho

/-! ### Parked streams (R30) -/

/-- A leaf of pages that a parked stream waits on: it waits for the others, if any. -/
theorem wake_of_parked {x : Stream} {hit : Nat → Bool} {ro : Bool} {need : List (Nat × Nat)} {fetch : Bool} {a : Acc} {ks : List PageKind}
    (hwait : x.wait = .parked need fetch a ks) (hhit : x.pend.any hit = true) :
    let missing := x.pend.filter fun p => !hit p
    (x.wake hit ro false).pend = missing ∧ (x.wake hit ro false).wait = if missing.isEmpty then .none else x.wait := by
  intro missing
  have hmine : (x.pend.filter hit).isEmpty = false := by
    rw [List.isEmpty_eq_false_iff, Ne, List.filter_eq_nil_iff]
    simpa using hhit
  simp only [Stream.wake, hmine, Bool.false_and, Bool.false_eq_true, if_false, hwait, Wait.come, Bool.or_false]
  exact ⟨rfl, rfl⟩

end Sys2Proof.Machine

namespace Sys2Proof.Claim

open Machine

theorem pageWalks : PageWalks := by
  intro d p g s m hmiss
  refine ⟨fun hidle hsound hfree => exec_walkStart hmiss hidle hsound hfree,
    fun hwalking => ⟨fun a e level ns hwalk => ?_, fun f hwalk => ?_⟩, fun f hfault hnew hall => ?_, fun k a path who hopen => ?_⟩
  · exact exec_walkComplete_leaf hmiss hwalking hwalk
  · exact exec_walkComplete_fault hmiss hwalking hwalk
  · intro base head hring hroom
    have hclosed : s.recordOpen m.part m.page = false := by
      rw [State.recordOpen, List.any_eq_not_all_not, hall]
      rfl
    exact exec_faultRecordWrite hmiss hfault hnew hclosed hring hroom
  · split
    next hpage => exact miss_of_recordOpen (hpage ▸ hopen) k a path who
    next => rfl

theorem faultResponses : FaultResponses := by
  intro s v hreserved
  refine ⟨fun o hopen => ?_, fun hnone hfix => ?_, fun hit x need fetch a ks ro hwait hhit => ?_⟩
  · intro s0 s1
    refine ⟨fun hfix => ?_, fun hdeny => ?_⟩
    · rw [exec_faultFix, State.fix, respond_of_open hreserved hfix hopen]
      rfl
    · rw [exec_faultDeny, State.deny, respond_of_open hreserved hdeny hopen]
      rfl
  · rw [exec_faultFix, State.fix, respond_of_none hreserved hfix (find_record_eq_none hnone)]
  · obtain ⟨hpend, hwoken⟩ := wake_of_parked (ro := ro) hwait hhit
    refine ⟨fun hall => ?_, fun ⟨p, hp, hmissing⟩ => ⟨?_, hpend⟩⟩
    · rw [hwoken, if_pos]
      simpa using hall
    · rw [hwoken, if_neg]
      simpa using ⟨p, hp, hmissing⟩

end Sys2Proof.Claim

namespace Sys2Proof

/-- Settles O35: each event past its conditions, and a response by whether its record is open. -/
theorem translationWalks : Obligations.TranslationWalks := ⟨Claim.pageWalks, Claim.faultResponses⟩

end Sys2Proof
end
